-- ==== Sys2Proof/Word.lean ====
section
/-! DEFINITION. The words the manual treats as bits, and their plainest arithmetic. -/
namespace Sys2Proof

/-- A 32-bit register word (R14). -/
abbrev Word := BitVec 32

/-- One byte. -/
abbrev Byte := BitVec 8

/-- The 32-bit word of a number, upper bits dropped. -/
abbrev w32 (n : Nat) : Word := BitVec.ofNat 32 n

/-- The byte of a number, upper bits dropped. -/
abbrev b8 (n : Nat) : Byte := BitVec.ofNat 8 n

/-- A Bool as the number 0 or 1. -/
def bit (b : Bool) : Nat := if b then 1 else 0

/-- Field [lo + len - 1 : lo] of a number. -/
def fld (n lo len : Nat) : Nat := n / 2 ^ lo % 2 ^ len

/-- Bit `i` of a number. -/
def tb (n i : Nat) : Bool := Nat.testBit n i

end Sys2Proof
end

