-- ==== Sys2Proof/Syntax.lean ====
section
/-! DEFINITION. The commands the block takes: the rows of the manual's table of operations and
events, each with the operands its meaning needs. Values that the outside world fixes (an analog
measurement, a duration shorter than a tick, the result of a program the manual does not describe)
are operands (log entry 2). -/
namespace Sys2Proof

/-- A CAN frame on the bus (R329): identifier with its base part in [28:18]. -/
structure CanFrame where
  ide : Bool
  id : Nat
  fdf : Bool
  brs : Bool
  esi : Bool
  rtr : Bool
  dlc : Nat
  data : List Byte
  deriving DecidableEq, Repr

/-- An error that ends a frame (R341, R351): LEC code, whether it fell into the data phase, and whether an exception
of ISO 11898-1 leaves TEC as it is, and how many further increments by 8 follow (bit errors while the error or overload flag
is sent, each 8 dominant bits after it). -/
structure CanError where
  code : Nat
  dataPhase : Bool
  exempt : Bool
  more : Nat
  own : Bool := false
  deriving DecidableEq, Repr

/-- Messages of a PTP port (R400). -/
inductive PtpKind where
  | sync | followUp | announce | delayReq | delayResp | pdelayReq | pdelayResp | pdelayFollowUp | other
  deriving DecidableEq, Repr

/-- An outcome of the best master clock algorithm, which IEEE 1588 gives and the manual does not (R401, log entry 2):
portState of each port, the slave port, the grandmaster role and identity, the announced UTC flag and offset, PTP time at
the outcome and the time since the last edge. -/
structure PtpRoles where
  states : List Nat
  slave : Option Nat
  gm : Bool
  gmId : Nat
  utcValid : Bool
  utcOffset : Nat := 0
  ptpNs : Nat := 0
  sinceNs : Nat := 0
  deriving DecidableEq, Repr

/-- A received PTP message with what IEEE 1588 makes of it (R395, R400, log entry 2): the offset in ns and FREQ when it
completes a measurement, the path delay, PTP time at its receipt and the time since the last edge, new roles. -/
structure PtpMessage where
  domain : Nat
  kind : PtpKind
  twoStep : Bool
  offset : Option Int
  freq : Int
  delay : Option Nat
  ptpNs : Nat
  sinceNs : Nat
  roles : Option PtpRoles
  deriving DecidableEq, Repr

/-- What a MAC's line brings (R366, R370): a beacon of another PLCA node, or a frame without its FCS, with its length
on the line, whether the FCS and the whole bytes are right, whether the FIFO filled before its end, its time stamp and
the bytes in the FIFO after it. -/
inductive MacRx where
  | beacon
  | frame (bytes : List Byte) (len fcs : Nat) (whole overflow : Bool) (stamp fill : Nat)
  deriving DecidableEq, Repr

/-- Where an uncorrectable memory error lies (R192): the state of a task slot; a code window, with the strokes that met
it; a descriptor ring or queue of a MAC, a receive or transmit buffer, a CAN receive area; the doubled areas 4 and 5,
with one copy or both damaged; MRAM: a checkpoint bank, the journal record of an edge, an event record, a retained window
of a slot, elsewhere. -/
inductive MemHit where
  | taskState (slot : Fin 64)
  | window (slots : List Nat)
  | macRing (mac : Fin 10) (queue : Bool) (index : Nat)
  | macRxBuffer (mac : Fin 10) (queue : Nat)
  | macTxBuffer (mac : Fin 10) (ring : Nat)
  | canArea (channel : Fin 4) (queue : Fin 2)
  | systemData (both : Bool)
  | imageStore (both : Bool)
  | bank (b : Bool)
  | journal (edge : Nat)
  | eventRecord (recno : Nat)
  | retained (slot : Fin 64)
  | otherMram
  deriving DecidableEq, Repr

/-- What an ALIGN message is for (R526): a join, with whether its statement verifies (R480, R523), an admission to a
level, a refusal with its reason, a heartbeat or the answer to one. -/
inductive AlignKind where
  | join (attested : Bool)
  | admission (level : Nat)
  | refuse (reason : Nat)
  | beat
  deriving DecidableEq, Repr

/-- The content of an ALIGN message (R524). -/
structure AlignMsg where
  kind : AlignKind
  role : Nat
  identity : List Byte
  origin : Nat
  tick : Nat
  deriving DecidableEq, Repr

/-- A published point (R520, R527). -/
structure PubEntry where
  point : Nat
  tenant : Nat
  typ : Nat
  pub : Bool
  deriving DecidableEq, Repr

/-- A DIRECTORY message (R527, R528): a publication, a read request of a node and tenant, or its answer, none for
NOT_FOUND. -/
inductive DirMsg where
  | publish (entries : List PubEntry)
  | request (node tenant : Nat) (service : Bool) (target point : Nat)
  | value (node target point : Nat) (entry : Option (List Byte))
  deriving DecidableEq, Repr

/-- An ATTEST message (R524, R479). -/
inductive AttestMsg where
  | nonce (n : List Byte)
  | statement (st : List Byte)
  deriving DecidableEq, Repr

/-- An UPDATE_ORCH message (R524): a write to UPD, SYS_MODE_REQ or the key mailbox, or a status. -/
inductive OrchMsg where
  | write (addr v : Nat)
  | status (n : Nat)
  deriving DecidableEq, Repr

/-- The body of a Marzin message (R524, R525, R529). -/
inductive MarzinBody where
  | align (a : AlignMsg)
  | directory (d : DirMsg)
  | event (rec_ : List Byte) (recno : Nat)
  | attest (a : AttestMsg)
  | orch (o : OrchMsg)
  | cause (applyTn : Nat) (entries : List (Nat × BitVec 64))
  | notice (kind value : Nat)
  | ack (cls seq status : Nat)
  deriving DecidableEq, Repr

/-- The header of a received Marzin message (R523): `valid` says that MAGIC, VERSION and TAG are right (log entry 2);
`len` is LENGTH, `stamp` the receive time stamp of the copy in ns of the time base (R529), `addr` the source address of the
datagram, `raw` the bytes of a body that the manual gives no layout. A head whose SENDER is this module's own NODE_ID stands
for a message that its service initiator hands to the HIE block for sending (log entry 18). -/
structure MarzinHead where
  valid : Bool
  sender : Nat
  seq : Nat
  ackReq : Bool
  weight : Nat
  origin : Nat
  drawer : Nat
  dest : Nat
  len : Nat
  stamp : Nat := 0
  addr : List Byte := []
  raw : List Byte := []
  deriving DecidableEq, Repr

/-- Who makes an access (R34): a crew core, a DMA engine for a drawer or for the service initiator (none), or the
service initiator. -/
inductive Initiator where
  | core (c : Fin 16)
  | dma (owner : Option (Fin 32))
  | service
  deriving DecidableEq, Repr

/-- Mode of an evaluation (R286). -/
inductive LoopMode where
  | auto | manual | tracking | reacting
  deriving DecidableEq, Repr

/-- What an evaluation of a loop slot reads and leaves (R286). -/
structure LoopDyn where
  /-- x1, x2, y1, y2 of each section (R285), reset 0 -/
  hist : List (Int × Int × Int × Int) := []
  /-- v of the previous evaluation, Q8.24 -/
  vPrev : Int := 0
  prevMode : LoopMode := .auto
  pvn : Int := 0
  spn : Int := 0
  lastTick : Option Nat := none
  lastValue : Option Int := none
  staleCnt : Nat := 0
  frzCnt : Nat := 0
  okCnt : Nat := 0
  lost : Bool := false
  /-- 2 bits, last cause declared (R302) -/
  cause : Nat := 0
  satHi : Bool := false
  satLo : Bool := false
  rateLim : Bool := false
  spHeld : Bool := false
  deriving DecidableEq, Repr

/-- What a drive wrote outside the process image, in order: the bytes of its retained windows by byte offset, and those of
its read-write DRAM windows by address, its working copy (R150, R180). -/
structure DriveWrites where
  retained : List (Nat × Byte)
  state : List (Nat × Byte)
  deriving DecidableEq, Repr

/-- What a stroke that replays gives: the digest of its write set, and the bytes it wrote to its read-write DRAM windows by
address (R180, R195). -/
structure ReplayEnd where
  digest : BitVec 64
  state : List (Nat × Byte)
  deriving DecidableEq, Repr

/-- A stroke that the replay of a hot restart runs (R194, R204), released at edge K + `edge`: the digest of its write set,
how many messages it took, and the staged writes of its group when it was committed. -/
structure HotStroke where
  edge : Nat
  slot : Nat
  digest : BitVec 64
  taken : Nat
  staged : List (Nat × BitVec 32)
  deriving DecidableEq, Repr

/-- The replay of a hot restart from a bank (R204, log entry 2): what running the program gives, which the records do not
hold (R184): the strokes in the order of their releases, and the bytes that they leave in the retained windows and in the
read-write DRAM windows at E, by address. -/
structure HotReplay where
  bankB : Bool
  strokes : List HotStroke
  retained : List (Nat × Byte)
  state : List (Nat × Byte)
  deriving DecidableEq, Repr

/-- What the outside world gives at a tick edge (log entry 2): VSYS in 10 mV, the board temperature in 0.1 °C, the input
currents in 10 µA, the output currents in mA, the groups' voltages in 10 mV and currents in 20 mA, the pins of the
outputs; the means of the conversion windows that end, by channel (R262); the start delays of the markers in µs, by
medium (R311); the cores that do not leave gating (R66); the commit's duration in ns; the time from VSYS arrival or
reset release in ms; wear of the NAND above 80 % (R56). -/
structure EdgeIn where
  vsys : Nat
  temp : Int
  inCurrent : List Nat
  outCurrent : List Nat
  grpVolt : List Nat
  grpCurrent : List Nat
  pins : Nat
  conv : List (Nat × Int)
  delays : List (Nat × Nat)
  wakeFail : List (Fin 16)
  commitNs : Nat
  bootMs : Nat
  nandWorn : Bool
  deriving DecidableEq, Repr

/-- What a reset release finds outside the module (R412, R416, R435): event records that had not reached MRAM, VBAK in
10 mV. -/
structure ReleaseIn where
  lost : Nat := 0
  vbak : Nat := 0
  deriving DecidableEq, Repr

/-- THE COMMANDS of the module: one constructor for each row of the table of operations and events. -/
inductive Instr where
  /-- `VSYS_ARRIVES` (R64). -/
  | vsysArrives
  /-- `RESET_RELEASE` (R62). -/
  | resetRelease (lost : ReleaseIn) (torn : Bool)
  /-- `JIG_CONFIG_READ` (R225). -/
  | jigConfigRead (flips : List (Nat × Byte))
  /-- `PLL_LOCKED` (R64). -/
  | pllLocked
  /-- `BOOT_SELF_TEST_DONE` (R203). -/
  | bootSelfTestDone (failedCores : Fin 65536) (nandWorn : Bool)
  /-- `CARCASS_LOAD_DONE` (R99). -/
  | carcassLoadDone (journalTorn : Nat) (jigReadbackOk : Bool) (retainBad : List (Fin 64)) (hot : List HotReplay)
  /-- `POWER_FAIL_WARNING` (R59). -/
  | powerFailWarning (vsys : Nat)
  /-- `NAND_PAGE_DONE_PAUSE` (R59). -/
  | nandPageDonePause
  /-- `BRACE_FLUSH_DONE` (R59). -/
  | braceFlushDone
  /-- `WARNING_RELEASE_CROSSING` (R60). -/
  | warningReleaseCrossing
  /-- `BRACE_END` (R60). -/
  | braceEnd (units lowest : Nat)
  /-- `BRACE_LONG` (R60). -/
  | braceLong (lowest : Nat)
  /-- `VSYS_RESET_THRESHOLD` (R33). -/
  | vsysResetThreshold
  /-- `COX_LOCKSTEP_MISMATCH` (R21). -/
  | coxLockstepMismatch
  /-- `COX_WATCHDOG_EXPIRY` (R61). -/
  | coxWatchdogExpiry
  /-- `PLL_LOSS` (R61). -/
  | pllLoss
  /-- `SERVICE_RESET` (R75). -/
  | serviceReset (v : Nat)
  /-- `HOLD_REQUEST` (R70). -/
  | holdRequest (key : Nat)
  /-- `RESUME_REQUEST` (R70). -/
  | resumeRequest (key : Nat)
  /-- `ECC_CORRECTED_ERROR` (R56). -/
  | eccCorrectedError
  /-- `LINK_DOWN_TIMEOUT` (R56). -/
  | linkDownTimeout (port : Fin 2)
  /-- `LINK_DOWN_CLEAR` (R56). -/
  | linkDownClear
  /-- `VBAK_LOW_CROSSING` (R56). -/
  | vbakLowCrossing
  /-- `VBAK_LOW_RELEASE` (R56). -/
  | vbakLowRelease
  /-- `FIRE_WINDOW_SET` (R574). -/
  | fireWindowSet (temp : Int)
  /-- `FIRE_WINDOW_CLEAR` (R574). -/
  | fireWindowClear (temp : Int)
  /-- `FIRE_WINDOW_OVERTEMP` (R575). -/
  | fireWindowOvertemp (temp : Int)
  /-- `FIRE_WINDOW_TIME_LIMIT` (R575). -/
  | fireWindowTimeLimit (temp : Int)
  /-- `TEMP_EXCURSION` (R575). -/
  | tempExcursion (temp : Int)
  /-- `TEMP_EXCURSION_END` (R575). -/
  | tempExcursionEnd
  /-- `CORE_WAKE` (R66). -/
  | coreWake (core : Fin 16)
  /-- `TICK_EDGE` (R28). -/
  | tickEdge (x : EdgeIn)
  /-- `STROKE_RETURN` (R112). -/
  | strokeReturn (core : Fin 16) (driveUs work : Nat) (wrote : DriveWrites)
  /-- `BUDGET_EXHAUSTED` (R125). -/
  | budgetExhausted (core : Fin 16)
  /-- `WRITE_VIEW_WRITE` (R152). -/
  | writeViewWrite (core : Fin 16) (point off : Nat) (bs : List Byte)
  /-- `SEND` (R159). -/
  | send (core : Fin 16) (dest : Nat) (payload : List Byte)
  /-- `RECEIVE` (R158). -/
  | receive (core : Fin 16)
  /-- `INBOX_COUNT` (R158). -/
  | inboxCount (core : Fin 16)
  /-- `WRITE_STATUS` (R152). -/
  | writeStatus (core : Fin 16)
  /-- `STROKE_INFO` (R119). -/
  | strokeInfo (core : Fin 16)
  /-- `GROUP_OPEN` (R164). -/
  | groupOpen (core : Fin 16) (v : Nat)
  /-- `GROUP_COMMIT` (R164). -/
  | groupCommit (core : Fin 16) (v : Nat)
  /-- `GROUP_ABORT` (R164). -/
  | groupAbort (core : Fin 16) (v : Nat)
  /-- `STAGED_WRITE` (R164). -/
  | stagedWrite (by_ : Option (Fin 16)) (addr v : BitVec 32)
  /-- `EDGE_DIGEST_LATCH` (R175). -/
  | edgeDigestLatch
  /-- `TN_LATCH` (R109). -/
  | tnLatch
  /-- `JOURNAL_RECORD_WRITE` (R182). -/
  | journalRecordWrite
  /-- `CHECKPOINT_COMPLETE` (R189). -/
  | checkpointComplete (duration : Nat) (failAt : Option Nat)
  /-- `CORE_HANG` (R190). -/
  | coreHang (core : Fin 16)
  /-- `CORE_CACHE_ECC` (R190). -/
  | coreCacheEcc (core : Fin 16)
  /-- `CORE_MACHINE_CHECK` (R190). -/
  | coreMachineCheck (core : Fin 16)
  /-- `TAKEOVER_COPIES_LOADED` (R194). -/
  | takeoverCopiesLoaded (seat : Fin 16) (us : Nat)
  /-- `REPLAY_STROKE_DONE` (R195). -/
  | replayStrokeDone (seat : Fin 16) (slot : Fin 64) (tn : Nat) (x : ReplayEnd) (us : Nat)
  /-- `MEMORY_UNCORRECTABLE` (R192). -/
  | memoryUncorrectable (hit : MemHit) (page : Nat)
  /-- `SETTLEMENT_DONE` (R197). -/
  | settlementDone (slot : Fin 64) (matched : Option (Fin 16)) (us : Nat)
  /-- `SEAT_SELF_TEST` (R200). -/
  | seatSelfTest (seat : Fin 16)
  /-- `SEAT_SELF_TEST_DONE` (R200). -/
  | seatSelfTestDone (seat : Fin 16) (passed : Bool)
  /-- `DI_COUPLER_CHANGE` (R215). -/
  | diCouplerChange (input : Fin 32) (level : Bool)
  /-- `JIG_SCRUB` (R224). -/
  | jigScrub (mram matrix : List (Nat × Byte))
  /-- `JIG_COPY_ADOPT` (R104). -/
  | jigCopyAdopt
  /-- `JIG_LATCH_CLR` (R231). -/
  | jigLatchClr (v : Nat)
  /-- `DI_FILTER_SETTLED` (R235). -/
  | diFilterSettled (input : Fin 32)
  /-- `WIRE_OPEN` (R237). -/
  | wireOpen (input : Fin 32) (current : Nat)
  /-- `WIRE_INTACT` (R237). -/
  | wireIntact (input : Fin 32) (current : Nat)
  /-- `DO_OVERLOAD` (R242). -/
  | doOverload (output : Fin 32) (currentMa : Nat)
  /-- `DO_OVERLOAD_CLEAR` (R242). -/
  | doOverloadClear (output : Fin 32)
  /-- `DO_THERMAL_SHUTDOWN` (R242). -/
  | doThermalShutdown (output : Fin 32)
  /-- `DO_THERMAL_RETRY` (R243). -/
  | doThermalRetry (output : Fin 32)
  /-- `DO_RETRIES_RESET` (R243). -/
  | doRetriesReset (output : Fin 32)
  /-- `DO_OPEN_LOAD_ON` (R242). -/
  | doOpenLoadOn (output : Fin 32)
  /-- `DO_OPEN_LOAD_OFF` (R242). -/
  | doOpenLoadOff (output : Fin 32)
  /-- `DO_OPEN_LOAD_CLEAR` (R242). -/
  | doOpenLoadClear (output : Fin 32)
  /-- `DO_EXT_DRIVE_OFF` (R242). -/
  | doExtDriveOff (output : Fin 32)
  /-- `DO_EXT_DRIVE_REVERSE` (R242). -/
  | doExtDriveReverse (output : Fin 32)
  /-- `DO_EXT_DRIVE_CLEAR` (R242). -/
  | doExtDriveClear (output : Fin 32)
  /-- `DO_DIAG_BLANK_END` (R245). -/
  | doDiagBlankEnd (output : Fin 32)
  /-- `GROUP_TRIP` (R244). -/
  | groupTrip (group : Fin 4) (current : Nat)
  /-- `GROUP_TRIP_RETRY` (R244). -/
  | groupTripRetry (group : Fin 4)
  /-- `GROUP_TRIP_RETRIES_RESET` (R244). -/
  | groupTripRetriesReset (group : Fin 4)
  /-- `GROUP_LOW_WARNING` (R247). -/
  | groupLowWarning (group : Fin 4) (volts : Nat)
  /-- `GROUP_LOW_RELEASE` (R247). -/
  | groupLowRelease (group : Fin 4) (volts : Nat)
  /-- `GROUP_UNPOWERED` (R247). -/
  | groupUnpowered (group : Fin 4) (volts : Nat)
  /-- `GROUP_POWERED_AGAIN` (R247). -/
  | groupPoweredAgain (group : Fin 4) (volts : Nat)
  /-- `DO_CHANNEL_CLEAR` (R258). -/
  | doChannelClear (output : Fin 32) (v : Nat) (cooled : Bool)
  /-- `DO_GROUP_CLEAR` (R258). -/
  | doGroupClear (v : Nat)
  /-- `DO_RESET` (R258). -/
  | doReset (drawer : Fin 32) (output : Fin 32) (cooled : Bool)
  /-- `REFERENCE_CHECK` (R265). -/
  | referenceCheck (channel : Fin 16) (passed : Bool)
  /-- `AO_OVERLOAD` (R268). -/
  | aoOverload (channel : Fin 16)
  /-- `AO_OVERLOAD_CLEAR` (R268). -/
  | aoOverloadClear (channel : Fin 16)
  /-- `AO_OPEN_LOOP` (R268). -/
  | aoOpenLoop (channel : Fin 16)
  /-- `AO_OPEN_LOOP_CLEAR` (R268). -/
  | aoOpenLoopClear (channel : Fin 16)
  /-- `MARKER_ABANDON` (R311). -/
  | markerAbandon (medium : Fin 12)
  /-- `REPLY_RECEIVE` (R316). -/
  | replyReceive (medium : Fin 12) (id : Nat) (payload : List Byte) (stamp : Nat)
  /-- `REPLY_DEADLINE` (R317). -/
  | replyDeadline (medium : Fin 12) (station : Fin 16)
  /-- `CAN_TX_REQUEST` (R335). -/
  | canTxRequest (channel : Fin 4) (bufs : Nat)
  /-- `CAN_TX_CANCEL` (R335). -/
  | canTxCancel (channel : Fin 4) (bufs : Nat)
  /-- `CAN_SEND` (R333). -/
  | canSend (core : Fin 16) (channel : Fin 4) (buffer : Fin 3) (id ctrl : Nat) (data : List Byte)
  /-- `CAN_RECEIVE` (R338). -/
  | canReceive (core : Fin 16) (channel : Fin 4) (queue : Fin 2)
  /-- `CAN_TX_START` (R334). -/
  | canTxStart (channel : Fin 4)
  /-- `CAN_ARBITRATION_LOST` (R334). -/
  | canArbitrationLost (channel : Fin 4)
  /-- `CAN_TX_END` (R333). -/
  | canTxEnd (channel : Fin 4) (error : Option CanError) (stamp : Nat)
  /-- `CAN_RECOVER` (R341). -/
  | canRecover (channel : Fin 4) (v : Nat)
  /-- `CAN_BUS_OFF_LEFT` (R341). -/
  | canBusOffLeft (channel : Fin 4)
  /-- `CAN_FRAME_RECEIVE` (R336). -/
  | canFrameReceive (channel : Fin 4) (frame : CanFrame) (stamp : Nat)
  /-- `CAN_PROTOCOL_EXCEPTION` (R341). -/
  | canProtocolException (channel : Fin 4)
  /-- `CAN_RXQ_LOCK` (R338). -/
  | canRxqLock (channel : Fin 4) (queue : Fin 2) (by_ : Option (Fin 16))
  /-- `CAN_RXQ_POP` (R338). -/
  | canRxqPop (channel : Fin 4) (queue : Fin 2)
  /-- `CAN_RXQ_RELEASE` (R338). -/
  | canRxqRelease (channel : Fin 4) (queue : Fin 2)
  /-- `CAN_ERR_READ` (R351). -/
  | canErrRead (channel : Fin 4)
  /-- `MAC_RING_RUN` (R388). -/
  | macRingRun (mac : Fin 10) (queue : Bool) (idx : Nat) (log2 : Nat)
  /-- `MAC_RING_STOP` (R379). -/
  | macRingStop (mac : Fin 10) (queue : Bool) (idx : Nat)
  /-- `MAC_TAIL_WRITE` (R360). -/
  | macTailWrite (mac : Fin 10) (queue : Bool) (idx : Nat) (v : Nat)
  /-- `ETH_SEND` (R361). -/
  | ethSend (core : Fin 16) (mac : Fin 10) (buf len : Nat)
  /-- `ETH_RECEIVE` (R362). -/
  | ethReceive (core : Fin 16) (mac : Fin 10) (queue : Nat)
  /-- `MAC_TX_START` (R364). -/
  | macTxStart (mac : Fin 10)
  /-- `MAC_TX_COMPLETE` (R361). -/
  | macTxComplete (mac : Fin 10) (stamp : Nat)
  /-- `MAC_COLLISION` (R365). -/
  | macCollision (mac : Fin 10)
  /-- `MAC_LATE_COLLISION` (R365). -/
  | macLateCollision (mac : Fin 10)
  /-- `MAC_BACKOFF_EXPIRY` (R365). -/
  | macBackoffExpiry (mac : Fin 10)
  /-- `PLCA_CYCLE_START` (R366). -/
  | plcaCycleStart (mac : Fin 10) (leftNs : Nat)
  /-- `PLCA_CYCLE_END` (R367). -/
  | plcaCycleEnd (mac : Fin 10) (leftNs : Nat)
  /-- `MAC_FRAME_RECEIVE` (R370). -/
  | macFrameReceive (mac : Fin 10) (rx : MacRx)
  /-- `PAUSE_EXPIRY` (R373). -/
  | pauseExpiry (mac : Fin 10)
  /-- `XOFF_SEND` (R372). -/
  | xoffSend (mac : Fin 10) (fill : Nat)
  /-- `XOFF_REPEAT` (R372). -/
  | xoffRepeat (mac : Fin 10) (fill : Nat)
  /-- `XON_SEND` (R372). -/
  | xonSend (mac : Fin 10) (fill : Nat)
  /-- `MAC_LINK_UP` (R368). -/
  | macLinkUp (mac : Fin 10) (gigabit : Bool)
  /-- `MAC_LINK_DOWN` (R368). -/
  | macLinkDown (mac : Fin 10)
  /-- `MAC_LINK_REFUSED` (R368). -/
  | macLinkRefused (mac : Fin 10)
  /-- `MAC_RENEGOTIATE` (R368). -/
  | macRenegotiate (mac : Fin 10)
  /-- `PTP_MESSAGE_RECEIVE` (R400). -/
  | ptpMessageReceive (port : Fin 10) (msg : PtpMessage)
  /-- `ANNOUNCE_TIMEOUT` (R401). -/
  | announceTimeout (port : Fin 10) (roles : PtpRoles)
  /-- `SYNC_TIMEOUT` (R395). -/
  | syncTimeout
  /-- `HOLDOVER_EXPIRY` (R395). -/
  | holdoverExpiry
  /-- `PTP_MESSAGE_SEND` (R400). -/
  | ptpMessageSend (port : Fin 10) (kind : PtpKind)
  /-- `TSQ_HEAD_READ` (R403). -/
  | tsqHeadRead (mac : Fin 10)
  /-- `TSQ_ENTRY_EXPIRY` (R403). -/
  | tsqEntryExpiry (mac : Fin 10)
  /-- `RTC_SECOND` (R404). -/
  | rtcSecond (vbak : Nat)
  /-- `RTC_SET_NEXT_EDGE` (R406). -/
  | rtcSetNextEdge (key : Nat)
  /-- `RTC_SET_IMMEDIATE` (R406). -/
  | rtcSetImmediate (key : Nat) (by_ : Option (Fin 16))
  /-- `RTC_SET_CANCEL` (R406). -/
  | rtcSetCancel (key : Nat)
  /-- `RTC_SET` (R406). -/
  | rtcSet (core : Fin 16) (set0 set1 : Nat)
  /-- `RTC_NOW` (R405). -/
  | rtcNow (core : Fin 16)
  /-- `RTC_TIME_LATCH` (R405). -/
  | rtcTimeLatch (subsec : Fin 32768)
  /-- `RTC_TRIM_CHECK` (R408). -/
  | rtcTrimCheck (sinceNs : Nat) (cycle : Fin 32768)
  /-- `RTC_TRIM_STEP` (R408). -/
  | rtcTrimStep
  /-- `OSC_STOP` (R409). -/
  | oscStop
  /-- `BACKUP_DOMAIN_RESET` (R412). -/
  | backupDomainReset
  /-- `BACKUP_FEED_SWITCH` (R413). -/
  | backupFeedSwitch (toVbak : Bool)
  /-- `EVENT_OCCURRENCE` (R430). -/
  | eventOccurrence (code block unit drawer detail : Nat)
  /-- `BATCH_MOVE_DONE` (R434). -/
  | batchMoveDone
  /-- `EVENT_BUFFER_EMPTY` (R430). -/
  | eventBufferEmpty
  /-- `HEAD_CLOSE` (R431). -/
  | headClose
  /-- `TOKEN_GAIN` (R432). -/
  | tokenGain (code : Nat)
  /-- `OP_TIME_SAVE` (R428). -/
  | opTimeSave
  /-- `EVENT_WINDOW_LATCH` (R437). -/
  | eventWindowLatch
  /-- `EVENT_CURSOR_WRITE` (R438). -/
  | eventCursorWrite (cursor : Fin 33) (v : Nat)
  /-- `EVR_CLEAR` (R439). -/
  | evrClear (v : Nat)
  /-- `EVENT_CLEAR` (R439). -/
  | eventClear (core : Fin 16)
  /-- `EVENT_READ` (R437). -/
  | eventRead (core : Fin 16)
  /-- `EVENT_SEEK` (R438). -/
  | eventSeek (core : Fin 16) (recno : Nat)
  /-- `EVENT_NEXT` (R436). -/
  | eventNext (core : Fin 16)
  /-- `CVU_CFG_WRITE` (R451). -/
  | cvuCfgWrite (unit : Fin 6) (v : Nat)
  /-- `CVU_FEED_START` (R451). -/
  | cvuFeedStart (unit : Fin 6)
  /-- `CVU_DATA8` (R451). -/
  | cvuData8 (unit : Fin 6) (v : BitVec 8)
  /-- `CVU_DATA16` (R451). -/
  | cvuData16 (unit : Fin 6) (v : BitVec 16)
  /-- `CVU_DATA32` (R451). -/
  | cvuData32 (unit : Fin 6) (v : BitVec 32)
  /-- `CVU_RESULT_READ` (R451). -/
  | cvuResultRead (unit : Fin 6) (count : Bool)
  /-- `CVU_COMPUTE_JOB` (R452). -/
  | cvuComputeJob (unit : Fin 6)
  /-- `CVU_APPEND_JOB` (R452). -/
  | cvuAppendJob (unit : Fin 6)
  /-- `CVU_STRIP_JOB` (R452). -/
  | cvuStripJob (unit : Fin 6)
  /-- `CVU_JOB_DONE` (R452). -/
  | cvuJobDone (unit : Fin 6)
  /-- `CRC_BLOCK` (R452). -/
  | crcBlock (core : Fin 16) (unit : Fin 6) (poly mode : Fin 4) (src dst len : Nat)
  /-- `ATTEST_COMMAND` (R479). -/
  | attestCommand (rsp : Nat) (nonce : List Byte)
  /-- `LC_ADVANCE` (R474). -/
  | lcAdvance (target : Nat) (cert sig : List Byte)
  /-- `ENROL` (R472). -/
  | enrol (slot : Nat) (key sig : List Byte)
  /-- `INVALIDATE_BRANCH` (R467). -/
  | invalidateBranch (drawer : Nat)
  /-- `TAMPER_CLEAR` (R483). -/
  | tamperClear (sig : List Byte)
  /-- `ROOT_RESTORE` (R461). -/
  | rootRestore (sig : List Byte)
  /-- `FUSE_PROGRAMMED` (R475). -/
  | fuseProgrammed
  /-- `KEY_REQUEST_DONE` (R466). -/
  | keyRequestDone
  /-- `KEY_BRANCH` (R464). -/
  | keyBranch (core : Fin 16)
  /-- `KEY_DERIVE` (R463). -/
  | keyDerive (core : Fin 16) (parent : Nat) (label : List Byte)
  /-- `KEY_DIGEST` (R466). -/
  | keyDigest (core : Fin 16) (h : Nat) (data : List Byte)
  /-- `KEY_SIGN` (R466). -/
  | keySign (core : Fin 16) (h : Nat) (data : List Byte)
  /-- `KEY_PUBLIC` (R466). -/
  | keyPublic (core : Fin 16) (h : Nat)
  /-- `KEY_INVALIDATE` (R467). -/
  | keyInvalidate (core : Fin 16) (h : Nat)
  /-- `RANDOM` (R471). -/
  | random (core : Fin 16) (buf n : Nat)
  /-- `ATTEST` (R479). -/
  | attest (core : Fin 16) (nonce : List Byte)
  /-- `KEY_REMASK` (R470). -/
  | keyRemask
  /-- `RNG_HEALTH_FAIL` (R471). -/
  | rngHealthFail (proportion : Bool)
  /-- `RNG_SELF_TEST` (R471). -/
  | rngSelfTest (passed : Bool)
  /-- `KEY_RNG_READ` (R486). -/
  | keyRngRead
  /-- `TAMPER_SAMPLE` (R481). -/
  | tamperSample (ohms : Nat)
  /-- `STAGE_OPEN` (R496). -/
  | stageOpen (by_ : Option (Fin 16) := none)
  /-- `XFER` (R496). -/
  | xfer (by_ : Option (Fin 16))
  /-- `XFER_DONE` (R496). -/
  | xferDone
  /-- `XFER_DATA` (R496). -/
  | xferData (v : BitVec 32)
  /-- `VERIFY` (R497). -/
  | verify (by_ : Option (Fin 16) := none)
  /-- `VERIFY_DONE` (R497). -/
  | verifyDone
  /-- `START` (R499). -/
  | start (by_ : Option (Fin 16) := none)
  /-- `ABANDON` (R517). -/
  | abandon
  /-- `ROLLBACK` (R506). -/
  | rollback (by_ : Option (Fin 16) := none)
  /-- `LOCK` (R512). -/
  | lock (by_ : Option (Fin 16))
  /-- `SHADOW_COVERAGE_TIMEOUT` (R502). -/
  | shadowCoverageTimeout
  /-- `SWITCH_DEFER_TIMEOUT` (R503). -/
  | switchDeferTimeout
  /-- `WATCH_COMPLETE` (R508). -/
  | watchComplete
  /-- `MARZIN_ALIGN` (R526). -/
  | marzinAlign (h : MarzinHead) (a : AlignMsg)
  /-- `MARZIN_DIRECTORY` (R527). -/
  | marzinDirectory (h : MarzinHead) (d : DirMsg)
  /-- `MARZIN_EVENT_FWD` (R524). -/
  | marzinEventFwd (h : MarzinHead) (rec_ : List Byte) (recno : Nat)
  /-- `MARZIN_ATTEST` (R523). -/
  | marzinAttest (h : MarzinHead) (a : AttestMsg)
  /-- `MARZIN_UPDATE_ORCH` (R524). -/
  | marzinUpdateOrch (h : MarzinHead) (o : OrchMsg)
  /-- `MARZIN_CAUSE` (R529). -/
  | marzinCause (h : MarzinHead) (applyTn : Nat) (entries : List (Nat × BitVec 64))
  /-- `MARZIN_NOTICE` (R524). -/
  | marzinNotice (h : MarzinHead) (kind value : Nat)
  /-- `MARZIN_ACK` (R525). -/
  | marzinAck (h : MarzinHead) (cls seq status : Nat)
  /-- `MARZIN_RESEND` (R525). -/
  | marzinResend (peer seq : Nat)
  /-- `ALIGN_HEARTBEAT` (R526). -/
  | alignHeartbeat
  /-- `PARENT_LOST` (R526). -/
  | parentLost
  /-- `CHILD_LOST` (R526). -/
  | childLost (node : Nat)
  /-- `REJOIN` (R522). -/
  | rejoin
  /-- `ARBITER_SERVE` (R531). -/
  | arbiterServe (ingress : Bool)
  /-- `SOURCE_EXPIRY` (R531). -/
  | sourceExpiry (ingress : Bool) (origin drawer : Nat)
  /-- `DIR_READ` (R528). -/
  | dirRead (core : Fin 16) (node point : Nat)
  /-- `TAG_WRITE` (R532). -/
  | tagWrite (core : Fin 16) (offset : Nat) (data : List Byte)
  /-- `TAP_EXTEST` (R538). -/
  | tapExtest (pins shiftIn : Nat)
  /-- `TAP_IDCODE` (R538). -/
  | tapIdcode
  /-- `TAP_SAMPLE_PRELOAD` (R538). -/
  | tapSamplePreload (pins shiftIn : Nat)
  /-- `TAP_BYPASS` (R538). -/
  | tapBypass
  /-- `SVCACC` (R539). -/
  | svcacc (write : Bool) (addr v : BitVec 32)
  /-- `PRESENT_TOKEN` (R476). -/
  | presentToken
  /-- `CLEAR_TOKEN` (R541). -/
  | clearToken
  /-- `DBG_TOKEN_WRITE` (R541). -/
  | dbgTokenWrite (v : BitVec 32)
  /-- `ENABLE` (R542). -/
  | enable
  /-- `HALT` (R545). -/
  | halt
  /-- `TICK_STEP` (R546). -/
  | tickStep
  /-- `TICK_STEP_FROZEN` (R547). -/
  | tickStepFrozen
  /-- `STEP_END` (R546). -/
  | stepEnd
  /-- `RELEASE` (R55). -/
  | release
  /-- `DBG_TAG_WRITE` (R544). -/
  | dbgTagWrite (v : Nat)
  /-- `CORE_HALT` (R548). -/
  | coreHalt (core : Fin 16) (pc : Nat) (regs : List (Nat × Nat))
  /-- `CORE_RUN` (R548). -/
  | coreRun (core : Fin 16)
  /-- `CORE_STEP` (R548). -/
  | coreStep (core : Fin 16) (pc : Nat) (regs : List (Nat × Nat))
  /-- `BREAKPOINT_HIT` (R549). -/
  | breakpointHit (core : Fin 16) (index : Fin 8) (pc : Nat) (regs : List (Nat × Nat))
  /-- `WATCHPOINT_HIT` (R549). -/
  | watchpointHit (core : Fin 16) (index : Fin 4) (addr : Nat) (write : Bool) (pc : Nat) (regs : List (Nat × Nat))
  /-- `FORCE_ENTRY_WRITE` (R550). -/
  | forceEntryWrite (entry : Fin 32) (word : Fin 3) (v : BitVec 32)
  /-- `PROBE_IDLE_TIMEOUT` (R540). -/
  | probeIdleTimeout
  /-- `TRST_N_LOW` (R540). -/
  | trstNLow
  /-- `ACCESS_REFUSED` (R34). -/
  | accessRefused (by_ : Initiator) (kind : Fin 3) (addr : BitVec 32)
  /-- `ACCESS_OUT_OF_RANGE` (R40). -/
  | accessOutOfRange (by_ : Initiator) (write : Bool) (addr : BitVec 32)
  /-- `REGISTER_WRITE` (R15). -/
  | registerWrite (by_ : Option (Fin 16)) (addr v : BitVec 32)
  /-- `BACKUP_DOMAIN_VALID` (R412). -/
  | backupDomainValid
  /-- `BUS_INTEGRATION_DONE` (R344). -/
  | busIntegrationDone (channel : Fin 4)
  /-- `CAN_RX_ERROR` (R341). -/
  | canRxError (channel : Fin 4) (error : CanError) (heavy : Bool)
  /-- `PLCA_CONFLICT_TIMEOUT` (R384). -/
  | plcaConflictTimeout (mac : Fin 10)
  /-- `REVERSE_BLOCK_END` (R242). -/
  | reverseBlockEnd (output : Fin 32)
  deriving DecidableEq, Repr

end Sys2Proof
end

