-- ==== Sys2Proof/Decode.lean ====
section
/-! DEFINITION. The words of the table: the manual gives none of the block's commands an encoding. -/
namespace Sys2Proof

/-- The command a word spells by the table's bits: no row of the table gives bits, so no word spells a command. -/
def decodeTableWord (_nbits _w : Nat) : Option Instr := none

end Sys2Proof
end

