-- ==== Sys2Proof/Config.lean ====
section
/-! DEFINITION. What an implementation fixes and the values the manual leaves open: constants without a body. -/
namespace Sys2Proof.Config

/-- The ordering code of the fitted module: true is JF6400-X (R2, R42). -/
opaque orderX : Bool

/-- SHAKE256 (FIPS 202) of a byte string, to a number of output bytes (R84, R104). -/
opaque shake256 : List Byte → Nat → List Byte

/-- The values the manual leaves open, drawn by the counter of the state: nothing constrains them (log entry 7). -/
opaque freeValue : Nat → Nat

/-- The heartwood root of this module, 64 bytes: the response of its PUF and its helper data (R460). -/
opaque heartwood : List Byte

/-- The offcut root, 64 bytes in the key core's ROM (R460). -/
opaque offcutRoot : List Byte

/-- The LIDUORA public key in the boot ROM (R472). -/
opaque liduora : List Byte

/-- Falcon-1024 with SHAKE256: whether a signature over a message verifies with a public key (R83, R477). -/
opaque falconVerifies : (key message signature : List Byte) → Bool

/-- Falcon-1024 with SHAKE256: a signature with the key pair made from 64 bytes, by a random draw (R466). -/
opaque falconSign : (seed message : List Byte) → (draw : Nat) → List Byte

/-- The public key of the Falcon-1024 pair made from 64 bytes (R466). -/
opaque falconPublic : (seed : List Byte) → List Byte

/-- The measurement a program set holds for an entry identifier (R500): the manual gives no layout of a program set. -/
opaque entryMeas : (program : List Byte) → (entry : Nat) → List Byte

/-- Bytes of program code that a program set places in a read-only code window, by its MEMORY record (R498). -/
opaque codeSize : (program : List Byte) → (window : Nat) → Nat

/-- What the mapping of a task's state finds, by the NAMES bodies of both sets and the state itself, on which the active
steps of an SFC chart depend: identifiers of the items it initialises and the number it drops (R504). The manual gives NAMES
no layout. -/
opaque remapItems : (oldNames newNames : List Byte) → (slot : Nat) → (state : List Byte) → List Nat × Nat

/-- The bytes of a task slot's read-write windows mapped by stable identifier from one carcass image to another, with the
initial values of the program set (R504). -/
opaque stateMap : (oldCarcass newCarcass program : List Byte) → (slot : Nat) → (state : List Byte) → List Byte

/-- Initial value of the retained byte at an address, from the program set (R134). -/
opaque retainInit : (program : List Byte) → (address : Nat) → Byte

/-- The initial image of the read-write DRAM window at a base, from the program set (R134, R170). -/
opaque windowInit : (program : List Byte) → (base : Nat) → List Byte

/-- A task slot's retained bytes mapped by stable identifier from one carcass image to another, with the initial values of
the program set (R102, R504). -/
opaque retainMap : (oldCarcass newCarcass program : List Byte) → (slot : Nat) → (old : List Byte) → List Byte

/-- The bit of the boundary register at which the output cell of a logic contact of J2 stands: LOGIC_OUT0 to LOGIC_OUT7,
REPLACE_N, HEALTHY, PFW_N, SYNC_OUT, numbered 0 to 11 (R538): the manual gives no order of cells. -/
opaque boundaryCell : Nat → Nat

/-- The session key two key cores agree at admission, by node and draw (R523). -/
opaque sessionKey : (peer draw : Nat) → List Byte

end Sys2Proof.Config
end

