-- ==== Sys2Proof/Machine/State.lean ====
section
/-! DEFINITION. The state of the module: every register, table, queue, flag and pin the manual gives it, as plain
data, and the queue of commands that wait. A field's comment gives its width, the rule that names it and its value
at reset; a value the manual does not give names its entry of the assumption log. -/
namespace Sys2Proof.Machine

/-- A sparse table: entries by ascending key, no key twice. -/
abbrev Table (α : Type) := List (Nat × α)

/-! ### Memory (R22) -/

/-- MRAM and DRAM as bytes by address, ascending, no entry 0x00 (an unlisted byte reads 0x00, log entry 3). -/
abbrev Memory := List Host.Cell

/-! ### Blocks (R40, R41) -/

/-- A block instance of the service address map (R40). -/
inductive Block where
  | sys | stk | dvt | wke | jig | dio | aio | lpe | rio | can (n : Nat) | mac (n : Nat)
  | ptp | rtc | evr | cvu (n : Nat) | key | upd | hie | dbg | drw
  deriving DecidableEq, Repr

/-! ### System control (R49 to R77) -/

/-- The operating modes (R49). -/
inductive Mode where
  | dormant | rigging | run | degraded | hold | debug
  deriving DecidableEq, Repr

/-- How far a boot has come (R64, R99): nothing powered; held in reset; reset released; the cox runs the
boot ROM; self-test done; the load has ended, with success or not. -/
inductive Boot where
  | off | held | released | clocked | tested | loaded
  deriving DecidableEq, Repr

/-- The system control block and the supply supervisors. -/
structure Sys where
  /-- boot progress (R64) -/
  boot : Boot := .held
  /-- 3 bits, SYS_MODE.MODE (R69), reset RIGGING -/
  mode : Mode := .rigging
  /-- 3 bits, SYS_MODE.PREV (R69), reset DORMANT -/
  prev : Mode := .dormant
  /-- 1 bit, HOLD accepted and not yet taken (R53) -/
  holdReq : Bool := false
  /-- 1 bit, RESUME accepted and not yet taken (R54) -/
  resumeReq : Bool := false
  /-- 1 bit, the probe's halt accepted and not yet taken (R55) -/
  haltReq : Bool := false
  /-- 1 bit, service reset waiting for the close of a commit (R75) -/
  resetReq : Bool := false
  /-- 4 bits, PRIMARY of the first cause that waits for the close of a commit (R62), 0 none -/
  dueFirst : Nat := 0
  /-- 1 bit, HOLD was entered by tamper at start-up (R51, R54) -/
  tamperHold : Bool := false
  /-- 7 bits, SYS_REPLACE (R71), reset 0 -/
  replace : Nat := 0
  /-- 1 bit, SYS_SUPPLY.PFW (R72), reset 0; 1 from the power-up of SAFE on (R589) -/
  pfw : Bool := false
  /-- 1 bit, SYS_SUPPLY.BRACE, reset 0 -/
  brace : Bool := false
  /-- 1 bit, SYS_SUPPLY.BRACE_LONG, reset 0 -/
  braceLong : Bool := false
  /-- 1 bit, SYS_SUPPLY.BRACE_SEEN, reset 0 -/
  braceSeen : Bool := false
  /-- 1 bit, SYS_SUPPLY.PFW_SEEN, reset 0 -/
  pfwSeen : Bool := false
  /-- 1 bit, SYS_SUPPLY.VBAK_LOW, reset 0 -/
  vbakLow : Bool := false
  /-- 1 bit, the 1 ms confirmation of R60 runs -/
  confirming : Bool := false
  /-- 1 bit, NAND writes paused (R59) -/
  nandPaused : Bool := false
  /-- 1 bit, the brace flushed the journal and event buffers (R59) -/
  flushed : Bool := false
  /-- 16 bits, SYS_VSYS.BRACE_MIN (R73), reset 0 -/
  braceMin : Nat := 0
  /-- 16 bits, SYS_VSYS.NOW (R73), reset 0 -/
  vsys : Nat := 0
  /-- 7 bits, SYS_RESET_CAUSE.CAUSE (R74); POR, the first power-up -/
  cause : Nat := 1
  /-- 4 bits, SYS_RESET_CAUSE.PRIMARY (R74) -/
  primary : Nat := 1
  /-- 1 bit, SYS_RESET_CAUSE.NO_BRACE (R74) -/
  noBrace : Bool := false
  /-- 8 bits, SYS_CLK.CAP3 to CAP0 (R76), reset 0xFF -/
  caps : Nat := 0xFF
  /-- 16 bits, SYS_DEG_CFG.LINK_DOWN_S (R77), reset 0x000A -/
  linkDownS : Nat := 0x000A
  /-- 16 bits, SYS_DEG_CFG.ECC_LIMIT (R77), reset 0x0010 -/
  eccLimit : Nat := 0x0010
  /-- 16 bits signed, SYS_TEMP (R68), reset 0 -/
  temp : Int := 0
  /-- 32 bits, SYS_OUTAGE (R68), reset 0xFFFF_FFFF -/
  outage : Nat := 0xFFFFFFFF
  /-- 32 bits, SYS_BOOT_TIME (R68), reset 0 -/
  bootTime : Nat := 0
  /-- operating times of the corrected errors of the last 60 min (R56), reset none -/
  eccTimes : List Nat := []
  /-- 1 bit, DEBUG has been entered since the last edge s: no restart is hot (R55); the model's own field, kept (log
  entry 17) -/
  fromDebug : Bool := false
  /-- 1 bit, the board is in a fire window event (R574) -/
  fire : Bool := false
  /-- signed, highest board temperature of the event, 0.1 °C (R575, R577) -/
  fireMax : Int := 0
  /-- operating time at the start of the event (R577) -/
  fireStart : Nat := 0
  /-- 1 bit, 0x0030 recorded for the temperature of this event (R575) -/
  fireOver : Bool := false
  /-- 1 bit, 0x0030 recorded for the length of this event (R575) -/
  fireLong : Bool := false
  /-- 1 bit, the board is in a temperature excursion (R575) -/
  excursion : Bool := false
  deriving DecidableEq, Repr

/-! ### Drawer table, load and isolation (R80 to R108) -/

/-- One section of a carcass image: its directory entry and its body (R82). -/
structure Section where
  type : Nat
  flags : Nat
  count : Nat
  recSize : Nat
  body : List Byte
  deriving DecidableEq, Repr

/-- The drawer table, the load and the isolation unit. -/
structure Drw where
  /-- 4 bits, DRW_LOAD.STATE (R106), reset 0 -/
  load : Nat := 0
  /-- 1 bit, DRW_LOAD.FALLBACK, reset 0 -/
  fallback : Bool := false
  /-- the slot of the image in force, true is B (R493), reset A -/
  slotB : Bool := false
  /-- 1 bit, DRW_LOAD.SLOT (R106): the slot of the load or of its last attempt, reset A -/
  loadSlot : Bool := false
  /-- 8 bits, DRW_LOAD.SECTION, reset 0 -/
  section_ : Nat := 0
  /-- 8 bits, DRW_LOAD.FIRST_FAIL, reset 0 -/
  firstFail : Nat := 0
  /-- 8 bits, DRW_LOAD.FAIL, reset 0 -/
  fail : Nat := 0
  /-- 32 bits, DRW_SERIAL (R105), reset 0 -/
  serial : Nat := 0
  /-- 32 bits, DRW_SERIAL_FLOOR (R103), MRAM, log entry 5 -/
  serialFloor : Nat := 0
  /-- 1 bit, DRW_FAULT_INFO.VALID (R107), reset 0 -/
  fValid : Bool := false
  /-- 2 bits, DRW_FAULT_INFO.KIND, reset 0 -/
  fKind : Nat := 0
  /-- 6 bits, DRW_FAULT_INFO.TAG, reset 0 -/
  fTag : Nat := 0
  /-- 8 bits, DRW_FAULT_INFO.TARGET, reset 0 -/
  fTarget : Nat := 0
  /-- 32 bits, DRW_FAULT_ADDR, reset 0 -/
  fAddr : Nat := 0
  /-- 32 bits, DRW_FAULT_COUNT, reset 0 -/
  fCount : Nat := 0
  /-- 32 bytes, DRW_MEAS0 to 7 (R84), reset 0 -/
  meas : List Byte := List.replicate 32 0
  /-- the sections of the image in force, as tables (R85, R99), empty until a load succeeds -/
  image : List Section := []
  /-- measurement of the image under which each task slot's retained windows stand: the model's own field, kept (R102, log
  entry 17) -/
  layout : Table (List Byte) := []
  deriving DecidableEq, Repr

/-! ### The process image (R145) -/

/-- A point entry (R145, R146). -/
structure Entry where
  /-- bytes 0 to 7 -/
  value : BitVec 64 := 0
  /-- byte 8 (R17) -/
  quality : Byte := 0
  /-- byte 9 -/
  drawer : Nat := 0
  /-- FLAGS[15:12] -/
  typ : Nat := 0
  /-- FLAGS[2] -/
  init : Bool := false
  /-- FLAGS[1] -/
  skipped : Bool := false
  /-- FLAGS[0] -/
  changed : Bool := false
  /-- bytes 12 to 15 -/
  tick : Nat := 0
  deriving DecidableEq, Repr

/-- A version of the process image: the declared points by ascending index (R148). -/
abbrev Image := Table Entry

/-! ### Strokes and tasks (R109 to R144) -/

/-- States of a group slot (R177). -/
inductive GrpSt where
  | idle | opened | committed | overflow
  deriving DecidableEq, Repr

/-- Kinds of skip (R183). -/
inductive SkipKind where
  | overrun | budget | late | takeover | access
  deriving DecidableEq, Repr

/-- A message as its receiver reads it (R160). -/
structure Msg where
  sender : Nat
  dest : Nat
  seq : Nat
  tn : Nat
  payload : List Byte
  deriving DecidableEq, Repr

/-- The write set of one stroke copy (R150). -/
structure WriteSet where
  /-- point writes: index to value and quality as written -/
  points : Table (BitVec 64 × Byte) := []
  /-- retained words: byte offset within the slot's retained windows to word -/
  retained : Table (BitVec 64) := []
  /-- messages in send order (seq and tn unused until delivery) -/
  msgs : List Msg := []
  /-- messages taken from the inbox -/
  taken : Nat := 0
  /-- writes rejected so far (R152) -/
  rejected : Nat := 0
  /-- the stroke's transaction group (R164) -/
  grp : GrpSt := .idle
  /-- the stroke has opened a group (R164) -/
  grpUsed : Bool := false
  /-- LAST of the group, 0 when none yet in this stroke (R177) -/
  grpLast : Nat := 0
  /-- the group overflowed before its commit (R164) -/
  grpOver : Bool := false
  /-- staged writes, in order: address and value -/
  staged : List (Nat × Word) := []
  /-- the working copy (R180): bytes by address in which it differs from the committed copy -/
  work : List (Nat × Byte) := []
  deriving DecidableEq, Repr

/-- Where one copy of a stroke stands on its core (R112). -/
inductive Phase where
  | ready | drive | done | lost
  deriving DecidableEq, Repr

/-- One copy of a stroke: two for a paired task (R173). -/
structure Copy where
  core : Nat
  /-- a shadow stroke of an update: its write set never commits (R501) -/
  shadow : Bool := false
  phase : Phase := .ready
  ws : WriteSet := {}
  /-- a stopped stroke: BUDGET or ACCESS skip due (R125, R127) -/
  stop : Option SkipKind := none
  /-- core time in µs of the ended drive (R137) -/
  driveUs : Nat := 0
  /-- work units of the ended drive (R137) -/
  work : Nat := 0
  deriving DecidableEq, Repr

/-- A caught stroke. -/
structure Stroke where
  /-- TN of the catch (R119) -/
  catchTn : Nat
  /-- edge count of the catch (R110) -/
  catchEdge : Nat
  /-- edge count of the release (R110) -/
  relEdge : Nat
  /-- the version caught (R148) -/
  snap : Image
  /-- messages of the inbox the stroke sees (R158) -/
  inboxSeen : Nat := 0
  /-- messages at its head that the settled write set of its predecessor took and edge u will remove (R198) -/
  inboxFrom : Nat := 0
  /-- observations carried (R119) -/
  triggers : Nat := 0
  /-- mask of trigger records (R119) -/
  sources : Nat := 0
  /-- carries observations of a skipped stroke (R128) -/
  retry : Bool := false
  /-- restart kind on the first stroke after a restart (R119): 0 none, 1 cold, 2 warm, 3 hot -/
  restart : Nat := 0
  copies : List Copy := []
  /-- waits for the settlement of its predecessor (R198) -/
  blocked : Bool := false
  deriving DecidableEq, Repr

/-- Standing of a task slot apart from its stroke (R129). -/
inductive TaskSt where
  | off | armed | live | halted | replay | stopped
  deriving DecidableEq, Repr

/-- One task slot of the STK block. -/
structure Task where
  /-- 4 bits, STATE (R140), reset OFF; `live` covers READY, DRIVE and RECOVERY -/
  st : TaskSt := .off
  /-- 4 bits, CORE, reset 0 -/
  core : Nat := 0
  /-- 4 bits, PAIR_CORE, reset 0 -/
  pair : Nat := 0
  /-- the current stroke, reset none -/
  stroke : Option Stroke := none
  /-- edge count of a cyclic task's first catch while ARMED (R114) -/
  due : Nat := 0
  /-- edge count of the last catch, for R130's leave of REPLAY -/
  lastCatch : Nat := 0
  /-- edge count of the next release while in REPLAY (R191) -/
  replayRel : Nat := 0
  /-- first stroke after a restart not yet caught (R119) -/
  fresh : Bool := true
  /-- 32 bits, STK_TASKn_CATCH, reset 0 -/
  catchReg : Nat := 0
  /-- 32 bits, STK_TASKn_RELEASE, reset 0 -/
  relReg : Nat := 0
  /-- 32 bits, STROKES, reset 0 -/
  strokes : Nat := 0
  /-- 32 bits, SKIPS, reset 0 -/
  skips : Nat := 0
  /-- 32 bits, LATES, reset 0 -/
  lates : Nat := 0
  /-- 32 bits, DRIVE_LAST, reset 0 -/
  driveLast : Nat := 0
  /-- 32 bits, DRIVE_MAX, reset 0 -/
  driveMax : Nat := 0
  /-- 32 bits, WORK_LAST, reset 0 -/
  workLast : Nat := 0
  /-- 1 bit, LATE_SEEN, reset 0 -/
  lateSeen : Bool := false
  /-- 1 bit, SKIP_SEEN, reset 0 -/
  skipSeen : Bool := false
  /-- 3 bits, LAST_KIND, reset 0 -/
  lastKind : Nat := 0
  /-- 16 bits, TRIG.PENDING, reset 0 -/
  pend : Nat := 0
  /-- mask of the trigger records pending -/
  pendSrc : Nat := 0
  /-- the pending observations include those of a skipped stroke (R128) -/
  pendRetry : Bool := false
  /-- 1 bit, TRIG.SAT, reset 0 -/
  sat : Bool := false
  /-- 15 bits, TRIG.CARRIED, reset 0 -/
  carried : Nat := 0
  /-- 64 bits, DVT_TASKn_DIGEST (R175), reset 0 -/
  digest : BitVec 64 := 0
  /-- 16 bits, WRITES_REJECTED, reset 0 -/
  wrRej : Nat := 0
  /-- 16 bits, SENDS_REFUSED, reset 0 -/
  sndRef : Nat := 0
  /-- inbox, 32 messages (R158), reset empty -/
  inbox : List Msg := []
  /-- 16 bits, INBOX.DROPS, reset 0 -/
  drops : Nat := 0
  /-- next SEQ per receiver slot (R160), absent 0 -/
  seqs : Table Nat := []
  /-- LAST of the task's group slot (R177), reset 0 -/
  grpLast : Nat := 0
  /-- the third buffer (R180, R188): a superseded committed copy that the checkpoint writer has not yet taken, reset none -/
  third : Option Memory := none
  deriving DecidableEq, Repr

/-- The tick scheduler. -/
structure Stk where
  /-- 64 bits, TN (R109), reset 0 -/
  tn : Nat := 0
  /-- tick edges counted since the time base started (R110), reset 0 -/
  edges : Nat := 0
  /-- time base in ns at edge count 0 (R29, R393), reset 0 -/
  baseNs : Int := 0
  /-- edge count of edge s, none before it (R114) -/
  start : Option Nat := none
  /-- 32 bits, STK_TN_HI latch, reset 0 -/
  tnHi : Nat := 0
  /-- 64 task slots -/
  tasks : List Task := List.replicate 64 {}
  /-- 8 pool masks of 16 bits, STK_POOLp (R137), reset 0 -/
  pools : List Nat := List.replicate 8 0
  /-- 32 bits, SKIP_TOTAL, reset 0 -/
  skipTotal : Nat := 0
  /-- 32 bits, LATE_TOTAL, reset 0 -/
  lateTotal : Nat := 0
  /-- 2 bits, STK_RESTART.DECLARED (R143), reset 0 -/
  rDeclared : Nat := 0
  /-- 2 bits, STK_RESTART.TAKEN, reset 0 -/
  rTaken : Nat := 0
  /-- 4 bits, STK_RESTART.REASON, reset 0 -/
  rReason : Nat := 0
  /-- 7 bits, STK_RESTART.RETAIN_LOST, reset 0 -/
  retainLost : Nat := 0
  deriving DecidableEq, Repr

/-! ### Dovetail commit (R145 to R179, R588) -/

/-- The commit unit. -/
structure Dvt where
  /-- the image being committed and, after the seal, the latest version (R154), reset empty -/
  image : Image := []
  /-- the latest sealed version (R26), reset empty -/
  latest : Image := []
  /-- 1 bit, DVT_FAULT.VALID (R178), reset 0 -/
  fValid : Bool := false
  /-- 4 bits, KIND, reset 0 -/
  fKind : Nat := 0
  /-- 6 bits, SLOT, reset 0 -/
  fSlot : Nat := 0
  /-- 16 bits, DETAIL, reset 0 -/
  fDetail : Nat := 0
  /-- 32 bits, DVT_FAULT_ADDR, reset 0 -/
  fAddr : Nat := 0
  /-- 32 bits, DVT_FAULT_COUNT, reset 0 -/
  fCount : Nat := 0
  /-- 64 bits, the edge digest of the last closed edge (R172), reset 0 -/
  digest : BitVec 64 := 0
  /-- the byte stream of the edge digest being computed (R172) -/
  stream : List Byte := []
  /-- 32 bits, DVT_EDGE_TN, reset 0 -/
  edgeTn : Nat := 0
  /-- 64 bits, the latched edge digest, reset 0 -/
  digestLatch : BitVec 64 := 0
  /-- 32 bits, DVT_COMMIT_LAST, reset 0 -/
  commitLast : Nat := 0
  /-- 32 bits, DVT_COMMIT_MAX, reset 0 -/
  commitMax : Nat := 0
  /-- 32 bits, DVT_COMMIT_BOUND, reset 0 -/
  commitBound : Nat := 0
  /-- 17 bits, DVT_VSTORE, reset 0 -/
  vstore : Nat := 0
  /-- 17 bits, DVT_VSTORE_PEAK, reset 0 -/
  vstorePeak : Nat := 0
  /-- 17 bits, DVT_VSTORE_BOUND, reset 0 -/
  vstoreBound : Nat := 0
  /-- 32 bits, DVT_MSG_DROPS, reset 0 -/
  msgDrops : Nat := 0
  /-- task slots of group slots 0 to 15 (R163), reset none -/
  groups : List Nat := []
  /-- staged writes applied in this commit, in order: address, value, task slot (R165, R166) -/
  applied : List (Nat × Word × Nat) := []
  /-- senders delivered to a receiver in this commit: receiver, sender (R116) -/
  delivered : List (Nat × Nat) := []
  deriving DecidableEq, Repr

/-! ### Wake journal and spare seats (R180 to R210) -/

/-- Entries of an edge record (R183). -/
inductive JEntry where
  | edgeOpen (flags tn mode : Nat)
  | input (quality index tick : Nat) (value : BitVec 64)
  | point (quality index : Nat) (value : BitVec 64)
  | wset (slot : Nat) (digest : BitVec 64)
  | message (m : Msg) (dropped : Bool)
  | jig (mask : Nat)
  | skip (slot : Nat) (kind : SkipKind) (flags tn : Nat)
  | mark (kind arg : Nat)
  | edgeClose (digest : BitVec 64) (crc : Nat)
  /-- bytes of a record that an error or a write has spoilt (R22, R192): no record any more -/
  | raw (bytes : List Byte)
  deriving DecidableEq, Repr

/-- A closed edge record (R182). -/
structure JRecord where
  tn : Nat
  edge : Nat
  entries : List JEntry
  deriving DecidableEq, Repr

/-- What a checkpoint keeps of a task slot (R187). -/
structure TaskCkpt where
  slot : Nat
  pend : Nat
  pendSrc : Nat
  /-- the pending observations include those of a skipped stroke (R128) -/
  pendRetry : Bool := false
  seqs : Table Nat
  inbox : List Msg
  catchReg : Nat
  relReg : Nat
  grpLast : Nat
  /-- the copy: the bytes of the slot's read-write windows, its committed state (R180, R187) -/
  copy : Memory := []
  /-- the stroke held with the copy: a live stroke caught before K (R187) -/
  stroke : Option Stroke
  deriving DecidableEq, Repr

/-- A stroke under settlement (R197). -/
structure Settle where
  slot : Nat
  seat : Nat
  /-- edge count and TN of the release r -/
  relEdge : Nat
  relTn : Nat
  stroke : Stroke
  /-- the seat was taken by R199 and stays the pair's second core -/
  kept : Bool := false
  /-- the settled write set, once the third execution has ended -/
  won : Option WriteSet := none
  deriving DecidableEq, Repr

/-- A takeover in progress (R194). -/
structure Takeover where
  core : Nat
  seat : Nat
  slots : List Nat
  /-- edge count and TN of E (R191) -/
  lastEdge : Nat
  /-- bank used: false A, true B (R195) -/
  bankB : Bool
  /-- copies loaded, replay running (R194) -/
  loaded : Bool := false
  /-- strokes still to replay (R194) -/
  left : Nat := 0
  /-- no record reaches: the committed copies are adopted (R185) -/
  direct : Bool := false
  /-- the seat is the core itself: rebuild after a memory error (R192 area 1) -/
  rebuild : Bool := false
  /-- state of each slot as far as the replay has rebuilt it, from the loaded copies on (R194) -/
  built : Table Memory := []
  deriving DecidableEq, Repr

/-- What a spare seat is doing (R39, R200). -/
inductive SeatUse where
  | free | shadow | settling | selfTest | taken
  deriving DecidableEq, Repr

/-! ### Jig matrix (R211 to R231) -/

/-- A jig copy in the protected MRAM region (R104). -/
structure JigCopy where
  /-- 4,256 bytes: rules and targets (R92) -/
  body : List Byte := []
  /-- the CRC-32C stored with it (R224) -/
  crc : Nat := 0
  /-- the digest stored with it (R104), DRW_JIG_MEAS -/
  digest : List Byte := List.replicate 32 0
  deriving DecidableEq, Repr

/-- The jig matrix: SAFE domain, with its two copies in MRAM. -/
structure Jig where
  /-- MRAM jig copies 0 and 1 (R104), log entry 5 -/
  copy0 : JigCopy := {}
  copy1 : JigCopy := {}
  /-- 1 bit, selector word, DRW_JIG_COPY[0], MRAM, log entry 5 -/
  sel : Bool := false
  /-- 1 bit, DRW_JIG_COPY[1]: the last load rewrote the copy (R105), MRAM, log entry 5 -/
  rewrote : Bool := false
  /-- rules and targets the matrix holds: 4,256 bytes, or none adopted (R225) -/
  matrix : List Byte := []
  /-- 1 bit, the matrix evaluates (R38) -/
  active : Bool := false
  /-- a copy switch waits for adoption (R104) -/
  adoptDue : Bool := false
  /-- 32 bits, input coupler outputs DI0 to DI31 (R215) -/
  di : Nat := 0
  /-- 64 bits, software conditions as held (R216, R47), reset 0 -/
  cond : Nat := 0
  /-- stored bits of latched terms, bit 8n + m (R213) -/
  latch : Nat := 0
  /-- 128 bits, rule states (R212) -/
  rules : Nat := 0
  /-- 128 bits, JIG_RULE_SEEN (R228), reset 0 -/
  seen : Nat := 0
  /-- 128 bits, rules that became true since the last edge (R116) -/
  fired : Nat := 0
  /-- 128 bits, rule states at the last edge (R116) -/
  atEdge : Nat := 0
  /-- 128 bits, rules that fired at this edge (R116) -/
  edgeFired : Nat := 0
  /-- 1 bit, JIG_STATUS.SCRUB_FAIL (R229), reset 0 -/
  scrubFail : Bool := false
  /-- 2 bits, JIG_SCRUB_STATUS.WHERE (R230), reset 0 -/
  where_ : Nat := 0
  /-- 24 bits, CYCLES, reset 0 -/
  cycles : Nat := 0
  /-- a scrub mismatch not yet reported to SYS and the recorder (R225): its detail -/
  unreported : Option Nat := none
  /-- 1 bit, the configuration read of this power-up or reset is still to come (R225), reset 1 -/
  readDue : Bool := true
  deriving DecidableEq, Repr


/-! ### Digital I/O (R232 to R258) -/

/-- A digital input channel. -/
structure DiCh where
  /-- 16 bits, DIO_CHn_CFG (R253), reset 0x0003 -/
  cfg : Nat := 3
  /-- 1 bit, the state the filter has taken; the filter output is this state while the wire is intact (R235, R237) -/
  filt : Bool := false
  /-- 1 bit, wire declared open (R237), reset 0 -/
  wireOpen : Bool := false
  /-- 1 bit, last value latched with the wire intact (R237), reset 0 -/
  lastIntact : Bool := false
  /-- 1 bit, OW_SEEN (R255), reset 0 -/
  owSeen : Bool := false
  /-- 16 bits, CURRENT in 10 µA (R255), reset 0 -/
  current : Nat := 0
  /-- 32 bits, edge counter in SAFE (R236), 0 at SAFE power-up -/
  edges : Nat := 0
  deriving DecidableEq, Repr

/-- A digital output channel; the protection state is in SAFE (R243). -/
structure DoCh where
  /-- 16 bits, DIO_CHn_CFG (R254), reset 0x0001 -/
  cfg : Nat := 1
  /-- flags of DIO_CHn_STATUS (R256), reset 0 -/
  latched : Bool := false
  thermal : Bool := false
  overload : Bool := false
  openOn : Bool := false
  openOff : Bool := false
  ext : Bool := false
  thermalSeen : Bool := false
  overloadSeen : Bool := false
  openSeen : Bool := false
  extSeen : Bool := false
  /-- 4 bits, RETRIES (R243), reset 0 -/
  retries : Nat := 0
  /-- 32 bits, thermal shutdowns since SAFE power-up (R243) -/
  shutdowns : Nat := 0
  /-- 16 bits, CURRENT in mA (R256), reset 0 -/
  current : Nat := 0
  /-- 1 bit, open load and external drive not evaluated (R245) -/
  blank : Bool := false
  /-- 1 bit, the switch is open by reverse blocking (R242) -/
  reverse : Bool := false
  /-- 1 bit, in THERMAL with the junction cooled and 100 ms over: the switch closes as soon as its command and its group
  let it (R243, R247, R248) -/
  cooled : Bool := false
  /-- 1 bit, cleared while still hot: THERMAL ends as the junction has cooled, and that closing is no retry (R258) -/
  cleared : Bool := false
  deriving DecidableEq, Repr

/-- A field-supply group (R244, R247, R257), in SAFE. -/
structure Group where
  unpowered : Bool := false
  low : Bool := false
  tripLatched : Bool := false
  tripped : Bool := false
  /-- 4 bits, TRIP_RETRIES, reset 0 -/
  retries : Nat := 0
  /-- 8 bits, CURRENT in 20 mA, reset 0 -/
  current : Nat := 0
  /-- 16 bits, VOLTAGE in 10 mV, reset 0 -/
  voltage : Nat := 0
  deriving DecidableEq, Repr

/-- The digital I/O block and the output stage. -/
structure Dio where
  /-- inputs DI00 to DI31 -/
  di : List DiCh := List.replicate 32 {}
  /-- outputs DO00 to DO31 -/
  dout : List DoCh := List.replicate 32 {}
  /-- groups A to D -/
  groups : List Group := List.replicate 4 {}
  /-- 32 bits, DIO_OUTSTROKE: stroke values of the outputs (R218), reset 0 -/
  stroke : Nat := 0
  /-- 8 bits, stroke values of the logic outputs, reset 0 -/
  lstroke : Nat := 0
  /-- 32 bits, DIO_OUTCMD: driver commands (R218), reset 0 -/
  cmd : Nat := 0
  /-- 8 bits, DIO_LOGIC: driver commands of the logic outputs, reset 0 -/
  lcmd : Nat := 0
  /-- 32 bits, DIO_OUTPIN (R251), reset 0 -/
  pins : Nat := 0
  deriving DecidableEq, Repr


/-! ### Universal analog channels (R259 to R277) -/

/-- An analog channel. -/
structure AioCh where
  /-- 3 bits, AIO_CHn_MODE (R275), reset OFF -/
  mode : Nat := 0
  /-- 3 bits, AIO_CHn_CFG (R276), reset 1 -/
  cfg : Nat := 1
  /-- the old RATE and the edge count its window in progress ends at, while a new RATE waits (R270) -/
  old : Option (Nat × Nat) := none
  /-- windows begin no earlier than this instant, ns of the time base (R262, R270) -/
  since : Nat := 0
  /-- 1 bit each, flags of AIO_CHn_STATUS (R277), reset 0 -/
  convFault : Bool := false
  openLoop : Bool := false
  overload : Bool := false
  clamped : Bool := false
  faultSeen : Bool := false
  /-- 8 bits, QUALITY of the last conversion, reset 0 -/
  quality : Byte := 0
  /-- GOOD of the last conversion, none before the first (R264) -/
  good : Option Bool := none
  /-- signed, last value written with GOOD 1 (R264), none before it -/
  lastGood : Option Int := none
  /-- signed 32 bits, AIO_CHn_VALUE (R273), reset 0 -/
  value : Int := 0
  /-- SAMPLE_TICK of the last conversion -/
  tick : Nat := 0
  /-- the last reference check failed (R265) -/
  refBad : Bool := false
  /-- an output command has been applied since the restart and the terminal drives (R269) -/
  drives : Bool := false
  /-- last status item written to the image (R259) -/
  statusSeen : Nat := 0
  /-- edge count from which output faults are evaluated again after a change of command (R268), reset 0 -/
  quiet : Nat := 0
  deriving DecidableEq, Repr

/-- The analog block: AIO00 to AIO15. -/
structure Aio where
  ch : List AioCh := List.replicate 16 {}
  deriving DecidableEq, Repr


/-! ### The loop engine (R278 to R304) -/

/-- A declared loop slot. -/
structure LoopSlot where
  /-- banks A and B, 43 words (R290) -/
  bankA : List Int := []
  bankB : List Int := []
  /-- active bank, true is B, reset A -/
  activeB : Bool := false
  /-- 6 bits, CIDX (R303), reset 0 -/
  cidx : Nat := 0
  /-- 32 bits, CDATA, reset 0 -/
  cdata : Nat := 0
  /-- 9 bits, RIDX (R304), reset 0 -/
  ridx : Nat := 0
  /-- as after the last evaluation -/
  dyn : LoopDyn := {}
  /-- as after the last released evaluation (R53) -/
  rel : LoopDyn := {}
  /-- an evaluation has taken place since the restart -/
  evald : Bool := false
  /-- a swap took effect since the last evaluation (R287) -/
  swapped : Bool := false
  /-- 1 bit, BANK of STATE (R302): the active bank at the last evaluation, reset A -/
  bankSeen : Bool := false
  /-- first evaluation after a restart or RESUME not yet done (R287) -/
  first : Bool := true
  /-- W1C flags of STATE (R302), reset 0 -/
  swapRefused : Bool := false
  lostSeen : Bool := false
  satSeen : Bool := false
  /-- 16 bits, CATCH, reset 0 -/
  catch_ : Nat := 0
  /-- TN [31:0] of the catch, for the entry's SAMPLE_TICK -/
  catchTn : Nat := 0
  /-- edge count of the next catch -/
  due : Nat := 0
  /-- the result waiting for its release: output value and quality (R279) -/
  result : Option (Int × Byte) := none
  /-- edge count of that release -/
  relEdge : Nat := 0
  /-- 16 bits each, COUNTS (R299), reset 0 -/
  swaps : Nat := 0
  losses : Nat := 0
  deriving DecidableEq, Repr

/-- The loop engine. -/
structure Lpe where
  /-- declared slots, ascending -/
  slots : Table LoopSlot := []
  /-- 11 bits, LPE_BUDGET_BOUND, reset 0 -/
  bound : Nat := 0
  /-- 11 bits, LPE_BUDGET_LAST, reset 0 -/
  last : Nat := 0
  deriving DecidableEq, Repr



/-! ### Remote I/O (R305 to R328) -/

/-- The latest due marker of a station (R307). -/
structure Due where
  /-- edge count and TN of the marker's edge -/
  edge : Nat
  tn : Nat
  /-- MARKER_SEQ -/
  seq : Nat
  answered : Bool := false
  /-- the deadline has passed and was counted -/
  closed : Bool := false
  deriving DecidableEq, Repr

/-- A declared station. -/
structure Station where
  /-- 1 bit each, flags of RIO_STAm_s_STATE (R328), reset 0 -/
  online : Bool := false
  commLost : Bool := false
  safeSeen : Bool := false
  restartSeen : Bool := false
  localFault : Bool := false
  applied : Bool := false
  lateSeen : Bool := false
  /-- 8 bits, MISSED, reset 0 -/
  missed : Nat := 0
  /-- 32 bits, LAST, reset 0 -/
  last : Nat := 0
  /-- 32 bits, MISSES, reset 0 -/
  misses : Nat := 0
  /-- 16 bits each, DISCARDS, reset 0 -/
  late : Nat := 0
  failed : Nat := 0
  /-- 16 bits each, DELAY, reset 0 -/
  delay : Nat := 0
  delayMax : Nat := 0
  due : Option Due := none
  /-- a reply has been accepted since edge s (R317) -/
  ever : Bool := false
  /-- misses of the present loss, and the MARKER_SEQ of its first -/
  lossCount : Nat := 0
  firstMissed : Nat := 0
  /-- values and quality bytes of an accepted reply not yet in a version, with the marker's TN and the edge count of the
  version that its stamp gives (R31, R316) -/
  got : Option (List (Nat × Byte) × Nat × Nat) := none
  /-- edge count of the first edge at which the station is due, none before edge s (R307) -/
  dueFrom : Option Nat := none
  /-- the input items get STALE in the next version (R317) -/
  staleDue : Bool := false
  /-- status item as last written (R318) -/
  statusSeen : Option Nat := none
  deriving DecidableEq, Repr

/-- A medium that REMOTE declares: 0 to 7 T1S, 8 to 11 CAN. -/
structure Medium where
  /-- MARKER_SEQ of the next marker (R312), 0 after a restart -/
  seq : Nat := 0
  /-- 32 bits, RIO_MEDm_SEQ, reset 0 -/
  last : Nat := 0
  /-- 16 bits, largest B(k) or A(k) in µs (R325), set at load -/
  bound : Nat := 0
  /-- 16 bits, start delay of the last marker in µs (R325), reset 0 -/
  delay : Nat := 0
  /-- edge count of the marker not abandoned so far (R311) -/
  flight : Option Nat := none
  /-- what the last marker puts on the wire: segment and frame without FCS, or CAN identifiers and data fields (R312,
  R314) -/
  frames : List (Nat × List Byte) := []
  deriving DecidableEq, Repr

/-- The remote I/O block. -/
structure Rio where
  /-- declared stations by medium × 16 + station -/
  sta : Table Station := []
  /-- the media that REMOTE declares, by a station or by a CAN medium record -/
  media : Table Medium := []
  /-- 16 bits, RUN_ID (R312); kept through resets so that the next differs -/
  runId : Nat := 0
  /-- 32 bits, RIO_MISS_TOTAL, reset 0 -/
  missTotal : Nat := 0
  /-- 32 bits, RIO_ABANDON_TOTAL, reset 0 -/
  abandonTotal : Nat := 0
  deriving DecidableEq, Repr



/-! ### CAN FD channels (R329 to R355) -/

/-- States of a transmit buffer (R333). -/
inductive TxSt where
  | idle | pending | active | sent | cancelled | failed | refused
  deriving DecidableEq, Repr

/-- A transmit buffer. -/
structure CanBuf where
  /-- 30 bits, CANn_TXBb_ID (R347), reset 0 -/
  id : Nat := 0
  /-- 32 bits, CANn_TXBb_CTRL (R355), reset 0 -/
  ctrl : Nat := 0
  /-- 64 bytes, DATA0 to DATA15, reset 0 -/
  data : List Byte := List.replicate 64 0
  /-- 4 bits, state (R353), reset IDLE -/
  st : TxSt := .idle
  /-- a cancel waits for the end of the attempt (R335) -/
  cancel : Bool := false
  /-- 64 bits, time stamp of the last SENT (R340), reset 0 -/
  ts : Nat := 0
  deriving DecidableEq, Repr

/-- A receive queue entry (R337). -/
structure CanEntry where
  frame : CanFrame
  pair : Nat
  ts : Nat
  afterLoss : Bool
  deriving DecidableEq, Repr

/-- A receive queue (R338, R339). -/
structure CanQueue where
  /-- up to 32 entries, oldest first, reset empty -/
  entries : List CanEntry := []
  /-- the shadow buffer, reset empty -/
  shadow : Option CanEntry := none
  /-- 1 bit, LOCKED, reset 0 -/
  locked : Bool := false
  /-- task slot and core of the stroke copy that took the lock -/
  holder : Option (Nat × Nat) := none
  /-- 16 bits, DROPS, reset 0 -/
  drops : Nat := 0
  /-- the next entry written gets AFTER_LOSS -/
  loss : Bool := false
  deriving DecidableEq, Repr

/-- A CAN channel. -/
structure Can where
  /-- 8 bits, FLAGS of the NETWORK record as in CANn_CTRL [8:1] (R348), reset 0 -/
  opts : Nat := 0
  /-- 32 bits, CANn_NBT (R350), reset 0 -/
  nbt : Nat := 0
  /-- 32 bits, CANn_DBT, reset 0 -/
  dbt : Nat := 0
  /-- 7 bits, TDCO, reset 0 -/
  tdco : Nat := 0
  /-- 7 bits, measured loop delay, reset 0 -/
  loopDelay : Nat := 0
  /-- transmit error count (R341), reset 0 -/
  tec : Nat := 0
  /-- receive error count, reset 0 -/
  rec_ : Nat := 0
  /-- 1 bit, bus-off, reset 0 -/
  busOff : Bool := false
  /-- 1 bit, the wait for 128 occurrences of 11 recessive bits runs -/
  recovering : Bool := false
  /-- 1 bit, integrating or in reset (R349), reset 1 -/
  integrating : Bool := true
  /-- 1 bit, ALONE (R342), reset 0 -/
  alone : Bool := false
  /-- consecutive attempts that ended in an acknowledge error -/
  ackRun : Nat := 0
  /-- 3 bits each, LEC and DLEC (R351), reset 0b111 -/
  lec : Nat := 7
  dlec : Nat := 7
  /-- LEC at the last error, for event 0xA003 -/
  lastErr : Nat := 0
  /-- the marker of the frame of SEQ3 on the bus has been abandoned already (R311) -/
  dropped : Bool := false
  /-- 8 bits, CANn_FLAGS (R352), reset 0 -/
  flags : Nat := 0
  /-- 30 bits, CANn_DUP_ID, reset 0 -/
  dupId : Nat := 0
  /-- operating time of the last 0xA006 of each identifier (R343) -/
  dupTimes : Table Nat := []
  /-- 32 bits, TX_COUNT, reset 0 -/
  txCount : Nat := 0
  /-- 32 bits, RX_COUNT, reset 0 -/
  rxCount : Nat := 0
  /-- 16 bits each, SEQ_COUNT, reset 0 -/
  seqTx : Nat := 0
  seqRx : Nat := 0
  /-- 32 bits, PXE_COUNT, reset 0 -/
  pxe : Nat := 0
  bufs : List CanBuf := List.replicate 3 {}
  queues : List CanQueue := List.replicate 2 {}
  /-- frames of SEQ3 that wait, in order (R334) -/
  waiting : List (Nat × List Byte) := []
  /-- what is on the bus: buffer 0 to 2, or 3 for the first frame of SEQ3 -/
  active : Option Nat := none
  /-- the frame on the bus as the controller sends it (R329), reset none -/
  onBus : Option CanFrame := none
  /-- the SEQ3 frame on the bus began before the latest edge: it is not retried (R334), reset 0 -/
  old : Bool := false
  deriving DecidableEq, Repr



/-! ### Ethernet MACs (R356 to R389) -/

/-- A descriptor ring or receive queue (R360, R388, R389). -/
structure Ring where
  /-- 32 bits, BASE, [4:0] 0, reset 0 -/
  base : Nat := 0
  /-- 4 bits, LOG2SIZE, reset 0 -/
  log2 : Nat := 0
  /-- 1 bit, RUN, reset 0 -/
  run : Bool := false
  /-- 12 bits, HEAD, reset 0 -/
  head : Nat := 0
  /-- 12 bits, TAIL, reset 0 -/
  tail : Nat := 0
  /-- 1 bit, STOPPED, reset 0 -/
  stopped : Bool := false
  /-- 16 bits, DMA_REFUSED, reset 0 -/
  refused : Nat := 0
  /-- 15 bits, NO_DESC of a queue, reset 0 -/
  noDesc : Nat := 0
  /-- frames dropped since the previous descriptor was written (R362) -/
  drops : Nat := 0
  /-- segments of the TSO send at HEAD already sent (R376) -/
  segs : Nat := 0
  /-- next descriptor that ETH_RECEIVE takes (the service's own index) -/
  seen : Nat := 0
  deriving DecidableEq, Repr

/-- Sources of a frame on the line (R364). -/
inductive TxSrc where
  | marker
  | pause (quanta : Nat)
  | ptp (kind : PtpKind)
  | ring (r : Nat)
  deriving DecidableEq, Repr

/-- The frame a MAC is sending. -/
structure MacTx where
  src : TxSrc
  /-- the frame with its FCS; of a PTP message the header alone, since the manual does not give its bytes (R369, R400) -/
  frame : List Byte := []
  /-- address of its descriptor, of a frame of a ring (R361) -/
  desc : Nat := 0
  /-- RUN of its ring was set again since it was taken (R379) -/
  restarted : Bool := false
  /-- frames of its TSO send before it -/
  seg : Nat := 0
  /-- TS_REQ of the descriptor -/
  tsReq : Bool := false
  /-- frames of the TSO send, 0 for a plain frame -/
  total : Nat := 0
  /-- collisions so far (R365) -/
  collisions : Nat := 0
  /-- on the line, or waiting for its next attempt -/
  onLine : Bool := true
  /-- back-off in slot times of 51.2 µs (R365) -/
  backoff : Option Nat := none
  deriving DecidableEq, Repr

/-- A MAC. -/
structure Mac where
  /-- 8 bits, MACn_CTRL [7:3] (R383), reset 0 -/
  opts : Nat := 0
  /-- 32 bits, MACn_CFG (R382), reset 0 -/
  cfg : Nat := 0
  /-- 32 bits, MACn_PAUSE, reset 0 -/
  pauseCfg : Nat := 0
  /-- bytes in the receive FIFO, reset 0 -/
  fill : Nat := 0
  /-- 16 bits, largest fill since cleared, units of 16 bytes, reset 0 -/
  fillMax : Nat := 0
  /-- 11 bits, ROOM (R367), set at load, reset 0 -/
  room : Nat := 0
  /-- 8 bits, MACn_FLAGS (R385), reset 0 -/
  flags : Nat := 0
  /-- 16 counters of 32 bits (R386), reset 0 -/
  cnt : List Nat := List.replicate 16 0
  /-- 1 bit, LINK of a backbone MAC, reset 0 -/
  link : Bool := false
  /-- 2 bits, SPEED of a backbone MAC, reset 0 -/
  speed : Nat := 0
  /-- time of the received pause in quanta, PAUSED (R373), reset 0 -/
  paused : Nat := 0
  /-- 1 bit, XOFF, reset 0 -/
  xoff : Bool := false
  /-- 1 bit, CONFLICT, reset 0 -/
  conflict : Bool := false
  /-- operating time of the last 0xB00A (R366) -/
  conflictAt : Option Nat := none
  /-- 1 bit, REFUSED, reset 0 -/
  refused : Bool := false
  /-- 1 bit, the PHY is negotiating (R368) -/
  negotiating : Bool := true
  rings : List Ring := List.replicate 4 {}
  queues : List Ring := List.replicate 8 {}
  /-- ring served last, for the round robin of rings 1 to 3 (R364) -/
  lastRing : Nat := 3
  /-- the frame being sent -/
  tx : Option MacTx := none
  /-- own PAUSE frames ready, oldest first (R372) -/
  pauseOut : List Nat := []
  /-- PTP messages ready, oldest first -/
  ptpOut : List PtpKind := []
  /-- 1 bit, a PLCA cycle runs (R366) -/
  cycle : Bool := false
  /-- 1 bit, the module's opportunity of this cycle is unused -/
  turn : Bool := false
  /-- time from the cycle's start to the next output instant, ns (R367) -/
  leftNs : Nat := 0
  /-- edge count of the last marker cycle (R367) -/
  cycleEdge : Option Nat := none
  /-- the SEQ2 marker on the line, or waiting after a collision for the next opportunity (R364, R366), reset none -/
  marker : Option MacTx := none
  deriving DecidableEq, Repr



/-! ### Time: PTP, tick and calendar (R390 to R424, R586) -/

/-- States of the tick (R392). -/
inductive TickSt where
  | free | acquiring | locked | holdover
  deriving DecidableEq, Repr

/-- A PTP port (R419). -/
structure PtpPort where
  /-- 4 bits, PORT_STATE, reset 0 -/
  state : Nat := 0
  /-- 8 bits, IGNORED, reset 0 -/
  ignored : Nat := 0
  /-- 16 bits, DELAY in ns, reset 0 -/
  delay : Nat := 0
  /-- a path delay has been measured (R393), reset no -/
  measured : Bool := false
  /-- an offset has been measured (R393), reset no -/
  offsetOk : Bool := false
  /-- 64 bits, time stamp of the port's own event message sent last (R400) -/
  stamp : Nat := 0
  deriving DecidableEq, Repr

/-- What an Announce of the module says of its clock (R401): clockClass, PRIORITY1 and 2, timeSource, and, as grandmaster,
currentUtcOffset with ptpTimescale and currentUtcOffsetValid set. -/
structure Announced where
  clockClass : Nat
  priority1 : Nat
  priority2 : Nat
  timeSource : Nat
  utcOffset : Option Nat
  clockId : Nat := 0
  deriving DecidableEq, Repr

/-- A transmit time-stamp queue (R403). -/
structure Tsq where
  /-- ring, descriptor index, stamp; oldest first, at most 64, reset empty -/
  entries : List (Nat × Nat × Nat) := []
  /-- 16 bits, OVERFLOWS, reset 0 -/
  overflows : Nat := 0
  /-- 64 bits, HEAD1 and HEAD2 as latched, reset 0 -/
  latch : Nat := 0
  deriving DecidableEq, Repr

/-- The PTP block: servo state, ports, queues. -/
structure Ptp where
  /-- 2 bits, STATE (R418), reset FREE -/
  st : TickSt := .free
  /-- 1 bit, ALIGNED, reset 0 -/
  aligned : Bool := false
  /-- 1 bit, GM, reset 0 -/
  gm : Bool := false
  /-- 4 bits, SLAVE_PORT, reset 0xF -/
  slavePort : Nat := 0xF
  /-- the last slave port (R416), 0xF none -/
  lastSlave : Nat := 0xF
  /-- the joining edge to come: TN, time base, interval in ns (R393) -/
  join : Option (Nat × Nat × Nat) := none
  /-- 32 bits, PTP_ALIGN_TN, reset 0 -/
  alignTn : Nat := 0
  /-- signed 32 bits, PTP_OFFSET in ns, reset 0 -/
  offset : Int := 0
  /-- signed 32 bits, PTP_FREQ in 0.001 ppm, reset 0 -/
  freq : Int := 0
  /-- consecutive offsets within ±50 ns (R395) -/
  good : Nat := 0
  /-- consecutive offsets beyond ±100 ns -/
  bad : Nat := 0
  /-- edge count at alignment or at the last leave of LOCKED (R416) -/
  mark : Nat := 0
  /-- 1 bit, the master announces currentUtcOffsetValid (R408) -/
  utcValid : Bool := false
  /-- seconds, currentUtcOffset as the master announces it (R408), reset 0 -/
  utcOffset : Nat := 0
  /-- 64 bits, PTP_GM_ID0 and 1, reset 0 -/
  gmId : Nat := 0
  /-- what the Announce handed last to a MAC says (R401), reset none -/
  announced : Option Announced := none
  ports : List PtpPort := List.replicate 10 {}
  tsq : List Tsq := List.replicate 10 {}
  /-- 1 bit, PTP_CTRL.SYNC_EVERY, reset 0 -/
  syncEvery : Bool := false
  /-- 32 bits each, PTP_CFG, PTP_PRIO, PTP_MISC (R417), reset 0 -/
  cfg : Nat := 0
  prio : Nat := 0
  misc : Nat := 0
  /-- 64 bits, ORIGIN, reset 0 -/
  origin : Nat := 0
  /-- 32 bits, PTP_TIME_HI as latched, reset 0 -/
  timeHi : Nat := 0
  /-- 1 bit, SYNC_OUT pulsed at the last edge (R397), reset 0 -/
  syncOut : Bool := false
  deriving DecidableEq, Repr

/-- The RTC block and the backup domain. -/
structure Rtc where
  /-- 1 bit, the backup domain's supply is at or above 1.60 V (R412) -/
  valid : Bool := true
  /-- 1 bit, fed from VBAK (R413), SYS_SUPPLY.VBAK_ON (R72), reset 0: the main feed -/
  feedVbak : Bool := false
  /-- 1 bit, words 0 and 1 hold the canary (R411); not before the first power-up -/
  canary : Bool := false
  /-- 1 bit, the canary check of this boot waits for the domain (R412) -/
  checkDue : Bool := false
  /-- 32 bits, the calendar as seconds since 2000-01-01 (R404), BAK, log entry 5 -/
  seconds : Nat := 0
  /-- 15 bits, RTC_SUBSEC at the last instant that fixed it: a 1 Hz edge, a set, a read, a capture (R404 to R406), BAK, 0 -/
  subsec : Nat := 0
  /-- 8 bits, EPOCH (R407), BAK, 0 -/
  epoch : Nat := 0
  /-- 1 bit, OSF (R424), BAK, log entry 5 -/
  osf : Bool := false
  /-- 1 bit, DOMAIN, BAK, log entry 5 -/
  domainLost : Bool := false
  /-- 1 bit, OSC_STOP, BAK, log entry 5 -/
  oscStop : Bool := false
  /-- RTC_TIME1, RTC_SUBSEC, RTC_SECONDS as latched (R405), BAK; 2000-01-01 as the domain leaves its reset (R412, R422) -/
  latch1 : Nat := 0x07D00101
  latchSub : Nat := 0
  latchSec : Nat := 0
  /-- 32 bits, RTC_SET0, reset 0 -/
  set0 : Nat := 0
  /-- 32 bits, RTC_SET1, reset 0x07D0_0101 -/
  set1 : Nat := 0x07D00101
  /-- the set that waits for the next 1 Hz edge (R406), PENDING, reset none -/
  pendingSet : Option Nat := none
  /-- 1 bit, REFUSED, reset 0 -/
  refused : Bool := false
  /-- oscillator cycles still to drop or insert (R408), TRIMMING, reset 0 -/
  trim : Nat := 0
  /-- 1 bit, the trim inserts cycles: the calendar is behind (R408), reset 0 -/
  trimUp : Bool := false
  /-- 16 bits, RTC_VBAK in 10 mV, reset 0 -/
  vbak : Nat := 0
  /-- 16 bits, VBAK at the last power-up in 10 mV, which event 0xC008 gives (R416), 0 -/
  vbakUp : Nat := 0
  /-- 1 bit, RTC_CTRL.CHARGE (R414), reset 0 -/
  charge : Bool := false
  /-- 2 bits, FORCE of STK_NEXT_RESTART (R586), BAK, 0 -/
  force : Nat := 0
  /-- 1 bit, the backup copy of OFFCUT_PENDING, BAK, 0 -/
  offcutPending : Bool := false
  /-- 1 bit, TAMPER_EN as copied at the last load, BAK, 0 -/
  tamperEn : Bool := false
  /-- 32 bits, RTC_SECONDS captured at reset, BAK, 0 -/
  capSeconds : Nat := 0
  /-- 15 bits, RTC_SUBSEC captured, BAK, 0 -/
  capSub : Nat := 0
  /-- 1 bit, CAPTURED, BAK, 0 -/
  captured : Bool := false
  /-- 32 words, general backup memory (R411), BAK, 0 -/
  general : List Word := List.replicate 32 0
  deriving DecidableEq, Repr


/-- A part as a bank's header lists it (R189). -/
structure BankPart where
  kind : Nat
  slot : Nat
  offset : Nat
  length : Nat
  crc : Nat
  deriving DecidableEq, Repr

/-- A checkpoint bank (R187, R189). -/
structure Bank where
  /-- written before the last restart: the journal of this run does not follow it (log entry 8) -/
  old : Bool := false
  /-- COMPLETE reads 0x434B_5054 (R189) -/
  complete : Bool := false
  /-- every part matches its CRC (R189) -/
  intact : Bool := true
  /-- 32 bits, SEQUENCE -/
  seq : Nat := 0
  /-- 64 bits, EDGE_TN, and the edge count of K -/
  tn : Nat := 0
  edge : Nat := 0
  /-- 32 bytes, CARCASS_MEAS -/
  meas : List Byte := []
  /-- 64 bits, EDGE_DIGEST -/
  digest : BitVec 64 := 0
  /-- 32 bits, JOURNAL_OFFSET: ring offset of the record of K + 1 -/
  offset : Nat := 0
  /-- PARTS, PART_COUNT of them -/
  parts : List BankPart := []
  /-- process image version K -/
  image : Image := []
  /-- the task parts -/
  tasks : List TaskCkpt := []
  /-- the loop slots -/
  loops : List LoopSlot := []
  /-- the loop engine catches at K, after the checkpoint has taken the slots (R28, R279): the model's own field -/
  runs : Bool := false
  deriving DecidableEq, Repr

/-- The wake journal, the checkpoints and the spare seats. -/
structure Wke where
  /-- 1 MB journal buffer in DRAM: closed records not yet in the ring (R182), reset empty -/
  buffer : List JRecord := []
  /-- the record of the edge being committed (R183) -/
  cur : List JEntry := []
  /-- 48 MB ring in MRAM: valid records, oldest first (R182), MRAM, log entry 5 -/
  ring : List JRecord := []
  /-- MARK entries for the record of the next edge: kind, arg -/
  marks : List (Nat × Nat) := []
  /-- ring offset at which the next record is written (R182, R189), MRAM, log entry 5 -/
  head : Nat := 0
  /-- 1 bit, UNPROTECTED (R185), reset 0 -/
  suspended : Bool := false
  /-- 1 bit, the journal of the last run ends in a gap (R185): the model's own field, kept until the next edge s -/
  gap : Bool := false
  /-- checkpoint banks A and B in MRAM, log entry 5 -/
  bankA : Bank := {}
  bankB : Bank := {}
  /-- the restart state that Zynmond holds in DRAM, which serves as the checkpoint of edge s (R187), reset none -/
  restart : Bank := {}
  /-- the checkpoint being written, with its bank (R186) -/
  writing : Option Bank := none
  writingB : Bool := false
  /-- checkpoints due since the writer was busy (R186) -/
  ckptDue : Bool := false
  /-- checkpoints taken since the restart (R189) -/
  seq : Nat := 0
  /-- bank of the newest valid checkpoint (R209), reset A -/
  newestB : Bool := false
  /-- 16 bits, WKE_CKPT.DURATION, reset 0 -/
  duration : Nat := 0
  /-- 10 bits, WKE_CKPT_INTERVAL (R206), reset 0x64 -/
  interval : Nat := 0x64
  /-- 16 bits, WKE_FAILED (R206), reset 0 -/
  failed : Nat := 0
  /-- mask of the cores that failed the self-test of this boot and are left out (R203), reset 0 -/
  bootBad : Nat := 0
  /-- cores declared failed since the last tick edge, with the seat each took (R196), reset none -/
  recent : List (Nat × Option Nat) := []
  /-- 16 bits, WKE_SPARES.DECLARED (R208), reset 0 -/
  declared : Nat := 0
  /-- use of each declared seat still in the set, ascending core (R208) -/
  seats : Table SeatUse := []
  /-- takeovers in progress (R194), reset none -/
  takeovers : List Takeover := []
  /-- settlements in progress or waiting for edge u (R197), reset none -/
  settles : List Settle := []
  /-- 32 bits, WKE_CKPT_VOLUME in KB (R188), reset 0 -/
  volume : Nat := 0
  /-- 16 bits, WKE_RING_PEAK, reset 0 -/
  ringPeak : Nat := 0
  /-- 16 bits, WKE_RING_BOUND, reset 0 -/
  ringBound : Nat := 0
  /-- WKE_LAST_FAULT (R210), reset 0 -/
  lfValid : Bool := false
  lfKind : Nat := 0
  lfCore : Nat := 0
  lfSeat : Nat := 0
  lfNoSeat : Bool := false
  lfTasks : Nat := 0
  /-- 32 bits, WKE_TAKEOVER_LAST, reset 0 -/
  toLast : Nat := 0
  /-- 32 bits, WKE_TAKEOVER_MAX, reset 0 -/
  toMax : Nat := 0
  /-- 4 × 8 bits, WKE_COUNTS (R206), reset 0 -/
  cTakeovers : Nat := 0
  cSettled : Nat := 0
  cUnsettled : Nat := 0
  cReadback : Nat := 0
  /-- paired tasks that run on their survivor alone (R199) -/
  alone : List Nat := []
  deriving DecidableEq, Repr

/-! ### Event recorder (R425 to R446, R580) -/

/-- An event record (R425) with its RECNO (R429). -/
structure EvRecord where
  recno : Nat
  code : Nat
  drawer : Nat
  severity : Nat
  trust : Nat
  block : Nat
  unit : Nat
  folded : Bool
  repeats : Nat
  opTime : Nat
  cycles : Nat
  cal : Nat
  detail : Word
  /-- byte 30 as stored, outside the CRC (R425), 0 as the recorder writes it -/
  spare : Byte := 0
  deriving DecidableEq, Repr

/-- An occurrence held before the recorder runs (R580). -/
structure HeldEv where
  code : Nat
  block : Nat
  unit : Nat
  drawer : Nat
  detail : Word
  count : Nat
  deriving DecidableEq, Repr

/-- The event recorder. -/
structure Evr where
  /-- records of the MRAM store, oldest first (R434), log entry 5 -/
  records : List EvRecord := []
  /-- archived records in NAND, oldest first (R434), log entry 5 -/
  archive : List EvRecord := []
  /-- 32 bits, EVR_RECNO (R429), 1 at manufacture -/
  next : Nat := 1
  /-- 32 bits, EVR_FLOOR (R439), 1 at manufacture -/
  floor : Nat := 1
  /-- 32 bits, EVR_LOST, 0 at manufacture, log entry 5 -/
  lost : Nat := 0
  /-- 32 bits, EVR_FOLDS, reset 0 -/
  folds : Nat := 0
  /-- 32 bits, EVR_DROPS, reset 0 -/
  drops : Nat := 0
  /-- 1 bit, the newest record is the open head (R431), reset 0 -/
  headOpen : Bool := false
  /-- 1 bit, EVR_STATUS.FULL, reset 0 -/
  full : Bool := false
  /-- 1 bit, MOVING, reset 0 -/
  moving : Bool := false
  /-- 1 bit, MOVE_WAIT, reset 0 -/
  moveWait : Bool := false
  /-- 9 bits, BUFFER: occurrences not yet in MRAM (R430), reset 0 -/
  buffer : Nat := 0
  /-- new records among them -/
  bufferNew : Nat := 0
  /-- occurrences dropped since the buffer was last empty (R430), reset 0 -/
  dropped : Nat := 0
  /-- tokens missing from the bucket of a code (R432), absent 0 -/
  spent : Table Nat := []
  /-- 7 bits, EVR_CFG.BURST (R444), reset 0x40 -/
  burst : Nat := 0x40
  /-- 5 bits, EVR_CFG.RATE, reset 0x10 -/
  rate : Nat := 0x10
  /-- 7 bits, EVR_CFG.HEAD_OPEN, reset 0x0A -/
  headTime : Nat := 0x0A
  /-- 6 bits, EVR_SELECT, reset 0x20 -/
  select : Nat := 0x20
  /-- 8 words, EVR_WINDOW0 to 7, reset 0 -/
  window : List Word := List.replicate 8 0
  /-- 32 bits, EVR_WSTAT (R445), reset 0 -/
  wstat : Word := 0
  /-- 32 bits, EVR_WRECNO, reset 0 -/
  wrecno : Nat := 0
  /-- 33 cursors of 32 bits (R436), MRAM, log entry 5 -/
  cursors : List Nat := List.replicate 33 1
  /-- per cursor: the next latch sets SKIPPED (R438) -/
  skips : List Bool := List.replicate 33 false
  /-- 48 bits, operating time in 1/1024 s (R428), 0 at manufacture -/
  opTime : Nat := 0
  /-- fraction of it in 1/125 units (250 µs are 32/125 units) -/
  opFrac : Nat := 0
  /-- 48 bits, value saved last (R428) -/
  opSaved : Nat := 0
  /-- 32 bits, power-cycle count (R428), 0 at manufacture -/
  cycles : Nat := 0
  /-- 1 bit, the recorder takes occurrences (R580) -/
  running : Bool := false
  /-- occurrences held before it runs (R580) -/
  held : List HeldEv := []
  /-- occurrences of the clock cycle being worked out, which enter in order at its end (R430); none between commands -/
  cycle : Option (List HeldEv) := none
  deriving DecidableEq, Repr

/-! ### Check-value units (R447 to R458) -/

/-- One check-value unit. -/
structure Cvu where
  /-- 2 bits, MODE (R455), reset 0 -/
  mode : Nat := 0
  /-- 2 bits, POLY (R455), reset 0b11 -/
  poly : Nat := 3
  /-- 32 bits, the running value before the final XOR, reset the initial value of CRC-32C -/
  run : Nat := 0xFFFFFFFF
  /-- 32 bits, CVUn_COUNT, reset 0 -/
  count : Nat := 0
  /-- 32 bits, SRC, reset 0 -/
  src : Nat := 0
  /-- 32 bits, DST, reset 0 -/
  dst : Nat := 0
  /-- 25 bits, LEN, reset 0 -/
  len : Nat := 0
  /-- CVUn_JOB (R456): BUSY, DONE, MATCH, STATUS, reset 0 -/
  busy : Bool := false
  done : Bool := false
  hit : Bool := false
  status : Nat := 0
  /-- CVUn_FLAGS (R458), reset 0 -/
  busyWrite : Bool := false
  jobErr : Bool := false
  mismatch : Bool := false
  deriving DecidableEq, Repr



/-! ### Keys, tamper (R459 to R492) -/

/-- A key cell (R464, R470): its key is shareA XOR shareB. -/
structure Cell where
  /-- in use -/
  used : Bool := false
  /-- drawer of its holder, or of its last one; 0xFF a module key or never held -/
  drawer : Nat := 0xFF
  parent : Nat := 0
  /-- the parent's generation when the key was derived (R465) -/
  parentGen : Nat := 0
  /-- levels below the branch -/
  level : Nat := 0
  /-- 32 bits, generation; of a branch cell the generation table counts (R464) -/
  gen : Nat := 0
  label : List Byte := []
  /-- the shares were lost to tamper or debug (R482, R543) -/
  wiped : Bool := false
  shareA : BitVec 512 := 0
  shareB : BitVec 512 := 0
  deriving DecidableEq, Repr

/-- A copy of the generation table (R468). -/
structure GenTable where
  gens : List Nat
  seq : Nat
  tag : List Byte
  deriving DecidableEq, Repr

/-- What a request asks of the key core (R466, R477). -/
inductive KeyOp where
  | derive_ (parent : Nat) (label : List Byte)
  | digest (handle : Nat) (data : List Byte)
  | sign (handle : Nat) (data : List Byte)
  | pub (handle : Nat)
  | invalidate (handle : Nat)
  | random (buf len : Nat)
  | statement (nonce : List Byte)
  | command (op rsp : Nat) (payload sig : List Byte)
  deriving DecidableEq, Repr

/-- A request of the key core. -/
structure KeyReq where
  op : KeyOp
  /-- the crew core and task slot that asked; none: the service initiator -/
  asker : Option (Nat × Nat) := none
  drawer : Nat := 0xFF
  /-- the statement as captured at acceptance (R479) -/
  stmt : List Byte := []
  /-- node a Marzin ATTEST answers -/
  peer : Option Nat := none
  /-- reason found when the request started, 0 none (R490) -/
  reason : Nat := 0
  /-- cell used, its key and generation as captured when the request started (R484) -/
  cell : Option Nat := none
  key : BitVec 512 := 0
  gen : Nat := 0
  /-- the stroke that asked was released: the result goes nowhere (R466) -/
  withdrawn : Bool := false
  deriving DecidableEq, Repr

/-- A public key slot (R472, R492), MRAM, log entry 5. -/
structure KeySlot where
  /-- 1,793 bytes, empty for none -/
  key : List Byte := []
  /-- 8 bits, CHANGES -/
  changes : Nat := 0
  deriving DecidableEq, Repr

/-- The tamper record and the volatile key slots in BAK (R483, R491), log entry 5. -/
structure Tamper where
  /-- 1 bit, LATCHED -/
  latched : Bool := false
  /-- 1 bit, LOOP_BAD, reset 0 -/
  loopBad : Bool := false
  /-- 2 bits, CAUSE -/
  cause : Nat := 0
  /-- 3 bits, MODE -/
  mode : Nat := 0
  /-- 16 bits, COUNT -/
  count : Nat := 0
  /-- 32 bits, KEY_TAMPER_TIME -/
  time : Nat := 0
  /-- latched in DORMANT: 0xD003 due at the next boot (R482) -/
  due : Bool := false
  /-- session keys of the Marzin links, by peer (R482, R523), cleared by a detection -/
  sessions : Table (List Byte) := []
  deriving DecidableEq, Repr

/-- The KEY block. -/
structure Key where
  cells : List Cell := List.replicate 256 {}
  /-- the copies of the generation table still hold what provisioning wrote, whose values are open: the model's own
  field, true as shipped (log entry 5); the first reset release takes free values for them -/
  tablesOpen : Bool := true
  /-- the copies of the generation table in MRAM (log entry 5) -/
  tableA : Option GenTable := none
  tableB : Option GenTable := none
  /-- 32 × 32 bits, KEY_GENd: the table in force, 0 under the offcut root (R462) -/
  gens : List Nat := List.replicate 32 0
  seq : Nat := 0
  /-- 1 bit, READY, reset 0 -/
  ready : Bool := false
  /-- 1 bit, RNG_FAIL, reset 0 -/
  rngFail : Bool := false
  /-- 1 bit, GEN_RESEALED, reset 0 -/
  resealed : Bool := false
  /-- requests that wait, at most 16 (R466), reset none -/
  queue : List KeyReq := []
  /-- the request being served, reset none -/
  running : Option KeyReq := none
  /-- 4 fuse bits (R473), log entry 5: as shipped, PROVISIONED (R576) -/
  fuses : Nat := 1
  /-- 3 bits, STATE of the boot (R488), from the fuses -/
  lc : Nat := 1
  /-- 1 bit, PENDING, reset 0 -/
  pending : Bool := false
  /-- 3 bits, TARGET, reset 0 -/
  target : Nat := 0
  /-- the fuse bit being programmed: its state (R475), reset none -/
  fusing : Option Nat := none
  /-- 1 bit, OFFCUT: the root in force (R489) -/
  offcut : Bool := false
  /-- 1 bit, the MRAM copy of OFFCUT_PENDING (R461), log entry 5 -/
  offcutMram : Bool := false
  /-- 1 bit, ALLOWED, reset 0 -/
  allowed : Bool := false
  /-- 1 bit, USED, reset 0 -/
  debugUsed : Bool := false
  /-- 1 bit, BYPASS_SEEN, reset 0 -/
  bypassSeen : Bool := false
  /-- 32 bits, KEY_CMD_ADDR, reset 0 -/
  cmdAddr : Nat := 0
  /-- KEY_CMD_STATUS (R490), reset 0 -/
  cmdState : Nat := 0
  cmdReason : Nat := 0
  cmdOp : Nat := 0
  rspLen : Nat := 0
  /-- 32 bits, KEY_REMASK, reset 0 -/
  remask : Nat := 0
  /-- cells whose masking round waits for the end of the operation (R470) -/
  lateMask : List Nat := []
  /-- 32 bytes, the boot nonce (R476), drawn at reset release -/
  nonce : List Byte := List.replicate 32 0
  /-- slots 0 to 7; the key of slot 0 is in the boot ROM -/
  slots : List KeySlot := List.replicate 8 {}
  /-- identity partition (R23): the identity certificate and the transition certificates, log entry 5 -/
  idCert : List Byte := []
  transCerts : List (List Byte) := []
  tamper : Tamper := {}
  deriving DecidableEq, Repr



/-! ### Updates (R493 to R519) -/

/-- States of a NAND slot (R493). -/
inductive SlotSt where
  | empty | staging | verified | inForce | previous
  deriving DecidableEq, Repr

/-- Phases of an update (R516). -/
inductive UpdPhase where
  | idle | staging | verifying | verified | shadow | deferred | switching | watch | rollingBack
  deriving DecidableEq, Repr

/-- A NAND slot: its state and its parts as bytes (R23, R493), log entry 5: as shipped, EMPTY (R576). -/
structure SlotSet where
  st : SlotSt := .empty
  runtime : List Byte := []
  carcass : List Byte := []
  program : List Byte := []
  deriving DecidableEq, Repr

/-- The UPD block. -/
structure Upd where
  slotA : SlotSet := {}
  slotB : SlotSet := {}
  /-- 1 bit, ACTIVE, MRAM, as shipped A (R576) -/
  activeB : Bool := false
  /-- 1 bit, UNCONFIRMED, MRAM, log entry 5 -/
  unconfirmed : Bool := false
  /-- the unconfirmed update is of kind ONLINE (R507), MRAM, the model's own field -/
  online : Bool := false
  /-- the last update was rolled back (R516), MRAM, log entry 5 -/
  rolledBack : Bool := false
  /-- 1 bit, LOCKED, MRAM, log entry 5 -/
  locked : Bool := false
  /-- 32 bits, SEQ of the lock, MRAM, log entry 5 -/
  lockSeq : Nat := 0
  /-- 4 bits, PHASE, reset IDLE -/
  phase : UpdPhase := .idle
  /-- UPD_VERIFY (R519), reset 0 -/
  result : Nat := 0
  kind : Nat := 0
  runtimeCh : Bool := false
  programCh : Bool := false
  code : Nat := 0
  section_ : Nat := 0
  /-- 2 bits, PART, reset 0 -/
  part : Nat := 0
  /-- 32 bits each, UPD_XFER_ADDR, LEN, OFFSET, reset 0 -/
  addr : Nat := 0
  len : Nat := 0
  offset : Nat := 0
  /-- UPD_XFER_STATUS, reset 0 -/
  busy : Bool := false
  overrun : Bool := false
  dmaRefused : Bool := false
  notStaging : Bool := false
  /-- owner of the transfer in progress: a drawer, none the service initiator -/
  xferOwner : Option Nat := none
  /-- parts written since STAGE_OPEN (R497), mask -/
  written : Nat := 0
  /-- writes into the staged slot that wait for the end of a brace, oldest first: part, offset, bytes (R59) -/
  held : List (Nat × Nat × List Byte) := []
  /-- the copy of the parts not written that VERIFY begins with waits for the end of a brace (R59, R497) -/
  copyDue : Bool := false
  /-- START accepted, the shadow begins at the next edge (R500) -/
  startDue : Bool := false
  /-- edge count of S -/
  startEdge : Nat := 0
  /-- operating time of the pass (R503) -/
  passAt : Nat := 0
  /-- covered and compared task slots (R500) -/
  covered : List Nat := []
  compared : List Nat := []
  /-- seat of each covered task's shadow -/
  seats : Table Nat := []
  /-- state of each covered task's shadow, absent until its next catch copies the live one (R501) -/
  states : Table Memory := []
  /-- covered tasks that have completed a shadow stroke -/
  ran : List Nat := []
  /-- 32 bits, UPD_SHADOW, reset 0 -/
  shadowEdges : Nat := 0
  /-- 2 × 16 bits, UPD_SHADOW_CMP, reset 0 -/
  comparedN : Nat := 0
  misses : Nat := 0
  /-- 32 bits, UPD_SWITCH_TN, reset 0 -/
  switchTn : Nat := 0
  /-- tasks that have switched to the new set (R503) -/
  switched : List Nat := []
  /-- edge count of the last task's switch catch (R505), MRAM; none while a switch is under way, log entry 5 -/
  switchEnd : Option Nat := some 0
  /-- a rollback asked for: slot or 0xFF, trigger (R506) -/
  back : Option (Nat × Nat) := none
  /-- 32 bits, UPD_WATCH, reset 0 -/
  watch : Nat := 0
  /-- 2 × 16 bits, UPD_REMAP, reset 0 -/
  remapInit : Nat := 0
  remapDrop : Nat := 0
  /-- mapping due at the start of a task's next drive: items initialised, items dropped (R504) -/
  remaps : Table (List Nat × Nat) := []
  /-- mapping due for a task that has not yet caught since the switch or rollback edge -/
  maps : List Nat := []
  /-- 32 bits, UPD_LOCK_ADDR, reset 0 -/
  lockAddr : Nat := 0
  /-- 32 bits, UPD_SHADOW_N, reset 0x0FA0 -/
  shadowN : Nat := 0xFA0
  /-- 32 bits, UPD_WATCH_M, reset 0x9C40 -/
  watchM : Nat := 0x9C40
  deriving DecidableEq, Repr



/-! ### The hierarchy (R520 to R537) -/

/-- An admitted child (R522, R526). -/
structure Child where
  node : Nat
  role : Nat
  identity : List Byte
  lost : Bool := false
  deriving DecidableEq, Repr

/-- A directory entry (R527). -/
structure DirEntry where
  node : Nat
  point : Nat
  tenant : Nat
  typ : Nat
  pub : Bool
  deriving DecidableEq, Repr

/-- A CAUSE entry that waits for its version (R529). -/
structure CausePend where
  cause : Nat
  value : BitVec 64
  applyTn : Nat
  /-- 0 on time, 1 LATE, 2 FREE -/
  kind : Nat
  /-- edge count of the first version that may take it, when it is not on time (R31, R529) -/
  due : Nat := 0
  /-- the message it came with, in order of acceptance -/
  msg : Nat
  count : Nat
  deriving DecidableEq, Repr

/-- A Marzin message as the arbiters hold it (R523). -/
structure Marzin where
  ackReq : Bool
  weight : Nat
  origin : Nat
  drawer : Nat
  dest : Nat
  /-- NODE_ID of the module it came from, its own for one of this module -/
  via : Nat
  /-- LENGTH of the body -/
  len : Nat
  body : MarzinBody
  /-- the bytes of a body that the manual gives no layout (log entry 18) -/
  raw : List Byte := []
  /-- SEQ of a resend, none for a message not yet sent (R525) -/
  again : Option Nat := none
  deriving DecidableEq, Repr

/-- A message handed to the backbone MACs that had link (R523, R525): its peer, SEQ, TN and ports, the datagram's addresses,
PORT and VID, and its UDP payload on each port. -/
structure SentMsg where
  peer : Nat
  seq : Nat
  tn : Nat
  ports : List Nat
  msg : Marzin
  /-- OWN_ADDR and the peer's address, 16 bytes each -/
  ownAddr : List Byte := []
  peerAddr : List Byte := []
  /-- UDP port and VLAN of HIERARCHY (R520) -/
  udpPort : Nat := 0
  vid : Nat := 0
  /-- the UDP payload on each of the ports -/
  payloads : List (List Byte) := []
  deriving DecidableEq, Repr

/-- A source of an arbiter (R531). -/
structure Source where
  origin : Nat
  drawer : Nat
  weight : Nat
  deficit : Nat := 0
  /-- messages with their UDP payload length, at most 64 -/
  queue : List Marzin := []
  deriving DecidableEq, Repr

/-- A Marzin arbiter (R531). -/
structure Arbiter where
  /-- ALIGN, CAUSE and ACK messages in arrival order -/
  first : List Marzin := []
  /-- tracked sources, at most 4,096, the next of the round first -/
  sources : List Source := []
  /-- the catch-all source of weight 1 -/
  rest : Source := { origin := 0xFFFF, drawer := 0xFF, weight := 1 }
  /-- the head source has received its turn's bytes -/
  inTurn : Bool := false
  deriving DecidableEq, Repr

/-- A message sent that waits for its ACK (R525). -/
structure Unacked where
  peer : Nat
  seq : Nat
  msg : Marzin
  tries : Nat := 0
  deriving DecidableEq, Repr

/-- The SEQ of a link (R525). -/
structure Peer where
  /-- SEQ accepted last from it, none in a new session -/
  rx : Option Nat := none
  /-- SEQ sent last to it -/
  tx : Nat := 0
  /-- the last ACK sent to it: class, SEQ, status -/
  acked : Option (Nat × Nat × Nat) := none
  /-- its IPv6 address as its last message gave it (R523), reset none -/
  addr : List Byte := []
  deriving DecidableEq, Repr

/-- A DIR_READ that waits for its answer (R528). -/
structure DirWait where
  core : Nat
  slot : Nat
  node : Nat
  point : Nat
  deriving DecidableEq, Repr

/-- The HIE block and the Marzin link. -/
structure Hie where
  /-- 2 bits, ROLE (R537), reset 0 -/
  role : Nat := 0
  /-- 2 bits, LEVEL, reset 0 -/
  level : Nat := 0
  /-- 12 bits, VID, reset 0 -/
  vid : Nat := 0
  /-- 14 bits, NODE_ID, reset 0 -/
  node : Nat := 0
  /-- 16 bits, PARENT_ID, reset 0 -/
  parent : Nat := 0
  /-- 1 bit each, HIE_STATUS (R536), reset 0 -/
  parentLost : Bool := false
  originMismatch : Bool := false
  admitted : Bool := false
  dirFull : Bool := false
  /-- child entries, at most 127, reset none -/
  children : List Child := []
  /-- the directory, manager only, at most 262,144, reset none -/
  dir : List DirEntry := []
  /-- CAUSE entries pending, at most 64, reset none -/
  causes : List CausePend := []
  /-- messages accepted so far, the mark of a CausePend -/
  accepted : Nat := 0
  /-- 16, 8 and 8 bits, HIE_CAUSE_COUNTS, reset 0 -/
  onTime : Nat := 0
  late : Nat := 0
  ignored : Nat := 0
  /-- 32 bits, HIE_CAUSE_LAST, reset 0 -/
  causeLast : Nat := 0
  /-- 32 bits each, HIE_DUPS, RETRIES, REJECTS, SRC_DROPS, SRC_OVERFLOW, reset 0 -/
  dups : Nat := 0
  retries : Nat := 0
  rejects : Nat := 0
  srcDrops : Nat := 0
  srcOverflow : Nat := 0
  /-- 32 bits, HIE_TAG_SEQ, MRAM, 0 at manufacture -/
  tagSeq : Nat := 0
  /-- the links by node, reset none -/
  peers : Table Peer := []
  unacked : List Unacked := []
  /-- egress toward the parent, ingress of a manager (R531) -/
  egress : Arbiter := {}
  ingress : Arbiter := {}
  /-- messages sent since the last tick edge, oldest first -/
  sent : List SentMsg := []
  /-- the child through which each node was last heard -/
  routes : Table Nat := []
  waits : List DirWait := []
  deriving DecidableEq, Repr



/-! ### The debug port (R538 to R557) -/

/-- Standing of a core under the probe (R557). -/
structure DbgCore where
  /-- 1 bit, the probe holds the core -/
  held : Bool := false
  /-- 4 bits, CAUSE, reset 0 -/
  cause : Nat := 0
  /-- 4 bits, INDEX, reset 0 -/
  index : Nat := 0
  /-- 32 bits, PC, reset 0 -/
  pc : Nat := 0
  /-- 7 bits, RSEL, reset 0 -/
  rsel : Nat := 0
  /-- core registers 0 to 95, 64 bits, absent 0 (log entry 5) -/
  regs : Table Nat := []
  /-- 8 breakpoints, reset 0 -/
  bps : List Nat := List.replicate 8 0
  /-- 4 watchpoints, ADDR and CFG, reset 0 -/
  wps : List (Nat × Nat) := List.replicate 4 (0, 0)
  deriving DecidableEq, Repr

/-- A force entry (R550): PT, and the 64-bit VALUE, reset 0; ACTIVE from the next output instant on. -/
structure Force where
  pt : Nat := 0
  value : Nat := 0
  /-- point and value in effect (R550) -/
  active : Option (Nat × BitVec 64) := none
  /-- value and quality last committed or sampled for that point -/
  under : BitVec 64 := 0
  underQ : Byte := 0
  deriving DecidableEq, Repr

/-- The DBG block and the TAP. -/
structure Dbg where
  /-- 1 bit each, DBG_STATUS (R555), reset 0; ALLOWED is `key.allowed`, ENABLED `key.debugUsed` -/
  bypassOk : Bool := false
  stepBusy : Bool := false
  freeze : Bool := false
  tokenRefused : Bool := false
  stepIgnored : Bool := false
  /-- 24 bits, DBG_STEPS, reset 0 -/
  steps : Nat := 0
  /-- 8 bits, DBG_TAG, reset 0x20 -/
  tag : Nat := 0x20
  /-- token buffer, at most 1,536 bytes, reset empty -/
  token : List Byte := []
  cores : List DbgCore := List.replicate 16 {}
  forces : List Force := List.replicate 32 {}
  /-- a step waits for the next edge (R546) -/
  stepDue : Bool := false
  /-- the first step since the entry edge is still to come -/
  firstStep : Bool := true
  /-- RELEASE or a disconnection during a step: the reset follows at the close of the next edge (R552) -/
  exitDue : Bool := false
  /-- the probe has written since the previous edge (R551) -/
  wrote : Bool := false
  /-- 5 bits, the TAP's instruction register, reset IDCODE (IEEE 1149.1, log entry 5) -/
  ir : Nat := 1
  /-- the boundary register over the logic pins of J2, reset 0 (log entry 5) -/
  boundary : Nat := 0
  /-- STATUS and DATA of the last SVCACC access, reset 0 -/
  svcStatus : Nat := 0
  svcData : Nat := 0
  deriving DecidableEq, Repr

/-! ### The whole module -/

/-- A crew core as the scheduler and the isolation unit see it (R34, R66). -/
structure Core where
  /-- 1 bit, out of power gating (R66), reset 0 -/
  powered : Bool := false
  /-- task slot of the stroke in drive (R34), reset none -/
  driving : Option Nat := none
  deriving DecidableEq, Repr

/-- What a command that returns something returned: the model's own field, not the manual's (log entry 6). -/
inductive Answer where
  | none
  | value (n : Nat)
  | values (l : List Nat)
  | bytes (l : List Byte)
  /-- refused with a REASON of R490 -/
  | reason (n : Nat)
  | refused
  deriving DecidableEq, Repr

/-- The state of the module. -/
structure State where
  /-- commands waiting, first in, first out (the model's queue) -/
  pending : List Instr := []
  /-- the last command's answer (log entry 6) -/
  answer : Answer := .none
  /-- free values drawn so far (log entry 7) -/
  fresh : Nat := 0
  sys : Sys := {}
  drw : Drw := {}
  stk : Stk := {}
  dvt : Dvt := {}
  wke : Wke := {}
  jig : Jig := {}
  dio : Dio := {}
  aio : Aio := {}
  lpe : Lpe := {}
  rio : Rio := {}
  can : List Can := List.replicate 4 {}
  mac : List Mac := List.replicate 10 {}
  ptp : Ptp := {}
  rtc : Rtc := {}
  evr : Evr := {}
  cvu : List Cvu := List.replicate 6 {}
  key : Key := {}
  upd : Upd := {}
  hie : Hie := {}
  dbg : Dbg := {}
  cores : List Core := List.replicate 16 {}
  /-- block instances with ENABLE set (R43), reset none -/
  enabled : List Block := []
  /-- block instances with DECLARED set (R45), reset none -/
  declared : List Block := []
  /-- MRAM and DRAM bytes (R22), log entry 3 -/
  mem : Memory := []
  deriving DecidableEq, Repr

/-- The module right after reset: every register at its reset value, nothing loaded, both slots as shipped (R576);
the values the manual does not give are named in log entry 5. SAFE has just powered up: the supervisor starts with the
warning asserted (R589). -/
def State.reset : State := { sys := { pfw := true } }

/-- Reasons the machine stops with a fault. No command of the table stops the machine: a refused access, a bus
error and every fault of the manual is a recorded effect on the state. -/
inductive Fault where
  /-- a state in which the module could not go on: raised by no command (safe) -/
  | none
  deriving DecidableEq, Repr

/-- Reasons a command has no meaning. -/
inductive Refusal where
  /-- raised by an arm of `exec` whose command has no meaning yet (safe) -/
  | notModelled (mnemonic : String)
  deriving DecidableEq, Repr

end Sys2Proof.Machine
end

