-- ==== Sys2Proof/Machine/Data.lean ====
section
/-! DEFINITION. Operations on the plain data of the state: sparse tables, lists by position, memory bytes,
little-endian fields, saturating counts. -/
namespace Sys2Proof.Machine

/-! ### Sparse tables -/

/-- The entry of a key. -/
def tget {α : Type} (t : Table α) (k : Nat) : Option α :=
  match t with
  | [] => none
  | (i, a) :: r => if i = k then some a else tget r k

/-- The table with the entry of a key set; ascending order is kept. -/
def tset {α : Type} (t : Table α) (k : Nat) (a : α) : Table α :=
  match t with
  | [] => [(k, a)]
  | (i, b) :: r => if k < i then (k, a) :: (i, b) :: r else if i = k then (k, a) :: r else (i, b) :: tset r k a

/-- The table without a key. -/
def tdel {α : Type} (t : Table α) (k : Nat) : Table α := t.filter (fun p => p.1 != k)

/-- The number of a key, 0 when absent. -/
def tnum (t : Table Nat) (k : Nat) : Nat := (tget t k).getD 0

/-! ### Lists by position -/

/-- The list with the element at a position changed. -/
def lmod {α : Type} (l : List α) (i : Nat) (f : α → α) : List α :=
  match l, i with
  | [], _ => []
  | a :: r, 0 => f a :: r
  | a :: r, i + 1 => a :: lmod r i f

/-- The positions and elements of a list. -/
def enum {α : Type} (l : List α) : List (Nat × α) := (List.range l.length).zip l

/-- Inserts an element before the first one it comes before. -/
def insertBy {α : Type} (lt : α → α → Bool) (a : α) (l : List α) : List α :=
  match l with
  | [] => [a]
  | b :: r => if lt a b then a :: b :: r else b :: insertBy lt a r

/-- A list sorted by an order; equals keep their order. -/
def sortBy {α : Type} (lt : α → α → Bool) (l : List α) : List α := l.foldl (fun acc a => insertBy lt a acc) []

/-! ### Numbers -/

/-- `n + k`, saturating at the greatest number of `w` bits. -/
def sat (w n k : Nat) : Nat := min (n + k) (2 ^ w - 1)

/-- The mask with bit `i` set. -/
def bset (m i : Nat) : Nat := m ||| 2 ^ i

/-- The mask with bit `i` clear. -/
def bclr (m i : Nat) : Nat := if m.testBit i then m - 2 ^ i else m

/-- The mask with bit `i` as given. -/
def bput (m i : Nat) (b : Bool) : Nat := if b then bset m i else bclr m i

/-- The bits of `m` that are not in `k`. -/
def bandn (m k : Nat) : Nat := m - (m &&& k)

/-- How many of the low `w` bits are set. -/
def popc (m w : Nat) : Nat := ((List.range w).filter (fun i => m.testBit i)).length

/-- The positions of the bits set among the low `w`, ascending. -/
def bitsOf (m w : Nat) : List Nat := (List.range w).filter (fun i => m.testBit i)

/-- The mask of a list of bits, first element bit 0. -/
def maskOf (l : List Bool) : Nat :=
  match l with
  | [] => 0
  | b :: r => bit b + 2 * maskOf r

/-- The mask of the positions of a list at which a test holds. -/
def maskBy {α : Type} (l : List α) (p : α → Bool) : Nat := maskOf (l.map p)

/-- A number in two's complement at width `w`. -/
def twos (w : Nat) (i : Int) : Nat := (i % (2 ^ w : Int)).toNat

/-- The signed number of a two's complement word of width `w`. -/
def signed (w n : Nat) : Int := if n % 2 ^ w < 2 ^ (w - 1) then (n % 2 ^ w : Nat) else (n % 2 ^ w : Nat) - (2 ^ w : Int)

/-! ### Bytes -/

/-- `k` bytes of a number, least significant first. -/
def leBytes (k n : Nat) : List Byte :=
  match k with
  | 0 => []
  | k + 1 => b8 n :: leBytes k (n / 256)

/-- `k` bytes of a number, most significant first. -/
def beBytes (k n : Nat) : List Byte := (leBytes k n).reverse

/-- The number of bytes in little-endian order. -/
def leNat (l : List Byte) : Nat :=
  match l with
  | [] => 0
  | b :: r => b.toNat + 256 * leNat r

/-- `k` bytes from offset `o`, as many as there are. -/
def sub (l : List Byte) (o k : Nat) : List Byte := (l.drop o).take k

/-- The little-endian field of `k` bytes at offset `o` of a record. -/
def f8 (l : List Byte) (o : Nat) : Nat := leNat (sub l o 1)
/-- Two bytes at an offset. -/
def f16 (l : List Byte) (o : Nat) : Nat := leNat (sub l o 2)
/-- Four bytes at an offset. -/
def f32 (l : List Byte) (o : Nat) : Nat := leNat (sub l o 4)
/-- Eight bytes at an offset. -/
def f64 (l : List Byte) (o : Nat) : Nat := leNat (sub l o 8)

/-- A byte string cut into records of `k` bytes, `n` at most. -/
def chunks (l : List Byte) (k n : Nat) : List (List Byte) :=
  match n with
  | 0 => []
  | n + 1 => if l.isEmpty then [] else l.take k :: chunks (l.drop k) k n

/-! ### Memory (R22) -/

/-- What an unlisted byte reads as: 0x00 (log entry 3). -/
def Memory.blank : Byte := 0

/-- The byte at an address. -/
def Memory.read (m : Memory) (a : Nat) : Byte :=
  match m with
  | [] => Memory.blank
  | (i, b) :: r => if i = a then b else Memory.read r a

/-- The memory with the byte at an address written; the canonical form is kept. -/
def Memory.write (m : Memory) (a : Nat) (b : Byte) : Memory :=
  match m with
  | [] => if b = Memory.blank then [] else [(a, b)]
  | (i, c) :: r =>
    if a < i then (if b = Memory.blank then (i, c) :: r else (a, b) :: (i, c) :: r)
    else if i = a then (if b = Memory.blank then r else (a, b) :: r)
    else (i, c) :: Memory.write r a b

/-- `k` bytes from an address. -/
def Memory.readN (m : Memory) (a k : Nat) : List Byte := (List.range k).map (fun i => Memory.read m (a + i))

/-- Bytes written from an address on. -/
def Memory.writeN (m : Memory) (a : Nat) (l : List Byte) : Memory :=
  match l with
  | [] => m
  | b :: r => Memory.writeN (Memory.write m a b) (a + 1) r

/-- Bytes written by address. -/
def Memory.put (m : Memory) (l : List (Nat × Byte)) : Memory := l.foldl (fun m p => Memory.write m p.1 p.2) m

/-- The canonical form: addresses strictly rising, no entry equal to what an unlisted byte reads as. -/
abbrev Memory.wf (m : Memory) : Prop :=
  m.Pairwise (fun p q => p.1 < q.1) ∧ ∀ p ∈ m, p.2 ≠ Memory.blank

end Sys2Proof.Machine
end

