-- ==== Sys2Proof/Machine/Crc.lean ====
section
/-! DEFINITION. The four checks of the check-value units (R447, R448). -/
namespace Sys2Proof.Machine

/-- Parameters of a check (R447). -/
structure CrcKind where
  width : Nat
  poly : Nat
  init : Nat
  refl : Bool
  xorOut : Nat
  deriving DecidableEq, Repr

/-- The four checks, by POLY (R447). -/
def crcKind (p : Nat) : CrcKind :=
  match p with
  | 0 => { width := 8, poly := 0x2F, init := 0xFF, refl := false, xorOut := 0xFF }
  | 1 => { width := 16, poly := 0x1021, init := 0xFFFF, refl := false, xorOut := 0 }
  | 2 => { width := 32, poly := 0xEDB88320, init := 0xFFFFFFFF, refl := true, xorOut := 0xFFFFFFFF }
  | _ => { width := 32, poly := 0x82F63B78, init := 0xFFFFFFFF, refl := true, xorOut := 0xFFFFFFFF }

/-- Eight shifts of a running value: right with the mirrored polynomial when reflected, left otherwise. -/
def crcShift (k : CrcKind) (n v : Nat) : Nat :=
  match n with
  | 0 => v
  | n + 1 =>
    if k.refl then crcShift k n (if v % 2 = 1 then (v / 2) ^^^ k.poly else v / 2)
    else crcShift k n (if v.testBit (k.width - 1) then ((2 * v) % 2 ^ k.width) ^^^ k.poly else 2 * v)

/-- The running value after one more byte. -/
def crcByte (k : CrcKind) (v : Nat) (b : Byte) : Nat :=
  if k.refl then crcShift k 8 (v ^^^ b.toNat) else crcShift k 8 (v ^^^ (b.toNat * 2 ^ (k.width - 8)))

/-- The running value after more bytes. -/
def crcFeed (k : CrcKind) (v : Nat) (l : List Byte) : Nat :=
  match l with
  | [] => v
  | b :: r => crcFeed k (crcByte k v b) r

/-- The check of a byte string, by POLY (R447). -/
def crc (p : Nat) (l : List Byte) : Nat := crcFeed (crcKind p) (crcKind p).init l ^^^ (crcKind p).xorOut

/-- CRC-16 of a byte string. -/
def crc16 (l : List Byte) : Nat := crc 1 l
/-- CRC-32 of a byte string. -/
def crc32 (l : List Byte) : Nat := crc 2 l
/-- CRC-32C of a byte string. -/
def crc32c (l : List Byte) : Nat := crc 3 l

/-- The bytes of a check in the order a unit appends them: reflected least significant first (R448). -/
def crcBytes (p v : Nat) : List Byte :=
  if (crcKind p).refl then leBytes ((crcKind p).width / 8) v else beBytes ((crcKind p).width / 8) v

/-- The Ethernet FCS of a frame, with the parameters of CRC-32 (R447, R450). -/
def ethFcs (l : List Byte) : Nat := crc32 l

/-- A frame with its FCS appended, in the order of a reflected check (R369, R448). -/
def withFcs (l : List Byte) : List Byte := l ++ crcBytes 2 (ethFcs l)

/-- The 64-bit digest of a byte stream: CRC-32C in the low half, CRC-32 in the high half (R171). -/
def digest64 (l : List Byte) : BitVec 64 := BitVec.ofNat 64 (crc32c l + crc32 l * 2 ^ 32)

end Sys2Proof.Machine
end

