-- ==== Sys2Proof/Machine/Tables.lean ====
section
/-! DEFINITION. The tables of the carcass image in force: records of each section as bytes, read at the offsets
the manual gives (R85 to R93, R115). -/
namespace Sys2Proof.Machine

/-- One record of a section. -/
abbrev Rec := List Byte

/-- The section of a type. -/
def sect (img : List Section) (t : Nat) : Option Section := img.find? (fun x => x.type = t)

/-- The records of the section of a type. -/
def recs (img : List Section) (t : Nat) : List Rec :=
  match sect img t with
  | some x => chunks (x.body.take (x.count * x.recSize)) x.recSize x.count
  | none => []

/-- MODULE (R86). -/
def modRec (img : List Section) : Rec := (recs img 0x01).headD []

/-! POINTS records (R90) -/
/-- INDEX. -/
def ptIndex (r : Rec) : Nat := f16 r 0
/-- DRAWER. -/
def ptDrawer (r : Rec) : Nat := f8 r 2
/-- TYPE. -/
def ptType (r : Rec) : Nat := f8 r 3
/-- WRITER. -/
def ptWriter (r : Rec) : Nat := f16 r 4
/-- BINDING kind. -/
def ptKind (r : Rec) : Nat := f16 r 6 / 4096
/-- BINDING channel, item or condition. -/
def ptChan (r : Rec) : Nat := f16 r 6 % 4096
/-- UPDATE_BLOCKING. -/
def ptBlocking (r : Rec) : Bool := tb (f16 r 8) 0
/-- HOLD_MODE. -/
def ptHoldMode (r : Rec) : Nat := f8 r 0x0A
/-- SHARE. -/
def ptShare (r : Rec) : Nat := f32 r 0x0C
/-- HOLD_VALUE. -/
def ptHold (r : Rec) : BitVec 64 := BitVec.ofNat 64 (f64 r 0x10)
/-- INIT_VALUE. -/
def ptInit (r : Rec) : BitVec 64 := BitVec.ofNat 64 (f64 r 0x18)
/-- WRITER names the sequencers. -/
def ptIsInput (r : Rec) : Bool := ptWriter r = 0xF000

/-- The POINTS records. -/
def points (img : List Section) : List Rec := recs img 0x05

/-- The record of a point index. -/
def pointRec (img : List Section) (i : Nat) : Option Rec := (points img).find? (fun r => ptIndex r = i)

/-- The point bound to a kind and channel. -/
def boundTo (img : List Section) (kind chan : Nat) : Option Rec :=
  (points img).find? (fun r => ptKind r = kind && ptChan r = chan)

/-- A point is visible in a drawer: owned or shared (R27). -/
def ptVisible (r : Rec) (d : Nat) : Bool := ptDrawer r = d || tb (ptShare r) d

/-- The points a writer owns, ascending. -/
def ownedBy (img : List Section) (w : Nat) : List Rec := (points img).filter (fun r => ptWriter r = w)

/-! TASKS records (R91) -/
/-- SLOT. -/
def tkSlot (r : Rec) : Nat := f8 r 0
/-- DRAWER. -/
def tkDrawer (r : Rec) : Nat := f8 r 1
/-- PRIORITY. -/
def tkPrio (r : Rec) : Nat := f8 r 2
/-- KIND is event. -/
def tkEvent (r : Rec) : Bool := f8 r 3 = 1
/-- PERIOD or deadline. -/
def tkPeriod (r : Rec) : Nat := f32 r 4
/-- POOL. -/
def tkPool (r : Rec) : Nat := f8 r 8
/-- FLAGS.PAIRED. -/
def tkPaired (r : Rec) : Bool := tb (f8 r 9) 0
/-- FLAGS.DEADLINE_WORK. -/
def tkWork (r : Rec) : Bool := tb (f8 r 9) 1
/-- TRIG_FIRST. -/
def tkTrigFirst (r : Rec) : Nat := f16 r 0x0A
/-- OFFSET. -/
def tkOffset (r : Rec) : Nat := f32 r 0x0C
/-- BUDGET. -/
def tkBudget (r : Rec) : Nat := f32 r 0x10
/-- TRIG_COUNT. -/
def tkTrigCount (r : Rec) : Nat := f16 r 0x14
/-- STATE_SIZE. -/
def tkState (r : Rec) : Nat := f32 r 0x1C

/-- The TASKS records. -/
def taskRecs (img : List Section) : List Rec := recs img 0x06

/-- The record of a task slot. -/
def taskRec (img : List Section) (n : Nat) : Option Rec := (taskRecs img).find? (fun r => tkSlot r = n)

/-- The trigger records of a task (R115). -/
def triggersOf (img : List Section) (r : Rec) : List Rec :=
  match sect img 0x06 with
  | some x =>
    let all := chunks (x.body.drop (x.count * x.recSize)) 8 x.body.length
    (all.drop (tkTrigFirst r)).take (tkTrigCount r)
  | none => []

/-! DRAWERS (R88), MEMORY (R89), POOLS (R87), FILTERS (R93) -/
/-- The record of a drawer. -/
def drawerRec (img : List Section) (d : Nat) : Option Rec := (recs img 0x02).find? (fun r => f8 r 0 = d)

/-- Grant item `i` of a drawer: 0 none, 1 basic, 2 expert (R94). Every declared drawer has basic EVR. -/
def grant (img : List Section) (d i : Nat) : Nat :=
  match drawerRec img d with
  | some r => if i = 24 then 1 else fld (leNat (sub r 0x10 12)) (2 * i) 2
  | none => 0

/-- MEMORY record fields: drawer, kind, access, owner, base, size. -/
def mwDrawer (r : Rec) : Nat := f8 r 0
/-- Retained window. -/
def mwRetained (r : Rec) : Bool := f8 r 1 = 1
/-- Read-write window. -/
def mwWritable (r : Rec) : Bool := f8 r 2 = 1
/-- Owning task slot. -/
def mwOwner (r : Rec) : Nat := f8 r 3
/-- BASE. -/
def mwBase (r : Rec) : Nat := f32 r 4
/-- SIZE. -/
def mwSize (r : Rec) : Nat := f32 r 8

/-- The read-write retained windows of a task slot, in MEMORY order (R171). -/
def retWins (img : List Section) (slot : Nat) : List Rec :=
  (recs img 0x04).filter (fun r => mwRetained r && mwWritable r && mwOwner r = slot)

/-- The address of a byte offset within a slot's read-write retained windows. -/
def retAddr (ws : List Rec) (off : Nat) : Option Nat :=
  match ws with
  | [] => none
  | r :: t => if off < mwSize r then some (mwBase r + off) else retAddr t (off - mwSize r)

/-- The read-write windows of a task slot: its journal-protected state (R180). -/
def stateWins (img : List Section) (slot : Nat) : List Rec := (recs img 0x04).filter (fun r => mwWritable r && mwOwner r = slot)

/-- Those of them in DRAM. -/
def dramWins (img : List Section) (slot : Nat) : List Rec := (stateWins img slot).filter (fun r => !mwRetained r)

/-- An address lies in one of some windows. -/
def inWins (ws : List Rec) (a : Nat) : Bool := ws.any (fun r => mwBase r ≤ a && a < mwBase r + mwSize r)

/-- A drawer is declared. -/
def drawerKnown (secs : List Section) (d : Nat) : Bool := (drawerRec secs d).isSome

/-- FILTERS records of a form. -/
def filters (img : List Section) (form : Nat) : List Rec := (recs img 0x0B).filter (fun r => f8 r 0 = form)

/-- The drawer of a point bound to a channel, 0 when none. -/
def chanDrawer (img : List Section) (kind chan : Nat) : Nat := (boundTo img kind chan).elim 0 ptDrawer

end Sys2Proof.Machine
end

