-- ==== Sys2Proof/Machine/Recorder.lean ====
section
/-! DEFINITION. The event recorder's core: severities, entry of an occurrence, head record, rate limit, store
and archive (R425 to R435, R578 to R582). The blocks raise their events through `raise` of Arbiter.lean. -/
namespace Sys2Proof.Machine

/-- Severity of a code (R426, R578). -/
def severity (code : Nat) : Nat :=
  if code / 0x1000 = 0xD then 6
  else if code ∈ [0x0010, 0x1001, 0x2006, 0x4009, 0x8003, 0x8005, 0xB00C, 0xE001, 0xE004, 0xF00A, 0xF012] then 0
  else if code ∈ [0x0001, 0x0021, 0x0022, 0x0031, 0x1011, 0x3009, 0x4002, 0x4003, 0x4008, 0x400A, 0x5002, 0x6002,
    0x600C, 0x600D, 0x7002, 0x8002, 0x9002, 0x9003, 0xA002, 0xA004, 0xB001, 0xC001, 0xC002, 0xC004, 0xC005, 0xE006,
    0xE007, 0xE009, 0xE00B, 0xF001, 0xF004] then 1
  else if code ∈ [0x0004, 0x0005, 0x0012, 0x0023, 0x1010, 0x2001, 0x2002, 0x3004, 0x4005, 0x6001, 0x6006, 0x600A,
    0x7001, 0x8001, 0x8004, 0x9004, 0x9005, 0x9006, 0xA001, 0xA005, 0xA006, 0xA007, 0xA008, 0xA009, 0xB002, 0xB004,
    0xB005, 0xB006, 0xB007, 0xB008, 0xB00B, 0xC003, 0xC006, 0xC009, 0xE002, 0xE003, 0xE005, 0xE00A, 0xF002, 0xF009,
    0xF015] then 2
  else if code ∈ [0x0002, 0x2004, 0x5001] then 4
  else if code ∈ [0x5003, 0x5004, 0xF006, 0xF007, 0xF008] then 5
  else if code ∈ [0xF010, 0xF011, 0xF013, 0xF014] then 6
  else 3

/-- Codes under the rate limit, ascending (R581). -/
def limitedCodes : List Nat :=
  [0x4004, 0x5004, 0x8001, 0x8002, 0x8003, 0x8004, 0x8005, 0x9005, 0xA006, 0xA007, 0xA009, 0xB004, 0xB005,
    0xB006, 0xB007, 0xB00B, 0xB00C, 0xF009, 0xF012]

/-- The code is under the rate limit. -/
def rateLimited (code : Nat) : Bool := code ∈ limitedCodes

/-- Codes every cursor sees (R436). -/
def publicCode (code : Nat) : Bool := code ∈ [0x0001, 0x0002, 0x1010, 0x1011, 0xC002, 0xC003, 0xC005]

/-- An occurrence as a block raises it: code, block code, unit, drawer, detail (R426). -/
structure Occ where
  code : Nat
  block : Nat
  unit : Nat := 0
  drawer : Nat := 0
  detail : Nat := 0

/-- Records the store holds (R434). -/
def storeCap : Nat := 524288

/-- Starts a batch move when the store holds more than 393,216 records, or waits while a brace lasts (R434, R59). -/
def moveStart (brace : Bool) (e : Evr) : Evr :=
  if e.records.length > 393216 && !e.moving then
    if brace then { e with moveWait := true } else { e with moving := true, moveWait := false }
  else e

/-- A new record at the head of the store (R427, R429, R431): the previous head closes; a full store overwrites the
oldest record that has not been moved and counts the loss (R434). -/
def newRecord (brace : Bool) (trust cal : Nat) (o : Occ) (repeats : Nat) (folded : Bool) (e : Evr) : Evr :=
  let r : EvRecord := {
    recno := e.next, code := o.code, drawer := o.drawer, severity := severity o.code,
    trust := trust, block := o.block, unit := o.unit, folded := folded, repeats := repeats,
    opTime := e.opTime % 2 ^ 48, cycles := e.cycles, cal := cal, detail := w32 o.detail }
  let lose := e.records.length ≥ storeCap
  let old := if lose then e.records.drop 1 else e.records
  moveStart brace { e with
    records := old ++ [r], next := (e.next + 1) % 2 ^ 32, headOpen := decide (e.headTime ≠ 0 ∧ repeats < 32767),
    bufferNew := e.bufferNew + 1, lost := if lose then sat 32 e.lost 1 else e.lost, full := e.full || decide lose }

/-- A new record and, when it is the first to overwrite an unmoved one, event 0x0020 after it (R434). -/
def writeRecord (brace : Bool) (trust cal : Nat) (o : Occ) (repeats : Nat) (folded : Bool) (e : Evr) : Evr :=
  let e1 := newRecord brace trust cal o repeats folded e
  if e1.full && !e.full then
    newRecord brace trust cal { code := 0x0020, block := 0x0E, detail := e1.lost } 1 false e1
  else e1

/-- Adds 1 to REPEAT of the newest record (R431). -/
def mergeHead (e : Evr) : Evr :=
  let n := e.records.length - 1
  let recs := lmod e.records n (fun r => { r with repeats := r.repeats + 1 })
  { e with records := recs, headOpen := decide ((recs.getLast?.elim 0 (·.repeats)) < 32767) }

/-- The position of the fold target: the most recent record of the same code and drawer of this boot (R432, R433). -/
def foldTarget (o : Occ) (e : Evr) : Option Nat :=
  ((enum e.records).filter (fun p => p.2.code = o.code && p.2.drawer = o.drawer && p.2.cycles = e.cycles)).getLast?.map (·.1)

/-- Folds an occurrence into a record, or counts a drop when its REPEAT is full (R432, R433). -/
def foldInto (i : Nat) (e : Evr) : Evr :=
  if ((e.records[i]?).elim 0 (·.repeats)) ≥ 32767 then { e with drops := sat 32 e.drops 1 }
  else
    let recs := lmod e.records i (fun r => { r with repeats := r.repeats + 1, folded := true })
    { e with
      records := recs, folds := sat 32 e.folds 1,
      headOpen := e.headOpen && decide ((recs.getLast?.elim 0 (·.repeats)) < 32767) }

/-- The open head takes the occurrence (R431). -/
def mergesHead (o : Occ) (e : Evr) : Bool :=
  e.headOpen && decide (o.code ≠ 0x0021) &&
    e.records.getLast?.elim false (fun r => r.code = o.code && r.block = o.block && r.unit = o.unit && r.drawer = o.drawer)

/-- An occurrence enters the recorder (R430 to R433). A clear always writes its record, a full buffer or not (R439,
DEDUCED, log entry 5). -/
def enterOcc (brace : Bool) (trust cal : Nat) (o : Occ) (e : Evr) : Evr :=
  if e.buffer ≥ 256 && o.code ≠ 0x0021 then { e with drops := sat 32 e.drops 1, dropped := e.dropped + 1 }
  else
    let e := { e with buffer := e.buffer + 1 }
    if mergesHead o e then mergeHead e
    else if rateLimited o.code then
      if tnum e.spent o.code < e.burst then
        writeRecord brace trust cal o 1 false { e with spent := tset e.spent o.code (tnum e.spent o.code + 1) }
      else
        match foldTarget o e with
        | some i => foldInto i e
        | none => writeRecord brace trust cal o 1 false e
    else writeRecord brace trust cal o 1 false e

/-- A new BURST: each bucket keeps its tokens, at most BURST of them (R432). -/
def setBurst (b : Nat) (e : Evr) : Evr :=
  { e with burst := b, spent := limitedCodes.map (fun c => (c, b - min (e.burst - tnum e.spent c) b)) }

/-- Before the recorder runs, a block holds the first occurrence of each code and unit and counts later ones (R580). -/
def holdOcc (o : Occ) (l : List HeldEv) : List HeldEv :=
  match l with
  | [] => [{ code := o.code, block := o.block, unit := o.unit, drawer := o.drawer, detail := w32 o.detail, count := 1 }]
  | h :: r =>
    if h.code = o.code && h.block = o.block && h.unit = o.unit then { h with count := h.count + 1 } :: r
    else h :: holdOcc o r

/-- The TRUST byte of a record entered now (R425). -/
def trustByte (s : State) : Nat := bit s.key.offcut * 2 ^ 7 + bit (!s.rtc.osf) * 2 ^ 6 + s.rtc.epoch % 64

/-- `RTC_SECONDS` now (R425). -/
def calNow (s : State) : Nat := s.rtc.seconds

/-- An occurrence reaches the recorder, or is held until it runs (R430, R580). -/
def record_ (o : Occ) (s : State) : State :=
  if s.evr.running then { s with evr := enterOcc s.sys.brace (trustByte s) (calNow s) o s.evr }
  else { s with evr := { s.evr with held := holdOcc o s.evr.held } }

/-- The 32 bytes of a record as stored (R425). -/
def recordBytes (r : EvRecord) : List Byte :=
  let a := leBytes 2 r.code ++ [b8 (r.drawer + r.severity * 32), b8 r.trust] ++ leBytes 2 (r.block * 2 ^ 11 + r.unit)
  let c := leBytes 6 r.opTime ++ [0, 0] ++ leBytes 4 r.cycles ++ leBytes 4 r.cal ++ leBytes 4 r.detail.toNat
  a ++ leBytes 2 (r.repeats + bit r.folded * 2 ^ 15) ++ c ++ leBytes 2 (crc16 (a ++ c)) ++ [r.spare, 0xA5]

end Sys2Proof.Machine
end

