-- ==== Sys2Proof/Machine/Arbiter.lean ====
section
/-! DEFINITION. The Marzin arbiters, the sending of messages, and the raising of events, of which some are forwarded to
the parent (R430, R523 to R525, R531). -/
namespace Sys2Proof.Machine

/-! ### Arbiters (R531) -/

/-- UDP payload length of a message (R523). -/
def marzinSize (m : Marzin) : Nat := 48 + m.len

/-- ALIGN, CAUSE and ACK messages are served first, in arrival order. -/
def goesFirst (m : Marzin) : Bool :=
  match m.body with
  | .align _ | .cause _ _ | .ack _ _ _ => true
  | _ => false

/-- The origin that marks the catch-all source. -/
def catchAll : Nat := 0x10000

/-- Tracked sources of an arbiter, the catch-all apart. -/
def tracked (a : Arbiter) : Nat := (a.sources.filter (fun x => x.origin ≠ catchAll)).length

/-- Active sources of an arbiter: tracked ones with messages (R531, R535). -/
def activeSources (a : Arbiter) : Nat := (a.sources.filter (fun x => x.origin ≠ catchAll && !x.queue.isEmpty)).length

/-- The arbiter tracks the source. -/
def tracks (a : Arbiter) (o d : Nat) : Bool := a.sources.any (fun x => x.origin = o && x.drawer = d)

/-- The catch-all entry stands in the table when it is first needed. -/
def withRest (a : Arbiter) : Arbiter :=
  if tracks a catchAll 0 then a else { a with sources := a.sources ++ [{ origin := catchAll, drawer := 0, weight := 1 }] }

/-- A message for a source's queue of 64; false when it is full. -/
def pushSource (a : Arbiter) (o d : Nat) (m : Marzin) : Arbiter × Bool :=
  let full := a.sources.any (fun x => x.origin = o && x.drawer = d && x.queue.length ≥ 64)
  if full then (a, false)
  else ({ a with sources := a.sources.map (fun x =>
      if x.origin = o && x.drawer = d then { x with weight := if o = catchAll then 1 else m.weight, queue := x.queue ++ [m] } else x) }, true)

/-- A message enters an arbiter: whether it was dropped, and whether the table was full. -/
def arbPush (a : Arbiter) (m : Marzin) : Arbiter × Bool × Bool :=
  if goesFirst m then ({ a with first := a.first ++ [m] }, false, false)
  else if tracks a m.origin m.drawer then
    let r := pushSource a m.origin m.drawer m
    (r.1, !r.2, false)
  else if tracked a < 4096 then
    let r := pushSource { a with sources := a.sources ++ [{ origin := m.origin, drawer := m.drawer, weight := m.weight }] } m.origin m.drawer m
    (r.1, !r.2, false)
  else
    let r := pushSource (withRest a) catchAll 0 m
    (r.1, !r.2, true)

/-- One turn of the deficit round robin after another until a message is served; whether the catch-all served it. -/
def arbRound (fuel : Nat) (a : Arbiter) : Arbiter × Option (Marzin × Bool) :=
  match fuel with
  | 0 => (a, none)
  | fuel + 1 =>
    match a.sources with
    | [] => (a, none)
    | x :: rest =>
      let x := if a.inTurn then x else { x with deficit := x.deficit + 256 * x.weight }
      match x.queue with
      | [] => arbRound fuel { a with sources := rest ++ [{ x with deficit := 0 }], inTurn := false }
      | m :: q =>
        if marzinSize m ≤ x.deficit then
          let y := { x with queue := q, deficit := x.deficit - marzinSize m }
          let a := if q.isEmpty then { a with sources := rest ++ [{ y with deficit := 0 }], inTurn := false }
            else { a with sources := y :: rest, inTurn := true }
          (a, some (m, decide (x.origin = catchAll)))
        else arbRound fuel { a with sources := rest ++ [x], inTurn := false }

/-- The arbiter serves its next message. -/
def arbServe (a : Arbiter) : Arbiter × Option (Marzin × Bool) :=
  match a.first with
  | m :: r => ({ a with first := r }, some (m, false))
  | [] => arbRound (8 * (a.sources.length + 1)) a

/-- A source without messages leaves the table. -/
def arbExpire (o d : Nat) (a : Arbiter) : Arbiter :=
  { a with sources := a.sources.filter (fun x => !(x.origin = o && x.drawer = d && x.queue.isEmpty)) }

/-! ### Sending (R523 to R525) -/

/-- Changes the HIE block. -/
def modHie (f : Hie → Hie) (s : State) : State := { s with hie := f s.hie }

/-- The declared backbone MACs that have link (R525). -/
def linkPorts (s : State) : List Nat := [8, 9].filter (fun m => s.declared.contains (.mac m) && (s.mac.getD m {}).link)

/-- The module record of HIERARCHY (R520). -/
def hieRec (img : List Section) : Rec := (recs img 0x0F).headD []

/-- CLASS of a body (R524); an ACK has the class of the message it answers (R525). -/
def classOf (b : MarzinBody) : Nat :=
  match b with
  | .align _ => 1 | .directory _ => 2 | .event _ _ => 3 | .attest _ => 4 | .orch _ => 5 | .cause _ _ => 6 | .notice _ _ => 7
  | .ack c _ _ => c

/-- The body of a message as bytes (R524, R529). -/
def bodyBytes (m : Marzin) : List Byte :=
  match m.body with
  | .event r n => r ++ leBytes 4 n
  | .cause t l => leBytes 8 t ++ [b8 l.length, 0, 0, 0] ++
      l.flatMap (fun e => leBytes 2 e.1 ++ [0, 0] ++ leBytes 8 e.2.toNat)
  | _ => m.raw

/-- The header of a message as sent (R523); `port9` is FLAGS bit 0. -/
def marzinHeader (s : State) (seq : Nat) (port9 : Bool) (m : Marzin) : List Byte :=
  let isAck := match m.body with | .ack _ _ _ => true | _ => false
  leBytes 4 0x5A4D464A ++ [1, b8 (classOf m.body), b8 (bit port9 + bit m.ackReq * 2 + bit isAck * 4), b8 m.weight] ++
    leBytes 2 m.origin ++ [b8 m.drawer, 0] ++ leBytes 2 s.hie.node ++ leBytes 2 m.dest ++ leBytes 4 seq ++
    leBytes 8 s.stk.tn ++ leBytes 2 m.len ++ [0, 0]

/-- TAG of a message to a peer: over the session key and the message with FLAGS bit 0 taken as 0 (R523). Before a
session key is agreed the key is none (log entry 18). -/
def marzinTag (s : State) (peer seq : Nat) (m : Marzin) : List Byte :=
  Config.shake256 (((tget s.key.tamper.sessions peer).getD []) ++ marzinHeader s seq false m ++ bodyBytes m) 16

/-- The UDP payload of a message on a port (R523). -/
def marzinPayload (s : State) (peer seq : Nat) (m : Marzin) (port : Nat) : List Byte :=
  marzinHeader s seq (port = 9) m ++ bodyBytes m ++ marzinTag s peer seq m

/-- Address of a peer: PARENT_ADDR of the parent, the address it was last heard from of any other (R520, R523). -/
def peerAddr (s : State) (peer : Nat) : List Byte :=
  if peer = s.hie.parent then sub (hieRec s.drw.image) 24 16 else ((tget s.hie.peers peer).getD {}).addr

/-- A message goes to a peer, once on each declared backbone MAC with link, with the next SEQ; one with ACK_REQ waits
for its ACK. A resend keeps its SEQ (R523, R525). -/
def hieSend (peer : Nat) (m : Marzin) (s : State) : State :=
  let ports := linkPorts s
  modHie (fun h =>
    let p := (tget h.peers peer).getD {}
    let seq := m.again.getD ((p.tx + 1) % 2 ^ 32)
    let first := m.again.isNone
    { h with
      peers := if first then tset h.peers peer { p with tx := seq } else h.peers,
      sent := h.sent ++ [{
        peer := peer, seq := seq, tn := s.stk.tn, ports := ports, msg := m, ownAddr := sub (hieRec s.drw.image) 8 16,
        peerAddr := peerAddr s peer, udpPort := f16 (hieRec s.drw.image) 40, vid := h.vid,
        payloads := ports.map (marzinPayload s peer seq m) }],
      unacked := if m.ackReq && first then h.unacked ++ [{ peer := peer, seq := seq, msg := m }] else h.unacked }) s

/-- What became of a message that entered an arbiter: drops, and event 0xF009, by `note`, when the table was full. -/
def noteArbBy (note : Occ → State → State) (m : Marzin) (dropped full : Bool) (s : State) : State :=
  let s := if dropped then modHie (fun h => { h with srcDrops := sat 32 h.srcDrops 1 }) s else s
  if full then note { code := 0xF009, block := 0x12, detail := m.origin } s else s

/-- A message toward the parent enters the egress arbiter. -/
def sendUpBy (note : Occ → State → State) (m : Marzin) (s : State) : State :=
  let r := arbPush s.hie.egress m
  noteArbBy note m r.2.1 r.2.2 (modHie (fun h => { h with egress := r.1 }) s)

/-- The module has a parent to send to: a WORKER or ZONE_MANAGER that is admitted. -/
def hasParent (s : State) : Bool := (s.hie.role = 1 || s.hie.role = 3) && s.hie.admitted

/-- WEIGHT of an own source: the drawer's, 1 for the service initiator (R520, log entry 18). -/
def ownWeight (s : State) (d : Nat) : Nat :=
  if d < 32 then leNat (sub (hieRec s.drw.image) 48 16) / 2 ^ (4 * d) % 16 + 1 else 1

/-- Length of a body: given for EVENT_FWD and CAUSE, open for the others (R523, R529, log entry 18). -/
def bodyLen (s : State) (b : MarzinBody) : Nat :=
  match b with
  | .event _ _ => 36
  | .cause _ l => 12 + 12 * l.length
  | _ => Config.freeValue s.fresh % 1405

/-- A message of this module's own; the bytes of an open body are a free value (log entry 18). -/
def ownMsg (drawer : Nat) (ackReq : Bool) (dest : Nat) (body : MarzinBody) (s : State) : Marzin := {
  ackReq := ackReq, weight := ownWeight s drawer, origin := s.hie.node, drawer := drawer, dest := dest, via := s.hie.node,
  len := bodyLen s body, body := body, raw := leBytes (bodyLen s body) (Config.freeValue (s.fresh + 1)) }

/-- A message of this module's own toward its parent. -/
def ownUpBy (note : Occ → State → State) (drawer : Nat) (ackReq : Bool) (body : MarzinBody) (s : State) : State :=
  if hasParent s then sendUpBy note (ownMsg drawer ackReq s.hie.parent body s) { s with fresh := s.fresh + 2 } else s

/-! ### Raising events -/

/-- The records written since RECNO stood at `before`. -/
def newRecords (before : Nat) (e : Evr) : List EvRecord := e.records.drop (e.records.length - (e.next + 2 ^ 32 - before) % 2 ^ 32)

/-- Each new record of severity FWD_SEVERITY or higher is forwarded while EVENT_FWD is set: the record and its RECNO
(R524). -/
def forwardBy (note : Occ → State → State) (before : Nat) (s : State) : State :=
  if (f8 (hieRec s.drw.image) 42).testBit 0 then
    (newRecords before s.evr).foldl (fun s r =>
      if r.severity ≥ f8 (hieRec s.drw.image) 43 then ownUpBy note r.drawer false (.event (recordBytes r) r.recno) s else s) s
  else s

/-- A block raises an occurrence, and the records it gives are forwarded; forwarding may itself raise 0xF009, a code of the
rate limit, so that no more than BURST of them become records (R432, R524, R531). -/
def raiseBy (fuel : Nat) (o : Occ) (s : State) : State :=
  match fuel with
  | 0 => record_ o s
  | fuel + 1 =>
    match s.evr.cycle with
    | some l =>
      { s with evr := { s.evr with cycle := some (l ++ [{
          code := o.code, block := o.block, unit := o.unit, drawer := o.drawer, detail := w32 o.detail, count := 1 }]) } }
    | none => forwardBy (raiseBy fuel) s.evr.next (record_ o s)

/-- A block raises an occurrence (R430, R580). -/
def raise (o : Occ) (s : State) : State := raiseBy 66 o s

/-- What became of a message that entered an arbiter. -/
def noteArb (m : Marzin) (dropped full : Bool) (s : State) : State := noteArbBy raise m dropped full s

/-- A message toward the parent enters the egress arbiter. -/
def sendUp (m : Marzin) (s : State) : State := sendUpBy raise m s

/-- A message of this module's own toward its parent. -/
def ownUp (drawer : Nat) (ackReq : Bool) (body : MarzinBody) (s : State) : State := ownUpBy raise drawer ackReq body s

/-- A NOTICE: kind 1 mode, 2 replacement causes, 3 tick state, with its value (R524, log entry 18). -/
def notice (kind value : Nat) (s : State) : State := ownUp 0xFF false (.notice kind value) s

/-- The occurrence a held one stands for. -/
def heldOcc (h : HeldEv) : Occ :=
  { code := h.code, block := h.block, unit := h.unit, drawer := h.drawer, detail := h.detail.toNat }

/-- Held occurrences by ascending block code, then ascending unit; equals keep their order. -/
def byBlock (l : List HeldEv) : List HeldEv :=
  sortBy (fun a b => decide (a.block * 4096 + a.unit < b.block * 4096 + b.unit)) l

/-- What `f` raises is raised in one clock cycle: it enters by ascending block code, then ascending unit (R430). A reset
within `f` drops it. -/
def sameCycle (f : State → State) (s : State) : State :=
  if !s.evr.running || s.evr.cycle.isSome then f s
  else
    let t := f { s with evr := { s.evr with cycle := some [] } }
    match t.evr.cycle with
    | none => t
    | some l => (byBlock l).foldl (fun s h => raise (heldOcc h) s) { t with evr := { t.evr with cycle := none } }

/-- Event 0x0004: a register write ignored (R15, R579). `block` is the block written. -/
def raiseIgnored (block addr : Nat) (s : State) : State :=
  raise { code := 0x0004, block := block, detail := addr } s

/-- The buffer empties: every entry is in MRAM, and drops since it was last empty are recorded (R430). -/
def drainBuffer (s : State) : State :=
  let n := s.evr.dropped
  let s := { s with evr := { s.evr with buffer := 0, bufferNew := 0, dropped := 0 } }
  if n = 0 then s
  else
    let s := raise { code := 0x0023, block := 0x0E, detail := min n 0xFFFF } s
    { s with evr := { s.evr with buffer := 0, bufferNew := 0 } }

/-- Code of a mode (R49). -/
def modeCode (m : Mode) : Nat :=
  match m with | .dormant => 0 | .rigging => 1 | .run => 2 | .degraded => 3 | .hold => 4 | .debug => 5

/-- A transition of R51: PREV, event 0x0001 with the old and the new mode, and a NOTICE of the mode (R69, R524). -/
def enterMode (m : Mode) (s : State) : State :=
  let old := s.sys.mode
  let s := { s with sys := { s.sys with mode := m, prev := old } }
  notice 1 (modeCode m) (raise { code := 0x0001, block := 0x01, detail := modeCode old * 2 ^ 8 + modeCode m } s)

/-- The recorder starts (R580): event 0x1001 first, then 0x0001 of the entry into RIGGING, an occurrence of this instant and
of the lowest block (R51, DEDUCED, log entry 13), then the occurrences held, by ascending block code and unit. -/
def recorderStart (s : State) : State :=
  if s.evr.running then s
  else
    let held := byBlock s.evr.held
    let s := { s with evr := { s.evr with running := true, held := [] } }
    let s := raise {
      code := 0x1001, block := 0x01,
      detail := s.sys.cause + bit s.sys.noBrace * 2 ^ 7 + s.sys.primary * 2 ^ 28 } s
    let s := raise { code := 0x0001, block := 0x01, detail := 1 } s
    held.foldl (fun s h =>
      let e := writeRecord s.sys.brace (trustByte s) (calNow s) (heldOcc h) (min h.count 32767) (decide (h.count > 1)) s.evr
      { s with evr := { e with drops := sat 32 e.drops (h.count - 32767) } }) s

end Sys2Proof.Machine
end

