-- ==== Sys2Proof/Machine/Jig.lean ====
section
/-! DEFINITION. The jig matrix and the output stage: rules, latches, the merge, scrub and copies
(R92, R104, R211 to R231, R32, R240, R245). -/
namespace Sys2Proof.Machine

/-- Bytes of a JIG body (R92). -/
def jigBytes : Nat := 4256

/-- Term `m` of rule `n` of a body (R211). -/
def jigTerm (body : List Byte) (n m : Nat) : Nat := f32 body (32 * n + 4 * m)

/-- Target record `t` of a body (R217). -/
def jigTarget (body : List Byte) (t : Nat) : Nat := f32 body (4096 + 4 * t)

/-- Target of a rule: TGT of term 0, 0x3F for none (R211). -/
def ruleTarget (body : List Byte) (n : Nat) : Nat := fld (jigTerm body n 0) 16 6

/-- The raw value of a term: its source after INVERT (R212). `di` are the coupler outputs, 0 where the wire is
open (R215); `rules` the states of the lower rules. -/
def termRaw (di cond rules w : Nat) : Bool :=
  let i := fld w 0 7
  let src := match fld w 30 2 with
    | 1 => di.testBit i
    | 2 => cond.testBit i
    | _ => rules.testBit i
  if w.testBit 29 then !src else src

/-- The stored bit of a latched term (R213): set while raw is 1; cleared while raw is 0 and its condition is 1. -/
def latchNext (cond w : Nat) (raw stored : Bool) : Bool :=
  if w.testBit 28 then raw || (stored && !cond.testBit (fld w 22 6)) else false

/-- The stored bits after term `i`'s evaluation and whether every used term so far is 1. -/
def evalTerms (body : List Byte) (di cond rules n : Nat) (ms : List Nat) (latch : Nat) : Nat × Bool × Bool :=
  ms.foldl (fun (acc : Nat × Bool × Bool) m =>
    let w := jigTerm body n m
    if fld w 30 2 = 0 then acc
    else
      let raw := termRaw di cond rules w
      let st := latchNext cond w raw (acc.1.testBit (8 * n + m))
      (bput acc.1 (8 * n + m) st, true, acc.2.2 && (raw || st))) (latch, false, true)

/-- Latches and rule states of the matrix, by rule number ascending (R212, R214). -/
def evalRules (body : List Byte) (di cond latch : Nat) : Nat × Nat :=
  (List.range 128).foldl (fun (acc : Nat × Nat) n =>
    let r := evalTerms body di cond acc.2 n (List.range 8) acc.1
    (r.1, if r.2.1 && r.2.2 then bset acc.2 n else acc.2)) (latch, 0)

/-- Coupler outputs as the matrix sees them: an input with an open wire reads 0 (R215). -/
def jigInputs (s : State) : Nat := bandn s.jig.di (maskBy s.dio.di (·.wireOpen))

/-- The matrix evaluates: its rules, the latches, what has been true since the last edge (R212, R213, R116). -/
def evalMatrix (s : State) : State :=
  if s.jig.active then
    let r := if s.jig.matrix.isEmpty then (s.jig.latch, 0)
      else evalRules s.jig.matrix (jigInputs s) s.jig.cond s.jig.latch
    { s with jig := { s.jig with latch := r.1, rules := r.2, seen := s.jig.seen ||| r.2, fired := s.jig.fired ||| r.2 } }
  else { s with jig := { s.jig with rules := 0 } }

/-! ### The merge (R218) -/

/-- MODE of a target; NONE when the matrix holds no copy (R225). -/
def targetMode (s : State) (t : Nat) : Nat := if s.jig.matrix.isEmpty then 0 else fld (jigTarget s.jig.matrix t) 0 2

/-- HOLD of a target (R217). -/
def targetHold (s : State) (t : Nat) : Nat := if s.jig.matrix.isEmpty then 0 else fld (jigTarget s.jig.matrix t) 4 2

/-- Some true rule feeds the target. -/
def targetAny (s : State) (t : Nat) : Bool :=
  !s.jig.matrix.isEmpty && (List.range 128).any (fun n => s.jig.rules.testBit n && ruleTarget s.jig.matrix n = t)

/-- The stroke value of a target: DO00 to DO31, then LOGIC_OUT0 to LOGIC_OUT7. -/
def strokeValue (s : State) (t : Nat) : Bool :=
  if t < 32 then s.dio.stroke.testBit t else s.dio.lstroke.testBit (t - 32)

/-- The target is forced or at its HOLD value: with SCRUB_FAIL every target whose MODE is not NONE carries it (R224,
R228). -/
def targetForced (s : State) (t : Nat) : Bool :=
  s.jig.active && targetMode s t ≠ 0 && (s.jig.scrubFail || targetAny s t)

/-- The driver command of a target (R218); off in reset and, by R222, before the jig is active. -/
def driverCmd (s : State) (t : Nat) : Bool :=
  if s.sys.boot = .off || s.sys.boot = .held || !s.jig.active then false
  else if s.jig.scrubFail && targetMode s t ≠ 0 then
    (if targetHold s t = 0 then false else if targetHold s t = 1 then true else strokeValue s t)
  else if targetAny s t && targetMode s t = 1 then true
  else if targetAny s t && targetMode s t = 2 then false
  else strokeValue s t

/-- A change of driver command blanks the diagnosis of the output and clears its flags (R245); OPEN_ON and OPEN_OFF
also clear by the command's change itself (R242). -/
def blankOut (c : DoCh) : DoCh := { c with openOn := false, openOff := false, ext := false, blank := true }

/-- An output channel. -/
def doCh (s : State) (n : Nat) : DoCh := s.dio.dout.getD n {}
/-- A group. -/
def grp (s : State) (g : Nat) : Group := s.dio.groups.getD g {}
/-- The group of an output. -/
def grpOf (n : Nat) : Nat := n / 8

/-- The group drives its outputs: powered, not tripped, not latched off (R244, R247). -/
def grpOn (s : State) (g : Nat) : Bool := !(grp s g).unpowered && !(grp s g).tripped && !(grp s g).tripLatched

/-- The switch of an output conducts (R240, R242). -/
def conducts (s : State) (n : Nat) : Bool :=
  let c := doCh s n
  s.dio.cmd.testBit n && grpOn s (grpOf n) && !c.latched && !c.thermal && !c.reverse

/-- The pins after a change of the switches: a pin whose switch closes reaches 10 V, one whose switch opens falls below
it, as far as nothing else drives it, which DO_EXT_DRIVE_OFF or the next tick reports (R239, R251, log entry 2). -/
def followPins (f : State → State) (s : State) : State :=
  let t := f s
  { t with dio := { t.dio with pins := maskOf ((List.range 32).map (fun n =>
    if conducts s n = conducts t n then t.dio.pins.testBit n else conducts t n)) } }

/-- A switch whose retry delay is over closes; each automatic closing counts in RETRIES (R243). -/
def closeOut (c : DoCh) : DoCh :=
  if c.thermal && c.cooled && !c.latched then { c with thermal := false, cooled := false, retries := min 8 (c.retries + 1) }
  else c

/-- The switches whose retry delay is over close where their command is on and their group drives them: at the later of
their own retry instant and the group's (R243, R247, R248). -/
def closeCooled (s : State) : State :=
  { s with dio := { s.dio with dout := (enum s.dio.dout).map (fun p =>
    if s.dio.cmd.testBit p.1 && grpOn s (grpOf p.1) then closeOut p.2 else p.2) } }

/-- The commands of all targets taken from the merge, with the effects of each change. -/
def takeMerge (s : State) : State :=
  let cmd := maskOf ((List.range 32).map (driverCmd s))
  let lcmd := maskOf ((List.range 8).map (fun i => driverCmd s (32 + i)))
  let outs := (enum s.dio.dout).map (fun p =>
    if cmd.testBit p.1 = s.dio.cmd.testBit p.1 then p.2
    else { blankOut p.2 with reverse := p.2.reverse && cmd.testBit p.1 })
  closeCooled { s with dio := { s.dio with cmd := cmd, lcmd := lcmd, dout := outs } }

/-- The outputs take the merge, and the pins follow (R218, R251). -/
def driveOutputs (s : State) : State := followPins takeMerge s

/-- The matrix evaluates and the outputs follow, at once (R218, R585). -/
def settleOutputs (s : State) : State := driveOutputs (evalMatrix s)

/-! ### Copies and scrub (R104, R224, R225) -/

/-- The copy in force. -/
def jigCopy (j : Jig) : JigCopy := if j.sel then j.copy1 else j.copy0

/-- The copy in force with bytes of its MRAM body changed: what a fault of the memory did to it. -/
def spoilCopy (flips : List (Nat × Byte)) (j : Jig) : Jig :=
  let f := fun (c : JigCopy) => { c with body := flips.foldl (fun b p => lmod b p.1 (fun _ => p.2)) c.body }
  if j.sel then { j with copy1 := f j.copy1 } else { j with copy0 := f j.copy0 }

/-- The CRC stored with the copy in force matches its body (R224). -/
def copyOk (c : JigCopy) : Bool := c.body.length = jigBytes && crc32c c.body = c.crc

/-- The lowest offset at which two byte strings differ. -/
def firstDiff (a b : List Byte) : Nat := ((enum a).find? (fun p => b[p.1]? ≠ some p.2)).elim 0 (·.1)

/-- Sets a cause bit of SYS_REPLACE: event 0x0002 with the new mask and a NOTICE when it goes from 0 to 1 (R57). -/
def setCause (i : Nat) (s : State) : State :=
  if s.sys.replace.testBit i then s
  else
    let s := { s with sys := { s.sys with replace := bset s.sys.replace i } }
    notice 2 s.sys.replace (raise { code := 0x0002, block := 0x01, detail := s.sys.replace } s)

/-- Clears a live cause bit (R56). -/
def clearCause (i : Nat) (s : State) : State := { s with sys := { s.sys with replace := bclr s.sys.replace i } }

/-- The module reports a scrub mismatch: JIG_SCRUB, with its event 0x0002, then event 0x5001 (R224, R225). -/
def reportScrub (detail : Nat) (s : State) : State :=
  raise { code := 0x5001, block := 0x05, detail := detail } (setCause 6 s)

/-- A scrub mismatch: SCRUB_FAIL, WHERE, and the targets at their HOLD values from this instant (R224). -/
def scrubMismatch (whr off : Nat) (s : State) : State :=
  let s := { s with jig := { s.jig with scrubFail := true, where_ := whr } }
  settleOutputs (reportScrub (whr * 2 ^ 30 + min off 0xFFFF) s)

/-- The latches that survive the adoption of a new body: those of rules whose record is unchanged (R223). -/
def keptLatches (old new : List Byte) (latch : Nat) : Nat :=
  maskOf ((List.range 1024).map (fun i => latch.testBit i && sub old (32 * (i / 8)) 32 = sub new (32 * (i / 8)) 32))

/-- The copy that the selector does not name: after a switch the old one (R104). -/
def otherCopy (j : Jig) : JigCopy := if j.sel then j.copy0 else j.copy1

/-- The latches as the copy in force is adopted: while a switched copy waits for its adoption, those of the rules whose
record differs from the old copy clear (R223). -/
def adoptedLatches (j : Jig) : Nat :=
  if j.adoptDue then keptLatches (otherCopy j).body (jigCopy j).body j.latch else j.latch

/-- The SYS block and the recorder hear of a mismatch that a configuration read found: at once where they run, else as
they start (R225, R580). -/
def reportRead (s : State) : State :=
  if s.evr.running then reportScrub (2 ^ 30) s else { s with jig := { s.jig with unreported := some (2 ^ 30) } }

/-- The matrix has adopted the copy in force: event 0x5002 (R227). -/
def noteAdopted (s : State) : State := raise { code := 0x5002, block := 0x05, detail := f32 (jigCopy s.jig).digest 0 } s

/-- `JIG_CONFIG_READ`: the matrix reads the copy in force, once at power-up and once at every reset (R224, R225, R38). A
copy that fails its CRC leaves it with no rule; one that waited for its adoption is adopted by this read. `flips` are
bytes of the copy that the memory had lost. -/
def execJigConfigRead (flips : List (Nat × Byte)) (s : State) : Host.Outcome State Fault Refusal :=
  if s.sys.boot = .off || !s.jig.readDue then .next s
  else
    let j := spoilCopy flips s.jig
    let c := jigCopy j
    let j := { j with
      readDue := false, active := true, adoptDue := false, scrubFail := false, where_ := 0, cycles := 0, latch := adoptedLatches j }
    if c.body.isEmpty then .next (settleOutputs { s with jig := { j with matrix := [] } })
    else if copyOk c then
      let s' := settleOutputs { s with jig := { j with matrix := c.body } }
      .next (if s.jig.adoptDue then noteAdopted s' else s')
    else .next (settleOutputs (reportRead { s with jig := { j with matrix := [], scrubFail := true, where_ := 1 } }))

/-- `JIG_SCRUB`: both checks of the 10 ms scrub (R224). `mram` and `matrix` are bytes of the copy and of the matrix
that a fault had changed since the last scrub. -/
def execJigScrub (mram matrix : List (Nat × Byte)) (s : State) : Host.Outcome State Fault Refusal :=
  if s.jig.active then
    let j := spoilCopy mram s.jig
    let j := { j with matrix := matrix.foldl (fun b p => lmod b p.1 (fun _ => p.2)) j.matrix, cycles := (j.cycles + 1) % 2 ^ 24 }
    let s := settleOutputs { s with jig := j }
    let c := jigCopy j
    if j.scrubFail || j.adoptDue || c.body.isEmpty then .next s
    else if !copyOk c then .next (scrubMismatch 1 (firstDiff j.matrix c.body) s)
    else if j.matrix ≠ c.body then .next (scrubMismatch 2 (firstDiff j.matrix c.body) s)
    else .next s
  else .next s

/-- `JIG_COPY_ADOPT`: between two evaluation cycles after a selector switch the matrix takes the new copy (R104, R223). -/
def execJigCopyAdopt (s : State) : Host.Outcome State Fault Refusal :=
  if s.jig.adoptDue && s.jig.active then
    let c := jigCopy s.jig
    let j := { s.jig with
      adoptDue := false, matrix := c.body, latch := adoptedLatches s.jig }
    .next (noteAdopted (settleOutputs { s with jig := j }))
  else .next s

/-- The latches of a rule, or of every rule, whose raw value is 0 clear (R223, R231). -/
def clearLatches (all : Bool) (rule : Nat) (s : State) : State :=
  let keep := fun i =>
    let w := jigTerm s.jig.matrix (i / 8) (i % 8)
    s.jig.latch.testBit i && (!(all || i / 8 = rule) || termRaw (jigInputs s) s.jig.cond s.jig.rules w)
  settleOutputs { s with jig := { s.jig with latch := maskOf ((List.range 1024).map keep) } }

/-- A write of `v` to JIG_LATCH_CLR (R231). -/
def latchClr (v : Nat) (s : State) : State :=
  if fld v 16 16 ≠ 0x4A43 then raiseIgnored 0x05 0x10040010 s
  else
    let all := v.testBit 15
    raise { code := 0x5003, block := 0x05, detail := bit all * 2 ^ 31 + (if all then 0 else fld v 0 7) }
      (clearLatches all (fld v 0 7) s)

/-- ENABLE of the JIG block opens its register interface (R47). While it is 0 its own registers take no write and a read
gives a free value: the spec does not say what such an access does (DESIGN CHOICE, log entries 7 and 30). -/
def jigOpen (s : State) : Bool := s.enabled.contains .jig

/-- `JIG_LATCH_CLR`. -/
def execJigLatchClr (v : Nat) (s : State) : Host.Outcome State Fault Refusal :=
  if jigOpen s then .next (latchClr v s) else .next s

/-- The rules that fire at the edge: false at the last edge and true at some instant since (R116); none after a scrub
mismatch (R224). -/
def jigFired (j : Jig) : Nat := if j.scrubFail then 0 else j.edgeFired

/-- The rules that became true, sampled at the edge: event 0x5004 for each (R227). -/
def jigSample (s : State) : State :=
  let new := bandn s.jig.fired s.jig.atEdge
  let s := (bitsOf new 128).foldl (fun s n =>
    let t := ruleTarget s.jig.matrix n
    raise { code := 0x5004, block := 0x05, detail := n * 2 ^ 25 + (if t = 0x3F then 0x7F else t) } s) s
  { s with jig := { s.jig with atEdge := s.jig.rules, fired := 0, edgeFired := new } }

end Sys2Proof.Machine
end

