-- ==== Sys2Proof/Machine/Dio.lean ====
section
/-! DEFINITION. Digital inputs and outputs: filters, wire-break detection, output protection and diagnosis, field
supplies, clears (R232 to R258). -/
namespace Sys2Proof.Machine

/-- Changes one input channel. -/
def modDi (n : Nat) (f : DiCh → DiCh) (s : State) : State := { s with dio := { s.dio with di := lmod s.dio.di n f } }

/-- Changes one output channel. -/
def modDo (n : Nat) (f : DoCh → DoCh) (s : State) : State := { s with dio := { s.dio with dout := lmod s.dio.dout n f } }

/-- Changes one group. -/
def modGrp (g : Nat) (f : Group → Group) (s : State) : State := { s with dio := { s.dio with groups := lmod s.dio.groups g f } }

/-- An input channel. -/
def diCh (s : State) (n : Nat) : DiCh := s.dio.di.getD n {}

/-- FILTER of an input (R253). -/
def diFilter (c : DiCh) : Nat := fld c.cfg 0 3
/-- COUNT of an input. -/
def diCount (c : DiCh) : Nat := fld c.cfg 4 2
/-- WB_EN of an input. -/
def diWb (c : DiCh) : Bool := c.cfg.testBit 6
/-- OW_VALUE of an input. -/
def diOw (c : DiCh) : Nat := fld c.cfg 8 2

/-- A DIO event about an input or output (R249). -/
def dioEvent (code kind chan detail : Nat) (s : State) : State :=
  raise {
    code := code, block := 0x06, unit := chan, drawer := chanDrawer s.drw.image kind chan,
    detail := chan * 2 ^ 24 + detail } s

/-- A DIO event about a group (R249). -/
def grpEvent (code g detail : Nat) (s : State) : State :=
  raise { code := code, block := 0x06, unit := g, detail := g * 2 ^ 24 + detail } s

/-! ### Inputs -/

/-- The filter output: 0 while the wire is open (R235, R237). -/
def diOut (c : DiCh) : Bool := !c.wireOpen && c.filt

/-- The filter takes a state, and the edge counter counts the edges COUNT selects; it stands while the wire is open, and
the forced change of the filter output at either declaration is no edge (R235 to R237). -/
def filterTake (v : Bool) (c : DiCh) : DiCh :=
  if c.filt = v then c
  else if c.wireOpen then { c with filt := v }
  else
    let counts := match diCount c with
      | 0 => v
      | 1 => !v
      | _ => true
    { c with filt := v, edges := if counts then (c.edges + 1) % 2 ^ 32 else c.edges }

/-- `DI_COUPLER_CHANGE`: a coupler output changes; the matrix sees it at once, a bypassed filter follows it
(R215, R220, R235). -/
def execDiCouplerChange (input : Fin 32) (level : Bool) (s : State) : Host.Outcome State Fault Refusal :=
  if s.sys.boot = .off then .next s
  else
    let n := input.val
    let s := { s with jig := { s.jig with di := bput s.jig.di n level } }
    let s := modDi n (fun c => if diFilter c = 0 then filterTake level c else c) s
    .next (settleOutputs s)

/-- `DI_FILTER_SETTLED`: the coupler output has held its state for the filter time and the filter takes it (R235). -/
def execDiFilterSettled (input : Fin 32) (s : State) : Host.Outcome State Fault Refusal :=
  let n := input.val
  .next (modDi n (filterTake (s.jig.di.testBit n)) s)

/-- `WIRE_OPEN`: the current (10 µA units) has stayed below 0.30 mA for 20 ms with WB_EN set (R237). CURRENT itself is
sampled at the ticks (R255). -/
def execWireOpen (input : Fin 32) (current : Nat) (s : State) : Host.Outcome State Fault Refusal :=
  let n := input.val
  let c := diCh s n
  if diWb c && !c.wireOpen then
    let s := modDi n (fun c => { c with wireOpen := true, owSeen := true }) s
    .next (dioEvent 0x6001 1 n (current % 2 ^ 16) (settleOutputs s))
  else .next s

/-- `WIRE_INTACT`: the current has stayed at or above 0.35 mA for 20 ms (R237). The filter output shows the state of the
filter again; the forced change counts no edge. -/
def execWireIntact (input : Fin 32) (current : Nat) (s : State) : Host.Outcome State Fault Refusal :=
  let n := input.val
  if (diCh s n).wireOpen then
    let s := modDi n (fun c => { c with wireOpen := false }) s
    .next (dioEvent 0x6002 1 n (current % 2 ^ 16) (settleOutputs s))
  else .next s

/-- QUALITY of a state point: GOOD, or what R237 gives while the wire is open. -/
def diQuality (c : DiCh) : Byte :=
  if c.wireOpen then (if diOw c = 0 then 0x20 else 0x28) else 0x80

/-- VALUE of a state point (R237). -/
def diValue (c : DiCh) : Bool :=
  if c.wireOpen then (if diOw c = 0 then false else if diOw c = 1 then true else c.lastIntact) else diOut c

/-- The latch of edge k remembers the last value with the wire intact (R237). -/
def diLatch (s : State) : State :=
  { s with dio := { s.dio with di := s.dio.di.map (fun c => if c.wireOpen then c else { c with lastIntact := c.filt }) } }

/-! ### Outputs: protection and diagnosis (R242 to R245) -/

/-- The current limit of an output in mA, smallest and largest: derated while FIRE_WINDOW is set (R239, R574, R575). -/
def currentLimit (s : State) : Nat × Nat := if s.sys.fire then (450, 700) else (1200, 1800)

/-- SAFE and the group of the output are powered: detection runs (R242). -/
def detects (s : State) (n : Nat) : Bool := s.sys.boot ≠ .off && !(grp s (grpOf n)).unpowered

/-- The pin of an output is reported at or above 10 V, or below (R251). -/
def setPin (n : Nat) (on : Bool) (s : State) : State := { s with dio := { s.dio with pins := bput s.dio.pins n on } }

/-- `DO_OVERLOAD`: in current limit for 2 ms (R242): at a current below the limit in force no output is in current limit
(R239). CURRENT itself is sampled at the ticks. -/
def execDoOverload (output : Fin 32) (currentMa : Nat) (s : State) : Host.Outcome State Fault Refusal :=
  let n := output.val
  if detects s n && !(doCh s n).overload && decide ((currentLimit s).1 ≤ currentMa) then
    .next (dioEvent 0x6003 2 n (currentMa % 2 ^ 16)
      (modDo n (fun c => { c with overload := true, overloadSeen := true }) s))
  else .next s

/-- `DO_OVERLOAD_CLEAR`: below the limit for 2 ms (R242). -/
def execDoOverloadClear (output : Fin 32) (s : State) : Host.Outcome State Fault Refusal :=
  .next (modDo output.val (fun c => { c with overload := false }) s)

/-- `DO_THERMAL_SHUTDOWN`: the switch opens; a shutdown with RETRIES at 8 latches the channel off (R242, R243). -/
def execDoThermalShutdown (output : Fin 32) (s : State) : Host.Outcome State Fault Refusal :=
  let n := output.val
  let c := doCh s n
  if detects s n && !c.thermal then
    let s := followPins (modDo n (fun c => { c with
      thermal := true, thermalSeen := true, shutdowns := sat 32 c.shutdowns 1, cooled := false, cleared := false })) s
    let s := dioEvent 0x6004 2 n (c.retries * 2 ^ 16) s
    if c.retries ≥ 8 then .next (dioEvent 0x6005 2 n 0 (modDo n (fun c => { c with latched := true }) s)) else .next s
  else .next s

/-- The retry delay of an output is over: a cleared switch leaves THERMAL, any other waits for `closeCooled` (R243,
R258). -/
def coolOut (c : DoCh) : DoCh :=
  if !c.thermal then c
  else if c.cleared then { c with thermal := false, cleared := false }
  else { c with cooled := true }

/-- `DO_THERMAL_RETRY`: cooled, and 100 ms since the shutdown: a commanded-on channel closes again (R243). Where the
command or the group is off, or the channel latched, the delay stays over until they let the switch close (R247, R248). -/
def execDoThermalRetry (output : Fin 32) (s : State) : Host.Outcome State Fault Refusal :=
  .next (followPins (fun s => closeCooled (modDo output.val coolOut s)) s)

/-- `DO_RETRIES_RESET`: 10 s of conduction since the last shutdown (R243). -/
def execDoRetriesReset (output : Fin 32) (s : State) : Host.Outcome State Fault Refusal :=
  .next (modDo output.val (fun c => if c.latched then c else { c with retries := 0 }) s)

/-- Open load and external drive are evaluated on a channel (R245). -/
def diagnoses (s : State) (n : Nat) : Bool := detects s n && !(doCh s n).blank

/-- `DO_OPEN_LOAD_ON`: commanded on, closed, below the threshold for 50 ms, OL_ON_EN 1 (R242). -/
def execDoOpenLoadOn (output : Fin 32) (s : State) : Host.Outcome State Fault Refusal :=
  let n := output.val
  let c := doCh s n
  if diagnoses s n && conducts s n && c.cfg.testBit 0 && !c.openOn then
    .next (dioEvent 0x6006 2 n 0 (modDo n (fun c => { c with openOn := true, openSeen := true }) s))
  else .next s

/-- `DO_OPEN_LOAD_OFF`: commanded off, OL_OFF_EN 1, pin from 2 V to 10 V for 50 ms (R242). -/
def execDoOpenLoadOff (output : Fin 32) (s : State) : Host.Outcome State Fault Refusal :=
  let n := output.val
  let c := doCh s n
  if diagnoses s n && !s.dio.cmd.testBit n && c.cfg.testBit 1 && !c.openOff then
    .next (dioEvent 0x6006 2 n 1 (setPin n false (modDo n (fun c => { c with openOff := true, openSeen := true }) s)))
  else .next s

/-- `DO_OPEN_LOAD_CLEAR`: the open-load condition has been absent for 50 ms: with the command off, the pin stands below
2 V (R242). -/
def execDoOpenLoadClear (output : Fin 32) (s : State) : Host.Outcome State Fault Refusal :=
  let n := output.val
  let low := (doCh s n).openOff && !s.dio.cmd.testBit n
  let s := modDo n (fun c => { c with openOn := false, openOff := false }) s
  .next (if low then setPin n false s else s)

/-- `DO_EXT_DRIVE_OFF`: commanded off and the pin at or above 10 V for 1 ms (R242). -/
def execDoExtDriveOff (output : Fin 32) (s : State) : Host.Outcome State Fault Refusal :=
  let n := output.val
  if diagnoses s n && !s.dio.cmd.testBit n && !(doCh s n).ext then
    .next (dioEvent 0x6007 2 n 0 (setPin n true (modDo n (fun c => { c with ext := true, extSeen := true }) s)))
  else .next s

/-- `DO_EXT_DRIVE_REVERSE`: commanded on and the pin above VFx by the reverse-block voltage; the switch opens at once.
The blocking acts while the diagnosis is blanked, the flag does not (R242, R245). -/
def execDoExtDriveReverse (output : Fin 32) (s : State) : Host.Outcome State Fault Refusal :=
  let n := output.val
  if detects s n && s.dio.cmd.testBit n then
    let s := setPin n true (followPins (modDo n (fun c => { c with reverse := true })) s)
    if !(doCh s n).blank && !(doCh s n).ext then
      .next (dioEvent 0x6007 2 n 1 (modDo n (fun c => { c with ext := true, extSeen := true }) s))
    else .next s
  else .next s

/-- `DO_EXT_DRIVE_CLEAR`: the condition has been absent for 1 ms: with the command off, the pin stands below 10 V
(R242). -/
def execDoExtDriveClear (output : Fin 32) (s : State) : Host.Outcome State Fault Refusal :=
  let n := output.val
  let low := (doCh s n).ext && !s.dio.cmd.testBit n
  let s := modDo n (fun c => { c with ext := false }) s
  .next (if low then setPin n false s else s)

/-- `REVERSE_BLOCK_END`: the pin falls back and the switch closes again at once (R242). -/
def execReverseBlockEnd (output : Fin 32) (s : State) : Host.Outcome State Fault Refusal :=
  .next (followPins (modDo output.val (fun c => { c with reverse := false })) s)

/-- `DO_DIAG_BLANK_END`: the blanking ends and the detection resumes (R245). -/
def execDoDiagBlankEnd (output : Fin 32) (s : State) : Host.Outcome State Fault Refusal :=
  .next (modDo output.val (fun c => { c with blank := false }) s)

/-! ### Groups (R244, R247) -/

/-- Blanks the diagnosis of the eight channels of a group (R245). -/
def blankGroup (g : Nat) (s : State) : State :=
  { s with dio := { s.dio with dout := (enum s.dio.dout).map (fun p => if grpOf p.1 = g then blankOut p.2 else p.2) } }

/-- `GROUP_TRIP`: the group's current (10 mA units) has exceeded the trip level for 20 ms; the ninth trip latches the
group off (R244). -/
def execGroupTrip (group : Fin 4) (current : Nat) (s : State) : Host.Outcome State Fault Refusal :=
  let g := group.val
  let n := (grp s g).retries
  if s.sys.boot ≠ .off && grpOn s g then
    let s := grpEvent 0x6008 g (n * 2 ^ 16 + min current 0xFFFF) s
    if n ≥ 8 then .next (grpEvent 0x6009 g 0 (followPins (modGrp g (fun x => { x with tripLatched := true })) s))
    else .next (followPins (modGrp g (fun x => { x with tripped := true })) s)
  else .next s

/-- `GROUP_TRIP_RETRY`: 100 ms after a trip the commanded-on switches close together (R244), and with them those whose own
retry instant has passed (R248). -/
def execGroupTripRetry (group : Fin 4) (s : State) : Host.Outcome State Fault Refusal :=
  let g := group.val
  if (grp s g).tripped then
    .next (followPins (fun s =>
      closeCooled (blankGroup g (modGrp g (fun x => { x with tripped := false, retries := min 8 (x.retries + 1) }) s))) s)
  else .next s

/-- `GROUP_TRIP_RETRIES_RESET`: 10 s after the last trip (R244). -/
def execGroupTripRetriesReset (group : Fin 4) (s : State) : Host.Outcome State Fault Refusal :=
  .next (modGrp group.val (fun x => { x with retries := 0 }) s)

/-- `GROUP_LOW_WARNING`: VFx (10 mV units) has fallen through the low warning (R247). -/
def execGroupLowWarning (group : Fin 4) (volts : Nat) (s : State) : Host.Outcome State Fault Refusal :=
  let g := group.val
  if s.sys.boot ≠ .off && !(grp s g).low then
    .next (grpEvent 0x600A g (volts % 2 ^ 16) (modGrp g (fun x => { x with low := true }) s))
  else .next s

/-- `GROUP_LOW_RELEASE`: VFx has risen through the warning release (R247). -/
def execGroupLowRelease (group : Fin 4) (volts : Nat) (s : State) : Host.Outcome State Fault Refusal :=
  let g := group.val
  if (grp s g).low then
    .next (grpEvent 0x600C g (volts % 2 ^ 16) (modGrp g (fun x => { x with low := false }) s))
  else .next s

/-- `GROUP_UNPOWERED`: VFx has fallen through the unpowered threshold; no switch of the group conducts (R247). -/
def execGroupUnpowered (group : Fin 4) (volts : Nat) (s : State) : Host.Outcome State Fault Refusal :=
  let g := group.val
  if s.sys.boot ≠ .off && !(grp s g).unpowered then
    .next (grpEvent 0x600B g (volts % 2 ^ 16) (followPins (modGrp g (fun x => { x with unpowered := true })) s))
  else .next s

/-- `GROUP_POWERED_AGAIN`: VFx has risen through the powered-again threshold (R247, R245). -/
def execGroupPoweredAgain (group : Fin 4) (volts : Nat) (s : State) : Host.Outcome State Fault Refusal :=
  let g := group.val
  if (grp s g).unpowered then
    .next (grpEvent 0x600C g (volts % 2 ^ 16)
      (followPins (fun s => closeCooled (blankGroup g (modGrp g (fun x => { x with unpowered := false }) s))) s))
  else .next s

/-! ### Clears (R258) -/

/-- Clears the latch of an output; `cooled` says its junction is below the restart temperature. A switch still hot stays in
THERMAL until it cools (R258). -/
def clearChannel (n : Nat) (cooled : Bool) (s : State) : State :=
  dioEvent 0x600D 2 n 0
    (followPins (modDo n (fun c =>
      let hot := c.thermal && !c.cooled && !cooled
      { c with latched := false, retries := 0, thermal := hot, cooled := false, cleared := hot })) s)

/-- A write of `v` to DIO_CHn_CLR of an output (R258). -/
def channelClr (n v : Nat) (cooled : Bool) (s : State) : State :=
  if fld v 16 16 ≠ 0x4A44 then raiseIgnored 0x06 (0x10050000 + 0x100 + (32 + n) * 0x10 + 0xC) s
  else if v.testBit 0 then clearChannel n cooled s
  else s

/-- `DO_CHANNEL_CLEAR`. -/
def execDoChannelClear (output : Fin 32) (v : Nat) (cooled : Bool) (s : State) : Host.Outcome State Fault Refusal :=
  .next (channelClr output.val v cooled s)

/-- A write of `v` to DIO_GRP_CLR (R258). -/
def groupClr (v : Nat) (s : State) : State :=
  if fld v 16 16 ≠ 0x4A44 then raiseIgnored 0x06 0x10050040 s
  else
    raise { code := 0x600D, block := 0x06, detail := 0xFF000000 + fld v 0 4 } (followPins (fun s =>
      closeCooled { s with dio := { s.dio with groups := (enum s.dio.groups).map (fun p =>
        if v.testBit p.1 then { p.2 with tripLatched := false, retries := 0 } else p.2) } }) s)

/-- `DO_GROUP_CLEAR`. -/
def execDoGroupClear (v : Nat) (s : State) : Host.Outcome State Fault Refusal := .next (groupClr v s)

/-- `DO_RESET`: the service that clears a latched output of the calling drawer: a basic DIO grant and the output's
point are needed (R250). -/
def execDoReset (drawer : Fin 32) (output : Fin 32) (cooled : Bool) (s : State) : Host.Outcome State Fault Refusal :=
  let n := output.val
  let owns := (boundTo s.drw.image 2 n).elim false (fun r => ptDrawer r = drawer.val)
  if grant s.drw.image drawer.val 4 ≠ 0 && owns then .next { clearChannel n cooled s with answer := .value 1 }
  else .next { s with answer := .refused }

/-! ### Configuration at the output instant (R238, R248, R253, R254) -/

/-- A CFG value with a refused encoding or a reserved bit (R253, R254). Reserved bits of a register write are ignored
(R14), so only the encodings refuse. -/
def diCfgRefused (v : Nat) : Bool := fld v 0 3 > 4 || fld v 4 2 = 3 || fld v 8 2 = 3

/-- The bits of DIO_CHn_CFG that are not reserved. -/
def dioCfgMask (n : Nat) : Nat := if n < 32 then 0x377 else 0x7

/-- A staged write of DIO_CHn_CFG takes effect: refused encodings are recorded; WB_EN falling withdraws a declared
open wire with event 0x6002 detail bit 16 (R238, R253). The outputs follow once, after all writes of the instant (R248). -/
def applyDioCfg (n v addr : Nat) (s : State) : State :=
  if n < 32 then
    if diCfgRefused v then raiseIgnored 0x06 addr s
    else
      let c := diCh s n
      let s' := modDi n (fun c =>
        let c' := { c with cfg := v &&& dioCfgMask n }
        let c' := { c' with wireOpen := c.wireOpen && v.testBit 6 }
        if diFilter c' = 0 then filterTake (s.jig.di.testBit n) c' else c') s
      if c.wireOpen && !v.testBit 6 then dioEvent 0x6002 1 n (2 ^ 16 + c.current % 2 ^ 16) s' else s'
  else modDo (n - 32) (fun c => { c with cfg := v &&& dioCfgMask n }) s

/-! ### Views (R252, R255 to R257) -/

/-- An output counts in DIO_OUTFAULT (R251). -/
def outFault (s : State) (n : Nat) : Bool :=
  let c := doCh s n
  c.latched || c.thermal || c.overload || c.openOn || c.openOff || c.ext || (grp s (grpOf n)).unpowered

/-- DIO_CHn_STATUS of an input (R255). -/
def diStatus (s : State) (n : Nat) : Nat :=
  let c := diCh s n
  bit c.wireOpen * 2 ^ 31 + bit (diOut c) * 2 ^ 30 + bit (s.jig.di.testBit n) * 2 ^ 29 + bit c.owSeen * 2 ^ 28 + c.current % 2 ^ 16

/-- DIO_CHn_STATUS of an output (R256). -/
def doStatus (s : State) (n : Nat) : Nat :=
  let c := doCh s n
  bit c.latched * 2 ^ 31 + bit c.thermal * 2 ^ 30 + bit c.overload * 2 ^ 29 + bit c.openOn * 2 ^ 28 +
  bit c.openOff * 2 ^ 27 + bit c.ext * 2 ^ 26 + bit (grp s (grpOf n)).unpowered * 2 ^ 25 + bit (s.dio.cmd.testBit n) * 2 ^ 24 +
  bit c.thermalSeen * 2 ^ 23 + bit c.overloadSeen * 2 ^ 22 + bit c.openSeen * 2 ^ 21 + bit c.extSeen * 2 ^ 20 +
  c.retries * 2 ^ 16 + c.current % 2 ^ 16

/-- DIO_GRPx_SUPPLY (R257). -/
def grpSupply (s : State) (g : Nat) : Nat :=
  let x := grp s g
  bit x.unpowered * 2 ^ 31 + bit x.low * 2 ^ 30 + bit x.tripLatched * 2 ^ 29 + bit x.tripped * 2 ^ 28 +
  x.retries * 2 ^ 24 + min x.current 0xFF * 2 ^ 16 + x.voltage % 2 ^ 16

/-- DIO_STATUS below the common fields (R252). -/
def dioStatus (s : State) : Nat :=
  maskBy s.dio.groups (·.unpowered) * 2 ^ 20 + maskBy s.dio.groups (·.low) * 2 ^ 16 +
  maskBy s.dio.groups (fun g => g.tripped || g.tripLatched) * 2 ^ 12 +
  ((s.dio.di.filter (·.wireOpen)).length + ((List.range 32).filter (outFault s)).length)

/-- DIO_STATUS.FAULT (R252). -/
def dioFault (s : State) : Bool :=
  s.dio.di.any (·.wireOpen) || (List.range 32).any (outFault s) || s.dio.groups.any (fun g => g.tripped || g.tripLatched)

/-- DIO_CHn_COUNT (R251). -/
def dioCount (s : State) (n : Nat) : Nat := if n < 32 then (diCh s n).edges else (doCh s (n - 32)).shutdowns

end Sys2Proof.Machine
end

