-- ==== Sys2Proof/Machine/Aio.lean ====
section
/-! DEFINITION. Universal analog channels: conversion windows, bands, substitution, outputs (R259 to R277). -/
namespace Sys2Proof.Machine

/-- Changes one analog channel. -/
def modAio (n : Nat) (f : AioCh → AioCh) (s : State) : State := { s with aio := { s.aio with ch := lmod s.aio.ch n f } }

/-- An analog channel. -/
def aioCh (s : State) (n : Nat) : AioCh := s.aio.ch.getD n {}

/-- MODE is an input mode (R275). -/
def aioIn (m : Nat) : Bool := 1 ≤ m && m ≤ 4
/-- MODE is an output mode. -/
def aioOut (m : Nat) : Bool := m = 5 || m = 6

/-- RATE as edges between windows (R262). -/
def rateEdges (r : Nat) : Nat := match r with | 0 => 1 | 1 => 4 | 2 => 80 | _ => 400
/-- RATE as window length in ns (R262). -/
def rateNs (r : Nat) : Nat := match r with | 0 => 200000 | 1 => 1000000 | 2 => 20000000 | _ => 100000000

/-- RATE of the configuration. -/
def aioRate (c : AioCh) : Nat := fld c.cfg 0 2
/-- FAIL_VALUE of the configuration. -/
def aioFail (c : AioCh) : Bool := c.cfg.testBit 2

/-- A conversion window of the channel ends at this edge: number `tn`, edge count `e` (R262, R270). -/
def windowEnds (c : AioCh) (tn e : Nat) : Bool :=
  match c.old with
  | some (r, until_) =>
    if e ≤ until_ then tn % rateEdges r = 0
    else tn % rateEdges (aioRate c) = 0 && e * 250000 ≥ c.since + rateNs (aioRate c)
  | none => tn % rateEdges (aioRate c) = 0 && e * 250000 ≥ c.since + rateNs (aioRate c)

/-- The reported range of an input mode (R261), in the unit of its value. -/
def aioRange (m : Nat) : Int × Int :=
  match m with
  | 1 => (-500000, 11500000)
  | 2 => (0, 25000000)
  | 3 => (0, 1000000)
  | _ => (0, 1000000000)

/-- A value held within a range. -/
def clampInt (lo hi v : Int) : Int := if v < lo then lo else if v > hi then hi else v

/-- QUALITY of a converted value (R263): a band edge belongs to the band listed first (R270). -/
def aioBand (m : Nat) (v : Int) : Byte :=
  match m with
  | 1 => if 0 ≤ v && v ≤ 10000000 then 0x80 else if -500000 < v && v < 11500000 then 0x90 else 0x10
  | 2 => if 3800000 ≤ v && v ≤ 20500000 then 0x80 else if 3600000 < v && v < 21000000 then 0x90
         else if v < 1000000 then 0x20 else 0x10
  | 3 => if 70000 ≤ v && v ≤ 190000 then 0x80 else if v ≤ 500000 then 0x10 else 0x20
  | _ => if 10000 ≤ v && v ≤ 40000000 then 0x80 else if v ≤ 200000000 then 0x10 else 0x20

/-- The entry of QUALITY GOOD bit. -/
def isGood (q : Byte) : Bool := q.toNat.testBit 7

/-- An AIO event (R271). -/
def aioEvent (code n detail : Nat) (s : State) : State :=
  raise {
    code := code, block := 0x07, unit := n, drawer := chanDrawer s.drw.image 3 n, detail := n * 2 ^ 24 + detail } s

/-- The channel takes a conversion's outcome; a change of GOOD is recorded (R264). -/
def aioStore (n : Nat) (v : Int) (q : Byte) (tick : Nat) (s : State) : State :=
  let was := (aioCh s n).good.getD true
  let s := modAio n (fun c => { c with
    value := v, quality := q, tick := tick, good := some (isGood q), lastGood := if isGood q then some v else c.lastGood }) s
  if isGood q = was then s else aioEvent (if isGood q then 0x7002 else 0x7001) n (q.toNat * 2 ^ 16) s

/-- The window of a channel ends at the edge: `result` is the mean over the window in the value's unit, none when no
result is ready (R262 to R265). -/
def aioConvert (n tn : Nat) (result : Option Int) (s : State) : State :=
  let c := aioCh s n
  match result, c.refBad with
  | some m, false =>
    let r := aioRange c.mode
    let v := clampInt r.1 r.2 m
    let q := aioBand c.mode v
    let s := modAio n (fun c => { c with convFault := false }) s
    if isGood q || !aioFail c then aioStore n v q tn s else aioStore n (c.lastGood.getD 0) (q ||| 0x08) tn s
  | _, bad =>
    let q := (c.quality &&& 0x7F) ||| 0x40 ||| (if aioFail c then 0x08 else 0)
    let s := modAio n (fun c => { c with convFault := true, faultSeen := true }) s
    let s := aioEvent 0x7004 n (bit (bad && result.isSome)) s
    aioStore n c.value q c.tick s

/-- After the old window has ended the new RATE's windows begin at it or later (R270). -/
def aioSettleRate (e : Nat) (s : State) : State :=
  { s with aio := { s.aio with ch := s.aio.ch.map (fun c =>
      match c.old with
      | some (_, u) => if e ≥ u then { c with old := none, since := max c.since (u * 250000) } else c
      | none => c) } }

/-- TN is re-based at edge count `e`: a window in progress is discarded, and a new RATE that waited for its end starts with
the next window (R262, R270). -/
def aioRebase (e : Nat) (s : State) : State :=
  { s with aio := { s.aio with ch := s.aio.ch.map (fun c =>
      if c.old.isSome then { c with old := none, since := max c.since (e * 250000) } else c) } }

/-- The input channels whose conversion window ends at the edge (R262). -/
def aioEnded (tn e : Nat) (s : State) : List Nat :=
  (List.range 16).filter (fun n => aioIn (aioCh s n).mode && windowEnds (aioCh s n) tn e)

/-- The latch of SEQ1 at the edge: the channels whose windows end there convert (R28, R262). -/
def aioLatch (tn e : Nat) (conv : List (Nat × Int)) (s : State) : State :=
  aioSettleRate e ((aioEnded tn e s).foldl (fun s n => aioConvert n tn ((conv.find? (fun p => p.1 = n)).map (·.2)) s) s)

/-- `REFERENCE_CHECK`: the converter of a channel checks its reference (R265). An output takes or leaves CONV_FAULT
at once; an input at its next window. -/
def execReferenceCheck (channel : Fin 16) (passed : Bool) (s : State) : Host.Outcome State Fault Refusal :=
  let n := channel.val
  let c := aioCh s n
  let s := modAio n (fun c => { c with refBad := !passed }) s
  if aioOut c.mode then
    if passed then .next (modAio n (fun c => { c with convFault := false }) s)
    else .next (aioEvent 0x7004 n 1 (modAio n (fun c => { c with convFault := true, faultSeen := true }) s))
  else .next s

/-! ### Outputs (R266 to R269) -/

/-- The command range of an output mode (R266). -/
def aioCmdRange (m : Nat) : Int × Int := if m = 5 then (0, 10500000) else (0, 22000000)

/-- SEQ1 applies a command at the output instant, clamped to the command range (R267); a change of command holds off the
evaluation of its faults for 5 ms, 20 ticks (R268). -/
def aioApply (n : Nat) (v : Int) (s : State) : State :=
  modAio n (fun c =>
    let r := aioCmdRange c.mode
    let w := clampInt r.1 r.2 v
    { c with
      value := w, clamped := decide (w ≠ v), drives := true, quiet := if w = c.value && c.drives then c.quiet else s.stk.edges + 20 }) s

/-- What the terminal of a channel carries: none is open (R269), as while ENABLE is 0 (R43). -/
def aioTerminal (s : State) (n : Nat) : Option Int :=
  let c := aioCh s n
  if aioOut c.mode && c.drives && !c.convFault && s.sys.boot = .loaded && s.enabled.contains .aio then some c.value else none

/-- The faults of an output are evaluated (R268). -/
def aioEvaluates (s : State) (n : Nat) : Bool := s.stk.edges ≥ (aioCh s n).quiet

/-- `AO_OVERLOAD`: a 0–10 V output has been in current limit for 2 ms (R268). -/
def execAoOverload (channel : Fin 16) (s : State) : Host.Outcome State Fault Refusal :=
  let n := channel.val
  let c := aioCh s n
  if c.mode = 5 && !c.overload && aioEvaluates s n && (aioTerminal s n).isSome then
    .next (aioEvent 0x7003 n 2 (modAio n (fun c => { c with overload := true, faultSeen := true }) s))
  else .next s

/-- `AO_OVERLOAD_CLEAR`: out of limit for 2 ms (R268). -/
def execAoOverloadClear (channel : Fin 16) (s : State) : Host.Outcome State Fault Refusal :=
  if aioEvaluates s channel.val then .next (modAio channel.val (fun c => { c with overload := false }) s) else .next s

/-- `AO_OPEN_LOOP`: a 4–20 mA output commanded at 1 mA or more at compliance for 50 ms (R268). -/
def execAoOpenLoop (channel : Fin 16) (s : State) : Host.Outcome State Fault Refusal :=
  let n := channel.val
  let c := aioCh s n
  if c.mode = 6 && !c.openLoop && c.value ≥ 1000000 && aioEvaluates s n && (aioTerminal s n).isSome then
    .next (aioEvent 0x7003 n 1 (modAio n (fun c => { c with openLoop := true, faultSeen := true }) s))
  else .next s

/-- `AO_OPEN_LOOP_CLEAR`: below compliance for 50 ms (R268). -/
def execAoOpenLoopClear (channel : Fin 16) (s : State) : Host.Outcome State Fault Refusal :=
  if aioEvaluates s channel.val then .next (modAio channel.val (fun c => { c with openLoop := false }) s) else .next s

/-- A staged AIO_CHn_CFG takes effect at the output instant: FAIL_VALUE from the next conversion, RATE with the next
window that begins after it; a channel that converts nothing has no window in progress (R262, R270, R276). -/
def applyAioCfg (n v : Nat) (s : State) : State :=
  let e := s.stk.edges
  modAio n (fun c =>
    let new := { c with cfg := v % 8 }
    if !aioIn c.mode then new
    else
      match c.old with
      | some (r, u) => { new with old := some (r, u), since := max c.since (max (u * 250000) (e * 250000 + 45000)) }
      | none =>
        if v % 4 = aioRate c then new
        else
          let p := rateEdges (aioRate c)
          let u := e + (p - s.stk.tn % p)
          let w := rateNs (aioRate c)
          if u * 250000 < e * 250000 + 45000 + w && u * 250000 ≥ c.since + w then { new with old := some (aioRate c, u), since := c.since }
          else { new with since := max c.since (e * 250000 + 45000) }) s

/-- AIO_CHn_STATUS (R277). -/
def aioStatus (s : State) (n : Nat) : Nat :=
  let c := aioCh s n
  bit c.convFault * 2 ^ 31 + bit c.openLoop * 2 ^ 30 + bit c.overload * 2 ^ 29 + bit c.clamped * 2 ^ 28 +
  bit c.faultSeen * 2 ^ 27 + (if aioIn c.mode then c.quality.toNat else 0) * 2 ^ 16

/-- A channel counts as faulty (R274). -/
def aioFaulty (c : AioCh) : Bool := c.convFault || c.overload || c.openLoop

end Sys2Proof.Machine
end

