-- ==== Sys2Proof/Machine/Lpe.lean ====
section
/-! DEFINITION. The loop engine: fixed-point arithmetic, one evaluation, banks and swaps (R278 to R304). -/
namespace Sys2Proof.Machine

/-! ### LOOPS records (R280, R281) -/

/-- The LOOPS records. -/
def loopRecs (img : List Section) : List Rec := recs img 0x08
/-- SLOT. -/
def lpSlot (r : Rec) : Nat := f16 r 0
/-- DRAWER. Offset 0x02: the byte after the 2-byte SLOT (R280's "0x01 + 1"). -/
def lpDrawer (r : Rec) : Nat := f8 r 2
/-- FLAGS. -/
def lpFlags (r : Rec) : Nat := f8 r 3
/-- DIRECT. -/
def lpDirect (r : Rec) : Bool := (lpFlags r).testBit 0
/-- REVERSE. -/
def lpReverse (r : Rec) : Bool := (lpFlags r).testBit 1
/-- LINKED. -/
def lpLinked (r : Rec) : Bool := (lpFlags r).testBit 2
/-- AW_OFF. -/
def lpAwOff (r : Rec) : Bool := (lpFlags r).testBit 3
/-- PERIOD. -/
def lpPeriod (r : Rec) : Nat := f16 r 4
/-- OFFSET. -/
def lpOffset (r : Rec) : Nat := f16 r 6
/-- PV_POINT. -/
def lpPv (r : Rec) : Nat := f16 r 8
/-- SP_POINT, or the outer slot with LINKED. -/
def lpSp (r : Rec) : Nat := f16 r 0x0A
/-- MODE_POINT. -/
def lpMode (r : Rec) : Nat := f16 r 0x0C
/-- MAN_POINT. -/
def lpMan (r : Rec) : Nat := f16 r 0x0E
/-- OUT_POINT. -/
def lpOut (r : Rec) : Nat := f16 r 0x10
/-- SECTIONS. -/
def lpSections (r : Rec) : Nat := f8 r 0x12
/-- LOSS reaction. -/
def lpLoss (r : Rec) : Nat := f8 r 0x13 % 4
/-- STALE_N. -/
def lpStale (r : Rec) : Nat := f16 r 0x16
/-- FREEZE_N. -/
def lpFreeze (r : Rec) : Nat := f16 r 0x18
/-- RECOVER_N. -/
def lpRecover (r : Rec) : Nat := f16 r 0x1A
/-- A signed 32-bit field. -/
def lpInt (r : Rec) (o : Nat) : Int := signed 32 (f32 r o)

/-- The section records of a slot (R281). -/
def lpSects (img : List Section) (r : Rec) : List Rec :=
  match sect img 0x08 with
  | some x =>
    let all := chunks (x.body.drop (x.count * x.recSize)) 24 x.body.length
    (all.drop (f16 r 0x14)).take (lpSections r)
  | none => []

/-- The last section is an integrator (R282). -/
def lpInteg (img : List Section) (r : Rec) : Bool := (lpSects img r).getLast?.elim false (fun x => (f8 x 0x14).testBit 0)

/-- The record of a loop slot. -/
def loopRec (img : List Section) (n : Nat) : Option Rec := (loopRecs img).find? (fun r => lpSlot r = n)

/-- Both banks as loaded from the record: coefficients of each section, OUT_MIN, OUT_MAX, RATE_MAX (R290, R294). -/
def loadBank (img : List Section) (r : Rec) : List Int :=
  let cs := (lpSects img r).flatMap (fun x => (List.range 5).map (fun c => lpInt x (4 * c)))
  cs ++ List.replicate (40 - cs.length) 0 ++ [lpInt r 0x30, lpInt r 0x34, lpInt r 0x38]

/-! ### Numbers (R283, R284) -/

/-- rnd: half towards plus infinity (R283). -/
def rnd (v : Int) (k : Nat) : Int := if k = 0 then v else (v + 2 ^ (k - 1)) / (2 ^ k : Int)

/-- sat32 (R283). -/
def sat32 (v : Int) : Int := clampInt (-(2 ^ 31)) (2 ^ 31 - 1) v

/-- n(e): a point value normalised (R284). -/
def normIn (r : Rec) (e : Int) : Int := sat32 (rnd ((e - lpInt r 0x20) * lpInt r 0x24) (f8 r 0x1C))

/-- The range of an integer TYPE (R90). -/
def typeRange (t : Nat) : Int × Int :=
  match t with
  | 2 => (-(2 ^ 15), 2 ^ 15 - 1)
  | 3 => (0, 2 ^ 16 - 1)
  | 4 => (-(2 ^ 31), 2 ^ 31 - 1)
  | _ => (0, 2 ^ 32 - 1)

/-- o: the output point's value, saturated to its TYPE (R284). -/
def scaleOut (r : Rec) (t : Nat) (v : Int) : Int :=
  clampInt (typeRange t).1 (typeRange t).2 (lpInt r 0x28 + rnd (v * lpInt r 0x2C) (f8 r 0x1D))

/-! ### One evaluation (R286) -/

/-- An entry of the caught version. -/
def entryOf (im : Image) (i : Nat) : Entry := (tget im i).getD {}

/-- The sections of a slot, each from its five coefficients, its history and the input; with `transfer` the
integrating last section is preset to `vPrev` (R285, R287). -/
def runSections (bank : List Int) (integ transfer : Bool) (vPrev : Int) (n : Nat) :
    Nat → Int → List (Int × Int × Int × Int) → Int × List (Int × Int × Int × Int)
  | _, x, [] => (x, [])
  | k, x, (x1, x2, y1, y2) :: rest =>
    let c := fun i => bank.getD (5 * k + i) 0
    let p := c 0 * x + c 1 * x1 + c 2 * x2 - c 4 * y2
    let y1 := if transfer && integ && k + 1 = n then sat32 (vPrev - rnd p 28) else y1
    let y := sat32 (rnd (p - c 3 * y1) 28)
    let t := runSections bank integ transfer vPrev n (k + 1) y rest
    (t.1, (x, x1, y, y1) :: t.2)

/-- The last section's y1 set, where the anti-windup stores the limited output (R286 step 5). -/
def setLastY1 (v : Int) : List (Int × Int × Int × Int) → List (Int × Int × Int × Int)
  | [] => []
  | [(x1, x2, _, y2)] => [(x1, x2, v, y2)]
  | h :: r => h :: setLastY1 v r

/-- Feedback checks: counters, the cause and LOST (R286 step 1, R292). Answers the cause of this evaluation too. -/
def feedback (r : Rec) (pv : Entry) (d : LoopDyn) : LoopDyn × Nat :=
  let val := pv.value.toInt
  let d := if d.lastTick = some pv.tick then { d with staleCnt := min (d.staleCnt + 1) 65535 }
    else { d with
      frzCnt := if d.lastValue = some val then min (d.frzCnt + 1) 65535 else 0,
      staleCnt := 0, lastTick := some pv.tick, lastValue := some val }
  let q := pv.quality.toNat
  let bad := !q.testBit 7 || q.testBit 6 || q.testBit 1
  let cause := if bad then 1 else if lpStale r > 0 && d.staleCnt ≥ lpStale r then 2
    else if lpFreeze r > 0 && d.frzCnt ≥ lpFreeze r then 3 else 0
  let d := if cause ≠ 0 then { d with lost := true, okCnt := 0, cause := cause }
    else if d.lost then { d with okCnt := d.okCnt + 1, lost := decide (d.okCnt + 1 < lpRecover r) }
    else d
  (d, cause)

/-- The mode of an evaluation (R286 step 2). -/
def loopMode (r : Rec) (tracks manual lost : Bool) : LoopMode :=
  if tracks then .tracking else if manual then .manual
  else if lost && lpLoss r ≠ 3 then .reacting else .auto

/-- Everything an evaluation reads from other slots (R289): the outer slot's v for a linked slot; and for an outer
slot its inner slot's previous mode, pvn, saturation and REVERSE. -/
structure LoopLinks where
  outerV : Option Int := none
  inner : Option (LoopDyn × Bool) := none

/-- One evaluation of a slot against the caught version (R286): its state after it and v. -/
def evalDyn (img : List Section) (im : Image) (r : Rec) (bank : List Int) (swapped first : Bool) (k : LoopLinks)
    (d0 : LoopDyn) : LoopDyn :=
  let pv := entryOf im (lpPv r)
  let f := feedback r pv d0
  let d := f.1
  let bad := f.2 = 1
  let tracks := k.inner.elim false (fun x => x.1.prevMode ≠ .auto)
  let manual := lpMode r ≠ 0xFFFF && (entryOf im (lpMode r)).value.toNat % 256 ≠ 0
  let mode := loopMode r tracks manual d.lost
  let pvn := if !bad || lpLoss r = 3 then normIn r pv.value.toInt else d.pvn
  let sp := entryOf im (lpSp r)
  let spHeld := !lpLinked r && !lpDirect r && !isGood sp.quality
  let spn := if lpLinked r then k.outerV.getD d.spn
    else if !lpDirect r && isGood sp.quality then normIn r sp.value.toInt else d.spn
  let x := if lpDirect r then pvn else if lpReverse r then sat32 (pvn - spn) else sat32 (spn - pvn)
  let transfer := mode = .auto && (d0.prevMode ≠ .auto || swapped || first)
  let integ := lpInteg img r
  let run := runSections bank integ transfer d0.vPrev (lpSections r) 0 x d.hist
  let y := run.1
  let outMin := bank.getD 40 0
  let outMax := bank.getD 41 0
  let rate := bank.getD 42 0
  let hiCut := k.inner.elim false (fun p => if p.2 then p.1.satLo else p.1.satHi)
  let loCut := k.inner.elim false (fun p => if p.2 then p.1.satHi else p.1.satLo)
  let hi := if hiCut then min outMax d0.vPrev else outMax
  let lo := if loCut then max outMin d0.vPrev else outMin
  let man := if lpMan r ≠ 0xFFFF then signed 32 (entryOf im (lpMan r)).value.toNat else d0.vPrev
  let t0 := match mode with
    | .auto => y
    | .manual => man
    | .tracking => k.inner.elim d0.vPrev (fun p => p.1.pvn)
    | .reacting => if lpLoss r = 0 then d0.vPrev else if lpLoss r = 1 then lpInt r 0x3C else man
  let limits := rate > 0 && (mode = .auto || (mode = .reacting && lpLoss r = 1))
  let t := if limits then min (max t0 (d0.vPrev - rate)) (d0.vPrev + rate) else t0
  let v := min (max t lo) hi
  let hist := if integ && (!lpAwOff r || mode ≠ .auto) then setLastY1 v run.2 else run.2
  { d with
    hist := hist, vPrev := v, prevMode := mode, pvn := pvn, spn := spn, spHeld := spHeld,
    rateLim := decide (t ≠ t0), satHi := decide (mode = .auto ∧ y > v), satLo := decide (mode = .auto ∧ y < v) }

/-- QUALITY of a result (R286). -/
def loopQuality (r : Rec) (m : LoopMode) : Byte :=
  if m = .reacting then (if lpLoss r = 0 then 0x89 else 0x88) else 0x80

/-- Encoding of a mode in STATE (R302). -/
def loopModeCode (m : LoopMode) : Nat := match m with | .reacting => 0 | .auto => 1 | .manual => 2 | .tracking => 3

/-- The active bank. -/
def activeBank (l : LoopSlot) : List Int := if l.activeB then l.bankB else l.bankA

/-- Changes one loop slot. -/
def modLoop (n : Nat) (f : LoopSlot → LoopSlot) (s : State) : State :=
  match tget s.lpe.slots n with
  | some l => { s with lpe := { s.lpe with slots := tset s.lpe.slots n (f l) } }
  | none => s

/-- A loop engine event (R297). -/
def loopEvent (code : Nat) (r : Rec) (detail : Nat) (s : State) : State :=
  raise { code := code, block := 0x08, unit := lpSlot r, drawer := lpDrawer r, detail := lpSlot r * 2 ^ 22 + detail } s

/-- What the links of a slot give it (R289). -/
def loopLinks (img : List Section) (slots : Table LoopSlot) (r : Rec) : LoopLinks :=
  { outerV := if lpLinked r then (tget slots (lpSp r)).map (·.dyn.vPrev) else none,
    inner := ((loopRecs img).find? (fun q => lpLinked q && lpSp q = lpSlot r)).bind
      (fun q => (tget slots (lpSlot q)).map (fun l => (l.dyn, lpReverse q))) }

/-- A due slot catches version `im` and is evaluated; the result waits for its release (R279, R286). -/
def evalSlot (im : Image) (tn e : Nat) (r : Rec) (s : State) : State :=
  match tget s.lpe.slots (lpSlot r) with
  | none => s
  | some l =>
    let img := s.drw.image
    let d := evalDyn img im r (activeBank l) l.swapped l.first (loopLinks img s.lpe.slots r) l.dyn
    let t := (pointRec img (lpOut r)).elim 4 ptType
    let s := modLoop (lpSlot r) (fun l => { l with
      dyn := d, evald := true, swapped := false, first := false, bankSeen := l.activeB,
      lostSeen := l.lostSeen || d.lost, satSeen := l.satSeen || d.satHi || d.satLo,
      losses := if d.lost && !l.dyn.lost then sat 16 l.losses 1 else l.losses,
      catch_ := tn % 2 ^ 16, catchTn := tn % 2 ^ 32, result := some (scaleOut r t d.vPrev, loopQuality r d.prevMode),
      relEdge := e + lpPeriod r, due := e + lpPeriod r }) s
    let s := if d.lost && !l.dyn.lost then loopEvent 0x8001 r (d.cause * 2 ^ 20 + lpLoss r * 2 ^ 16) s
      else if !d.lost && l.dyn.lost then loopEvent 0x8002 r 0 s else s
    if d.prevMode ≠ l.dyn.prevMode then loopEvent 0x8005 r (loopModeCode d.prevMode) s else s

/-- The engine evaluates the due slots in ascending slot number (R279). -/
def evalLoops (im : Image) (tn e : Nat) (s : State) : State :=
  let due := (loopRecs s.drw.image).filter (fun r => (tget s.lpe.slots (lpSlot r)).elim false (fun l => l.due = e))
  let s := due.foldl (fun s r => evalSlot im tn e r s) s
  { s with lpe := { s.lpe with last := (due.map lpSections).foldl (· + ·) 0 } }

/-- HOLD: the results not due are discarded, the slots stand as after their last released evaluation (R53). -/
def holdLoops (s : State) : State :=
  { s with lpe := { s.lpe with slots := s.lpe.slots.map (fun p => (p.1, { p.2 with dyn := p.2.rel, result := none })) } }

/-- DEBUG: histories, v_prev and the rest stay as they are; a result not released does not commit, as the first step acts as
RESUME (R294, R546, DEDUCED, log entry 16). -/
def debugLoops (s : State) : State :=
  { s with lpe := { s.lpe with slots := s.lpe.slots.map (fun p => (p.1, { p.2 with rel := p.2.dyn, result := none })) } }

/-- No loop slot is evaluated at an edge (R299). -/
def idleLoops (s : State) : State := { s with lpe := { s.lpe with last := 0 } }

/-- RESUME, or the first edge after a hot restart: every slot catches at the edge, and that evaluation is a transfer
(R54, R287, R294). -/
def restartLoops (e : Nat) (s : State) : State :=
  { s with lpe := { s.lpe with slots := s.lpe.slots.map (fun p => (p.1, { p.2 with first := true, due := e })) } }

/-- The state of a slot after a cold or warm restart (R294). -/
def freshSlot (img : List Section) (r : Rec) : LoopSlot :=
  let d : LoopDyn := { hist := List.replicate (lpSections r) (0, 0, 0, 0), vPrev := lpInt r 0x40 }
  { bankA := loadBank img r, bankB := loadBank img r, dyn := d, rel := d }

/-! ### Banks (R290, R291, R303) -/

/-- The checks of a bank at a swap: 0 passes, else the reason of event 0x8004 (R291, R297). -/
def bankFails (img : List Section) (r : Rec) (bank : List Int) : Nat :=
  let k := 5 * (lpSections r - 1)
  if lpInteg img r && (bank.getD (k + 3) 0 ≠ -(2 ^ 28) || bank.getD (k + 4) 0 ≠ 0) then 1
  else if bank.getD 40 0 > bank.getD 41 0 then 2
  else if bank.getD 42 0 < 0 then 3
  else 0

/-- A staged write of CIDX, CDATA or SWAP takes effect (R290, R291, R303). -/
def applyLpe (n off v addr : Nat) (s : State) : State :=
  match tget s.lpe.slots n, loopRec s.drw.image n with
  | some l, some r =>
    if off = 0x14 then
      if v % 64 > 42 then raiseIgnored 0x08 addr s else modLoop n (fun l => { l with cidx := v % 64 }) s
    else if off = 0x18 then
      if l.cidx ≥ 43 then raiseIgnored 0x08 addr s
      else modLoop n (fun l =>
        let put := fun (b : List Int) => lmod b l.cidx (fun _ => signed 32 v)
        { l with cidx := l.cidx + 1, cdata := v % 2 ^ 32,
                 bankA := if l.activeB then put l.bankA else l.bankA,
                 bankB := if l.activeB then l.bankB else put l.bankB }) s
    else if v ≠ 1 then raiseIgnored 0x08 addr s
    else
      let inactive := if l.activeB then l.bankA else l.bankB
      let why := bankFails s.drw.image r inactive
      if why ≠ 0 then loopEvent 0x8004 r why (modLoop n (fun l => { l with swapRefused := true }) s)
      else
        let s := modLoop n (fun l => { l with activeB := !l.activeB, swapped := true, swaps := sat 16 l.swaps 1 }) s
        loopEvent 0x8003 r (bit (l.dyn.satHi || l.dyn.satLo) * 2 + bit (!l.activeB)) s
  | _, _ => s

/-! ### Views (R301, R302, R304) -/

/-- LPE_SLOTn_STATE. -/
def loopState (l : LoopSlot) : Nat :=
  (if l.evald then loopModeCode l.dyn.prevMode else 0) * 2 ^ 30 + bit l.dyn.lost * 2 ^ 29 + l.dyn.cause * 2 ^ 27 +
  bit l.dyn.satHi * 2 ^ 26 + bit l.dyn.satLo * 2 ^ 25 + bit l.dyn.rateLim * 2 ^ 24 + bit l.dyn.spHeld * 2 ^ 23 +
  bit l.bankSeen * 2 ^ 22 + bit l.swapRefused * 2 ^ 21 + bit l.lostSeen * 2 ^ 20 + bit l.satSeen * 2 ^ 19 + l.catch_

/-- LPE_SLOTn_CFG. -/
def loopCfg (img : List Section) (r : Rec) : Nat :=
  lpSections r * 2 ^ 28 + bit (lpInteg img r) * 2 ^ 27 + bit (lpLinked r) * 2 ^ 26 + bit (lpDirect r) * 2 ^ 25 +
  bit (lpReverse r) * 2 ^ 24 + bit (lpAwOff r) * 2 ^ 23 + lpDrawer r * 2 ^ 18 + lpPeriod r

/-- LPE_SLOTn_RDATA. -/
def loopRdata (l : LoopSlot) : Nat :=
  let b := if l.ridx.testBit 8 then l.bankB else l.bankA
  twos 32 (b.getD (l.ridx % 64) 0)

end Sys2Proof.Machine
end

