-- ==== Sys2Proof/Machine/Tasks.lean ====
section
/-! DEFINITION. Task slots, the copies of their strokes, and the cores that drive them (R34, R91, R112, R129). -/
namespace Sys2Proof.Machine

/-! ### Tasks, copies, cores -/

/-- A task slot. -/
def task (s : State) (n : Nat) : Task := s.stk.tasks.getD n {}

/-- Changes one task slot. -/
def modTask (n : Nat) (f : Task → Task) (s : State) : State := { s with stk := { s.stk with tasks := lmod s.stk.tasks n f } }

/-- Changes one crew core. -/
def modCore (c : Nat) (f : Core → Core) (s : State) : State := { s with cores := lmod s.cores c f }

/-- Drawer of a task slot, 0 when undeclared. -/
def taskDrawer (s : State) (n : Nat) : Nat := (taskRec s.drw.image n).elim 0 tkDrawer
/-- Priority of a task slot. -/
def taskPrio (s : State) (n : Nat) : Nat := (taskRec s.drw.image n).elim 0 tkPrio
/-- PERIOD or deadline of a task slot. -/
def taskPeriod (s : State) (n : Nat) : Nat := (taskRec s.drw.image n).elim 1 tkPeriod
/-- The slot holds an event task. -/
def taskIsEvent (s : State) (n : Nat) : Bool := (taskRec s.drw.image n).elim false tkEvent
/-- The slot holds a paired task. -/
def taskIsPaired (s : State) (n : Nat) : Bool := (taskRec s.drw.image n).elim false tkPaired
/-- Deadline mode WORK (R123). -/
def taskIsWork (s : State) (n : Nat) : Bool := (taskRec s.drw.image n).elim false tkWork

/-- The declared task slots, ascending. -/
def declaredSlots (s : State) : List Nat := (taskRecs s.drw.image).map tkSlot

/-- The copy of a stroke on a core. -/
def copyOn (k : Stroke) (c : Nat) : Option Copy := k.copies.find? (fun x => x.core = c)

/-- Changes the copy of a slot's stroke on a core. -/
def modCopy (n c : Nat) (f : Copy → Copy) (s : State) : State :=
  modTask n (fun t => { t with
    stroke := t.stroke.map (fun k => { k with copies := k.copies.map (fun x => if x.core = c then f x else x) }) }) s

/-- Changes the write set of the stroke a core drives. -/
def modWs (n c : Nat) (f : WriteSet → WriteSet) (s : State) : State := modCopy n c (fun x => { x with ws := f x.ws }) s

/-- The slot, stroke and copy that a core drives. -/
def drivenBy (s : State) (c : Nat) : Option (Nat × Stroke × Copy) :=
  match (s.cores.getD c {}).driving with
  | some n =>
    match (task s n).stroke with
    | some k => (copyOn k c).map (fun x => (n, k, x))
    | none => none
  | none => none

/-- Edge count of the next release of a task in REPLAY, if any is to come (R191). -/
def replayDue (s : State) (n : Nat) : Option Nat :=
  let t := task s n
  let per := max 1 (taskPeriod s n)
  if t.st ≠ .replay then none
  else if t.replayRel > s.stk.edges then some t.replayRel
  else if taskIsEvent s n then none
  else some (s.stk.edges + per - (s.stk.edges - t.replayRel) % per)

/-- TN of the release due of a task, of its last one when none is due (R137): a release due follows the tick count through a
re-base and through DEBUG. -/
def relTn (s : State) (n : Nat) : Nat :=
  match ((task s n).stroke.map (·.relEdge)) <|> replayDue s n with
  | some e => (s.stk.tn + e - s.stk.edges) % 2 ^ 32
  | none => (task s n).relReg

/-! ### Journal-protected state (R180)

The committed copy of a task slot is what its read-write windows hold in memory; the working copy of a stroke is the bytes
of its write set in which it differs. A paired task has one committed copy, which both its cores drive on. -/

/-- The committed copy of a task slot. -/
def committedCopy (s : State) (n : Nat) : Memory := s.mem.filter (fun p => inWins (stateWins s.drw.image n) p.1)

/-- Bytes of a task slot's read-write DRAM windows written; others are none of its state. -/
def putState (n : Nat) (l : List (Nat × Byte)) (s : State) : State :=
  { s with mem := s.mem.put (l.filter (fun p => inWins (dramWins s.drw.image n) p.1)) }

/-- The read-write DRAM windows of a task slot hold a copy. -/
def restoreCopy (n : Nat) (c : Memory) (s : State) : State :=
  putState n c { s with mem := s.mem.filter (fun p => !inWins (dramWins s.drw.image n) p.1) }

/-- The working copy becomes the committed copy (R180); one that the checkpoint writer has not yet taken stays in the third
buffer (R188). -/
def commitState (n : Nat) (work : List (Nat × Byte)) (s : State) : State :=
  let keep := s.wke.writing.isSome && (task s n).third.isNone
  let old := committedCopy s n
  putState n work (if keep then modTask n (fun t => { t with third := some old }) s else s)

/-- STATE of a task slot (R129). Of a pair whose copies stand in different phases the spec gives no state: DRIVE while any
drives, else READY while any is ready, else RECOVERY (DESIGN CHOICE, log entry 30). -/
def taskState (t : Task) : Nat :=
  match t.st with
  | .off => 0
  | .armed => 1
  | .halted => 5
  | .replay => 6
  | .stopped => 7
  | .live =>
    match t.stroke with
    | some k =>
      let own := k.copies.filter (fun x => !x.shadow)
      if own.any (fun x => x.phase = .drive) then 3 else if own.any (fun x => x.phase = .ready) then 2 else 4
    | none => 1

/-! ### Cores without a use, superseded entries (R37, R39, R149) -/

/-- The probe holds the core (R545, R548). -/
def coreHeld (s : State) (c : Nat) : Bool := (s.dbg.cores.getD c {}).held

/-- A core has a use that keeps it powered (R37, R39): it drives, the probe holds it, it replays a takeover, casts a
deciding vote, or runs its self-test. -/
def coreInUse (s : State) (c : Nat) : Bool :=
  (s.cores.getD c {}).driving.isSome || coreHeld s c || s.wke.takeovers.any (fun t => t.seat = c) ||
    s.wke.settles.any (fun x => x.seat = c && x.won.isNone) || tget s.wke.seats c = some .selfTest

/-- A core without a use enters power gating. -/
def gateIdle (c : Nat) (s : State) : State := if coreInUse s c then s else modCore c (fun x => { x with powered := false }) s

/-- Superseded entries that live strokes still show, of the points visible to each task (R149, R27). An entry that differs
from the latest version in FLAGS.CHANGED alone counts as superseded (DESIGN CHOICE, log entry 26). -/
def vstoreUse (s : State) : Nat :=
  let shown (n : Nat) : List (Nat × Entry) := match (task s n).stroke with
    | some k =>
      if k.copies.any (fun x => x.phase = .ready || x.phase = .drive) then
        k.snap.filter (fun p => (tget s.dvt.latest p.1).getD {} ≠ p.2 &&
          (pointRec s.drw.image p.1).elim false (ptVisible · (taskDrawer s n)))
      else []
    | none => []
  (((declaredSlots s).flatMap shown).eraseDups).length

/-- DVT_VSTORE and its peak follow the actual use (R149). -/
def noteVstore (s : State) : State :=
  let n := vstoreUse s
  { s with dvt := { s.dvt with vstore := n, vstorePeak := max s.dvt.vstorePeak n } }

/-! ### Windows as one run of bytes -/

/-- The read-write retained windows of a slot take bytes, in MEMORY order. -/
def putRetained (ws : List Rec) (bs : List Byte) (m : Memory) : Memory :=
  match ws with
  | [] => m
  | r :: t => putRetained t (bs.drop (mwSize r)) (Memory.writeN m (mwBase r) (bs.take (mwSize r)))

/-- The bytes of the read-write retained windows of a slot. -/
def getRetained (ws : List Rec) (m : Memory) : List Byte := ws.flatMap (fun r => Memory.readN m (mwBase r) (mwSize r))

end Sys2Proof.Machine
end

