-- ==== Sys2Proof/Machine/UpdCore.lean ====
section
/-! DEFINITION. What strokes and failures do to an update: the shadow's failure, abandonment, rollback triggers, the
mapping of a task's state (R500 to R507, R511). -/
namespace Sys2Proof.Machine

/-- Changes the UPD block. -/
def modUpd (f : Upd → Upd) (s : State) : State := { s with upd := f s.upd }

/-- An update block event. -/
def updEvent (code detail : Nat) (s : State) : State := raise { code := code, block := 0x11, detail := detail } s

/-- Changes one slot: false A, true B. -/
def modSlot (b : Bool) (f : SlotSet → SlotSet) (u : Upd) : Upd :=
  if b then { u with slotB := f u.slotB } else { u with slotA := f u.slotA }

/-- The active slot. -/
def activeSlot (u : Upd) : SlotSet := if u.activeB then u.slotB else u.slotA

/-- A slot: false A, true B. -/
def slotOf (u : Upd) (b : Bool) : SlotSet := if b then u.slotB else u.slotA

/-- The set in force: that of the slot the boot took (R84, R99, R100). -/
def forceSlot (s : State) : SlotSet := slotOf s.upd s.drw.slotB

/-- A part of a set. -/
def partOf (p : Nat) (x : SlotSet) : List Byte := if p = 0 then x.runtime else if p = 1 then x.carcass else x.program

/-- A part of a set replaced. -/
def setPart (p : Nat) (l : List Byte) (x : SlotSet) : SlotSet :=
  if p = 0 then { x with runtime := l } else if p = 1 then { x with carcass := l } else { x with program := l }

/-- Bytes laid over a part at an offset; a gap before them is filled with 0x00. -/
def overlay (l : List Byte) (o : Nat) (bs : List Byte) : List Byte :=
  l.take o ++ List.replicate (o - l.length) 0 ++ bs ++ l.drop (o + bs.length)

/-- Bytes written into a part of the staged slot (R496). -/
def slotWrite (part off : Nat) (bs : List Byte) (u : Upd) : Upd :=
  modSlot (!u.activeB) (fun x => setPart part (overlay (partOf part x) off bs) x) u

/-- The parts of the staged slot that were not written are copied from the active one (R497). -/
def copyParts (u : Upd) : Upd :=
  let a := activeSlot u
  modSlot (!u.activeB) (fun x => [0, 1, 2].foldl (fun x p => if u.written.testBit p then x else setPart p (partOf p a) x) x) u

/-- The brace is over: what update staging held back is written, in its order (R59, R60). -/
def resumeStaging (u : Upd) : Upd :=
  let u := { u.held.foldl (fun u w => slotWrite w.1 w.2.1 w.2.2 u) u with held := [] }
  if u.copyDue then { copyParts u with copyDue := false } else u

/-- Cores that run a shadow of the task's stroke. -/
def shadowCores (t : Task) : List Nat :=
  match t.stroke with
  | some k => (k.copies.filter (fun x => x.shadow)).map (fun x => x.core)
  | none => []

/-- The shadow ends: its copies are discarded, its cores and seats are free and enter power gating, and no snapshot is kept
for it (R39, R149, R502). -/
def endShadow (s : State) : State :=
  let busy := s.stk.tasks.flatMap shadowCores
  noteVstore <| (List.range 16).foldl (fun (s : State) c => gateIdle c s) { s with
    cores := (enum s.cores).map (fun p => if busy.contains p.1 then { p.2 with driving := none } else p.2),
    stk := { s.stk with
      tasks := s.stk.tasks.map (fun t => { t with
        stroke := t.stroke.map (fun k => { k with copies := k.copies.filter (fun x => !x.shadow) }) }) },
    wke := { s.wke with seats := s.wke.seats.map (fun p => if p.2 = .shadow then (p.1, .free) else p) },
    upd := { s.upd with seats := [], states := [], startDue := false } }

/-- The update runs its shadow, waits to begin it, or waits for its switch edge. -/
def shadowing (u : Upd) : Bool := u.startDue || u.phase = .shadow || u.phase = .deferred

/-- The update is abandoned with a reason: event 0xE00A; the staged slot stays VERIFIED (R502, R503, R511). -/
def abandonUpdate (reason : Nat) (s : State) : State :=
  if shadowing s.upd then updEvent 0xE00A reason (modUpd (fun u => { u with phase := .verified }) (endShadow s)) else s

/-- The shadow fails (R502): event 0xE005, and the update is abandoned. -/
def failShadow (reason slot : Nat) (s : State) : State :=
  if shadowing s.upd then abandonUpdate 5 (updEvent 0xE005 (slot * 2 ^ 24 + reason) s) else s

/-- A trigger of R506: a rollback follows at the next edge when the task has switched. -/
def trigger (t slot : Nat) (s : State) : State :=
  if (s.upd.phase = .switching || s.upd.phase = .watch) && s.upd.switched.contains slot && s.upd.back.isNone then
    modUpd (fun u => { u with back := some (slot, t), phase := .rollingBack }) s
  else s

/-- The core runs a shadow copy of the slot's stroke. -/
def isShadow (s : State) (n c : Nat) : Bool :=
  (task s n).stroke.elim false (fun k => k.copies.any (fun x => x.core = c && x.shadow))

/-- A fault of a stroke, by whether its copy on the core is a shadow (R502, R506). -/
def strokeTrouble (t n c : Nat) (s : State) : State := if isShadow s n c then failShadow 2 n s else trigger t n s

/-- The state of a task is mapped at the start of its first drive under another set: an event for each item
initialised, and the counts of UPD_REMAP (R503, R504). -/
def mapState (n : Nat) (s : State) : State :=
  match tget s.upd.remaps n with
  | none => s
  | some (ids, dropped) =>
    let s := modUpd (fun u => { u with
      remaps := tdel u.remaps n, remapInit := sat 16 u.remapInit ids.length, remapDrop := sat 16 u.remapDrop dropped }) s
    ids.foldl (fun s i => updEvent 0xE007 (n * 2 ^ 24 + i % 2 ^ 24) s) s

end Sys2Proof.Machine
end

