-- ==== Sys2Proof/Machine/Strokes.lean ====
section
/-! DEFINITION. Strokes and tasks: dispatch, the services a stroke calls, write sets, transaction groups, access
faults (R34, R112 to R131, R150 to R167, R174). -/
namespace Sys2Proof.Machine

/-! ### Dispatch (R122, R130) -/

/-- A core is out of service: declared failed, or left out by the boot self-test (R191, R203). -/
def coreOut (s : State) (c : Nat) : Bool := s.wke.failed.testBit c || s.wke.bootBad.testBit c

/-- A core can drive: not failed, not held, and the mode lets the crew run (R50). In DEBUG only during a step (R546). -/
def coreRuns (s : State) (c : Nat) : Bool :=
  !coreOut s c && !coreHeld s c &&
  (s.sys.mode = .run || s.sys.mode = .degraded || (s.sys.mode = .debug && s.dbg.stepBusy))

/-- The ready stroke of highest priority on a core, a tie to the lower slot (R122). -/
def bestReady (s : State) (c : Nat) : Option Nat :=
  let ready := (declaredSlots s).filter (fun n =>
    (task s n).stroke.elim false (fun k => !k.blocked && (copyOn k c).elim false (fun x => x.phase = .ready)))
  ready.foldl (fun acc n => match acc with
    | none => some n
    | some m => if taskPrio s n > taskPrio s m then some n else some m) none

/-- A core takes a ready stroke into drive. -/
def startDrive (n c : Nat) (s : State) : State :=
  modCore c (fun x => { x with powered := true, driving := some n })
    (modCopy n c (fun x => { x with phase := .drive }) (mapState n s))

/-- The cox dispatches on a core: a free core takes the best ready stroke, and one of strictly higher priority
pre-empts the driving stroke, which keeps its state and write set (R122). -/
def dispatchCore (s : State) (c : Nat) : State :=
  if coreRuns s c then
    match bestReady s c, (s.cores.getD c {}).driving with
    | some n, none => startDrive n c s
    | some n, some m =>
      if taskPrio s n > taskPrio s m then startDrive n c (modCopy m c (fun x => { x with phase := .ready }) s) else s
    | none, _ => s
  else s

/-- Dispatch on every core. -/
def dispatchAll (s : State) : State := (List.range 16).foldl dispatchCore s

/-- A core leaves power gating. -/
def wakeCore (c : Nat) (s : State) : State := modCore c (fun x => { x with powered := true }) s

/-- A core has ended a drive: it takes its next stroke or enters power gating (R28, R112). The snapshot of the drive is no
longer needed (R149). -/
def endDrive (c : Nat) (s : State) : State :=
  noteVstore (gateIdle c (dispatchCore (modCore c (fun x => { x with driving := none }) s) c))

/-- A core and a task slot are those of a stroke copy, or of any copy of the stroke without a core named. -/
def isCopy (n : Nat) (core : Option Nat) (slot c : Nat) : Bool := slot = n && core.elim true (fun x => x = c)

/-- The requests a stroke has with the key core are withdrawn; one being served ends without a result (R466). -/
def withdrawKeys (n : Nat) (core : Option Nat) (s : State) : State :=
  let its := fun (r : KeyReq) => r.asker.elim false (fun a => isCopy n core a.2 a.1)
  { s with key := { s.key with
    queue := s.key.queue.filter (fun r => !its r),
    running := s.key.running.map (fun r => if its r then { r with withdrawn := true } else r) } }

/-- At the end of a stroke the locks it took on CAN queues end, the heads stay (R338); its key requests are
withdrawn (R466). With a core it is the copy of the stroke on that core that ends. -/
def releaseLocks (n : Nat) (core : Option Nat) (s : State) : State :=
  let s := withdrawKeys n core s
  { s with can := s.can.map (fun c => { c with queues := c.queues.map (fun q =>
      if q.locked && q.holder.elim false (fun h => isCopy n core h.1 h.2) then { q with locked := false, holder := none } else q) }) }

/-! ### Faults of the commit unit (R174, R178) -/

/-- The event of a fault kind (R174). -/
def dvtCode (k : Nat) : Nat :=
  match k with
  | 1 => 0x3001 | 2 => 0x3002 | 3 => 0x3003 | 4 => 0x3005 | 5 => 0x3006 | 6 => 0x3006 | 7 => 0x3004 | 8 => 0x3007 | _ => 0x3008

/-- Records a fault of the commit unit: held when none is, counted, and its event (R174, R178). -/
def dvtFault (k slot detail addr : Nat) (s : State) : State :=
  let d := s.dvt
  let d := if d.fValid then d else
    { d with fValid := true, fKind := k, fSlot := slot, fDetail := detail % 2 ^ 16, fAddr := addr }
  raise {
    code := dvtCode k, block := 0x03, unit := slot, drawer := taskDrawer s slot,
    detail := slot * 2 ^ 24 + k * 2 ^ 20 + detail % 2 ^ 16 } { s with dvt := { d with fCount := sat 32 d.fCount 1 } }

/-- A fault that the copy of a stroke on a core raises. -/
def strokeFault (k n c detail addr : Nat) (s : State) : State := strokeTrouble 3 n c (dvtFault k n detail addr s)

/-! ### Access faults (R34, R127) -/

/-- What is left of a discarded write set: only the outcome of the group (R166). -/
def discardWs (w : WriteSet) (last : Nat) : WriteSet :=
  { grpUsed := w.grpUsed, grpLast := if w.grpUsed && w.grp ≠ .idle then last else w.grpLast, rejected := w.rejected }

/-- A drive is stopped: the write set is discarded, with its messages, retained writes and group; the skip is due at
the release (R125, R127). -/
def stopDrive (n c : Nat) (k : SkipKind) (s : State) : State :=
  if isShadow s n c then failShadow (if k = .budget then 3 else 2) n s
  else endDrive c (releaseLocks n (some c) (modCopy n c (fun x => { x with phase := .done, stop := some k, ws := discardWs x.ws 3 }) s))

/-- The isolation unit refuses an access (R34, R107): the first is held, all are counted, event 0xD001. -/
def noteRefused (kind tag target addr drawer : Nat) (s : State) : State :=
  let d := s.drw
  let d := if d.fValid then d else { d with fValid := true, fKind := kind, fTag := tag, fTarget := target, fAddr := addr }
  raise { code := 0xD001, block := 0x14, drawer := drawer, detail := addr }
    { s with drw := { d with fCount := sat 32 d.fCount 1 } }

/-- The initiator tag of a crew core: the drawer of the stroke it drives (R34). The spec sets the tag at dispatch alone: a
core outside a stroke carries drawer 0 and no slot (DESIGN CHOICE, log entry 30). -/
def coreTag (s : State) (c : Nat) : Nat := ((s.cores.getD c {}).driving).elim 0 (taskDrawer s)

/-- A precise access fault of a crew core: its stroke ends as a skip of kind ACCESS (R127). -/
def accessFault (c : Nat) (s : State) : State :=
  match drivenBy s c with
  | some (n, _, x) => if x.shadow then stopDrive n c .access s else trigger 2 n (stopDrive n c .access s)
  | none => s

/-- A crew core's access is refused: recorded, and the stroke ends as a skip of kind ACCESS (R34, R127). -/
def coreRefused (c kind target addr : Nat) (s : State) : State :=
  let d := coreTag s c
  accessFault c (noteRefused kind d target addr d s)

/-- An access outside every listed range (R40, R579). -/
def noteOutOfRange (drawer addr : Nat) (s : State) : State :=
  raise { code := 0x0005, block := 0x01, drawer := drawer, detail := addr } s

/-! ### The drive's end (R112, R125) -/

/-- The aligned word of a slot's retained windows at a byte offset as committed, 0 beyond them (R132). -/
def retainedWord (s : State) (n off : Nat) : BitVec 64 :=
  (retAddr (retWins s.drw.image n) off).elim 0 (fun a => BitVec.ofNat 64 (leNat (Memory.readN s.mem a 8)))

/-- A byte of a word replaced. -/
def setByte (w : BitVec 64) (i : Nat) (b : Byte) : BitVec 64 := BitVec.ofNat 64 (leNat (lmod (leBytes 8 w.toNat) i (fun _ => b)))

/-- Merges retained bytes into the aligned words of a write set, each taken at its first write from what the windows hold
(R150). -/
def mergeRetained (s : State) (n : Nat) (l : List (Nat × Byte)) (t : Table (BitVec 64)) : Table (BitVec 64) :=
  l.foldl (fun t p =>
    let o := p.1 / 8 * 8
    tset t o (setByte ((tget t o).getD (retainedWord s n o)) (p.1 % 8) p.2)) t

/-- `STROKE_RETURN`: a task's entry returns on a core; the write set is closed. `driveUs` and `work` are the core time
and the work units of the drive, `wrote` the bytes it wrote to its retained and its read-write DRAM windows (R112, R132,
R137, R150, R180). A group still open is discarded with GROUP_ORPHAN (R166). -/
def execStrokeReturn (core : Fin 16) (driveUs work : Nat) (wrote : DriveWrites) (s : State) :
    Host.Outcome State Fault Refusal :=
  let c := core.val
  match drivenBy s c with
  | none => .next s
  | some (n, _, x) =>
    let orphan := x.ws.grp = .opened || x.ws.grp = .overflow
    let s := modCopy n c (fun x => { x with
      phase := .done, driveUs := driveUs, work := work,
      ws := { x.ws with
        retained := mergeRetained s n wrote.retained x.ws.retained, work := x.ws.work ++ wrote.state,
        grp := if orphan then .idle else x.ws.grp, grpLast := if orphan then 5 else x.ws.grpLast,
        staged := if orphan then [] else x.ws.staged } }) s
    let s := if x.shadow then s else modTask n (fun t => { t with
      driveLast := driveUs, driveMax := max t.driveMax driveUs, grpLast := if orphan then 5 else t.grpLast,
      workLast := if taskIsWork s n then work else t.workLast }) s
    let s := if orphan then strokeFault 9 n c ((s.dvt.groups.idxOf? n).getD 0) 0 s else s
    .next (endDrive c (releaseLocks n (some c) s))

/-- `BUDGET_EXHAUSTED`: a WORK-mode stroke would retire unit BUDGET + 1 (R125). -/
def execBudgetExhausted (core : Fin 16) (s : State) : Host.Outcome State Fault Refusal :=
  match drivenBy s core.val with
  | none => .next s
  | some (n, _, _) => if taskIsWork s n then .next (stopDrive n core.val .budget s) else .next s

/-! ### Write views (R26, R150, R152) -/

/-- The 9 bytes of value and quality with bytes written from an offset; the rest of the entry is ignored (R147). -/
def mergeEntry (v : BitVec 64) (q : Byte) (off : Nat) (bs : List Byte) : BitVec 64 × Byte :=
  let l := leBytes 8 v.toNat ++ [q]
  let m := (enum l).map (fun p => if off ≤ p.1 && p.1 < off + bs.length then bs.getD (p.1 - off) 0 else p.2)
  (BitVec.ofNat 64 (leNat (m.take 8)), m.getD 8 q)

/-- `WRITE_VIEW_WRITE`: a crew core writes bytes at an offset of a point's write view. Only the slot named WRITER is
accepted; otherwise fault SINGLE_WRITER (R152), bytes 9 to 15 of the entry included, of which R147 says that a write is
ignored (DESIGN CHOICE, log entry 26). -/
def execWriteViewWrite (core : Fin 16) (point off : Nat) (bs : List Byte) (s : State) : Host.Outcome State Fault Refusal :=
  let c := core.val
  match drivenBy s c with
  | none => .next (noteRefused 1 0 0 (0x20040000 + point * 16 + off) 0 s)
  | some (n, k, _) =>
    if (pointRec s.drw.image point).elim false (fun r => ptWriter r = n) then
      if off ≥ 9 then .next s
      else
        let e := entryOf k.snap point
        .next (modWs n c (fun w =>
          let cur := (tget w.points point).getD (e.value, e.quality)
          { w with points := tset w.points point (mergeEntry cur.1 cur.2 off bs) }) s)
    else
      let a := 0x20040000 + taskDrawer s n * 0x100000 + point * 16 + off
      let s := modWs n c (fun w => { w with rejected := w.rejected + 1 }) s
      let s := modTask n (fun t => { t with wrRej := sat 16 t.wrRej 1 }) s
      .next (strokeFault 1 n c point a s)

/-- `WRITE_STATUS`: writes rejected so far in the stroke (R152). -/
def execWriteStatus (core : Fin 16) (s : State) : Host.Outcome State Fault Refusal :=
  match drivenBy s core.val with
  | none => .next { s with answer := .refused }
  | some (_, _, x) => .next { s with answer := .value x.ws.rejected }

/-- `STROKE_INFO`: catch TN, observations, sources, retry, restart kind (R119). -/
def execStrokeInfo (core : Fin 16) (s : State) : Host.Outcome State Fault Refusal :=
  match drivenBy s core.val with
  | none => .next { s with answer := .refused }
  | some (_, k, _) => .next { s with answer := .values [k.catchTn, k.triggers, k.sources, bit k.retry, k.restart] }

/-! ### Messages (R157 to R160) -/

/-- `SEND`: code 0 accepted, 1 LIMIT, 2 ROUTE (R159). -/
def execSend (core : Fin 16) (dest : Nat) (payload : List Byte) (s : State) : Host.Outcome State Fault Refusal :=
  let c := core.val
  match drivenBy s c with
  | none => .next { s with answer := .refused }
  | some (n, _, x) =>
    if x.ws.msgs.length ≥ 16 || payload.length < 1 || payload.length > 256 then
      let s := modTask n (fun t => { t with sndRef := sat 16 t.sndRef 1 }) s
      .next { strokeFault 5 n c (min payload.length 0xFFFF) 0 s with answer := .value 1 }
    else if (taskRec s.drw.image dest).elim true (fun r => tkDrawer r ≠ taskDrawer s n) then
      let s := modTask n (fun t => { t with sndRef := sat 16 t.sndRef 1 }) s
      .next { strokeFault 6 n c dest 0 s with answer := .value 2 }
    else
      let m : Msg := { sender := n, dest := dest, seq := 0, tn := 0, payload := payload }
      .next { modWs n c (fun w => { w with msgs := w.msgs ++ [m] }) s with answer := .value 0 }

/-- The 16-byte header and the payload the receiver reads (R160). -/
def msgBytes (m : Msg) : List Byte :=
  [b8 m.sender, 0] ++ leBytes 2 m.payload.length ++ leBytes 2 m.seq ++ [0, 0] ++ leBytes 8 m.tn ++ m.payload

/-- `RECEIVE`: the next message of the inbox as seen at the catch (R158). -/
def execReceive (core : Fin 16) (s : State) : Host.Outcome State Fault Refusal :=
  let c := core.val
  match drivenBy s c with
  | none => .next { s with answer := .refused }
  | some (n, k, x) =>
    if k.inboxFrom + x.ws.taken < k.inboxSeen then
      match (task s n).inbox[k.inboxFrom + x.ws.taken]? with
      | some m => .next { modWs n c (fun w => { w with taken := w.taken + 1 }) s with answer := .bytes (msgBytes m) }
      | none => .next { s with answer := .none }
    else .next { s with answer := .none }

/-- `INBOX_COUNT`: messages the stroke can still take (R158). -/
def execInboxCount (core : Fin 16) (s : State) : Host.Outcome State Fault Refusal :=
  match drivenBy s core.val with
  | none => .next { s with answer := .refused }
  | some (_, k, x) => .next { s with answer := .value (k.inboxSeen - k.inboxFrom - x.ws.taken) }

/-! ### Transaction groups (R163 to R167) -/

/-- The stroke that makes an access to a caller register, when its slot holds a group slot (R163). -/
def grpCaller (s : State) (c : Nat) : Option (Nat × Copy × Nat) :=
  match drivenBy s c with
  | some (n, _, x) => (s.dvt.groups.idxOf? n).map (fun g => (n, x, g))
  | none => none

/-- A caller register write by a core whose stroke holds no group slot is a refused access (R95, R34). -/
def grpAccess (c off : Nat) (f : Nat → Copy → Nat → State → State) (s : State) : State :=
  match grpCaller s c with
  | some (n, x, g) => f n x g s
  | none => coreRefused c 1 0x03 (0x10020000 + off) s

/-- A write of `v` to DVT_GRP_OPEN (R164). -/
def grpOpen (c v : Nat) (s : State) : State :=
  grpAccess c 0x0C (fun n x _ s =>
    if v ≠ 1 then s
    else if x.ws.grp = .idle && !x.ws.grpUsed then modWs n c (fun w => { w with grp := .opened, grpUsed := true, staged := [] }) s
    else strokeFault 4 n c 0x0C 0x1002000C s) s

/-- A write of `v` to DVT_GRP_COMMIT (R164). -/
def grpCommit (c v : Nat) (s : State) : State :=
  grpAccess c 0x10 (fun n x _ s =>
    if v ≠ 1 then s
    else if x.ws.grp = .opened then modWs n c (fun w => { w with grp := .committed }) s
    else if x.ws.grp = .overflow then modWs n c (fun w => { w with grp := .committed, grpOver := true }) s
    else strokeFault 4 n c 0x10 0x10020010 s) s

/-- A write of `v` to DVT_GRP_ABORT (R164, R166). -/
def grpAbort (c v : Nat) (s : State) : State :=
  grpAccess c 0x14 (fun n x _ s =>
    if v ≠ 1 then s
    else if x.ws.grp = .opened || x.ws.grp = .overflow then
      modTask n (fun t => { t with grpLast := 2 }) (modWs n c (fun w => { w with grp := .idle, grpLast := 2, staged := [] }) s)
    else strokeFault 4 n c 0x14 0x10020014 s) s

/-- `GROUP_OPEN`. -/
def execGroupOpen (core : Fin 16) (v : Nat) (s : State) : Host.Outcome State Fault Refusal := .next (grpOpen core.val v s)
/-- `GROUP_COMMIT`. -/
def execGroupCommit (core : Fin 16) (v : Nat) (s : State) : Host.Outcome State Fault Refusal := .next (grpCommit core.val v s)
/-- `GROUP_ABORT`. -/
def execGroupAbort (core : Fin 16) (v : Nat) (s : State) : Host.Outcome State Fault Refusal := .next (grpAbort core.val v s)

/-- A granted write to an ST register by a core's stroke (R164): staged, or rejected with its fault. -/
def stageWrite (c addr v : Nat) (s : State) : State :=
  match drivenBy s c with
  | none => s
  | some (n, _, x) =>
    match x.ws.grp with
    | .opened =>
      if x.ws.staged.length < 256 then modWs n c (fun w => { w with staged := w.staged ++ [(addr, w32 v)] }) s
      else strokeFault 3 n c ((s.dvt.groups.idxOf? n).getD 0) addr (modWs n c (fun w => { w with grp := .overflow }) s)
    | .overflow => s
    | _ => strokeFault 2 n c (addr % 2 ^ 16) addr s

/-- `TN_LATCH`: a read of STK_TN_LO latches TN[63:32] (R109). -/
def execTnLatch (s : State) : Host.Outcome State Fault Refusal :=
  .next { s with stk := { s.stk with tnHi := s.stk.tn / 2 ^ 32 % 2 ^ 32 }, answer := .value (s.stk.tn % 2 ^ 32) }

/-- `EDGE_DIGEST_LATCH`: a read of DVT_EDGE_TN latches both edge digest registers (R175). -/
def execEdgeDigestLatch (s : State) : Host.Outcome State Fault Refusal :=
  .next { s with dvt := { s.dvt with digestLatch := s.dvt.digest }, answer := .value s.dvt.edgeTn }

end Sys2Proof.Machine
end

