-- ==== Sys2Proof/Machine/WkeCore.lean ====
section
/-! DEFINITION. The wake journal's records, the ring, checkpoints, spare seats, core failures and takeovers
(R180 to R202). -/
namespace Sys2Proof.Machine

/-! ### Journal records (R182, R183) -/

/-- Code of a skip kind in the journal and the edge digest (R183). -/
def skipCode (k : SkipKind) : Nat :=
  match k with | .overrun => 1 | .budget => 2 | .late => 3 | .takeover => 4 | .access => 5

/-- Bytes of an entry (R183). -/
def jBytes (e : JEntry) : List Byte :=
  match e with
  | .edgeOpen flags tn mode => [1, b8 flags, 0, 0] ++ leBytes 8 tn ++ [b8 mode, 0, 0, 0]
  | .input q i tick v => [2, b8 q] ++ leBytes 2 i ++ leBytes 4 tick ++ leBytes 8 v.toNat
  | .point q i v => [3, b8 q] ++ leBytes 2 i ++ leBytes 8 v.toNat
  | .wset n d => [4, b8 n, 0, 0] ++ leBytes 8 d.toNat
  | .message m dropped =>
    [5, b8 m.dest, b8 m.sender, b8 (bit dropped)] ++ leBytes 2 m.payload.length ++ leBytes 2 m.seq ++
      (if dropped then [] else m.payload ++ List.replicate ((4 - m.payload.length % 4) % 4) 0)
  | .jig mask => [6, 0, 0, 0] ++ leBytes 16 mask
  | .skip n k flags tn => [7, b8 n, b8 (skipCode k), b8 flags] ++ leBytes 8 tn
  | .mark k arg => [8, b8 k] ++ leBytes 2 arg ++ [0, 0, 0, 0]
  | .edgeClose d c => [0xF, 0, 0, 0] ++ leBytes 8 d.toNat ++ leBytes 4 c
  | .raw l => l

/-- Bytes of a record. -/
def recBytes (r : JRecord) : List Byte := r.entries.flatMap jBytes

/-- The entries closed by EDGE_CLOSE with its CRC-32C over everything before it (R183). -/
def closeEntries (l : List JEntry) (d : BitVec 64) : List JEntry :=
  let head := l.flatMap jBytes ++ [0xF, 0, 0, 0] ++ leBytes 8 d.toNat
  l ++ [.edgeClose d (crc32c head)]

/-- A record of the journal is written: not while suspended, unless a checkpoint that may resume it is being written
(R185). -/
def journals (s : State) : Bool := !s.wke.suspended || s.wke.writing.isSome

/-- Adds entries to the record of the edge being committed. -/
def jAdd (l : List JEntry) (s : State) : State := { s with wke := { s.wke with cur := s.wke.cur ++ l } }

/-- A MARK for the record of the next edge (R183). -/
def jMark (kind arg : Nat) (s : State) : State := { s with wke := { s.wke with marks := s.wke.marks ++ [(kind, arg)] } }

/-- Changes the SKIP entry of a slot in the record of an edge, and closes that record anew (R197). -/
def patchSkip (edge slot flags tn : Nat) (r : JRecord) : JRecord :=
  if r.edge ≠ edge then r
  else
    let body := r.entries.dropLast.map (fun e => match e with
      | .skip n k f t => if n = slot then .skip n k flags tn else .skip n k f t
      | e => e)
    match r.entries.getLast? with
    | some (.edgeClose d _) => { r with entries := closeEntries body d }
    | _ => r

/-- The outcome of a settlement entered into the record of its release (R197). -/
def patchJournal (edge slot flags tn : Nat) (s : State) : State :=
  let f := patchSkip edge slot flags tn
  { s with wke := { s.wke with buffer := s.wke.buffer.map f, ring := s.wke.ring.map f } }

/-- Bytes held by the ring (R182). -/
def ringBytes (l : List JRecord) : Nat := l.foldl (fun n r => n + (recBytes r).length) 0

/-- Size of the ring (R22). -/
def ringCap : Nat := 50331648

/-- A bank is valid: COMPLETE is written and every CRC matches (R189). -/
def bankValid (b : Bank) : Bool := b.complete && b.intact
/-- The newest valid bank. -/
def newestBank (w : Wke) : Bank := if w.newestB then w.bankB else w.bankA
/-- A bank that a takeover or a hot restart can use: valid, and of the run whose journal the ring holds. -/
def usable (b : Bank) : Bool := bankValid b && !b.old
/-- Edge count of a usable bank; 0 for another, whose place the restart state in DRAM takes (R187). -/
def ckEdge (b : Bank) : Nat := if usable b then b.edge else 0
/-- The other bank. -/
def olderBank (w : Wke) : Bank := if w.newestB then w.bankA else w.bankB

/-- Drops the oldest records until a new one fits; none when the newest valid bank needs one of them (R185). -/
def makeRoom (need : Nat) (keepAfter : Nat) (l : List JRecord) : Option (List JRecord) :=
  match l with
  | [] => some []
  | r :: t =>
    if ringBytes (r :: t) + need ≤ ringCap then some (r :: t)
    else if r.edge > keepAfter then none
    else makeRoom need keepAfter t

/-- KB between tail and writer, rounded up (R206; the rounding is a DESIGN CHOICE, log entry 26). -/
def ringUse (s : State) : Nat := (ringBytes s.wke.ring + 1023) / 1024

/-- A closed record goes from the buffer to the ring, or the journal is suspended with event 0x4007 (R182, R185). The
records after the edge of a checkpoint that is being written stay in the buffer: journalling resumes at that edge when
it completes. -/
def ringWrite (s : State) : State :=
  match s.wke.buffer with
  | [] => s
  | r :: t =>
    if s.wke.suspended then s
    else
      match makeRoom (recBytes r).length (ckEdge (newestBank s.wke)) s.wke.ring with
      | some l =>
        let s := { s with wke := { s.wke with
          buffer := t, ring := l ++ [r], head := (s.wke.head + (recBytes r).length) % ringCap } }
        { s with wke := { s.wke with ringPeak := max s.wke.ringPeak (ringUse s) } }
      | none =>
        raise { code := 0x4007, block := 0x04, detail := bit s.wke.newestB * 2 ^ 31 }
          { s with wke := { s.wke with
            suspended := true, buffer := if s.wke.writing.isSome then s.wke.buffer else [] } }

/-- Every closed record goes to the ring: what the brace does (R59, R182). -/
def ringFlush (s : State) : State := s.wke.buffer.foldl (fun s _ => ringWrite s) s

/-! ### Checkpoints (R186 to R189) -/

/-- Retained words as bytes by address. -/
def retainedBytes (s : State) (n : Nat) (l : Table (BitVec 64)) : List (Nat × Byte) :=
  l.flatMap (fun p => (retAddr (retWins s.drw.image n) p.1).elim []
    (fun a => (enum (leBytes 8 p.2.toNat)).map (fun q => (a + q.1, q.2))))

/-- The stroke that a checkpoint holds of a task (R187): a copy in RECOVERY with its closed write set but the retained
words, which the closed working copy holds, one in READY or DRIVE with nothing written; of the snapshot, the visible entries
that differ from version K. -/
def strokeCkpt (s : State) (n : Nat) (k : Stroke) : Stroke :=
  { k with
    snap := k.snap.filter (fun p => (tget s.dvt.latest p.1).getD {} ≠ p.2 &&
      (pointRec s.drw.image p.1).elim false (ptVisible · (taskDrawer s n)))
    copies := (k.copies.filter (fun x => !x.shadow)).map (fun x =>
      if x.phase = .done then
        { x with ws := { x.ws with retained := [], work := x.ws.work ++ retainedBytes s n x.ws.retained } }
      else { x with ws := {} }) }

/-- What a checkpoint keeps of a task slot at the close of a commit (R187): with a closed write set, the closed working copy
takes the place of the committed state. -/
def taskCkpt (s : State) (n : Nat) : TaskCkpt :=
  let t := task s n
  { slot := n, pend := t.pend, pendSrc := t.pendSrc, pendRetry := t.pendRetry, seqs := t.seqs, inbox := t.inbox, catchReg := t.catchReg,
    relReg := relTn s n, grpLast := t.grpLast, copy := committedCopy s n, stroke := t.stroke.map (strokeCkpt s n) }

/-- The parts of a bank: one for each declared task slot. Their kinds, offsets, lengths and CRCs rest on layouts that
the spec does not give: free values (log entries 7 and 30). -/
def bankParts (s : State) : List BankPart :=
  (enum (declaredSlots s)).map (fun p =>
    let f (i : Nat) : Nat := Config.freeValue (s.fresh + 4 * p.1 + i)
    { kind := f 0 % 256, slot := p.2, offset := f 1 % 2 ^ 32, length := f 2 % 2 ^ 32, crc := f 3 % 2 ^ 32 })

/-- A checkpoint of this edge starts into the bank that does not hold the newest valid one (R186). That of edge s is the
restart state, which Zynmond keeps in DRAM too (R187). -/
def ckptStart (s : State) : State :=
  let w := s.wke
  let b : Bank := {
    complete := false, intact := true, seq := w.seq + 1, tn := s.stk.tn, edge := s.stk.edges, meas := s.drw.meas,
    digest := s.dvt.digest, offset := (w.head + ringBytes w.buffer) % ringCap, parts := bankParts s, image := s.dvt.latest,
    tasks := (declaredSlots s).map (taskCkpt s), loops := s.lpe.slots.map (·.2),
    runs := s.enabled.contains .lpe && (s.sys.mode = .run || s.sys.mode = .degraded) }
  let toB := !w.newestB
  let w := if toB then { w with bankB := { w.bankB with complete := false } }
    else { w with bankA := { w.bankA with complete := false } }
  let s := { s with fresh := s.fresh + 4 * b.parts.length }
  { s with wke := { w with
      writing := some b, writingB := toB, ckptDue := false,
      restart := if s.stk.start = some s.stk.edges then { b with complete := true } else w.restart } }

/-- The ring's tail moves to what the older valid bank needs (R184). -/
def ringTrim (w : Wke) : Wke :=
  let o := if usable (olderBank w) then min (olderBank w).edge (newestBank w).edge else (newestBank w).edge
  { w with ring := w.ring.filter (fun r => r.edge > o) }

/-- The checkpoint being written becomes valid (R189), and the writer has taken every copy; a suspended journal resumes with
the records after its edge (R185). -/
def ckptDone (duration : Nat) (s : State) : State :=
  match s.wke.writing with
  | none => s
  | some b =>
    let b := { b with complete := true }
    let w := s.wke
    let s := { s with stk := { s.stk with tasks := s.stk.tasks.map (fun (t : Task) => { t with third := none }) } }
    let w := if w.writingB then { w with bankB := b } else { w with bankA := b }
    let w := { w with writing := none, newestB := w.writingB, seq := b.seq, duration := min duration 0xFFFF }
    let was := w.suspended
    let kept (r : JRecord) : Bool := r.edge > b.edge
    let w := if was then { w with suspended := false, ring := w.ring.filter kept, buffer := w.buffer.filter kept }
      else ringTrim w
    let s := jMark 5 (bit w.newestB) { s with wke := w }
    if was then raise { code := 0x4008, block := 0x04, detail := bit w.newestB * 2 ^ 31 } s else s

/-- A read-back fails: event 0x4005, and the same checkpoint is written again (R189). -/
def ckptFailed (passed : Nat) (s : State) : State :=
  match s.wke.writing with
  | none => s
  | some _ =>
    raise { code := 0x4005, block := 0x04, detail := bit s.wke.writingB * 2 ^ 31 + min passed 0xFFFFFF }
      { s with wke := { s.wke with cReadback := sat 8 s.wke.cReadback 1 } }

/-! ### Seats (R39, R193, R200 to R202) -/

/-- A seat counts as free: idle, in self-test or running a shadow (R200, R201). -/
def seatFree (u : SeatUse) : Bool := u = .free || u = .shadow || u = .selfTest

/-- The free seats, ascending. -/
def freeSeats (w : Wke) : List Nat := (w.seats.filter (fun p => seatFree p.2)).map (·.1)

/-- The seat a fault takes: the lowest-numbered free one in the four of the core, else on the module; a seat that
runs a shadow only when no other is free (R193, R201). -/
def pickSeat (w : Wke) (c : Nat) : Option Nat :=
  let idle := (w.seats.filter (fun p => p.2 = .free || p.2 = .selfTest)).map (·.1)
  let all := if idle.isEmpty then freeSeats w else idle
  ((all.filter (fun x => x / 4 = c / 4)) ++ all).head?

/-- A seat takes a use and leaves power gating; a shadow on it ends and the update is abandoned (R39, R201, R511). -/
def takeSeat (c : Nat) (u : SeatUse) (s : State) : State :=
  let s := if tget s.wke.seats c = some .shadow then abandonUpdate 2 s else s
  wakeCore c { s with wke := { s.wke with seats := tset s.wke.seats c u } }

/-- A seat returns to the free set and to power gating (R39). -/
def freeSeat (c : Nat) (s : State) : State := gateIdle c { s with wke := { s.wke with seats := tset s.wke.seats c .free } }

/-- SPARES is set when no seat is left free (R202). -/
def sparesOut (s : State) : State := if (freeSeats s.wke).isEmpty then setCause 0 s else s

/-! ### Tasks of a failed core (R130, R191, R199) -/

/-- The stroke had a group that its end discards (R166): one open, committed or overflowed, or one that a stopped drive had
left. -/
def losesGroup (k : Stroke) : Bool := k.copies.any (fun x => x.ws.grpUsed && (x.ws.grp ≠ .idle || x.ws.grpLast = 3))

/-- A task has no stroke any more: its observations return to the pending ones (R128, R191). `last` is LAST of the group
that this discards: 3 at a skip, 6 at the entry into HOLD or DEBUG (R166). The stroke that carries the observations of one
that HOLD or DEBUG ended has RETRY TRUE too (DESIGN CHOICE, log entry 17). -/
def loseStrokeAs (last : Nat) (t : Task) : Task :=
  match t.stroke with
  | none => t
  | some k => { t with
      stroke := none, pend := min 65535 (t.pend + k.triggers), pendSrc := t.pendSrc ||| k.sources,
      sat := t.sat || decide (t.pend + k.triggers > 65535),
      pendRetry := t.pendRetry || decide (k.triggers > 0), lastCatch := k.catchEdge, replayRel := k.relEdge,
      grpLast := if losesGroup k then last else t.grpLast }

/-- A task's stroke ends by a skip or with its core. -/
def loseStroke (t : Task) : Task := loseStrokeAs 3 t

/-- The stroke of a task ends without a release: its shadow counts as a miss, the shadow's state is copied anew at the next
catch, and its core is free (R501). -/
def dropShadow (n : Nat) (s : State) : State :=
  let cs := shadowCores (task s n)
  if cs.isEmpty then s
  else cs.foldl (fun (s : State) c => gateIdle c (modCore c (fun x => { x with driving := none }) s))
    (modUpd (fun u => { u with misses := sat 16 u.misses 1, states := tdel u.states n }) s)

/-- A live task enters REPLAY (R130); the locks of its stroke end (R338). -/
def enterReplay (n : Nat) (s : State) : State :=
  if (task s n).st = .live then
    modTask n (fun t => { loseStroke t with st := .replay }) (releaseLocks n none (dropShadow n s))
  else s

/-- A task is stopped: event 0x2004 (R10, R130). -/
def stopTask (n : Nat) (s : State) : State :=
  if (task s n).st = .off || (task s n).st = .stopped then s
  else
    raise { code := 0x2004, block := 0x02, unit := n, drawer := taskDrawer s n, detail := n * 2 ^ 24 }
      (modTask n (fun t => { loseStroke t with st := .stopped }) (releaseLocks n none (dropShadow n s)))

/-- The journal holds the commit of a slot's write set at an edge. -/
def committedAt (w : Wke) (edge n : Nat) : Bool :=
  (w.ring ++ w.buffer).any (fun r => r.edge = edge && r.entries.any (fun e => match e with | .wset m _ => m = n | _ => false))

/-- The closed copy of a task's stroke that a bank holds and the journal commits by E: it is adopted, not run (R194). -/
def adoptedCopy (w : Wke) (b : Bank) (upTo n : Nat) : Option Copy :=
  ((b.tasks.find? (fun t => t.slot = n)).bind (·.stroke)).bind (fun k =>
    if k.relEdge ≤ upTo && committedAt w k.relEdge n then k.copies.find? (fun x => x.phase = .done && x.stop.isNone) else none)

/-- Strokes of a task released after K up to E that the journal holds as WSET entries; one held closed in the bank is
adopted, not run (R194). -/
def replayCount (w : Wke) (b : Bank) (upTo n : Nat) : Nat :=
  let rs := (w.ring ++ w.buffer).filter (fun r => ckEdge b < r.edge && r.edge ≤ upTo)
  let all := (rs.flatMap (·.entries)).countP (fun e => match e with | .wset m _ => m = n | _ => false)
  if (adoptedCopy w b upTo n).isSome then all - 1 else all

/-- A bank by its number. -/
def bankOf (w : Wke) (b : Bool) : Bank := if b then w.bankB else w.bankA

/-- The copies a takeover loads: those of the bank, or of the restart state in DRAM while no checkpoint of this run is valid
(R187, R194). -/
def copiesOf (w : Wke) (b : Bool) : Bank := if usable (bankOf w b) then bankOf w b else w.restart

/-- The ring still reaches a bank (R195): the record of the edge after it is there, or none is later. -/
def ringReaches (w : Wke) (b : Bank) : Bool :=
  (w.ring ++ w.buffer).all (fun r => r.edge ≤ b.edge) || (w.ring ++ w.buffer).any (fun r => r.edge = b.edge + 1)

/-- The bank of a takeover that starts again after a replay mismatch: the older one when it is valid and the ring
reaches it, else the newest (R195). -/
def retryBank (w : Wke) : Bool :=
  if usable (olderBank w) && ringReaches w (olderBank w) then !w.newestB else w.newestB

/-- A takeover of tasks on a seat starts (R194); with the journal suspended it is direct (R185). -/
def startTakeover (core seat : Nat) (slots : List Nat) (bankB rebuild : Bool) (s : State) : State :=
  if slots.isEmpty then s
  else
    let t : Takeover := {
      core := core, seat := seat, slots := slots, lastEdge := s.stk.edges, bankB := bankB,
      direct := s.wke.suspended, rebuild := rebuild }
    wakeCore seat { s with wke := { s.wke with takeovers := s.wke.takeovers ++ [t] } }

/-- The committed state of a takeover's tasks stands as the replay has rebuilt it (R194); a direct takeover adopts the
committed copies as they are (R185). -/
def restoreBuilt (t : Takeover) (s : State) : State :=
  if t.direct then s else t.built.foldl (fun (s : State) p => restoreCopy p.1 p.2 s) s

/-- A takeover is complete: the state of its tasks, MARK, event 0x4002; its tasks may leave REPLAY (R194). -/
def takeoverDone (t : Takeover) (us : Nat) (s : State) : State :=
  let s := restoreBuilt t s
  let w := s.wke
  let s := gateIdle t.seat { s with wke := { w with
    takeovers := w.takeovers.filter (fun x => x.seat ≠ t.seat || x.slots ≠ t.slots), toLast := us % 2 ^ 32, toMax := max w.toMax (us % 2 ^ 32),
    cTakeovers := sat 8 w.cTakeovers 1 } }
  raise {
    code := 0x4002, block := 0x04,
    detail := t.seat * 2 ^ 28 + bit t.bankB * 2 ^ 27 + bit t.direct * 2 ^ 26 + min us 0xFFFFFF }
    (jMark (if t.direct then 7 else 6) t.seat s)

/-- WKE_LAST_FAULT takes a declaration when it holds none (R210). -/
def captureFault (kind core seat : Nat) (noSeat : Bool) (n : Nat) (w : Wke) : Wke :=
  if w.lfValid then w
  else { w with lfValid := true, lfKind := kind, lfCore := core, lfSeat := seat, lfNoSeat := noSeat, lfTasks := n }

/-- The unpaired tasks bound to a core, and the paired ones whose other core has failed too (R191, R130). -/
def movers (s : State) (c : Nat) : List Nat :=
  (declaredSlots s).filter (fun n =>
    let t := task s n
    if taskIsPaired s n && t.core ≠ t.pair then
      (t.core = c && s.wke.failed.testBit t.pair) || (t.pair = c && s.wke.failed.testBit t.core)
    else t.core = c)

/-- The tasks bound to a core. -/
def boundTasks (s : State) (c : Nat) : List Nat := (declaredSlots s).filter (fun n => (task s n).core = c || (task s n).pair = c)

/-- The paired tasks that lose one core. -/
def halved (s : State) (c : Nat) : List Nat :=
  (declaredSlots s).filter (fun n =>
    let t := task s n
    taskIsPaired s n && t.core ≠ t.pair && ((t.core = c && !s.wke.failed.testBit t.pair) || (t.pair = c && !s.wke.failed.testBit t.core)))

/-- A seat replaces a core in its pool and in the binding of every declared task (R193, R199). -/
def rebind (c seat : Nat) (s : State) : State :=
  (declaredSlots s).foldl (fun (s : State) n => modTask n (fun t => { t with
    core := if t.core = c then seat else t.core, pair := if t.pair = c then seat else t.pair }) s)
    { s with stk := { s.stk with pools := s.stk.pools.map (fun m => if m.testBit c then bset (bclr m c) seat else m) } }

/-- A settlement on a seat that fails moves to another seat, or ends unsettled when none is free (R197). -/
def unsettle (reason slot relEdge : Nat) (s : State) : State :=
  let s := patchJournal relEdge slot 4 0 s
  let s := modTask slot (fun t => { t with stroke := t.stroke.map (fun k => { k with blocked := false }) }) s
  let s := { s with wke := { s.wke with
    settles := s.wke.settles.filter (fun x => x.slot ≠ slot || x.relEdge ≠ relEdge),
    cUnsettled := sat 8 s.wke.cUnsettled 1 } }
  raise {
    code := 0x4004, block := 0x04, unit := slot, drawer := taskDrawer s slot,
    detail := slot * 2 ^ 24 + reason * 2 ^ 20 } s

/-- A free seat that fails: event 0x4001, and 0x400B for a self-test; no task moves (R200, R205). -/
def failSeat (c kind : Nat) (s : State) : State :=
  let noSeat := (freeSeats s.wke).isEmpty
  let s := { s with wke := captureFault kind c 0 noSeat 0 s.wke }
  let s := raise { code := 0x4001, block := 0x04, detail := c * 2 ^ 28 + kind * 2 ^ 24 + bit noSeat * 2 ^ 19 } s
  sparesOut (if kind = 7 then raise { code := 0x400B, block := 0x04, detail := c * 2 ^ 28 } s else s)

/-- The tasks of a failed core go to the seat that replaces it (R193, R194). `old` is the takeover the failed core
served, if any: after a replay mismatch the older bank is used when it is valid (R195). The pair of a task that loses one
core drives on with the task's committed copy (R180, R199). -/
def moveTasks (c kind seat : Nat) (mv : List Nat) (old : Option Takeover) (s : State) : State :=
  let s := rebind c seat (takeSeat seat .taken s)
  let s := mv.foldl (fun (s : State) k => enterReplay k s) s
  let s := { s with wke := { s.wke with alone := s.wke.alone ++ mv.filter (fun k => taskIsPaired s k) } }
  let bankB := if old.isSome && kind = 6 then retryBank s.wke else s.wke.newestB
  gateIdle seat (startTakeover c seat (mv.filter (fun k => decide ((task s k).st = .replay))) bankB false s)

/-- No seat is free: the tasks stop and the pairs run on their survivor (R10, R199). -/
def strandTasks (mv hv : List Nat) (s : State) : State :=
  let s := mv.foldl (fun (s : State) k => stopTask k s) s
  { s with wke := { s.wke with alone := s.wke.alone ++ hv } }

/-- A settlement that ran on the failed core goes to another seat or ends unsettled (R197). -/
def moveSettle (c : Nat) (s : State) (x : Settle) : State :=
  match pickSeat s.wke c with
  | some y => takeSeat y .settling { s with wke := { s.wke with
      settles := s.wke.settles.map (fun z => if z.slot = x.slot && z.relEdge = x.relEdge then { z with seat := y } else z) } }
  | none => unsettle 2 x.slot x.relEdge s

/-- Seats that cores take in turn under R193. -/
def assignSeats (w : Wke) (cs : List Nat) : List (Nat × Option Nat) :=
  match cs with
  | [] => []
  | c :: r =>
    let x := pickSeat w c
    (c, x) :: assignSeats (x.elim w (fun y => { w with seats := tset w.seats y .taken })) r

/-- What a failed core took passes to another seat: its takeovers start there. -/
def passSeat (x y : Nat) (s : State) : State :=
  let s := freeSeat x (rebind x y s)
  takeSeat y .taken { s with wke := { s.wke with takeovers := s.wke.takeovers.map (fun t =>
    if t.seat = x then { t with seat := y, loaded := false, left := 0, built := [] } else t) } }

/-- WKE_LAST_FAULT follows the seat of the core it holds, when that seat changes before the next edge (R196, R210). The
record 0x4001 stays as entered (log entry 30). -/
def noteReseat (c : Nat) (seat : Option Nat) (s : State) : State :=
  let w := { s.wke with recent := s.wke.recent.map (fun q => if q.1 = c then (q.1, seat) else q) }
  { s with wke := if w.lfValid && w.lfCore = c then
      { w with lfSeat := seat.getD 0, lfNoSeat := seat.isNone, lfTasks := if seat.isNone then 0 else w.lfTasks } else w }

/-- What a failed core took is given up: its tasks stop, its pairs run on their survivor (R196, R199). -/
def giveUpSeat (c x : Nat) (s : State) : State :=
  let own := boundTasks s x
  let s := (own.filter (fun k => !taskIsPaired s k)).foldl (fun (s : State) k => stopTask k s) s
  let s := freeSeat x (rebind x c s)
  { s with wke := { s.wke with
    alone := s.wke.alone ++ own.filter (fun k => taskIsPaired s k), takeovers := s.wke.takeovers.filter (fun t => t.seat ≠ x) } }

/-- Cores declared failed between the same two edges are handled in ascending order (R196): a core that fails after higher
ones chooses its seat before them, and a seat that they lose by it passes on. A seat that has failed itself is out of the
choice; what it carried went on with its own failure. The choice affects no result (R193). -/
def reseat (c : Nat) (s : State) : State :=
  let later := sortBy (fun (a b : Nat × Option Nat) => decide (a.1 < b.1)) (s.wke.recent.filter (fun p =>
    decide (p.1 > c) && p.2.all (fun x => tget s.wke.seats x = some .taken)))
  let w := later.foldl (fun (w : Wke) p => p.2.elim w (fun x => { w with seats := tset w.seats x .free })) s.wke
  let plan := assignSeats w (c :: later.map (·.1))
  later.reverse.foldl (fun (s : State) p =>
    match p.2, ((plan.find? (fun q => q.1 = p.1)).bind (·.2)) with
    | some x, some y => if x = y then s else noteReseat p.1 (some y) (passSeat x y s)
    | some x, none => noteReseat p.1 none (giveUpSeat p.1 x s)
    | none, _ => s) s

/-- A core that carried tasks fails (R191, R193, R199, R202); the seat of a settlement replaces the core it outvotes
(R197). TASKS counts the unpaired tasks moved: none without a seat (R205, R210). -/
def failWorker (c kind : Nat) (want : Option Nat) (old : Option Takeover) (s : State) : State :=
  let mv := movers s c
  let hv := halved s c
  let s := if want.isNone then reseat c s else s
  let seat := want <|> pickSeat s.wke c
  let s := if want.isNone then { s with wke := { s.wke with recent := s.wke.recent ++ [(c, seat)] } } else s
  let n := if seat.isNone then 0 else (mv.filter (fun k => !taskIsPaired s k)).length
  let s := { s with wke := captureFault kind c (seat.getD 0) seat.isNone n s.wke }
  let s := raise {
    code := 0x4001, block := 0x04,
    detail := c * 2 ^ 28 + kind * 2 ^ 24 + seat.getD 0 * 2 ^ 20 + bit seat.isNone * 2 ^ 19 + n } s
  let s := hv.foldl (fun (s : State) k => modCopy k c (fun x => { x with phase := .lost, ws := discardWs x.ws 3 }) s) s
  let s := match seat with
    | some x => moveTasks c kind x mv old s
    | none => strandTasks mv hv s
  let s := (s.wke.settles.filter (fun (x : Settle) => decide (x.seat = c) && x.won.isNone)).foldl (moveSettle c) s
  dispatchAll (sparesOut s)

/-- What the failure of a crew core does (R191): it is isolated and gated, its bit set, its unreleased strokes discarded,
its tasks in REPLAY on a seat or STOPPED, its pairs completed or halved; event 0x4001. -/
def failNow (want : Option Nat) (c kind : Nat) (s : State) : State :=
  if coreOut s c then s
  else
    let wasFree := (tget s.wke.seats c).elim false seatFree
    let s := if tget s.wke.seats c = some .shadow then abandonUpdate 2 s else s
    let s := if kind = 5 || kind = 6 then (boundTasks s c).foldl (fun (s : State) n => trigger 4 n s) s else s
    let old := s.wke.takeovers.find? (fun t => t.seat = c && !t.rebuild)
    let s := { s with wke := { s.wke with
      failed := bset s.wke.failed c, seats := tdel s.wke.seats c,
      takeovers := s.wke.takeovers.filter (fun t => t.seat ≠ c) } }
    let s := modCore c (fun _ => {}) s
    noteVstore (if wasFree then failSeat c kind s else failWorker c kind want old s)

/-- A crew core is declared failed; `want` is the seat a settlement chose. -/
def failCoreTo (want : Option Nat) (c kind : Nat) (s : State) : State := sameCycle (failNow want c kind) s

/-- A crew core is declared failed; the seat is chosen by R193. -/
def failCore (c kind : Nat) (s : State) : State := failCoreTo none c kind s

/-- A takeover or settlement is in progress (R196). -/
def wkeBusy (s : State) : Bool := !s.wke.takeovers.isEmpty || s.wke.settles.any (·.won.isNone)

end Sys2Proof.Machine
end

