-- ==== Sys2Proof/Machine/Access.lean ====
section
/-! DEFINITION. The isolation unit: services by grant, memory windows, DMA accesses, and the bytes of memory (R22, R24, R25, R34, R36,
R40, R94). -/
namespace Sys2Proof.Machine

/-- A drawer uses a block's services with a basic or expert grant (R36). Otherwise the access is refused (R34). -/
def service (c item target addr : Nat) (f : State → State) (s : State) : State :=
  match drivenBy s c with
  | none => { s with answer := .refused }
  | some (n, _, _) =>
    if grant s.drw.image (taskDrawer s n) item = 0 then { coreRefused c 1 target addr s with answer := .refused } else f s

/-- The address lies in a listed range of the service address map (R40). -/
def listed (a : Nat) : Bool :=
  a < 0x40000 || (0x10000000 ≤ a && a < 0x10094000) || (0x100A0000 ≤ a && a < 0x100AC000) ||
  (0x100B0000 ≤ a && a < 0x100E6000) || (0x100F0000 ≤ a && a < 0x10140000) ||
  (0x20000000 ≤ a && a < 0x22000000) || (0x40000000 ≤ a && a < 0x50000000) || (0x80000000 ≤ a && a < 0x100000000)

/-- The address lies in MRAM or DRAM (R22). -/
def isMemory (a : Nat) : Bool := (0x40000000 ≤ a && a < 0x50000000) || (0x80000000 ≤ a && a < 0x100000000)

/-- The address lies in the process image windows (R26). -/
def inWindows (a : Nat) : Bool := 0x20000000 ≤ a && a < 0x22000000

/-- The tag area (R532), which drawer 0 writes too (R24). -/
def inTagArea (a : Nat) : Bool := 0x43FFFE00 ≤ a && a < 0x44000000

/-- The memory window that holds an address; windows do not overlap (R98). -/
def windowAt (img : List Section) (a : Nat) : Option Rec :=
  (recs img 0x04).find? (fun r => mwBase r ≤ a && a < mwBase r + mwSize r)

/-- One access to memory passes the isolation unit (R25, R34): `tag` is a drawer, or none for the service initiator;
`slot` is the task slot a crew core carries, none for a DMA engine. A read-write window needs its drawer and, from a
crew core, its slot; a read-only window its drawer or the service initiator, to read; memory in no window belongs to
the service initiator; the tag area takes writes of drawer 0 with an expert HIE grant (R532). A drawer that the image
does not declare has nothing (R36). -/
def memAllows (img : List Section) (tag slot : Option Nat) (core write : Bool) (a : Nat) : Bool :=
  isMemory a && tag.elim true (drawerKnown img ·) &&
  match windowAt img a with
  | some w =>
    if mwWritable w then tag = some (mwDrawer w) && (!core || slot = some (mwOwner w))
    else !write && (tag.isNone || tag = some (mwDrawer w))
  | none => tag.isNone || (tag = some 0 && write && inTagArea a && grant img 0 32 = 2)

/-- The first byte of each 4 KB page that a run of bytes touches; windows are whole pages (R89). -/
def pageStarts (a len : Nat) : List Nat :=
  a :: ((List.range ((a + len - 1) / 4096 - a / 4096)).map (fun i => (a / 4096 + i + 1) * 4096))

/-- A DMA access of an owner (a drawer, or none for the service initiator): passed, or refused at the first of its pages
that does not pass, and recorded (R34). An address outside every listed range is a bus error with event 0x0005 in place
of 0xD001 (R40). -/
def dmaAccess (owner : Option Nat) (write : Bool) (a len : Nat) (s : State) : Bool × State :=
  let refused := (pageStarts a len).find? (fun p => !memAllows s.drw.image owner none false write p)
  if len = 0 || (pageStarts a len).all (memAllows s.drw.image owner none false write) then (true, s)
  else
    let p := refused.getD a
    (false, if listed p then noteRefused 3 (owner.getD 0x20) 0 p (owner.getD 0) s else noteOutOfRange (owner.getD 0) p s)

/-! ### The process image windows (R26) -/

/-- An access to a process image window passes (R26): a drawer reaches its own window, and the service initiator every
one. The snapshot view takes no write, the write view those of a stroke alone; a write beyond the views is ignored. -/
def windowPasses (img : List Section) (tag : Option Nat) (stroke write : Bool) (a : Nat) : Bool :=
  let d := (a - 0x20000000) / 0x100000
  let off := (a - 0x20000000) % 0x100000
  (tag.isNone || (tag = some d && drawerKnown img d)) && (!write || 0x80000 ≤ off || (0x40000 ≤ off && stroke))

/-- The 16 bytes of an entry (R145). -/
def entryBytes (e : Entry) : List Byte :=
  leBytes 8 e.value.toNat ++ [e.quality, b8 e.drawer] ++
    leBytes 2 (e.typ * 2 ^ 12 + bit e.init * 4 + bit e.skipped * 2 + bit e.changed) ++ leBytes 4 e.tick

/-- The entry of a point that a view shows (R26). Inside a stroke the snapshot view shows the version it caught, and the
write view the value and quality in its write set, else the snapshot; any other initiator sees the latest sealed version
in the snapshot view, and in the write view, of which the spec says nothing for it, too (DESIGN CHOICE, log entry 30).
-/
def viewEntry (s : State) (by_ : Option (Stroke × Copy)) (write : Bool) (n : Nat) : Entry :=
  match by_ with
  | none => (tget s.dvt.latest n).getD {}
  | some (k, x) =>
    let e := (tget k.snap n).getD {}
    match (if write then tget x.ws.points n else none) with
    | some (v, q) => { e with value := v, quality := q }
    | none => e

/-- A word of a window as the stroke `by_` reads it, or an initiator outside one: the view of a point visible in the drawer,
else 0 (R26, R27). -/
def readWindow (s : State) (by_ : Option (Stroke × Copy)) (a : Nat) : Nat :=
  let d := (a - 0x20000000) / 0x100000
  let off := (a - 0x20000000) % 0x100000
  let n := off % 0x40000 / 16
  if 0x80000 ≤ off || !(pointRec s.drw.image n).elim false (ptVisible · d) then 0
  else f32 (entryBytes (viewEntry s by_ (decide (0x40000 ≤ off)) n)) (off % 16)

/-! ### MRAM that the model holds as records (R22) -/

/-- The header of a checkpoint bank (R189). -/
def bankHeader (b : Bank) : List Byte :=
  leBytes 4 (if b.complete then 0x434B5054 else 0) ++ leBytes 4 b.seq ++ leBytes 8 b.tn ++
  (b.meas ++ List.replicate 32 0).take 32 ++ leBytes 8 b.digest.toNat ++ leBytes 4 b.offset ++ leBytes 4 b.parts.length ++
  b.parts.flatMap (fun p => [b8 p.kind, b8 p.slot, 0, 0] ++ leBytes 4 p.offset ++ leBytes 4 p.length ++ leBytes 4 p.crc)

/-- What stands in a bank: the checkpoint being written into it, else its own. -/
def bankShown (w : Wke) (b : Bool) : Bank := if w.writingB = b then w.writing.getD (bankOf w b) else bankOf w b

/-- Ring offset of the oldest record: the ring ends at the head (R182). -/
def journalTail (w : Wke) : Nat := (w.head + ringCap - ringBytes w.ring % ringCap) % ringCap

/-- The record in a slot of the event store; RECNO modulo its size gives the slot (R434, DESIGN CHOICE, log entry 3). -/
def storedRecord (e : Evr) (slot : Nat) : Option EvRecord :=
  (e.records.take (e.records.length - e.bufferNew)).find? (fun r => r.recno % storeCap = slot)

/-- The byte of a record at an MRAM address: a bank's header, the ring, the event store; none where no record stands. What a
part of a bank holds beyond its header the spec does not lay out (log entry 3). -/
def recordByte (s : State) (a : Nat) : Option Byte :=
  if a < 0x44000000 then none
  else if a < 0x4C000000 then
    let b := bankShown s.wke (decide (0x48000000 ≤ a))
    if b.intact then (bankHeader b)[a % 0x4000000]? else none
  else if a < 0x4F000000 then (s.wke.ring.flatMap recBytes)[(a - 0x4C000000 + ringCap - journalTail s.wke) % ringCap]?
  else if a < 0x50000000 then (storedRecord s.evr ((a - 0x4F000000) / 32)).bind (fun r => (recordBytes r)[a % 32]?)
  else none

/-- A run of bytes lies apart from the MRAM that holds records. -/
def plainBytes (a len : Nat) : Bool := a + len ≤ 0x44000000 || 0x50000000 ≤ a

/-- A number of bytes of memory. -/
def memBytes (s : State) (a len : Nat) : List Byte :=
  if plainBytes a len then Memory.readN s.mem a len
  else (List.range len).map (fun i => (recordByte s (a + i)).getD (Memory.read s.mem (a + i)))

/-- A byte of a run of records changed: the record that holds it is spoilt. -/
def tornRing (l : List JRecord) (d : Nat) (b : Byte) : List JRecord :=
  match l with
  | [] => []
  | r :: t =>
    let n := (recBytes r).length
    if d < n then { r with entries := [.raw (lmod (recBytes r) d (fun _ => b))] } :: t else r :: tornRing t (d - n) b

/-- A bank is no longer what its CRCs say: its bytes are plain bytes. -/
def tornBank (b : Bool) (s : State) : State :=
  let k := bankShown s.wke b
  if !k.intact then s
  else
    let w := s.wke
    let w := if b then { w with bankB := { w.bankB with intact := false } } else { w with bankA := { w.bankA with intact := false } }
    let w := { w with
      writing := if w.writingB = b then w.writing.map (fun k => { k with intact := false }) else w.writing,
      newestB := if w.newestB = b && bankValid (bankOf w (!b)) then !b else w.newestB }
    { s with wke := w, mem := Memory.writeN s.mem (if b then 0x48000000 else 0x44000000) (bankHeader k) }

/-- A byte of a stored record outside its CRC and VALID: REPEAT and FOLDED in bytes 6 and 7, byte 30 (R425, R426). -/
def spareByte (i : Nat) (b : Byte) (r : EvRecord) : EvRecord :=
  if i = 6 then { r with repeats := r.repeats / 256 * 256 + b.toNat }
  else if i = 7 then { r with repeats := b.toNat % 128 * 256 + r.repeats % 256, folded := b.getLsbD 7 }
  else { r with spare := b }

/-- A byte written over a record: one that it changes spoils the record, and a bank for which no CRC can be known to match
still (R189). -/
def overwriteByte (a : Nat) (b : Byte) (s : State) : State :=
  if a < 0x44000000 || 0x50000000 ≤ a || recordByte s a = some b then s
  else if a < 0x4C000000 then tornBank (decide (0x48000000 ≤ a)) s
  else if a < 0x4F000000 then
    { s with wke := { s.wke with ring := tornRing s.wke.ring ((a - 0x4C000000 + ringCap - journalTail s.wke) % ringCap) b } }
  else
    match storedRecord s.evr ((a - 0x4F000000) / 32) with
    | none => s
    | some r =>
      if a % 32 ∈ [6, 7, 30] then
        { s with evr := { s.evr with records := s.evr.records.map (fun x => if x.recno = r.recno then spareByte (a % 32) b x else x) } }
      else { s with
        evr := { s.evr with
          records := s.evr.records.filter (fun x => x.recno ≠ r.recno),
          headOpen := s.evr.headOpen && s.evr.records.getLast?.elim false (fun x => x.recno ≠ r.recno) },
        mem := Memory.writeN s.mem (a / 32 * 32) (recordBytes r) }

/-- Bytes written over the MRAM that holds records (R22). -/
def overwrite (a : Nat) (l : List Byte) (s : State) : State :=
  if plainBytes a l.length then s else (enum l).foldl (fun s p => overwriteByte (a + p.1) p.2 s) s

/-- A write to the tag area counts in HIE_TAG_SEQ and records 0xF00A (R532). -/
def noteTagWrite (s : State) : State :=
  let n := sat 32 s.hie.tagSeq 1
  raise { code := 0xF00A, block := 0x12, detail := n % 2 ^ 16 } { s with hie := { s.hie with tagSeq := n } }

/-- A run of bytes meets the tag area (R532). -/
def meetsTagArea (a len : Nat) : Bool := len ≠ 0 && a < 0x44000000 && 0x43FFFE00 < a + len

/-- Bytes written to memory. -/
def putBytes (a : Nat) (l : List Byte) (s : State) : State :=
  let s := overwrite a l s
  let s := { s with mem := Memory.writeN s.mem a l }
  if meetsTagArea a l.length then noteTagWrite s else s

end Sys2Proof.Machine
end

