-- ==== Sys2Proof/Machine/Commit.lean ====
section
/-! DEFINITION. The commit of an edge: point entries and versions, releases and skips in commit order, messages,
retained words, staged groups, loop results, digests, the journal record; observations and catches (R109 to R135,
R145 to R173, R183, R588). -/
namespace Sys2Proof.Machine

/-! ### Point entries (R147, R148) -/

/-- VALUE as the commit stores it (R147). -/
def normalise (typ : Nat) (v : BitVec 64) : BitVec 64 :=
  match typ with
  | 1 => if v = 0 then 0 else 1
  | 2 => (v.truncate 16).signExtend 64
  | 3 => (v.truncate 16).zeroExtend 64
  | 4 => (v.truncate 32).signExtend 64
  | 5 => (v.truncate 32).zeroExtend 64
  | _ => v

/-- The value the force table has in effect for a point (R550). -/
def forcedValue (s : State) (i : Nat) : Option (BitVec 64) :=
  s.dbg.forces.findSome? (fun f => match f.active with
    | some (p, v) => if p = i then some v else none
    | none => none)

/-- The value last committed or sampled is kept beside a force (R550). -/
def noteUnder (i : Nat) (v : BitVec 64) (q : Byte) (s : State) : State :=
  { s with dbg := { s.dbg with
    forces := s.dbg.forces.map (fun f => if f.active.elim false (fun p => p.1 = i) then { f with under := v, underQ := q } else f) } }

/-- Writes an entry: CHANGED compares with the previous version (R146). -/
def putEntry (i : Nat) (e : Entry) (s : State) : State :=
  let p := entryOf s.dvt.latest i
  { s with dvt := { s.dvt with
    image := tset s.dvt.image i { e with changed := decide (e.value ≠ p.value ∨ e.quality ≠ p.quality) } } }

/-- The quality a writer gives with FORCED as the force table has it (R17, R147). -/
def withForced (s : State) (i : Nat) (q : Byte) : Byte :=
  if (forcedValue s i).isSome then q ||| 0x04 else q &&& 0xFB

/-- The commit writes a point on behalf of a task slot or loop slot (R147). -/
def commitPoint (i : Nat) (v : BitVec 64) (q : Byte) (tick : Nat) (s : State) : State :=
  let e := entryOf s.dvt.image i
  let v := normalise e.typ v
  putEntry i { e with value := (forcedValue s i).getD v, quality := withForced s i q, init := false, tick := tick % 2 ^ 32 }
    (noteUnder i v q s)

/-- A sequencer writes an input entry (R20, R28). -/
def writeInput (i : Nat) (v : BitVec 64) (q : Byte) (tick : Nat) (s : State) : State :=
  let e := entryOf s.dvt.image i
  let v := normalise e.typ v
  putEntry i { e with
    value := (forcedValue s i).getD v, quality := withForced s i q, init := false, skipped := false, tick := tick % 2 ^ 32 }
    (noteUnder i v q s)

/-- What a force entry asks for: a declared point and its normalised value (R550). -/
def forceWanted (s : State) (f : Force) : Option (Nat × BitVec 64) :=
  let i := f.pt % 2 ^ 14
  if f.pt.testBit 31 && (tget s.dvt.image i).isSome then
    some (i, normalise (entryOf s.dvt.image i).typ (BitVec.ofNat 64 f.value))
  else none

/-- The value and quality last committed or sampled of a point: beside the force in effect, or its entry itself (R550). -/
def underForce (s : State) (i : Nat) : BitVec 64 × Byte :=
  (s.dbg.forces.findSome? (fun f => match f.active with
    | some (p, _) => if p = i then some (f.under, f.underQ) else none
    | none => none)).getD ((entryOf s.dvt.image i).value, (entryOf s.dvt.image i).quality)

/-- A force entry at the output instant: what it asks for is in effect, beside the value last committed or sampled
(R550). -/
def takeForce (s : State) (f : Force) : Force :=
  match forceWanted s f with
  | some (i, v) => { f with active := some (i, v), under := (underForce s i).1, underQ := (underForce s i).2 &&& 0xFB }
  | none => { f with active := none }

/-- A point as the force table has it from this output instant on, `s` being the state before it: the forced value, or
what a cleared entry restores (R550). -/
def showForce (s : State) (t : State) (i : Nat) : State :=
  let e := entryOf t.dvt.image i
  match forcedValue t i with
  | some v => putEntry i { e with value := v, quality := e.quality ||| 0x04 } t
  | none => putEntry i { e with value := (underForce s i).1, quality := (underForce s i).2 &&& 0xFB } t

/-- Points under a force. -/
def forcedPoints (d : Dbg) : List Nat := d.forces.filterMap (fun f => f.active.map (·.1))

/-- The force table at the output instant: each point whose force changes shows it (R550). -/
def applyForces (s : State) : State :=
  let t := { s with dbg := { s.dbg with forces := s.dbg.forces.map (takeForce s) } }
  ((forcedPoints s.dbg ++ forcedPoints t.dbg).filter (fun i => forcedValue s i ≠ forcedValue t i)).foldl (showForce s) t

/-- Version k starts as version k − 1 with CHANGED 0 (R148). -/
def openVersion (s : State) : State :=
  { s with dvt := { s.dvt with
    image := s.dvt.latest.map (fun p => (p.1, { p.2 with changed := false })), applied := [], delivered := [], stream := [] } }

/-- WRITER_SKIPPED of every point a task slot owns (R153). -/
def setSkipped (n : Nat) (b : Bool) (s : State) : State :=
  let own := (ownedBy s.drw.image n).map ptIndex
  { s with dvt := { s.dvt with image := s.dvt.image.map (fun p => if own.contains p.1 then (p.1, { p.2 with skipped := b }) else p) } }

/-! ### Digests (R171, R172) -/

/-- The byte stream of a write set's digest (R171). `typ` gives a point's TYPE. -/
def wsStream (typ : Nat → Nat) (slot catchTn : Nat) (w : WriteSet) : List Byte :=
  [b8 slot] ++ leBytes 8 catchTn ++
  w.points.flatMap (fun p => [1] ++ leBytes 2 p.1 ++ leBytes 8 (normalise (typ p.1) p.2.1).toNat ++ [p.2.2 &&& 0xFB]) ++
  w.retained.flatMap (fun p => [2] ++ leBytes 4 p.1 ++ leBytes 8 p.2.toNat) ++
  w.msgs.flatMap (fun m => [3, b8 m.dest] ++ leBytes 2 m.payload.length ++ m.payload) ++
  (if w.grpUsed then
    [5, b8 (if w.grp = .committed then (if w.grpOver then 4 else 1) else w.grpLast)] ++
      (if w.grp = .committed && !w.grpOver then w.staged.flatMap (fun p => leBytes 4 p.1 ++ leBytes 4 p.2.toNat) else [])
   else [])

/-- TYPE of a point index. -/
def pointType (s : State) (i : Nat) : Nat := (pointRec s.drw.image i).elim 0 ptType

/-- Digest of a stroke copy's write set (R171). -/
def wsDigest (s : State) (slot catchTn : Nat) (w : WriteSet) : BitVec 64 :=
  digest64 (wsStream (pointType s) slot catchTn w)

/-- Adds bytes to the stream of the edge digest. -/
def addStream (l : List Byte) (s : State) : State := { s with dvt := { s.dvt with stream := s.dvt.stream ++ l } }

/-! ### Messages (R160, R161) -/

/-- Delivers one message at its sender's position, or drops it when the inbox holds 32 (R161). SEQ counts per pair,
whether delivered or dropped (R160). -/
def deliver (tn : Nat) (s : State) (m : Msg) : State :=
  let seq := tnum (task s m.sender).seqs m.dest
  let s := modTask m.sender (fun t => { t with seqs := tset t.seqs m.dest ((seq + 1) % 65536) }) s
  let m := { m with seq := seq, tn := tn }
  if (task s m.dest).inbox.length < 32 then
    let s := modTask m.dest (fun t => { t with inbox := t.inbox ++ [m] }) s
    jAdd [.message m false] { s with dvt := { s.dvt with delivered := s.dvt.delivered ++ [(m.dest, m.sender)] } }
  else
    let s := modTask m.dest (fun t => { t with drops := sat 16 t.drops 1 }) s
    let s := { s with dvt := { s.dvt with msgDrops := sat 32 s.dvt.msgDrops 1 } }
    dvtFault 7 m.sender (m.dest * 256 + m.sender) 0 (jAdd [.message m true] s)

/-! ### Retained words (R132) -/

/-- A retained word goes to the slot's MRAM window. -/
def writeRetained (slot : Nat) (s : State) (p : Nat × BitVec 64) : State :=
  match retAddr (retWins s.drw.image slot) p.1 with
  | some a => { s with mem := Memory.writeN s.mem a (leBytes 8 p.2.toNat) }
  | none => s

/-! ### Staged groups (R165, R166) -/

/-- A committed group joins the writes that take effect at the output instant. A register that another group of this
edge writes too is recorded with both slots, once per pair (R166); two groups of one slot, a settled one and its
successor, give no record (DESIGN CHOICE, log entry 26). -/
def applyGroup (slot : Nat) (w : WriteSet) (s : State) : State :=
  if w.grpUsed && w.grp = .committed then
    if w.grpOver then modTask slot (fun t => { t with grpLast := 4 }) s
    else
      let others := (s.dvt.applied.filter (fun p => p.2.2 ≠ slot && w.staged.any (fun q => q.1 = p.1))).map (·.2.2)
      let s := others.eraseDups.foldl (fun (s : State) o =>
        raise {
          code := 0x3009, block := 0x03, unit := slot, drawer := taskDrawer s slot,
          detail := o * 2 ^ 24 + slot * 2 ^ 16 } s) s
      modTask slot (fun t => { t with grpLast := 1 })
        { s with dvt := { s.dvt with applied := s.dvt.applied ++ w.staged.map (fun p => (p.1, p.2, slot)) } }
  else s

/-! ### Releases (R112, R124 to R128, R153, R173) -/

/-- Messages taken leave the inbox; those that a successor still sees keep their places in its view (R158, R198). -/
def takeMessages (taken : Nat) (t : Task) : Task := { t with
  inbox := t.inbox.drop taken
  stroke := t.stroke.map (fun k => { k with inboxSeen := k.inboxSeen - taken, inboxFrom := k.inboxFrom - taken }) }

/-- Applies a write set at its slot's position: points, retained words, the working copy, messages taken and sent, group,
digest, journal entries (R112, R150, R153, R180, R183). The messages taken leave the inbox before the slot's messages to
itself are delivered (DESIGN CHOICE, log entry 26). -/
def applyWs (slot catchTn tn : Nat) (w : WriteSet) (s : State) : State :=
  let d := wsDigest s slot catchTn w
  let s := setSkipped slot false s
  let s := w.points.foldl (fun (s : State) p => commitPoint p.1 p.2.1 p.2.2 catchTn s) s
  let s := w.retained.foldl (writeRetained slot) (commitState slot w.work s)
  let s := jAdd ([.wset slot d] ++ w.points.map (fun p => .point (p.2.2 &&& 0xFB).toNat p.1 (normalise (pointType s p.1) p.2.1))) s
  let s := modTask slot (fun t => { takeMessages w.taken t with digest := d, strokes := sat 32 t.strokes 1, lastKind := 0 }) s
  let s := w.msgs.foldl (deliver tn) s
  addStream ([0x10] ++ leBytes 8 d.toNat) (applyGroup slot w s)

/-- LAST_KIND of a skip (R140). -/
def lastKindCode (k : SkipKind) : Nat :=
  match k with | .overrun => 1 | .budget => 2 | .late => 3 | .takeover => 4 | .access => 6

/-- Event of a skip, 0 for none (R124 to R127). -/
def skipEvent (k : SkipKind) : Nat :=
  match k with | .overrun => 0x2001 | .budget => 0x2002 | .late => 0x2003 | .access => 0x2007 | .takeover => 0

/-- A skip at its position in the commit order (R124 to R128, R153): counted, journalled, WRITER_SKIPPED set, its
observations kept for the next stroke. -/
def skipTask (slot : Nat) (k : SkipKind) (flags catchTn : Nat) (s : State) : State :=
  let s := setSkipped slot true s
  let s := jAdd [.skip slot k flags 0] (addStream [0x11, b8 slot, b8 (skipCode k)] s)
  let s := modTask slot (fun t => { t with
    skips := sat 32 t.skips 1, skipSeen := true, lastKind := lastKindCode k,
    lates := if k = .late then sat 32 t.lates 1 else t.lates, lateSeen := t.lateSeen || decide (k = .late) }) s
  let s := { s with stk := { s.stk with
    skipTotal := sat 32 s.stk.skipTotal 1, lateTotal := if k = .late then sat 32 s.stk.lateTotal 1 else s.stk.lateTotal } }
  let s := if k = .overrun || k = .budget || k = .late then trigger 1 slot s else s
  if k = .takeover then s
  else raise {
    code := skipEvent k, block := 0x02, unit := slot, drawer := taskDrawer s slot,
    detail := slot * 2 ^ 24 + catchTn % 2 ^ 24 } s

/-- What a stroke's release comes to (R124 to R127, R173). -/
inductive Outcome where
  | commit (w : WriteSet)
  | skip (k : SkipKind)
  | settle
  deriving DecidableEq, Repr

/-- A copy returned in time. -/
def returned (x : Copy) : Bool := x.phase = .done && x.stop.isNone

/-- Classifies a release. An unpaired stroke commits when it returned, else skips by its stop, or as OVERRUN or LATE by
its deadline mode. The two copies of a pair must return equal digests (R173). -/
def classify (s : State) (slot : Nat) (k : Stroke) : Outcome :=
  let miss := if taskIsWork s slot && s.sys.mode ≠ .debug then SkipKind.late else SkipKind.overrun
  match k.copies with
  | [x] => if returned x then .commit x.ws else .skip (x.stop.getD miss)
  | xs =>
    match xs.filter returned with
    | [] => .skip ((xs.findSome? (·.stop)).getD miss)
    | [a, b] => if wsDigest s slot k.catchTn a.ws = wsDigest s slot k.catchTn b.ws then .commit a.ws else .settle
    | _ => .settle

/-- Cores that drove a stroke which ends here without having returned are freed (R124). -/
def freeCores (slot : Nat) (s : State) : State :=
  let s := releaseLocks slot none s
  { s with cores := s.cores.map (fun x => if x.driving = some slot then { x with driving := none } else x) }

/-- The task holds no stroke after its release: cyclic tasks catch at this edge, event tasks when observations are
pending (R113, R118, R130). A skipped stroke's observations stay pending, with RETRY (R128). -/
def afterRelease (slot e : Nat) (skipped : Bool) (s : State) : State :=
  modTask slot (fun t => { (if skipped then loseStroke t else t) with
    st := .armed, stroke := none, due := e, relReg := s.stk.tn % 2 ^ 32 }) (freeCores slot s)

/-- A settlement starts on a free seat, on the one that has joined the pair when a core was lost, or the stroke stays
unsettled (R173, R197, R199). -/
def startSettle (slot : Nat) (k : Stroke) (s : State) : State :=
  let s := trigger 4 slot (dvtFault 8 slot 0 0 s)
  let s := skipTask slot .takeover 0 k.catchTn s
  let e := s.stk.edges
  let t := task s slot
  let lost := k.copies.any (fun x => x.phase = .lost)
  let survivor := (k.copies.find? (fun x => x.phase ≠ .lost)).elim t.core (·.core)
  let seat := if lost then some (if t.core = survivor then t.pair else t.core) else pickSeat s.wke t.core
  match seat with
  | some c =>
    let x : Settle := { slot := slot, seat := c, relEdge := e, relTn := s.stk.tn, stroke := k, kept := lost }
    let s := { s with wke := { s.wke with settles := s.wke.settles ++ [x] } }
    if lost then s else takeSeat c .settling s
  | none =>
    let s := { s with wke := { s.wke with
      cUnsettled := sat 8 s.wke.cUnsettled 1, cur := s.wke.cur.map (fun x => match x with
        | .skip n kd f tn => if n = slot then .skip n kd 4 tn else .skip n kd f tn
        | x => x) } }
    raise { code := 0x4004, block := 0x04, unit := slot, drawer := taskDrawer s slot, detail := slot * 2 ^ 24 + 2 * 2 ^ 20 } s

/-- The shadow stroke of a live release (R501, R502): a miss when it has not returned or the live stroke does not
commit, after which the shadow's state is copied anew; a compared task's digest must equal the live one. -/
def shadowRelease (slot : Nat) (k : Stroke) (o : Outcome) (s : State) : State :=
  match k.copies.find? (·.shadow) with
  | none => s
  | some x =>
    match returned x, o with
    | true, .commit w =>
      let s := modUpd (fun u => { u with
        ran := if u.ran.contains slot then u.ran else u.ran ++ [slot],
        states := (tget u.states slot).elim u.states (fun m =>
          tset u.states slot (Memory.put m (x.ws.work ++ retainedBytes s slot x.ws.retained))) }) s
      if s.upd.compared.contains slot then
        let s := modUpd (fun u => { u with comparedN := sat 16 u.comparedN 1 }) s
        if wsDigest s slot k.catchTn x.ws = wsDigest s slot k.catchTn w then s else failShadow 1 slot s
      else s
    | _, _ => modUpd (fun u => { u with misses := sat 16 u.misses 1, states := tdel u.states slot }) s

/-- A stroke at its release: committed, skipped, or under settlement, which is a TAKEOVER skip at this edge: its
observations stay pending and its group is discarded, and a settled write set follows at edge u (R128, R166, R197,
R198). Of a pair that runs on one core a copy that returned is the only one: PAIR_DIGEST as R173 has it, and no
settlement (R199). -/
def releaseStroke (slot : Nat) (k : Stroke) (s : State) : State :=
  let e := s.stk.edges
  let all := k
  let k := { k with copies := k.copies.filter (fun x => !x.shadow) }
  let s := shadowRelease slot all (if s.wke.alone.contains slot then .settle else classify s slot k) s
  if s.wke.alone.contains slot then
    let s := if k.copies.any returned then trigger 4 slot (dvtFault 8 slot 0 0 s) else s
    let s := skipTask slot .takeover 4 k.catchTn s
    let s := { s with wke := { s.wke with cUnsettled := sat 8 s.wke.cUnsettled 1 } }
    let s := raise {
      code := 0x4004, block := 0x04, unit := slot, drawer := taskDrawer s slot, detail := slot * 2 ^ 24 + 2 * 2 ^ 20 } s
    afterRelease slot e true s
  else
    match classify s slot k with
    | .commit w => afterRelease slot e false (applyWs slot k.catchTn s.stk.tn w s)
    | .skip kd => afterRelease slot e true (skipTask slot kd (if kd = .late then 1 else 0) k.catchTn s)
    | .settle => afterRelease slot e true (startSettle slot k s)

/-- The settled write set of a slot applied at edge u, before any write set of the same task (R197). -/
def applySettled (slot : Nat) (s : State) : State :=
  (s.wke.settles.filter (fun x => decide (x.slot = slot))).foldl (fun (s : State) x =>
    match x.won with
    | some w =>
      let s := applyWs slot x.stroke.catchTn s.stk.tn w s
      let s := patchJournal x.relEdge slot 2 s.stk.tn s
      { s with wke := { s.wke with
        settles := s.wke.settles.filter (fun y => y.slot ≠ slot || y.relEdge ≠ x.relEdge),
        cSettled := sat 8 s.wke.cSettled 1 } }
    | none => s) s

/-- Everything a task slot does in the commit of this edge, at its position. Each release of a task in REPLAY is a TAKEOVER
skip, on the schedule of its last catch, HOLD or not (R191). -/
def commitSlot (s : State) (slot : Nat) : State :=
  let s := applySettled slot s
  let t := task s slot
  match t.st, t.stroke with
  | .live, some k => if k.relEdge = s.stk.edges then releaseStroke slot k s else s
  | .replay, _ =>
    if t.replayRel = s.stk.edges ||
        (!taskIsEvent s slot && t.replayRel < s.stk.edges && (s.stk.edges - t.replayRel) % max 1 (taskPeriod s slot) = 0) then
      modTask slot (fun t => { t with relReg := s.stk.tn % 2 ^ 32 }) (skipTask slot .takeover 0 t.catchReg s)
    else s
  | _, _ => s

/-- The commit order of the task slots: priority descending, then slot ascending (R153). -/
def commitOrder (s : State) : List Nat := sortBy (fun a b => decide (taskPrio s a > taskPrio s b)) (declaredSlots s)

/-- Loop results due at the edge, after every task write set, by loop slot ascending (R153, R278). The digest takes VALUE as
the engine gives it, not a force's, and QUALITY without FORCED (R172 leaves both open: DESIGN CHOICE, log entry 26). -/
def commitLoops (s : State) : State :=
  (loopRecs s.drw.image).foldl (fun (s : State) r =>
    match tget s.lpe.slots (lpSlot r) with
    | some l =>
      match l.result with
      | some (o, q) =>
        if l.relEdge = s.stk.edges then
          let s := modLoop (lpSlot r) (fun l => { l with rel := l.dyn, result := none }) s
          if lpOut r = 0xFFFF then s
          else
            let v := BitVec.ofInt 64 o
            let s := commitPoint (lpOut r) v q l.catchTn s
            jAdd [.point (q &&& 0xFB).toNat (lpOut r) (normalise (pointType s (lpOut r)) v)]
              (addStream ([0x12] ++ leBytes 2 (lpSlot r) ++ leBytes 2 (lpOut r) ++
                leBytes 8 (normalise (pointType s (lpOut r)) v).toNat ++ [q &&& 0xFB]) s)
        else s
      | none => s
    | none => s) s

/-- The head of the edge record: EDGE_OPEN, the MARKs, the INPUT entries with CHANGED, JIG (R183). -/
def openRecord (free : Bool) (s : State) : State :=
  let inputs := (points s.drw.image).filter ptIsInput
  let ins := inputs.filterMap (fun r => match tget s.dvt.image (ptIndex r) with
    | some e => if e.changed then some (JEntry.input e.quality.toNat (ptIndex r) e.tick e.value) else none
    | none => none)
  let jig := jigFired s.jig
  let flags := bit free + 2 * bit (decide (s.stk.start = some s.stk.edges))
  { s with wke := { s.wke with
    cur := [.edgeOpen flags s.stk.tn (modeCode s.sys.mode)] ++ s.wke.marks.map (fun p => .mark p.1 p.2) ++ ins ++
      (if jig = 0 then [] else [.jig jig]),
    marks := [] } }

/-- The MARK 0x07 entries of a record that is not written, which the next record holds (R185, DEDUCED, log entry 8). -/
def keptMarks (l : List JEntry) : List (Nat × Nat) := l.filterMap (fun e => match e with
  | .mark k a => if k = 7 then some (k, a) else none
  | _ => none)

/-- The edge digest and the close of the record (R172, R182). -/
def closeRecord (s : State) : State :=
  let d := digest64 (leBytes 8 s.dvt.digest.toNat ++ leBytes 8 s.stk.tn ++ s.dvt.stream)
  let s := { s with dvt := { s.dvt with digest := d, edgeTn := s.stk.tn % 2 ^ 32, stream := [] } }
  let r : JRecord := { tn := s.stk.tn, edge := s.stk.edges, entries := closeEntries s.wke.cur d }
  if journals s then { s with wke := { s.wke with cur := [], buffer := s.wke.buffer ++ [r] } }
  else { s with wke := { s.wke with cur := [], marks := keptMarks s.wke.cur ++ s.wke.marks } }

/-- SEQ3 seals the version (R154). -/
def sealVersion (s : State) : State := { s with dvt := { s.dvt with latest := s.dvt.image } }

/-! ### Observations and catches (R116 to R119, R130) -/

/-- A trigger record fires at the version: `old` and `new` are versions j − 1 and j, `jig` the rules that fired,
`msgs` the deliveries (R116). -/
def fires (old new : Image) (jig : Nat) (msgs : List (Nat × Nat)) (slot : Nat) (r : Rec) : Bool :=
  let ref := f16 r 2
  let a := entryOf old ref
  let b := entryOf new ref
  match f8 r 0 with
  | 1 => match f8 r 1 with
    | 0 => a.value ≠ b.value || a.quality ≠ b.quality
    | 1 => a.value = 0 && b.value ≠ 0
    | _ => a.value ≠ 0 && b.value = 0
  | 2 => jig.testBit ref
  | 3 => msgs.any (fun p => p.1 = slot && (ref = 0xFFFF || p.2 = ref))
  | _ =>
    let arg := f32 r 4
    (b.value.toNat % 2 ^ 32 = arg && a.value.toNat % 2 ^ 32 ≠ arg) || (isGood a.quality && !isGood b.quality)

/-- The observations of an event task at this version are added to its pending count (R117, R118). -/
def observe (old : Image) (s : State) (slot : Nat) : State :=
  match taskRec s.drw.image slot with
  | some r =>
    if tkEvent r then
      let hits := (enum (triggersOf s.drw.image r)).filter (fun p => fires old s.dvt.image (jigFired s.jig) s.dvt.delivered slot p.2)
      if hits.isEmpty then s
      else modTask slot (fun t =>
        if t.st = .off || t.st = .stopped then t
        else { t with
          pend := min 65535 (t.pend + hits.length), sat := t.sat || decide (t.pend + hits.length > 65535),
          pendSrc := hits.foldl (fun m p => bset m p.1) t.pendSrc }) s
    else s
  | none => s

/-- The shadow of a task that catches holds its state, copied from the live committed one at the first catch and after a
miss (R500, R501). -/
def shadowState (slot : Nat) (s : State) : State :=
  if (tget s.upd.seats slot).isSome && (tget s.upd.states slot).isNone then
    modUpd (fun u => { u with states := tset u.states slot (committedCopy s slot) }) s
  else s

/-- A task catches the version of this edge (R112, R119, R130). RESTART on the first stroke after a restart is 1 cold, 2
warm, 3 hot, and 0 on every other: the spec gives its values no encoding (DESIGN CHOICE, log entry 30). -/
def catchTask (slot : Nat) (s : State) : State :=
  let e := s.stk.edges
  let per := taskPeriod s slot
  shadowState slot <| modTask slot (fun t =>
    let cs := if t.core = t.pair then [t.core] else [t.core, t.pair]
    let waits := s.wke.settles.any (fun x => x.slot = slot && x.won.isNone)
    let k : Stroke := {
      catchTn := s.stk.tn, catchEdge := e, relEdge := e + per, snap := s.dvt.latest, inboxSeen := t.inbox.length,
      triggers := t.pend, sources := t.pendSrc, retry := t.pendRetry,
      restart := if t.fresh then s.stk.rTaken + 1 else 0,
      copies := (cs.filter (fun c => !coreOut s c)).map (fun c => { core := c }) ++
        (if s.upd.phase = .shadow || s.upd.phase = .deferred then (tget s.upd.seats slot).toList else []).map
          (fun c => { core := c, shadow := true }),
      blocked := waits }
    { t with
      st := .live, stroke := some k, fresh := false, lastCatch := e, catchReg := s.stk.tn % 2 ^ 32,
      carried := min 32767 t.pend, pend := 0, pendSrc := 0, pendRetry := false }) s

/-- A task in REPLAY whose takeover is complete leaves it: a cyclic task at the first edge a whole number of periods
after its last catch, an event task at the first edge (R130). -/
def leaveReplay (s : State) (slot : Nat) : State :=
  let t := task s slot
  let e := s.stk.edges
  if t.st = .replay && !s.wke.takeovers.any (fun x => x.slots.contains slot) &&
      (taskIsEvent s slot || (e - t.lastCatch) % max 1 (taskPeriod s slot) = 0) then
    modTask slot (fun t => { t with st := .armed, due := e }) s
  else s

/-- The catches of an edge (R28, R112): tasks due, in slot order. -/
def catchDue (s : State) (slot : Nat) : State :=
  let t := task s slot
  if t.st = .armed then
    if taskIsEvent s slot then (if t.pend > 0 then catchTask slot s else s)
    else if t.due = s.stk.edges then catchTask slot s else s
  else s

end Sys2Proof.Machine
end

