-- ==== Sys2Proof/Machine/Rio.lean ====
section
/-! DEFINITION. Remote I/O: stations, release markers, replies, misses (R305 to R328). -/
namespace Sys2Proof.Machine

/-! ### REMOTE records (R305) -/

/-- REMOTE records of a form: 1 station, 2 item, 3 CAN medium. -/
def remotes (img : List Section) (form : Nat) : List Rec := (recs img 0x0C).filter (fun r => f8 r 0 = form)

/-- Key of a station: medium × 16 + station. -/
def staKey (m n : Nat) : Nat := m * 16 + n
/-- Key of a station or item record. -/
def rmKey (r : Rec) : Nat := staKey (f8 r 1) (f8 r 2)
/-- The station record of a key. -/
def stationRec (img : List Section) (k : Nat) : Option Rec := (remotes img 1).find? (fun r => rmKey r = k)
/-- CYCLE. -/
def stCycle (r : Rec) : Nat := f16 r 4
/-- PHASE. -/
def stPhase (r : Rec) : Nat := f16 r 6
/-- WDOG_MS. -/
def stWdog (r : Rec) : Nat := f16 r 8
/-- REPLY_TICKS. -/
def stReply (r : Rec) : Nat := f8 r 10
/-- OUT_COUNT. -/
def stOut (r : Rec) : Nat := f8 r 11
/-- IN_COUNT. -/
def stIn (r : Rec) : Nat := f8 r 12
/-- MISS_LIMIT. -/
def stLimit (r : Rec) : Nat := f8 r 13
/-- ID_BASE of a CAN medium. -/
def canBase (img : List Section) (m : Nat) : Nat := ((remotes img 3).find? (fun r => f8 r 1 = m)).elim 0 (fun r => f16 r 4)

/-- The items of a station in a direction: 0 input, 1 output, 2 status. -/
def itemsOf (img : List Section) (k dir : Nat) : List Rec := (remotes img 2).filter (fun r => rmKey r = k && f8 r 3 = dir)

/-- The point bound to an item record. -/
def itemPoint (img : List Section) (r : Rec) : Option Rec := boundTo img 5 (f16 r 4)

/-- Changes a declared station. -/
def modSta (k : Nat) (f : Station → Station) (s : State) : State :=
  match tget s.rio.sta k with
  | some x => { s with rio := { s.rio with sta := tset s.rio.sta k (f x) } }
  | none => s

/-- An RIO event of a station (R323). -/
def rioEvent (code k drawer detail : Nat) (s : State) : State :=
  raise { code := code, block := 0x09, unit := k, drawer := drawer, detail := k / 16 * 2 ^ 28 + k % 16 * 2 ^ 24 + detail } s

/-- Bits [31:16] of RIO_STAm_s_STATE: the status item (R318, R328). -/
def staStatus (x : Station) : Nat :=
  bit x.online * 2 ^ 15 + bit x.commLost * 2 ^ 14 + bit x.safeSeen * 2 ^ 13 + bit x.restartSeen * 2 ^ 12 +
    bit x.localFault * 2 ^ 11 + bit x.applied * 2 ^ 10 + bit x.lateSeen * 2 ^ 9 + x.missed

/-! ### Replies (R313, R314, R316) -/

/-- The version that a time stamp in ns of the time base gives, as an edge count (R31): the first edge after it. A stamp at
an edge belongs to the edge after. -/
def stampEdge (s : State) (stamp : Nat) : Nat := min ((((stamp : Int) - s.stk.baseNs) / 250000).toNat + 1) (s.stk.edges + 1)

/-- Time from the output instant of an edge to a time stamp, in µs (R325). -/
def sinceOutput (s : State) (edge stamp : Nat) : Nat :=
  (((stamp : Int) - (s.stk.baseNs + (edge * 250000 + 45000 : Nat))) / 1000).toNat

/-- Why a reply is not accepted: 1 late, 2 check failed, 3 duplicate; 0 accepted. `version` is the edge of its time
stamp, `ok` says its form is right, `seq` and `w` are its MARKER_SEQ and that field's width, `run` its RUN_ID when it
carries one. A CAN reply carries none: one that names no marker of this run that can still be answered is one to an
older marker or to the previous run, and late (R316, R319, DEDUCED, log entry 31). A reply stamped at or after the
deadline is late whatever it holds; of another one that fails its check no field is read (DEDUCED, log entry 31). -/
def replyReason (x : Station) (version replyTicks runId : Nat) (ok : Bool) (seq w : Nat) (run : Option Nat) : Nat :=
  if x.due.elim false (fun d => decide (version > d.edge + replyTicks)) then 1
  else if !ok then 2
  else if run.elim false (fun r => r ≠ runId) then 1
  else
    match x.due with
    | none => if run.isNone then 1 else 2
    | some d =>
      if seq ≠ d.seq % 2 ^ w then
        (if run.isNone || (d.seq + 2 ^ w - seq) % 2 ^ w ≤ 2 ^ (w - 1) then 1 else 2)
      else if d.answered then 3
      else 0

/-- An accepted reply: flags, entries for the version of its stamp or, once that one is closed, for the next (R31,
R585), the station's return (R316 to R318). -/
def acceptReply (k stamp status : Nat) (vals : List (Nat × Byte)) (r : Rec) (s : State) : State :=
  match tget s.rio.sta k with
  | none => s
  | some x =>
    let d := x.due.getD { edge := 0, tn := 0, seq := 0 }
    let dr := f8 r 3
    let dl := min (sinceOutput s d.edge stamp) 0xFFFF
    let s := modSta k (fun x => { x with
      online := true, commLost := false, missed := 0, lossCount := 0, ever := true,
      safeSeen := x.safeSeen || status.testBit 1, restartSeen := x.restartSeen || status.testBit 3,
      localFault := status.testBit 2, applied := status.testBit 0, last := d.seq, delay := dl,
      delayMax := max x.delayMax dl, due := some { d with answered := true }, got := some (vals, d.tn, max (stampEdge s stamp) (s.stk.edges + 1)) }) s
    let s := if x.commLost then rioEvent 0x9002 k dr (min x.lossCount 0xFFFF) s else s
    let s := if status.testBit 3 then rioEvent 0x9003 k dr 0 s else s
    if status.testBit 1 then rioEvent 0x9004 k dr 0 s else s

/-- A reply discarded: counted and recorded (R316, R323). -/
def discardReply (k reason : Nat) (r : Rec) (s : State) : State :=
  rioEvent 0x9005 k (f8 r 3) reason (modSta k (fun x =>
    if reason = 1 then { x with late := sat 16 x.late 1, lateSeen := true } else { x with failed := sat 16 x.failed 1 }) s)

/-- A T1S reply, its check and counts right (R313, R316). -/
def t1sOk (p : List Byte) (r : Rec) : Bool :=
  let n := stIn r
  let body := 12 + 4 * n + (n + 3) / 4 * 4
  f8 p 0 = 1 && f8 p 11 = n && p.length ≥ body + 4 && f32 p body = crc32c (p.take body)

/-- Values and masked quality bytes of a reply, values from an offset (R313). -/
def replyVals (p : List Byte) (off n : Nat) : List (Nat × Byte) :=
  (List.range n).map (fun i => (f32 p (off + 4 * i), p.getD (off + 4 * n + i) 0 &&& 0xB8))

/-- A reply frame as SEQ2 or SEQ3 takes it: `id` is the CAN identifier, unused on T1S; `stamp` its time stamp in ns of the
time base (R31, R315, R316). A reply of a station not declared is discarded with reason 0. -/
def replyFrame (m id : Nat) (p : List Byte) (stamp : Nat) (s : State) : State :=
  let n := if m < 8 then f8 p 3 else id - canBase s.drw.image m - 0x20
  let k := staKey m (n % 16)
  match if n < 16 then stationRec s.drw.image k else none with
  | none => rioEvent 0x9005 k 0 0 s
  | some r =>
    let x := (tget s.rio.sta k).getD {}
    if m < 8 then
      let why := replyReason x (stampEdge s stamp) (stReply r) s.rio.runId (t1sOk p r) (f32 p 4) 32 (some (f16 p 8))
      if why = 0 then acceptReply k stamp (f8 p 10) (replyVals p 12 (stIn r)) r s else discardReply k why r s
    else
      let why := replyReason x (stampEdge s stamp) (stReply r) s.rio.runId (decide (p.length ≥ 4 + 5 * stIn r)) (f16 p 0) 16 none
      if why = 0 then acceptReply k stamp (f8 p 2) (replyVals p 4 (stIn r)) r s else discardReply k why r s

/-- SEQ3 takes an identifier of its range on a medium; only a reply's has an effect (R314, R315). -/
def canReply (m id : Nat) (p : List Byte) (stamp : Nat) (s : State) : State :=
  let b := canBase s.drw.image m
  if b + 0x20 ≤ id && id ≤ b + 0x2F then replyFrame m id p stamp s else s

/-- A medium carries stations (R308). -/
def carries (s : State) (m : Nat) : Bool := s.rio.sta.any (fun p => p.1 / 16 = m)

/-- SEQ3 takes a frame with an identifier of the medium's range: counted, and a reply handled (R315, R347). -/
def seqTake (m id : Nat) (p : List Byte) (stamp : Nat) (s : State) : State :=
  canReply m id p stamp { s with can := lmod s.can (m - 8) (fun c => { c with seqRx := sat 16 c.seqRx 1 }) }

/-- The identifier is one that SEQ3 takes on the medium (R315, R336). -/
def seqTakes (s : State) (m id : Nat) : Bool :=
  carries s m && canBase s.drw.image m ≤ id && id ≤ canBase s.drw.image m + 0x2F

/-- `REPLY_RECEIVE`: a frame for SEQ2 or SEQ3 arrives on a medium, with its receive time stamp in ns of the time base (R31,
R315, R316). -/
def execReplyReceive (medium : Fin 12) (id : Nat) (payload : List Byte) (stamp : Nat) (s : State) :
    Host.Outcome State Fault Refusal :=
  let m := medium.val
  if m < 8 then
    (if f8 payload 1 = 2 then .next (replyFrame m 0 payload stamp s) else .next s)
  else if seqTakes s m id then .next (seqTake m id payload stamp s)
  else .next s

/-! ### Misses (R311, R317) -/

/-- A marker without an accepted reply at its deadline (R317). -/
def missStation (k : Nat) (r : Rec) (s : State) : State :=
  match tget s.rio.sta k with
  | none => s
  | some x =>
    let seq := x.due.elim 0 (·.seq)
    let missed := min 255 (x.missed + 1)
    let lose := !x.commLost && missed ≥ stLimit r
    let first := if x.lossCount = 0 then seq else x.firstMissed
    let s := modSta k (fun x => { x with
      missed := missed, misses := sat 32 x.misses 1, lossCount := x.lossCount + 1, firstMissed := first,
      commLost := x.commLost || lose, online := x.online && !lose,
      due := x.due.map (fun d => { d with closed := true }), staleDue := x.ever }) s
    let s := { s with rio := { s.rio with missTotal := sat 32 s.rio.missTotal 1 } }
    if lose then rioEvent 0x9001 k (f8 r 3) (first % 2 ^ 24) s else s

/-- The station's marker reaches its deadline at an edge, unanswered. -/
def missesAt (x : Station) (r : Rec) (e : Nat) : Bool :=
  x.due.elim false (fun d => !d.answered && !d.closed && d.edge + stReply r = e)

/-- Every deadline of an edge (R317). -/
def rioDeadlines (e : Nat) (s : State) : State :=
  (remotes s.drw.image 1).foldl (fun (s : State) r =>
    if missesAt ((tget s.rio.sta (rmKey r)).getD {}) r e then missStation (rmKey r) r s else s) s

/-- `REPLY_DEADLINE`: the deadline of a station's marker at the edge that falls next; no miss counts while FREEZE is 1
(R547). -/
def execReplyDeadline (medium : Fin 12) (station : Fin 16) (s : State) : Host.Outcome State Fault Refusal :=
  let k := staKey medium.val station.val
  match stationRec s.drw.image k with
  | some r => if missesAt ((tget s.rio.sta k).getD {}) r (s.stk.edges + 1) && !s.dbg.freeze then .next (missStation k r s) else .next s
  | none => .next s

/-- The frames of SEQ3 that wait and are not on the bus. -/
def unsent (c : Can) : List (Nat × List Byte) := if c.active = some 3 then c.waiting.drop 1 else c.waiting

/-- The frames of SEQ3 that remain when those that wait are abandoned: the one on the bus. -/
def keptSeq (c : Can) : List (Nat × List Byte) := if c.active = some 3 then c.waiting.take 1 else []

/-- A marker, or what is left of one, is abandoned: counted, event 0x9006 (R311, R334). -/
def abandonMarker (m : Nat) (s : State) : State :=
  raise { code := 0x9006, block := 0x09, unit := m * 16, detail := m * 2 ^ 28 + 0xFFFF }
    { s with rio := { s.rio with abandonTotal := sat 32 s.rio.abandonTotal 1 } }

/-- The marker of this edge has not begun: no cycle of the segment has carried it, or all its CAN frames wait (R311). -/
def notBegun (s : State) (m : Nat) (x : Medium) : Bool :=
  if m < 8 then (s.mac.getD m {}).cycleEdge ≠ some s.stk.edges else (unsent (s.can.getD (m - 8) {})).length = x.frames.length

/-- `MARKER_ABANDON`: the marker of this edge cannot start before the next one (R311); the stations due count their
miss at its deadline. A marker that has begun is not abandoned. -/
def execMarkerAbandon (medium : Fin 12) (s : State) : Host.Outcome State Fault Refusal :=
  let m := medium.val
  match tget s.rio.media m with
  | some x =>
    if x.flight = some s.stk.edges && notBegun s m x then
      .next (abandonMarker m { s with
        rio := { s.rio with media := tset s.rio.media m { x with flight := none, frames := [] } },
        can := if m < 8 then s.can else lmod s.can (m - 8) (fun c => { c with waiting := keptSeq c }) })
    else .next s
  | none => .next s

/-! ### Entries of the version (R316 to R318) -/

/-- The input items of an accepted reply are written, with the TN of the marker (R316). -/
def writeReply (k : Nat) (vals : List (Nat × Byte)) (tn : Nat) (s : State) : State :=
  (itemsOf s.drw.image k 0).foldl (fun (s : State) i =>
    match itemPoint s.drw.image i, vals[f8 i 6]? with
    | some p, some (v, q) => writeInput (ptIndex p) (BitVec.ofNat 64 v) q tn s
    | _, _ => s) s

/-- Every input item keeps value and tick and gets STALE; COMM_LOST and no GOOD while the station is lost (R317). -/
def writeStale (k : Nat) (lost : Bool) (s : State) : State :=
  (itemsOf s.drw.image k 0).foldl (fun (s : State) i =>
    match itemPoint s.drw.image i with
    | some p =>
      let e := entryOf s.dvt.image (ptIndex p)
      let q := e.quality ||| 0x40
      writeInput (ptIndex p) e.value (if lost then (q &&& 0x7F) ||| 0x02 else q) e.tick s
    | none => s) s

/-- The entries of one station at an edge; `first` says that the edge is s. -/
def stationInputs (first : Bool) (s : State) (r : Rec) : State :=
  let k := rmKey r
  match tget s.rio.sta k with
  | none => s
  | some x =>
    let s := if first then writeReply k (List.replicate (stIn r) (0, 0x02)) s.stk.tn s
      else match x.got.filter (fun g => g.2.2 ≤ s.stk.edges) with
        | some (vals, tn, _) => writeReply k vals tn s
        | none => if x.staleDue then writeStale k x.commLost s else s
    let st := staStatus x
    let s := if x.statusSeen = some st then s
      else (itemsOf s.drw.image k 2).foldl (fun (s : State) i => match itemPoint s.drw.image i with
        | some p => writeInput (ptIndex p) (BitVec.ofNat 64 st) 0x80 s.stk.tn s
        | none => s) s
    modSta k (fun x => { x with
      got := x.got.filter (fun g => g.2.2 > s.stk.edges), staleDue := false, statusSeen := some st }) s

/-- The remote entries of an edge (R31, R316 to R318). -/
def rioInputs (first : Bool) (s : State) : State := (remotes s.drw.image 1).foldl (stationInputs first) s

/-! ### Markers (R307, R308, R312, R314) -/

/-- A station is due at an edge: at the first one from edge s on whose TN is PHASE modulo CYCLE, and every CYCLE edges after
it (R307). -/
def isDue (s : State) (e : Nat) (r : Rec) : Bool :=
  ((tget s.rio.sta (rmKey r)).bind (·.dueFrom)).elim false (fun f => f ≤ e && (e - f) % max 1 (stCycle r) = 0)

/-- The mode sends markers (R308). -/
def marks (m : Mode) : Bool := match m with | .run | .degraded | .hold | .debug => true | _ => false

/-- What an output point drives: its committed value, in HOLD its hold value (R53). -/
def drivenValue (s : State) (p : Rec) : BitVec 64 :=
  let v := (entryOf s.dvt.image (ptIndex p)).value
  if s.sys.mode = .hold then (if ptHoldMode p = 1 then 0 else if ptHoldMode p = 2 then ptHold p else v) else v

/-- The value a marker carries for an output position (R53, R308). -/
def outWord (s : State) (k pos : Nat) : Nat :=
  match ((itemsOf s.drw.image k 1).find? (fun i => f8 i 6 = pos)).bind (itemPoint s.drw.image) with
  | none => 0
  | some p => (drivenValue s p).toNat % 2 ^ 32

/-- The output values of a station, by position. -/
def outWords (s : State) (r : Rec) : List Byte := (List.range (stOut r)).flatMap (fun i => leBytes 4 (outWord s (rmKey r) i))

/-- Payload of a T1S marker (R312). -/
def t1sMarker (s : State) (m seq : Nat) (due : List Rec) : List Byte :=
  let p := [1, 1, b8 m, b8 (modeCode s.sys.mode)] ++ leBytes 4 seq ++ leBytes 8 s.stk.tn ++ leBytes 2 s.rio.runId ++
    [b8 due.length, 0] ++ due.flatMap (fun r => [b8 (f8 r 2), b8 (stOut r)] ++ leBytes 2 (stWdog r) ++ outWords s r)
  p ++ leBytes 4 (crc32c p)

/-- Address entry 0 of a MAC as its FILTERS record gives it, 0 without one (R93). -/
def entryZero (img : List Section) (m : Nat) : List Byte :=
  ((filters img 2).find? (fun r => f8 r 1 = m && f8 r 2 = 0)).elim (List.replicate 6 0) (fun r => sub r 8 6)

/-- The frame of a T1S marker without its FCS: its header, and the payload padded to 46 bytes (R312). -/
def t1sFrame (s : State) (m seq : Nat) (due : List Rec) : List Byte :=
  let p := t1sMarker s m seq due
  [0x03, 0x4A, 0x46, 0, 0, b8 m] ++ entryZero s.drw.image m ++ [0x88, 0xB5] ++ p ++ List.replicate (46 - p.length) 0

/-- The next CAN FD length (R314). -/
def fdLen (n : Nat) : Nat :=
  if n ≤ 8 then n else if n ≤ 12 then 12 else if n ≤ 16 then 16 else if n ≤ 20 then 20 else if n ≤ 24 then 24
  else if n ≤ 32 then 32 else if n ≤ 48 then 48 else 64

/-- A data field padded to it. -/
def fdPad (l : List Byte) : List Byte := l ++ List.replicate (fdLen l.length - l.length) 0

/-- Output frames and sync of a CAN medium (R314). -/
def canMarker (s : State) (m seq : Nat) (due : List Rec) : List (Nat × List Byte) :=
  let b := canBase s.drw.image m
  due.map (fun r => (b + 0x10 + f8 r 2, fdPad (leBytes 2 seq ++ leBytes 2 (stWdog r) ++ outWords s r))) ++
    [(b, leBytes 4 seq ++ leBytes 2 s.rio.runId ++ [b8 (modeCode s.sys.mode), 0])]

/-- A T1S marker of the edge before that still waits after a collision is abandoned (R311, R366). -/
def dropMarker (m : Nat) (s : State) : State :=
  if m < 8 && ((s.mac.getD m {}).marker.elim false (fun t => !t.onLine)) then
    abandonMarker m { s with mac := lmod s.mac m (fun x => { x with marker := none }) }
  else s

/-- The marker of an edge on one medium; `delays` are start delays after the output instant (R308, R311). -/
def sendMarker (delays : List (Nat × Nat)) (s : State) (p : Nat × Medium) : State :=
  let m := p.1
  let x := p.2
  let s := dropMarker m s
  let e := s.stk.edges
  let due := (remotes s.drw.image 1).filter (fun r => f8 r 1 = m && isDue s e r)
  let dl := ((delays.find? (fun d => d.1 = m)).elim 0 (·.2))
  let frames := if m < 8 then [(m, t1sFrame s m x.seq due)] else canMarker s m x.seq due
  let s := { s with rio := { s.rio with media := tset s.rio.media m { x with
    seq := (x.seq + 1) % 2 ^ 32, last := x.seq, delay := min dl 0xFFFF, flight := some e, frames := frames } } }
  let s := due.foldl (fun (s : State) r =>
    modSta (rmKey r) (fun y => { y with due := some { edge := e, tn := s.stk.tn, seq := x.seq } }) s) s
  if dl > 100 then raise { code := 0x9006, block := 0x09, unit := m * 16, detail := m * 2 ^ 28 + min dl 0xFFFE } s else s

/-- The markers of the output instant, on each medium that carries stations (R308); none while ENABLE is 0 (R43). -/
def rioMarkers (delays : List (Nat × Nat)) (s : State) : State :=
  if marks s.sys.mode && s.enabled.contains .rio then
    (s.rio.media.filter (fun p => carries s p.1)).foldl (sendMarker delays) s
  else s

/-- Edges from the one whose tick count is `tn` to the next whose tick count is `o` modulo `p`. -/
def phaseWait (tn p o : Nat) : Nat := (o + p - tn % p) % p

/-- Edge s: the first edge at which a station is due (R307). -/
def armStation (s : State) (r : Rec) : State :=
  modSta (rmKey r) (fun x => { x with dueFrom := some (s.stk.edges + phaseWait s.stk.tn (max 1 (stCycle r)) (stPhase r)) }) s

/-- The block after a load (R305, R312): stations and media of the image, MARKER_SEQ 0, and a RUN_ID that differs
from the one before. `bound` is the computed air time of a medium; `drawn` the random word. -/
def rioLoad (bound : Nat → Nat) (drawn : Nat) (s : State) : State :=
  let rs := remotes s.drw.image 1
  let prev := s.rio.runId
  let run := if drawn % 2 ^ 16 = prev then (prev + 1) % 2 ^ 16 else drawn % 2 ^ 16
  { s with rio := {
      sta := rs.foldl (fun t r => tset t (rmKey r) {}) [],
      media := (remotes s.drw.image 3 ++ rs).foldl (fun t r => tset t (f8 r 1) { bound := bound (f8 r 1) }) [],
      runId := if rs.isEmpty then prev else run } }

end Sys2Proof.Machine
end

