-- ==== Sys2Proof/Machine/Can.lean ====
section
/-! DEFINITION. CAN FD channels: transmit buffers, receive queues, error counts, recovery (R329 to R355). -/
namespace Sys2Proof.Machine

/-- A channel. -/
def canOf (s : State) (n : Nat) : Can := s.can.getD n {}

/-- Changes one channel. -/
def modCan (n : Nat) (f : Can → Can) (s : State) : State := { s with can := lmod s.can n f }

/-- Changes one buffer of a channel. -/
def modBuf (n b : Nat) (f : CanBuf → CanBuf) (s : State) : State := modCan n (fun c => { c with bufs := lmod c.bufs b f }) s

/-- Changes one queue of a channel. -/
def modQueue (n q : Nat) (f : CanQueue → CanQueue) (s : State) : State :=
  modCan n (fun c => { c with queues := lmod c.queues q f }) s

/-- The NETWORK record of a channel (R330). -/
def canRec (img : List Section) (n : Nat) : Option Rec := (recs img 0x0A).find? (fun r => f8 r 0 = 1 && f8 r 1 = n)

/-- Owning drawer of a channel. -/
def canDrawer (s : State) (n : Nat) : Nat := (canRec s.drw.image n).elim 0 (fun r => f8 r 3)

/-- The channel runs: enabled (R344). -/
def canRuns (s : State) (n : Nat) : Bool := s.enabled.contains (.can n)

/-- FD_EN. -/
def canFd (c : Can) : Bool := c.opts.testBit 0
/-- TX_ORDER. -/
def canOrder (c : Can) : Bool := c.opts.testBit 1
/-- AUTO_RECOVER. -/
def canAuto (c : Can) : Bool := c.opts.testBit 2
/-- MONITOR. -/
def canMonitor (c : Can) : Bool := c.opts.testBit 3
/-- Qq_OVERWRITE. -/
def canOverwrite (c : Can) (q : Nat) : Bool := c.opts.testBit (5 + q)

/-- A CAN event: bits [31:30] of the detail are the channel (R345). -/
def canEvent (code n detail : Nat) (s : State) : State :=
  raise { code := code, block := 0x0A, unit := n, drawer := canDrawer s n, detail := n * 2 ^ 30 + detail % 2 ^ 30 } s

/-- Sets a sticky flag (R352). -/
def canFlag (n i : Nat) (s : State) : State := modCan n (fun c => { c with flags := bset c.flags i }) s

/-! ### Sending (R333 to R335) -/

/-- Data bytes of a length code (R355). -/
def dlcLen (fdf : Bool) (d : Nat) : Nat :=
  if d ≤ 8 then d else if !fdf then 8
  else match d with | 9 => 12 | 10 => 16 | 11 => 20 | 12 => 24 | 13 => 32 | 14 => 48 | _ => 64

/-- A request that R335 refuses: FDF with RTR, FDF without FD_EN, BRS without FDF. -/
def txRefused (c : Can) (b : CanBuf) : Bool :=
  let fdf := b.ctrl.testBit 14
  (fdf && b.ctrl.testBit 12) || (fdf && !canFd c) || (b.ctrl.testBit 13 && !fdf)

/-- A buffer waits or is on the bus. -/
def txBusy (b : CanBuf) : Bool := b.st = .pending || b.st = .active

/-- Bit `b` of CANn_TXREQ is written 1 (R335). -/
def requestBuf (n : Nat) (s : State) (b : Nat) : State :=
  let c := canOf s n
  let x := c.bufs.getD b {}
  if txBusy x then s
  else if txRefused c x then canEvent 0xA008 n b (canFlag n 2 (modBuf n b (fun x => { x with st := .refused }) s))
  else modBuf n b (fun x => { x with st := .pending, cancel := false }) s

/-- Bit `b` of CANn_TXCANCEL is written 1 (R335). -/
def cancelBuf (n : Nat) (s : State) (b : Nat) : State :=
  modBuf n b (fun x => match x.st with
    | .pending => { x with st := .cancelled }
    | .active => { x with cancel := true }
    | _ => x) s

/-- A write to CANn_TXREQ. -/
def requestBufs (n v : Nat) (s : State) : State := if canRuns s n then (bitsOf v 3).foldl (requestBuf n) s else s

/-- A write to CANn_TXCANCEL. -/
def cancelBufs (n v : Nat) (s : State) : State := if canRuns s n then (bitsOf v 3).foldl (cancelBuf n) s else s

/-- `CAN_TX_REQUEST`. -/
def execCanTxRequest (channel : Fin 4) (bufs : Nat) (s : State) : Host.Outcome State Fault Refusal :=
  .next (requestBufs channel.val bufs s)

/-- `CAN_TX_CANCEL`. -/
def execCanTxCancel (channel : Fin 4) (bufs : Nat) (s : State) : Host.Outcome State Fault Refusal :=
  .next (cancelBufs channel.val bufs s)

/-- A write to a buffer's identifier, control or data is ignored with TX_BUSY while it waits or is on the bus (R333). -/
def writeBuf (n b : Nat) (f : CanBuf → CanBuf) (s : State) : State :=
  if txBusy ((canOf s n).bufs.getD b {}) then canFlag n 3 s else modBuf n b f s

/-- 64 data bytes with a frame's bytes first. -/
def padData (l : List Byte) : List Byte := (l ++ List.replicate 64 0).take 64

/-- Address of a channel's registers (R40). -/
def canAddr (n : Nat) : Nat := 0x10090000 + n * 0x1000

/-- `CAN_SEND`: the service writes a buffer and requests it. -/
def execCanSend (core : Fin 16) (channel : Fin 4) (buffer : Fin 3) (id ctrl : Nat) (data : List Byte) (s : State) :
    Host.Outcome State Fault Refusal :=
  let n := channel.val
  let b := buffer.val
  .next (service core.val (8 + n) 0x0A (canAddr n + 0x200 + b * 0x80) (fun s =>
    if canRuns s n then
      requestBuf n (writeBuf n b (fun x => { x with id := id % 2 ^ 30, ctrl := ctrl % 2 ^ 32 &&& 0xF00F, data := padData data }) s) b
    else s) s)

/-! ### Arbitration and the end of an attempt (R334, R341, R342) -/

/-- The 32 bits that arbitration compares, lowest wins: base identifier, then RTR or SRR, IDE, the identifier's
extension and RTR of an extended frame (ISO 11898-1). -/
def arbKey (b : CanBuf) : Nat :=
  let ide := b.id.testBit 29
  let rtr := bit (b.ctrl.testBit 12)
  let base := fld b.id 18 11
  if ide then base * 2 ^ 21 + 2 ^ 20 + 2 ^ 19 + fld b.id 0 18 * 2 + rtr else base * 2 ^ 21 + rtr * 2 ^ 20

/-- The PENDING buffer the controller sends next (R334). -/
def nextBuf (c : Can) : Option Nat :=
  let ps := (List.range 3).filter (fun b => (c.bufs.getD b {}).st = .pending)
  if canOrder c then ps.head?
  else (sortBy (fun a b => decide (arbKey (c.bufs.getD a {}) < arbKey (c.bufs.getD b {}))) ps).head?

/-- Error passive (R341). -/
def canPassive (c : Can) : Bool := c.tec > 127 || c.rec_ > 127

/-- The frame of a buffer as the controller sends it: ESI of an FD frame is its own error state (R329, R355). -/
def bufFrame (c : Can) (b : CanBuf) : CanFrame :=
  let fdf := b.ctrl.testBit 14
  { ide := b.id.testBit 29, id := if b.id.testBit 29 then b.id % 2 ^ 29 else b.id % 2 ^ 29 / 2 ^ 18 * 2 ^ 18, fdf := fdf,
    brs := b.ctrl.testBit 13, esi := fdf && canPassive c, rtr := b.ctrl.testBit 12, dlc := b.ctrl % 16,
    data := b.data.take (if b.ctrl.testBit 12 then 0 else dlcLen fdf (b.ctrl % 16)) }

/-- The length code of a CAN FD data field (R355). -/
def fdCode (n : Nat) : Nat := ((List.range 16).find? (fun d => n ≤ dlcLen true d)).getD 15

/-- A frame of SEQ3 as the controller sends it: CAN FD with bit rate switching and a base identifier (R310, R329). -/
def seqFrame (c : Can) (p : Nat × List Byte) : CanFrame :=
  { ide := false, id := p.1 * 2 ^ 18, fdf := true, brs := true, esi := canPassive c, rtr := false, dlc := fdCode p.2.length, data := p.2 }

/-- TDC_EN. -/
def canTdc (c : Can) : Bool := c.opts.testBit 4

/-- A frame starts. One with bit rate switching measures the loop delay where TDC_EN is 1: the spec gives no value of the
delay, a free value (R329, R347, log entry 7). -/
def canBegin (n b : Nat) (f : CanFrame) (s : State) : State :=
  let s := modCan n (fun c => { c with active := some b, onBus := some f }) s
  if f.brs && canTdc (canOf s n) then
    { modCan n (fun c => { c with loopDelay := Config.freeValue s.fresh % 2 ^ 7 }) s with fresh := s.fresh + 1 }
  else s

/-- `CAN_TX_START`: the bus lets the channel start a frame (R334). -/
def execCanTxStart (channel : Fin 4) (s : State) : Host.Outcome State Fault Refusal :=
  let n := channel.val
  let c := canOf s n
  if !canRuns s n || c.busOff || c.integrating || canMonitor c || c.active.isSome then .next s
  else
    match c.waiting with
    | p :: _ => .next (canBegin n 3 (seqFrame c p) s)
    | [] => match nextBuf c with
      | some b => .next (canBegin n b (bufFrame c (c.bufs.getD b {})) (modBuf n b (fun x => { x with st := .active }) s))
      | none => .next s

/-- The buffer of a failed attempt (R334, R335). -/
def failBuf (x : CanBuf) : CanBuf :=
  { x with st := if x.cancel then .cancelled else if x.ctrl.testBit 15 then .failed else .pending, cancel := false }

/-- The attempt on the bus ends without success: a buffer goes back or is final; a frame of SEQ3 stays first in line,
one that began before the latest edge is abandoned, its marker counted once (R311, R334). -/
def failActive (n : Nat) (s : State) : State :=
  let c := canOf s n
  match c.active with
  | some b =>
    let s := modCan n (fun c => { c with
      active := none, onBus := none, old := false, dropped := false,
      waiting := if b = 3 && c.old then c.waiting.drop 1 else c.waiting }) s
    if b < 3 then modBuf n b failBuf s else if c.old && !c.dropped then abandonMarker (8 + n) s else s
  | none => s

/-- `CAN_ARBITRATION_LOST` (R334). -/
def execCanArbitrationLost (channel : Fin 4) (s : State) : Host.Outcome State Fault Refusal :=
  if (canOf s channel.val).active.isNone then .next s
  else .next (modCan channel.val (fun c => { c with ackRun := 0 }) (failActive channel.val s))

/-- Detail of 0xA001 and 0xA002 (R345). -/
def errDetail (c : Can) : Nat := min c.tec 255 * 2 ^ 16 + bit (decide (c.rec_ > 127)) * 2 ^ 15 + min c.rec_ 127 * 2 ^ 8

/-- The events and flags of a change of the error counts, and bus-off (R341). `old` is the channel before. One change
can enter error passive and go on to bus-off. -/
def errorState (n : Nat) (old : Can) (s : State) : State :=
  let c := canOf s n
  let s := if canPassive c && !canPassive old then canEvent 0xA001 n (errDetail c) (canFlag n 4 s) else s
  if c.tec > 255 && !c.busOff then
    let s := modCan n (fun c => { c with busOff := true, recovering := canAuto c }) (failActive n s)
    canEvent 0xA003 n c.lastErr (canFlag n 5 s)
  else if !canPassive c && canPassive old then canEvent 0xA002 n (errDetail c) s
  else s

/-- An error is noted as LEC or DLEC. -/
def noteErr (e : CanError) (c : Can) : Can :=
  if e.dataPhase then { c with dlec := e.code % 8, lastErr := e.code % 8 } else { c with lec := e.code % 8, lastErr := e.code % 8 }

/-- The counts after a failed attempt: TEC rises by 8, but for an acknowledge error of an error-passive node that sees
no dominant bit in its passive flag and a stuff error within arbitration, as `exempt` says; and by 8 more for each further
increment of ISO 11898-1, `more` of them (R341). -/
def txErrCount (e : CanError) (c : Can) : Can :=
  let first := if e.exempt && ((e.code = 3 && canPassive c) || e.code = 1) then 0 else 8
  { c with tec := c.tec + first + 8 * e.more }

/-- The run of acknowledge errors: ALONE after 16 (R342). -/
def ackError (n b : Nat) (s : State) : State :=
  let s := modCan n (fun c => { c with ackRun := c.ackRun + 1 }) s
  let c := canOf s n
  if c.ackRun ≥ 16 && !c.alone then
    canEvent 0xA005 n b (canFlag n 6 (modCan n (fun c => { c with alone := true }) s))
  else s

/-- The frame on the bus was sent and acknowledged (R333, R340, R341). -/
def txDone (n b stamp : Nat) (s : State) : State :=
  let old := canOf s n
  let s := modCan n (fun c => { c with
    active := none, onBus := none, old := false, dropped := false, tec := c.tec - 1, alone := false, ackRun := 0, lec := 0,
    txCount := if b < 3 then sat 32 c.txCount 1 else c.txCount,
    seqTx := if b < 3 then c.seqTx else sat 16 c.seqTx 1,
    waiting := if b < 3 then c.waiting else c.waiting.drop 1 }) s
  errorState n old (if b < 3 then modBuf n b (fun x => { x with st := .sent, cancel := false, ts := stamp % 2 ^ 64 }) s else s)

/-- `CAN_TX_END`: a frame or its error frame ends (R333). -/
def execCanTxEnd (channel : Fin 4) (error : Option CanError) (stamp : Nat) (s : State) : Host.Outcome State Fault Refusal :=
  let n := channel.val
  match (canOf s n).active with
  | none => .next s
  | some b =>
    match error with
    | none => .next (txDone n b stamp s)
    | some e =>
      let old := canOf s n
      let s := modCan n (fun c => txErrCount e (noteErr e { c with ackRun := if e.code = 3 then c.ackRun else 0 })) (failActive n s)
      let s := if e.code = 3 then ackError n b s else s
      .next (errorState n old s)

/-- The counts after an error outside a frame of the channel's own: REC rises by 1, by 8 when `heavy`, and by 8 for each
further increment; an error in an overload flag that follows the channel's own frame (`own`) raises TEC by 8 and so on
(R341, ISO 11898-1). -/
def rxErrCount (e : CanError) (heavy : Bool) (c : Can) : Can :=
  if e.own then { c with tec := c.tec + 8 + 8 * e.more } else { c with rec_ := min 255 (c.rec_ + (if heavy then 8 else 1) + 8 * e.more) }

/-- `CAN_RX_ERROR`: the channel detects an error in a frame of another node, or in an overload flag (R341). -/
def execCanRxError (channel : Fin 4) (error : CanError) (heavy : Bool) (s : State) : Host.Outcome State Fault Refusal :=
  let n := channel.val
  let c := canOf s n
  if !canRuns s n || c.busOff || c.integrating then .next s
  else
    .next (errorState n c (modCan n (fun c => noteErr error (rxErrCount error heavy c)) s))

/-- A write to CANn_RECOVER (R347). -/
def recoverWrite (n v : Nat) (s : State) : State :=
  let c := canOf s n
  if fld v 16 16 ≠ 0x4A42 then raiseIgnored 0x0A (canAddr n + 0x20) s
  else if v.testBit 0 && c.busOff && !canAuto c then modCan n (fun c => { c with recovering := true }) s
  else s

/-- `CAN_RECOVER`. -/
def execCanRecover (channel : Fin 4) (v : Nat) (s : State) : Host.Outcome State Fault Refusal :=
  .next (recoverWrite channel.val v s)

/-- `CAN_BUS_OFF_LEFT`: 128 occurrences of 11 recessive bits have been seen (R341). -/
def execCanBusOffLeft (channel : Fin 4) (s : State) : Host.Outcome State Fault Refusal :=
  let n := channel.val
  let c := canOf s n
  if c.busOff && c.recovering then
    .next (canEvent 0xA004 n (bit (canAuto c))
      (modCan n (fun c => { c with busOff := false, recovering := false, tec := 0, rec_ := 0, ackRun := 0 }) s))
  else .next s

/-- `BUS_INTEGRATION_DONE`: 11 consecutive recessive bits have been seen (R344). -/
def execBusIntegrationDone (channel : Fin 4) (s : State) : Host.Outcome State Fault Refusal :=
  if canRuns s channel.val then .next (modCan channel.val (fun c => { c with integrating := false }) s) else .next s

/-- `CAN_PROTOCOL_EXCEPTION`: FDF recessive while FD_EN is 0 (R341). -/
def execCanProtocolException (channel : Fin 4) (s : State) : Host.Outcome State Fault Refusal :=
  let n := channel.val
  let c := canOf s n
  if !canRuns s n || canFd c || c.busOff || c.integrating then .next s
  else
    let s := canFlag n 0 (modCan n (fun c => { c with pxe := sat 32 c.pxe 1, integrating := true }) s)
    .next (canEvent 0xA009 n ((canOf s n).pxe % 2 ^ 16) s)

/-! ### Receiving (R336 to R340, R343) -/

/-- FILTERS pairs of a channel by ascending pair number. -/
def canPairs (s : State) (n : Nat) : List Rec :=
  sortBy (fun a b => decide (f8 a 2 < f8 b 2)) ((filters s.drw.image 1).filter (fun r => f8 r 1 = n))

/-- A pair matches a frame (R336). -/
def pairMatches (f : CanFrame) (r : Rec) : Bool :=
  let m := if f.ide then f32 r 12 % 2 ^ 29 else f32 r 12 % 2 ^ 29 / 2 ^ 18 * 2 ^ 18
  let mt := f8 r 5
  ((f.id ^^^ f32 r 8) &&& m) = 0 && (!mt.testBit 2 || f.ide = mt.testBit 0) && (!mt.testBit 3 || f.fdf = mt.testBit 1)

/-- A frame is dropped for or from a queue (R339). -/
def queueDrop (n q : Nat) (s : State) : State :=
  let s := modQueue n q (fun x => { x with drops := sat 16 x.drops 1, loss := true }) s
  canEvent 0xA007 n (q * 2 ^ 29 + ((canOf s n).queues.getD q {}).drops) s

/-- An entry is written to the tail; the first after a drop carries AFTER_LOSS. -/
def queueAppend (n q : Nat) (e : CanEntry) (s : State) : State :=
  modCan n (fun c => { c with
    rxCount := sat 32 c.rxCount 1,
    queues := lmod c.queues q (fun x => { x with entries := x.entries ++ [{ e with afterLoss := x.loss }], loss := false }) }) s

/-- A frame dispatched to a queue (R339). -/
def queueFrame (n q : Nat) (e : CanEntry) (s : State) : State :=
  let x := (canOf s n).queues.getD q {}
  let full := canOverwrite (canOf s n) q
  if x.entries.length < 32 then queueAppend n q e s
  else if !x.locked then
    if full then
      queueAppend n q e (queueDrop n q (modQueue n q (fun x => { x with entries := x.entries.drop 1 }) s))
    else queueDrop n q s
  else if x.shadow.isNone then modQueue n q (fun x => { x with shadow := some e }) s
  else if full then modQueue n q (fun x => { x with shadow := some e }) (queueDrop n q s)
  else queueDrop n q s

/-- The identifier with IDE in bit 29 (R347). -/
def frameKey (f : CanFrame) : Nat := bit f.ide * 2 ^ 29 + (if f.ide then f.id else f.id / 2 ^ 18 * 2 ^ 18)

/-- The identifier of a buffer with the part a base frame carries. -/
def bufKey (b : CanBuf) : Nat := if b.id.testBit 29 then b.id else b.id / 2 ^ 18 * 2 ^ 18

/-- A received identifier that one of the channel's buffers holds (R343): recorded once per second and identifier. -/
def duplicateId (n : Nat) (f : CanFrame) (s : State) : State :=
  let c := canOf s n
  let k := frameKey f
  if c.bufs.any (fun b => bufKey b = k) then
    let s := canFlag n 7 (modCan n (fun c => { c with dupId := k }) s)
    if (tget c.dupTimes k).elim true (fun t => s.evr.opTime ≥ t + 1024) then
      canEvent 0xA006 n k (modCan n (fun c => { c with dupTimes := tset c.dupTimes k s.evr.opTime }) s)
    else s
  else s

/-- The counts after a frame received without error: REC falls by 1, and from above 127 to a value of 119 to 127 that
ISO 11898-1 leaves open. -/
def rxCountDown (free : Nat) (c : Can) : Can :=
  { c with rec_ := if c.rec_ > 127 then 119 + free % 9 else c.rec_ - 1, alone := false, ackRun := 0, lec := 0 }

/-- `CAN_FRAME_RECEIVE`: a frame of another node received without error, stamped in ns of the time base (R336). -/
def execCanFrameReceive (channel : Fin 4) (frame : CanFrame) (stamp : Nat) (s : State) : Host.Outcome State Fault Refusal :=
  let n := channel.val
  let c := canOf s n
  if !canRuns s n || c.busOff || c.integrating || (frame.fdf && !canFd c) then .next s
  else
    let s := { modCan n (rxCountDown (Config.freeValue s.fresh)) s with fresh := s.fresh + 1 }
    let s := duplicateId n frame (errorState n c s)
    let id := frame.id / 2 ^ 18
    if !frame.ide && seqTakes s (8 + n) id then .next (seqTake (8 + n) id frame.data stamp s)
    else
      match (canPairs s n).find? (pairMatches frame) with
      | some r =>
        if f8 r 4 < 2 then
          .next (queueFrame n (f8 r 4) { frame := frame, pair := f8 r 2, ts := stamp % 2 ^ 64, afterLoss := false } s)
        else .next s
      | none => .next s

/-- HEAD0 to HEAD19 of an entry (R337). -/
def headWords (e : CanEntry) : List Nat :=
  let f := e.frame
  let d := (padData (f.data.take (if f.rtr then 0 else dlcLen f.fdf f.dlc)))
  [2 ^ 31 + bit f.ide * 2 ^ 29 + f.id % 2 ^ 29,
   e.pair * 2 ^ 24 + bit f.fdf * 2 ^ 15 + bit f.brs * 2 ^ 14 + bit f.esi * 2 ^ 13 + bit f.rtr * 2 ^ 12 +
     bit e.afterLoss * 2 ^ 11 + f.dlc % 16,
   e.ts % 2 ^ 32, e.ts / 2 ^ 32] ++ (List.range 16).map (fun i => f32 d (4 * i))

/-- The head entry's words, all 0 when the queue is empty. -/
def queueHead (x : CanQueue) : List Nat := (x.entries.head?).elim (List.replicate 20 0) headWords

/-- A read of HEAD0 while VALID is 1 locks the head for the stroke copy of a task slot and a core, or for none (R338). -/
def queueLock (n q : Nat) (holder : Option (Nat × Nat)) (s : State) : State :=
  if !canRuns s n then s else modQueue n q (fun x => if x.entries.isEmpty || x.locked then x else { x with locked := true, holder := holder }) s

/-- ACTION 0b01: the locked head is removed, the shadow moves to the tail (R338, R339). A channel held in reset does nothing
(R344). -/
def queuePop (n q : Nat) (s : State) : State :=
  let x := (canOf s n).queues.getD q {}
  if !canRuns s n then s
  else if !x.locked then canFlag n 1 s
  else
    let s := modQueue n q (fun x => { x with entries := x.entries.drop 1, locked := false, holder := none, shadow := none }) s
    match x.shadow with
    | some e => queueAppend n q e s
    | none => s

/-- ACTION 0b10: the lock ends and the head stays (R338). -/
def queueRelease (n q : Nat) (s : State) : State :=
  if !canRuns s n then s
  else if !((canOf s n).queues.getD q {}).locked then canFlag n 1 s
  else modQueue n q (fun x => { x with locked := false, holder := none }) s

/-- Task slot and core of the stroke copy that a core drives. -/
def copyOf (s : State) (c : Nat) : Option (Nat × Nat) := (s.cores.getD c {}).driving.map (fun n => (n, c))

/-- `CAN_RXQ_LOCK`: a read of HEAD0, by a crew core or the service initiator. -/
def execCanRxqLock (channel : Fin 4) (queue : Fin 2) (by_ : Option (Fin 16)) (s : State) : Host.Outcome State Fault Refusal :=
  let n := channel.val
  let q := queue.val
  let holder := by_.bind (fun c => copyOf s c.val)
  .next { queueLock n q holder s with answer := .value ((queueHead ((canOf s n).queues.getD q {})).headD 0) }

/-- `CAN_RXQ_POP`. -/
def execCanRxqPop (channel : Fin 4) (queue : Fin 2) (s : State) : Host.Outcome State Fault Refusal :=
  .next (queuePop channel.val queue.val s)

/-- `CAN_RXQ_RELEASE`. -/
def execCanRxqRelease (channel : Fin 4) (queue : Fin 2) (s : State) : Host.Outcome State Fault Refusal :=
  .next (queueRelease channel.val queue.val s)

/-- `CAN_RECEIVE`: the service locks, reads and pops the head. -/
def execCanReceive (core : Fin 16) (channel : Fin 4) (queue : Fin 2) (s : State) : Host.Outcome State Fault Refusal :=
  let n := channel.val
  let q := queue.val
  .next (service core.val (8 + n) 0x0A (canAddr n + 0x100 + q * 0x80) (fun s =>
    let x := (canOf s n).queues.getD q {}
    if x.entries.isEmpty then { s with answer := .none }
    else { queuePop n q (queueLock n q (copyOf s core.val) s) with answer := .values (queueHead x) }) s)

/-- `CAN_ERR_READ`: a read of CANn_ERR returns it and sets LEC and DLEC to 0b111 (R351); 0 of an undeclared channel
(R346). -/
def execCanErrRead (channel : Fin 4) (s : State) : Host.Outcome State Fault Refusal :=
  let c := canOf s channel.val
  if !s.declared.contains (.can channel.val) then .next { s with answer := .value 0 }
  else .next { modCan channel.val (fun c => { c with lec := 7, dlec := 7 }) s with
    answer := .value (errDetail c + c.dlec * 2 ^ 4 + c.lec) }

/-! ### Load and the marker of an edge (R310, R330, R334, R344) -/

/-- A channel as a load leaves it: options, timing, bus integration begun (R344). -/
def canLoad (img : List Section) (n : Nat) (c : Can) : Can :=
  match canRec img n with
  | some r => { c with opts := f8 r 2, nbt := f32 r 4, dbt := f32 r 8, tdco := f8 r 0x0C, integrating := true }
  | none => c

/-- The frames of an edge's marker go to SEQ3 of each channel. Frames of the marker before that are not sent yet are
abandoned; one on the bus ends first, and is not retried (R311, R334). -/
def canMarkers (s : State) : State :=
  (List.range 4).foldl (fun (s : State) n =>
    match tget s.rio.media (8 + n) with
    | some x =>
      let cut := !(unsent (canOf s n)).isEmpty
      let s := if cut then abandonMarker (8 + n) s else s
      let new := if canRuns s n && x.flight = some s.stk.edges then x.frames else []
      modCan n (fun c => { c with waiting := keptSeq c ++ new, old := decide (c.active = some 3), dropped := decide (c.active = some 3) && cut }) s
    | none => s) s

end Sys2Proof.Machine
end

