-- ==== Sys2Proof/Machine/Cvu.lean ====
section
/-! DEFINITION. Check-value units: feeding, DMA jobs, the service (R447 to R458). -/
namespace Sys2Proof.Machine

/-- A unit. -/
def cvuOf (s : State) (n : Nat) : Cvu := s.cvu.getD n {}

/-- Changes one unit. -/
def modCvu (n : Nat) (f : Cvu → Cvu) (s : State) : State := { s with cvu := lmod s.cvu n f }

/-- The unit is enabled (R43, R46). -/
def cvuRuns (s : State) (n : Nat) : Bool := s.enabled.contains (.cvu n)

/-- The drawer that the image grants a unit to; none for a system unit (R449). -/
def cvuOwner (s : State) (n : Nat) : Option Nat :=
  (List.range 32).find? (fun d => grant s.drw.image d (25 + n) ≠ 0)

/-- Check of the bytes so far, after the final XOR (R448). -/
def cvuResult (u : Cvu) : Nat := u.run ^^^ (crcKind u.poly).xorOut

/-- Width of POLY in bytes. -/
def cvuWidth (p : Nat) : Nat := (crcKind p).width / 8

/-- The running value restarts (R451). -/
def cvuRestart (u : Cvu) : Cvu := { u with run := (crcKind u.poly).init, count := 0 }

/-- A write that a running job makes the unit ignore (R453). -/
def cvuWrite (n : Nat) (f : Cvu → Cvu) (s : State) : State :=
  if !cvuRuns s n then s else modCvu n (fun u => if u.busy then { u with busyWrite := true } else f u) s

/-- A write to CVUn_CFG (R451, R455). -/
def cvuCfg (v : Nat) (u : Cvu) : Cvu := cvuRestart { u with poly := v % 4, mode := fld v 4 2 }

/-- `CVU_CFG_WRITE`. -/
def execCvuCfgWrite (unit : Fin 6) (v : Nat) (s : State) : Host.Outcome State Fault Refusal :=
  .next (cvuWrite unit.val (cvuCfg v) s)

/-- Bytes fed in MODE 0b00; in another mode the write is ignored with BUSY_WRITE (R451, R453). -/
def cvuFeed (l : List Byte) (u : Cvu) : Cvu :=
  if u.mode = 0 then { u with run := crcFeed (crcKind u.poly) u.run l, count := sat 32 u.count l.length }
  else { u with busyWrite := true }

/-- `CVU_DATA8`. -/
def execCvuData8 (unit : Fin 6) (v : BitVec 8) (s : State) : Host.Outcome State Fault Refusal :=
  .next (cvuWrite unit.val (cvuFeed (leBytes 1 v.toNat)) s)
/-- `CVU_DATA16`. -/
def execCvuData16 (unit : Fin 6) (v : BitVec 16) (s : State) : Host.Outcome State Fault Refusal :=
  .next (cvuWrite unit.val (cvuFeed (leBytes 2 v.toNat)) s)
/-- `CVU_DATA32`. -/
def execCvuData32 (unit : Fin 6) (v : BitVec 32) (s : State) : Host.Outcome State Fault Refusal :=
  .next (cvuWrite unit.val (cvuFeed (leBytes 4 v.toNat)) s)

/-- `CVU_RESULT_READ`: RESULT or COUNT. -/
def execCvuResultRead (unit : Fin 6) (count : Bool) (s : State) : Host.Outcome State Fault Refusal :=
  let u := cvuOf s unit.val
  .next { s with answer := .value (if count then u.count else cvuResult u) }

/-- Bytes a job writes (R452). -/
def jobWrites (u : Cvu) : Nat :=
  match u.mode with | 2 => u.len + cvuWidth u.poly | 3 => u.len - cvuWidth u.poly | _ => 0

/-- Why a job is refused: 2 LENGTH, 3 OVERLAP, 0 not (R452). -/
def jobRefusal (u : Cvu) : Nat :=
  if u.len = 0 || (u.mode = 3 && u.len ≤ cvuWidth u.poly) then 2
  else if u.mode ≥ 2 && u.dst ≠ u.src && u.src < u.dst + jobWrites u && u.dst < u.src + u.len then 3
  else 0

/-- A write of 1 to CVUn_START (R451, R452, R456). -/
def cvuStart (u : Cvu) : Cvu :=
  let u := { cvuRestart u with busy := false, done := false, hit := false, status := 0 }
  if u.mode = 0 then u
  else
    let r := jobRefusal u
    if r = 0 then { u with busy := true } else { u with done := true, status := r, jobErr := true, mismatch := u.mismatch || u.mode = 3 }

/-- START in a given mode. -/
def startMode (n mode : Nat) (s : State) : State :=
  cvuWrite n (fun u => if u.mode = mode then cvuStart u else u) s

/-- `CVU_FEED_START`. -/
def execCvuFeedStart (unit : Fin 6) (s : State) : Host.Outcome State Fault Refusal := .next (startMode unit.val 0 s)
/-- `CVU_COMPUTE_JOB`. -/
def execCvuComputeJob (unit : Fin 6) (s : State) : Host.Outcome State Fault Refusal := .next (startMode unit.val 1 s)
/-- `CVU_APPEND_JOB`. -/
def execCvuAppendJob (unit : Fin 6) (s : State) : Host.Outcome State Fault Refusal := .next (startMode unit.val 2 s)
/-- `CVU_STRIP_JOB`. -/
def execCvuStripJob (unit : Fin 6) (s : State) : Host.Outcome State Fault Refusal := .next (startMode unit.val 3 s)

/-- A job's access passes the isolation unit: memory, or a read of a process image window (R26, R34). -/
def jobPasses (s : State) (owner : Option Nat) (write : Bool) (a : Nat) : Bool :=
  memAllows s.drw.image owner none false write a ||
    (!write && inWindows a && windowPasses s.drw.image owner false false a)

/-- Bytes of a range, from its start, before the first that the isolation unit refuses. -/
def passedBytes (s : State) (owner : Option Nat) (write : Bool) (a len : Nat) : Nat :=
  match (pageStarts a len).find? (fun p => !jobPasses s owner write p) with
  | some p => p - a
  | none => len

/-- The bytes that a job reads: memory, or the latest sealed version in a window (R26). -/
def jobBytes (s : State) (a len : Nat) : List Byte :=
  if inWindows a then (List.range len).map (fun i => (leBytes 4 (readWindow s none ((a + i) / 4 * 4))).getD ((a + i) % 4) 0)
  else memBytes s a len

/-- A job is refused by the isolation unit after `n` bytes: those written stay (R452). -/
def jobRefused (unit : Nat) (owner : Option Nat) (u : Cvu) (data written : List Byte) (bad : Nat) (write : Bool) (s : State) :
    State :=
  let a := dmaAccess owner write bad 1 s
  let s := if u.mode ≥ 2 then putBytes u.dst written a.2 else a.2
  modCvu unit (fun u => { cvuRestart u with
    busy := false, done := true, status := 4, jobErr := true, mismatch := u.mismatch || u.mode = 3, count := data.length,
    run := crcFeed (crcKind u.poly) (crcKind u.poly).init data }) s

/-- A DMA job ends (R452): the data are read, checked and written as its mode says. While ENABLE is 0 no DMA runs, and
the job waits (R43). -/
def finishJob (n : Nat) (s : State) : State :=
  let u := cvuOf s n
  if !u.busy || !cvuRuns s n then s
  else
    let o := cvuOwner s n
    let w := cvuWidth u.poly
    let got := passedBytes s o false u.src u.len
    let put := if u.mode ≥ 2 then passedBytes s o true u.dst (jobWrites u) else u.len
    let body := if u.mode = 3 then u.len - w else u.len
    let data := jobBytes s u.src body
    let run := crcFeed (crcKind u.poly) (crcKind u.poly).init data
    let check := crcBytes u.poly (run ^^^ (crcKind u.poly).xorOut)
    if got < u.len && (got ≤ put || put = jobWrites u) then jobRefused n o u (data.take got) (data.take got) (u.src + got) false s
    else if u.mode ≥ 2 && put < jobWrites u then
      jobRefused n o u (data.take put) ((if u.mode = 2 then data ++ check else data).take put) (u.dst + put) true s
    else
      let hit := u.mode = 3 && jobBytes s (u.src + body) w = check
      let s := match u.mode with
        | 2 => putBytes u.dst (data ++ check) s
        | 3 => putBytes u.dst data s
        | _ => s
      modCvu n (fun u => { u with
        busy := false, done := true, status := 1, hit := hit, run := run, count := sat 32 0 body,
        mismatch := u.mismatch || (u.mode = 3 && !hit) }) s

/-- `CVU_JOB_DONE`. -/
def execCvuJobDone (unit : Fin 6) (s : State) : Host.Outcome State Fault Refusal := .next (finishJob unit.val s)

/-- `CRC_BLOCK`: the service runs a job on the drawer's unit and returns status, result and match. -/
def execCrcBlock (core : Fin 16) (unit : Fin 6) (poly mode : Fin 4) (src dst len : Nat) (s : State) :
    Host.Outcome State Fault Refusal :=
  let n := unit.val
  .next (service core.val (25 + n) 0x0F (0x100E0010 + n * 0x1000) (fun s =>
    if (cvuOf s n).busy || mode.val = 0 || !cvuRuns s n then { s with answer := .refused }
    else
      let s := modCvu n (fun u =>
        cvuStart { cvuCfg (mode.val * 16 + poly.val) u with src := src % 2 ^ 32, dst := dst % 2 ^ 32, len := len % 2 ^ 25 }) s
      let s := finishJob n s
      let u := cvuOf s n
      { s with answer := .values [u.status, cvuResult u, bit u.hit] }) s)

end Sys2Proof.Machine
end

