-- ==== Sys2Proof/Machine/Time.lean ====
section
/-! DEFINITION. Time: alignment, tick states, PTP ports, time-stamp queues, the calendar, the backup domain
(R390 to R424, R586). -/
namespace Sys2Proof.Machine

/-! ### The calendar's dates (R404) -/

/-- Gregorian leap year. -/
def isLeap (y : Nat) : Bool := y % 4 = 0 && (y % 100 ≠ 0 || y % 400 = 0)

/-- Days of a month, 1 to 12. -/
def monthDays (y m : Nat) : Nat :=
  if m = 2 then (if isLeap y then 29 else 28) else if m = 4 || m = 6 || m = 9 || m = 11 then 30 else 31

/-- Days of the years from 2000 up to a year. -/
def daysToYear (y : Nat) : Nat := ((List.range (y - 2000)).map (fun i => if isLeap (2000 + i) then 366 else 365)).foldl (· + ·) 0

/-- Days of the months before one. -/
def daysToMonth (y m : Nat) : Nat := ((List.range (m - 1)).map (fun i => monthDays y (i + 1))).foldl (· + ·) 0

/-- Year and day of the year from a number of days since a year; `fuel` years at most. -/
def yearOf (fuel y d : Nat) : Nat × Nat :=
  match fuel with
  | 0 => (y, d)
  | fuel + 1 =>
    let n := if isLeap y then 366 else 365
    if d < n then (y, d) else yearOf fuel (y + 1) (d - n)

/-- Month and day from a day of a year. -/
def monthOf (fuel y m d : Nat) : Nat × Nat :=
  match fuel with
  | 0 => (m, d)
  | fuel + 1 => if d < monthDays y m then (m, d) else monthOf fuel y (m + 1) (d - monthDays y m)

/-- RTC_TIME0 of seconds since 2000-01-01 (R422). -/
def time0 (t : Nat) : Nat := t / 3600 % 24 * 2 ^ 12 + t / 60 % 60 * 2 ^ 6 + t % 60

/-- RTC_TIME1 of seconds since 2000-01-01 (R422). -/
def time1 (t : Nat) : Nat :=
  let y := yearOf 136 2000 (t / 86400)
  let m := monthOf 12 y.1 1 y.2
  y.1 * 2 ^ 16 + m.1 * 2 ^ 8 + (m.2 + 1)

/-- Seconds since 2000-01-01 of two set registers; none when a field is outside R404 (R406). -/
def setSeconds (s0 s1 : Nat) : Option Nat :=
  let h := fld s0 12 5
  let mi := fld s0 6 6
  let se := fld s0 0 6
  let y := fld s1 16 16
  let mo := fld s1 8 4
  let d := fld s1 0 5
  if h ≤ 23 && mi ≤ 59 && se ≤ 59 && 2000 ≤ y && y ≤ 2135 && 1 ≤ mo && mo ≤ 12 && 1 ≤ d && d ≤ monthDays y mo then
    some ((daysToYear y + daysToMonth y mo + d - 1) * 86400 + h * 3600 + mi * 60 + se)
  else none

/-- Changes the RTC block. -/
def modRtc (f : Rtc → Rtc) (s : State) : State := { s with rtc := f s.rtc }

/-- The last second of the calendar (R404). -/
def lastSecond : Nat := 4291747199

/-! ### Setting and counting (R404 to R408) -/

/-- A set takes effect: the calendar with its RTC_SUBSEC, EPOCH, OSF, event 0xC005 with its source; `was` is the value it
replaces (R406, R407). -/
def applySet (source new sub was : Nat) (s : State) : State :=
  let ep := if s.rtc.epoch = 255 then 1 else s.rtc.epoch + 1
  let diff := if new ≥ was then new - was else was - new
  raise { code := 0xC005, block := 0x0D, detail := ep * 2 ^ 24 + source * 2 ^ 16 + min diff 0xFFFF }
    (modRtc (fun r => { r with seconds := new, subsec := sub, epoch := ep, osf := false, pendingSet := none, trim := 0 }) s)

/-- `RTC_SECOND`: a 1 Hz edge (R404, R406). `vbak` is VBAK in 10 mV, which the register takes each second. -/
def execRtcSecond (vbak : Nat) (s : State) : Host.Outcome State Fault Refusal :=
  if !s.rtc.valid then .next s
  else
    let s := if s.sys.boot = .off then s else modRtc (fun r => { r with vbak := vbak % 2 ^ 16 }) s
    match s.rtc.pendingSet with
    | some v => .next (applySet 1 v 0 (if s.rtc.seconds = lastSecond then 0 else s.rtc.seconds + 1) s)
    | none =>
      if s.rtc.seconds = lastSecond then
        .next (raise { code := 0xC009, block := 0x0D } (modRtc (fun r => { r with seconds := 0, subsec := 0 }) s))
      else .next (modRtc (fun r => { r with seconds := r.seconds + 1, subsec := 0 }) s)

/-- ENABLE of the RTC block opens its register interface (R420). While it is 0 its own registers take no write and a read
gives a free value, as for JIG (DEDUCED, log entries 7 and 22); the services are no register accesses. -/
def rtcOpen (s : State) : Bool := s.enabled.contains .rtc

/-- A set command with a wrong KEY is ignored (R423), and any while the register interface is closed. -/
def rtcKey (key : Nat) (f : State → State) (s : State) : State :=
  if !rtcOpen s then s else if key = 0x4A54 then f s else raiseIgnored 0x0D 0x100C0024 s

/-- The values of a set command, or its refusal (R406). -/
def rtcSet (cmd : Nat) (f : Nat → State → State) (s : State) : State :=
  match setSeconds s.rtc.set0 s.rtc.set1 with
  | some v => f v (modRtc (fun r => { r with refused := false }) s)
  | none => raise { code := 0xC006, block := 0x0D, detail := cmd } (modRtc (fun r => { r with refused := true }) s)

/-- CMD 0b01: a set at the next 1 Hz edge. -/
def setNextEdge (s : State) : State := rtcSet 1 (fun v s => modRtc (fun r => { r with pendingSet := some v }) s) s

/-- `RTC_SET_NEXT_EDGE`. -/
def execRtcSetNextEdge (key : Nat) (s : State) : Host.Outcome State Fault Refusal := .next (rtcKey key setNextEdge s)

/-- CMD 0b10: a set at once. -/
def setNow (s : State) : State := rtcSet 2 (fun v s => applySet 2 v 0 s.rtc.seconds s) s

/-- CMD 0b11: a pending set is dropped. -/
def setCancel (s : State) : State := modRtc (fun r => { r with pendingSet := none, refused := false }) s

/-- `RTC_SET_IMMEDIATE`: a drawer without the expert RTC grant is refused (R423). -/
def execRtcSetImmediate (key : Nat) (by_ : Option (Fin 16)) (s : State) : Host.Outcome State Fault Refusal :=
  match by_ with
  | some c =>
    if grant s.drw.image (coreTag s c.val) 23 = 2 then .next (rtcKey key setNow s)
    else .next (coreRefused c.val 1 0x0D 0x100C0024 s)
  | none => .next (rtcKey key setNow s)

/-- `RTC_SET_CANCEL`. -/
def execRtcSetCancel (key : Nat) (s : State) : Host.Outcome State Fault Refusal :=
  .next (rtcKey key setCancel s)

/-- `RTC_SET`: the service, with a basic or expert grant. -/
def execRtcSet (core : Fin 16) (set0 set1 : Nat) (s : State) : Host.Outcome State Fault Refusal :=
  .next (service core.val 23 0x0D 0x100C0024
    (fun s => setNextEdge (modRtc (fun r => { r with set0 := set0 % 2 ^ 17, set1 := set1 &&& 0xFFFF0F1F }) s)) s)

/-- `RTC_NOW`: every drawer reads the calendar. -/
def execRtcNow (core : Fin 16) (s : State) : Host.Outcome State Fault Refusal :=
  match drivenBy s core.val with
  | none => .next { s with answer := .refused }
  | some _ => .next { s with answer := .values [time0 s.rtc.seconds, time1 s.rtc.seconds, s.rtc.seconds] }

/-- A read of RTC_TIME0 at an oscillator cycle latches the other three registers (R405). The cycle is not below the last one
that an instant has fixed. -/
def latchTime (sub : Nat) (s : State) : Nat × State :=
  let t := s.rtc.seconds
  let sub := max sub s.rtc.subsec
  (time0 t, modRtc (fun r => { r with latch1 := time1 t, latchSub := sub, latchSec := t, subsec := sub }) s)

/-- `RTC_TIME_LATCH`: a read of RTC_TIME0; `subsec` is the oscillator cycle of the read (R405). -/
def execRtcTimeLatch (subsec : Fin 32768) (s : State) : Host.Outcome State Fault Refusal :=
  let r := if rtcOpen s then latchTime subsec.val s
    else (Config.freeValue s.fresh % 2 ^ 17, { s with fresh := s.fresh + 1 })
  .next { r.2 with answer := .value r.1 }

/-- RTC_TRIM of the time record (R398). -/
def rtcTrim (s : State) : Bool := (s.ptp.cfg / 2 ^ 24).testBit 3

/-- The announced UTC offset: the master's, which a grandmaster announces itself; none when it is not valid (R401, R408). -/
def announcedOffset (s : State) : Option Nat :=
  if s.ptp.gm then some (s.ptp.misc % 256) else if s.ptp.slavePort ≠ 0xF && s.ptp.utcValid then some s.ptp.utcOffset else none

/-- UTC in oscillator cycles since 2000-01-01, from PTP time `since` ns after the last edge and the announced offset. -/
def utcCycles (offset since : Nat) (s : State) : Nat :=
  ((s.stk.baseNs + (s.stk.edges * 250000 + since : Nat) - ((946684800 + offset) * 1000000000 : Nat)) * 32768 / 1000000000).toNat

/-- `RTC_TRIM_CHECK`: the calendar, at an oscillator cycle of its second, against the UTC of PTP time `sinceNs` after
the last edge (R408). A grandmaster is LOCKED to its own PTP time and trims to it too (R402). -/
def execRtcTrimCheck (sinceNs : Nat) (cycle : Fin 32768) (s : State) : Host.Outcome State Fault Refusal :=
  match announcedOffset s with
  | none => .next s
  | some o =>
    if rtcTrim s && rtcOpen s && s.ptp.st = .locked then
      let utc := utcCycles o sinceNs s
      let sub := max cycle.val s.rtc.subsec
      let cal := s.rtc.seconds * 32768 + sub
      let diff := ((utc : Int) - cal).natAbs
      if diff * 10 ≤ 32768 then .next (modRtc (fun r => { r with trim := diff, trimUp := decide (cal < utc), subsec := sub }) s)
      else .next (applySet 3 (utc / 32768 % (lastSecond + 1)) (utc % 32768) s.rtc.seconds s)
    else .next s

/-- `RTC_TRIM_STEP`: one cycle is inserted or dropped (R408). -/
def execRtcTrimStep (s : State) : Host.Outcome State Fault Refusal :=
  if s.rtc.trim = 0 then .next s
  else .next (modRtc (fun r => { r with
    trim := r.trim - 1, subsec := if r.trimUp then min (r.subsec + 1) 32767 else r.subsec - 1 }) s)

/-! ### The backup domain (R409 to R413) -/

/-- `OSC_STOP` (R409). -/
def execOscStop (s : State) : Host.Outcome State Fault Refusal :=
  if s.rtc.valid then
    .next (raise { code := 0xC007, block := 0x0D } (modRtc (fun r => { r with osf := true, oscStop := true }) s))
  else .next s

/-- The tamper record and the volatile key slots lie in the domain too (R411, R483). -/
def clearTamperBak (s : State) : State := { s with key := { s.key with tamper := { loopBad := s.key.tamper.loopBad } } }

/-- Everything the domain holds is cleared (R412). -/
def clearBackup (r : Rtc) : Rtc :=
  { r with
    canary := false, force := 0, offcutPending := false, tamperEn := false, capSeconds := 0, capSub := 0, captured := false,
    general := List.replicate 32 0 }

/-- The boot has not left its ROM: a canary that goes wrong is still found in this boot (R412). -/
def inBootRom (s : State) : Bool := s.sys.boot = .released || s.sys.boot = .clocked

/-- `BACKUP_DOMAIN_RESET`: the supply is below 1.60 V (R412). The flags of RTC_OSF are no part of the 256 bytes: OSF
clears by a set alone (R409), and the check of the canary sets it. -/
def execBackupDomainReset (s : State) : Host.Outcome State Fault Refusal :=
  .next (modRtc (fun r => { clearBackup r with
    valid := false, checkDue := r.checkDue || inBootRom s, seconds := 0, subsec := 0, epoch := 0, latch1 := 0x07D00101,
    latchSub := 0, latchSec := 0 }) (clearTamperBak s))

/-- The canary check of a boot (R412): a wrong canary gives DOMAIN, reset cause POR, an unknown outage (R415), and a cleared
domain with a new canary. -/
def canaryCheck (s : State) : State :=
  if s.rtc.canary then modRtc (fun r => { r with checkDue := false }) s
  else
    let s := modRtc (fun r => { clearBackup r with canary := true, checkDue := false, osf := true, domainLost := true }) (clearTamperBak s)
    let s := { s with sys := { s.sys with cause := bset (bclr s.sys.cause 1) 0, primary := 1, outage := 0xFFFFFFFF } }
    raise { code := 0xC008, block := 0x0D, detail := s.rtc.vbakUp } s

/-- The check that is due takes place once the domain is valid and runs from its main feed (R412). -/
def canaryTry (s : State) : State := if s.rtc.checkDue && s.rtc.valid && !s.rtc.feedVbak then canaryCheck s else s

/-- `BACKUP_DOMAIN_VALID`: the domain leaves its reset and the calendar counts from 2000-01-01 (R412). -/
def execBackupDomainValid (s : State) : Host.Outcome State Fault Refusal :=
  if s.rtc.valid then .next s
  else .next (canaryTry (modRtc (fun r => { r with valid := true, seconds := 0, subsec := 0, epoch := 0 }) s))

/-- `BACKUP_FEED_SWITCH` (R413). -/
def execBackupFeedSwitch (toVbak : Bool) (s : State) : Host.Outcome State Fault Refusal :=
  .next (canaryTry (modRtc (fun r => { r with feedVbak := toVbak }) s))

/-- Oscillator cycles into the second at an instant no command fixes: a free value, not below the last one fixed (log entry
7). -/
def freeSubsec (s : State) : Nat := s.rtc.subsec + Config.freeValue s.fresh % (32768 - s.rtc.subsec)

/-- The RTC count is captured when reset asserts (R586). -/
def captureRtc (s : State) : State :=
  if s.rtc.valid then
    modRtc (fun r => { r with capSeconds := r.seconds, capSub := freeSubsec s, subsec := freeSubsec s, captured := true })
      { s with fresh := s.fresh + 1 }
  else s

/-- SYS_OUTAGE at a reset release that follows a loss of VSYS (R586). -/
def outageNow (s : State) : Nat :=
  if !s.rtc.captured || s.rtc.osf then 0xFFFFFFFF
  else
    let now := s.rtc.seconds * 32768 + freeSubsec s
    (now - (s.rtc.capSeconds * 32768 + s.rtc.capSub)) / 32768

/-! ### Alignment and tick states (R391 to R395) -/

/-- Changes the PTP block. -/
def modPtp (f : Ptp → Ptp) (s : State) : State := { s with ptp := f s.ptp }

/-- The tick counts as locked (R392). -/
def tickLocked (s : State) : Bool := s.ptp.st = .locked || s.ptp.st = .holdover

/-- Code of a tick state (R418). -/
def tickCode (t : TickSt) : Nat := match t with | .free => 0 | .acquiring => 1 | .locked => 2 | .holdover => 3

/-- The tick leaves LOCKED or HOLDOVER ends: event 0xC003 (R395, R416). -/
def leaveLocked (t : TickSt) (s : State) : State :=
  let mark := if s.ptp.st = .locked then s.stk.edges else s.ptp.mark
  notice 3 (tickCode t) (raise { code := 0xC003, block := 0x0C, detail := s.ptp.lastSlave * 2 ^ 4 + tickCode t }
    (modPtp (fun p => { p with st := t, good := 0, bad := 0, mark := mark }) s))

/-- The time base is set to PTP time `ns`, `since` ns after the last edge, at this moment; the joining edge follows (R390,
R393). At every edge the base is a whole number of ns, so its fraction is 0 there; inside a tick no register shows it. -/
def startJoin (ns since : Nat) (s : State) : State :=
  if s.ptp.aligned || s.ptp.join.isSome then s
  else
    let o : Int := (s.ptp.origin : Int) * 1000000000
    let last : Int := (ns : Int) - (since % 250000 : Nat)
    let k : Int := (last + 250000 - o + 249999) / 250000
    let j : Int := o + k * 250000
    { s with
      stk := { s.stk with baseNs := last - (s.stk.edges * 250000 : Nat) }
      ptp := { s.ptp with join := some (twos 64 k, j.toNat, (j - last).toNat) } }

/-- The joining edge: TN takes its aligned value, the edge counting goes on (R393, R395). `edges` already counts it. -/
def joinEdge (s : State) : State :=
  match s.ptp.join with
  | none => s
  | some (tn, j, iv) =>
    let s := { s with stk := { s.stk with tn := tn, baseNs := (j : Int) - (s.stk.edges * 250000 : Nat) } }
    let s := aioRebase s.stk.edges s
    notice 3 (if s.ptp.gm then 2 else 1) (raise { code := 0xC001, block := 0x0C, detail := min (iv / 1000) 0xFFFF }
      (modPtp (fun p => { p with
        join := none, aligned := true, alignTn := tn % 2 ^ 32, mark := s.stk.edges, good := 0, bad := 0,
        st := if p.gm then .locked else .acquiring }) s))

/-- An accepted offset (R395). -/
def ptpOffset (off : Int) (freq : Int) (s : State) : State :=
  let s := modPtp (fun p => { p with
    offset := max (-(2 ^ 31 - 1)) (min (2 ^ 31 - 1) off), freq := max (-250000) (min 250000 freq) }) s
  if !s.ptp.aligned then s
  else
    match s.ptp.st with
    | .free | .holdover => notice 3 1 (modPtp (fun p => { p with st := .acquiring, good := 0, bad := 0 }) s)
    | .acquiring =>
      let g := if off.natAbs ≤ 50 then s.ptp.good + 1 else 0
      if g ≥ 8 then
        notice 3 2 (raise { code := 0xC002, block := 0x0C, detail := min ((s.stk.edges - s.ptp.mark) / 4) 0xFFFFFF }
          (modPtp (fun p => { p with st := .locked, good := 0, bad := 0 }) s))
      else modPtp (fun p => { p with good := g }) s
    | .locked =>
      let b := if off.natAbs > 100 then s.ptp.bad + 1 else 0
      if b ≥ 2 && !s.ptp.gm then leaveLocked .acquiring s else modPtp (fun p => { p with bad := b }) s

/-- `SYNC_TIMEOUT` (R395). -/
def execSyncTimeout (s : State) : Host.Outcome State Fault Refusal :=
  if s.ptp.st = .locked && !s.ptp.gm then .next (leaveLocked .holdover s) else .next s

/-- `HOLDOVER_EXPIRY` (R395). -/
def execHoldoverExpiry (s : State) : Host.Outcome State Fault Refusal :=
  if s.ptp.st = .holdover then .next (leaveLocked .free s) else .next s

/-! ### Ports (R400 to R402) -/

/-- A PTP port is enabled on a MAC. -/
def ptpEnabled (s : State) (m : Nat) : Bool := s.enabled.contains .ptp && (s.ptp.prio / 2 ^ 16).testBit m

/-- FLAGS of the time record. -/
def ptpFlag (s : State) (i : Nat) : Bool := (s.ptp.cfg / 2 ^ 24).testBit i

/-- portState as the rules let it be: a T1S port never follows a master, SLAVE_ONLY keeps every port out of MASTER
(R401). -/
def allowedState (s : State) (m st : Nat) : Nat :=
  let st := if m < 8 && (st = 8 || st = 9) then 6 else st
  if !ptpEnabled s m then 0
  else if ptpFlag s 2 && (st = 5 || st = 6) then 4
  else st % 16

/-- Source address of a MAC: address entry 0, six bytes. -/
def addrEntry (img : List Section) (m e : Nat) : Option (List Byte) :=
  ((filters img 2).find? (fun r => f8 r 1 = m && f8 r 2 = e)).map (fun r => sub r 8 6)

/-- clockIdentity, from address entry 0 of the lowest declared backbone MAC (R400): its first three bytes, 0xFFFE, its last
three (PRESUMED, IEEE 1588, log entry 21). -/
def clockIdentity (s : State) : Nat :=
  match [8, 9].find? (fun m => s.declared.contains (.mac m)) with
  | some m =>
    let a := (addrEntry s.drw.image m 0).getD (List.replicate 6 0)
    (a.take 3 ++ [0xFF, 0xFE] ++ a.drop 3).foldl (fun (n : Nat) (b : Byte) => n * 256 + b.toNat) 0
  | none => 0

/-- The slave port has reached SLAVE with a complete measurement of offset and path delay: the module aligns (R393). -/
def slaveAligns (ns since : Nat) (s : State) : State :=
  let p := s.ptp.ports.getD s.ptp.slavePort {}
  if s.ptp.slavePort ≠ 0xF && p.state = 9 && p.measured && p.offsetOk then startJoin ns since s else s

/-- PTP time that the calendar gives a grandmaster, rounded to the nearest ns (R402). -/
def calendarNs (s : State) : Nat :=
  let utc := s.ptp.misc % 256
  (s.rtc.seconds + 946684800 + utc) * 1000000000 + (freeSubsec s * 30517578125 + 500000) / 1000000

/-- A new outcome of the best master clock algorithm (R401), `since` ns after the last edge at PTP time `ns`: port states,
master, grandmaster role; event 0xC004 when the master or the role changes. A LOCKED tick without a slave port goes to
HOLDOVER (R395). A new grandmaster, or a port that is SLAVE and has measured, aligns the module (R393). -/
def setRoles (r : PtpRoles) (ns since : Nat) (s : State) : State :=
  let slave := match r.slave with
    | some m => if 8 ≤ m && ptpEnabled s m then m else 0xF
    | none => 0xF
  let gm := r.gm && ptpFlag s 1 && slave = 0xF
  let old := s.ptp
  let s := modPtp (fun p => { p with
    ports := (enum p.ports).map (fun q => { q.2 with state := allowedState s q.1 (r.states.getD q.1 0) }),
    slavePort := slave, lastSlave := if slave = 0xF then p.lastSlave else slave, gm := gm,
    gmId := if gm then clockIdentity s else r.gmId % 2 ^ 64, utcValid := r.utcValid && slave ≠ 0xF, utcOffset := r.utcOffset }) s
  let s := if slave ≠ old.slavePort || gm ≠ old.gm || s.ptp.gmId ≠ old.gmId then
      raise { code := 0xC004, block := 0x0C, detail := slave * 2 ^ 4 + bit gm } s
    else s
  let s := if s.ptp.st = .locked && !gm && slave = 0xF then leaveLocked .holdover s else s
  if gm && !s.ptp.aligned then startJoin (calendarNs s) since { s with fresh := s.fresh + 1 } else slaveAligns ns since s

/-- Changes one port. -/
def modPort (m : Nat) (f : PtpPort → PtpPort) (s : State) : State := modPtp (fun p => { p with ports := lmod p.ports m f }) s

/-- The profile uses messages of the kind: peer delay belongs to 802.1AS, delay request-response to the default profile (R5,
R400). -/
def profileHas (s : State) (k : PtpKind) : Bool :=
  match k with
  | .delayReq | .delayResp => !ptpFlag s 0
  | .pdelayReq | .pdelayResp | .pdelayFollowUp => ptpFlag s 0
  | .sync | .followUp | .announce | .other => true

/-- A message for an enabled port (R400). One that the profile does not support has no effect (R5). -/
def ptpMessage (m : Nat) (g : PtpMessage) (s : State) : State :=
  if !ptpEnabled s m || !profileHas s g.kind then s
  else if g.domain ≠ fld s.ptp.cfg 16 8 || (g.kind = .sync && !g.twoStep) then
    modPort m (fun p => { p with ignored := sat 8 p.ignored 1 }) s
  else
    let s := g.roles.elim s (fun r => setRoles r g.ptpNs g.sinceNs s)
    let s := g.delay.elim s (fun d => modPort m (fun p => { p with delay := min d 0xFFFF, measured := true }) s)
    let s := match g.offset with
      | some o => if s.ptp.slavePort ≠ m then s else ptpOffset o g.freq (modPort m (fun p => { p with offsetOk := true }) s)
      | none => s
    slaveAligns g.ptpNs g.sinceNs s

/-- `PTP_MESSAGE_RECEIVE`. -/
def execPtpMessageReceive (port : Fin 10) (msg : PtpMessage) (s : State) : Host.Outcome State Fault Refusal :=
  .next (ptpMessage port.val msg s)

/-- `ANNOUNCE_TIMEOUT`: the best master is chosen again (R401). -/
def execAnnounceTimeout (port : Fin 10) (roles : PtpRoles) (s : State) : Host.Outcome State Fault Refusal :=
  if ptpEnabled s port.val then .next (setRoles roles roles.ptpNs roles.sinceNs s) else .next s

/-- The role lets a port send a message of a kind. -/
def maySend (s : State) (m : Nat) (k : PtpKind) : Bool :=
  let st := (s.ptp.ports.getD m {}).state
  match k with
  | .sync | .followUp | .announce | .delayResp => st = 6 && profileHas s k
  | .delayReq => profileHas s k && (st = 8 || st = 9)
  | .pdelayReq | .pdelayResp | .pdelayFollowUp => profileHas s k
  | .other => true

/-- What the module announces of its clock (R401). -/
def announceOf (s : State) : Announced := {
  clockClass := 248, priority1 := fld s.ptp.prio 8 8, priority2 := fld s.ptp.prio 0 8, timeSource := 0xA0,
  utcOffset := if s.ptp.gm then some (s.ptp.misc % 256) else none, clockId := clockIdentity s }

/-- `PTP_MESSAGE_SEND`: the port hands a message to its MAC, which sends it in the order of R364 (R400). -/
def execPtpMessageSend (port : Fin 10) (kind : PtpKind) (s : State) : Host.Outcome State Fault Refusal :=
  let m := port.val
  if ptpEnabled s m && maySend s m kind then
    let s := if kind = .announce then modPtp (fun p => { p with announced := some (announceOf s) }) s else s
    .next { s with mac := lmod s.mac m (fun x => { x with ptpOut := x.ptpOut ++ [kind] }) }
  else .next s

/-! ### Time-stamp queues (R403) -/

/-- Changes one queue. -/
def modTsq (m : Nat) (f : Tsq → Tsq) (s : State) : State := modPtp (fun p => { p with tsq := lmod p.tsq m f }) s

/-- A sent frame offers its stamp; false when the queue is full. -/
def offerStamp (m ring idx stamp : Nat) (s : State) : Bool × State :=
  if (s.ptp.tsq.getD m {}).entries.length < 64 then
    (true, modTsq m (fun q => { q with entries := q.entries ++ [(ring, idx, stamp % 2 ^ 64)] }) s)
  else (false, modTsq m (fun q => { q with overflows := sat 16 q.overflows 1 }) s)

/-- A read of HEAD0 removes the entry and latches its stamp (R417). -/
def tsqTake (m : Nat) (s : State) : Nat × State :=
  match (s.ptp.tsq.getD m {}).entries with
  | [] => (0, s)
  | (r, i, t) :: rest =>
    (2 ^ 31 + r * 2 ^ 26 + i % 2 ^ 12, modTsq m (fun q => { q with entries := rest, latch := t }) s)

/-- `TSQ_HEAD_READ`: a read of HEAD0 removes the entry and latches its stamp. -/
def execTsqHeadRead (mac : Fin 10) (s : State) : Host.Outcome State Fault Refusal :=
  let r := tsqTake mac.val s
  .next { r.2 with answer := .value r.1 }

/-- `TSQ_ENTRY_EXPIRY`: the oldest entry leaves 1 ms after its creation. -/
def execTsqEntryExpiry (mac : Fin 10) (s : State) : Host.Outcome State Fault Refusal :=
  .next (modTsq mac.val (fun q => { q with entries := q.entries.drop 1 }) s)

/-- The time record (R398). -/
def timeRec (img : List Section) : Option Rec := (recs img 0x0A).find? (fun r => f8 r 0 = 4)

/-- The block as a load leaves it (R414, R417): without a time record VBAK is not charged. -/
def ptpLoad (s : State) : State :=
  match timeRec s.drw.image with
  | some r =>
    let s := modPtp (fun p => { p with
      syncEvery := (f8 r 1).testBit 5,
      cfg := f8 r 1 * 2 ^ 24 + f8 r 2 * 2 ^ 16 + f8 r 8 % 16 * 2 ^ 12 + f8 r 9 % 16 * 2 ^ 8 + f8 r 0x0A % 16 * 2 ^ 4 + f8 r 0x0B % 16,
      prio := f16 r 4 * 2 ^ 16 + f8 r 6 * 2 ^ 8 + f8 r 7, misc := f16 r 0x0C * 2 ^ 16 + f8 r 0x0E * 2 ^ 8 + f8 r 0x0F,
      origin := f64 r 0x10,
      ports := (enum p.ports).map (fun q => if (f16 r 4).testBit q.1 then { q.2 with state := 4 } else q.2) }) s
    modRtc (fun b => { b with charge := (f8 r 1).testBit 4 }) s
  | none => modRtc (fun b => { b with charge := false }) s

end Sys2Proof.Machine
end

