-- ==== Sys2Proof/Machine/Key.lean ====
section
/-! DEFINITION. The key core: roots, derivation, handles, requests, the command mailbox, life cycle, attestation,
masking, the random source, tamper (R459 to R492, R543). -/
namespace Sys2Proof.Machine

/-- Changes the KEY block. -/
def modKey (f : Key → Key) (s : State) : State := { s with key := f s.key }

/-- An event of the KEY block. -/
def keyEvent (code detail : Nat) (s : State) : State := raise { code := code, block := 0x10, detail := detail } s

/-- The next free value of the random source (R471). -/
def draw (s : State) : Nat × State := (Config.freeValue s.fresh, { s with fresh := s.fresh + 1 })

/-! ### Derivation and cells (R460 to R465) -/

/-- The 64 bytes of a key. -/
def keyBytes (k : BitVec 512) : List Byte := leBytes 64 k.toNat

/-- The key of 64 bytes. -/
def keyOf (l : List Byte) : BitVec 512 := BitVec.ofNat 512 (leNat l)

/-- The bytes "ATTEST". -/
def attestLabel : List Byte := [0x41, 0x54, 0x54, 0x45, 0x53, 0x54]
/-- The bytes "STORE". -/
def storeLabel : List Byte := [0x53, 0x54, 0x4F, 0x52, 0x45]
/-- The bytes "JF-DRAWER", the default label (R459). -/
def defaultLabel : List Byte := [0x4A, 0x46, 0x2D, 0x44, 0x52, 0x41, 0x57, 0x45, 0x52]

/-- The input of a derivation (R463). -/
def deriveInput (parent label : List Byte) (drawer lc gen : Nat) : List Byte :=
  [0x4A, 0x46, 0x4B, 0x44] ++ parent ++ [b8 label.length] ++ label ++ [b8 drawer, b8 lc] ++ leBytes 4 gen

/-- A derived key (R463). -/
def deriveKey (parent label : List Byte) (drawer lc gen : Nat) : BitVec 512 :=
  keyOf (Config.shake256 (deriveInput parent label drawer lc gen) 64)

/-- The root in force (R460). -/
def rootBytes (k : Key) : List Byte := if k.offcut then Config.offcutRoot else Config.heartwood

/-- The attestation seed of a life-cycle state under the root in force. -/
def attestSeed (k : Key) (lc : Nat) : BitVec 512 := deriveKey (rootBytes k) attestLabel 0xFF lc 0

/-- IDENTITY (R478, R486): from the identity partition, all 0 in BLANK. -/
def identity (k : Key) : List Byte :=
  if k.lc = 0 then List.replicate 32 0
  else Config.shake256 (Config.falconPublic (keyBytes (deriveKey Config.heartwood attestLabel 0xFF 1 0))) 32

/-- A cell. -/
def cell (k : Key) (i : Nat) : Cell := k.cells.getD i {}

/-- Changes a cell. -/
def modCell (i : Nat) (f : Cell → Cell) (k : Key) : Key := { k with cells := lmod k.cells i f }

/-- The current generation of a cell; of a branch cell, the table's (R464). -/
def cellGen (k : Key) (i : Nat) : Nat := if 8 ≤ i && i < 40 then k.gens.getD (i - 8) 0 else (cell k i).gen

/-- A key is put into a cell as two shares, with a fresh mask (R470). -/
def fillCell (i drawer parent parentGen level : Nat) (label : List Byte) (key : BitVec 512) (s : State) : State :=
  let (r, s) := draw s
  let m := BitVec.ofNat 512 r
  modKey (modCell i (fun c => { c with
    used := true, drawer := drawer, parent := parent, parentGen := parentGen, level := level, label := label,
    wiped := false, shareA := m, shareB := key ^^^ m })) s

/-- Both shares of a cell are wiped. -/
def wipeCell (i : Nat) (k : Key) : Key := modCell i (fun c => { c with wiped := true, shareA := 0, shareB := 0 }) k

/-- Label of a drawer's branch (R459). -/
def branchLabel (img : List Section) (d : Nat) : List Byte :=
  let i := (drawerRec img d).elim 0xFFFF (fun r => f16 r 6)
  if i = 0xFFFF then defaultLabel
  else ((recs img 0x0D)[i]?).elim defaultLabel (fun r => sub r 4 (f8 r 2))

/-- A module or branch cell is derived (R464). -/
def deriveCell (i : Nat) (s : State) : State :=
  let root := rootBytes s.key
  if i = 0 then fillCell 0 0xFF 0 0 0 [] (keyOf root) s
  else if i = 1 then fillCell 1 0xFF 0 0 0 attestLabel (attestSeed s.key s.key.lc) s
  else if i = 2 then fillCell 2 0xFF 0 0 0 storeLabel (deriveKey root storeLabel 0xFF s.key.lc 0) s
  else
    let l := branchLabel s.drw.image (i - 8)
    fillCell i (i - 8) 0 0 0 l (deriveKey root l (i - 8) s.key.lc 0) s

/-- A module or branch cell that was wiped is derived again at its next use while LATCHED is 0 (R482). -/
def refreshCell (i : Nat) (s : State) : State :=
  if i < 40 && (cell s.key i).used && (cell s.key i).wiped && !s.key.tamper.latched then deriveCell i s else s

/-- The key a cell holds; none when it is free or wiped. -/
def cellKey (k : Key) (i : Nat) : Option (BitVec 512) :=
  let c := cell k i
  if c.used && !c.wiped then some (c.shareA ^^^ c.shareB) else none

/-- A handle (R465). -/
def handle (s : State) (i : Nat) : Nat := s.evr.cycles % 256 * 2 ^ 24 + i * 2 ^ 16 + cellGen s.key i % 2 ^ 16

/-- Every parent generation recorded on the way to the root is the parent's current one (R465). -/
def ancestorsFresh (fuel : Nat) (k : Key) (i : Nat) : Bool :=
  match fuel with
  | 0 => true
  | fuel + 1 =>
    let c := cell k i
    i < 8 || (c.parentGen = cellGen k c.parent && ancestorsFresh fuel k c.parent)

/-- The checks of a handle in their order (R465): 0 accepted, else the reason (R490). -/
def handleReason (s : State) (drawer h : Nat) : Nat :=
  let i := fld h 16 8
  let c := cell s.key i
  if fld h 24 8 ≠ s.evr.cycles % 256 then 0x9
  else if i < 8 || c.drawer ≠ drawer then 0xA
  else if h % 2 ^ 16 ≠ cellGen s.key i % 2 ^ 16 then 0xB
  else if !ancestorsFresh 5 s.key i then 0xB
  else if (cellKey s.key i).isNone then 0xC
  else 0

/-! ### The generation table (R468, R462) -/

/-- The table as bytes: generations and sequence number. -/
def tableBytes (t : GenTable) : List Byte := t.gens.flatMap (leBytes 4) ++ leBytes 8 t.seq

/-- The tag of a table under a storage key. -/
def tableTag (store : BitVec 512) (t : GenTable) : List Byte := Config.shake256 (keyBytes store ++ tableBytes t) 32

/-- A copy is valid when its tag matches. -/
def tableOk (store : BitVec 512) (t : Option GenTable) : Bool :=
  match t with
  | some t => t.tag = tableTag store t
  | none => false

/-- SEQ of a valid copy, plus 1; 0 of one that is not valid. -/
def tableRank (store : BitVec 512) (t : Option GenTable) : Nat := if tableOk store t then t.elim 0 (·.seq) + 1 else 0

/-- An update writes the copy that does not hold the newest valid table, SEQ raised by 1. -/
def writeTable (gens : List Nat) (k : Key) : Key :=
  let store := (cellKey k 2).getD 0
  let t : GenTable := { gens := gens, seq := k.seq + 1, tag := [] }
  let t := { t with tag := tableTag store t }
  let k := { k with gens := gens, seq := t.seq }
  if tableRank store k.tableA ≥ tableRank store k.tableB then { k with tableB := some t } else { k with tableA := some t }

/-- The newest valid copy under a storage key: the one of higher SEQ. -/
def newestTable (store : BitVec 512) (k : Key) : Option GenTable :=
  let a := tableRank store k.tableA
  let b := tableRank store k.tableB
  if a = 0 && b = 0 then none else if a ≥ b then k.tableA else k.tableB

/-- The generations and the sequence number in use: those of a table, 0 without one. -/
def useTable (t : Option GenTable) (k : Key) : Key :=
  { k with gens := t.elim (List.replicate 32 0) (·.gens), seq := t.elim 0 (·.seq) }

/-- Both copies are written with fresh generations. -/
def sealTable (store : BitVec 512) (s : State) : State :=
  let gens := (List.range 32).map (fun i => Config.freeValue (s.fresh + i) % 2 ^ 32)
  let t : GenTable := { gens := gens, seq := 0, tag := [] }
  let t := { t with tag := tableTag store t }
  modKey (fun k => useTable (some t) { k with tableA := some t, tableB := some t }) { s with fresh := s.fresh + 32 }

/-- The table at load (R468): the valid copy of higher SEQ; without one, fresh generations in both copies and 0xD008.
With the random source failed no generation is drawn (R471): nothing is resealed, and every generation reads 0 in that
boot (DESIGN CHOICE, log entry 14). -/
def loadTable (s : State) : State :=
  if s.key.offcut then modKey (useTable none) s
  else
    let store := (cellKey s.key 2).getD 0
    match newestTable store s.key with
    | some t => modKey (useTable (some t)) s
    | none =>
      if s.key.rngFail then modKey (useTable none) s
      else keyEvent 0xD008 0 (modKey (fun k => { k with resealed := true }) (sealTable store s))

/-- The storage key of a root and a life-cycle state (R464). -/
def storeKey (root : List Byte) (lc : Nat) : BitVec 512 := deriveKey root storeLabel 0xFF lc 0

/-- The copies that provisioning wrote, whose generations are open (log entry 5), stand from the first reset release on. -/
def shipTables (s : State) : State :=
  if s.key.tablesOpen then modKey (fun k => { k with tablesOpen := false }) (sealTable (storeKey Config.heartwood 1) s) else s

/-- KEY_GENd from a reset release to the load: those of the newest valid copy, 0 under the offcut root and without one,
and in SCRAPPED, where nothing is derived (R468, R473, R486). -/
def showTable (s : State) : State :=
  modKey (fun k => useTable (if k.offcut || k.lc = 4 then none else newestTable (storeKey Config.heartwood k.lc) k) k) s

/-- Drawers the image declares, ascending. -/
def declaredDrawers (img : List Section) : List Nat := (recs img 0x02).map (fun r => f8 r 0)

/-- The key core at load: the table, then the branch cells (R464). -/
def keyLoad (s : State) : State :=
  (declaredDrawers s.drw.image).foldl (fun (s : State) d => deriveCell (8 + d) s) (loadTable s)

/-! ### Reset release and debug (R460, R461, R473, R541, R543) -/

/-- The state of a set of fuse bits: the highest blown bit (R473). -/
def lcOf (fuses : Nat) : Nat :=
  if fuses.testBit 3 then 4 else if fuses.testBit 2 then 3 else if fuses.testBit 1 then 2 else if fuses.testBit 0 then 1 else 0

/-- OFFCUT_PENDING (R461). -/
def offcutPending (s : State) : Bool := s.key.offcutMram || s.rtc.offcutPending

/-- The boot nonce is drawn; with the random source failed there is none, and it reads 0 (R471, R476; DESIGN CHOICE, log
entry 14). -/
def drawNonce (s : State) : State :=
  if s.key.rngFail then s
  else
    let (r, s) := draw s
    modKey (fun k => { k with nonce := leBytes 32 r }) s

/-- The key core at reset release: life cycle, root, generations, nonce; debug is allowed outside DEPLOYED (R460, R461,
R476, R541). A tamper latched in DORMANT is reported (R482). -/
def keyRelease (s : State) : State :=
  let s := drawNonce s
  let lc := lcOf s.key.fuses
  let s := modKey (fun k => { k with lc := lc, offcut := offcutPending s, allowed := decide (lc ≠ 2) }) s
  let s := showTable (shipTables s)
  let s := if lc ≠ 2 then { s with dbg := { s.dbg with bypassOk := true }, enabled := s.enabled ++ [.dbg] } else s
  let s := if s.key.offcut then keyEvent 0xD00B 0 s else s
  if s.key.tamper.due then
    keyEvent 0xD003 s.key.tamper.time (modKey (fun k => { k with tamper := { k.tamper with due := false, latched := true } }) s)
  else s

/-- The root is rebuilt and the module cells derived: READY; no derivation in SCRAPPED (R464, R473, R487). -/
def keyReady (s : State) : State :=
  if s.key.lc = 4 then s
  else modKey (fun k => { k with ready := true }) (deriveCell 2 (deriveCell 1 (deriveCell 0 s)))

/-- Every working cell is wiped when debug is enabled (R543). -/
def wipeWorking (k : Key) : Key :=
  { k with cells := (enum k.cells).map (fun p =>
      if 64 ≤ p.1 && p.2.used then { p.2 with wiped := true, shareA := 0, shareB := 0 } else p.2) }

/-! ### Statements (R478, R479) -/

/-- Bytes of the tag area (R532). -/
def tagArea (s : State) : List Byte := memBytes s 0x43FFFE00 512

/-- Drawer checks were bypassed, debug was allowed, and so on: FLAGS of a statement. -/
def stmtFlags (s : State) : Nat :=
  bit s.key.allowed + 2 * bit s.key.debugUsed + 4 * bit s.key.bypassSeen + 8 * bit s.key.tamper.latched + 16 * bit s.rtc.osf +
    32 * bit (offcutPending s)

/-- PROGRAM_MEAS: the program set measurement the image in force carries (R81), 0 without an image in force. -/
def programMeas (s : State) : List Byte :=
  if s.drw.load ≠ 2 then List.replicate 32 0 else sub (forceSlot s).carcass 0x40 32

/-- CARCASS_MEAS: the measurement of the image in force, 0 without one (R84). -/
def carcassMeas (s : State) : List Byte := if s.drw.load ≠ 2 then List.replicate 32 0 else s.drw.meas

/-- A statement as captured at the instant of acceptance (R478, R479). -/
def statementOf (nonce : List Byte) (s : State) : List Byte :=
  [0x4A, 0x46, 0x41, 0x53, 1, b8 s.key.lc, if s.key.offcut then 2 else 1, b8 (stmtFlags s)] ++ identity s.key ++
    Config.shake256 (forceSlot s).runtime 32 ++ carcassMeas s ++ programMeas s ++ Config.shake256 (tagArea s) 32 ++
    leBytes 8 s.stk.tn ++ nonce ++ [b8 s.rtc.epoch, b8 (modeCode s.sys.mode), 0, 0] ++ leBytes 4 s.drw.serial ++
    leBytes 4 s.evr.cycles ++ [0, 0, 0, 0] ++
    Config.shake256 (Config.falconPublic (keyBytes (attestSeed s.key s.key.lc))) 32

/-- The reason an attestation is refused (R479, R471): 0 none. -/
def attestReason (s : State) : Nat :=
  if s.key.lc = 4 then 2 else if s.sys.tamperHold then 4 else if s.key.rngFail then 6
  else if (cellKey (refreshCell 1 s).key 1).isNone then 0xC else 0

/-- The response of an attestation: statement, 2-byte length, signature. -/
def attestResponse (stmt : List Byte) (s : State) : List Byte × State :=
  let (r, s) := draw s
  let g := Config.falconSign (keyBytes ((cellKey s.key 1).getD 0)) stmt r
  (stmt ++ leBytes 2 g.length ++ g, s)

/-! ### Commands (R472 to R477) -/

/-- The public key of a slot (R472). -/
def slotKey (k : Key) (n : Nat) : List Byte := if n = 0 then Config.liduora else (k.slots.getD n {}).key

/-- The identifier of a public key (R472). -/
def keyIdent (key : List Byte) : List Byte := Config.shake256 key 8

/-- The slot whose key must sign a command (R474); none where no signature is required. -/
def signerOf (lc op target : Nat) : Option Nat :=
  match op with
  | 2 => if lc = 0 && target = 1 then some 0 else if lc = 1 && target = 2 || lc = 2 then some 1 else none
  | 3 | 5 | 6 => if lc = 2 then some 1 else none
  | _ => none

/-- The transitions of R474. -/
def legalMove (lc target : Nat) : Bool :=
  (target = lc + 1 && lc < 3) || (target = 4 && lc < 4)

/-- What a command's signature covers (R477). -/
def signedBytes (s : State) (op rsp : Nat) (payload : List Byte) : List Byte :=
  [b8 op, 0] ++ leBytes 2 payload.length ++ leBytes 4 rsp ++ payload ++ identity s.key ++ s.key.nonce

/-- The payload has the form of its opcode (R477). -/
def payloadOk (op : Nat) (p : List Byte) : Bool :=
  match op with
  | 1 => p.length = 32
  | 2 => if f8 p 0 = 1 then p.length > 1 else p.length = 1
  | 3 => f8 p 0 < 8 && sub p 1 3 = [0, 0, 0] && (p.length = 4 || p.length = 1797)
  | 4 => p.length = 1 && f8 p 0 < 32
  | 5 | 6 => p.isEmpty
  | _ => false

/-- Neither copy of the table is valid. -/
def noTable (s : State) : Bool := (newestTable ((cellKey (refreshCell 2 s).key 2).getD 0) s.key).isNone

/-- The reason a branch cannot be invalidated (R462, R468, R471): 0 none. -/
def branchReason (s : State) (d : Nat) : Nat :=
  if s.key.offcut then 2 else if noTable s && s.key.rngFail then 6 else if s.key.gens.getD d 0 ≥ 2 ^ 32 - 1 then 5
  else if (cellKey (refreshCell 2 s).key 2).isNone then 0xC else 0

/-- A transition that signs a certificate needs the root and the attestation seed (R475, R482). -/
def transitionKeys (s : State) : Bool :=
  (cellKey (refreshCell 0 s).key 0).isSome && (cellKey (refreshCell 1 s).key 1).isSome

/-- The reason a command is refused when it starts: FORMAT, STATE, SIGNATURE, then what the opcode adds (R474, R490). -/
def commandReason (s : State) (op rsp : Nat) (payload sig : List Byte) : Nat :=
  let target := f8 payload 0
  if s.key.lc = 4 then 2
  else if !payloadOk op payload then 3
  else if op = 2 && !legalMove s.key.lc target then 2
  else if op = 3 && target = 0 then 2
  else if op = 5 && s.key.tamper.loopBad then 2
  else if op = 6 && s.key.debugUsed then 2
  else if (signerOf s.key.lc op target).elim false (fun n =>
      (slotKey s.key n).isEmpty || !Config.falconVerifies (slotKey s.key n) (signedBytes s op rsp payload) sig) then 1
  else if op = 1 then attestReason s
  else if op = 2 && (target = 2 || target = 3) && s.key.rngFail then 6
  else if op = 2 && (target = 2 || target = 3) && !transitionKeys s then 0xC
  else if op = 4 then branchReason s target
  else 0

/-! ### Requests (R466) -/

/-- Working cells a drawer holds. -/
def heldCells (k : Key) (d : Nat) : Nat := ((k.cells.drop 64).filter (fun c => c.used && c.drawer = d)).length

/-- The lowest free working cell. -/
def freeCell (k : Key) : Option Nat := ((enum k.cells).find? (fun p => 64 ≤ p.1 && !p.2.used)).map (·.1)

/-- The reason a request is refused when it starts, 0 none (R464 to R468, R471, R543). -/
def requestReason (s : State) (r : KeyReq) : Nat :=
  let uses := fun (h : Nat) => if s.key.debugUsed then 2 else handleReason s r.drawer h
  let leaf := fun (h : Nat) => if uses h ≠ 0 then uses h else if fld h 16 8 < 64 then 2 else 0
  match r.op with
  | .derive_ h label =>
    if uses h ≠ 0 then uses h
    else if label.length < 1 || label.length > 32 then 3
    else if (cell s.key (fld h 16 8)).level ≥ 3 || heldCells s.key r.drawer ≥ 32 || (freeCell s.key).isNone then 0xD
    else 0
  | .digest h data => if leaf h ≠ 0 then leaf h else if data.length < 1 || data.length > 65536 then 3 else 0
  | .sign h _ => if leaf h ≠ 0 then leaf h else if s.key.rngFail then 6 else 0
  | .pub h => leaf h
  | .invalidate h =>
    if fld h 16 8 < 8 then 2
    else if handleReason s r.drawer h ≠ 0 then handleReason s r.drawer h
    else if fld h 16 8 < 64 then branchReason s r.drawer else 0
  | .random _ n => if n < 1 || n > 256 then 3 else if s.key.rngFail then 6 else 0
  | .statement _ => attestReason s
  | .command op rsp p sig => commandReason s op rsp p sig

/-- The cell a request works on. -/
def requestCell (op : KeyOp) : Option Nat :=
  match op with
  | .derive_ h _ | .digest h _ | .sign h _ | .pub h | .invalidate h => some (fld h 16 8)
  | .random _ _ => none
  | .statement _ => some 1
  | .command c _ p _ => if c = 1 then some 1 else if c = 2 then some 0 else if c = 4 then some (8 + f8 p 0) else none

/-- Cells whose shares a request uses (R470, R482): a transition that signs a certificate those of the root and the
attestation seed, an invalidation of a branch that of the storage key, which tags the table (R468, R475). -/
def requestCells (op : KeyOp) : List Nat :=
  match op with
  | .command c _ p _ => if c = 1 then [1] else if c = 2 && (f8 p 0 = 2 || f8 p 0 = 3) then [0, 1] else if c = 4 then [2] else []
  | .invalidate h => if fld h 16 8 < 64 then [2] else [fld h 16 8]
  | op => (requestCell op).toList

/-- The key core takes the next request: its checks, and what it captures (R465, R484). -/
def startNext (s : State) : State :=
  if s.key.running.isSome then s
  else
    match s.key.queue with
    | [] => s
    | r :: rest =>
      let s := (requestCell r.op).elim s (fun i => refreshCell i s)
      let why := requestReason s r
      let i := requestCell r.op
      modKey (fun k => { k with
        queue := rest,
        running := some { r with reason := why, cell := i, key := (i.bind (cellKey k)).getD 0, gen := i.elim 0 (cellGen k) } }) s

/-- A request joins the queue: the service initiator's go ahead of drawers'; false when the queue is full (R466). -/
def enqueue (r : KeyReq) (s : State) : Bool × State :=
  if s.key.queue.length ≥ 16 then (false, s)
  else
    let q := s.key.queue
    let q := if r.asker.isNone then q.filter (fun x => x.asker.isNone) ++ [r] ++ q.filter (fun x => x.asker.isSome) else q ++ [r]
    (true, startNext (modKey (fun k => { k with queue := q }) s))

/-- A task asks the key core; BUSY when the queue is full (R466). -/
def askKey (c : Nat) (op : KeyOp) (s : State) : State :=
  match drivenBy s c with
  | none => { s with answer := .refused }
  | some (n, _, _) =>
    let r : KeyReq := { op := op, asker := some (c, n), drawer := taskDrawer s n }
    let r := match op with | .statement x => { r with stmt := statementOf x s } | _ => r
    let (ok, s) := enqueue r s
    { s with answer := if ok then .none else .reason 8 }

/-- A command is refused: KEY_CMD_STATUS and event 0xD006 (R477, R490). -/
def commandRefused (op reason : Nat) (s : State) : State :=
  keyEvent 0xD006 (op % 256 * 2 ^ 24 + reason)
    (modKey (fun k => { k with cmdState := 3, cmdReason := reason, cmdOp := op % 256, rspLen := 0 }) s)

/-- A command starts; while one runs it is ignored (R477). -/
def keyCommand (op rsp : Nat) (payload sig : List Byte) (s : State) : State :=
  if s.key.cmdState = 1 then s
  else
    let r : KeyReq := { op := .command op rsp payload sig, stmt := if op = 1 then statementOf payload s else [] }
    let (ok, t) := enqueue r (modKey (fun k => { k with cmdState := 1, cmdReason := 0, cmdOp := op % 256, rspLen := 0 }) s)
    if ok then t else commandRefused op 8 s

/-! ### What requests do (R463 to R468, R472 to R475, R483) -/

/-- A cell is wiped, freed and its generation raised (R467). -/
def freeKeyCell (i : Nat) (k : Key) : Key :=
  modCell i (fun c => { c with used := false, wiped := true, shareA := 0, shareB := 0, gen := c.gen + 1 }) k

/-- The cell descends from another. -/
def descends (fuel : Nat) (k : Key) (i top : Nat) : Bool :=
  match fuel with
  | 0 => false
  | fuel + 1 => 64 ≤ i && ((cell k i).parent = top || descends fuel k (cell k i).parent top)

/-- A working cell and every working cell below it are destroyed (R467). -/
def invalidateCell (i : Nat) (k : Key) : Key :=
  let below := (List.range 256).filter (fun j => (cell k j).used && descends 4 k j i)
  (i :: below).foldl (fun k j => freeKeyCell j k) k

/-- A branch is invalidated: its generation in the table first, then its working cells; event 0xD007 (R467, R485). A
table that is not valid is resealed before, as at the load (R468; DEDUCED, log entry 14). -/
def invalidateBranch (d : Nat) (s : State) : State :=
  let s := refreshCell 2 s
  let s := if noTable s then loadTable s else s
  let g := s.key.gens.getD d 0 + 1
  let mine := (List.range 256).filter (fun j => 64 ≤ j && (cell s.key j).used && (cell s.key j).drawer = d)
  keyEvent 0xD007 (d * 2 ^ 24 + g % 2 ^ 24)
    (modKey (fun k => mine.foldl (fun k j => freeKeyCell j k) (writeTable (lmod k.gens d (fun _ => g)) k)) s)

/-- A public key slot changes: event 0xD00C (R472, R485). -/
def setSlot (n : Nat) (key : List Byte) (enrol : Bool) (s : State) : State :=
  keyEvent 0xD00C (bit key.isEmpty * 2 ^ 8 + n)
    (modKey (fun k => { k with
      slots := lmod k.slots n (fun x => { key := key, changes := if enrol then sat 8 x.changes 1 else x.changes }) }) s)

/-- Step 1 of a transition (R475): certificates and emptied slots; the fuse bit is then being programmed. -/
def beginTransition (target : Nat) (payload : List Byte) (s : State) : State :=
  let s := if target = 1 then modKey (fun k => { k with idCert := payload.drop 1 }) s else s
  let s := if target = 2 || target = 3 then
      let s := refreshCell 1 s
      let body := identity s.key ++ [b8 s.key.lc, b8 target] ++ Config.falconPublic (keyBytes (attestSeed s.key target))
      let (r, s) := draw s
      let g := Config.falconSign (keyBytes ((cellKey s.key 1).getD 0)) body r
      modKey (fun k => { k with transCerts := k.transCerts ++ [body ++ leBytes 2 g.length ++ g] }) s
    else s
  let held := ((List.range 7).map (· + 1)).filter (fun n => !(slotKey s.key n).isEmpty)
  let s := if target = 3 then held.foldl (fun s n => setSlot n [] false s) s else s
  modKey (fun k => { k with fusing := some target }) s

/-- TAMPER_CLEAR (R483). -/
def clearTamper (s : State) : State :=
  keyEvent 0xD00D s.key.tamper.count
    (modKey (fun k => { k with tamper := { k.tamper with latched := false, cause := 0, mode := 0, count := 0, time := 0, due := false } }) s)

/-- A command is done (R490). -/
def commandDone (len : Nat) (s : State) : State := modKey (fun k => { k with cmdState := 2, cmdReason := 0, rspLen := len }) s

/-- ROOT_RESTORE: OFFCUT_PENDING clears, in a boot in which debug was not enabled (R461). -/
def restoreRoot (s : State) : State :=
  if s.key.debugUsed then commandRefused 6 2 s
  else commandDone 0 (modRtc (fun b => { b with offcutPending := false }) (modKey (fun k => { k with offcutMram := false }) s))

/-- The effect of a command that was not refused. -/
def runCommand (op rsp : Nat) (payload : List Byte) (r : KeyReq) (s : State) : State :=
  match op with
  | 1 =>
    let (resp, s) := attestResponse r.stmt s
    let (ok, s) := dmaAccess none true rsp resp.length s
    if ok then commandDone resp.length (putBytes rsp resp s) else commandRefused op 7 s
  | 2 => beginTransition (f8 payload 0) payload s
  | 3 => commandDone 0 (setSlot (f8 payload 0) (payload.drop 4) true s)
  | 4 => commandDone 0 (invalidateBranch (f8 payload 0) s)
  | 5 => commandDone 0 (clearTamper s)
  | _ => restoreRoot s

/-- A derived key enters a working cell; the handle (R463, R464). -/
def newCell (parent : Nat) (label : List Byte) (r : KeyReq) (s : State) : State :=
  match freeCell s.key with
  | none => { s with answer := .reason 0xD }
  | some i =>
    let s := fillCell i r.drawer parent r.gen ((cell s.key parent).level + 1) label
      (deriveKey (keyBytes r.key) label r.drawer s.key.lc r.gen) s
    { s with answer := .value (handle s i) }

/-- Random bytes into a task's buffer (R466, R471); the task's own windows are checked. -/
def fillRandom (c buf n : Nat) (s : State) : State :=
  let (r, s) := draw s
  let l := leBytes n r
  let slot := ((s.cores.getD c {}).driving)
  if (pageStarts buf n).all (memAllows s.drw.image (some (coreTag s c)) slot true true) then
    { putBytes buf l s with answer := .bytes l }
  else { coreRefused c 1 0 buf s with answer := .refused }

/-- The result of a request that was not refused. -/
def requestResult (r : KeyReq) (s : State) : State :=
  match r.op with
  | .derive_ h label => newCell (fld h 16 8) label r s
  | .digest _ data => { s with answer := .bytes (Config.shake256 (keyBytes r.key ++ data) 32) }
  | .sign _ data =>
    let (n, s) := draw s
    { s with answer := .bytes (Config.falconSign (keyBytes r.key) data n) }
  | .pub _ => { s with answer := .bytes (Config.falconPublic (keyBytes r.key)) }
  | .invalidate h =>
    let i := fld h 16 8
    if i < 64 then { invalidateBranch r.drawer s with answer := .none }
    else { modKey (invalidateCell i) s with answer := .none }
  | .random buf n => match r.asker with | some (c, _) => fillRandom c buf n s | none => s
  | .statement _ =>
    let (resp, s) := attestResponse r.stmt s
    if r.peer.isSome then ownUp 0xFF true (.attest (.statement resp)) s else { s with answer := .bytes resp }
  | .command op rsp p _ => runCommand op rsp p r s

/-- The request ends: cells whose round waited are re-masked, and the next request starts (R466, R470). -/
def endRequest (s : State) : State :=
  let s := s.key.lateMask.foldl (fun (s : State) i =>
    let (r, s) := draw s
    let m := BitVec.ofNat 512 r
    modKey (modCell i (fun c => if c.used && !c.wiped then { c with shareA := c.shareA ^^^ m, shareB := c.shareB ^^^ m } else c)) s) s
  startNext (modKey (fun k => { k with running := none, lateMask := [] }) s)

/-- The key core has finished its request: result or refusal (R466). A life-cycle command goes on until its fuse is
programmed (R475). -/
def finishRequest (s : State) : State :=
  match s.key.running with
  | none => s
  | some r =>
    if s.key.fusing.isSome then s
    else if r.withdrawn then endRequest s
    else if r.reason ≠ 0 then
      match r.op with
      | .command op _ _ _ => endRequest (commandRefused op r.reason s)
      | _ => endRequest { s with answer := .reason r.reason }
    else
      let s := requestResult r s
      if s.key.fusing.isSome then s else endRequest s

/-! ### The rows -/

/-- `KEY_REQUEST_DONE`. -/
def execKeyRequestDone (s : State) : Host.Outcome State Fault Refusal := .next (finishRequest s)

/-- `FUSE_PROGRAMMED` (R475): the bit is blown, the transition takes effect at the next reset; event 0xD005. -/
def execFuseProgrammed (s : State) : Host.Outcome State Fault Refusal :=
  match s.key.fusing with
  | none => .next s
  | some t =>
    let s := modKey (fun k => { k with fuses := bset k.fuses (t - 1), pending := true, target := t, fusing := none }) s
    .next (endRequest (commandDone 0 (keyEvent 0xD005 (s.key.lc * 2 ^ 8 + t) s)))

/-- `ATTEST_COMMAND`: opcode 0x01. -/
def execAttestCommand (rsp : Nat) (nonce : List Byte) (s : State) : Host.Outcome State Fault Refusal :=
  .next (keyCommand 1 rsp nonce [] s)
/-- `LC_ADVANCE`: opcode 0x02. -/
def execLcAdvance (target : Nat) (cert sig : List Byte) (s : State) : Host.Outcome State Fault Refusal :=
  .next (keyCommand 2 0 (b8 target :: cert) sig s)
/-- `ENROL`: opcode 0x03. -/
def execEnrol (slot : Nat) (key sig : List Byte) (s : State) : Host.Outcome State Fault Refusal :=
  .next (keyCommand 3 0 ([b8 slot, 0, 0, 0] ++ key) sig s)
/-- `INVALIDATE_BRANCH`: opcode 0x04. -/
def execInvalidateBranch (drawer : Nat) (s : State) : Host.Outcome State Fault Refusal := .next (keyCommand 4 0 [b8 drawer] [] s)
/-- `TAMPER_CLEAR`: opcode 0x05. -/
def execTamperClear (sig : List Byte) (s : State) : Host.Outcome State Fault Refusal := .next (keyCommand 5 0 [] sig s)
/-- `ROOT_RESTORE`: opcode 0x06. -/
def execRootRestore (sig : List Byte) (s : State) : Host.Outcome State Fault Refusal := .next (keyCommand 6 0 [] sig s)

/-- `KEY_BRANCH`: the handle of the drawer's branch (R464). -/
def execKeyBranch (core : Fin 16) (s : State) : Host.Outcome State Fault Refusal :=
  match drivenBy s core.val with
  | none => .next { s with answer := .refused }
  | some (n, _, _) => .next { s with answer := .value (handle s (8 + taskDrawer s n)) }
/-- `KEY_DERIVE`. -/
def execKeyDerive (core : Fin 16) (parent : Nat) (label : List Byte) (s : State) : Host.Outcome State Fault Refusal :=
  .next (askKey core.val (.derive_ parent label) s)
/-- `KEY_DIGEST`. -/
def execKeyDigest (core : Fin 16) (h : Nat) (data : List Byte) (s : State) : Host.Outcome State Fault Refusal :=
  .next (askKey core.val (.digest h data) s)
/-- `KEY_SIGN`. -/
def execKeySign (core : Fin 16) (h : Nat) (data : List Byte) (s : State) : Host.Outcome State Fault Refusal :=
  .next (askKey core.val (.sign h data) s)
/-- `KEY_PUBLIC`. -/
def execKeyPublic (core : Fin 16) (h : Nat) (s : State) : Host.Outcome State Fault Refusal := .next (askKey core.val (.pub h) s)
/-- `KEY_INVALIDATE`. -/
def execKeyInvalidate (core : Fin 16) (h : Nat) (s : State) : Host.Outcome State Fault Refusal :=
  .next (askKey core.val (.invalidate h) s)
/-- `RANDOM`. -/
def execRandom (core : Fin 16) (buf n : Nat) (s : State) : Host.Outcome State Fault Refusal :=
  .next (askKey core.val (.random buf n) s)

/-- `ATTEST`: drawer 0 alone requests a statement (R479). -/
def execAttest (core : Fin 16) (nonce : List Byte) (s : State) : Host.Outcome State Fault Refusal :=
  match drivenBy s core.val with
  | none => .next { s with answer := .refused }
  | some (n, _, _) =>
    if taskDrawer s n = 0 then .next (askKey core.val (.statement nonce) s) else .next { s with answer := .refused }

/-- `KEY_REMASK`: a masking round (R470); a cell in use by an operation follows at its end. -/
def execKeyRemask (s : State) : Host.Outcome State Fault Refusal :=
  if !s.key.ready || s.key.rngFail then .next s
  else
    let busy := s.key.running.elim [] (fun r => requestCells r.op)
    let mask := fun (i : Nat) => BitVec.ofNat 512 (Config.freeValue (s.fresh + i))
    let cells := (enum s.key.cells).map (fun p =>
      if p.2.used && !p.2.wiped && !busy.contains p.1 then
        { p.2 with shareA := p.2.shareA ^^^ mask p.1, shareB := p.2.shareB ^^^ mask p.1 } else p.2)
    .next { modKey (fun k => { k with cells := cells, lateMask := busy, remask := sat 32 k.remask 1 }) s with
      fresh := s.fresh + 256 }

/-- `RNG_HEALTH_FAIL` (R471). -/
def execRngHealthFail (proportion : Bool) (s : State) : Host.Outcome State Fault Refusal :=
  .next (keyEvent 0xD009 (bit proportion) (modKey (fun k => { k with rngFail := true }) s))

/-- `RNG_SELF_TEST` (R471). -/
def execRngSelfTest (passed : Bool) (s : State) : Host.Outcome State Fault Refusal :=
  if passed then .next (modKey (fun k => { k with rngFail := false }) s) else .next s

/-- `KEY_RNG_READ`: 32 fresh random bits, a free value (R471, R486). -/
def execKeyRngRead (s : State) : Host.Outcome State Fault Refusal :=
  let (r, s) := draw s
  .next { s with answer := .value (r % 2 ^ 32) }

/-! ### Tamper (R481 to R484) -/

/-- Operation code of a request in 0xD004 (R485). The manual gives none for the other requests: a free value. -/
def abortCode (op : KeyOp) (free : Nat) : Nat :=
  match op with
  | .derive_ _ _ => 1
  | .digest _ _ => 2
  | .sign _ _ => 3
  | .pub _ => 4
  | .command _ _ _ _ => 5
  | .statement _ => 5
  | _ => free % 256

/-- The running request is aborted by a detection: its cells are wiped, it ends with reason TAMPER; a fuse bit whose
programming has begun completes (R482, R484). `report` records 0xD004. -/
def abortKey (report : Bool) (s : State) : State :=
  match s.key.running with
  | none => s
  | some r =>
    if s.key.fusing.isSome || r.reason ≠ 0 then s
    else
      let s := modKey (fun k =>
        (requestCells r.op).foldl (fun k i => wipeCell i k) { k with running := some { r with reason := 4, key := 0 } }) s
      if report then
        let (n, s) := draw s
        keyEvent 0xD004 (abortCode r.op n * 2 ^ 24 + r.cell.getD 0 * 2 ^ 16) s
      else s

/-- The record of a detection (R482, R483): COUNT, and on the first while LATCHED is 0 the record. The volatile key slots
clear but at start-up, where the table has it otherwise (R482). -/
def noteTamper (cause : Nat) (t : Tamper) (startUp dormant : Bool) (mode time : Nat) : Tamper :=
  let t := { t with count := sat 16 t.count 1, sessions := if startUp then t.sessions else [] }
  if t.latched || t.due then t
  else { t with latched := !dormant, due := dormant, cause := cause, mode := mode, time := time }

/-- A detection (R482), by the moment at which it falls. Start-up lasts until "Load done": a load that failed has not
reached it. At start-up the load stops; the mode changes from RIGGING alone: R51 has no move from DEBUG to HOLD. -/
def detect (cause : Nat) (s : State) : State :=
  let dormant := decide (s.sys.boot = .off)
  let startUp := s.sys.boot = .released || s.sys.boot = .clocked || s.sys.boot = .tested || s.sys.tamperHold ||
    (s.sys.boot = .loaded && s.drw.load ≠ 2)
  let mode := if dormant then 0 else modeCode s.sys.mode
  let s := modKey (fun k => { k with tamper := noteTamper cause k.tamper startUp dormant mode s.rtc.seconds }) s
  if dormant then s
  else
    let s := keyEvent 0xD002 (cause * 2 ^ 28 + mode * 2 ^ 25 + bit startUp) s
    if startUp then
      let s := abortKey false s
      let s := modKey (fun k => (List.range 256).foldl (fun k i => if (cell k i).used then wipeCell i k else k) k) s
      let s := { s with sys := { s.sys with tamperHold := true } }
      if s.sys.mode = .rigging then enterMode .hold s else s
    else abortKey true s

/-- `TAMPER_SAMPLE`: a sample of the loop, in ohms; a detection while TAMPER_EN is set (R481, R491). -/
def execTamperSample (ohms : Nat) (s : State) : Host.Outcome State Fault Refusal :=
  if !s.rtc.valid then .next s
  else
    let cause := if ohms > 20000 then 1 else if ohms < 5000 then 2 else 0
    let s := modKey (fun k => { k with tamper := { k.tamper with loopBad := decide (cause ≠ 0) } }) s
    if cause = 0 || !s.rtc.tamperEn then .next s else .next (detect cause s)

end Sys2Proof.Machine
end

