-- ==== Sys2Proof/Machine/Carcass.lean ====
section
/-! DEFINITION. A carcass image as bytes: header, directory, sections, and the load checks of codes 1 to 8
(R80 to R94, R97, R587, and the code 8 rules of each block). -/
namespace Sys2Proof.Machine

/-- A finding of the loader: failure code, section type, record index (R587). -/
abbrev Finding := Nat × Nat × Nat

/-- A finding when a check fails. -/
def ck (code sect idx : Nat) (bad : Bool) : Option Finding := if bad then some (code, sect, idx) else none

/-- The first record that fails a check, its index saturating at 0xFFFF. -/
def firstBad (code sect : Nat) (l : List Rec) (bad : Nat → Rec → Bool) : Option Finding :=
  ((enum l).find? (fun p => bad p.1 p.2)).map (fun p => (code, sect, min p.1 0xFFFF))

/-- All bytes are 0x00. -/
def zeros (l : List Byte) : Bool := l.all (· = 0)

/-- A number lies outside a range. -/
def out (n lo hi : Nat) : Bool := n < lo || n > hi

/-- Two signature blocks and the signed parts depend on what the slot and the module hold. -/
structure LoadCtx where
  /-- runtime and program set of the same slot -/
  runtime : List Byte
  program : List Byte
  /-- DRW_SERIAL_FLOOR -/
  floor : Nat
  /-- public keys of slots 0 to 7 -/
  keys : List (List Byte)
  /-- identity digest of the module (R81) -/
  ident : List Byte

/-! ### Header and directory (R81, R82) -/

/-- Directory entry `i`. -/
def dirEntry (img : List Byte) (i : Nat) : List Byte := sub img (0x100 + 32 * i) 32
/-- SECT_COUNT. -/
def sectCount (img : List Byte) : Nat := f16 img 0x0C
/-- The directory entries. -/
def dirEntries (img : List Byte) : List (List Byte) := (List.range (sectCount img)).map (dirEntry img)

/-- The section an entry names. -/
def sectionOf (img : List Byte) (d : List Byte) : Section :=
  { type := f8 d 0, flags := f16 d 2, count := f32 d 0x0C, recSize := f16 d 0x10, body := sub img (f32 d 4) (f32 d 8) }

/-- The sections, in directory order. -/
def parseImage (img : List Byte) : List Section := (dirEntries img).map (sectionOf img)

/-- A body lies outside the image. -/
def entryOutside (img d : List Byte) : Bool := f32 d 4 + f32 d 8 > f32 img 8

/-- IMAGE_LEN is the total length: the life-safety signature block comes last (R80, R81). -/
def lengthWrong (img : List Byte) : Bool := f32 img 8 ≠ f32 img 0x2C + 1536

/-- Code 1 (R97). -/
def check1 (img : List Byte) : Option Finding :=
  let len := f32 img 8
  ck 1 0 0xFFFF (img.length < 0x100 || f32 img 0 ≠ 0x4943464A || f8 img 4 ≠ 1 || f16 img 6 ≠ 0x100 || f32 img 0x24 ≠ 0x100 ||
    len % 16 ≠ 0 || out len 8192 33554432 || lengthWrong img || img.length < len || f32 img 0xFC ≠ crc32c (sub img 0 0xFC) ||
    0x100 + 32 * sectCount img > len || (dirEntries img).any (entryOutside img))

/-- Version of a runtime (R494). -/
def runtimeVersion (rt : List Byte) : Nat := f32 rt 4

/-- Code 2 (R97). -/
def check2 (x : LoadCtx) (img : List Byte) : Option Finding :=
  ck 2 0 0xFFFF (f32 img 0x10 ≠ 0x6400 || !(f8 img 0x14).testBit (bit Config.orderX) || f32 img 0x18 > runtimeVersion x.runtime ||
    sub img 0x40 32 ≠ Config.shake256 x.program 32 || ((f16 img 0x0E).testBit 0 && sub img 0x60 32 ≠ x.ident))

/-- A held key among some slots with an identifier (R472). -/
def keyNamed (x : LoadCtx) (slots : List Nat) (id : List Byte) : Option (List Byte) :=
  (slots.map (fun n => x.keys.getD n [])).find? (fun k => !k.isEmpty && keyIdent k = id)

/-- A signature block verifies over a message with the key that an identifier names (R83). The bytes of the block after
the signature are not looked at: the spec names no check of them (DESIGN CHOICE, log entry 30). -/
def sigOk (x : LoadCtx) (slots : List Nat) (id msg block : List Byte) : Bool :=
  let n := f16 block 0
  match keyNamed x slots id with
  | some k => 1 ≤ n && n ≤ 1462 && block.length = 1536 && Config.falconVerifies k msg (sub block 2 n)
  | none => false

/-- What the carcass signature and the measurement cover (R83, R84). -/
def signedPart (img : List Byte) : List Byte := sub img 0 (f32 img 0x28)

/-- Code 3 (R97). -/
def check3 (x : LoadCtx) (img : List Byte) : Option Finding :=
  ck 3 0 0xFFFF (!sigOk x [2, 3, 4, 5] (sub img 0x30 8) (signedPart img) (sub img (f32 img 0x28) 1536))

/-- Body of the JIG section. -/
def jigBody (secs : List Section) : List Byte := (sect secs 0x07).elim [] (·.body)

/-- Code 4 (R97). -/
def check4 (x : LoadCtx) (img : List Byte) : Option Finding :=
  ck 4 0 0xFFFF (!sigOk x [6, 7] (sub img 0x38 8) (sub img 0 0x40 ++ jigBody (parseImage img)) (sub img (f32 img 0x2C) 1536))

/-- Code 5 (R97): the first section whose CRC fails. -/
def check5 (img : List Byte) : Option Finding :=
  ((dirEntries img).find? (fun d => f32 d 0x14 ≠ crc32c (sub img (f32 d 4) (f32 d 8)))).map (fun d => (5, f8 d 0, 0xFFFF))

/-- Code 6 (R97). -/
def check6 (x : LoadCtx) (img : List Byte) : Option Finding := ck 6 0 0xFFFF (f32 img 0x1C < x.floor)

/-! ### Structure, code 7 (R85 to R97) -/

/-- Record size of a type (R85); none for an unknown type, 0 where it varies. -/
def recSizeOf (t : Nat) : Option Nat :=
  match t with
  | 1 => some 64 | 2 => some 32 | 3 => some 8 | 4 => some 16 | 5 => some 32 | 6 => some 32 | 7 => some 32 | 8 => some 128
  | 9 => some 16 | 0xA => some 32 | 0xB => some 16 | 0xC => some 16 | 0xD => some 32 | 0xE => some 16 | 0xF => some 64
  | 0x7F => some 0
  | _ => none

/-- Required types (R85). -/
def requiredTypes : List Nat := [1, 2, 3, 4, 5, 6, 7, 0xD]

/-- Records of a section. -/
def secRecs (x : Section) : List Rec := chunks (x.body.take (x.count * x.recSize)) x.recSize x.count

/-- LENGTH agrees with COUNT, REC_SIZE and the trailer of the type (R82, R91, R92, R280). -/
def lengthOk (x : Section) : Bool :=
  let n := x.body.length
  match x.type with
  | 1 => x.count = 1 && n = 64
  | 6 => n ≥ 32 * x.count && (n - 32 * x.count) % 8 = 0
  | 7 => x.count = 128 && n = jigBytes
  | 8 => n = 128 * x.count + 24 * ((secRecs x).foldl (fun a r => a + f8 r 0x12) 0)
  | 0x7F => true
  | _ => n = x.count * x.recSize

/-- The first position at which a list does not rise strictly. -/
def disorder (l : List Nat) : Option Nat :=
  ((enum (l.zip (l.drop 1))).find? (fun p => p.2.1 ≥ p.2.2)).map (fun p => p.1 + 1)

/-- The record out of order in a POOLS body (R87): the spare-seat record first, then the pools ascending. A body without
that record first is blamed on record 0, an empty one on the section (DESIGN CHOICE, log entry 30). -/
def poolsDisorder (rs : List Rec) : Option Nat :=
  if rs.isEmpty then some 0xFFFF
  else
    ((enum rs).find? (fun p =>
      let before := rs.getD (p.1 - 1) []
      if p.1 = 0 then f8 p.2 0 ≠ 2 else f8 p.2 0 = 2 || (p.1 > 1 && f8 before 1 ≥ f8 p.2 1))).map (·.1)

/-- The record out of order in a section, for the types that code 7 orders. -/
def secDisorder (x : Section) : Option Nat :=
  let rs := secRecs x
  match x.type with
  | 2 => disorder (rs.map (fun r => f8 r 0))
  | 3 => poolsDisorder rs
  | 5 => disorder (rs.map ptIndex)
  | 6 => disorder (rs.map tkSlot)
  | 8 => disorder (rs.map lpSlot)
  | _ => none

/-- A number rounded up to a multiple of 16. -/
def up16 (n : Nat) : Nat := (n + 15) / 16 * 16

/-- Where the body of directory entry `i` begins: after the directory, or after the body before it and its padding (R80). -/
def bodyPlace (img : List Byte) (i : Nat) : Nat :=
  if i = 0 then 0x100 + 32 * sectCount img else up16 (f32 (dirEntry img (i - 1)) 4 + f32 (dirEntry img (i - 1)) 8)

/-- Bodies overlap, one does not lie between the directory and SIG_OFFSET (R82), or the bodies do not follow one another in
directory order up to the signature, with zero padding alone between them (R80). An OFFSET that is no multiple of 16 is a
finding of code 8. -/
def misplaced (img : List Byte) (i : Nat) : Bool :=
  let d := dirEntry img i
  let a := f32 d 4
  let n := f32 d 8
  a < 0x100 + 32 * sectCount img || a + n > f32 img 0x28 ||
    ((List.range i).map (dirEntry img)).any (fun e => a < f32 e 4 + f32 e 8 && f32 e 4 < a + n) ||
    (a % 16 = 0 && (a ≠ bodyPlace img i || !zeros (sub img (a + n) (up16 (a + n) - (a + n))) ||
      (i + 1 = sectCount img && up16 (a + n) ≠ f32 img 0x28)))

/-- Code 7 (R97): one section after another in directory order, then the missing ones. The spec names no code for a
misplaced body; the model takes this one (DESIGN CHOICE, log entry 30). -/
def check7 (img : List Byte) : Option Finding :=
  let secs := parseImage img
  let one := (enum secs).findSome? (fun p =>
    let x := p.2
    let t := x.type
    if (recSizeOf t).isNone || (secs.take p.1).any (fun y => y.type = t) || misplaced img p.1 then some (7, t, 0xFFFF)
    else if (t ≠ 0x7F && recSizeOf t ≠ some x.recSize) || !lengthOk x then some (7, t, 0xFFFF)
    else (secDisorder x).map (fun i => (7, t, i)))
  match one with
  | some f => some f
  | none => (requiredTypes.find? (fun t => (sect secs t).isNone)).map (fun t => (7, t, 0xFFFF))

/-! ### Ranges, code 8 -/

/-- The header fields (R81). Reserved bytes are not looked at, here or in a directory entry: the spec names no check of
them and no code (DESIGN CHOICE, log entry 30). -/
def badHeader (img : List Byte) : Bool :=
  out (sectCount img) 8 32 || f16 img 0x0E > 1 || out (f8 img 0x14) 1 3 || out (f32 img 0x1C) 1 0xFFFFFFFE ||
    f32 img 0x2C ≠ f32 img 0x28 + 1536 || (!(f16 img 0x0E).testBit 0 && !zeros (sub img 0x60 32))

/-- A directory entry's fields (R82), its reserved bytes apart (DESIGN CHOICE, log entry 30). -/
def badEntry (d : List Byte) : Bool :=
  f8 d 1 ≠ 1 || f16 d 2 ≠ bit (decide (f8 d 0 = 7)) || f32 d 4 % 16 ≠ 0

/-- MODULE (R86, R77, R444). -/
def badModule (r : Rec) : Bool :=
  let deg := f32 r 8
  let e := f32 r 0x0C
  f8 r 0 > 2 || f16 r 2 > 600 || out (f16 r 4) 10 1000 || out (deg / 2 ^ 16) 1 3600 || out (deg % 2 ^ 16) 1 1024 ||
    e.testBit 31 || fld e 21 3 ≠ 0 || fld e 7 9 ≠ 0 || out (fld e 24 7) 1 64 || out (fld e 16 5) 1 16 || fld e 0 7 > 100

/-- The value of a grant item in a DRAWERS record (R94). -/
def rawGrant (r : Rec) (i : Nat) : Nat := fld (leNat (sub r 0x10 12)) (2 * i) 2

/-- DRAWERS (R88, R94). -/
def badDrawer (r : Rec) : Bool :=
  let fl := f8 r 1
  f8 r 0 > 31 || fl > 3 || fl.testBit 0 ≠ decide (f8 r 0 = 0) || fl.testBit 1 ≠ decide (f8 r 0 = 1) || f8 r 2 > 16 ||
    (List.range 48).any (fun i => rawGrant r i = 3 || (i ≥ 33 && rawGrant r i ≠ 0))

/-- POOLS (R87). -/
def badPool (r : Rec) : Bool :=
  match f8 r 0 with
  | 1 => out (f8 r 1) 1 8 || f8 r 4 ≠ 0
  | 2 => f8 r 1 ≠ 0 || f8 r 4 > 4 || f8 r 4 ≠ popc (f16 r 2) 16
  | _ => true

/-- MEMORY (R89). A read-write window with OWNER 0xFF has no owner: code 9 (R98). -/
def badMemory (r : Rec) : Bool :=
  f8 r 0 > 31 || f8 r 1 > 1 || f8 r 2 > 1 || (f8 r 3 > 63 && f8 r 3 ≠ 0xFF) || (f8 r 2 = 0 && f8 r 3 ≠ 0xFF) ||
    mwBase r % 4096 ≠ 0 || mwSize r % 4096 ≠ 0 || mwSize r = 0

/-- Highest channel number of a binding kind (R90, R232, R259). -/
def chanMax (kind : Nat) : Option Nat :=
  match kind with
  | 0 => some 0xFFF | 1 => some 0x63 | 2 => some 0x1F | 3 => some 0x1F | 4 => some 7 | 5 => some 4095 | 6 => some 63
  | _ => none

/-- WRITER names a task slot, a loop slot, the sequencers or none (R90). -/
def writerOk (w : Nat) : Bool := w ≤ 0x3F || (0x1000 ≤ w && w ≤ 0x13FF) || w = 0xF000 || w = 0xFFFF

/-- POINTS (R90). -/
def badPoint (r : Rec) : Bool :=
  ptIndex r > 16383 || ptDrawer r > 31 || out (ptType r) 1 7 || !writerOk (ptWriter r) ||
    (chanMax (ptKind r)).elim true (fun m => ptChan r > m) || f16 r 8 > 1 || ptHoldMode r > 2 || tb (ptShare r) (ptDrawer r)

/-- A trigger record (R115). -/
def badTrigger (t : Rec) : Bool :=
  let ref := f16 t 2
  match f8 t 0 with
  | 1 => f8 t 1 > 2 || ref > 16383 || f32 t 4 ≠ 0
  | 2 => f8 t 1 ≠ 0 || ref > 127 || f32 t 4 ≠ 0
  | 3 => f8 t 1 ≠ 0 || (ref > 63 && ref ≠ 0xFFFF) || f32 t 4 ≠ 0
  | 4 => f8 t 1 ≠ 0 || ref > 16383
  | _ => true

/-- TASKS (R91, R120); `secs` gives the trailer. A finding in a trigger record that the task names counts as the task's
own (DESIGN CHOICE, log entry 30). -/
def badTask (secs : List Section) (r : Rec) : Bool :=
  tkSlot r > 63 || tkDrawer r > 31 || tkPrio r > 15 || f8 r 3 > 1 || out (tkPeriod r) 1 (if tkEvent r then 4096 else 240000) ||
    out (tkPool r) 1 8 || f8 r 9 > 3 || (if tkEvent r then tkOffset r ≠ 0 else tkOffset r ≥ tkPeriod r) ||
    decide (tkWork r = (tkBudget r = 0)) || tkTrigCount r > 16 || (tkTrigCount r = 0) = tkEvent r ||
    (triggersOf secs r).length < tkTrigCount r || (triggersOf secs r).any badTrigger || tkState r > 1048576

/-- A term word by the field rules of R211 and R219, in rule `n` at position `m`. -/
def badTerm (n m w : Nat) : Bool :=
  let idx := fld w 0 7
  fld w 7 9 ≠ 0 || (m ≠ 0 && fld w 16 6 ≠ 0) || (!w.testBit 28 && fld w 22 6 ≠ 0) ||
  match fld w 30 2 with
  | 0 => fld w 22 8 ≠ 0 || idx ≠ 0
  | 1 => idx > 31
  | 2 => idx > 63
  | _ => idx ≥ n

/-- The levels of the rules (R214), ascending. -/
def ruleLevels (body : List Byte) : List Nat :=
  (List.range 128).foldl (fun ls n =>
    let used := (List.range 8).filterMap (fun m =>
      let w := jigTerm body n m
      if fld w 30 2 = 3 then some (ls.getD (fld w 0 7) 0) else none)
    ls ++ [used.foldl max 0 + 1]) []

/-- JIG (R219): rule records 0 to 127, then the targets as records 128 to 167. -/
def checkJig (body : List Byte) : Option Finding :=
  let lv := ruleLevels body
  let rule := (List.range 128).find? (fun n =>
    (List.range 8).any (fun m => badTerm n m (jigTerm body n m)) || (40 ≤ ruleTarget body n && ruleTarget body n ≤ 62) || lv.getD n 0 > 5)
  let tgt := (List.range 40).find? (fun t =>
    let w := jigTarget body t
    w / 64 ≠ 0 || fld w 2 2 ≠ 0 || fld w 4 2 = 3 || fld w 0 2 = 3)
  match rule, tgt with
  | some n, _ => some (8, 7, n)
  | none, some t => some (8, 7, 128 + t)
  | none, none => none

/-- A point index or 0xFFFF. -/
def badPt (n : Nat) : Bool := n > 16383 && n ≠ 0xFFFF

/-- The integrator of a slot and its place (R282). -/
def badInteg (ss : List Rec) : Bool :=
  let at_ := (enum ss).filter (fun p => (f8 p.2 0x14).testBit 0)
  at_.length > 1 || at_.any (fun p => p.1 + 1 ≠ ss.length || f32 p.2 0x0C ≠ 0xF0000000 || f32 p.2 0x10 ≠ 0)

/-- A section record of the LOOPS trailer (R281, R282). -/
def badSectRec (x : Rec) : Bool := f8 x 0x14 > 1 || !zeros (sub x 0x15 3)

/-- LOOPS (R280 to R282). A finding in a section record that the slot names counts as the slot's own (DESIGN CHOICE, log
entry 30). -/
def badLoop (secs : List Section) (r : Rec) : Bool :=
  let ss := lpSects secs r
  lpSlot r > 1023 || lpDrawer r > 31 || lpFlags r > 15 || out (lpPeriod r) 1 40000 || lpOffset r ≥ lpPeriod r ||
    badPt (lpPv r) || lpPv r = 0xFFFF || badPt (lpSp r) || (lpDirect r && lpSp r ≠ 0xFFFF) || badPt (lpMode r) ||
    badPt (lpMan r) || badPt (lpOut r) ||
    out (lpSections r) 1 8 || f8 r 0x13 > 3 || ss.length < lpSections r || lpFreeze r = 1 || lpRecover r = 0 || f8 r 0x1C > 62 ||
    f8 r 0x1D > 62 || f16 r 0x1E ≠ 0 || !zeros (sub r 0x44 60) || ss.any badSectRec ||
    badInteg ss || lpInt r 0x30 > lpInt r 0x34 || lpInt r 0x38 < 0

/-- LOOPS under code 8: the slots, then the section records that no slot names, counted after them (DESIGN CHOICE of the
index, log entry 30). -/
def checkLoops (secs : List Section) (x : Section) : Option Finding :=
  let rs := secRecs x
  let trailer := chunks (x.body.drop (x.count * x.recSize)) 24 x.body.length
  firstBad 8 8 rs (fun _ r => badLoop secs r) <|>
    ((enum trailer).find? (fun p => badSectRec p.2)).map (fun p => (8, 8, min (x.count + p.1) 0xFFFF))

/-- TASKS under code 8: the tasks, then the trigger records that no task names, counted after them (DESIGN CHOICE of the
index, log entry 30). -/
def checkTasks (secs : List Section) (x : Section) : Option Finding :=
  let rs := secRecs x
  let trailer := chunks (x.body.drop (x.count * x.recSize)) 8 x.body.length
  firstBad 8 6 rs (fun _ r => badTask secs r) <|>
    ((enum trailer).find? (fun p => badTrigger p.2)).map (fun p => (8, 6, min (x.count + p.1) 0xFFFF))

/-- IO (R233, R253, R254, R260, R275, R276). -/
def badIo (r : Rec) : Bool :=
  let cfg := f16 r 2
  match f8 r 0 with
  | 1 => f8 r 1 > 31 || cfg / 1024 ≠ 0 || fld cfg 7 1 ≠ 0 || fld cfg 3 1 ≠ 0 || fld cfg 8 2 = 3 || fld cfg 4 2 = 3 || fld cfg 0 3 > 4 ||
      !zeros (sub r 4 12)
  | 2 => f8 r 1 > 31 || cfg > 7 || !zeros (sub r 4 12)
  | 3 => f8 r 1 > 15 || cfg > 7 || f8 r 4 > 6 || !zeros (sub r 5 11)
  | _ => true

/-- Nominal and data rate of a CAN record in CAN clocks per bit (R331). -/
def canNom (r : Rec) : Nat := f8 r 7 * (1 + f8 r 6 + f8 r 5)
/-- Data phase clocks per bit. -/
def canDat (r : Rec) : Nat := f8 r 0x0B * (1 + f8 r 0x0A % 32 + f8 r 9 % 32)

/-- A CAN record (R330, R332, R350). -/
def badCan (r : Rec) : Bool :=
  let fl := f8 r 2
  let fd := fl.testBit 0
  let tdc := fl.testBit 4
  f8 r 1 > 3 || fl > 127 || f8 r 3 > 31 || !zeros (sub r 0x0D 19) ||
    out (f8 r 7) 1 32 || f8 r 6 = 0 || out (f8 r 5) 1 128 || out (f8 r 4) 1 128 || f8 r 4 > f8 r 5 || 1 + f8 r 6 + f8 r 5 < 8 || canNom r < 80 ||
    (if fd then
      out (f8 r 0x0B) 1 32 || out (f8 r 0x0A) 1 31 || out (f8 r 9) 1 16 || out (f8 r 8) 1 16 || f8 r 8 > f8 r 9 ||
        1 + f8 r 0x0A + f8 r 9 < 5 || canDat r < 16 || canDat r > canNom r || (canDat r < 80 && !tdc)
    else f32 r 8 ≠ 0) ||
    (if tdc then out (f8 r 0x0C) 1 127 else f8 r 0x0C ≠ 0)

/-- An owner byte: a drawer, unused, or the service initiator where that is allowed. -/
def badOwner (svc : Bool) (b : Nat) : Bool := b > 31 && b ≠ 0xFE && !(svc && b = 0xFF)

/-- A MAC record (R357, R358). -/
def badMac (r : Rec) : Bool :=
  let fl := f8 r 2
  if f8 r 0 = 2 then
    let plca := fl.testBit 0
    f8 r 1 > 7 || fl > 3 || f8 r 3 > 31 || (if plca then out (f8 r 4) 1 16 || f8 r 5 < 20 else f8 r 4 ≠ 0 || f8 r 5 ≠ 0) ||
      !zeros (sub r 6 6) || (sub r 0x0C 11).any (· ≠ 0xFE) || !zeros (sub r 0x17 9)
  else
    out (f8 r 1) 8 9 || fl.testBit 0 || fl > 31 || f8 r 3 ≠ 0xFF || f8 r 4 ≠ 0 || f8 r 5 ≠ 0 || f8 r 6 > 7 || out (f8 r 7) 20 90 ||
      out (f8 r 8) 10 80 || f8 r 8 + 10 > f8 r 7 || f8 r 9 ≠ 0 || f16 r 0x0A = 0 ||
      (sub r 0x0C 8).any (fun b => badOwner true b.toNat) || (sub r 0x14 3).any (fun b => badOwner false b.toNat) ||
      !zeros (sub r 0x17 9)

/-- The time record (R398, R399). -/
def badTime (r : Rec) : Bool :=
  let fl := f8 r 1
  let as1 := fl.testBit 0
  let s := signed 8 (f8 r 8)
  fl > 63 || f8 r 2 > 127 || (as1 && f8 r 2 ≠ 0) || f8 r 3 ≠ 0 || f16 r 4 ≥ 1024 || decide (s > 1) ||
    decide (s < (if as1 then -3 else -1)) || f8 r 9 > 4 || f8 r 0x0A > 5 || out (f8 r 0x0B) 2 10 || f16 r 0x0C > 4094 ||
    f8 r 0x0E > 10 || !zeros (sub r 0x18 8) || (fl.testBit 1 && fl.testBit 2)

/-- NETWORK. -/
def badNetwork (r : Rec) : Bool :=
  match f8 r 0 with
  | 1 => badCan r
  | 2 => badMac r
  | 3 => badMac r
  | 4 => badTime r
  | _ => true

/-- FILTERS (R93, R358). -/
def badFilter (r : Rec) : Bool :=
  let inst := f8 r 1
  let d := f8 r 3
  (d > 31 && d ≠ 0xFF) ||
  match f8 r 0 with
  | 1 => inst > 3 || f8 r 2 > 31 || d > 31 || f8 r 4 > 2 || f8 r 5 > 15
  | 2 => f8 r 5 ≠ 0 || f16 r 6 ≠ 0 || inst > 9 || f8 r 2 > 7 || f8 r 4 > (if inst < 8 then 0 else 7) || f32 r 0x0C / 2 ^ 16 ≠ 0
  | 3 => f16 r 6 ≠ 0 || out inst 8 9 || f8 r 2 > 15 || f8 r 4 > 7 || out (f8 r 5) 1 3
  | _ => true

/-- REMOTE fields (R305). `rs` are all its records, for the counts an item's POSITION must keep. -/
def badRemote (rs : List Rec) (r : Rec) : Bool :=
  let m := f8 r 1
  match f8 r 0 with
  | 3 => out m 8 11 || f16 r 2 ≠ 0 || f16 r 4 > 0x7C0 || f16 r 4 % 0x40 ≠ 0 || !zeros (sub r 6 10)
  | 1 =>
    let can := m ≥ 8
    m > 11 || out (f8 r 2) 1 15 || f8 r 3 > 31 || out (stCycle r) 1 4000 || stPhase r ≥ stCycle r || stWdog r = 0 ||
      out (stReply r) 1 (if can then min (stCycle r) 255 else 1) || stOut r > (if can then 15 else 64) ||
      stIn r > (if can then 12 else 64) || stLimit r = 0 || f16 r 14 ≠ 0
  | 2 =>
    let st := rs.find? (fun q => f8 q 0 = 1 && rmKey q = rmKey r)
    let top := st.elim 256 (fun q => if f8 r 3 = 0 then stIn q else if f8 r 3 = 1 then stOut q else 1)
    m > 11 || out (f8 r 2) 1 15 || f8 r 3 > 2 || f16 r 4 > 4095 || (f8 r 3 = 2 && f8 r 6 ≠ 0) || f8 r 6 ≥ top || !zeros (sub r 7 9)
  | _ => true

/-- Order key of a REMOTE record: the CAN medium records come first, in any order (R305). -/
def remoteKey (r : Rec) : Nat :=
  match f8 r 0 with
  | 3 => 0
  | 1 => 2 ^ 16 + f8 r 1 * 256 + f8 r 2
  | _ => 2 ^ 20 + f16 r 4

/-- REMOTE under code 8: order and ranges (R306). -/
def checkRemote (rs : List Rec) : Option Finding :=
  let keys := rs.map remoteKey
  firstBad 8 0xC rs (fun i r => badRemote rs r || (i > 0 && keys.getD (i - 1) 0 > keys.getD i 0))

/-- SECURITY (R459). -/
def badSecurity (i : Nat) (r : Rec) : Bool :=
  if i = 0 then f8 r 0 ≠ 1 || f8 r 1 > 1 || f8 r 2 > 1 || f8 r 3 ≠ 0 || !zeros (sub r 12 20)
  else f8 r 0 ≠ 2 || f8 r 1 > 31 || out (f8 r 2) 1 24 || f8 r 3 ≠ 0 || !zeros (sub r (4 + f8 r 2) (28 - f8 r 2))

/-- UPDATE (R495). -/
def badUpdate (i : Nat) (r : Rec) : Bool := i > 0 || out (f32 r 0) 400 240000 || out (f32 r 4) 4000 2400000

/-- HIERARCHY (R520). -/
def badHier (i : Nat) (r : Rec) : Bool :=
  match f8 r 0 with
  | 1 =>
    i ≠ 0 || out (f8 r 1) 1 3 || out (f16 r 2) 1 0x3FFF || f16 r 4 > 0x3FFF || out (f16 r 6) 1 4094 || out (f16 r 40) 1024 65535 ||
      f8 r 42 > 1 || f8 r 43 > 6 || out (f16 r 44) 8 4000 || f16 r 46 ≠ 0 || (f8 r 1 = 2 && !zeros (sub r 24 16))
  | 2 => i = 0 || f8 r 1 > 1 || !zeros (sub r 2 2) || !zeros (sub r 36 28)
  | 3 => i = 0 || f8 r 1 ≠ 0 || f16 r 2 > 255 || f16 r 4 > 16383 || !zeros (sub r 6 58)
  | 4 => i = 0 || f8 r 1 > 1 || f16 r 2 > 16383 || out (f16 r 4) 1 16384 || !zeros (sub r 6 58)
  | _ => true

/-- The code 8 checks of one section. -/
def check8Of (secs : List Section) (x : Section) : Option Finding :=
  let rs := secRecs x
  match x.type with
  | 1 => firstBad 8 1 rs (fun _ r => badModule r)
  | 2 => firstBad 8 2 rs (fun _ r => badDrawer r)
  | 3 => firstBad 8 3 rs (fun _ r => badPool r)
  | 4 => firstBad 8 4 rs (fun _ r => badMemory r)
  | 5 => firstBad 8 5 rs (fun _ r => badPoint r)
  | 6 => checkTasks secs x
  | 7 => checkJig x.body
  | 8 => checkLoops secs x
  | 9 => firstBad 8 9 rs (fun _ r => badIo r)
  | 0xA => firstBad 8 0xA rs (fun _ r => badNetwork r)
  | 0xB => firstBad 8 0xB rs (fun _ r => badFilter r)
  | 0xC => checkRemote rs
  | 0xD => if rs.isEmpty then some (8, 0xD, 0xFFFF) else firstBad 8 0xD rs badSecurity
  | 0xE => firstBad 8 0xE rs badUpdate
  | 0xF => if rs.isEmpty then some (8, 0xF, 0xFFFF) else firstBad 8 0xF rs badHier
  | _ => none

/-- An expert grant on a basic-only item or outside its drawer limit (R94). -/
def grantLimit (r : Rec) : Bool :=
  let d := f8 r 0
  (List.range 33).any (fun i => rawGrant r i = 2 &&
    (i = 2 || i = 24 || (i = 3 && d ≠ 1) || ((i = 22 || i = 23 || i = 31 || i = 32) && d ≠ 0)))

/-- The index of the record that takes a count above a limit (R587): the `lim + 1`-th that satisfies a test. -/
def overCount (l : List Rec) (lim : Nat) (p : Rec → Bool) : Option Nat :=
  (((enum l).filter (fun q => p q.2)).map (·.1))[lim]?

/-- The point that gives a slot more than 4,096 points (R151). -/
def overOwned (secs : List Section) : Option Nat :=
  let ws := ((points secs).map ptWriter).eraseDups.filter (fun w => w ≤ 0x13FF)
  ((ws.filterMap (fun w => overCount (points secs) 4096 (fun r => ptWriter r = w))).mergeSort (fun a b => decide (a ≤ b))).head?

/-- Code 8 (R97). Of the limits of one DRAWERS record an undefined grant value counts as a finding of that record, an
expert grant on a basic-only item or outside its drawer limit as one of R94's grant conditions (DESIGN CHOICE, log entry
30): the header, the sections in directory order, each with its directory entry first, then the checks that span
sections (R587). -/
def check8 (img : List Byte) : Option Finding :=
  let secs := parseImage img
  let hd := ck 8 0 0xFFFF (badHeader img)
  let one := (dirEntries img).findSome? (fun d =>
    if badEntry d then some (8, f8 d 0, 0xFFFF) else check8Of secs (sectionOf img d))
  let gr := firstBad 8 2 (recs secs 2) (fun _ r => grantLimit r)
  let own := (overOwned secs).map (fun i => (8, 5, i))
  let grp := (overCount (taskRecs secs) 16 (fun t => grant secs (tkDrawer t) 1 = 2)).map (fun i => (8, 6, i))
  hd <|> one <|> gr <|> own <|> grp

end Sys2Proof.Machine
end

