-- ==== Sys2Proof/Machine/Checks.lean ====
section
/-! DEFINITION. The cross-checks of code 9, the bounds computed over an image, and the commit time of code 10
(R97, R98, R587, and the code 9 rules of each block). -/
namespace Sys2Proof.Machine

/-! ### Declarations an image makes -/

/-- A point is declared and visible in a drawer (R27). -/
def pointSeen (secs : List Section) (d i : Nat) : Bool := (pointRec secs i).elim false (fun r => ptVisible r d)
/-- TYPE of a declared point, 0 when undeclared. -/
def typeOf (secs : List Section) (i : Nat) : Nat := (pointRec secs i).elim 0 ptType
/-- The NETWORK record of a MAC. -/
def netMac (secs : List Section) (m : Nat) : Option Rec := (recs secs 0x0A).find? (fun r => (f8 r 0 = 2 || f8 r 0 = 3) && f8 r 1 = m)
/-- The NETWORK record of a CAN channel. -/
def netCan (secs : List Section) (n : Nat) : Option Rec := (recs secs 0x0A).find? (fun r => f8 r 0 = 1 && f8 r 1 = n)
/-- The FILTERS record of an entry. -/
def filterRec (secs : List Section) (form inst e : Nat) : Option Rec :=
  (recs secs 0x0B).find? (fun r => f8 r 0 = form && f8 r 1 = inst && f8 r 2 = e)
/-- Owner byte of a receive queue of a MAC record: DRAWER on T1S, 0xFE when unused (R357). -/
def queueOwnerOf (r : Rec) (q : Nat) : Nat := if f8 r 0 = 2 then (if q = 0 then f8 r 3 else 0xFE) else f8 r (0x0C + q)
/-- MODE of an analog channel in IO, 0 without a record (R260). -/
def ioMode (secs : List Section) (c : Nat) : Nat :=
  ((recs secs 9).find? (fun r => f8 r 0 = 3 && f8 r 1 = c)).elim 0 (fun r => f8 r 4)
/-- Stations of a medium. -/
def stationsOn (secs : List Section) (m : Nat) : List Rec := (remotes secs 1).filter (fun r => f8 r 1 = m)

/-! ### Code 9 within one section -/

/-- A window lies outside its memory (R24, R25). -/
def stray9 (r : Rec) : Bool :=
  if mwRetained r then mwBase r < 0x40000000 || mwBase r + mwSize r > 0x43FC0000
  else mwBase r < 0x80000000 || mwBase r + mwSize r > 0x100000000

/-- The TYPE a binding to a local channel asks for (R232, R259), 0 for none. -/
def wantedType (r : Rec) : Nat :=
  let c := ptChan r
  match ptKind r with
  | 1 => if c < 0x20 then 1 else if c < 0x40 then 5 else 3
  | 2 => 1
  | 3 => if c < 0x10 then 4 else 3
  | 4 => 1
  | _ => 0

/-- A link or a missing setpoint or output (R282, R289): `ls` are the LOOPS records. -/
def badLink (ls : List Rec) (i : Nat) (r : Rec) : Bool :=
  let outerOf := fun (x : Rec) => ls.find? (fun o => lpSlot o = lpSp x)
  let chain : Nat := match (if lpLinked r then outerOf r else none) with
    | none => 1
    | some a => match (if lpLinked a then outerOf a else none) with
      | none => 2
      | some b => if lpLinked b then 4 else 3
  (!lpDirect r && lpSp r = 0xFFFF) ||
  (lpLinked r && ((outerOf r).elim true (fun o =>
      lpSlot o ≥ lpSlot r || lpDrawer o ≠ lpDrawer r || lpPeriod o ≠ lpPeriod r || lpOffset o ≠ lpOffset r) ||
    (ls.take i).any (fun x => lpLinked x && lpSp x = lpSp r))) ||
  chain > 3 || (lpOut r = 0xFFFF && !ls.any (fun x => lpLinked x && lpSp x = lpSlot r))

/-- REMOTE against itself (R306). -/
def badRemote9 (rs : List Rec) (i : Nat) (r : Rec) : Bool :=
  let before := rs.take i
  match f8 r 0 with
  | 1 => before.any (fun x => f8 x 0 = 1 && rmKey x = rmKey r) || 2 * stWdog r < stCycle r
  | 2 => !rs.any (fun x => f8 x 0 = 1 && rmKey x = rmKey r) ||
      before.any (fun x => f8 x 0 = 2 && rmKey x = rmKey r && f8 x 3 = f8 r 3 && f8 x 6 = f8 r 6)
  | _ => false

/-- NETWORK against itself: the ports of the time record (R399), the broadcast queue (R358). -/
def badNet9 (secs : List Section) (r : Rec) : Bool :=
  match f8 r 0 with
  | 4 => (List.range 10).any (fun m => (f16 r 4).testBit m && ((netMac secs m).isNone || (m < 8 && (f8 r 1).testBit 0)))
  | 3 => (f8 r 2).testBit 1 && queueOwnerOf r (f8 r 6) = 0xFE
  | _ => false

/-- FILTERS against itself: an address given twice (R358). -/
def badFilter9 (rs : List Rec) (i : Nat) (r : Rec) : Bool :=
  (rs.take i).any (fun x => f8 x 0 = f8 r 0 && f8 x 1 = f8 r 1 && f8 r 0 = 2 && sub x 8 6 = sub r 8 6)

/-- HIERARCHY against itself (R521). -/
def badHier9 (rs : List Rec) (i : Nat) (r : Rec) : Bool :=
  match f8 r 0 with
  | 1 => if f8 r 1 = 2 then f16 r 4 ≠ 0 else f16 r 4 = 0 || f16 r 4 = f16 r 2
  | 3 => (rs.take i).any (fun x => f8 x 0 = 3 && (f16 x 2 = f16 r 2 || f16 x 4 = f16 r 4))
  | _ => false

/-- The checks of code 9 that concern one record or one section (R587). -/
def single9 (x : LoadCtx) (img : List Byte) (secs : List Section) (s : Section) : Option Finding :=
  let rs := secRecs s
  match s.type with
  | 4 => firstBad 9 4 rs (fun _ r => stray9 r)
  | 5 => firstBad 9 5 rs (fun _ r => wantedType r ≠ 0 && ptType r ≠ wantedType r)
  | 6 => firstBad 9 6 rs (fun _ r => tkDrawer r ≠ 1 && (triggersOf secs r).any (fun t => f8 t 0 = 2))
  | 7 => ((List.range 128).find? (fun n =>
      ruleTarget s.body n < 40 && fld (jigTarget s.body (ruleTarget s.body n)) 0 2 = 0)).map (fun n => (9, 7, n))
  | 8 => firstBad 9 8 rs (badLink rs)
  | 0xA => firstBad 9 0xA rs (fun _ r => badNet9 secs r)
  | 0xB => firstBad 9 0xB rs (badFilter9 rs)
  | 0xC => firstBad 9 0xC rs (badRemote9 rs)
  | 0xD => firstBad 9 0xD rs (fun i r =>
      if i = 0 then !zeros (sub r 4 8) && sub r 4 8 ≠ sub img 0x38 8 else (rs.take i).any (fun q => f8 q 0 = 2 && f8 q 1 = f8 r 1))
  | 0xE => firstBad 9 0xE rs (fun _ r => !zeros (sub r 8 8) && (keyNamed x [1] (sub r 8 8)).isNone)
  | 0xF => firstBad 9 0xF rs (badHier9 rs)
  | _ => none

/-! ### Bounds over edges (R156, R185, R296, R309) -/

/-- The least common multiple of some periods. -/
def hyper (ps : List Nat) : Nat := ps.foldl Nat.lcm 1

/-- The edges of one hyperperiod; one edge when it exceeds 1,048,576 ticks. -/
def edgesFor (ps : List Nat) : List Nat := if hyper ps ≤ 1048576 then List.range (hyper ps) else [0]

/-- An item of a period and offset is due at an edge; at every edge when the hyperperiod is too long. -/
def dueIn (ps : List Nat) (k p o : Nat) : Bool := hyper ps > 1048576 || k % p = o

/-- The largest number of a list, 0 for none. -/
def maxOf (l : List Nat) : Nat := l.foldl max 0

/-- The sum of a list. -/
def sumOf (l : List Nat) : Nat := l.foldl (· + ·) 0

/-- Items of period, offset and value: the total due at each edge of the hyperperiod. -/
def edgeTotals (items : List (Nat × Nat × Nat)) : List Nat :=
  let ps := items.map (·.1)
  (edgesFor ps).map (fun k => sumOf ((items.filter (fun x => dueIn ps k x.1 x.2.1)).map (·.2.2)))

/-- The largest sum of any `n` consecutive edges of a pattern that repeats. -/
def windowMax (pat : List Nat) (n : Nat) : Nat :=
  let h := pat.length
  if h = 0 then 0
  else n / h * sumOf pat + maxOf ((List.range h).map (fun i => sumOf (((pat ++ pat).drop i).take (n % h))))

/-- When a task's write set is due: every edge for an event task (R156). -/
def taskPhase (r : Rec) : Nat × Nat := if tkEvent r then (1, 0) else (tkPeriod r, tkOffset r)

/-- Points a task slot owns. -/
def ownedN (secs : List Section) (w : Nat) : Nat := (ownedBy secs w).length

/-- Bytes of a task slot's read-write retained windows. -/
def retBytes (secs : List Section) (slot : Nat) : Nat := sumOf ((retWins secs slot).map mwSize)

/-- CKPT_MS. -/
def ckptMs (secs : List Section) : Nat := f16 (modRec secs) 4

/-- The version store bound (R149). -/
def vstoreBound (secs : List Section) : Nat :=
  sumOf ((taskRecs secs).map (fun t => ((points secs).filter (fun p => ptVisible p (tkDrawer t))).length))

/-- The checkpoint volume V (R188). -/
def ckptVolume (secs : List Section) : Nat :=
  sumOf ((taskRecs secs).map (fun t => tkState t + 12 * ownedN secs (tkSlot t) + 6400)) + 3145728

/-- J(k) over the hyperperiod (R185). -/
def recordSizes (secs : List Section) : List Nat :=
  let inputs := ((points secs).filter ptIsInput).length
  let loops := ((points secs).filter (fun r => 0x1000 ≤ ptWriter r && ptWriter r ≤ 0x13FF)).length
  (edgeTotals ((taskRecs secs).map (fun t => ((taskPhase t).1, (taskPhase t).2, 12 + 12 * ownedN secs (tkSlot t) + 4224)))).map
    (fun j => 68 + 16 * inputs + 12 * loops + j)

/-- The largest window sum of J (R185). -/
def ringBound (secs : List Section) : Nat := windowMax (recordSizes secs) ((2 * ckptMs secs + 80) * 4)

/-- The largest sum of SECTIONS over the loop slots that catch at one edge (R296). -/
def budgetBound (secs : List Section) : Nat :=
  maxOf (edgeTotals ((loopRecs secs).map (fun r => (lpPeriod r, lpOffset r, lpSections r))))

/-- The slots that hold group slots: those of drawers with an expert DVT grant (R163). -/
def groupSlots (secs : List Section) : List Nat :=
  ((taskRecs secs).filter (fun t => grant secs (tkDrawer t) 1 = 2)).map tkSlot

/-- The cost of a task's write set in ps (R155, R156). -/
def writeSetPs (secs : List Section) (t : Rec) : Nat :=
  let n := tkSlot t
  200000 + 1000 * (ownedN secs n + retBytes secs n / 8) + 16 * (30000 + 256 * 500) +
    (if (groupSlots secs).contains n then 256 * 10000 else 0) + (if tkPaired t then 100000 else 0)

/-- The worst-case commit time of an edge in ps (R155, R156). -/
def commitPs (secs : List Section) : Nat :=
  1500000 + 1000 * (loopRecs secs).length +
    maxOf (edgeTotals ((taskRecs secs).map (fun t => ((taskPhase t).1, (taskPhase t).2, writeSetPs secs t))))

/-- The stations of a medium due at an edge of its hyperperiod. -/
def dueSets (secs : List Section) (m : Nat) : List (List Rec) :=
  let st := stationsOn secs m
  let ps := st.map stCycle
  (edgesFor ps).map (fun k => st.filter (fun r => dueIn ps k (stCycle r) (stPhase r)))

/-- W(P) in 0.1 µs (R309). -/
def wireTime (p : Nat) : Nat := 8 * (max p 46 + 38)

/-- Payload of a T1S reply (R313). -/
def replyLen (r : Rec) : Nat := 12 + 4 * stIn r + (stIn r + 3) / 4 * 4 + 4

/-- The largest B(k) of a segment, in 0.1 µs (R309). -/
def airT1s (secs : List Section) (m : Nat) : Nat :=
  let nodes := (netMac secs m).elim 0 (fun r => f8 r 4)
  maxOf ((dueSets secs m).map (fun due =>
    20 + wireTime (24 + sumOf (due.map (fun r => 4 + 4 * stOut r))) + sumOf (due.map (fun r => wireTime (replyLen r))) +
      32 * (nodes - 1 - due.length)))

/-- MACn_ROOM as the load computes it (R367). -/
def roomOf (secs : List Section) (m : Nat) : Nat :=
  if (stationsOn secs m).isEmpty then 1518
  else
    let nodes := (netMac secs m).elim 1 (fun r => f8 r 4)
    let x := (2430 - airT1s secs m - 32 * (nodes - 1)) / 8
    if x ≥ 84 then x - 24 else 0

/-- A CAN FD data length that holds `n` bytes (R314). -/
def fdLength (n : Nat) : Nat := ([0, 1, 2, 3, 4, 5, 6, 7, 8, 12, 16, 20, 24, 32, 48].find? (fun l => n ≤ l)).getD 64

/-- W(L) in units of 1/200 µs (R310). -/
def canTime (c : Rec) (l : Nat) : Nat := 3 * (35 * canNom c + (8 * l + 40) * canDat c)

/-- W of a station's output frame. -/
def canOutTime (c r : Rec) : Nat := canTime c (fdLength (4 + 4 * stOut r))
/-- W of a station's reply. -/
def canInTime (c r : Rec) : Nat := canTime c (fdLength (4 + 5 * stIn r))

/-- A(k) for some due stations. -/
def canA (c : Rec) (due : List Rec) : Nat := canTime c 8 + sumOf (due.map (canOutTime c))

/-- The largest A(k) of a CAN medium, in 1/200 µs (R310). -/
def airCan (secs : List Section) (m : Nat) : Nat :=
  (netCan secs (m - 8)).elim 0 (fun c => maxOf ((dueSets secs m).map (canA c)))

/-- The checks of R310 fail on a medium. -/
def canOver (secs : List Section) (m : Nat) : Bool :=
  match netCan secs (m - 8) with
  | none => false
  | some c =>
    let st := stationsOn secs m
    let h := hyper (st.map stCycle)
    (dueSets secs m).any (fun due =>
      let a := canA c due
      a > 37000 || due.any (fun r => a + sumOf (due.map (canInTime c)) > (stReply r * 250 - 65) * 200)) ||
    canTime c 8 * h + sumOf (st.map (fun r => (canOutTime c r + canInTime c r) * h / stCycle r)) > 40000 * h

/-- The media that carry stations, ascending. -/
def remoteMedia (secs : List Section) : List Nat := (List.range 12).filter (fun m => !(stationsOn secs m).isEmpty)

/-- The largest B(k) or A(k) of a medium in µs, to the nearest (R325, log entry 17). -/
def airUs (secs : List Section) (m : Nat) : Nat := if m < 8 then (airT1s secs m + 5) / 10 else (airCan secs m + 100) / 200

/-! ### Code 9 across sections (R98) -/

/-- DRAWERS: its window run, its label, its expert grants (R88, R94, R98, R332, R358, R459). -/
def crossDrawer (secs : List Section) (rs : List Rec) (i : Nat) (r : Rec) : Bool :=
  let d := f8 r 0
  let run := ((recs secs 4).drop (f16 r 4)).take (f8 r 2)
  let label := f16 r 6
  let owns := fun (form inst : Nat) => (filters secs form).any (fun q => f8 q 1 = inst && f8 q 3 = d)
  run.length ≠ f8 r 2 || run.any (fun w => mwDrawer w ≠ d) ||
  (label ≠ 0xFFFF && !((recs secs 0xD)[label]?).elim false (fun q => f8 q 0 = 2 && f8 q 1 = d)) ||
  (List.range 33).any (fun n => rawGrant r n = 2 && (
    (((8 ≤ n && n ≤ 21) || (25 ≤ n && n ≤ 30)) && (rs.take i).any (fun q => rawGrant q n = 2)) ||
    (8 ≤ n && n ≤ 11 && (!owns 1 (n - 8) || (netCan secs (n - 8)).elim false (fun c => f8 c 3 ≠ d))) ||
    (12 ≤ n && n ≤ 21 && !owns 2 (n - 12)) ||
    (n = 3 && zeros (sub ((recs secs 0xD).headD []) 4 8))))

/-- Check-value units granted to a drawer, and the record that takes more than four of them (R449). -/
def unitsOver (rs : List Rec) : Option Nat :=
  (List.range rs.length).find? (fun i => ((List.range 6).filter (fun u => (rs.take (i + 1)).any (fun r => rawGrant r (25 + u) ≠ 0))).length > 4)

/-- MEMORY: drawer, owner, overlap, run, retained total (R25, R98, R151). -/
def crossMemory (secs : List Section) (rs : List Rec) (i : Nat) (r : Rec) : Bool :=
  let d := mwDrawer r
  let own := taskRec secs (mwOwner r)
  !drawerKnown secs d || (mwWritable r && own.elim true (fun t => tkDrawer t ≠ d)) ||
  (rs.take i).any (fun v => mwBase v < mwBase r + mwSize r && mwBase r < mwBase v + mwSize v) ||
  (drawerRec secs d).elim false (fun q => i < f16 q 4 || i ≥ f16 q 4 + f8 q 2) ||
  (mwRetained r && mwWritable r &&
    sumOf (((rs.take (i + 1)).filter (fun v => mwRetained v && mwWritable v && mwOwner v = mwOwner r)).map mwSize) > 131072)

/-- POOLS: cores in two places, an empty pool (R98). -/
def crossPool (rs : List Rec) (i : Nat) (r : Rec) : Bool :=
  i > 0 && (f16 r 2 = 0 || (rs.take i).any (fun q => f16 q 2 &&& f16 r 2 ≠ 0))

/-- The mask of a pool, none when undeclared. -/
def poolMask (secs : List Section) (p : Nat) : Option Nat :=
  ((recs secs 3).find? (fun r => f8 r 0 = 1 && f8 r 1 = p)).map (fun r => f16 r 2)

/-- The point's binding is an input (some true) or an output (some false); none for an internal point. -/
def bindingDir (secs : List Section) (r : Rec) : Option Bool :=
  let c := ptChan r
  match ptKind r with
  | 1 => some true
  | 2 => some false
  | 3 => if c < 0x10 then some (decide (ioMode secs c ≤ 4)) else some true
  | 4 => some false
  | 5 => ((remotes secs 2).find? (fun q => f16 q 4 = c)).map (fun q => decide (f8 q 3 ≠ 1))
  | 6 => some false
  | _ => none

/-- A point bound to a remote item (R306). -/
def badItemPoint (secs : List Section) (r : Rec) : Bool :=
  match (remotes secs 2).find? (fun q => f16 q 4 = ptChan r) with
  | none => true
  | some q =>
    (stationRec secs (rmKey q)).elim true (fun st => f8 st 3 ≠ ptDrawer r) ||
      (if f8 q 3 = 2 then ptType r ≠ 3 else out (ptType r) 1 5)

/-- The point is named by a cause point record (R520). -/
def isCausePoint (secs : List Section) (i : Nat) : Bool := (recs secs 0xF).any (fun q => f8 q 0 = 3 && f16 q 4 = i)

/-- WRITER of a point against the tasks and loops (R98). -/
def badWriter (secs : List Section) (r : Rec) : Bool :=
  let w := ptWriter r
  if w ≤ 0x3F then (taskRec secs w).elim true (fun t => tkDrawer t ≠ ptDrawer r)
  else if w ≤ 0x13FF then (loopRec secs (w - 0x1000)).elim true (fun l => lpOut l ≠ ptIndex r || lpDrawer l ≠ ptDrawer r)
  else false

/-- POINTS (R98, R259, R306, R521). -/
def crossPoint (secs : List Section) (rs : List Rec) (i : Nat) (r : Rec) : Bool :=
  let k := ptKind r
  let byWriter := ptWriter r ≤ 0x13FF
  !drawerKnown secs (ptDrawer r) || badWriter secs r || (k = 3 && ptChan r < 0x10 && ioMode secs (ptChan r) = 0) ||
  (k = 5 && badItemPoint secs r) || (k = 6 && ptDrawer r ≠ 1) ||
  (k ≠ 0 && (rs.take i).any (fun q => ptKind q = k && ptChan q = ptChan r)) ||
  match bindingDir secs r with
  | some true => !ptIsInput r
  | some false => !byWriter
  | none => ptIsInput r && !isCausePoint secs (ptIndex r)

/-- TASKS (R98, R120, R181). -/
def crossTask (secs : List Section) (r : Rec) : Bool :=
  !drawerKnown secs (tkDrawer r) ||
  (poolMask secs (tkPool r)).elim true (fun m => tkPaired r && popc m 16 < 2) ||
  (tkPaired r && tkPeriod r > ckptMs secs * 4) ||
  (triggersOf secs r).any (fun t => (f8 t 0 = 1 || f8 t 0 = 4) && !pointSeen secs (tkDrawer r) (f16 t 2))

/-- JIG: a latched term's LRST without a bound point (R219). -/
def crossJig (secs : List Section) (body : List Byte) (n : Nat) : Bool :=
  (List.range 8).any (fun m =>
    let w := jigTerm body n m
    w.testBit 28 && (boundTo secs 6 (fld w 22 6)).isNone)

/-- LOOPS (R98, R282). -/
def crossLoop (secs : List Section) (r : Rec) : Bool :=
  let d := lpDrawer r
  let bad := fun (p lo hi : Nat) => p ≠ 0xFFFF && (!pointSeen secs d p || out (typeOf secs p) lo hi)
  !drawerKnown secs d || bad (lpPv r) 2 5 || bad (lpMode r) 1 1 || bad (lpMan r) 4 4 || bad (lpOut r) 2 5 ||
  (!lpLinked r && !lpDirect r && bad (lpSp r) 2 5) ||
  (lpOut r ≠ 0xFFFF && (pointRec secs (lpOut r)).elim true (fun p => ptWriter p ≠ 0x1000 + lpSlot r || ptDrawer p ≠ d))

/-- NETWORK: owners, flow control, the time record (R98, R358, R399). -/
def crossNet (secs : List Section) (r : Rec) : Bool :=
  let unknown := fun (d : Nat) => d ≤ 31 && !drawerKnown secs d
  match f8 r 0 with
  | 3 =>
    (sub r 0x0C 11).any (fun b => unknown b.toNat) || ((f8 r 2).testBit 3 && (filterRec secs 2 (f8 r 1) 0).isNone)
  | 4 =>
    ((f8 r 1).testBit 1 && f8 ((recs secs 0xF).headD []) 1 ≠ 2) ||
      (List.range 8).any (fun m => (f16 r 4).testBit m && roomOf secs m < 68)
  | _ => unknown (f8 r 3)

/-- FILTERS: an entry claimed twice, owners (R98, R332, R358). -/
def crossFilter (secs : List Section) (rs : List Rec) (i : Nat) (r : Rec) : Bool :=
  let d := f8 r 3
  (rs.take i).any (fun x => f8 x 0 = f8 r 0 && f8 x 1 = f8 r 1 && f8 x 2 = f8 r 2) ||
  (d ≤ 31 && !drawerKnown secs d) ||
  if f8 r 0 = 1 then (netCan secs (f8 r 1)).elim false (fun c => f8 c 3 ≠ d)
  else (netMac secs (f8 r 1)).elim true (fun m => queueOwnerOf m (f8 r 4) = 0xFE || queueOwnerOf m (f8 r 4) ≠ d)

/-- REMOTE: drawers and media (R98, R306, R332, R358). -/
def crossRemote (secs : List Section) (r : Rec) : Bool :=
  let m := f8 r 1
  let can := (netCan secs (m - 8)).elim true (fun c =>
    let fl := f8 c 2
    !fl.testBit 0 || !fl.testBit 2 || fl.testBit 3 || (canDat c < 80 && !fl.testBit 4))
  match f8 r 0 with
  | 3 => can
  | 1 =>
    !drawerKnown secs (f8 r 3) ||
    if m < 8 then
      (netMac secs m).elim true (fun x =>
        !(f8 x 2).testBit 0 || f8 x 4 ≤ maxOf ((stationsOn secs m).map (fun q => f8 q 2)) || f8 x 5 ≠ 32) ||
        (filterRec secs 2 m 0).isNone
    else can || !(remotes secs 3).any (fun q => f8 q 1 = m)
  | _ => false

/-- Tenant a drawer maps to (R520). -/
def tenantOf (secs : List Section) (d : Nat) : Nat :=
  ((recs secs 0xF).find? (fun r => f8 r 0 = 2 && f8 r 1 = d / 16)).elim 0xFFFF (fun r => f16 r (4 + 2 * (d % 16)))

/-- The tenant map record of a half. -/
def tenantIdx (rs : List Rec) (half : Nat) : Nat :=
  ((enum rs).find? (fun p => f8 p.2 0 = 2 && f8 p.2 1 = half)).elim 0xFFFF (·.1)

/-- HIERARCHY against the other sections (R521). -/
def crossHier (secs : List Section) (rs : List Rec) : Option Finding :=
  let ds := declaredDrawers secs
  let wrong := ds.find? (fun d =>
    (d ≤ 1 && tenantOf secs d ≠ d) || ds.any (fun e => e < d && tenantOf secs e = tenantOf secs d))
  let cause := firstBad 9 0xF rs (fun _ r => f8 r 0 = 3 &&
    (pointRec secs (f16 r 4)).elim true (fun p => ptDrawer p ≠ 1 || !ptIsInput p || ptKind p ≠ 0))
  let link := [8, 9].any (fun m => (netMac secs m).elim false (fun r => (sub r 0x0C 8).any (· = 0xFF)))
  (wrong.map (fun d => (9, 0xF, tenantIdx rs (d / 16)))) <|> cause <|> ck 9 0xF 0xFFFF (!link)

/-- The checks of code 9 across sections, by the section of the record that a finding names. -/
def cross9 (secs : List Section) (s : Section) : Option Finding :=
  let rs := secRecs s
  match s.type with
  | 2 => ck 9 2 0xFFFF (!drawerKnown secs 0 || !drawerKnown secs 1) <|> firstBad 9 2 rs (crossDrawer secs rs) <|>
      (unitsOver rs).map (fun i => (9, 2, i))
  | 3 => firstBad 9 3 rs (crossPool rs)
  | 4 => firstBad 9 4 rs (crossMemory secs rs)
  | 5 => firstBad 9 5 rs (crossPoint secs rs)
  | 6 => firstBad 9 6 rs (fun _ r => crossTask secs r)
  | 7 => ((List.range 128).find? (crossJig secs s.body)).map (fun n => (9, 7, n))
  | 8 => firstBad 9 8 rs (fun _ r => crossLoop secs r)
  | 0xA => firstBad 9 0xA rs (fun _ r => crossNet secs r)
  | 0xB => firstBad 9 0xB rs (crossFilter secs rs)
  | 0xC => firstBad 9 0xC rs (fun _ r => crossRemote secs r)
  | 0xD => firstBad 9 0xD rs (fun i r => i > 0 && !drawerKnown secs (f8 r 1))
  | 0xF => crossHier secs rs
  | _ => none

/-- The totals and bounds under code 9 (R98, R149, R185, R188, R296, R309, R310). -/
def bounds9 (secs : List Section) : Option Finding :=
  let v := ckptVolume secs
  ck 9 0 0xFFFF (sumOf ((taskRecs secs).map tkState) > 58720256 || vstoreBound secs > 114688 ||
    v > 67108864 || 2 * v > 1700000 * min (ckptMs secs) 80 ||
    (recordSizes secs).any (· > 1048576) || ringBound secs > 49283072 || budgetBound secs > 2000) <|>
  ck 9 0xC 0xFFFF ((remoteMedia secs).any (fun m => if m < 8 then airT1s secs m > 1850 else canOver secs m))

/-- Code 9 (R97, R587). -/
def check9 (x : LoadCtx) (img : List Byte) : Option Finding :=
  let secs := parseImage img
  secs.findSome? (single9 x img secs) <|> secs.findSome? (cross9 secs) <|> bounds9 secs

/-- Code 10: the commit time (R30, R156). -/
def check10 (img : List Byte) : Option Finding := ck 10 0 0xFFFF (commitPs (parseImage img) > 30000000)

/-- The checks of codes 1 to 10 in ascending order (R99, R587). -/
def checkImage (x : LoadCtx) (img : List Byte) : Option Finding :=
  check1 img <|> check2 x img <|> check3 x img <|> check4 x img <|> check5 img <|> check6 x img <|> check7 img <|>
    check8 img <|> check9 x img <|> check10 img

end Sys2Proof.Machine
end

