-- ==== Sys2Proof/Machine/Reset.lean ====
section
/-! DEFINITION. Reset (R61, R62): what it returns to its reset state, and what BAK, SAFE, MRAM, NAND and the fuses keep. -/
namespace Sys2Proof.Machine

/-- SYS at reset: the causes are taken, the supply and temperature monitors keep their state (R37, R58, R574, R589).
NO_BRACE and the CAUSE bits of an earlier boot that software has not cleared do not survive the reset: the spec does not say
whether they do (DESIGN CHOICE, log entry 30). -/
def resetSys (cause primary : Nat) (x : Sys) : Sys := {
  boot := .held, cause := cause, primary := primary, pfw := x.pfw, brace := x.brace,
  braceLong := x.braceLong, vbakLow := x.vbakLow, confirming := x.confirming, nandPaused := x.nandPaused, flushed := x.flushed,
  braceMin := if x.brace then x.braceMin else 0, fire := x.fire, fireMax := x.fireMax, fireStart := x.fireStart,
  fireOver := x.fireOver, fireLong := x.fireLong, excursion := x.excursion, fromDebug := x.fromDebug || x.mode = .debug }

/-- The jig matrix is in SAFE: it keeps its copy, latches and conditions; SCRUB_FAIL and RULE_SEEN clear, and it reads its
configuration again (R62, R223, R224, R228). -/
def resetJig (j : Jig) : Jig := { j with scrubFail := false, where_ := 0, cycles := 0, seen := 0, unreported := none, readDue := true }

/-- An input at reset: configuration at its reset value, the edge counter kept. The filter runs on through the reset, so
its state changes only as R235 lets it and the counter misses no edge (R235, R236, R251; DEDUCED, log entry 10). -/
def resetDi (c : DiCh) : DiCh := { filt := c.filt, edges := c.edges, lastIntact := c.lastIntact }

/-- An output at reset: configuration at its reset value, protection state kept (R243, R251). -/
def resetDo (c : DoCh) : DoCh := { c with cfg := 1, current := 0 }

/-- A group at reset: protection state kept, nothing measured yet (R244, R257). -/
def resetGroup (g : Group) : Group := { g with current := 0, voltage := 0 }

/-- DIO at reset. The driver commands are those before the reset; as the outputs settle they go off, with all that a
change of command does (R242, R245). -/
def resetDio (d : Dio) : Dio := {
  di := d.di.map resetDi, dout := d.dout.map resetDo, groups := d.groups.map resetGroup, pins := d.pins, cmd := d.cmd,
  lcmd := d.lcmd }

/-- The journal keeps what is in MRAM: the ring and the banks (R182, R189), and that it ends in a gap (R185). -/
def resetWke (w : Wke) : Wke := {
  ring := w.ring, bankA := w.bankA, bankB := w.bankB, newestB := w.newestB, head := w.head, gap := w.gap || w.suspended }

/-- The recorder keeps its MRAM: store, archive, numbers, cursors and what they have passed, counters (R428, R435, R436,
R438). Occurrences not yet entered are kept (R580). -/
def resetEvr (e : Evr) : Evr := {
  held := e.held, skips := e.skips,
  records := e.records, archive := e.archive, next := e.next, floor := e.floor, lost := e.lost, cursors := e.cursors,
  opTime := e.opTime, opSaved := e.opSaved, cycles := e.cycles, bufferNew := e.bufferNew }

/-- The key core keeps fuses, public keys, certificates, the MRAM copies and the tamper record, but not the last sample
(R491). A fuse bit that was being programmed is not interrupted by a reset; after a loss of power it reads intact or
blown (R475): `blown`. -/
def resetKey (blown : Bool) (k : Key) : Key := {
  fuses := match k.fusing with
    | some t => if blown then bset k.fuses (t - 1) else k.fuses
    | none => k.fuses
  tableA := k.tableA, tableB := k.tableB, tablesOpen := k.tablesOpen, lc := k.lc, offcutMram := k.offcutMram, slots := k.slots,
  idCert := k.idCert, transCerts := k.transCerts, tamper := { k.tamper with loopBad := false } }

/-- The slot directory and the lock are in MRAM (R493, R512); a slot in STAGING becomes EMPTY at the boot (R493). -/
def resetUpd (u : Upd) : Upd :=
  let empty := fun (x : SlotSet) => if x.st = .staging then {} else x
  { slotA := empty u.slotA, slotB := empty u.slotB, activeB := u.activeB, unconfirmed := u.unconfirmed,
    rolledBack := u.rolledBack, online := u.online, locked := u.locked, lockSeq := u.lockSeq, switchEnd := u.switchEnd }

/-- The RTC block at a reset: it is in BAK, but the registers that the map does not call kept in BAK return to their reset
values, and CHARGE is 0 until the load ends (R414, R420, R421). -/
def resetRtc (r : Rtc) : Rtc :=
  { r with charge := false, set0 := 0, set1 := 0x07D00101, pendingSet := none, refused := false, trim := 0, vbak := 0 }

/-- The causes that wait for the close of a commit: a service reset, a release of the probe (R62, R75, R552). -/
def dueCauses (s : State) : Nat := bit s.sys.resetReq * 2 ^ 5 + bit s.dbg.exitDue * 2 ^ 6

/-- Every block outside BAK and SAFE at its reset state (R62). -/
def resetBlocks (cause primary : Nat) (s : State) : State := {
  pending := s.pending, answer := s.answer, fresh := s.fresh,
  sys := resetSys cause primary s.sys, drw := { serialFloor := s.drw.serialFloor, layout := s.drw.layout },
  wke := resetWke s.wke, jig := resetJig s.jig, dio := resetDio s.dio, rio := { runId := s.rio.runId },
  rtc := resetRtc s.rtc, evr := resetEvr s.evr, key := resetKey (!cause.testBit 1 || Config.freeValue s.fresh % 2 = 1) s.key,
  upd := resetUpd s.upd, hie := { tagSeq := s.hie.tagSeq }, dbg := { ir := s.dbg.ir, boundary := s.dbg.boundary },
  mem := s.mem }

/-- A reset asserts for a cause (R61, R62): the RTC count is captured, an update not yet switched is abandoned (R511). The
causes that waited set their bits too, and PRIMARY names the first; a further cause before the reset has ended sets its
bit. -/
def assertReset (i : Nat) (s : State) : State :=
  if s.sys.boot = .off then s
  else if s.sys.boot = .held then { s with sys := { s.sys with cause := bset s.sys.cause i } }
  else
    let s := captureRtc s
    let cut := shadowing s.upd
    let n := s.fresh + bit s.key.fusing.isSome
    let first := if s.sys.dueFirst = 0 then i + 1 else s.sys.dueFirst
    let s := { resetBlocks (bset (dueCauses s) i) first s with fresh := n }
    settleOutputs (if cut then updEvent 0xE00A 6 s else s)

/-- The service reset (R75): at the close of the next commit where commits take place, else at once (within 1 ms). -/
def serviceReset (s : State) : State :=
  if s.sys.mode = .run || s.sys.mode = .degraded || (s.sys.mode = .debug && s.dbg.stepBusy) then
    { s with sys := { s.sys with resetReq := true, dueFirst := if s.sys.dueFirst = 0 then 6 else s.sys.dueFirst } }
  else assertReset 5 s

end Sys2Proof.Machine
end

