-- ==== Sys2Proof/Machine/Power.lean ====
section
/-! DEFINITION. Supplies, start-up, resets, mode requests, replacement causes and board temperature (R49 to R77, R574,
R575, R589). -/
namespace Sys2Proof.Machine

/-- Changes the SYS block. -/
def modSys (f : Sys → Sys) (s : State) : State := { s with sys := f s.sys }

/-- A system event. -/
def sysEvent (code detail : Nat) (s : State) : State := raise { code := code, block := 0x01, detail := detail } s

/-- An occurrence of the load, raised by the DRW block, which holds DRW_LOAD (DEDUCED, log entry 13). -/
def loadEvent (code detail : Nat) (s : State) : State := raise { code := code, block := 0x14, detail := detail } s

/-- The module drives its contacts: VSYS is present and reset is over (R62, R561). -/
def driving (s : State) : Bool := s.sys.boot ≠ .off && s.sys.boot ≠ .held

/-! ### Loss and arrival of VSYS (R33, R38, R64) -/

/-- Everything VSYS feeds is lost; SAFE too (R37, R223), and occurrences held outside BAK. The causes of a reset in
progress stand, and that the last mode was DEBUG (R55). -/
def losePower (s : State) : State :=
  let bare := !s.sys.brace
  let was := s.sys
  let s := if was.boot = .held then s else assertReset 1 s
  { s with
    evr := { s.evr with held := s.evr.held.filter (·.block = 0x0D) }
    sys := { boot := .off, mode := .dormant, fromDebug := s.sys.fromDebug, cause := bset s.sys.cause 1
             primary := s.sys.primary, noBrace := bare, vbakLow := was.vbakLow }
    jig := { copy0 := s.jig.copy0, copy1 := s.jig.copy1, sel := s.jig.sel, rewrote := s.jig.rewrote }, dio := {}, dbg := {} }

/-- `VSYS_RESET_THRESHOLD`: VSYS fell below the reset threshold; a commit in progress is complete, since an edge is one
step of the model (R33, R51). -/
def execVsysResetThreshold (s : State) : Host.Outcome State Fault Refusal :=
  if s.sys.boot = .off then .next s else .next (losePower s)

/-- `VSYS_ARRIVES`: the rail rises through 14.5 V; SAFE powers up, reset is held, the warning is asserted (R64, R589). This
initial warning leaves PFW_SEEN 0: the spec does not say whether it sets it (DESIGN CHOICE, log entry 30). -/
def execVsysArrives (s : State) : Host.Outcome State Fault Refusal :=
  if s.sys.boot = .off then
    .next (modSys (fun x => { x with boot := .held, mode := .rigging, prev := .dormant, pfw := true }) s)
  else .next s

/-! ### The boot (R62, R64, R65, R428, R435, R580) -/

/-- The recorder at reset release: `lost` records had not reached MRAM, and a clear whose record is among them has not
taken place, so that the floor is the one its DETAIL names (R439; DEDUCED, log entry 5); operating time resumes from the
value saved, plus 1,024; the power cycle counts (R428, R430). -/
def evrRelease (lost : Nat) (e : Evr) : Evr :=
  let n := min lost e.bufferNew
  let kept := e.records.length - n
  { e with
    records := e.records.take kept
    floor := ((e.records.drop kept).find? (·.code = 0x0021)).elim e.floor (·.detail.toNat)
    next := (e.next + 2 ^ 32 - n) % 2 ^ 32, bufferNew := 0
    opTime := e.opSaved + 1024, opSaved := e.opSaved + 1024, opFrac := 0, cycles := (e.cycles + 1) % 2 ^ 32 }

/-- SYS_OUTAGE at a reset release: 0 when VSYS stayed (R62, R68, R586). -/
def outageAt (s : State) : Nat :=
  if s.rtc.osf || !s.rtc.captured then 0xFFFFFFFF
  else if s.sys.cause.testBit 0 || s.sys.cause.testBit 1 then outageNow s else 0

/-- `RESET_RELEASE`: reset is released. The lost records and a torn slot are what the loss of power left of the event
store (R435). -/
def execResetRelease (lost : ReleaseIn) (torn : Bool) (s : State) : Host.Outcome State Fault Refusal :=
  if s.sys.boot = .held then
    let s := canaryTry (modRtc (fun r => { r with checkDue := true, vbakUp := lost.vbak }) s)
    let s := { s with evr := evrRelease lost.lost s.evr, fresh := s.fresh + 1, sys := { s.sys with outage := outageAt s, boot := .released } }
    let s := if torn then raise { code := 0x0022, block := 0x0E, detail := 1 } s else s
    let s := keyRelease s
    let s := if s.sys.vbakLow then setCause 3 s else s
    let s := if s.sys.fire then setCause 5 s else s
    .next (settleOutputs s)
  else .next s

/-- The infrastructure blocks, enabled by the boot ROM (R46). -/
def infraBlocks : List Block := [.sys, .drw, .evr, .key, .upd, .cvu 0, .cvu 1, .cvu 2, .cvu 3, .cvu 4, .cvu 5]

/-- `PLL_LOCKED`: the cox runs the boot ROM; a scrub mismatch of the configuration read is reported among the
occurrences held, the recorder starts with 0x1001 and the entry into RIGGING; TN 0 is this edge, with its pulse of
SYNC_OUT (R51, R64, R225, R391, R397, R580). A canary check still due takes place: the domain runs from the main feed by
now (R413). -/
def execPllLocked (s : State) : Host.Outcome State Fault Refusal :=
  if s.sys.boot = .released then
    let s := if s.rtc.checkDue && s.rtc.valid then canaryCheck s else s
    let s := modPtp (fun p => { p with syncOut := true }) (modSys (fun x => { x with boot := .clocked }) s)
    let s := { s with enabled := infraBlocks ++ s.enabled, evr := moveStart s.sys.brace s.evr }
    let s := match s.jig.unreported with
      | some d => reportScrub d { s with jig := { s.jig with unreported := none } }
      | none => s
    .next (notice 1 1 (recorderStart s))
  else .next s

/-- A runtime's header breaks R494. LENGTH counts the part with its signature block (log entry 17). -/
def runtimeHeaderBad (rt : List Byte) : Bool :=
  let n := f32 rt 0x0C
  f32 rt 0 ≠ 0x5452464A || n < 1600 || n > rt.length || !zeros (sub rt 0x0A 2) || !zeros (sub rt 0x10 48)

/-- A runtime's signature verifies with the LIDUORA key (R494). The bytes of the block after it are not looked at
(DESIGN CHOICE, log entry 30). -/
def runtimeSigned (rt : List Byte) : Bool :=
  let n := f32 rt 0x0C
  let block := sub rt (n - 1536) 1536
  let k := f16 block 0
  1 ≤ k && k ≤ 1462 && Config.falconVerifies Config.liduora (sub rt 0 (n - 1536)) (sub block 2 k)

/-- The boot check of a slot's runtime: 0, 12 or 13 (R65). -/
def runtimeCode (x : SlotSet) : Nat := if runtimeHeaderBad x.runtime then 12 else if runtimeSigned x.runtime then 0 else 13

/-- A runtime check fails: event 0x0013, FAIL and FIRST_FAIL (R65, R106). -/
def runtimeFailed (code : Nat) (b : Bool) (s : State) : State :=
  let s := { s with drw := { s.drw with fail := code, firstFail := if s.drw.firstFail = 0 then code else s.drw.firstFail } }
  loadEvent 0x0013 (code * 2 ^ 24 + bit b * 2 ^ 23) s

/-- The runtime check of the boot: the active slot, then the other when it is PREVIOUS (R65). -/
def checkRuntime (s : State) : State :=
  let a := s.upd.activeB
  let s := { s with drw := { s.drw with load := 1, slotB := a, loadSlot := a } }
  let c := runtimeCode (slotOf s.upd a)
  if c = 0 then s
  else
    let s := runtimeFailed c a s
    if (slotOf s.upd (!a)).st = .previous then
      let s := { s with drw := { s.drw with slotB := !a, loadSlot := !a, fallback := true } }
      let d := runtimeCode (slotOf s.upd (!a))
      if d = 0 then s else
        let s := runtimeFailed d (!a) s
        { s with drw := { s.drw with load := 3, fallback := false } }
    else { s with drw := { s.drw with load := 3 } }

/-- A rollback exchanges the states of the slots (R507, R509). -/
def exchangeSlots (u : Upd) : Upd :=
  let flip := fun (x : SlotSet) => match x.st with
    | .inForce => { x with st := .previous }
    | .previous => { x with st := .inForce }
    | _ => x
  { u with slotA := flip u.slotA, slotB := flip u.slotB, activeB := !u.activeB, rolledBack := true }

/-- Trigger 5: the reset came from the cox watchdog during the watch of an update that changed the runtime (R506). The
load takes the mark it leaves as reason 9 of the restart (R143). -/
def rollbackAtBoot (s : State) : Bool :=
  s.sys.cause.testBit 3 && s.upd.unconfirmed && !s.upd.rolledBack && s.upd.slotA.runtime ≠ s.upd.slotB.runtime

/-- `BOOT_SELF_TEST_DONE`: the key core is ready, DRAM is initialised, the crew cores are tested, the runtime is checked
(R64, R65, R203), but in SCRAPPED, where the boot stops here (R473). `failedCores` is the mask of cores that failed it,
which WKE_FAILED does not show: it holds the declarations of R190 alone. `nandWorn` is the wear above 80 % (R56). -/
def execBootSelfTestDone (failedCores : Fin 65536) (nandWorn : Bool) (s : State) : Host.Outcome State Fault Refusal :=
  if s.sys.boot = .clocked && !s.sys.tamperHold then
    let s := keyReady s
    let s := { s with
      sys := { s.sys with boot := .tested }, wke := { s.wke with bootBad := failedCores.val },
      mem := s.mem.filter (fun p => p.1 < 0x80000000) }
    let s := if nandWorn then setCause 4 s else s
    let s := if rollbackAtBoot s then updEvent 0xE008 (0xFF * 2 ^ 24 + 5) (modUpd (fun u => { exchangeSlots u with back := some (0xFF, 5) }) s) else s
    .next (if s.key.lc = 4 then s else checkRuntime s)
  else .next s

/-- The module enters RUN or DEGRADED once the load has succeeded and the warning is clear (R51). -/
def tryRun (s : State) : State :=
  if s.sys.mode = .rigging && s.sys.boot = .loaded && s.drw.load = 2 && !s.sys.pfw then
    enterMode (if s.sys.replace = 0 then .run else .degraded) s
  else s

/-! ### The brace (R59, R60) -/

/-- `POWER_FAIL_WARNING`: VSYS has stayed below the warning threshold for the filter time; `vsys` in 10 mV. A second one
within the confirmation continues the same brace. -/
def execPowerFailWarning (vsys : Nat) (s : State) : Host.Outcome State Fault Refusal :=
  if s.sys.boot = .off then .next s
  else if s.sys.pfw then .next (modSys (fun x => { x with confirming := false }) s)
  else
    let s := modSys (fun x => { x with
      pfw := true, brace := true, pfwSeen := true, braceSeen := true, confirming := false, nandPaused := false, flushed := false,
      braceMin := vsys % 2 ^ 16 }) s
    let s := { s with evr := { s.evr with opSaved := s.evr.opTime } }
    .next (sysEvent 0x1010 (vsys % 2 ^ 16) s)

/-- `NAND_PAGE_DONE_PAUSE`: the page in progress is done and NAND writes pause, a batch move in progress with them (R59,
R443). -/
def execNandPageDonePause (s : State) : Host.Outcome State Fault Refusal :=
  let s := modSys (fun x => { x with nandPaused := x.brace }) s
  .next { s with evr := { s.evr with moveWait := s.evr.moveWait || (s.sys.brace && s.evr.moving) } }

/-- `BRACE_FLUSH_DONE`: the journal and event buffers are in MRAM (R59). -/
def execBraceFlushDone (s : State) : Host.Outcome State Fault Refusal :=
  if s.sys.brace then .next (drainBuffer (ringFlush (modSys (fun x => { x with flushed := true }) s))) else .next s

/-- `WARNING_RELEASE_CROSSING`: VSYS rises through the release threshold; the 1 ms confirmation runs (R60). -/
def execWarningReleaseCrossing (s : State) : Host.Outcome State Fault Refusal :=
  .next (modSys (fun x => { x with confirming := x.pfw }) s)

/-- `BRACE_END`: VSYS has stayed above the release threshold for 1 ms; `units` of 100 µs since the warning, `lowest` VSYS
in 10 mV. The warning of a power-up ends without an event (R60, R589). -/
def execBraceEnd (units lowest : Nat) (s : State) : Host.Outcome State Fault Refusal :=
  if s.sys.pfw && s.sys.confirming then
    let was := s.sys.brace
    let s := modSys (fun x => { x with
      pfw := false, brace := false, braceLong := false, confirming := false, nandPaused := false, flushed := false,
      braceMin := if was then lowest % 2 ^ 16 else x.braceMin }) s
    let s := { s with evr := if s.evr.moveWait then moveStart false { s.evr with moveWait := false } else s.evr, upd := resumeStaging s.upd }
    let s := if was then sysEvent 0x1011 (min units 0xFFFF * 2 ^ 16 + lowest % 2 ^ 16) s else s
    .next (tryRun s)
  else .next s

/-- `BRACE_LONG`: the brace has lasted 1 s (R60). -/
def execBraceLong (lowest : Nat) (s : State) : Host.Outcome State Fault Refusal :=
  if s.sys.brace && !s.sys.braceLong then
    .next (sysEvent 0x1013 (lowest % 2 ^ 16) (modSys (fun x => { x with braceLong := true, braceMin := lowest % 2 ^ 16 }) s))
  else .next s

/-! ### Resets (R21, R61, R75) -/

/-- `COX_LOCKSTEP_MISMATCH`. -/
def execCoxLockstepMismatch (s : State) : Host.Outcome State Fault Refusal := .next (assertReset 2 s)
/-- `COX_WATCHDOG_EXPIRY`. -/
def execCoxWatchdogExpiry (s : State) : Host.Outcome State Fault Refusal := .next (assertReset 3 s)
/-- `PLL_LOSS`. -/
def execPllLoss (s : State) : Host.Outcome State Fault Refusal := .next (assertReset 4 s)

/-- A write of `v` to SYS_RESET_REQ (R75). -/
def resetRequest (v : Nat) (s : State) : State :=
  if v = 0x5E7A0001 then serviceReset s else raiseIgnored 0x01 0x10000024 s

/-- `SERVICE_RESET`. -/
def execServiceReset (v : Nat) (s : State) : Host.Outcome State Fault Refusal := .next (resetRequest v s)

/-! ### Mode requests (R53, R54, R70) -/

/-- A write of `v` to SYS_MODE_REQ. A RESUME of the HOLD that tamper entered is ignored (R54). -/
def modeRequest (v : Nat) (s : State) : State :=
  let run := s.sys.mode = .run || s.sys.mode = .degraded
  if fld v 16 16 = 0x4A46 && fld v 0 4 = 1 && run then abandonUpdate 3 (modSys (fun x => { x with holdReq := true }) s)
  else if fld v 16 16 = 0x4A46 && fld v 0 4 = 2 && s.sys.mode = .hold && !s.sys.tamperHold then
    modSys (fun x => { x with resumeReq := true }) s
  else raiseIgnored 0x01 0x10000010 s

/-- `HOLD_REQUEST`. -/
def execHoldRequest (key : Nat) (s : State) : Host.Outcome State Fault Refusal := .next (modeRequest (key % 2 ^ 16 * 2 ^ 16 + 1) s)
/-- `RESUME_REQUEST`. -/
def execResumeRequest (key : Nat) (s : State) : Host.Outcome State Fault Refusal := .next (modeRequest (key % 2 ^ 16 * 2 ^ 16 + 2) s)

/-! ### Replacement causes (R56) -/

/-- The module is past reset. -/
def isUp (s : State) : Bool := s.sys.boot ≠ .off && s.sys.boot ≠ .held

/-- A corrected error: ECC_RATE when those of the last 60 min exceed the limit (R56). -/
def eccError (s : State) : State :=
  let s := modSys (fun x => { x with eccTimes := x.eccTimes.filter (fun t => t + 3686400 > s.evr.opTime) ++ [s.evr.opTime] }) s
  if s.sys.eccTimes.length > s.sys.eccLimit then setCause 1 s else s

/-- `ECC_CORRECTED_ERROR`. -/
def execEccCorrectedError (s : State) : Host.Outcome State Fault Refusal := if isUp s then .next (eccError s) else .next s

/-- The backbone MACs the image declares. -/
def declaredPorts (s : State) : List Nat := [8, 9].filter (fun m => s.declared.contains (.mac m))

/-- `LINK_DOWN_TIMEOUT`: a declared backbone port has had no link for longer than LINK_DOWN_S. -/
def execLinkDownTimeout (port : Fin 2) (s : State) : Host.Outcome State Fault Refusal :=
  let m := 8 + port.val
  if (declaredPorts s).contains m && !(s.mac.getD m {}).link then .next (setCause 2 s) else .next s

/-- `LINK_DOWN_CLEAR`: every declared port has held link for 1 s. -/
def execLinkDownClear (s : State) : Host.Outcome State Fault Refusal :=
  if (declaredPorts s).all (fun m => (s.mac.getD m {}).link) then .next (clearCause 2 s) else .next s

/-- `VBAK_LOW_CROSSING`. -/
def execVbakLowCrossing (s : State) : Host.Outcome State Fault Refusal :=
  let s := modSys (fun x => { x with vbakLow := true }) s
  if isUp s then .next (setCause 3 s) else .next s

/-- `VBAK_LOW_RELEASE`. -/
def execVbakLowRelease (s : State) : Host.Outcome State Fault Refusal :=
  .next (clearCause 3 (modSys (fun x => { x with vbakLow := false }) s))

/-! ### Board temperature (R574, R575, R577), in 0.1 °C -/

/-- SYS_TEMP takes a reading; the highest of a window event is kept. -/
def noteTemp (t : Int) (s : State) : State :=
  modSys (fun x => { x with temp := t, fireMax := if x.fire then max x.fireMax t else x.fireMax }) s

/-- `FIRE_WINDOW_SET`: above +70.0 °C for 1 s, JF6400-X only. -/
def execFireWindowSet (temp : Int) (s : State) : Host.Outcome State Fault Refusal :=
  let s := noteTemp temp s
  if Config.orderX && !s.sys.fire && s.sys.boot ≠ .off then
    let s := modSys (fun x => { x with fire := true, fireMax := temp, fireStart := s.evr.opTime, fireOver := false, fireLong := false }) s
    if isUp s then .next (setCause 5 s) else .next s
  else .next s

/-- `FIRE_WINDOW_CLEAR`: at or below +65.0 °C for 60 s; event 0x0031. -/
def execFireWindowClear (temp : Int) (s : State) : Host.Outcome State Fault Refusal :=
  let s := noteTemp temp s
  if s.sys.fire then
    let mins := min ((s.evr.opTime - s.sys.fireStart) / 61440) 0xFFFF
    let hi := s.sys.fireMax
    let s := clearCause 5 (modSys (fun x => { x with fire := false }) s)
    .next (sysEvent 0x0031 (mins * 2 ^ 16 + twos 16 hi) s)
  else .next s

/-- `FIRE_WINDOW_OVERTEMP`: above +95.0 °C for 1 s, once per window event. -/
def execFireWindowOvertemp (temp : Int) (s : State) : Host.Outcome State Fault Refusal :=
  let s := noteTemp temp s
  if s.sys.fire && !s.sys.fireOver then
    .next (sysEvent 0x0030 (2 ^ 31 + twos 16 temp) (modSys (fun x => { x with fireOver := true }) s))
  else .next s

/-- `FIRE_WINDOW_TIME_LIMIT`: the window event reaches 120 min, once. -/
def execFireWindowTimeLimit (temp : Int) (s : State) : Host.Outcome State Fault Refusal :=
  let s := noteTemp temp s
  if s.sys.fire && !s.sys.fireLong then
    .next (sysEvent 0x0030 (2 ^ 31 + 2 ^ 30 + twos 16 temp) (modSys (fun x => { x with fireLong := true }) s))
  else .next s

/-- `TEMP_EXCURSION`: outside −25 °C to +70 °C on a JF6400-S, below −40.0 °C on a JF6400-X, for 1 s; once. -/
def execTempExcursion (temp : Int) (s : State) : Host.Outcome State Fault Refusal :=
  let s := noteTemp temp s
  let outside := if Config.orderX then decide (temp < -400) else decide (temp < -250 ∨ temp > 700)
  if outside && !s.sys.excursion && s.sys.boot ≠ .off then
    .next (sysEvent 0x0030 (bit (decide (temp > 0)) * 2 ^ 31 + twos 16 temp) (modSys (fun x => { x with excursion := true }) s))
  else .next s

/-- `TEMP_EXCURSION_END`: within the range for 60 s. -/
def execTempExcursionEnd (s : State) : Host.Outcome State Fault Refusal :=
  .next (modSys (fun x => { x with excursion := false }) s)

/-! ### Power gating (R66) -/

/-- `CORE_WAKE`: a crew core leaves gating 5 µs before its next catch; a spare seat stays gated until one of its uses
(R39). -/
def execCoreWake (core : Fin 16) (s : State) : Host.Outcome State Fault Refusal :=
  if coreRuns s core.val && tget s.wke.seats core.val ≠ some .free then
    .next (modCore core.val (fun x => { x with powered := true }) s)
  else .next s

end Sys2Proof.Machine
end

