-- ==== Sys2Proof/Machine/Dbg.lean ====
section
/-! DEFINITION. The debug port: the TAP, tokens, DBG_REQ, cores under the probe, the force table, disconnection
(R538 to R557). -/
namespace Sys2Proof.Machine

/-- Changes the DBG block. -/
def modDbg (f : Dbg → Dbg) (s : State) : State := { s with dbg := f s.dbg }

/-- A debug event. -/
def dbgEvent (code detail : Nat) (s : State) : State := raise { code := code, block := 0x13, detail := detail } s

/-- The probe has written (R551). -/
def probeWrote (s : State) : State := modDbg (fun d => { d with wrote := true }) s

/-! ### The TAP (R538) -/

/-- A TAP instruction takes effect and shifts `out` through TDO; unpowered and in reset TDO is open and the probe reaches
nothing (R561; DEDUCED, log entry 16). -/
def tap (f : Dbg → Dbg) (out : Nat) (s : State) : State :=
  if driving s then { modDbg f s with answer := .value out } else { s with answer := .none }

/-- `TAP_EXTEST`: the boundary register captures the logic pins of J2, takes what is shifted in, and drives them
(`logicPin`). -/
def execTapExtest (pins shiftIn : Nat) (s : State) : Host.Outcome State Fault Refusal :=
  .next (tap (fun d => { d with ir := 0, boundary := shiftIn }) pins s)

/-- `TAP_IDCODE`: 0x1640_0FFF. -/
def execTapIdcode (s : State) : Host.Outcome State Fault Refusal :=
  .next (tap (fun d => { d with ir := 1 }) 0x16400FFF s)

/-- `TAP_SAMPLE_PRELOAD`: the boundary register captures the logic pins and takes what is shifted in, without driving. -/
def execTapSamplePreload (pins shiftIn : Nat) (s : State) : Host.Outcome State Fault Refusal :=
  .next (tap (fun d => { d with ir := 2, boundary := shiftIn }) pins s)

/-- `TAP_BYPASS`: the one-bit register, which captures 0. Every unlisted instruction code acts so. -/
def execTapBypass (s : State) : Host.Outcome State Fault Refusal :=
  .next (tap (fun d => { d with ir := 0x1F }) 0 s)

/-! ### Tokens (R476, R541) -/

/-- The image in force accepts debug tokens: DEBUG of its policy record (R459). -/
def tokensAllowed (s : State) : Bool := f8 ((recs s.drw.image 0xD).headD []) 1 = 1

/-- Why a token is refused (R476, R490): 0 not refused, 3 FORMAT, 2 STATE, 1 SIGNATURE. -/
def tokenReason (s : State) (t : List Byte) : Nat :=
  let n := f16 t 72
  if f32 t 0 ≠ 0x5444464A || f8 t 4 ≠ 1 || f8 t 5 > 1 || f16 t 6 ≠ 0 || n < 1 || n > 1462 || t.length < 74 + n then 3
  else if !tokensAllowed s then 2
  else if sub t 8 32 ≠ identity s.key || sub t 40 32 ≠ s.key.nonce || (slotKey s.key 1).isEmpty ||
    !Config.falconVerifies (slotKey s.key 1) (sub t 0 72) (sub t 74 n) then 1
  else 0

/-- A token is presented: in DEPLOYED it allows debug until the next reset, or is refused; elsewhere debug is allowed
already. -/
def presentToken (s : State) : State :=
  if s.key.lc ≠ 2 then s
  else
    let t := s.dbg.token
    let r := tokenReason s t
    if r = 0 then
      let b := (f8 t 5).testBit 0
      let s := modKey (fun k => { k with allowed := true }) s
      let s := modDbg (fun d => { d with bypassOk := d.bypassOk || b, tokenRefused := false }) s
      keyEvent 0xD00A (bit b) { s with enabled := if s.enabled.contains .dbg then s.enabled else s.enabled ++ [.dbg] }
    else keyEvent 0xD006 (0xFF * 2 ^ 24 + r) (modDbg (fun d => { d with tokenRefused := true }) s)

/-- A word appended to the token buffer of 1,536 bytes. -/
def tokenWrite (v : Nat) (s : State) : State :=
  probeWrote (modDbg (fun d => if d.token.length + 4 ≤ 1536 then { d with token := d.token ++ leBytes 4 v } else d) s)

/-- `DBG_TOKEN_WRITE`. -/
def execDbgTokenWrite (v : BitVec 32) (s : State) : Host.Outcome State Fault Refusal := .next (tokenWrite v.toNat s)

/-! ### Commands (R542 to R547, R552, R556) -/

/-- A derive, digest, sign or public request in service when debug is enabled ends with reason STATE (R543; DEDUCED, log
entry 14). -/
def stopUse (r : KeyReq) : KeyReq :=
  match r.op with
  | .derive_ _ _ | .digest _ _ | .sign _ _ | .pub _ => if r.reason = 0 then { r with reason := 2, key := 0 } else r
  | _ => r

/-- Debug is enabled for the first time in this boot (R542, R543, R461). -/
def enableDebug (s : State) : State :=
  if s.key.debugUsed then s
  else
    let s := modKey (fun k => { wipeWorking k with debugUsed := true, offcutMram := true, running := k.running.map stopUse }) s
    let s := { s with rtc := { s.rtc with offcutPending := true } }
    dbgEvent 0xF010 (s.key.lc + 8 * bit s.dbg.bypassOk) s

/-- A step is asked for (R546, R547); one that runs makes the module ignore it (R552). -/
def askStep (freeze : Bool) (s : State) : State :=
  if s.sys.mode ≠ .debug then s
  else if s.dbg.stepBusy || s.dbg.stepDue then modDbg (fun d => { d with stepIgnored := true }) s
  else modDbg (fun d => { d with stepDue := true, freeze := freeze }) s

/-- The probe releases the module: reset with cause DBG_EXIT, during a step at the close of the next edge. -/
def releaseDebug (s : State) : State :=
  if s.sys.mode ≠ .debug then s
  else if s.dbg.stepBusy then
    modSys (fun x => { x with dueFirst := if x.dueFirst = 0 then 7 else x.dueFirst }) (modDbg (fun d => { d with exitDue := true }) s)
  else assertReset 6 s

/-- A write of `v` to DBG_REQ (R556). -/
def dbgRequest (v : Nat) (s : State) : State :=
  let cmd := v % 16
  let known := cmd = 1 || cmd = 2 || (3 ≤ cmd && cmd ≤ 7 && s.key.allowed)
  let s := probeWrote s
  if fld v 16 16 ≠ 0x4A47 || !known then raiseIgnored 0x13 0x1012000C s
  else
    match cmd with
    | 1 => presentToken s
    | 2 => modDbg (fun d => { d with token := [] }) s
    | 3 => enableDebug s
    | 4 => if s.sys.mode = .debug then enableDebug s else modSys (fun x => { x with haltReq := true }) (enableDebug s)
    | 5 => askStep false s
    | 6 => askStep true s
    | _ => releaseDebug s

/-- A word with the key of DBG_REQ. -/
def dbgWord (cmd : Nat) : Nat := 0x4A47 * 2 ^ 16 + cmd

/-- `PRESENT_TOKEN`. -/
def execPresentToken (s : State) : Host.Outcome State Fault Refusal := .next (dbgRequest (dbgWord 1) s)
/-- `CLEAR_TOKEN`. -/
def execClearToken (s : State) : Host.Outcome State Fault Refusal := .next (dbgRequest (dbgWord 2) s)
/-- `ENABLE`. -/
def execEnable (s : State) : Host.Outcome State Fault Refusal := .next (dbgRequest (dbgWord 3) s)
/-- `HALT`. -/
def execHalt (s : State) : Host.Outcome State Fault Refusal := .next (dbgRequest (dbgWord 4) s)
/-- `TICK_STEP`. -/
def execTickStep (s : State) : Host.Outcome State Fault Refusal := .next (dbgRequest (dbgWord 5) s)
/-- `TICK_STEP_FROZEN`. -/
def execTickStepFrozen (s : State) : Host.Outcome State Fault Refusal := .next (dbgRequest (dbgWord 6) s)
/-- `RELEASE`. -/
def execRelease (s : State) : Host.Outcome State Fault Refusal := .next (dbgRequest (dbgWord 7) s)

/-- A write of `v` to DBG_TAG: BYPASS only where it is permitted (R544). -/
def tagWrite (v : Nat) (s : State) : State :=
  probeWrote (modDbg (fun d => { d with tag := v % 64 + bit (v.testBit 7 && d.bypassOk) * 128 }) s)

/-- `DBG_TAG_WRITE`. -/
def execDbgTagWrite (v : Nat) (s : State) : Host.Outcome State Fault Refusal := .next (tagWrite v s)

/-! ### Cores (R545, R546, R548, R549, R557) -/

/-- A core under the probe. -/
def dbgCore (s : State) (c : Nat) : DbgCore := s.dbg.cores.getD c {}

/-- Changes a core under the probe. -/
def modDbgCore (c : Nat) (f : DbgCore → DbgCore) (s : State) : State := modDbg (fun d => { d with cores := lmod d.cores c f }) s

/-- A core is held, out of power gating, with its program counter and registers as they then stand (R37, log entry 2). -/
def holdCore (c cause index pc : Nat) (regs : List (Nat × Nat)) (s : State) : State :=
  modCore c (fun x => { x with powered := x.powered || !coreOut s c }) <| modDbgCore c (fun x => { x with
    held := true, cause := cause, index := index, pc := pc % 2 ^ 32,
    regs := regs.foldl (fun t p => if p.1 < 96 then tset t p.1 (p.2 % 2 ^ 64) else t) x.regs }) s

/-- A core is held where the manual does not say it stands: free values (log entry 7). -/
def holdFree (c cause : Nat) (s : State) : State :=
  holdCore c cause 0 (Config.freeValue s.fresh) ((List.range 96).map (fun i => (i, Config.freeValue (s.fresh + 1 + i))))
    { s with fresh := s.fresh + 97 }

/-- A core that the probe does not hold is idle. -/
def stepIdle (s : State) (c : Nat) : Bool :=
  coreHeld s c || coreOut s c || ((s.cores.getD c {}).driving.isNone && (bestReady s c).isNone)

/-- A step ends when every core that the probe does not hold is idle. -/
def stepCheck (s : State) : State :=
  if s.dbg.stepBusy && (List.range 16).all (stepIdle s) then modDbg (fun d => { d with stepBusy := false }) s else s

/-- `STEP_END`. -/
def execStepEnd (s : State) : Host.Outcome State Fault Refusal := .next (stepCheck s)

/-- A core that the entry into DEBUG holds is halted by the probe: it stays held at a step (R546, R548; DEDUCED, log
entry 16). -/
def keepHold (c : Nat) (s : State) : State :=
  modDbgCore c (fun x => if x.held && x.cause = 5 then { x with cause := 1 } else x) s

/-- `CORE_HALT`: the core stops after its current instruction; ignored outside DEBUG. -/
def execCoreHalt (core : Fin 16) (pc : Nat) (regs : List (Nat × Nat)) (s : State) : Host.Outcome State Fault Refusal :=
  let s := probeWrote s
  if s.sys.mode ≠ .debug || coreOut s core.val then .next s
  else if coreHeld s core.val then .next (keepHold core.val s)
  else .next (holdCore core.val 1 0 pc regs s)

/-- A held core runs on: the step it belongs to runs again until its drives end. -/
def coreRun (c : Nat) (s : State) : State :=
  let s := probeWrote s
  if s.sys.mode ≠ .debug || !coreHeld s c then s
  else
    let s := modDbgCore c (fun x => { x with held := false, cause := 0, index := 0 }) s
    stepCheck (gateIdle c (dispatchCore (modDbg (fun d => { d with stepBusy := true }) s) c))

/-- `CORE_RUN`. -/
def execCoreRun (core : Fin 16) (s : State) : Host.Outcome State Fault Refusal := .next (coreRun core.val s)

/-- `CORE_STEP`: one instruction of a held core, which is held again. -/
def execCoreStep (core : Fin 16) (pc : Nat) (regs : List (Nat × Nat)) (s : State) : Host.Outcome State Fault Refusal :=
  let s := probeWrote s
  if s.sys.mode ≠ .debug || !coreHeld s core.val then .next s else .next (holdCore core.val 4 0 pc regs s)

/-- A core can be stopped by a match: not held, or held by HALT in the same cycle, when the match is reported (R552). -/
def canStop (s : State) (c pc : Nat) : Bool :=
  s.enabled.contains .dbg && !coreOut s c &&
    (!coreHeld s c || ((dbgCore s c).cause = 1 && (dbgCore s c).pc = pc % 2 ^ 32))

/-- `BREAKPOINT_HIT`: the fetch address equals an enabled breakpoint's word address. -/
def execBreakpointHit (core : Fin 16) (index : Fin 8) (pc : Nat) (regs : List (Nat × Nat)) (s : State) :
    Host.Outcome State Fault Refusal :=
  let b := (dbgCore s core.val).bps.getD index.val 0
  if canStop s core.val pc && b.testBit 0 && b / 4 = pc % 2 ^ 32 / 4 then .next (holdCore core.val 2 index.val pc regs s) else .next s

/-- `WATCHPOINT_HIT`: a data access matches an enabled watchpoint in every bit above MASK and in its direction. -/
def execWatchpointHit (core : Fin 16) (index : Fin 4) (addr : Nat) (write : Bool) (pc : Nat) (regs : List (Nat × Nat))
    (s : State) : Host.Outcome State Fault Refusal :=
  let w := (dbgCore s core.val).wps.getD index.val (0, 0)
  let m := 2 ^ (w.2 % 32)
  if canStop s core.val pc && w.2.testBit 31 && w.2.testBit (if write then 9 else 8) && addr % 2 ^ 32 / m = w.1 / m then
    .next (holdCore core.val 3 index.val pc regs s)
  else .next s

/-! ### The force table (R550) -/

/-- A word of a force entry is written: PT, LO, HI; in DEBUG only. Each set and each clear is event 0xF013. -/
def forceWrite (e word v : Nat) (s : State) : State :=
  let s := probeWrote s
  if s.sys.mode ≠ .debug then s
  else
    let old := (s.dbg.forces.getD e {}).pt
    let pt := v % 2 ^ 14 + bit (v.testBit 31) * 2 ^ 31
    let s := modDbg (fun d => { d with forces := lmod d.forces e (fun f =>
      if word = 0 then { f with pt := pt }
      else if word = 1 then { f with value := f.value / 2 ^ 32 * 2 ^ 32 + v % 2 ^ 32 }
      else { f with value := v % 2 ^ 32 * 2 ^ 32 + f.value % 2 ^ 32 }) }) s
    if word = 0 && pt ≠ old && (pt.testBit 31 || old.testBit 31) then
      dbgEvent 0xF013 (bit (pt.testBit 31) * 2 ^ 31 + e * 2 ^ 16 + (if pt.testBit 31 then pt else old) % 2 ^ 14) s
    else s

/-- `FORCE_ENTRY_WRITE`. -/
def execForceEntryWrite (entry : Fin 32) (word : Fin 3) (v : BitVec 32) (s : State) : Host.Outcome State Fault Refusal :=
  .next (forceWrite entry.val word.val v.toNat s)

/-! ### Disconnection (R540) -/

/-- `PROBE_IDLE_TIMEOUT`: no access for 2 s in DEBUG. -/
def execProbeIdleTimeout (s : State) : Host.Outcome State Fault Refusal :=
  if s.sys.mode = .debug then .next (releaseDebug (dbgEvent 0xF015 0 s)) else .next s

/-- `TRST_N_LOW`: held low for 10 ms; the TAP is reset (IEEE 1149.1). -/
def execTrstNLow (s : State) : Host.Outcome State Fault Refusal :=
  let s := modDbg (fun d => { d with ir := 1 }) s
  if s.sys.mode = .debug then .next (releaseDebug (dbgEvent 0xF015 1 s)) else .next s

end Sys2Proof.Machine
end

