-- ==== Sys2Proof/Machine/Evr.lean ====
section
/-! DEFINITION. The event recorder's commands: batches, the head, cursors, the window, clearing (R427 to R446). -/
namespace Sys2Proof.Machine

/-- Changes the recorder. -/
def modEvr (f : Evr → Evr) (s : State) : State := { s with evr := f s.evr }

/-- The codes of the catalogue (R578); no other is ever recorded (R582). -/
def knownCode (c : Nat) : Bool :=
  let n := c % 0x1000
  match c / 0x1000 with
  | 0x0 => n ∈ [0x001, 0x002, 0x004, 0x005, 0x010, 0x011, 0x012, 0x013, 0x020, 0x021, 0x022, 0x023, 0x030, 0x031]
  | 0x1 => n ∈ [0x001, 0x010, 0x011, 0x013]
  | 0x2 => 1 ≤ n && n ≤ 7
  | 0x3 => 1 ≤ n && n ≤ 9
  | 0x4 => 1 ≤ n && n ≤ 0xC
  | 0x5 => 1 ≤ n && n ≤ 4
  | 0x6 => 1 ≤ n && n ≤ 0xD
  | 0x7 => 1 ≤ n && n ≤ 4
  | 0x8 => 1 ≤ n && n ≤ 5
  | 0x9 => 1 ≤ n && n ≤ 6
  | 0xA => 1 ≤ n && n ≤ 9
  | 0xB => 1 ≤ n && n ≤ 0xC
  | 0xC => 1 ≤ n && n ≤ 9
  | 0xD => 1 ≤ n && n ≤ 0xD
  | 0xE => 1 ≤ n && n ≤ 0xB
  | 0xF => (1 ≤ n && n ≤ 0xB) || (0x10 ≤ n && n ≤ 0x15)
  | _ => false

/-- `EVENT_OCCURRENCE`: a block raises an occurrence (R430). -/
def execEventOccurrence (code block unit drawer detail : Nat) (s : State) : Host.Outcome State Fault Refusal :=
  if knownCode code then
    .next (raise { code := code, block := block % 32, unit := unit % 2048, drawer := drawer % 32, detail := detail } s)
  else .next s

/-- `EVENT_BUFFER_EMPTY` (R430). -/
def execEventBufferEmpty (s : State) : Host.Outcome State Fault Refusal := .next (drainBuffer s)

/-- `HEAD_CLOSE`: HEAD_OPEN has elapsed (R431). -/
def execHeadClose (s : State) : Host.Outcome State Fault Refusal := .next (modEvr (fun e => { e with headOpen := false }) s)

/-- `TOKEN_GAIN`: a bucket below BURST gains a token (R432). -/
def execTokenGain (code : Nat) (s : State) : Host.Outcome State Fault Refusal :=
  .next (modEvr (fun e => { e with spent := tset e.spent code (tnum e.spent code - 1) }) s)

/-- `OP_TIME_SAVE`: the operating time is saved (R428). -/
def execOpTimeSave (s : State) : Host.Outcome State Fault Refusal :=
  .next (modEvr (fun e => { e with opSaved := e.opTime }) s)

/-- Records the archive holds: 65,536 batches of 4,096 (R434). -/
def archiveCap : Nat := 268435456

/-- `BATCH_MOVE_DONE`: the oldest 4,096 records are in the archive and leave the store; the episode of overwrites
ends; the next batch starts while more than 393,216 are held (R434). While NAND writes are paused it waits (R59). -/
def execBatchMoveDone (s : State) : Host.Outcome State Fault Refusal :=
  if s.evr.moving && !s.sys.nandPaused then
    .next (modEvr (fun e =>
      let batch := e.records.take 4096
      let arch := if e.archive.length + batch.length > archiveCap then e.archive.drop 4096 else e.archive
      moveStart s.sys.brace { e with
        records := e.records.drop 4096, archive := arch ++ batch, moving := false, full := false }) s)
  else .next s

/-! ### Cursors and the window (R436 to R438) -/

/-- Distance of a RECNO from the floor, modulo 2^32 (R438). -/
def recnoDist (e : Evr) (v : Nat) : Nat := (v + 2 ^ 32 - e.floor % 2 ^ 32) % 2 ^ 32

/-- A written cursor value held within the span; true when it was moved (R438). -/
def clampCursor (e : Evr) (v : Nat) : Nat × Bool :=
  let d := recnoDist e v
  if d ≤ recnoDist e e.next then (v, false) else if d ≥ 2 ^ 31 then (e.floor, true) else (e.next, true)

/-- A cursor below the floor, or at a record no longer held, moves to the oldest record still held from there on (R438): the
store can overwrite records while older ones stand in the archive (DEDUCED, log entry 5). -/
def settleCursor (e : Evr) (v : Nat) : Nat × Bool :=
  let c := clampCursor e v
  let held := fun (r : EvRecord) => recnoDist e r.recno < recnoDist e e.next && recnoDist e c.1 ≤ recnoDist e r.recno
  match (e.archive ++ e.records).find? held with
  | some r => if r.recno = c.1 then c else (r.recno, true)
  | none => if c.1 = e.next then c else (e.next, true)

/-- A cursor sees a record: the service cursor every one, a drawer's its own and the public ones (R436). -/
def cursorSees (c : Nat) (r : EvRecord) : Bool := c = 32 || r.drawer = c || publicCode r.code

/-- The first record at or after a RECNO that a cursor sees, with whether it is archived. -/
def findRecord (e : Evr) (c v : Nat) : Option (EvRecord × Bool) :=
  let ok := fun (r : EvRecord) => recnoDist e r.recno < recnoDist e e.next && recnoDist e v ≤ recnoDist e r.recno && cursorSees c r
  match e.archive.find? ok with
  | some r => some (r, true)
  | none => (e.records.find? ok).map (fun r => (r, false))

/-- A read of EVR_WINDOW0 through a cursor (R437, R438, R445). -/
def latchWindow (c : Nat) (e : Evr) : Evr :=
  let v := settleCursor e (e.cursors.getD c 1)
  let skipped := v.2 || e.skips.getD c false
  let e := { e with cursors := lmod e.cursors c (fun _ => v.1), skips := lmod e.skips c (fun _ => false) }
  match findRecord e c v.1 with
  | some (r, arch) =>
    let b := recordBytes r
    let head := e.headOpen && e.records.getLast?.elim false (fun h => h.recno = r.recno)
    { e with
      window := (List.range 8).map (fun i => w32 (f32 b (4 * i))), wrecno := r.recno,
      wstat := w32 (2 ^ 31 + bit skipped * 2 ^ 30 + bit head * 2 ^ 29 + bit arch * 2 ^ 28 + c),
      cursors := lmod e.cursors c (fun _ => (r.recno + 1) % 2 ^ 32) }
  | none => { e with window := List.replicate 8 0, wrecno := 0, wstat := w32 (bit skipped * 2 ^ 30 + c) }

/-- `EVENT_WINDOW_LATCH`: the service initiator reads EVR_WINDOW0. -/
def execEventWindowLatch (s : State) : Host.Outcome State Fault Refusal :=
  let s := modEvr (fun e => latchWindow e.select e) s
  .next { s with answer := .value (s.evr.window.headD 0).toNat }

/-- A write to a cursor (R438). -/
def writeCursor (c v : Nat) (e : Evr) : Evr :=
  let w := clampCursor e (v % 2 ^ 32)
  { e with cursors := lmod e.cursors c (fun _ => w.1), skips := lmod e.skips c (fun b => b || w.2) }

/-- `EVENT_CURSOR_WRITE`. -/
def execEventCursorWrite (cursor : Fin 33) (v : Nat) (s : State) : Host.Outcome State Fault Refusal :=
  .next (modEvr (writeCursor cursor.val v) s)

/-! ### Clearing (R439) -/

/-- A clear writes its event 0x0021 and raises the floor to that record. -/
def clearRecords (s : State) : State :=
  let n := s.evr.next
  let s := raise { code := 0x0021, block := 0x0E, detail := s.evr.floor } s
  if s.evr.next = n then s else modEvr (fun e => { e with floor := n }) s

/-- A write to EVR_CLEAR (R446). -/
def clearWrite (v : Nat) (s : State) : State :=
  if fld v 16 16 ≠ 0x4A45 then raiseIgnored 0x0E 0x100D0018 s else if v.testBit 0 then clearRecords s else s

/-- `EVR_CLEAR`. -/
def execEvrClear (v : Nat) (s : State) : Host.Outcome State Fault Refusal := .next (clearWrite v s)

/-- The drawer of a task that calls a service. -/
def callerDrawer (s : State) (c : Nat) : Option Nat := (drivenBy s c).map (fun p => taskDrawer s p.1)

/-- `EVENT_CLEAR`: refused to every drawer but 0. -/
def execEventClear (core : Fin 16) (s : State) : Host.Outcome State Fault Refusal :=
  if callerDrawer s core.val = some 0 then .next { clearRecords s with answer := .value 0 }
  else .next { s with answer := .refused }

/-- `EVENT_READ`: the next record the drawer's cursor sees, as 32 bytes. -/
def execEventRead (core : Fin 16) (s : State) : Host.Outcome State Fault Refusal :=
  match callerDrawer s core.val with
  | none => .next { s with answer := .refused }
  | some d =>
    let s := modEvr (fun e => latchWindow d { e with select := d }) s
    if s.evr.wstat.toNat.testBit 31 then .next { s with answer := .bytes (s.evr.window.flatMap (fun w => leBytes 4 w.toNat)) }
    else .next { s with answer := .none }

/-- `EVENT_SEEK`: moves the drawer's cursor. -/
def execEventSeek (core : Fin 16) (recno : Nat) (s : State) : Host.Outcome State Fault Refusal :=
  match callerDrawer s core.val with
  | none => .next { s with answer := .refused }
  | some d => .next (modEvr (writeCursor d recno) s)

/-- `EVENT_NEXT`: the RECNO the next read starts from. -/
def execEventNext (core : Fin 16) (s : State) : Host.Outcome State Fault Refusal :=
  match callerDrawer s core.val with
  | none => .next { s with answer := .refused }
  | some d => .next { s with answer := .value (settleCursor s.evr (s.evr.cursors.getD d 1)).1 }

end Sys2Proof.Machine
end

