-- ==== Sys2Proof/Machine/Upd.lean ====
section
/-! DEFINITION. Updates: staging, verification, the shadow, the switch, the watch, rollbacks and the owner's lock
(R493 to R519). -/
namespace Sys2Proof.Machine

/-! ### Sets and slots (R493, R496) -/

/-- The slot that is not active. -/
def stagedSlot (s : State) : SlotSet := slotOf s.upd (!s.upd.activeB)

/-- The greatest length of a part (R493): runtime, carcass image, program set. -/
def partLimit (p : Nat) : Nat := if p = 0 then 268435456 else if p = 1 then 33554432 else 2147483648

/-- Writes bytes at the offset of the part selected, or sets OVER (R496). During a brace the slot itself waits (R59). -/
def stageBytes (bs : List Byte) (s : State) : State :=
  let u := s.upd
  if u.offset + bs.length > partLimit u.part then modUpd (fun u => { u with overrun := true }) s
  else modUpd (fun u =>
    let w := if s.sys.brace then { u with held := u.held ++ [(u.part, u.offset, bs)] } else slotWrite u.part u.offset bs u
    { w with offset := (u.offset + bs.length) % 2 ^ 32, written := bset u.written u.part }) s

/-- STAGE_OPEN (R496). -/
def stageOpen (s : State) : State :=
  modUpd (fun u =>
    let w := modSlot (!u.activeB) (fun _ => { st := .staging }) u
    { w with phase := .staging, held := [], copyDue := false, written := 0, overrun := false, dmaRefused := false, notStaging := false }) s

/-- XFER begins: the transfer carries the tag of its initiator (R496). -/
def xferStart (owner : Option Nat) (s : State) : State :=
  modUpd (fun u => { u with busy := true, overrun := false, dmaRefused := false, notStaging := false, xferOwner := owner }) s

/-- The transfer ends: its bytes are in the part, or the isolation unit has refused them (R34, R496). During a brace it
waits (R59), and while ENABLE is 0, which lets no DMA run (R43). -/
def xferDone (s : State) : State :=
  if !s.upd.busy || s.sys.brace || !s.enabled.contains .upd then s
  else
    let u := s.upd
    let s := modUpd (fun u => { u with busy := false, xferOwner := none }) s
    let (ok, s) := dmaAccess u.xferOwner false u.addr u.len s
    if ok then stageBytes (memBytes s u.addr u.len) s else modUpd (fun u => { u with dmaRefused := true }) s

/-! ### Verification (R497, R498) -/

/-- VERIFY: parts not written are copied from the active slot, when a set is in force (R101); during a brace that copy
waits (R59). -/
def verifyStart (s : State) : State :=
  modUpd (fun u =>
    let w := if s.drw.load ≠ 2 then u else if s.sys.brace then { u with copyDue := true } else copyParts u
    { w with phase := .verifying, result := 3, code := 0, section_ := 0 }) s

/-- A run of bytes at given places replaced by 0x00: offset and length. -/
def blankAt (l : List Byte) (ps : List (Nat × Nat)) : List Byte :=
  (enum l).map (fun p => if ps.any (fun q => q.1 ≤ p.1 && p.1 < q.1 + q.2) then 0 else p.2)

/-- What an ONLINE update keeps of a header: all but IMAGE_LEN, SERIAL, BUILD_TIME, the signature offsets, PROGRAM_MEAS,
CUOSH_BUILD and HDR_CRC (R498). -/
def keptHeader (img : List Byte) : List Byte :=
  blankAt (sub img 0 0x100) [(8, 4), (0x1C, 4), (0x20, 4), (0x28, 8), (0x40, 32), (0x80, 16), (0xFC, 4)]

/-- What an ONLINE update keeps of a section: nothing of NAMES and UPDATE, TASKS without BUDGET, ENTRY and STATE_SIZE. -/
def keptSection (x : Section) : Nat × Nat × List Byte :=
  if x.type = 0x7F || x.type = 0xE then (x.type, 0, [])
  else if x.type = 6 then
    (x.type, x.count, ((secRecs x).flatMap (fun r => blankAt r [(0x10, 4), (0x18, 8)])) ++ x.body.drop (32 * x.count))
  else (x.type, x.count, x.body)

/-- The new program code fits half of each read-only code window. -/
def codeFits (img : List Section) (program : List Byte) : Bool :=
  (enum (recs img 4)).all (fun p =>
    mwWritable p.2 || mwRetained p.2 || 2 * Config.codeSize program p.1 ≤ mwSize p.2)

/-- The update of the staged set is of kind ONLINE (R498). -/
def isOnline (s : State) : Bool :=
  let n := stagedSlot s
  let o := forceSlot s
  s.drw.load = 2 && keptHeader n.carcass = keptHeader o.carcass &&
    (parseImage n.carcass).map keptSection = (parseImage o.carcass).map keptSection &&
    f16 n.runtime 8 = f16 o.runtime 8 && codeFits (parseImage n.carcass) n.program

/-- KIND of the update of the staged set. -/
def updateKind (s : State) : Nat := if isOnline s then 1 else 2

/-- The checks of VERIFY on the staged set (R497). -/
def verifySet (s : State) : Option Finding :=
  let n := stagedSlot s
  if runtimeHeaderBad n.runtime || runtimeVersion n.runtime < f32 n.carcass 0x18 then some (12, 0, 0xFFFF)
  else if !runtimeSigned n.runtime then some (13, 0, 0xFFFF)
  else checkImage {
    runtime := n.runtime, program := n.program, floor := s.drw.serialFloor, keys := (List.range 8).map (slotKey s.key),
    ident := identity s.key } n.carcass

/-- The verification ends (R497, R513, R519); it cannot before the staged set is complete (R59). -/
def verifyDone (s : State) : State :=
  if s.upd.phase ≠ .verifying || !s.upd.held.isEmpty || s.upd.copyDue then s
  else
    match verifySet s with
    | some (c, t, i) =>
      updEvent 0xE002 (c * 2 ^ 24 + t * 2 ^ 16 + min i 0xFFFF)
        (modUpd (fun u => { u with phase := .staging, result := 2, code := c, section_ := t }) s)
    | none =>
      let k := updateKind s
      let rt := (stagedSlot s).runtime ≠ (forceSlot s).runtime
      let pg := (stagedSlot s).program ≠ (forceSlot s).program
      let b := !s.upd.activeB
      updEvent 0xE001 (bit b * 2 ^ 31 + k * 2 ^ 24 + bit rt * 2 + bit pg)
        (modUpd (fun u => { modSlot b (fun x => { x with st := .verified }) u with
          phase := .verified, result := 1, kind := k, runtimeCh := rt, programCh := pg }) s)

/-! ### Conditions (R499) -/

/-- The UPDATE record. -/
def updateRec (img : List Section) : Rec := (recs img 0xE).headD []

/-- A LOCK_KEY_ID is declared (R495). -/
def lockHonoured (s : State) : Bool := f64 (updateRec s.drw.image) 8 ≠ 0

/-- A point with UPDATE_BLOCKING moves, in the latest sealed version. -/
def moving (s : State) : Bool :=
  (points s.drw.image).any (fun r => ptBlocking r &&
    ((entryOf s.dvt.latest (ptIndex r)).value ≠ 0 || !isGood (entryOf s.dvt.latest (ptIndex r)).quality))

/-- A slot is VERIFIED. -/
def someVerified (u : Upd) : Bool := u.slotA.st = .verified || u.slotB.st = .verified

/-- A phase between SHADOW and WATCH. -/
def midUpdate (u : Upd) : Bool :=
  u.startDue || u.phase = .shadow || u.phase = .deferred || u.phase = .switching || u.phase = .watch

/-- UPD_REFUSE without BUSY: what also holds the switch edge back. -/
def refuseMask (s : State) : Nat :=
  let none8 := bit (!someVerified s.upd) * 2 ^ 8
  if s.drw.load = 3 then none8
  else
    let kind := if someVerified s.upd then updateKind s else 0
    bit (moving s) + bit (s.sys.replace.testBit 3) * 2 + bit (s.upd.locked && lockHonoured s) * 4 +
      bit ((List.range 40).any (targetForced s) || s.jig.latch ≠ 0) * 8 + bit (s.sys.mode = .degraded && kind = 2) * 16 +
      bit (kind = 1 && (freeSeats s.wke).isEmpty) * 32 + bit (s.sys.mode ≠ .run && s.sys.mode ≠ .degraded) * 64 + none8

/-- UPD_REFUSE (R499). -/
def updRefuse (s : State) : Nat := refuseMask s + bit (s.drw.load ≠ 3 && midUpdate s.upd) * 2 ^ 7

/-! ### Switching slots (R503, R507 to R509) -/

/-- The staged slot becomes IN_FORCE, the old one PREVIOUS, UNCONFIRMED is set. -/
def promote (u : Upd) : Upd :=
  let old := modSlot u.activeB (fun x => if x.st = .inForce then { x with st := .previous } else x) u
  let new := modSlot (!u.activeB) (fun x => { x with st := .inForce }) old
  { new with activeB := !u.activeB, unconfirmed := true, rolledBack := false }

/-- The image of the active slot becomes the image in force (R84, R105). -/
def adoptActive (s : State) : State :=
  let img := (activeSlot s.upd).carcass
  { s with drw := { s.drw with
    slotB := s.upd.activeB, image := parseImage img, meas := Config.shake256 (signedPart img) 32, serial := f32 img 0x1C } }

/-- START (R499, R500, R509). -/
def startUpdate (s : State) : State :=
  let m := updRefuse s
  if m ≠ 0 then updEvent 0xE003 m s
  else if isOnline s then modUpd (fun u => { u with startDue := true, kind := 1 }) s
  else serviceReset (modUpd (fun u => { promote u with kind := 2, online := false, switchEnd := none }) s)

/-- ROLLBACK: trigger 6 (R506). -/
def askRollback (s : State) : State := modUpd (fun u => { u with back := some (0xFF, 6), phase := .rollingBack }) s

/-! ### The lock (R512) -/

/-- A lock block that every check passes. -/
def lockOk (s : State) (b : List Byte) : Bool :=
  let n := f16 b 44
  f32 b 0 = 0x4C55464A && f8 b 4 = 1 && f8 b 5 ≤ 1 && f16 b 6 = 0 && f32 b 8 > s.upd.lockSeq && sub b 12 32 = identity s.key &&
    1 ≤ n && n ≤ 1462 && !(slotKey s.key 1).isEmpty && Config.falconVerifies (slotKey s.key 1) (sub b 0 44) (sub b 46 n)

/-- LOCK: the block at UPD_LOCK_ADDR, read with the tag of the initiator; while ENABLE is 0 no DMA reads it and nothing
happens (R43). -/
def lockCommand (owner : Option Nat) (s : State) : State :=
  if !s.enabled.contains .upd then s else
  let a := s.upd.lockAddr
  let n := min (leNat (memBytes s (a + 44) 2)) 1462
  let (ok, s) := dmaAccess owner false a (46 + n) s
  let b := memBytes s a (46 + n)
  if ok && lockOk s b then
    updEvent 0xE00B (f8 b 5 * 2) (modUpd (fun u => { u with locked := f8 b 5 = 1, lockSeq := f32 b 8 }) s)
  else updEvent 0xE00B 1 s

/-! ### Commands (R517) -/

/-- The command is allowed in the current phase. -/
def updAllowed (u : Upd) (cmd : Nat) : Bool :=
  match cmd with
  | 1 => !u.startDue && (u.phase = .idle || u.phase = .staging || u.phase = .verified)
  | 2 => u.phase = .staging && !u.busy
  | 3 => u.phase = .staging && !u.busy
  | 4 => true
  | 5 => shadowing u
  | 6 => u.phase = .switching || u.phase = .watch
  | 7 => true
  | _ => false

/-- A write of `v` to UPD_CMD by an initiator: a drawer, or none for the service initiator. -/
def updCommand (v : Nat) (owner : Option Nat) (s : State) : State :=
  let cmd := v % 16
  if fld v 16 16 ≠ 0x4A55 || !updAllowed s.upd cmd then
    let s := if fld v 16 16 = 0x4A55 && cmd = 2 && s.upd.phase ≠ .staging then modUpd (fun u => { u with notStaging := true }) s else s
    raiseIgnored 0x11 0x1010000C s
  else
    match cmd with
    | 1 => stageOpen s
    | 2 => xferStart owner s
    | 3 => verifyStart s
    | 4 => startUpdate s
    | 5 => abandonUpdate 1 s
    | 6 => askRollback s
    | _ => lockCommand owner s

/-- A word with the key of UPD_CMD. -/
def updWord (cmd : Nat) : Nat := 0x4A55 * 2 ^ 16 + cmd

/-- A command given by the service initiator, as the manager's are, or through a service of a crew core's stroke, which
needs a basic UPD grant (R494): its DMA carries the tag of the initiator (R496). -/
def updService (by_ : Option (Fin 16)) (cmd : Nat) (s : State) : State :=
  match by_ with
  | none => updCommand (updWord cmd) none s
  | some c => service c.val 31 0x11 0x1010000C (fun s => updCommand (updWord cmd) (some (coreTag s c.val)) s) s

/-- `STAGE_OPEN`. -/
def execStageOpen (s : State) (by_ : Option (Fin 16) := none) : Host.Outcome State Fault Refusal := .next (updService by_ 1 s)
/-- `XFER`. -/
def execXfer (by_ : Option (Fin 16)) (s : State) : Host.Outcome State Fault Refusal := .next (updService by_ 2 s)
/-- `XFER_DONE`. -/
def execXferDone (s : State) : Host.Outcome State Fault Refusal := .next (xferDone s)
/-- A word written to UPD_XFER_DATA (R496). -/
def xferData (v : Nat) (s : State) : State :=
  if s.upd.phase = .staging then stageBytes (leBytes 4 v) s else modUpd (fun u => { u with notStaging := true }) s
/-- `XFER_DATA`. -/
def execXferData (v : BitVec 32) (s : State) : Host.Outcome State Fault Refusal := .next (xferData v.toNat s)
/-- `VERIFY`. -/
def execVerify (s : State) (by_ : Option (Fin 16) := none) : Host.Outcome State Fault Refusal := .next (updService by_ 3 s)
/-- `VERIFY_DONE`. -/
def execVerifyDone (s : State) : Host.Outcome State Fault Refusal := .next (verifyDone s)
/-- `START`. -/
def execStart (s : State) (by_ : Option (Fin 16) := none) : Host.Outcome State Fault Refusal := .next (updService by_ 4 s)
/-- `ABANDON`. -/
def execAbandon (s : State) : Host.Outcome State Fault Refusal := .next (updCommand (updWord 5) none s)
/-- `ROLLBACK`. -/
def execRollback (s : State) (by_ : Option (Fin 16) := none) : Host.Outcome State Fault Refusal := .next (updService by_ 6 s)
/-- `LOCK`, by the service initiator or by a crew core's stroke, which writes UPD_CMD itself and needs an expert grant
(R514). -/
def execLock (by_ : Option (Fin 16)) (s : State) : Host.Outcome State Fault Refusal :=
  match by_ with
  | none => .next (updCommand (updWord 7) none s)
  | some c =>
    match drivenBy s c.val with
    | none => .next { s with answer := .refused }
    | some (n, _, _) =>
      if grant s.drw.image (taskDrawer s n) 31 = 2 then .next (updCommand (updWord 7) (some (coreTag s c.val)) s)
      else .next { coreRefused c.val 1 0x11 0x1010000C s with answer := .refused }

/-! ### The shadow (R500 to R502) -/

/-- ENTRY of a task in an image. -/
def entryId (img : List Section) (n : Nat) : Nat := (taskRec img n).elim 0 (fun r => f32 r 0x18)

/-- ENTRY and per-entry measurement of a task are unchanged (R500). -/
def unchanged (s : State) (n : Nat) : Bool :=
  let o := entryId (parseImage (forceSlot s).carcass) n
  let e := entryId (parseImage (stagedSlot s).carcass) n
  o = e && Config.entryMeas (forceSlot s).program o = Config.entryMeas (stagedSlot s).program e

/-- Tasks bound one after another across cores: the core with the fewest bound, a tie to the lower (R121). -/
def bindAcross (cores : List Nat) (slots : List Nat) : Table Nat :=
  slots.foldl (fun t n =>
    let load := fun c => t.countP (fun p => p.2 = c)
    match cores with
    | [] => t
    | c :: r => tset t n (r.foldl (fun best x => if load x < load best then x else best) c)) []

/-- The shadow begins at this edge (R500): event 0xE004. Without a free seat it is abandoned. -/
def shadowStart (s : State) : State :=
  if !s.upd.startDue then s
  else
    let free := (s.wke.seats.filter (fun p => p.2 = .free || p.2 = .selfTest)).map (·.1)
    if free.isEmpty then abandonUpdate 2 s
    else
      let cov := declaredSlots s
      let seats := bindAcross free cov
      let used := (seats.map (·.2)).eraseDups
      let s := { s with wke := { s.wke with seats := s.wke.seats.map (fun p => if used.contains p.1 then (p.1, .shadow) else p) } }
      let s := modUpd (fun u => { u with
        startDue := false, phase := .shadow, startEdge := s.stk.edges, covered := cov, compared := cov.filter (unchanged s),
        seats := seats, ran := [], shadowEdges := 0, comparedN := 0, misses := 0 }) s
      updEvent 0xE004 (used.length * 2 ^ 16 + cov.length) s

/-- The edge of R502's COVERAGE reason. -/
def coverageEdge (s : State) : Nat :=
  s.upd.startEdge + s.upd.shadowN + 2 * maxOf (s.upd.covered.map (taskPeriod s))

/-- A covered task that has not completed a shadow stroke. -/
def lacking (u : Upd) : Option Nat := u.covered.find? (fun n => !u.ran.contains n)

/-- The shadow fails for coverage, when due (R502). -/
def coverageFail (s : State) : State :=
  match lacking s.upd with
  | some n => if s.upd.phase = .shadow && s.stk.edges ≥ coverageEdge s then failShadow 4 n s else s
  | none => s

/-- `SHADOW_COVERAGE_TIMEOUT`. -/
def execShadowCoverageTimeout (s : State) : Host.Outcome State Fault Refusal := .next (coverageFail s)

/-- The shadow's edges are counted; it passes or fails (R502). -/
def shadowEdge (s : State) : State :=
  if s.upd.phase = .shadow || s.upd.phase = .deferred then
    let s := modUpd (fun u => { u with shadowEdges := s.stk.edges - u.startEdge }) s
    if s.upd.phase = .shadow && s.stk.edges ≥ s.upd.startEdge + s.upd.shadowN && (lacking s.upd).isNone then
      modUpd (fun u => { u with phase := .deferred, passAt := s.evr.opTime }) s
    else coverageFail s
  else s

/-- The switch has not come within 600 s of the pass (R503). -/
def deferFail (s : State) : State :=
  if s.upd.phase = .deferred && s.evr.opTime ≥ s.upd.passAt + 614400 then abandonUpdate 4 s else s

/-- `SWITCH_DEFER_TIMEOUT`. -/
def execSwitchDeferTimeout (s : State) : Host.Outcome State Fault Refusal := .next (deferFail s)

/-! ### The switch and the rollback (R503 to R509) -/

/-- This edge is the switch edge: evaluated on the latest sealed version, before its commit. -/
def switchNow (s : State) : Bool := s.upd.phase = .deferred && refuseMask s = 0 && !wkeBusy s

/-- Body of NAMES. -/
def namesOf (carcass : List Byte) : List Byte := (sect (parseImage carcass) 0x7F).elim [] (·.body)

/-- A task's state is mapped from the other set to the set in force (R504): the bytes of its read-write windows, and
what the mapping finds, which is due at the start of its drive. No access reaches the windows between the catch and that
start (DEDUCED, log entry 24). -/
def mapTask (n : Nat) (s : State) : State :=
  let o := stagedSlot s
  let f := forceSlot s
  let ws := stateWins s.drw.image n
  let was := getRetained ws s.mem
  let found := Config.remapItems (namesOf o.carcass) (namesOf f.carcass) n was
  modUpd (fun u => { u with maps := u.maps.filter (· ≠ n), remaps := tset u.remaps n found })
    { s with mem := putRetained ws (Config.stateMap o.carcass f.carcass f.program n was) s.mem }

/-- The commit of the switch edge has closed (R503). -/
def doSwitch (s : State) : State :=
  let maps := s.upd.covered.filter (fun n => !s.upd.compared.contains n)
  let s := endShadow s
  let tn := s.stk.tn % 2 ^ 32
  let s := modUpd (fun u => { promote u with
    phase := .switching, online := true, shadowEdges := s.stk.edges - u.startEdge, switched := [], switchEnd := none, switchTn := tn
    watch := u.watchM, remapInit := 0, remapDrop := 0,
    remaps := [], maps := maps }) s
  updEvent 0xE006 tn (adoptActive s)

/-- The commit of the rollback edge has closed (R507, R509). The old set of an ONLINE update is resident until it is
confirmed, at a boot in between too; a RESTART update resets again. -/
def doRollback (s : State) : State :=
  match s.upd.back with
  | none => s
  | some (n, t) =>
    let online := s.upd.online
    let maps := s.upd.switched.filter (fun k => !unchanged s k)
    let s := modUpd (fun u => { exchangeSlots u with
      back := none, phase := if u.switched.isEmpty then .idle else .rollingBack, watch := 0, remapInit := 0, remapDrop := 0,
      remaps := [], maps := maps }) s
    let s := updEvent 0xE008 (n * 2 ^ 24 + t) s
    if online then adoptActive s else assertReset 5 s

/-- A task that catches at or after the switch edge has switched; one that catches at or after the rollback edge has
returned. Its state is mapped, and its retained windows stand under the set in force from then on (R102, R503, R504,
R507). -/
def noteCatch (n : Nat) (s : State) : State :=
  let s := if s.upd.maps.contains n then mapTask n s else s
  let stands := fun (s : State) => { s with drw := { s.drw with layout := tset s.drw.layout n s.drw.meas } }
  match s.upd.phase with
  | .switching =>
    stands (modUpd (fun u => { u with switched := if u.switched.contains n then u.switched else u.switched ++ [n] }) s)
  | .rollingBack =>
    if s.upd.back.isSome then s else stands (modUpd (fun u => { u with switched := u.switched.filter (· ≠ n) }) s)
  | _ => s

/-- The switching or rolling back ends with the last task (R505, R516). -/
def switchEnds (s : State) : State :=
  match s.upd.phase with
  | .switching =>
    if (declaredSlots s).all s.upd.switched.contains then modUpd (fun u => { u with phase := .watch, switchEnd := some s.stk.edges }) s else s
  | .rollingBack =>
    if s.upd.back.isNone && s.upd.switched.isEmpty then modUpd (fun u => { u with phase := .idle, switchEnd := some s.stk.edges }) s else s
  | _ => s

/-- The watch completes: the update is confirmed (R103, R508). -/
def watchDone (s : State) : State :=
  if (s.upd.phase = .watch || s.upd.phase = .switching) && s.upd.watch = 0 && s.upd.back.isNone then
    let s := modUpd (fun u => { u with phase := .idle, unconfirmed := false }) s
    updEvent 0xE009 s.drw.serial { s with drw := { s.drw with serialFloor := s.drw.serial } }
  else s

/-- `WATCH_COMPLETE`. -/
def execWatchComplete (s : State) : Host.Outcome State Fault Refusal := .next (watchDone s)

/-- One edge of the watch in RUN or DEGRADED (R506). -/
def watchEdge (s : State) : State :=
  if (s.upd.phase = .watch || s.upd.phase = .switching) && (s.sys.mode = .run || s.sys.mode = .degraded) then
    watchDone (modUpd (fun u => { u with watch := u.watch - 1 }) s)
  else s

/-- The watch of an update found unconfirmed at a boot starts again (R508, R509). -/
def watchBoot (s : State) : State :=
  if s.upd.unconfirmed && !s.upd.rolledBack then
    modUpd (fun u => { u with phase := .watch, watch := u.watchM, switched := declaredSlots s }) s
  else s

end Sys2Proof.Machine
end

