-- ==== Sys2Proof/Machine/Tso.lean ====
section
/-! DEFINITION. Segmentation offload: the checks of a send and the frames it leaves as (R375, R376). -/
namespace Sys2Proof.Machine

/-- A byte of a frame. -/
def fb (l : List Byte) (i : Nat) : Nat := (l.getD i 0).toNat

/-- Two bytes of a frame, most significant first. -/
def be16 (l : List Byte) (i : Nat) : Nat := fb l i * 256 + fb l (i + 1)

/-- Four bytes of a frame, most significant first. -/
def be32 (l : List Byte) (i : Nat) : Nat := be16 l i * 65536 + be16 l (i + 2)

/-- Bytes of a frame replaced from an offset on. -/
def splice (l : List Byte) (o : Nat) (n : List Byte) : List Byte := l.take o ++ n ++ l.drop (o + n.length)

/-- A frame is tagged (R369). -/
def isTagged (l : List Byte) : Bool := be16 l 12 = 0x8100

/-- Length of the Ethernet header. -/
def ethHdr (l : List Byte) : Nat := if isTagged l then 18 else 14

/-- EtherType after any tag. -/
def etherType (l : List Byte) : Nat := be16 l (ethHdr l - 2)

/-- Sum of the 16-bit words of a byte string. -/
def sum16 (l : List Byte) : Nat :=
  match l with
  | [] => 0
  | [a] => a.toNat * 256
  | a :: b :: r => a.toNat * 256 + b.toNat + sum16 r

/-- The ones' complement checksum of a sum of words. -/
def csum (n : Nat) : Nat :=
  let a := n % 65536 + n / 65536
  let b := a % 65536 + a / 65536
  let c := b % 65536 + b / 65536
  65535 - c % 65536

/-- Headers of a send that R375 accepts: `l3`, `l4`, `mss` and `len` of the descriptor. -/
def tsoOk (l : List Byte) (l3 l4 mss len : Nat) : Bool :=
  let h := ethHdr l
  let v4 := etherType l = 0x0800 && fb l h / 16 = 4 && fb l h % 16 * 4 = l3 && 20 ≤ l3 && l3 ≤ 60 &&
    fb l (h + 9) = 6 && be16 l (h + 6) % 0x4000 = 0
  let v6 := etherType l = 0x86DD && fb l h / 16 = 6 && l3 = 40 && fb l (h + 6) = 6
  let p := len - h - l3 - l4
  (v4 || v6) && fb l (h + l3 + 12) / 16 * 4 = l4 && 20 ≤ l4 && l4 ≤ 60 &&
    h + l3 + l4 < len && p ≤ 65536 && 0 < mss && h + l3 + l4 + mss ≤ (if isTagged l then 1518 else 1514) &&
    (p + mss - 1) / mss ≤ 64

/-- Frames of a send. -/
def tsoCount (l : List Byte) (l3 l4 mss len : Nat) : Nat := (len - ethHdr l - l3 - l4 + mss - 1) / mss

/-- The IP header of a segment with `n` bytes of TCP (R376). -/
def tsoIp (ip : List Byte) (v6 : Bool) (l3 n i : Nat) : List Byte :=
  if v6 then splice ip 4 (beBytes 2 n)
  else
    let a := splice (splice (splice ip 2 (beBytes 2 (l3 + n))) 4 (beBytes 2 ((be16 ip 4 + i) % 65536))) 10 [0, 0]
    splice a 10 (beBytes 2 (csum (sum16 a)))

/-- The TCP header of segment `i` before its checksum: sequence number, FIN and PSH on the last, CWR on the first. -/
def tsoTcp (tcp : List Byte) (mss i : Nat) (last : Bool) : List Byte :=
  let f := fb tcp 13
  let f := if last then f else f &&& 0xF6
  let f := if i = 0 then f else f &&& 0x7F
  splice (splice (splice tcp 4 (beBytes 4 ((be32 tcp 4 + i * mss) % 2 ^ 32))) 13 [b8 f]) 16 [0, 0]

/-- Segment `i` of a send (R376). -/
def tsoSegment (l : List Byte) (l3 l4 mss len i : Nat) : List Byte :=
  let h := ethHdr l
  let v6 := etherType l = 0x86DD
  let last := i + 1 = tsoCount l l3 l4 mss len
  let pay := ((l.take len).drop (h + l3 + l4 + i * mss)).take mss
  let ip := tsoIp (sub l h l3) v6 l3 (l4 + pay.length) i
  let tcp := tsoTcp (sub l (h + l3) l4) mss i last
  let addrs := if v6 then sum16 (sub ip 8 32) else sum16 (sub ip 12 8)
  let c := csum (addrs + 6 + (l4 + pay.length) + sum16 (tcp ++ pay))
  l.take h ++ ip ++ splice tcp 16 (beBytes 2 c) ++ pay

end Sys2Proof.Machine
end

