-- ==== Sys2Proof/Machine/Mac.lean ====
section
/-! DEFINITION. Ethernet MACs: descriptor rings, transmission, segments, reception, flow control, links
(R356 to R389). -/
namespace Sys2Proof.Machine

/-! ### Configuration -/

/-- A MAC. -/
def macOf (s : State) (m : Nat) : Mac := s.mac.getD m {}

/-- Changes one MAC. -/
def modMac (m : Nat) (f : Mac → Mac) (s : State) : State := { s with mac := lmod s.mac m f }

/-- A backbone MAC. -/
def isBackbone (m : Nat) : Bool := 8 ≤ m

/-- Address of a MAC's registers (R40). -/
def macAddr (m : Nat) : Nat := if m = 9 then 0x100AA000 else 0x100A0000 + m * 0x1000

/-- The NETWORK record of a MAC (R357). -/
def macRec (img : List Section) (m : Nat) : Option Rec :=
  (recs img 0x0A).find? (fun r => f8 r 0 = (if isBackbone m then 3 else 2) && f8 r 1 = m)

/-- Owner byte of a transmit ring: a drawer, 0xFF the service initiator, 0xFE unused (R356, R357). -/
def ringOwnerByte (s : State) (m r : Nat) : Nat :=
  match macRec s.drw.image m with
  | none => 0xFE
  | some x =>
    if isBackbone m then (if r = 0 then 0xFF else f8 x (0x14 + r - 1)) else if r = 0 then f8 x 3 else 0xFE

/-- Owner byte of a receive queue. -/
def queueOwnerByte (s : State) (m q : Nat) : Nat :=
  match macRec s.drw.image m with
  | none => 0xFE
  | some x => if isBackbone m then f8 x (0x0C + q) else if q = 0 then f8 x 3 else 0xFE

/-- Owner byte of a ring or queue. -/
def ownerByte (s : State) (m : Nat) (queue : Bool) (i : Nat) : Nat :=
  if queue then (if i < 8 then queueOwnerByte s m i else 0xFE) else if i < 4 then ringOwnerByte s m i else 0xFE

/-- The initiator tag of an owner byte (R359). -/
def ownerTag (b : Nat) : Option Nat := if b = 0xFF then none else some b

/-- Drawer of an event about a ring or queue. -/
def ownerDrawer (b : Nat) : Nat := if b < 32 then b else 0

/-- The MAC runs: enabled (R378). -/
def macRuns (s : State) (m : Nat) : Bool := s.enabled.contains (.mac m)

/-- PLCA_EN. -/
def macPlca (x : Mac) : Bool := x.opts.testBit 0
/-- BCAST_ACCEPT. -/
def macBcast (x : Mac) : Bool := x.opts.testBit 1
/-- PAUSE_SEND. -/
def macPauseSend (x : Mac) : Bool := x.opts.testBit 3
/-- PAUSE_HONOUR. -/
def macPauseHonour (x : Mac) : Bool := x.opts.testBit 4
/-- NODES. -/
def macNodes (x : Mac) : Nat := fld x.cfg 16 5
/-- BCAST_QUEUE. -/
def macBcastQueue (x : Mac) : Nat := fld x.cfg 8 3

/-- A ring or queue. -/
def ringOf (s : State) (m : Nat) (queue : Bool) (i : Nat) : Ring :=
  if queue then (macOf s m).queues.getD i {} else (macOf s m).rings.getD i {}

/-- Changes a ring or queue. -/
def modRing (m : Nat) (queue : Bool) (i : Nat) (f : Ring → Ring) (s : State) : State :=
  modMac m (fun x => if queue then { x with queues := lmod x.queues i f } else { x with rings := lmod x.rings i f }) s

/-- Adds to a counter (R386). -/
def macCount (m c n : Nat) (s : State) : State := modMac m (fun x => { x with cnt := lmod x.cnt c (fun v => sat 32 v n) }) s

/-- Sets a sticky flag (R385). -/
def macFlag (m i : Nat) (s : State) : State := modMac m (fun x => { x with flags := bset x.flags i }) s

/-- A MAC event: bits [31:28] of the detail are the MAC (R380). -/
def macEvent (code m drawer detail : Nat) (s : State) : State :=
  raise { code := code, block := 0x0B, unit := m, drawer := drawer, detail := m * 2 ^ 28 + detail } s

/-! ### Rings (R360, R363, R388) -/

/-- RUN of a ring is set again: a frame of it still on the line keeps its own descriptor (R379). -/
def restartOf (i : Nat) (t : MacTx) : MacTx := if t.src = .ring i then { t with restarted := true } else t

/-- A write to TXRr_CFG or RXQq_CFG: ignored for an unused ring; LOG2SIZE keeps its value while RUN is 1; RUN from 0
to 1 clears STOPPED and the indices (R360, R388). -/
def ringCfg (m : Nat) (queue : Bool) (i v : Nat) (s : State) : State :=
  if ownerByte s m queue i = 0xFE || !macRuns s m then s
  else
    let x := ringOf s m queue i
    let l := if 2 ≤ v % 16 && v % 16 ≤ 12 then v % 16 else 2
    let run := v.testBit 31
    let s := if x.run && v % 16 ≠ x.log2 then macFlag m 6 s else s
    modRing m queue i (fun x =>
      let x := if x.run then x else { x with log2 := l }
      if run && !x.run then { x with run := true, stopped := false, head := 0, tail := 0, segs := 0, seen := 0 }
      else { x with run := run })
      (if run && !x.run && !queue then modMac m (fun y => { y with tx := y.tx.map (restartOf i) }) s else s)

/-- A write to BASE: ignored while RUN is 1 (R360). -/
def ringBase (m : Nat) (queue : Bool) (i v : Nat) (s : State) : State :=
  if ownerByte s m queue i = 0xFE || !macRuns s m then s
  else if (ringOf s m queue i).run then macFlag m 6 s
  else modRing m queue i (fun x => { x with base := v % 2 ^ 32 / 32 * 32 }) s

/-- A descriptor fetch or write-back was refused: the ring stops (R363). -/
def stopRing (m : Nat) (queue : Bool) (i : Nat) (s : State) : State :=
  macEvent 0xB009 m (ownerDrawer (ownerByte s m queue i)) (bit queue * 2 ^ 27 + i * 2 ^ 24)
    (modRing m queue i (fun x => { x with run := false, stopped := true }) s)

/-- Address of the descriptor at HEAD. -/
def headAddr (x : Ring) : Nat := x.base + 32 * x.head

/-- The MAC writes back a transmit descriptor at `desc` and advances HEAD (R360, R361), unless the ring has been started
again since it took the descriptor: `old` (R379). -/
def txWriteBack (m r desc : Nat) (old : Bool) (status segs attempts : Nat) (noTs : Bool) (stamp : Option Nat) (s : State) : State :=
  let a := dmaAccess (ownerTag (ringOwnerByte s m r)) true (desc + 12) 12 s
  if !a.1 then stopRing m false r a.2
  else
    let w := 2 ^ 31 + status * 2 ^ 27 + bit noTs * 2 ^ 26 + bit stamp.isSome * 2 ^ 25 + segs * 2 ^ 16 + attempts
    let t := stamp.getD 0
    modRing m false r (fun x => if old then x else { x with head := (x.head + 1) % 2 ^ x.log2, segs := 0 })
      (putBytes (desc + 12) (leBytes 4 w ++ leBytes 4 t ++ leBytes 4 (t / 2 ^ 32)) a.2)

/-- A descriptor whose sending ends is completed with `segs` frames sent: counted, and recorded where R367, R369 and
R375 say so. -/
def txRefuseAt (m r desc : Nat) (old : Bool) (status segs : Nat) (s : State) : State :=
  let s := txWriteBack m r desc old status segs 0 false none (macCount m (if status = 8 then 5 else 4) 1 s)
  if status = 8 || status = 6 then s
  else macEvent 0xB008 m (ownerDrawer (ringOwnerByte s m r)) (r * 2 ^ 24 + status * 2 ^ 16) s

/-- The descriptor at HEAD is completed so. -/
def txRefuse (m r status : Nat) (s : State) : State :=
  txRefuseAt m r (headAddr (ringOf s m false r)) false status (ringOf s m false r).segs s

/-- A running ring holds a descriptor. -/
def ringReady (x : Ring) : Bool := x.run && x.head ≠ x.tail

/-- Every outstanding descriptor of a ring is completed with NO_LINK (R368). -/
def flushRing (fuel m r : Nat) (s : State) : State :=
  match fuel with
  | 0 => s
  | fuel + 1 => if ringReady (ringOf s m false r) then flushRing fuel m r (txRefuse m r 8 s) else s

/-- The rings of a backbone MAC without link. -/
def flushLink (m : Nat) (s : State) : State :=
  if isBackbone m && !(macOf s m).link then (List.range 4).foldl (fun s r => flushRing 4096 m r s) s else s

/-- A write of TAIL (R360). -/
def ringTail (m : Nat) (queue : Bool) (i v : Nat) (s : State) : State :=
  if ownerByte s m queue i = 0xFE || !macRuns s m then s
  else if v ≥ 2 ^ (ringOf s m queue i).log2 then macFlag m 7 s
  else flushLink m (modRing m queue i (fun x => { x with tail := v }) s)

/-- `MAC_RING_RUN`: RUN written 1 with a LOG2SIZE. -/
def execMacRingRun (mac : Fin 10) (queue : Bool) (idx : Nat) (log2 : Nat) (s : State) : Host.Outcome State Fault Refusal :=
  .next (ringCfg mac.val queue idx (2 ^ 31 + log2 % 16) s)

/-- `MAC_RING_STOP`: RUN written 0. -/
def execMacRingStop (mac : Fin 10) (queue : Bool) (idx : Nat) (s : State) : Host.Outcome State Fault Refusal :=
  .next (ringCfg mac.val queue idx (ringOf s mac.val queue idx).log2 s)

/-- `MAC_TAIL_WRITE`. -/
def execMacTailWrite (mac : Fin 10) (queue : Bool) (idx : Nat) (v : Nat) (s : State) : Host.Outcome State Fault Refusal :=
  .next (ringTail mac.val queue idx v s)

/-! ### Starting a frame (R364 to R369, R375) -/

/-- A frame of a ring goes on the line, padded and with its FCS (R369). -/
def startRing (m r total : Nat) (tsReq : Bool) (frame : List Byte) (s : State) : State :=
  let f := withFcs (frame ++ List.replicate (60 - frame.length) 0)
  let g := ringOf s m false r
  modMac m (fun x => { x with
    tx := some { src := .ring r, frame := f, tsReq := tsReq, total := total, desc := headAddr g, seg := g.segs }
    lastRing := if r = 0 then x.lastRing else r,
    turn := false }) s

/-- Time of an own frame within a further cycle of a segment with stations: it fits before the guard (R367). -/
def fitsCycle (s : State) (m len : Nat) : Bool :=
  let x := macOf s m
  if macPlca x && carries s m then
    2000 + 800 * (max (len - 14) 46 + 38) + 3200 * (macNodes x - 1) + 5000 ≤ x.leftNs
  else true

/-- A refused descriptor LENGTH, before the frame is read (R369, R367). -/
def lengthStatus (x : Mac) (m len : Nat) : Option Nat :=
  if len ≤ 13 || len ≥ 1519 then some 3 else if !isBackbone m && len > x.room then some 5 else none

/-- A plain descriptor at HEAD (R369). -/
def startPlain (m r buf len : Nat) (tsReq : Bool) (s : State) : State :=
  match lengthStatus (macOf s m) m len with
  | some st => txRefuse m r st s
  | none =>
    if !fitsCycle s m len then s
    else
      let a := dmaAccess (ownerTag (ringOwnerByte s m r)) false buf len s
      if !a.1 then txRefuse m r 6 (modRing m false r (fun x => { x with refused := sat 16 x.refused 1 }) a.2)
      else
        let f := memBytes s buf len
        if len > 1514 && !isTagged f then txRefuse m r 3 a.2 else startRing m r 0 tsReq f a.2

/-- A TSO descriptor at HEAD: checked before its first segment (R375, R376). -/
def startTso (m r buf len w2 : Nat) (tsReq : Bool) (s : State) : State :=
  if !isBackbone m then txRefuse m r 4 s
  else
    let a := dmaAccess (ownerTag (ringOwnerByte s m r)) false buf len s
    if !a.1 then txRefuse m r 6 (modRing m false r (fun x => { x with refused := sat 16 x.refused 1 }) a.2)
    else
      let l := memBytes s buf len
      let l3 := fld w2 8 8
      let l4 := fld w2 0 8
      let mss := fld w2 16 16
      let i := (ringOf s m false r).segs
      if !tsoOk l l3 l4 mss len then txRefuse m r 4 a.2
      else if tsReq then txRefuse m r 7 a.2
      else startRing m r (tsoCount l l3 l4 mss len) false (tsoSegment l l3 l4 mss len i) a.2

/-- The descriptor at HEAD of a ring is taken (R361). -/
def takeRing (m r : Nat) (s : State) : State :=
  let x := ringOf s m false r
  let a := dmaAccess (ownerTag (ringOwnerByte s m r)) false (headAddr x) 32 s
  if !a.1 then stopRing m false r a.2
  else
    let s := a.2
    let d := memBytes s (headAddr x) 12
    let w1 := f32 d 4
    if isBackbone m && !(macOf s m).link then txRefuse m r 8 s
    else if w1.testBit 30 then startTso m r (f32 d 0) (fld w1 0 17) (f32 d 8) (w1.testBit 31) s
    else startPlain m r (f32 d 0) (fld w1 0 17) (w1.testBit 31) s

/-- Order of the rings (R364): ring 0, then rings 1 to 3 from the one after the last served. -/
def ringOrder (x : Mac) : List Nat := 0 :: (List.range 3).map (fun i => (x.lastRing + i) % 3 + 1)

/-- LENGTH of a PTP message's frame, header included (R399 names that of Delay_Resp). -/
def ptpLen (k : PtpKind) : Nat :=
  match k with
  | .sync | .followUp | .delayReq => 58
  | .announce => 78
  | _ => 68

/-- A PAUSE frame (R372). -/
def pauseFrame (img : List Section) (m quanta : Nat) : List Byte :=
  let f := [0x01, 0x80, 0xC2, 0, 0, 1] ++ (addrEntry img m 0).getD (List.replicate 6 0) ++ [0x88, 0x08, 0, 1] ++ beBytes 2 quanta
  withFcs (f ++ List.replicate (60 - f.length) 0)

/-- The header of a port's PTP frames: the destination of its profile, address entry 0 of the MAC, on a backbone port
the tag of VID, whose priority the manual leaves open, and the EtherType (R398, R400, log entry 7). -/
def ptpHeader (s : State) (m : Nat) : List Byte :=
  let vid := fld s.ptp.misc 16 16
  (if ptpFlag s 0 then [0x01, 0x80, 0xC2, 0, 0, 0x0E] else [0x01, 0x1B, 0x19, 0, 0, 0]) ++
    (addrEntry s.drw.image m 0).getD (List.replicate 6 0) ++
    (if isBackbone m && vid ≠ 0 then [0x81, 0] ++ beBytes 2 (Config.freeValue s.fresh % 8 * 8192 + vid) else []) ++ [0x88, 0xF7]

/-- LENGTH of a frame in sending: without its FCS. -/
def txLen (t : MacTx) : Nat :=
  match t.src with
  | .ptp k => ptpLen k
  | _ => t.frame.length - 4

/-- The first source that has a frame ready starts (R364). -/
def startFrame (m : Nat) (s : State) : State :=
  let x := macOf s m
  match if isBackbone m && x.link then x.pauseOut else [] with
  | q :: rest => modMac m (fun x => { x with pauseOut := rest, tx := some { src := .pause q, frame := pauseFrame s.drw.image m q } }) s
  | [] =>
    if isBackbone m && x.paused > 0 then s
    else
      match if isBackbone m && !x.link then [] else x.ptpOut with
      | k :: rest =>
        if fitsCycle s m (ptpLen k) then
          modMac m (fun x => { x with ptpOut := rest, tx := some { src := .ptp k, frame := ptpHeader s m }, turn := false })
            { s with fresh := s.fresh + 1 }
        else s
      | [] =>
        match (ringOrder x).find? (fun r => ringReady (ringOf s m false r)) with
        | some r => takeRing m r s
        | none => s

/-- `MAC_TX_START`: the MAC can start a frame; under PLCA in its own opportunity only, and in a further cycle only
where the frame fits, one that waits since a collision too (R364, R366, R367). -/
def execMacTxStart (mac : Fin 10) (s : State) : Host.Outcome State Fault Refusal :=
  let m := mac.val
  let x := macOf s m
  let mine := isBackbone m || !macPlca x || (x.cycle && x.turn)
  if !macRuns s m || !mine then .next s
  else
    match x.tx with
    | some t =>
      if !t.onLine && t.backoff.isNone && fitsCycle s m (txLen t) then
        .next (modMac m (fun x => { x with tx := some { t with onLine := true }, turn := false }) s)
      else .next s
    | none => .next (startFrame m s)

/-! ### The end of a frame (R361, R365, R366, R377) -/

/-- Index of the descriptor of a frame in its ring. -/
def descIndex (x : Ring) (t : MacTx) : Nat := if t.restarted then (t.desc - x.base) / 32 % 4096 else x.head

/-- A frame of a ring was sent: its own descriptor is written back, whatever has become of the ring (R361, R376, R377,
R379). -/
def ringSent (m r : Nat) (t : MacTx) (stamp : Nat) (s : State) : State :=
  let s := macCount m 0 1 s
  let x := ringOf s m false r
  let old := t.restarted
  if t.total ≠ 0 && t.seg + 1 < t.total then
    if x.run && !old then modRing m false r (fun x => { x with segs := x.segs + 1 }) s
    else txRefuseAt m r t.desc old 8 (t.seg + 1) s
  else if t.tsReq then
    let o := offerStamp m r (descIndex x t) stamp s
    if o.1 then txWriteBack m r t.desc old 0 1 (t.collisions + 1) false (some stamp) o.2
    else
      macEvent 0xB00B m (ownerDrawer (ringOwnerByte s m r)) (r * 2 ^ 24)
        (txWriteBack m r t.desc old 0 1 (t.collisions + 1) true none o.2)
  else txWriteBack m r t.desc old 0 (if t.total = 0 then 1 else t.total) (t.collisions + 1) false none s

/-- The frame on a MAC's line: the marker, or the frame of another source. -/
def onLine (s : State) (m : Nat) : Option MacTx :=
  ((macOf s m).marker.filter (·.onLine)) <|> ((macOf s m).tx.filter (·.onLine))

/-- What becomes of the frame on the line. -/
def setTx (m : Nat) (t : MacTx) (new : Option MacTx) (s : State) : State :=
  modMac m (fun x => if t.src = .marker then { x with marker := new } else { x with tx := new }) s

/-- The event messages of PTP, whose sending the port time-stamps in a register of its own (R400). -/
def ptpEventKind (k : PtpKind) : Bool :=
  match k with
  | .sync | .delayReq | .pdelayReq | .pdelayResp => true
  | .followUp | .announce | .delayResp | .pdelayFollowUp | .other => false

/-- `MAC_TX_COMPLETE`: the frame on the line ends; `stamp` is the time of its start-of-frame delimiter. -/
def execMacTxComplete (mac : Fin 10) (stamp : Nat) (s : State) : Host.Outcome State Fault Refusal :=
  let m := mac.val
  match onLine s m with
  | some t =>
    let s := setTx m t none s
    match t.src with
    | .ring r => .next (ringSent m r t (stamp % 2 ^ 64) s)
    | .ptp k => if ptpEventKind k then .next (modPort m (fun p => { p with stamp := stamp % 2 ^ 64 }) s) else .next s
    | _ => .next s
  | none => .next s

/-- The frame on the line ends without success: STATUS and counter by `status` (R365). -/
def txFail (m status attempts : Nat) (t : MacTx) (s : State) : State :=
  let s := macCount m (if status = 1 then 2 else 3) 1 (setTx m t none s)
  let code := if status = 1 then 0xB004 else 0xB005
  match t.src with
  | .ring r => macEvent code m (ownerDrawer (ringOwnerByte s m r)) (r * 2 ^ 24) (txWriteBack m r t.desc t.restarted status 0 attempts false none s)
  | _ => macEvent code m 0 0 s

/-- `MAC_COLLISION`: jam and back-off, drawn at random; under PLCA the frame waits for the next opportunity; the 16th
collision ends the frame (R365, R366). -/
def execMacCollision (mac : Fin 10) (s : State) : Host.Outcome State Fault Refusal :=
  let m := mac.val
  match if isBackbone m then none else onLine s m with
  | none => .next s
  | some t =>
    let s := macCount m 1 1 s
    let n := t.collisions + 1
    if n ≥ 16 then .next (txFail m 1 16 t s)
    else if macPlca (macOf s m) then .next (setTx m t (some { t with collisions := n, onLine := false }) s)
    else
      let wait := Config.freeValue s.fresh % 2 ^ min n 10
      .next { setTx m t (some { t with collisions := n, onLine := false, backoff := some wait }) s with fresh := s.fresh + 1 }

/-- `MAC_LATE_COLLISION`: the frame ends at once (R365). -/
def execMacLateCollision (mac : Fin 10) (s : State) : Host.Outcome State Fault Refusal :=
  match if isBackbone mac.val then none else onLine s mac.val with
  | none => .next s
  | some t => .next (txFail mac.val 2 (t.collisions + 1) t (macCount mac.val 1 1 s))

/-- `MAC_BACKOFF_EXPIRY`: the frame is tried again. -/
def execMacBackoffExpiry (mac : Fin 10) (s : State) : Host.Outcome State Fault Refusal :=
  match (macOf s mac.val).tx with
  | some t =>
    if t.backoff.isSome then .next (modMac mac.val (fun x => { x with tx := some { t with backoff := none, onLine := true } }) s)
    else .next s
  | none => .next s

/-- The marker that the next opportunity of the module carries: that of the edge in the first cycle after it, or one
that waits since a collision (R364, R366, R367). -/
def markerDue (s : State) (m : Nat) : Option MacTx :=
  match tget s.rio.media m with
  | some x =>
    if x.flight = some s.stk.edges && (macOf s m).cycleEdge ≠ some s.stk.edges then
      some { src := .marker, frame := withFcs (x.frames.headD (0, [])).2 }
    else (macOf s m).marker.map (fun t => { t with onLine := true })
  | none => none

/-- A PLCA cycle begins: the module's opportunity carries a marker that is due, else it is free for another frame
(R366, R367). -/
def cycleStart (m leftNs : Nat) (s : State) : State :=
  let t := markerDue s m
  modMac m (fun x => { x with
    cycle := true, turn := t.isNone, marker := t, leftNs := leftNs, cycleEdge := if t.isSome then some s.stk.edges else x.cycleEdge }) s

/-- `PLCA_CYCLE_START`: the coordinator sends a BEACON; `leftNs` is the time to the next output instant. -/
def execPlcaCycleStart (mac : Fin 10) (leftNs : Nat) (s : State) : Host.Outcome State Fault Refusal :=
  let m := mac.val
  if macRuns s m && macPlca (macOf s m) && !isBackbone m then .next (cycleStart m leftNs s) else .next s

/-- `PLCA_CYCLE_END`: a further cycle begins at once without stations; with stations only when an empty one would end
5 µs before the next output instant (R366, R367). -/
def execPlcaCycleEnd (mac : Fin 10) (leftNs : Nat) (s : State) : Host.Outcome State Fault Refusal :=
  let m := mac.val
  let x := macOf s m
  if !x.cycle then .next s
  else
    let s := modMac m (fun x => { x with cycle := false, turn := false }) s
    if !macRuns s m then .next s
    else if !carries s m || 2000 + 3200 * macNodes x + 5000 ≤ leftNs then .next (cycleStart m leftNs s)
    else .next s

/-! ### Reception (R362, R370, R371, R373, R374) -/

/-- A frame without a descriptor to take it (R371). -/
def noDescriptor (m q : Nat) (s : State) : State :=
  macEvent 0xB007 m (ownerDrawer (queueOwnerByte s m q)) (q * 2 ^ 24)
    (modRing m true q (fun x => { x with noDesc := sat 15 x.noDesc 1, drops := sat 16 x.drops 1 }) s)

/-- A frame for a queue is dropped: the next descriptor written counts it (R362). -/
def dropFrame (m q : Nat) (s : State) : State := modRing m true q (fun x => { x with drops := sat 16 x.drops 1 }) s

/-- A frame for a queue (R362, R363, R371): `hit` is MATCH, `steer` STEER. -/
def deliverFrame (m q hit steer : Nat) (f : List Byte) (stamp : Nat) (s : State) : State :=
  let x := ringOf s m true q
  let o := ownerTag (queueOwnerByte s m q)
  if !x.run || x.head = x.tail then noDescriptor m q s
  else
    let a := dmaAccess o false (headAddr x) 32 s
    if !a.1 then stopRing m true q (dropFrame m q a.2)
    else
      let s := a.2
      let buf := f32 (memBytes s (headAddr x) 4) 0
      let b := dmaAccess o true buf f.length s
      if !b.1 then modRing m true q (fun x => { x with refused := sat 16 x.refused 1, drops := sat 16 x.drops 1 }) b.2
      else
        let c := dmaAccess o true (headAddr x + 4) 20 b.2
        if !c.1 then stopRing m true q (dropFrame m q c.2)
        else
          let group := fb f 0 % 2 = 1
          let bc := f.take 6 = List.replicate 6 0xFF
          let w1 := 2 ^ 31 + bit (isTagged f) * 2 ^ 30 + bit bc * 2 ^ 29 + bit (group && !bc) * 2 ^ 28 + hit * 2 ^ 24 +
            steer * 2 ^ 20 + f.length
          let w2 := etherType f * 2 ^ 16 + (if isTagged f then be16 f 14 else 0)
          let s := putBytes buf f c.2
          let s := putBytes (headAddr x + 4)
            (leBytes 4 w1 ++ leBytes 4 w2 ++ leBytes 4 x.drops ++ leBytes 8 stamp) s
          macCount m 6 1 (modRing m true q (fun x => { x with head := (x.head + 1) % 2 ^ x.log2, drops := 0 }) s)

/-- The steering filters of a MAC, from the lowest. -/
def steers (s : State) (m : Nat) : List Rec :=
  sortBy (fun a b => decide (f8 a 2 < f8 b 2)) ((filters s.drw.image 3).filter (fun r => f8 r 1 = m))

/-- A steering filter matches (R370). -/
def steerMatches (f : List Byte) (r : Rec) : Bool :=
  let k := f8 r 5
  let v := if k = 1 then be16 f 14 % 4096 else if k = 2 then be16 f 14 / 8192 else etherType f
  (k = 3 || isTagged f) && ((v ^^^ f32 r 8) &&& f32 r 12) % 65536 = 0

/-- The queue after steering, with STEER: a filter of another drawer is skipped (R370). -/
def steer (s : State) (m q : Nat) (f : List Byte) : Nat × Nat :=
  if isBackbone m then
    match (steers s m).find? (fun r => f8 r 3 = queueOwnerByte s m q && steerMatches f r) with
    | some r => (f8 r 4, f8 r 2)
    | none => (q, 0xF)
  else (q, 0xF)

/-- Steering, then the queue. -/
def dispatchFrame (m q hit : Nat) (f : List Byte) (stamp : Nat) (s : State) : State :=
  let d := steer s m q f
  deliverFrame m d.1 hit d.2 f stamp s

/-- A MAC control frame (R373, R374). -/
def controlFrame (m : Nat) (f : List Byte) (s : State) : State :=
  let dest := f.take 6
  let mine := dest = [0x01, 0x80, 0xC2, 0, 0, 1] ||
    (fb f 0 % 2 = 0 && (List.range 8).any (fun e => addrEntry s.drw.image m e = some dest))
  if isBackbone m && mine && be16 f 14 = 1 then
    let s := macCount m 14 1 s
    if macPauseHonour (macOf s m) then
      let q := be16 f 16
      let s := modMac m (fun x => { x with paused := q }) s
      if q > 0 then macFlag m 3 s else s
    else s
  else macEvent 0xB00C m 0 (be16 f 14) (macFlag m 0 (macCount m 13 1 s))

/-- The frame is for SEQ2: a reply to address entry 0 of a segment (R315). -/
def isReply (s : State) (m : Nat) (f : List Byte) : Bool :=
  !isBackbone m && be16 f 12 = 0x88B5 && fb f 15 = 2 && addrEntry s.drw.image m 0 = some (f.take 6)

/-- The frame is for the MAC's PTP port (R400). -/
def isPtp (s : State) (m : Nat) (f : List Byte) : Bool :=
  ptpEnabled s m && etherType f = 0x88F7 &&
    (f.take 6 = [0x01, 0x1B, 0x19, 0, 0, 0] || f.take 6 = [0x01, 0x80, 0xC2, 0, 0, 0x0E] ||
      addrEntry s.drw.image m 0 = some (f.take 6))

/-- The rows of R370 after length and FCS. -/
def classifyFrame (m : Nat) (f : List Byte) (stamp : Nat) (s : State) : State :=
  if isReply s m f then replyFrame m 0 (f.drop 14) stamp s
  else if isPtp s m f then s
  else if be16 f 12 = 0x8808 then controlFrame m f s
  else if f.take 6 = List.replicate 6 0xFF then
    (if macBcast (macOf s m) then dispatchFrame m (macBcastQueue (macOf s m)) 0xF f stamp s else macCount m 11 1 s)
  else
    match (List.range 8).find? (fun e => addrEntry s.drw.image m e = some (f.take 6)) with
    | some e =>
      let q := ((filters s.drw.image 2).find? (fun r => f8 r 1 = m && f8 r 2 = e)).elim 0 (fun r => f8 r 4)
      dispatchFrame m q e f stamp s
    | none => macCount m 11 1 s

/-- A received frame (R370, R371). -/
def receiveFrame (m : Nat) (f : List Byte) (len : Nat) (fcsOk whole overflow : Bool) (stamp : Nat) (s : State) : State :=
  if overflow then
    let s := macFlag m 1 (macCount m 12 1 s)
    macEvent 0xB006 m 0 (((macOf s m).cnt.getD 12 0) % 2 ^ 16) s
  else if len < 64 then macCount m (if fcsOk then 8 else 9) 1 s
  else if len > (if isTagged f then 1522 else 1518) then macCount m 10 1 s
  else if !fcsOk || !whole then macCount m 7 1 s
  else classifyFrame m f stamp s

/-- Bytes of the receive FIFO (R356). -/
def fifoSize (m : Nat) : Nat := if isBackbone m then 65536 else 8192

/-- The FIFO's fill after an event, with its maximum. -/
def noteFill (m fill : Nat) (s : State) : State :=
  let fill := min fill (fifoSize m)
  modMac m (fun x => { x with fill := fill, fillMax := max x.fillMax (min (fill / 16) 0xFFFF) }) s

/-- A beacon of another node (R366): recorded at most once per second. -/
def beaconConflict (m : Nat) (s : State) : State :=
  if !macPlca (macOf s m) || isBackbone m then s
  else
    let due := (macOf s m).conflictAt.elim true (fun t => s.evr.opTime ≥ t + 1024)
    let s := macFlag m 5 (modMac m (fun x => { x with conflict := true }) s)
    if due then macEvent 0xB00A m 0 0 (modMac m (fun x => { x with conflictAt := some s.evr.opTime }) s) else s

/-- `MAC_FRAME_RECEIVE`: a frame without its FCS, and the FCS that came with it, which the MAC checks (R450). A frame
that takes the FIFO beyond its size overflows it (R356, R371). -/
def execMacFrameReceive (mac : Fin 10) (rx : MacRx) (s : State) : Host.Outcome State Fault Refusal :=
  let m := mac.val
  if !macRuns s m || (isBackbone m && !(macOf s m).link) then .next s
  else
    match rx with
    | .beacon => .next (beaconConflict m s)
    | .frame bytes len fcs whole overflow stamp fill =>
      .next (noteFill m fill (receiveFrame m bytes len (decide (fcs = ethFcs bytes)) whole (overflow || fill > fifoSize m) (stamp % 2 ^ 64) s))

/-- `PLCA_CONFLICT_TIMEOUT`: a second without another node's beacon (R384). -/
def execPlcaConflictTimeout (mac : Fin 10) (s : State) : Host.Outcome State Fault Refusal :=
  .next (modMac mac.val (fun x => { x with conflict := false }) s)

/-! ### Flow control (R372, R373) -/

/-- `PAUSE_EXPIRY`. -/
def execPauseExpiry (mac : Fin 10) (s : State) : Host.Outcome State Fault Refusal :=
  .next (modMac mac.val (fun x => { x with paused := 0 }) s)

/-- An own PAUSE frame is made ready and counted; XOFF reads 1 until the XON. -/
def sendPause (m quanta : Nat) (s : State) : State :=
  let s := macCount m 15 1 (modMac m (fun x => { x with pauseOut := x.pauseOut ++ [quanta], xoff := decide (quanta > 0) }) s)
  if quanta > 0 then macFlag m 2 s else s

/-- The MAC sends PAUSE frames. -/
def pauses (s : State) (m : Nat) : Bool := isBackbone m && macRuns s m && macPauseSend (macOf s m) && (macOf s m).link

/-- HIGH_WM and LOW_WM in percent (R382). -/
def highWm (x : Mac) : Nat := fld x.pauseCfg 8 8
/-- LOW_WM. -/
def lowWm (x : Mac) : Nat := fld x.pauseCfg 0 8

/-- `XOFF_SEND`: the fill rises above HIGH_WM. A MAC held in reset has an empty FIFO (R378). -/
def execXoffSend (mac : Fin 10) (fill : Nat) (s : State) : Host.Outcome State Fault Refusal :=
  let m := mac.val
  if !macRuns s m then .next s else
  let s := noteFill m fill s
  if pauses s m && fill * 100 > highWm (macOf s m) * 65536 then .next (sendPause m ((macOf s m).pauseCfg / 65536) s) else .next s

/-- `XOFF_REPEAT`: half of PAUSE_TIME has passed with the fill at or above LOW_WM. -/
def execXoffRepeat (mac : Fin 10) (fill : Nat) (s : State) : Host.Outcome State Fault Refusal :=
  let m := mac.val
  if !macRuns s m then .next s else
  let s := noteFill m fill s
  if pauses s m && (macOf s m).xoff && fill * 100 ≥ lowWm (macOf s m) * 65536 then
    .next (sendPause m ((macOf s m).pauseCfg / 65536) s)
  else .next s

/-- `XON_SEND`: the fill falls below LOW_WM. -/
def execXonSend (mac : Fin 10) (fill : Nat) (s : State) : Host.Outcome State Fault Refusal :=
  let m := mac.val
  if !macRuns s m then .next s else
  let s := noteFill m fill s
  if pauses s m && (macOf s m).xoff && fill * 100 < lowWm (macOf s m) * 65536 then .next (sendPause m 0 s) else .next s

/-! ### Links (R368, R379) -/

/-- `MAC_LINK_UP`: the watermarks are evaluated afresh (R379). -/
def execMacLinkUp (mac : Fin 10) (gigabit : Bool) (s : State) : Host.Outcome State Fault Refusal :=
  let m := mac.val
  if !isBackbone m || !macRuns s m || (macOf s m).link then .next s
  else
    let sp := if gigabit && !(macOf s m).opts.testBit 2 then 3 else 2
    let s := modMac m (fun x => { x with link := true, speed := sp, refused := false, negotiating := false }) s
    let s := macEvent 0xB001 m 0 sp s
    if pauses s m && (macOf s m).fill * 100 > highWm (macOf s m) * 65536 then
      .next (sendPause m ((macOf s m).pauseCfg / 65536) s)
    else .next s

/-- The ring frame in progress of a ring whose RUN has been cleared: its descriptor ends with the link (R368, R379). -/
def dropLine (m : Nat) (t : Option MacTx) (s : State) : State :=
  match t with
  | some x =>
    match x.src with
    | .ring r => if (ringOf s m false r).run && !x.restarted then s else txRefuseAt m r x.desc x.restarted 8 x.seg s
    | _ => s
  | none => s

/-- `MAC_LINK_DOWN`: a frame in progress and every outstanding descriptor end with NO_LINK; any pause ends. -/
def execMacLinkDown (mac : Fin 10) (s : State) : Host.Outcome State Fault Refusal :=
  let m := mac.val
  if !isBackbone m || !(macOf s m).link then .next s
  else
    let t := (macOf s m).tx
    let s := modMac m (fun x => { x with
      link := false, speed := 0, paused := 0, xoff := false, pauseOut := [], ptpOut := [], negotiating := true, tx := none }) s
    .next (flushLink m (dropLine m t (macEvent 0xB002 m 0 0 (macFlag m 4 s))))

/-- `MAC_LINK_REFUSED`: no full-duplex mode in common. -/
def execMacLinkRefused (mac : Fin 10) (s : State) : Host.Outcome State Fault Refusal :=
  let m := mac.val
  if !isBackbone m || !macRuns s m || (macOf s m).link then .next s
  else .next (macEvent 0xB003 m 0 0 (modMac m (fun x => { x with refused := true, negotiating := false }) s))

/-- `MAC_RENEGOTIATE`: one second after a refusal. -/
def execMacRenegotiate (mac : Fin 10) (s : State) : Host.Outcome State Fault Refusal :=
  let m := mac.val
  if (macOf s m).refused && !(macOf s m).link then .next (modMac m (fun x => { x with negotiating := true }) s) else .next s

/-! ### Services (R361, R362) -/

/-- The lowest ring of a MAC that a drawer owns. -/
def ringOfDrawer (s : State) (m d : Nat) : Option Nat := (List.range 4).find? (fun r => ringOwnerByte s m r = d)

/-- A crew core's access to memory: passed when its tag and slot allow it. -/
def coreMem (s : State) (c : Nat) (write : Bool) (a len : Nat) : Bool :=
  (pageStarts a len).all (memAllows s.drw.image (some (coreTag s c)) (s.cores.getD c {}).driving true write)

/-- `ETH_SEND`: a frame of `len` bytes at `buf` is queued on the drawer's ring; refused when the ring is stopped or
full. -/
def execEthSend (core : Fin 16) (mac : Fin 10) (buf len : Nat) (s : State) : Host.Outcome State Fault Refusal :=
  let m := mac.val
  let c := core.val
  .next (service c (12 + m) 0x0B (macAddr m) (fun s =>
    match ringOfDrawer s m (coreTag s c) with
    | none => { s with answer := .refused }
    | some r =>
      let x := ringOf s m false r
      let a := x.base + 32 * x.tail
      let next := (x.tail + 1) % 2 ^ x.log2
      if !x.run || next = x.head then { s with answer := .refused }
      else if !coreMem s c true a 32 then { coreRefused c 1 0 a s with answer := .refused }
      else
        let d := leBytes 4 buf ++ leBytes 4 (len % 2 ^ 17) ++ List.replicate 24 0
        { ringTail m false r next (putBytes a d s) with answer := .value 0 }) s)

/-- `ETH_RECEIVE`: the next frame of the drawer's queue; its descriptor is handed back to the MAC. -/
def execEthReceive (core : Fin 16) (mac : Fin 10) (queue : Nat) (s : State) : Host.Outcome State Fault Refusal :=
  let m := mac.val
  let c := core.val
  .next (service c (12 + m) 0x0B (macAddr m) (fun s =>
    let x := ringOf s m true queue
    if queue ≥ 8 || queueOwnerByte s m queue ≠ coreTag s c then { s with answer := .refused }
    else if x.seen = x.head then { s with answer := .none }
    else
      let a := x.base + 32 * x.seen
      if !coreMem s c true a 32 then { coreRefused c 0 0 a s with answer := .refused }
      else
        let d := memBytes s a 8
        let f := memBytes s (f32 d 0) (fld (f32 d 4) 0 11)
        let s := putBytes (a + 4) (List.replicate 20 0) s
        let s := modRing m true queue (fun x => { x with seen := (x.seen + 1) % 2 ^ x.log2, tail := (x.tail + 1) % 2 ^ x.log2 }) s
        { s with answer := .bytes f }) s)

/-- A MAC as a load leaves it (R357, R382). `room` is ROOM (R367). -/
def macLoad (img : List Section) (room m : Nat) (x : Mac) : Mac :=
  match macRec img m with
  | some r => { x with
      opts := f8 r 2, cfg := f8 r 5 * 2 ^ 24 + f8 r 4 * 2 ^ 16 + f8 r 6 * 2 ^ 8,
      pauseCfg := f16 r 0x0A * 2 ^ 16 + f8 r 7 * 2 ^ 8 + f8 r 8, room := room }
  | none => x

end Sys2Proof.Machine
end

