-- ==== Sys2Proof/Machine/Wke.lean ====
section
/-! DEFINITION. The wake journal's commands: the ring, checkpoints, core faults, takeovers, memory errors, settlements,
seat self-tests (R182 to R205). -/
namespace Sys2Proof.Machine

/-- `JOURNAL_RECORD_WRITE`. -/
def execJournalRecordWrite (s : State) : Host.Outcome State Fault Refusal := .next (ringWrite s)

/-- `CHECKPOINT_COMPLETE`: the read-back passes, after a `duration` in 10 µs, or fails after `failAt` bytes that passed
(R189). -/
def execCheckpointComplete (duration : Nat) (failAt : Option Nat) (s : State) : Host.Outcome State Fault Refusal :=
  match failAt with
  | none => .next (ckptDone duration s)
  | some n => .next (ckptFailed n s)

/-- The core is in DRIVE. -/
def inDrive (s : State) (c : Nat) : Bool := (s.cores.getD c {}).driving.isSome

/-- `CORE_HANG`: kind 2, of a core in DRIVE (R190). -/
def execCoreHang (core : Fin 16) (s : State) : Host.Outcome State Fault Refusal :=
  if inDrive s core.val && !coreHeld s core.val then .next (failCore core.val 2 s) else .next s
/-- `CORE_CACHE_ECC`: kind 3. -/
def execCoreCacheEcc (core : Fin 16) (s : State) : Host.Outcome State Fault Refusal := .next (failCore core.val 3 s)
/-- `CORE_MACHINE_CHECK`: kind 4. -/
def execCoreMachineCheck (core : Fin 16) (s : State) : Host.Outcome State Fault Refusal := .next (failCore core.val 4 s)

/-! ### Takeovers (R185, R194, R195) -/

/-- Changes the takeovers on a seat that hold a slot. -/
def modTakeover (seat : Nat) (slots : List Nat) (f : Takeover → Takeover) (s : State) : State :=
  { s with wke := { s.wke with takeovers := s.wke.takeovers.map (fun t => if t.seat = seat && t.slots = slots then f t else t) } }

/-- The state of a slot as its copy in a bank gives it (R187, R194): the committed state, and of a stroke held closed in the
bank, which is adopted if it was released by E, the closed working copy too. -/
def loadedCopy (w : Wke) (b : Bank) (upTo n : Nat) : Memory :=
  Memory.put ((b.tasks.find? (fun t => t.slot = n)).elim [] (·.copy)) ((adoptedCopy w b upTo n).elim [] (·.ws.work))

/-- The copies are loaded: the replay has so many strokes to run; a direct takeover, or one without any, is complete. -/
def copiesLoaded (t : Takeover) (us : Nat) (s : State) : State :=
  let b := copiesOf s.wke t.bankB
  let n := if t.direct then 0 else sumOf (t.slots.map (replayCount s.wke b t.lastEdge))
  let f (x : Takeover) : Takeover :=
    { x with loaded := true, left := n, built := x.slots.map (fun k => (k, loadedCopy s.wke b x.lastEdge k)) }
  let s := modTakeover t.seat t.slots f s
  if n = 0 then takeoverDone (f t) us s else s

/-- `TAKEOVER_COPIES_LOADED`: the takeovers of a seat; `us` is the time since the declaration. -/
def execTakeoverCopiesLoaded (seat : Fin 16) (us : Nat) (s : State) : Host.Outcome State Fault Refusal :=
  .next ((s.wke.takeovers.filter (fun t => decide (t.seat = seat.val) && !t.loaded)).foldl (fun s t => copiesLoaded t us s) s)

/-- The digest of the WSET entry of a slot at a release. -/
def wsetAt (w : Wke) (slot tn : Nat) : Option (BitVec 64) :=
  ((w.ring ++ w.buffer).filter (fun r => r.tn = tn)).findSome? (fun r => r.entries.findSome? (fun e => match e with
    | .wset n d => if n = slot then some d else none
    | _ => none))

/-- A takeover after one more replayed stroke, which left these bytes in its slot's state. -/
def replayed (slot : Nat) (l : List (Nat × Byte)) (t : Takeover) : Takeover :=
  { t with left := t.left - 1, built := t.built.map (fun p => if p.1 = slot then (p.1, Memory.put p.2 l) else p) }

/-- One replayed stroke has ended with a digest and the bytes of its working copy (R194, R195): with the journal's
digest, the replay goes on, and the last one completes the takeover; with another, event 0x4006 and the seat fails. -/
def replayDone (t : Takeover) (slot tn : Nat) (d : BitVec 64) (us : Nat) (l : List (Nat × Byte)) (s : State) : State :=
  match wsetAt s.wke slot tn with
  | none => s
  | some w =>
    if w = d then
      let s := modTakeover t.seat t.slots (replayed slot l) s
      if t.left ≤ 1 then takeoverDone (replayed slot l t) us s else s
    else
      failCore t.seat 6 (raise {
        code := 0x4006, block := 0x04, unit := slot, drawer := taskDrawer s slot, detail := slot * 2 ^ 24 + tn % 2 ^ 24 } s)

/-- `REPLAY_STROKE_DONE`: release `tn` of a slot, what its replay gave, and the time since the declaration. -/
def execReplayStrokeDone (seat : Fin 16) (slot : Fin 64) (tn : Nat) (x : ReplayEnd) (us : Nat) (s : State) :
    Host.Outcome State Fault Refusal :=
  match s.wke.takeovers.find? (fun t => t.seat = seat.val && t.loaded && t.slots.contains slot.val) with
  | some t => .next (sameCycle (replayDone t slot.val tn x.digest us x.state) s)
  | none => .next s

/-! ### Memory errors (R192) -/

/-- A stroke that met an error ends; its task is rebuilt on its own core, its committed state from the newest valid bank and
the ring as in a takeover. -/
def rebuildTask (n : Nat) (s : State) : State :=
  if (task s n).st = .live then
    let cs := ((task s n).stroke.elim [] (·.copies)).map (·.core)
    let s := cs.foldl (fun (s : State) c => gateIdle c s) (freeCores n (enterReplay n s))
    noteVstore (dispatchAll (startTakeover (task s n).core (task s n).core [n] s.wke.newestB true s))
  else s

/-- A damaged bank is valid no more (R189); the other one, when it is valid, holds the newest valid checkpoint then. -/
def spoilBank (b : Bool) (w : Wke) : Wke :=
  let w := if b then { w with bankB := { w.bankB with intact := false } } else { w with bankA := { w.bankA with intact := false } }
  { w with newestB := if w.newestB = b && bankValid (bankOf w (!b)) then !b else w.newestB }

/-- A record with an error counts as torn (R182). -/
def spoilRecord (edge : Nat) (w : Wke) : Wke :=
  { w with ring := w.ring.map (fun r => if r.edge = edge then { r with entries := [.raw (recBytes r)] } else r) }

/-- Area and task slot of an error, for event 0x400C. -/
def hitArea (h : MemHit) : Nat × Nat :=
  match h with
  | .taskState n => (1, n.val)
  | .window l => (2, l.headD 0x3F % 64)
  | .macRing _ _ _ | .macRxBuffer _ _ | .macTxBuffer _ _ | .canArea _ _ => (3, 0x3F)
  | .systemData _ => (4, 0x3F)
  | .imageStore _ => (5, 0x3F)
  | .retained n => (6, n.val)
  | .bank _ | .journal _ | .eventRecord _ | .otherMram => (6, 0x3F)

/-- The reaction to an error (R192). -/
def hitEffect (h : MemHit) (s : State) : State :=
  match h with
  | .taskState n => rebuildTask n.val s
  | .window l => l.foldl (fun s n => rebuildTask n s) s
  | .macRing m q i => stopRing m.val q i s
  | .macRxBuffer m q => modRing m.val true q (fun x => { x with refused := sat 16 x.refused 1, drops := sat 16 x.drops 1 }) s
  | .macTxBuffer m r =>
    if ringReady (ringOf s m.val false r) then
      txRefuse m.val r 6 (modRing m.val false r (fun x => { x with refused := sat 16 x.refused 1 }) s)
    else s
  | .canArea n q => queueDrop n.val q.val s
  | .systemData both | .imageStore both => if both then assertReset 2 s else s
  | .bank b => { s with wke := spoilBank b s.wke }
  | .journal e => { s with wke := spoilRecord e s.wke }
  | .eventRecord n => { s with evr := { s.evr with records := s.evr.records.filter (fun r => r.recno ≠ n) } }
  | .retained _ | .otherMram => s

/-- `MEMORY_UNCORRECTABLE`: event 0x400C, and the reaction of the area. -/
def execMemoryUncorrectable (hit : MemHit) (page : Nat) (s : State) : Host.Outcome State Fault Refusal :=
  let a := hitArea hit
  .next (hitEffect hit (raise {
    code := 0x400C, block := 0x04, unit := if a.2 = 0x3F then 0 else a.2, drawer := if a.2 = 0x3F then 0 else taskDrawer s a.2,
    detail := a.1 * 2 ^ 28 + a.2 * 2 ^ 16 + min page 0xFFFF } s))

/-! ### Settlements (R197, R198) -/

/-- A new stroke that waited for its predecessor's settlement may drive (R198). -/
def unblock (n : Nat) (s : State) : State :=
  modTask n (fun t => { t with stroke := t.stroke.map (fun k => { k with blocked := false }) }) s

/-- The stroke that waits drives from the settled state: it does not see the messages that the settled write set took
(R158, R198). -/
def passTaken (n taken : Nat) (s : State) : State :=
  modTask n (fun t => { t with stroke := t.stroke.map (fun k => if k.blocked then { k with inboxFrom := taken } else k) }) s

/-- The settlement's write set waits for edge u; event 0x4003. -/
def settleWon (x : Settle) (w : WriteSet) (row us : Nat) (s : State) : State :=
  let s := { s with wke := { s.wke with
    settles := s.wke.settles.map (fun y => if y.slot = x.slot && y.relEdge = x.relEdge then { y with won := some w } else y) } }
  let s := passTaken x.slot w.taken s
  raise {
    code := 0x4003, block := 0x04, unit := x.slot, drawer := taskDrawer s x.slot,
    detail := x.slot * 2 ^ 24 + row * 2 ^ 20 + min (us / 10) 0xFFFF } s

/-- The seat of a settlement is free again, unless it stays the pair's second core. -/
def settleSeatFree (x : Settle) (s : State) : State := if x.kept then s else freeSeat x.seat s

/-- The stroke that waited for a settlement drives on both cores of the pair: the seat in place of the outvoted or failed
core (R198, R199). -/
def joinPair (n c seat : Nat) (s : State) : State :=
  modTask n (fun t => { t with stroke := t.stroke.map (fun k =>
    if k.blocked then
      let l := k.copies.map (fun z => if z.core = c then { core := seat } else z)
      { k with copies := if l.any (fun z => z.core = seat) then l else l ++ [{ core := seat }] }
    else k) }) s

/-- The seat of a settlement replaces a core of the pair that failed while no other seat was free: the pairs that ran on
their survivor for its sake have two cores again (R197, R199). -/
def seatReplaces (x : Settle) (c : Nat) (s : State) : State :=
  let halves := (declaredSlots s).filter (fun n => (task s n).core = c || (task s n).pair = c)
  let s := takeSeat x.seat .taken (rebind c x.seat s)
  sparesOut (joinPair x.slot c x.seat { s with wke := { s.wke with alone := s.wke.alone.filter (fun n => !halves.contains n) } })

/-- A settlement ends (R197): by the core whose returned copy the third execution matches, or none. -/
def settleEnds (x : Settle) (matched : Option Nat) (us : Nat) (s : State) : State :=
  match matched.bind (fun c => (copyOn x.stroke c).filter returned) with
  | some w =>
    match x.stroke.copies.find? (fun y => y.core ≠ w.core) with
    | some o =>
      if o.phase = .lost || s.wke.failed.testBit o.core then
        let s := settleWon x w.ws 2 us s
        if s.wke.alone.contains x.slot && !x.kept then seatReplaces x o.core s else settleSeatFree x s
      else if returned o then
        joinPair x.slot o.core x.seat (failCoreTo (some x.seat) o.core 5 (settleSeatFree x (settleWon x w.ws 1 us s)))
      else settleSeatFree x (settleWon x w.ws 3 us s)
    | none => settleSeatFree x (settleWon x w.ws 2 us s)
  | none => settleSeatFree x (unsettle 1 x.slot x.relEdge s)

/-- `SETTLEMENT_DONE`: the third execution has ended after `us`; `matched` is the core of the copy it equals. -/
def execSettlementDone (slot : Fin 64) (matched : Option (Fin 16)) (us : Nat) (s : State) : Host.Outcome State Fault Refusal :=
  match s.wke.settles.find? (fun x => x.slot = slot.val && x.won.isNone) with
  | some x => .next (dispatchAll (unblock slot.val (sameCycle (settleEnds x (matched.map (·.val)) us) s)))
  | none => .next s

/-! ### Seat self-tests (R200) -/

/-- `SEAT_SELF_TEST`: a free seat wakes for its test, one at a time. -/
def execSeatSelfTest (seat : Fin 16) (s : State) : Host.Outcome State Fault Refusal :=
  if tget s.wke.seats seat.val = some .free && s.wke.seats.all (fun p => p.2 ≠ .selfTest) then
    .next (modCore seat.val (fun x => { x with powered := true })
      { s with wke := { s.wke with seats := tset s.wke.seats seat.val .selfTest } })
  else .next s

/-- `SEAT_SELF_TEST_DONE`: the seat returns to power gating, or is a core that fails (kind 7). -/
def execSeatSelfTestDone (seat : Fin 16) (passed : Bool) (s : State) : Host.Outcome State Fault Refusal :=
  if tget s.wke.seats seat.val = some .selfTest then
    if passed then .next (modCore seat.val (fun x => { x with powered := false })
      { s with wke := { s.wke with seats := tset s.wke.seats seat.val .free } })
    else .next (failCore seat.val 7 s)
  else .next s

end Sys2Proof.Machine
end

