-- ==== Sys2Proof/Machine/RegsSys.lean ====
section
/-! DEFINITION. Registers of SYS, DRW, STK, DVT and WKE as read and written in the service address space, with the
common registers of every block (R14, R15, R42 to R48, R68 to R77, R105 to R108, R138 to R144, R175 to R179, R206 to
R210). -/
namespace Sys2Proof.Machine

/-! ### The service address map (R40) -/

/-- Base of a block instance. -/
def blockBase (b : Block) : Nat :=
  match b with
  | .sys => 0x10000000 | .stk => 0x10010000 | .dvt => 0x10020000 | .wke => 0x10030000 | .jig => 0x10040000
  | .dio => 0x10050000 | .aio => 0x10060000 | .lpe => 0x10070000 | .rio => 0x10080000 | .can n => 0x10090000 + n * 0x1000
  | .mac n => if n < 8 then 0x100A0000 + n * 0x1000 else 0x100A8000 + (n - 8) * 0x2000
  | .ptp => 0x100B0000 | .rtc => 0x100C0000 | .evr => 0x100D0000 | .cvu n => 0x100E0000 + n * 0x1000 | .key => 0x100F0000
  | .upd => 0x10100000 | .hie => 0x10110000 | .dbg => 0x10120000 | .drw => 0x10130000

/-- Block code and instance of `*_ID` (R40, R42). -/
def blockCode (b : Block) : Nat × Nat :=
  match b with
  | .sys => (1, bit Config.orderX) | .stk => (2, 0) | .dvt => (3, 0) | .wke => (4, 0) | .jig => (5, 0) | .dio => (6, 0)
  | .aio => (7, 0) | .lpe => (8, 0) | .rio => (9, 0) | .can n => (0xA, n) | .mac n => (0xB, n) | .ptp => (0xC, 0)
  | .rtc => (0xD, 0) | .evr => (0xE, 0) | .cvu n => (0xF, n) | .key => (0x10, 0) | .upd => (0x11, 0) | .hie => (0x12, 0)
  | .dbg => (0x13, 0) | .drw => (0x14, 0)

/-- The block instance at an address. -/
def blockAt (a : Nat) : Option Block :=
  if a < 0x10000000 || 0x10140000 ≤ a || !listed a then none
  else
    match a / 0x10000 % 0x100 with
    | 0 => some .sys | 1 => some .stk | 2 => some .dvt | 3 => some .wke | 4 => some .jig | 5 => some .dio | 6 => some .aio
    | 7 => some .lpe | 8 => some .rio | 9 => some (.can (a / 0x1000 % 16))
    | 0xA => some (if a / 0x1000 % 16 < 8 then .mac (a / 0x1000 % 16) else .mac (8 + (a / 0x1000 % 16 - 8) / 2))
    | 0xB => some .ptp | 0xC => some .rtc | 0xD => some .evr | 0xE => some (.cvu (a / 0x1000 % 16)) | 0xF => some .key
    | 0x10 => some .upd | 0x11 => some .hie | 0x12 => some .dbg | _ => some .drw

/-! ### Access codes and common registers (R15, R42 to R48) -/

/-- `*_ID` (R42). -/
def idReg (b : Block) : Nat := (blockCode b).1 * 2 ^ 24 + 2 ^ 16 + (blockCode b).2

/-- The current mode lets the block run (R48, R50): the crew and the loop engine neither in RIGGING nor in HOLD; nothing
commits, is journalled, drives an analog output or sends a release marker in RIGGING (DEDUCED, log entry 30). -/
def modeLets (b : Block) (s : State) : Bool :=
  match b with
  | .stk | .lpe => s.sys.mode = .run || s.sys.mode = .degraded || s.sys.mode = .debug
  | .dvt | .wke | .aio | .rio => s.sys.mode ≠ .rigging
  | _ => true

/-- The block's power domain is on (R37, R38): BAK always, SAFE from the arrival of VSYS, the others once reset is
released. Off in the mode, LOOP is off with its engine. -/
def domainOn (b : Block) (s : State) : Bool :=
  match b with
  | .rtc => true
  | .jig | .dio => s.sys.boot ≠ .off
  | _ => s.sys.boot ≠ .off && s.sys.boot ≠ .held

/-- The image in force declares the block (R45); none is in force before a load has succeeded. -/
def isDeclared (b : Block) (s : State) : Bool := s.declared.contains b

/-- `*_STATUS` (R48): the common bits above the block's own. -/
def statusReg (b : Block) (fault : Bool) (own : Nat) (s : State) : Nat :=
  bit (s.enabled.contains b && domainOn b s && modeLets b s) * 2 ^ 31 + bit (isDeclared b s) * 2 ^ 30 + bit fault * 2 ^ 29 + own

/-- An RWL register: a write outside RIGGING is ignored and recorded (R15, R579). -/
def rwl (b : Block) (off : Nat) (f : State → State) (s : State) : State :=
  if s.sys.mode = .rigging then f s else raiseIgnored (blockCode b).1 (blockBase b + off) s

/-- A refused value is ignored and recorded (R579). -/
def refuseValue (b : Block) (off : Nat) (bad : Bool) (f : State → State) (s : State) : State :=
  if bad then raiseIgnored (blockCode b).1 (blockBase b + off) s else f s

/-- A write of 1 to ENABLE may set it: the image declares the block, or it needs no declaration (R44, R46). -/
def mayEnable (b : Block) (s : State) : Bool := isDeclared b s || infraBlocks.contains b

/-- A write to `*_CTRL` sets or clears ENABLE in RIGGING (R43, R44, R46): a write of 1 to a block that no image declares,
DBG among them, is ignored and recorded. ENABLE of DBG follows R541, so a write of 0 leaves it. -/
def writeEnable (b : Block) (v : Nat) (s : State) : State := rwl b 4 (fun s =>
  if v.testBit 0 then
    refuseValue b 4 (!mayEnable b s) (fun s =>
      { s with enabled := if s.enabled.contains b then s.enabled else s.enabled ++ [b] }) s
  else if b = .dbg then s
  else { s with enabled := s.enabled.filter (· ≠ b) }) s

/-- W1C: the bits of `m` that a write of `v` leaves. -/
def w1c (m v : Nat) : Nat := bandn m v

/-- A W1C maximum restarts on 0xFFFF_FFFF. -/
def w1cMax (m v : Nat) : Nat := if v = 0xFFFFFFFF then 0 else m

/-- A W1C maximum of a level restarts at the level that stands, the largest since then (DEDUCED, log entry 20). -/
def w1cPeak (now m v : Nat) : Nat := if v = 0xFFFFFFFF then now else m

/-! ### SYS (R68 to R77) -/

/-- ACT3 to ACT0 (R76): the frequency of a four is open up to its cap and the limit of the fire window; a four that is
gated reads 0. -/
def actReg (s : State) : Nat :=
  sumOf ((List.range 4).map (fun k =>
    let lim := if s.sys.fire then min 1 (fld s.sys.caps (2 * k) 2) else fld s.sys.caps (2 * k) 2
    if (s.cores.drop (4 * k)).take 4 |>.any (·.powered) then Config.freeValue (s.fresh + k) % (lim + 1) * 4 ^ k else 0))

/-- A register of SYS. -/
def readSys (off : Nat) (s : State) : Nat :=
  let x := s.sys
  match off with
  | 0x0C => modeCode x.prev * 2 ^ 8 + modeCode x.mode
  | 0x14 => x.replace
  | 0x18 => bit x.pfwSeen + bit x.braceSeen * 2 + bit x.pfw * 4 + bit x.brace * 8 + bit x.braceLong * 16 + bit x.vbakLow * 32 +
      bit s.rtc.feedVbak * 64
  | 0x1C => x.braceMin * 2 ^ 16 + x.vsys
  | 0x20 => x.primary * 2 ^ 28 + bit x.noBrace * 2 ^ 7 + x.cause
  | 0x28 => actReg s * 2 ^ 16 + x.caps * 2 ^ 8
  | 0x2C => maskBy s.cores (·.powered)
  | 0x30 => x.linkDownS * 2 ^ 16 + x.eccLimit
  | 0x34 => twos 16 x.temp
  | 0x38 => x.outage
  | 0x3C => x.bootTime
  | _ => 0

/-- A write to a register of SYS. -/
def writeSys (off v : Nat) (s : State) : State :=
  match off with
  | 0x10 => modeRequest v s
  | 0x18 => modSys (fun x => { x with pfwSeen := x.pfwSeen && !v.testBit 0, braceSeen := x.braceSeen && !v.testBit 1 }) s
  | 0x20 => modSys (fun x => { x with cause := w1c x.cause (v % 128), noBrace := x.noBrace && !v.testBit 7 }) s
  | 0x24 => resetRequest v s
  | 0x28 => modSys (fun x => { x with caps := fld v 8 8 }) s
  | 0x30 => rwl .sys off (refuseValue .sys off (out (v / 2 ^ 16) 1 3600 || out (v % 2 ^ 16) 1 1024)
      (modSys (fun x => { x with linkDownS := v / 2 ^ 16, eccLimit := v % 2 ^ 16 }))) s
  | _ => s

/-! ### DRW (R105 to R108) -/

/-- DRW_LOAD (R106). -/
def loadReg (d : Drw) : Nat :=
  d.load * 2 ^ 28 + bit d.fallback * 2 ^ 27 + bit d.loadSlot * 2 ^ 26 + d.section_ * 2 ^ 16 + d.firstFail * 2 ^ 8 + d.fail

/-- A word of GRANTS of a drawer (R108): EVR reads basic for every declared drawer (R94). -/
def grantWord (s : State) (d w : Nat) : Nat :=
  if w < 3 then sumOf ((List.range 16).map (fun i => grant s.drw.image d (16 * w + i) * 4 ^ i)) else 0

/-- A register of DRW. -/
def readDrw (off : Nat) (s : State) : Nat :=
  let d := s.drw
  if 0x40 ≤ off && off < 0x60 then f32 d.meas (off - 0x40)
  else if 0x60 ≤ off && off < 0x80 then f32 (jigCopy s.jig).digest (off - 0x60)
  else if 0x100 ≤ off && off < 0x300 then grantWord s ((off - 0x100) / 16) (off % 16 / 4)
  else
    match off with
    | 0x0C => loadReg d
    | 0x10 => d.serial
    | 0x14 => d.serialFloor
    | 0x18 => maskBy (List.range 32) (drawerKnown d.image)
    | 0x1C => bit d.fValid * 2 ^ 31 + d.fKind * 2 ^ 29 + d.fTag * 2 ^ 8 + d.fTarget
    | 0x20 => d.fAddr
    | 0x24 => d.fCount
    | 0x28 => bit s.jig.sel + bit s.jig.rewrote * 2
    | _ => 0

/-- A write to a register of DRW. -/
def writeDrw (off v : Nat) (s : State) : State :=
  if off = 0x1C then { s with drw := { s.drw with fValid := s.drw.fValid && !v.testBit 31 } } else s

/-! ### STK (R138 to R144) -/

/-- STK_TASKn_CFG (R139). -/
def taskCfg (s : State) (n : Nat) : Nat :=
  (taskRec s.drw.image n).elim 0 (fun r =>
    tkPrio r * 2 ^ 28 + (tkPool r - 1) * 2 ^ 25 + bit (tkEvent r) * 2 ^ 24 + bit (tkPaired r) * 2 ^ 23 + bit (tkWork r) * 2 ^ 22 +
      2 ^ 21 + tkPeriod r)

/-- STK_TASKn_STATE (R140). -/
def taskStateReg (t : Task) : Nat :=
  taskState t * 2 ^ 28 + t.core * 2 ^ 20 + t.pair * 2 ^ 16 + bit t.lateSeen * 2 ^ 7 + bit t.skipSeen * 2 ^ 6 +
    bit (t.stroke.elim false (·.retry)) * 2 ^ 5 + t.lastKind * 4

/-- A register of a task slot. -/
def readTask (s : State) (n off : Nat) : Nat :=
  let t := task s n
  match off with
  | 0x00 => taskCfg s n
  | 0x04 => taskStateReg t
  | 0x08 => (taskRec s.drw.image n).elim 0 (fun r => tkDrawer r * 2 ^ 24 + tkOffset r)
  | 0x0C => (taskRec s.drw.image n).elim 0 tkBudget
  | 0x10 => t.catchReg
  | 0x14 => relTn s n
  | 0x18 => t.strokes
  | 0x1C => t.skips
  | 0x20 => t.lates
  | 0x24 => t.driveLast
  | 0x28 => t.driveMax
  | 0x2C => t.workLast
  | 0x30 => if taskIsEvent s n then bit t.sat * 2 ^ 31 + t.carried * 2 ^ 16 + t.pend else 0
  | _ => 0

/-- STK_RESTART (R143). -/
def restartReg (k : Stk) : Nat := k.rDeclared * 2 ^ 30 + k.rTaken * 2 ^ 28 + k.rReason * 2 ^ 24 + k.retainLost

/-- A register of STK. -/
def readStk (off : Nat) (s : State) : Nat :=
  let k := s.stk
  if 0x40 ≤ off && off < 0x60 then k.pools.getD ((off - 0x40) / 4) 0
  else if 0x100 ≤ off && off < 0x1100 then readTask s ((off - 0x100) / 64) (off % 64)
  else
    match off with
    | 0x10 => k.tnHi
    | 0x14 => restartReg k
    | 0x18 => s.rtc.force
    | 0x1C => k.skipTotal
    | 0x20 => k.lateTotal
    | _ => 0

/-- A write to a register of STK. -/
def writeStk (off v : Nat) (s : State) : State :=
  if off = 0x18 then (if v % 4 = 3 then s else { s with rtc := { s.rtc with force := v % 4 } })
  else if 0x100 ≤ off && off < 0x1100 then
    let n := (off - 0x100) / 64
    match off % 64 with
    | 0x04 => modTask n (fun t => { t with lateSeen := t.lateSeen && !v.testBit 7, skipSeen := t.skipSeen && !v.testBit 6 }) s
    | 0x28 => modTask n (fun t => { t with driveMax := w1cMax t.driveMax v }) s
    | 0x30 => modTask n (fun t => { t with sat := t.sat && !v.testBit 31 }) s
    | _ => s
  else s

/-- STK_STATUS (R138): FREE in FREE and ACQUIRING (R392), LIVE tasks, declared slots. -/
def stkStatus (s : State) : Nat :=
  let live := (s.stk.tasks.filter (fun t => taskState t = 2 || taskState t = 3)).length
  statusReg .stk false (bit (s.ptp.st = .free || s.ptp.st = .acquiring) * 2 ^ 23 + live * 2 ^ 16 + (taskRecs s.drw.image).length) s

/-! ### DVT (R175 to R179) -/

/-- DVT_GRPg_STATE (R177). -/
def grpReg (s : State) (g : Nat) : Nat :=
  match s.dvt.groups[g]? with
  | none => 0
  | some n =>
    let t := task s n
    let w := (t.stroke.bind (fun k => k.copies.find? (fun x => !x.shadow))).elim ({} : WriteSet) (·.ws)
    let st := match w.grp with | .idle => 1 | .opened => 2 | .committed => 3 | .overflow => 4
    st * 2 ^ 28 + g * 2 ^ 24 + t.grpLast * 2 ^ 20 + n * 2 ^ 10 + w.staged.length

/-- DVT_STATUS (R176). -/
def dvtStatus (s : State) : Nat :=
  let opened := ((List.range s.dvt.groups.length).filter (fun g => 2 ≤ grpReg s g / 2 ^ 28)).length
  statusReg .dvt s.dvt.fValid (opened * 2 ^ 16) s

/-- A register of DVT. -/
def readDvt (off : Nat) (s : State) : Nat :=
  let d := s.dvt
  if 0x80 ≤ off && off < 0xC0 then grpReg s ((off - 0x80) / 4)
  else if 0x100 ≤ off && off < 0x500 then
    let t := task s ((off - 0x100) / 16)
    match off % 16 with
    | 0 => t.digest.toNat % 2 ^ 32
    | 4 => t.digest.toNat / 2 ^ 32
    | 8 => t.wrRej * 2 ^ 16 + t.sndRef
    | 12 => t.drops * 2 ^ 16 + t.inbox.length
    | _ => 0
  else
    match off with
    | 0x1C => bit d.fValid * 2 ^ 31 + d.fKind * 2 ^ 27 + d.fSlot * 2 ^ 18 + d.fDetail
    | 0x20 => d.fAddr
    | 0x24 => d.fCount
    | 0x2C => d.digestLatch.toNat % 2 ^ 32
    | 0x30 => d.digestLatch.toNat / 2 ^ 32
    | 0x34 => d.commitLast
    | 0x38 => d.commitMax
    | 0x3C => d.commitBound
    | 0x40 => d.vstore
    | 0x44 => d.vstorePeak
    | 0x48 => d.vstoreBound
    | 0x4C => d.msgDrops
    | _ => 0

/-- A write to a register of DVT; the caller registers reach a group only from its own stroke (R164). -/
def writeDvt (off v : Nat) (s : State) : State :=
  match off with
  | 0x1C => { s with dvt := { s.dvt with fValid := s.dvt.fValid && !v.testBit 31 } }
  | 0x38 => { s with dvt := { s.dvt with commitMax := w1cMax s.dvt.commitMax v } }
  | 0x44 => { s with dvt := { s.dvt with vstorePeak := w1cPeak s.dvt.vstore s.dvt.vstorePeak v } }
  | _ => s

/-! ### WKE (R206 to R210) -/

/-- WKE_STATUS (R207). -/
def wkeStatus (s : State) : Nat :=
  let w := s.wke
  statusReg .wke w.lfValid (bit w.suspended * 2 ^ 23 + bit (!w.takeovers.isEmpty) * 2 ^ 22 +
    bit (w.settles.any (·.won.isNone)) * 2 ^ 21 + bit w.writing.isSome * 2 ^ 20 + min 7 (freeSeats w).length * 2 ^ 16) s

/-- A register of WKE; what it shows of MRAM reads 0 until the load has ended (R206). -/
def readWke (off : Nat) (s : State) : Nat :=
  let w := s.wke
  let up := s.sys.boot = .loaded
  match off with
  | 0x0C => w.interval
  | 0x10 => maskBy (List.range 16) (fun c => (freeSeats w).contains c) * 2 ^ 16 + w.declared
  | 0x14 => w.failed
  | 0x18 => bit w.writing.isSome * 2 ^ 31 + bit (w.writing.isSome && w.writingB) * 2 ^ 30 + bit (up && w.newestB) * 2 ^ 29 +
      bit (up && bankValid w.bankA) * 2 ^ 28 + bit (up && bankValid w.bankB) * 2 ^ 27 + w.duration
  | 0x1C => if up then w.bankA.tn % 2 ^ 32 else 0
  | 0x20 => if up then w.bankB.tn % 2 ^ 32 else 0
  | 0x24 => w.volume
  | 0x28 => if up then ringUse s else 0
  | 0x2C => w.ringPeak
  | 0x30 => w.ringBound
  | 0x34 => bit w.lfValid * 2 ^ 31 + w.lfKind * 2 ^ 27 + w.lfCore * 2 ^ 20 + w.lfSeat * 2 ^ 16 + bit w.lfNoSeat * 2 ^ 15 + w.lfTasks
  | 0x38 => w.toLast
  | 0x3C => w.toMax
  | 0x40 => w.cTakeovers * 2 ^ 24 + w.cSettled * 2 ^ 16 + w.cUnsettled * 2 ^ 8 + w.cReadback
  | _ => 0

/-- A write to a register of WKE. -/
def writeWke (off v : Nat) (s : State) : State :=
  let set := fun (f : Wke → Wke) (s : State) => { s with wke := f s.wke }
  match off with
  | 0x0C => rwl .wke off (refuseValue .wke off (out (v % 1024) 10 1000) (set (fun w => { w with interval := v % 1024 }))) s
  | 0x2C => set (fun w => { w with ringPeak := w1cPeak (ringUse s) w.ringPeak v }) s
  | 0x34 => set (fun w => { w with lfValid := w.lfValid && !v.testBit 31 }) s
  | 0x3C => set (fun w => { w with toMax := w1cMax w.toMax v }) s
  | _ => s

end Sys2Proof.Machine
end

