-- ==== Sys2Proof/Machine/RegsIo.lean ====
section
/-! DEFINITION. Registers of JIG, DIO, AIO, LPE and RIO, and the staged writes that take effect in them (R165, R228 to
R231, R250 to R258, R272 to R277, R298 to R304, R324 to R328). -/
namespace Sys2Proof.Machine

/-! ### JIG (R228 to R230) -/

/-- Word `w` of a mask. -/
def maskWord (m w : Nat) : Nat := fld m (32 * w) 32

/-- Rules with a latch set, as a mask (R228). -/
def latchedRules (j : Jig) : Nat := maskOf ((List.range 128).map (fun n => fld j.latch (8 * n) 8 ≠ 0))

/-- Targets forced or at their HOLD value, as a mask. -/
def forcedTargets (s : State) : Nat := maskOf ((List.range 40).map (targetForced s))

/-- JIG_STATUS (R229). -/
def jigStatus (s : State) : Nat :=
  let j := s.jig
  statusReg .jig j.scrubFail (bit j.scrubFail * 2 ^ 23 + bit j.sel * 2 ^ 22 + bit (!j.matrix.isEmpty) * 2 ^ 21 +
    popc (forcedTargets s) 40 * 2 ^ 8 + popc j.rules 128) s

/-- A register of JIG. An empty copy, as shipped, reads as rules without a used term and a target (DEDUCED, log entry 9). -/
def readJig (off : Nat) (s : State) : Nat :=
  let j := s.jig
  if 0x20 ≤ off && off < 0x30 then maskWord j.rules ((off - 0x20) / 4)
  else if 0x30 ≤ off && off < 0x40 then maskWord j.seen ((off - 0x30) / 4)
  else if 0x40 ≤ off && off < 0x50 then maskWord (latchedRules j) ((off - 0x40) / 4)
  else if 0x400 ≤ off && off < 0x1400 then
    if (jigCopy j).body.isEmpty then (if off % 0x20 = 0 then 0x003F0000 else 0) else f32 (jigCopy j).body (off - 0x400)
  else if 0x1400 ≤ off && off < 0x14A0 then f32 (jigCopy j).body (off - 0x400)
  else
    match off with
    | 0x0C => j.where_ * 2 ^ 30 + j.cycles
    | 0x14 => maskWord j.cond 0
    | 0x18 => maskWord j.cond 1
    | 0x50 => maskWord (forcedTargets s) 0
    | 0x54 => maskWord (forcedTargets s) 1
    | _ => 0

/-- A write to a register of JIG; none while its register interface is off (R47). The RULE_SEEN bit of a rule that
is true sets again at once (R228). -/
def writeJig (off v : Nat) (s : State) : State :=
  if !jigOpen s then s
  else if off = 0x10 then latchClr v s
  else if 0x30 ≤ off && off < 0x40 then
    { s with jig := { s.jig with seen := bandn s.jig.seen (v * 2 ^ (8 * (off - 0x30))) ||| s.jig.rules } }
  else s

/-! ### DIO (R251 to R258) -/

/-- Channel of a per-channel register of DIO or AIO. -/
def chanOf (off : Nat) : Nat := (off - 0x100) / 16

/-- A register of DIO. -/
def readDio (off : Nat) (s : State) : Nat :=
  let d := s.dio
  if 0x30 ≤ off && off < 0x40 then grpSupply s ((off - 0x30) / 4)
  else if 0x100 ≤ off && off < 0x500 then
    let n := chanOf off
    match off % 16 with
    | 0 => if n < 32 then (diCh s n).cfg else (doCh s (n - 32)).cfg
    | 4 => if n < 32 then diStatus s n else doStatus s (n - 32)
    | 8 => dioCount s n
    | _ => 0
  else
    match off with
    | 0x0C => maskBy d.di diOut
    | 0x10 => s.jig.di
    | 0x14 => maskBy d.di (·.wireOpen)
    | 0x18 => d.cmd
    | 0x1C => d.stroke
    | 0x20 => d.pins
    | 0x24 => maskOf ((List.range 32).map (outFault s))
    | 0x28 => d.lcmd
    | _ => 0

/-- The W1C flags of DIO_CHn_STATUS (R255, R256). -/
def clearDioFlags (n v : Nat) (s : State) : State :=
  if n < 32 then modDi n (fun c => { c with owSeen := c.owSeen && !v.testBit 28 }) s
  else modDo (n - 32) (fun c => { c with
    thermalSeen := c.thermalSeen && !v.testBit 23, overloadSeen := c.overloadSeen && !v.testBit 22,
    openSeen := c.openSeen && !v.testBit 21, extSeen := c.extSeen && !v.testBit 20 }) s

/-- A write to a register of DIO other than DIO_CHn_CFG. Whether the junction of a cleared output has cooled the write
does not say: a free value (R258, log entry 6). -/
def writeDio (off v : Nat) (s : State) : State :=
  if off = 0x40 then groupClr v s
  else if 0x100 ≤ off && off < 0x500 then
    let n := chanOf off
    match off % 16 with
    | 4 => clearDioFlags n v s
    | 12 => if n < 32 then s else channelClr (n - 32) v (Config.freeValue s.fresh % 2 = 1) { s with fresh := s.fresh + 1 }
    | _ => s
  else s

/-! ### AIO (R273 to R277) -/

/-- AIO_STATUS (R274). -/
def aioStatusReg (s : State) : Nat :=
  statusReg .aio (s.aio.ch.any aioFaulty) (s.aio.ch.filter aioFaulty).length s

/-- A register of AIO. -/
def readAio (off : Nat) (s : State) : Nat :=
  if 0x100 ≤ off && off < 0x200 then
    let n := chanOf off
    let c := aioCh s n
    match off % 16 with
    | 0 => c.mode
    | 4 => c.cfg
    | 8 => aioStatus s n
    | 12 => twos 32 c.value
    | _ => 0
  else
    match off with
    | 0x0C => maskBy s.aio.ch (fun c => aioIn c.mode && c.good = some true)
    | 0x10 => maskBy s.aio.ch (fun c => aioOut c.mode && (c.overload || c.openLoop))
    | _ => 0

/-- A write to a register of AIO other than AIO_CHn_CFG. -/
def writeAio (off v : Nat) (s : State) : State :=
  if 0x100 ≤ off && off < 0x200 && off % 16 = 8 then
    modAio (chanOf off) (fun c => { c with faultSeen := c.faultSeen && !v.testBit 27 }) s
  else s

/-! ### LPE (R299 to R304) -/

/-- Slot of a per-slot register of LPE. -/
def loopOf (off : Nat) : Nat := (off - 0x100) / 0x30

/-- LPE_STATUS (R300). -/
def lpeStatus (s : State) : Nat := statusReg .lpe (s.lpe.slots.any (·.2.dyn.lost)) s.lpe.slots.length s

/-- A register of LPE. -/
def readLpe (off : Nat) (s : State) : Nat :=
  if 0x100 ≤ off && off < 0x100 + 1024 * 0x30 then
    match tget s.lpe.slots (loopOf off), loopRec s.drw.image (loopOf off) with
    | some l, some r =>
      match (off - 0x100) % 0x30 with
      | 0x00 => loopCfg s.drw.image r
      | 0x04 => loopState l
      | 0x08 => twos 32 l.dyn.pvn
      | 0x0C => twos 32 l.dyn.spn
      | 0x10 => if l.evald then twos 32 l.dyn.vPrev else 0
      | 0x14 => l.cidx
      | 0x18 => l.cdata
      | 0x20 => l.ridx
      | 0x24 => loopRdata l
      | 0x28 => l.swaps * 2 ^ 16 + l.losses
      | _ => 0
    | _, _ => 0
  else
    match off with
    | 0x0C => s.lpe.bound
    | 0x10 => s.lpe.last
    | 0x14 => (s.lpe.slots.filter (·.2.dyn.lost)).length
    | 0x18 => (s.lpe.slots.filter (fun p => p.2.dyn.satHi || p.2.dyn.satLo)).length
    | _ => 0

/-- A write to a register of LPE other than the staged ones. -/
def writeLpe (off v : Nat) (s : State) : State :=
  if 0x100 ≤ off && off < 0x100 + 1024 * 0x30 then
    match (off - 0x100) % 0x30 with
    | 0x04 => modLoop (loopOf off) (fun l => { l with
        swapRefused := l.swapRefused && !v.testBit 21, lostSeen := l.lostSeen && !v.testBit 20,
        satSeen := l.satSeen && !v.testBit 19 }) s
    | 0x20 => modLoop (loopOf off) (fun l => { l with ridx := v &&& 0x13F }) s
    | _ => s
  else s

/-! ### RIO (R325 to R328) -/

/-- RIO_STATUS (R326). -/
def rioStatus (s : State) : Nat :=
  let lost := (s.rio.sta.filter (·.2.commLost)).length
  statusReg .rio (lost ≠ 0) (lost * 2 ^ 16 + s.rio.sta.length) s

/-- A register of a medium (R325, R327). -/
def readMedium (s : State) (m off : Nat) : Nat :=
  match tget s.rio.media m with
  | none => 0
  | some x =>
    match off with
    | 0x0 => bit (carries s m) * 2 ^ 31 + bit (8 ≤ m) * 2 ^ 30 + (if 8 ≤ m then canBase s.drw.image m else 0) * 2 ^ 16 +
        (s.rio.sta.filter (fun p => p.1 / 16 = m)).length
    | 0x4 => x.last
    | 0x8 => x.bound * 2 ^ 16 + x.delay
    | 0xC => s.rio.runId
    | _ => 0

/-- A register of a station (R325, R328). -/
def readStation (s : State) (k off : Nat) : Nat :=
  match tget s.rio.sta k, stationRec s.drw.image k with
  | some x, some r =>
    match off with
    | 0x00 => staStatus x * 2 ^ 16 + f8 r 3 * 2 ^ 8 + 2 ^ 7
    | 0x04 => stCycle r * 2 ^ 20 + stPhase r * 2 ^ 8 + stLimit r
    | 0x08 => stWdog r * 2 ^ 16 + stReply r * 2 ^ 8
    | 0x0C => x.last
    | 0x10 => x.misses
    | 0x14 => x.late * 2 ^ 16 + x.failed
    | 0x18 => x.delayMax * 2 ^ 16 + x.delay
    | _ => 0
  | _, _ => 0

/-- Station of a per-station register. -/
def stationOf (off : Nat) : Nat := staKey ((off - 0x400) / 0x200) ((off - 0x400) % 0x200 / 0x20)

/-- A register of RIO. -/
def readRio (off : Nat) (s : State) : Nat :=
  if 0x100 ≤ off && off < 0x1C0 then readMedium s ((off - 0x100) / 16) (off % 16)
  else if 0x400 ≤ off && off < 0x1C00 then readStation s (stationOf off) (off % 0x20)
  else
    match off with
    | 0x0C => (remotes s.drw.image 2).length
    | 0x10 => s.rio.missTotal
    | 0x14 => s.rio.abandonTotal
    | _ => 0

/-- A write to a register of RIO: the W1C bits only (R324). -/
def writeRio (off v : Nat) (s : State) : State :=
  if 0x400 ≤ off && off < 0x1C00 then
    match off % 0x20 with
    | 0x00 => modSta (stationOf off) (fun x => { x with
        safeSeen := x.safeSeen && !v.testBit 29, restartSeen := x.restartSeen && !v.testBit 28,
        lateSeen := x.lateSeen && !v.testBit 25 }) s
    | 0x18 => modSta (stationOf off) (fun x => { x with delayMax := w1cMax x.delayMax v }) s
    | _ => s
  else s

/-! ### Staged registers (R15, R165, R167) -/

/-- An ST register: DIO_CHn_CFG, AIO_CHn_CFG, LPE_SLOTn_CIDX, CDATA and SWAP of a declared slot's offsets. -/
def isStaged (b : Block) (off : Nat) : Bool :=
  match b with
  | .dio => 0x100 ≤ off && off < 0x500 && off % 16 = 0
  | .aio => 0x100 ≤ off && off < 0x200 && off % 16 = 4
  | .lpe => 0x100 ≤ off && off < 0x100 + 1024 * 0x30 && (off - 0x100) % 0x30 ∈ [0x14, 0x18, 0x1C]
  | _ => false

/-- A write of an ST register takes effect (R165, R167). -/
def applyStaged (addr v : Nat) (s : State) : State :=
  match blockAt addr with
  | some b =>
    let off := addr - blockBase b
    if !isStaged b off then s
    else
      match b with
      | .dio => applyDioCfg (chanOf off) v addr s
      | .aio => applyAioCfg (chanOf off) v s
      | .lpe => applyLpe (loopOf off) ((off - 0x100) % 0x30) v addr s
      | _ => s
  | none => s

end Sys2Proof.Machine
end

