-- ==== Sys2Proof/Machine/RegsNet.lean ====
section
/-! DEFINITION. Registers of the CAN channels, the MACs, PTP, RTC, EVR and the check-value units (R346 to R355, R381
to R389, R417 to R424, R442 to R446, R454 to R458). -/
namespace Sys2Proof.Machine

/-! ### CAN (R346 to R355) -/

/-- Code of a transmit buffer's state (R353). -/
def txCode (t : TxSt) : Nat :=
  match t with | .idle => 0 | .pending => 1 | .active => 2 | .sent => 3 | .cancelled => 4 | .failed => 5 | .refused => 6

/-- CANn_STATUS.STATE (R349). -/
def canState (c : Can) : Nat := if c.busOff then 2 else if c.integrating then 3 else if canPassive c then 1 else 0

/-- CANn_STATUS. -/
def canStatus (n : Nat) (s : State) : Nat :=
  let c := canOf s n
  statusReg (.can n) (c.busOff || c.alone) (canState c * 2 ^ 22 + bit c.alone * 2 ^ 21 + bit (carries s (8 + n)) * 2 ^ 20) s

/-- A filter pair's register (R347). -/
def readPair (s : State) (n p off : Nat) : Nat :=
  match (canPairs s n).find? (fun r => f8 r 2 = p) with
  | none => 0
  | some r =>
    match off with
    | 0 => f32 r 8
    | 4 => f32 r 12
    | 8 => 2 ^ 31 + f8 r 4 % 4 * 2 ^ 8 + f8 r 5 % 16
    | _ => 0

/-- A register of a transmit buffer. -/
def readBuf (x : CanBuf) (off : Nat) : Nat :=
  if 8 ≤ off && off < 0x48 then f32 x.data (off - 8)
  else
    match off with
    | 0x00 => x.id
    | 0x04 => x.ctrl
    | 0x48 => x.ts % 2 ^ 32
    | 0x4C => x.ts / 2 ^ 32
    | _ => 0

/-- A register of a receive queue. -/
def readQueue (x : CanQueue) (off : Nat) : Nat :=
  if off < 0x50 then (queueHead x).getD (off / 4) 0
  else if off = 0x50 then bit x.locked * 2 ^ 31 + bit x.shadow.isSome * 2 ^ 30 + x.entries.length * 2 ^ 16 + x.drops
  else 0

/-- A register of a declared channel. -/
def readCan (n off : Nat) (s : State) : Nat :=
  let c := canOf s n
  if 0x100 ≤ off && off < 0x200 then readQueue (c.queues.getD ((off - 0x100) / 0x80) {}) (off % 0x80)
  else if 0x200 ≤ off && off < 0x380 then readBuf (c.bufs.getD ((off - 0x200) / 0x80) {}) (off % 0x80)
  else if 0x400 ≤ off && off < 0x600 then readPair s n ((off - 0x400) / 16) (off % 16)
  else
    match off with
    | 0x0C => c.nbt
    | 0x10 => c.dbt
    | 0x14 => c.loopDelay * 2 ^ 8 + c.tdco
    | 0x18 => errDetail c + c.dlec * 2 ^ 4 + c.lec
    | 0x1C => c.flags
    | 0x24 => maskBy c.bufs txBusy
    | 0x2C => sumOf ((enum c.bufs).map (fun p => txCode p.2.st * 16 ^ p.1))
    | 0x30 => c.dupId
    | 0x34 => c.txCount
    | 0x38 => c.rxCount
    | 0x3C => c.seqTx * 2 ^ 16 + c.seqRx
    | 0x40 => c.pxe
    | _ => 0

/-- A write to a transmit buffer (R333, R355). -/
def writeBufReg (n b off v : Nat) (s : State) : State :=
  if 8 ≤ off && off < 0x48 then writeBuf n b (fun x => { x with data := splice x.data (off - 8) (leBytes 4 v) }) s
  else
    match off with
    | 0x00 => writeBuf n b (fun x => { x with id := v % 2 ^ 30 }) s
    | 0x04 => writeBuf n b (fun x => { x with ctrl := v &&& 0xF00F }) s
    | _ => s

/-- A write to CANn_RXQq_POP (R338). -/
def popWrite (n q v : Nat) (s : State) : State :=
  match v % 4 with
  | 1 => queuePop n q s
  | 2 => queueRelease n q s
  | _ => s

/-- A write to a register of a declared channel. -/
def writeCan (n off v : Nat) (s : State) : State :=
  if 0x100 ≤ off && off < 0x200 then (if off % 0x80 = 0x54 then popWrite n ((off - 0x100) / 0x80) v s else s)
  else if 0x200 ≤ off && off < 0x380 then writeBufReg n ((off - 0x200) / 0x80) (off % 0x80) v s
  else
    match off with
    | 0x0C => rwl (.can n) off (modCan n (fun c => { c with nbt := v })) s
    | 0x10 => rwl (.can n) off (modCan n (fun c => { c with dbt := v &&& 0xFF1F1F1F })) s
    | 0x14 => rwl (.can n) off (modCan n (fun c => { c with tdco := v % 128 })) s
    | 0x1C => modCan n (fun c => { c with flags := w1c c.flags (v % 256) }) s
    | 0x20 => recoverWrite n v s
    | 0x24 => requestBufs n v s
    | 0x28 => cancelBufs n v s
    | _ => s

/-! ### MACs (R381 to R389) -/

/-- MACn_STATUS (R384). -/
def macStatus (m : Nat) (s : State) : Nat :=
  let x := macOf s m
  let on := macRuns s m
  let link := if isBackbone m then x.link else on
  let speed := if isBackbone m then x.speed else bit on
  statusReg (.mac m)
    ((isBackbone m && isDeclared (.mac m) s && !x.link) || x.conflict || (x.rings ++ x.queues).any (·.stopped))
    (bit link * 2 ^ 23 + speed * 2 ^ 21 + bit (decide (x.paused > 0)) * 2 ^ 20 + bit x.xoff * 2 ^ 19 +
      bit (!isBackbone m && on && macPlca x) * 2 ^ 18 + bit x.conflict * 2 ^ 17 + bit x.refused * 2 ^ 16) s

/-- A register of a ring or queue. -/
def readRing (queue : Bool) (x : Ring) (off : Nat) : Nat :=
  match off with
  | 0x00 => x.base
  | 0x04 => bit x.run * 2 ^ 31 + x.log2
  | 0x08 => x.head
  | 0x0C => x.tail
  | 0x10 => bit x.stopped * 2 ^ 31 + (if queue then x.noDesc * 2 ^ 16 else 0) + x.refused
  | _ => 0

/-- The FILTERS record of an address entry (form 2) or steering filter (form 3). -/
def macFilter (s : State) (m form e : Nat) : Option Rec := filterRec s.drw.image form m e

/-- MACn_ADDRe_HI or MACn_STEERf_CFG without its low bits (R387). -/
def filterCfg (r : Rec) : Nat := 2 ^ 31 + f8 r 4 % 8 * 2 ^ 24 + f8 r 3 * 2 ^ 16

/-- A register of a declared MAC. -/
def readMac (m off : Nat) (s : State) : Nat :=
  let x := macOf s m
  if 0x40 ≤ off && off < 0x80 then x.cnt.getD ((off - 0x40) / 4) 0
  else if 0x100 ≤ off && off < 0x140 then
    (macFilter s m 2 ((off - 0x100) / 8)).elim 0 (fun r => if off % 8 = 0 then f32 r 8 else filterCfg r + f16 r 12)
  else if 0x180 ≤ off && off < 0x280 then
    if !isBackbone m then 0
    else (macFilter s m 3 ((off - 0x180) / 16)).elim 0 (fun r =>
      match off % 16 with
      | 0 => f16 r 8
      | 4 => f16 r 12
      | 8 => filterCfg r + f8 r 5 % 4
      | _ => 0)
  else if 0x400 ≤ off && off < 0x480 then
    if !isBackbone m && off ≥ 0x420 then 0 else readRing false (x.rings.getD ((off - 0x400) / 0x20) {}) (off % 0x20)
  else if 0x600 ≤ off && off < 0x700 then
    if !isBackbone m && off ≥ 0x620 then 0 else readRing true (x.queues.getD ((off - 0x600) / 0x20) {}) (off % 0x20)
  else
    match off with
    | 0x0C => x.cfg
    | 0x10 => x.pauseCfg
    | 0x14 => sumOf ((List.range 4).map (fun q => queueOwnerByte s m q * 256 ^ q))
    | 0x18 => sumOf ((List.range 4).map (fun q => queueOwnerByte s m (q + 4) * 256 ^ q))
    | 0x1C => sumOf ((List.range 4).map (fun r => ringOwnerByte s m r * 256 ^ r))
    | 0x20 => x.fillMax * 2 ^ 16 + x.fill / 16
    | 0x24 => x.room
    | 0x28 => x.flags
    | _ => 0

/-- A write to a register of a ring or queue. -/
def writeRing (m : Nat) (queue : Bool) (i off v : Nat) (s : State) : State :=
  match off with
  | 0x00 => ringBase m queue i v s
  | 0x04 => ringCfg m queue i v s
  | 0x0C => ringTail m queue i (v % 2 ^ 12) s
  | _ => s

/-- A write to a register of a declared MAC. -/
def writeMac (m off v : Nat) (s : State) : State :=
  if 0x400 ≤ off && off < 0x480 then writeRing m false ((off - 0x400) / 0x20) (off % 0x20) v s
  else if 0x600 ≤ off && off < 0x700 then writeRing m true ((off - 0x600) / 0x20) (off % 0x20) v s
  else
    match off with
    | 0x0C => rwl (.mac m) off (modMac m (fun x => { x with cfg := v &&& 0xFF1F0700 })) s
    | 0x10 => rwl (.mac m) off (modMac m (fun x => { x with pauseCfg := v })) s
    | 0x20 => modMac m (fun x => { x with fillMax := w1cPeak (min (x.fill / 16) 0xFFFF) x.fillMax v }) s
    | 0x28 => modMac m (fun x => { x with flags := w1c x.flags (v % 256) }) s
    | _ => s

/-! ### PTP (R417 to R419) -/

/-- PTP_STATUS (R418). -/
def ptpStatus (s : State) : Nat :=
  let p := s.ptp
  statusReg .ptp (p.aligned && (p.st = .free || p.st = .holdover))
    (tickCode p.st * 2 ^ 22 + bit p.aligned * 2 ^ 21 + bit p.gm * 2 ^ 20 + p.slavePort * 2 ^ 16) s

/-- The time base at an instant after the last edge that no command fixes: that instant is a free value (R29, log
entry 7). -/
def timeBase (s : State) : Nat :=
  twos 64 (s.stk.baseNs + (s.stk.edges * 250000 + Config.freeValue s.fresh % 250000 : Nat))

/-- PTP_PORTm (R419). -/
def portReg (s : State) (m : Nat) : Nat :=
  let p := s.ptp.ports.getD m {}
  let on := ptpEnabled s m
  bit on * 2 ^ 31 + bit (on && m < 8) * 2 ^ 30 + (if on then p.state else 0) * 2 ^ 24 + p.ignored * 2 ^ 16 + p.delay

/-- A register of PTP whose read changes nothing. -/
def readPtp (off : Nat) (s : State) : Nat :=
  let p := s.ptp
  if 0x40 ≤ off && off < 0x68 then portReg s ((off - 0x40) / 4)
  else if 0x80 ≤ off && off < 0xA8 then
    let q := p.tsq.getD ((off - 0x80) / 4) {}
    q.overflows * 2 ^ 16 + q.entries.length
  else if 0x100 ≤ off && off < 0x1A0 then
    let q := p.tsq.getD ((off - 0x100) / 16) {}
    if off % 16 = 4 then q.latch % 2 ^ 32 else if off % 16 = 8 then q.latch / 2 ^ 32 else 0
  else
    match off with
    | 0x10 => p.timeHi
    | 0x14 => twos 32 p.offset
    | 0x18 => twos 32 p.freq
    | 0x1C => p.alignTn
    | 0x20 => p.cfg
    | 0x24 => p.prio
    | 0x28 => p.misc
    | 0x2C => p.origin % 2 ^ 32
    | 0x30 => p.origin / 2 ^ 32
    | 0x34 => p.gmId % 2 ^ 32
    | 0x38 => p.gmId / 2 ^ 32
    | _ => 0

/-- A write to a register of PTP. -/
def writePtp (off v : Nat) (s : State) : State :=
  match off with
  | 0x20 => rwl .ptp off (modPtp (fun p => { p with cfg := v })) s
  | 0x24 => rwl .ptp off (modPtp (fun p => { p with prio := v })) s
  | 0x28 => rwl .ptp off (modPtp (fun p => { p with misc := v })) s
  | 0x2C => rwl .ptp off (modPtp (fun p => { p with origin := p.origin / 2 ^ 32 * 2 ^ 32 + v })) s
  | 0x30 => rwl .ptp off (modPtp (fun p => { p with origin := v * 2 ^ 32 + p.origin % 2 ^ 32 })) s
  | _ => s

/-! ### RTC (R411, R420 to R424, R586) -/

/-- RTC_STATUS (R421). -/
def rtcStatus (s : State) : Nat :=
  let r := s.rtc
  statusReg .rtc r.osf (bit r.pendingSet.isSome * 2 ^ 23 + bit r.refused * 2 ^ 22 + bit (decide (r.trim > 0)) * 2 ^ 21 + r.epoch) s

/-- A word of backup memory (R411, R586). -/
def readBackup (r : Rtc) (w : Nat) : Nat :=
  if 24 ≤ w && w < 56 then (r.general.getD (w - 24) 0).toNat
  else
    match w with
    | 0 => if r.canary then 0xA55A3CC3 else 0
    | 1 => if r.canary then 0x5AA5C33C else 0
    | 2 => r.force + bit r.offcutPending * 2 ^ 8 + bit r.tamperEn * 2 ^ 9
    | 3 => r.capSeconds
    | 4 => r.capSub + bit r.captured * 2 ^ 15
    | _ => 0

/-- A register of RTC whose read changes nothing. -/
def readRtc (off : Nat) (s : State) : Nat :=
  let r := s.rtc
  if 0x100 ≤ off && off < 0x200 then readBackup r ((off - 0x100) / 4)
  else
    match off with
    | 0x10 => r.latch1
    | 0x14 => r.latchSub
    | 0x18 => r.latchSec
    | 0x1C => r.set0
    | 0x20 => r.set1
    | 0x28 => bit r.osf * 2 ^ 31 + bit r.domainLost * 2 + bit r.oscStop
    | 0x2C => r.vbak
    | _ => 0

/-- A write to RTC_SETCMD (R423); a drawer that reaches the register holds the expert grant. -/
def setCommand (v : Nat) (s : State) : State :=
  rtcKey (fld v 16 16) (fun s =>
    match v % 4 with
    | 1 => setNextEdge s
    | 2 => setNow s
    | 3 => setCancel s
    | _ => s) s

/-- A write to a register of RTC. -/
def writeRtc (off v : Nat) (s : State) : State :=
  if !rtcOpen s then s
  else if 0x100 ≤ off && off < 0x200 then
    let w := (off - 0x100) / 4
    if 24 ≤ w && w < 56 then modRtc (fun r => { r with general := lmod r.general (w - 24) (fun _ => w32 v) }) s else s
  else
    match off with
    | 0x1C => modRtc (fun r => { r with set0 := v % 2 ^ 17 }) s
    | 0x20 => modRtc (fun r => { r with set1 := v &&& 0xFFFF0F1F }) s
    | 0x24 => setCommand v s
    | 0x28 => modRtc (fun r => { r with domainLost := r.domainLost && !v.testBit 1, oscStop := r.oscStop && !v.testBit 0 }) s
    | _ => s

/-! ### EVR (R442 to R446) -/

/-- EVR_STATUS (R443). -/
def evrStatus (s : State) : Nat :=
  let e := s.evr
  statusReg .evr e.full
    (bit e.full * 2 ^ 23 + bit e.moving * 2 ^ 22 + bit e.moveWait * 2 ^ 21 + bit e.headOpen * 2 ^ 20 + e.buffer) s

/-- A register of EVR whose read changes nothing. -/
def readEvr (off : Nat) (s : State) : Nat :=
  let e := s.evr
  if 0x44 ≤ off && off < 0x60 then (e.window.getD ((off - 0x40) / 4) 0).toNat
  else if 0x80 ≤ off && off ≤ 0x100 then e.cursors.getD ((off - 0x80) / 4) 0
  else
    match off with
    | 0x0C => e.burst * 2 ^ 24 + e.rate * 2 ^ 16 + e.headTime
    | 0x10 => e.next
    | 0x14 => e.floor
    | 0x1C => e.select
    | 0x20 => e.wstat.toNat
    | 0x24 => e.wrecno
    | 0x28 => e.records.length
    | 0x2C => e.lost
    | 0x30 => e.folds
    | 0x34 => e.drops
    | _ => 0

/-- A write to a register of EVR. -/
def writeEvr (off v : Nat) (s : State) : State :=
  if 0x80 ≤ off && off ≤ 0x100 then modEvr (writeCursor ((off - 0x80) / 4) v) s
  else
    match off with
    | 0x0C => rwl .evr off (refuseValue .evr off (out (fld v 24 7) 1 64 || out (fld v 16 5) 1 16 || decide (fld v 0 7 > 100))
        (modEvr (fun e => setBurst (fld v 24 7) { e with rate := fld v 16 5, headTime := fld v 0 7 }))) s
    | 0x18 => clearWrite v s
    | 0x1C => if v % 64 ≤ 32 then modEvr (fun e => { e with select := v % 64 }) s else s
    | _ => s

/-! ### Check-value units (R454 to R458) -/

/-- CVUn_STATUS (R457). -/
def cvuStatus (n : Nat) (s : State) : Nat :=
  let u := cvuOf s n
  let o := cvuOwner s n
  statusReg (.cvu n) u.jobErr (bit u.busy * 2 ^ 23 + bit (s.drw.load = 2 && o.isNone) * 2 ^ 22 + o.getD 0 * 2 ^ 16) s

/-- A register of a unit. -/
def readCvu (n off : Nat) (s : State) : Nat :=
  let u := cvuOf s n
  match off with
  | 0x0C => u.mode * 16 + u.poly
  | 0x20 => cvuResult u
  | 0x24 => u.count
  | 0x28 => u.src
  | 0x2C => u.dst
  | 0x30 => u.len
  | 0x34 => bit u.busy * 2 ^ 31 + bit u.done * 2 ^ 30 + bit u.hit * 2 ^ 29 + u.status * 2 ^ 24
  | 0x38 => bit u.busyWrite * 4 + bit u.jobErr * 2 + bit u.mismatch
  | _ => 0

/-- A write to a register of a unit. -/
def writeCvu (n off v : Nat) (s : State) : State :=
  match off with
  | 0x0C => cvuWrite n (cvuCfg v) s
  | 0x10 => cvuWrite n (if v = 1 then cvuStart else id) s
  | 0x14 => cvuWrite n (cvuFeed (leBytes 1 v)) s
  | 0x18 => cvuWrite n (cvuFeed (leBytes 2 v)) s
  | 0x1C => cvuWrite n (cvuFeed (leBytes 4 v)) s
  | 0x28 => cvuWrite n (fun u => { u with src := v }) s
  | 0x2C => cvuWrite n (fun u => { u with dst := v }) s
  | 0x30 => cvuWrite n (fun u => { u with len := v % 2 ^ 25 }) s
  | 0x38 => modCvu n (fun u => { u with
      busyWrite := u.busyWrite && !v.testBit 2, jobErr := u.jobErr && !v.testBit 1, mismatch := u.mismatch && !v.testBit 0 }) s
  | _ => s

end Sys2Proof.Machine
end

