-- ==== Sys2Proof/Machine/RegsTop.lean ====
section
/-! DEFINITION. Registers of KEY, UPD, HIE and DBG (R486 to R492, R514 to R519, R535 to R537, R554 to R557). -/
namespace Sys2Proof.Machine

/-! ### KEY (R486 to R492) -/

/-- KEY_STATUS (R487). -/
def keyStatus (s : State) : Nat :=
  let k := s.key
  statusReg .key (k.rngFail || k.tamper.latched)
    (bit k.ready * 2 ^ 23 + bit k.rngFail * 2 ^ 22 + bit k.resealed * 2 ^ 21 + k.queue.length) s

/-- KEY_SLOTs_STATE and the identifier of a slot (R492). -/
def readSlot (k : Key) (n off : Nat) : Nat :=
  let key := slotKey k n
  let id := if key.isEmpty then [] else keyIdent key
  match off with
  | 0 => bit (n = 0 || !key.isEmpty) * 2 ^ 31 + (k.slots.getD n {}).changes
  | 4 => f32 id 0
  | 8 => f32 id 4
  | _ => 0

/-- Working cells in use. -/
def cellsUsed (k : Key) : Nat := ((k.cells.drop 64).filter (·.used)).length

/-- A register of KEY whose read changes nothing. -/
def readKey (off : Nat) (s : State) : Nat :=
  let k := s.key
  let t := k.tamper
  if 0x40 ≤ off && off < 0x60 then f32 k.nonce (off - 0x40)
  else if 0x60 ≤ off && off < 0x80 then f32 (identity k) (off - 0x60)
  else if 0x80 ≤ off && off < 0x100 then (if k.offcut then 0 else k.gens.getD ((off - 0x80) / 4) 0)
  else if 0x100 ≤ off && off < 0x180 then readSlot k ((off - 0x100) / 16) (off % 16)
  else
    match off with
    | 0x0C => k.fuses * 2 ^ 28 + bit k.pending * 2 ^ 27 + k.target * 2 ^ 24 + k.lc
    | 0x10 => bit k.offcut * 2 ^ 31 + bit (offcutPending s) * 2 ^ 30 + bit k.allowed * 2 ^ 29 + bit k.debugUsed * 2 ^ 28 +
        bit k.bypassSeen * 2 ^ 27
    | 0x14 => k.cmdAddr
    | 0x1C => k.cmdState * 2 ^ 28 + k.cmdReason * 2 ^ 24 + k.cmdOp * 2 ^ 16 + k.rspLen
    | 0x20 => bit t.latched * 2 ^ 31 + bit t.loopBad * 2 ^ 30 + t.cause * 2 ^ 28 + t.mode * 2 ^ 25 + bit s.rtc.tamperEn * 2 ^ 24 +
        t.count
    | 0x24 => t.time
    | 0x2C => cellsUsed k
    | 0x30 => k.remask
    | _ => 0

/-- A write of 1 to KEY_CMD_GO (R477), without effect while ENABLE is 0, which lets no DMA run (R43): the command block
at KEY_CMD_ADDR is read with the service initiator's tag. A reserved byte that is not 0x00 is refused as FORMAT, in
SCRAPPED as STATE like every command (R474). -/
def keyGo (s : State) : State :=
  if s.key.cmdState = 1 || !s.enabled.contains .key then s
  else
    let a := s.key.cmdAddr
    let h := memBytes s a 8
    let n := f16 h 2
    let (ok, s) := dmaAccess none false a (8 + n) s
    if !ok then commandRefused 0 7 s
    else
      let p := memBytes s (a + 8) n
      let wants := (signerOf s.key.lc (f8 h 0) (f8 p 0)).isSome
      let sig := if wants then memBytes s (a + 10 + n) (f16 (memBytes s (a + 8 + n) 2) 0) else []
      let (okSig, s) := if wants then dmaAccess none false (a + 8 + n) (2 + sig.length) s else (true, s)
      if !okSig then commandRefused (f8 h 0) 7 s
      else if f8 h 1 ≠ 0 then commandRefused (f8 h 0) (if s.key.lc = 4 then 2 else 3) s
      else keyCommand (f8 h 0) (f32 h 4) p sig s

/-- A write to a register of KEY. -/
def writeKey (off v : Nat) (s : State) : State :=
  match off with
  | 0x14 => modKey (fun k => { k with cmdAddr := v }) s
  | 0x18 => if v = 1 then keyGo s else s
  | _ => s

/-! ### UPD (R514 to R519) -/

/-- Code of a phase (R516). -/
def phaseCode (p : UpdPhase) : Nat :=
  match p with
  | .idle => 0 | .staging => 1 | .verifying => 2 | .verified => 3 | .shadow => 4 | .deferred => 5 | .switching => 6 | .watch => 7
  | .rollingBack => 8

/-- Code of a slot's state (R518). -/
def slotCode (x : SlotSt) : Nat :=
  match x with | .empty => 0 | .staging => 1 | .verified => 2 | .inForce => 3 | .previous => 4

/-- UPD_STATUS (R516). -/
def updStatus (s : State) : Nat :=
  statusReg .upd ((s.upd.unconfirmed && s.upd.rolledBack) || s.upd.result = 2) (phaseCode s.upd.phase * 2 ^ 20) s

/-- A register of UPD. -/
def readUpd (off : Nat) (s : State) : Nat :=
  let u := s.upd
  match off with
  | 0x10 => updRefuse s
  | 0x14 => bit u.activeB * 2 ^ 31 + bit u.unconfirmed * 2 ^ 30 + slotCode u.slotA.st * 2 ^ 20 + slotCode u.slotB.st * 2 ^ 16
  | 0x18 => u.part
  | 0x1C => u.addr
  | 0x20 => u.len
  | 0x24 => u.offset
  | 0x2C => bit u.busy * 2 ^ 31 + bit u.overrun * 2 ^ 30 + bit u.dmaRefused * 2 ^ 29 + bit u.notStaging * 2 ^ 28
  | 0x30 => u.result * 2 ^ 28 + u.kind * 2 ^ 24 + bit u.runtimeCh * 2 ^ 23 + bit u.programCh * 2 ^ 22 + u.code * 2 ^ 8 + u.section_
  | 0x34 => u.shadowEdges
  | 0x38 => u.comparedN * 2 ^ 16 + u.misses
  | 0x3C => u.switchTn
  | 0x40 => u.watch
  | 0x44 => u.remapInit * 2 ^ 16 + u.remapDrop
  | 0x48 => bit u.locked * 2 ^ 31 + bit (lockHonoured s) * 2 ^ 30 + u.lockSeq % 2 ^ 16
  | 0x4C => u.lockAddr
  | 0x50 => u.shadowN
  | 0x54 => u.watchM
  | _ => 0

/-- A write to a register of UPD by an initiator: a drawer, none the service initiator. -/
def writeUpd (owner : Option Nat) (off v : Nat) (s : State) : State :=
  match off with
  | 0x0C => updCommand v owner s
  | 0x18 => if v % 4 = 3 then s else modUpd (fun u => { u with part := v % 4 }) s
  | 0x1C => modUpd (fun u => { u with addr := v }) s
  | 0x20 => modUpd (fun u => { u with len := v }) s
  | 0x24 => modUpd (fun u => { u with offset := v }) s
  | 0x28 => xferData v s
  | 0x4C => modUpd (fun u => { u with lockAddr := v }) s
  | 0x50 => rwl .upd off (modUpd (fun u => { u with shadowN := v })) s
  | 0x54 => rwl .upd off (modUpd (fun u => { u with watchM := v })) s
  | _ => s

/-! ### HIE (R534 to R537) -/

/-- HIE_STATUS (R536). -/
def hieStatus (s : State) : Nat :=
  let h := s.hie
  statusReg .hie (h.parentLost || h.originMismatch)
    (bit h.parentLost * 2 ^ 23 + bit h.originMismatch * 2 ^ 22 + bit (h.admitted || h.role = 2) * 2 ^ 21 + bit h.dirFull * 2 ^ 20) s

/-- HIE_CHILDc. -/
def childReg (h : Hie) (c : Nat) : Nat :=
  match h.children[c]? with
  | some x => if c < 127 then 2 ^ 31 + bit x.lost * 2 ^ 30 + x.role % 4 * 2 ^ 28 + x.node % 2 ^ 14 else 0
  | none => 0

/-- A register of HIE. -/
def readHie (off : Nat) (s : State) : Nat :=
  let h := s.hie
  if 0x100 ≤ off && off < 0x2FC then childReg h ((off - 0x100) / 4)
  else
    match off with
    | 0x0C => h.role * 2 ^ 30 + h.level * 2 ^ 28 + h.vid * 2 ^ 16 + h.node
    | 0x10 => h.parent
    | 0x14 => (h.children.filter (·.lost)).length * 2 ^ 16 + h.children.length
    | 0x18 => h.dir.length
    | 0x1C => h.causes.length
    | 0x20 => h.onTime * 2 ^ 16 + h.late * 2 ^ 8 + h.ignored
    | 0x24 => h.causeLast
    | 0x28 => h.dups
    | 0x2C => h.retries
    | 0x30 => h.rejects
    | 0x34 => activeSources h.ingress
    | 0x38 => h.srcDrops
    | 0x3C => h.srcOverflow
    | 0x40 => h.tagSeq
    | _ => 0

/-! ### DBG (R554 to R557) -/

/-- DBG_STATUS (R555). -/
def dbgStatus (s : State) : Nat :=
  let d := s.dbg
  statusReg .dbg d.tokenRefused
    (bit s.key.allowed * 2 ^ 23 + bit s.key.debugUsed * 2 ^ 22 + bit d.bypassOk * 2 ^ 21 + bit d.stepBusy * 2 ^ 20 + bit d.freeze * 2 ^ 19 +
      bit d.tokenRefused * 2 ^ 18 + bit d.stepIgnored * 2 ^ 17 + (d.forces.filter (·.pt.testBit 31)).length) s

/-- DBG_COREc_STATE (R557). -/
def coreStateReg (s : State) (c : Nat) : Nat :=
  let x := dbgCore s c
  let st := if coreOut s c then 3 else if x.held then 2 else if (s.cores.getD c {}).powered then 1 else 0
  st * 2 ^ 28 + x.cause * 2 ^ 24 + x.index * 2 ^ 20 + ((s.cores.getD c {}).driving).getD 0x3F

/-- DBG_COREc_PC and the selected register of a core that runs: the spec does not give what a core holds between the
commands of this model, so that such a read is a free value (log entry 7). -/
def runsUnseen (s : State) (off : Nat) : Bool :=
  let c := (off - 0x100) / 0x80
  let r := off % 0x80
  0x100 ≤ off && off < 0x900 && coreStateReg s c / 2 ^ 28 = 1 && (r = 0x08 || r = 0x10 || r = 0x14)

/-- A register of a core under the probe. -/
def readDbgCore (s : State) (c off : Nat) : Nat :=
  let x := dbgCore s c
  if 0x20 ≤ off && off < 0x40 then x.bps.getD ((off - 0x20) / 4) 0
  else if 0x40 ≤ off && off < 0x60 then
    let w := x.wps.getD ((off - 0x40) / 8) (0, 0)
    if off % 8 = 0 then w.1 else w.2
  else
    match off with
    | 0x04 => coreStateReg s c
    | 0x08 => x.pc
    | 0x0C => x.rsel
    | 0x10 => tnum x.regs x.rsel % 2 ^ 32
    | 0x14 => tnum x.regs x.rsel / 2 ^ 32
    | _ => 0

/-- A register of DBG. -/
def readDbg (off : Nat) (s : State) : Nat :=
  if 0x40 ≤ off && off < 0x60 then f32 s.key.nonce (off - 0x40)
  else if 0x100 ≤ off && off < 0x900 then readDbgCore s ((off - 0x100) / 0x80) (off % 0x80)
  else if 0x1000 ≤ off && off < 0x1200 then
    let f := s.dbg.forces.getD ((off - 0x1000) / 16) {}
    match off % 16 with
    | 0 => f.pt
    | 4 => f.value % 2 ^ 32
    | 8 => f.value / 2 ^ 32
    | _ => 0
  else
    match off with
    | 0x14 => s.dbg.tag
    | 0x18 => s.dbg.steps
    | _ => 0

/-- A selected core register is written; a core that is not held keeps it (R554). -/
def writeCoreReg (c : Nat) (hi : Bool) (v : Nat) (s : State) : State :=
  if !coreHeld s c then s
  else modDbgCore c (fun x =>
    let old := tnum x.regs x.rsel
    let new := if hi then v * 2 ^ 32 + old % 2 ^ 32 else old / 2 ^ 32 * 2 ^ 32 + v
    { x with regs := if x.rsel < 96 then tset x.regs x.rsel new else x.regs }) s

/-- A write to DBG_COREc_CMD (R548, R554). Where a halted or stepped core then stands is open: free values (log
entry 7). -/
def coreCmd (c v : Nat) (s : State) : State :=
  match v % 4 with
  | 1 =>
    if s.sys.mode ≠ .debug || coreOut s c then s
    else if coreHeld s c then keepHold c s
    else holdFree c 1 s
  | 2 => coreRun c s
  | 3 =>
    if s.sys.mode ≠ .debug || !coreHeld s c then s else holdFree c 4 s
  | _ => s

/-- A write to a register of a core under the probe. -/
def writeDbgCore (c off v : Nat) (s : State) : State :=
  if 0x20 ≤ off && off < 0x40 then
    modDbgCore c (fun x => { x with bps := lmod x.bps ((off - 0x20) / 4) (fun _ => v / 4 * 4 + v % 2) }) s
  else if 0x40 ≤ off && off < 0x60 then
    modDbgCore c (fun x => { x with wps := lmod x.wps ((off - 0x40) / 8) (fun w =>
      if off % 8 = 0 then (v, w.2) else (w.1, v &&& 0x8000031F)) }) s
  else
    match off with
    | 0x00 => coreCmd c v s
    | 0x0C => modDbgCore c (fun x => { x with rsel := v % 128 }) s
    | 0x10 => writeCoreReg c false v s
    | 0x14 => writeCoreReg c true v s
    | _ => s

/-- A write to a register of DBG: the probe alone reaches them. -/
def writeDbg (off v : Nat) (s : State) : State :=
  let s := probeWrote s
  if 0x100 ≤ off && off < 0x900 then writeDbgCore ((off - 0x100) / 0x80) (off % 0x80) v s
  else if 0x1000 ≤ off && off < 0x1200 then (if off % 16 < 12 then forceWrite ((off - 0x1000) / 16) (off % 16 / 4) v s else s)
  else
    match off with
    | 0x0C => dbgRequest v s
    | 0x10 => tokenWrite v s
    | 0x14 => tagWrite v s
    | _ => s

end Sys2Proof.Machine
end

