-- ==== Sys2Proof/Machine/Regs.lean ====
section
/-! DEFINITION. Accesses in the service address space: which the isolation unit passes, what each reads and writes, and
the commands that make them (R14, R15, R26, R34, R36, R40, R43, R95, R539, R544). -/
namespace Sys2Proof.Machine

/-! ### Which accesses pass (R34, R36, R94, R95) -/

/-- The point bound to a channel belongs to the drawer (R250, R272). -/
def bindsTo (s : State) (kind chan d : Nat) : Bool := (boundTo s.drw.image kind chan).elim false (fun r => ptDrawer r = d)

/-- The owner of a per-ring, per-queue, address or steering register of a MAC, none of any other (R381). -/
def macRegOwner (s : State) (m off : Nat) : Option Nat :=
  if 0x400 ≤ off && off < 0x480 then some (ringOwnerByte s m ((off - 0x400) / 0x20))
  else if 0x600 ≤ off && off < 0x700 then some (queueOwnerByte s m ((off - 0x600) / 0x20))
  else if 0x100 ≤ off && off < 0x140 then (macFilter s m 2 ((off - 0x100) / 8)).map (fun r => f8 r 3)
  else if 0x180 ≤ off && off < 0x280 then (macFilter s m 3 ((off - 0x180) / 16)).map (fun r => f8 r 3)
  else none

/-- A register at offset 0x00C or above belongs to the drawer: its own task slots, channels, loop slots, stations,
rings, or the whole block where one drawer alone may hold the grant (R94, R95, R250, R272, R298, R324, R346, R381, R514,
R534); of JIG every register but JIG_CTRL and JIG_LATCH_CLR, for drawer 1 (R228). The caller's group registers need a
group slot of the stroke (R163). -/
def ownsReg (s : State) (d : Nat) (slot : Option Nat) (b : Block) (off : Nat) : Bool :=
  match b with
  | .stk => 0x100 ≤ off && off < 0x1100 && (taskRec s.drw.image ((off - 0x100) / 64)).elim false (fun r => tkDrawer r = d)
  | .dvt =>
    (off < 0x1C && slot.elim false (s.dvt.groups.contains ·)) ||
    (0x100 ≤ off && off < 0x500 && (taskRec s.drw.image ((off - 0x100) / 16)).elim false (fun r => tkDrawer r = d))
  | .jig => d = 1 && off ≠ 0x10
  | .dio => 0x100 ≤ off && off < 0x500 && (if chanOf off < 32 then bindsTo s 1 (chanOf off) d else bindsTo s 2 (chanOf off - 32) d)
  | .aio => 0x100 ≤ off && off < 0x200 && bindsTo s 3 (chanOf off) d
  | .lpe => 0x100 ≤ off && off < 0x100 + 1024 * 0x30 && (loopRec s.drw.image (loopOf off)).elim false (fun r => lpDrawer r = d)
  | .rio => 0x400 ≤ off && off < 0x1C00 && (stationRec s.drw.image (stationOf off)).elim false (fun r => f8 r 3 = d)
  | .can _ | .ptp | .rtc | .cvu _ | .upd | .hie => true
  | .mac m => macRegOwner s m off = some d
  | .sys | .wke | .evr | .key | .dbg | .drw => false

/-- The grant item that opens a block's registers to a drawer, none for a block that grants none (R36, R94). -/
def expertItem (b : Block) : Option Nat :=
  match b with
  | .stk => some 0 | .dvt => some 1 | .jig => some 3 | .dio => some 4 | .aio => some 5 | .lpe => some 6 | .rio => some 7
  | .can n => some (8 + n) | .mac n => some (12 + n) | .ptp => some 22 | .rtc => some 23 | .cvu n => some (25 + n)
  | .upd => some 31 | .hie => some 32
  | .sys | .wke | .evr | .key | .dbg | .drw => none

/-- An access of a drawer to a register passes. A write to an ST register needs an expert grant on DVT too (R95). -/
def drawerPasses (s : State) (d : Nat) (slot : Option Nat) (write : Bool) (b : Block) (off : Nat) : Bool :=
  (0x0C ≤ off || (b = .jig && off ≠ 4)) && (expertItem b).elim false (fun i => grant s.drw.image d i = 2) && ownsReg s d slot b off &&
    (!(write && isStaged b off) || grant s.drw.image d 1 = 2)

/-- The isolation unit passes an access to a register: `tag` is a drawer, none the service initiator, which reaches every
block but DBG (R34, R36, R554). -/
def regPasses (s : State) (tag slot : Option Nat) (write : Bool) (b : Block) (off : Nat) : Bool :=
  match tag with
  | none => b ≠ .dbg
  | some d => drawerPasses s d slot write b off

/-- An access to a listed address passes (R34): `slot` is the task slot a crew core carries; `core` says that a task's
window asks for its slot, of a crew core and of the probe with a drawer's tag; `fetch` is an instruction fetch, which reads
memory. No drawer owns the boot ROM. -/
def accessPasses (s : State) (tag slot : Option Nat) (core write fetch : Bool) (a : Nat) : Bool :=
  if isMemory a then memAllows s.drw.image tag slot core write a
  else if fetch then a < 0x40000 && tag.isNone
  else if 0x20000000 ≤ a then windowPasses s.drw.image tag slot.isSome write a
  else
    match blockAt a with
    | some b => regPasses s tag slot write b (a - blockBase b)
    | none => tag.isNone

/-- Block code of the target of an access, 0 for memory and windows (R107). -/
def targetOf (a : Nat) : Nat := (blockAt a).elim 0 (fun b => (blockCode b).1)

/-! ### Reads -/

/-- The block's own bits of `*_CTRL` above ENABLE (R43, R348, R383, R417, R420). -/
def ctrlBits (b : Block) (s : State) : Nat :=
  match b with
  | .can n => (canOf s n).opts * 2
  | .mac m => (macOf s m).opts * 8
  | .ptp => bit s.ptp.syncEvery * 2
  | .rtc => bit s.rtc.charge * 2
  | _ => 0

/-- `*_CTRL` (R43). -/
def ctrlReg (b : Block) (s : State) : Nat := ctrlBits b s + bit (s.enabled.contains b)

/-- STK_STATUS.FAULT reads 1 while a task is stopped or has LATE_SEEN (R137). -/
def stkFaulty (s : State) : Bool := s.stk.tasks.any (fun t => t.st = .stopped || t.lateSeen)

/-- `*_STATUS` of a block (R48). -/
def blockStatus (b : Block) (s : State) : Nat :=
  match b with
  | .sys => statusReg .sys (s.sys.replace ≠ 0) 0 s
  | .stk => stkStatus s ||| bit (stkFaulty s) * 2 ^ 29
  | .dvt => dvtStatus s | .wke => wkeStatus s | .jig => jigStatus s
  | .dio => statusReg .dio (dioFault s) (dioStatus s) s
  | .aio => aioStatusReg s | .lpe => lpeStatus s | .rio => rioStatus s | .can n => canStatus n s | .mac m => macStatus m s
  | .ptp => ptpStatus s | .rtc => rtcStatus s | .evr => evrStatus s | .cvu n => cvuStatus n s | .key => keyStatus s
  | .upd => updStatus s | .hie => hieStatus s | .dbg => dbgStatus s
  | .drw => statusReg .drw s.drw.fValid (recs s.drw.image 0x02).length s

/-- A register whose read changes nothing. -/
def readOwn (b : Block) (off : Nat) (s : State) : Nat :=
  match b with
  | .sys => readSys off s | .stk => readStk off s | .dvt => readDvt off s | .wke => readWke off s | .jig => readJig off s
  | .dio => readDio off s | .aio => readAio off s | .lpe => readLpe off s | .rio => readRio off s | .can n => readCan n off s
  | .mac m => readMac m off s | .ptp => readPtp off s | .rtc => readRtc off s | .evr => readEvr off s | .cvu n => readCvu n off s
  | .key => readKey off s | .upd => readUpd off s | .hie => readHie off s | .dbg => readDbg off s | .drw => readDrw off s

/-- A register of a CAN channel or MAC that is not declared reads 0, but for its ID (R346, R381). -/
def isAbsent (b : Block) (s : State) : Bool :=
  match b with
  | .can _ | .mac _ => !s.declared.contains b
  | _ => false

/-- DVT_GRP_STATE of the caller's group slot (R175). -/
def callerGroup (slot : Option Nat) (s : State) : Nat :=
  (slot.bind (fun n => s.dvt.groups.idxOf? n)).elim 0 (grpReg s)

/-- The bits that a register of JIG or RTC defines; none of an unassigned or a write-only one (R14, R15, R211, R217,
R228, R420). -/
def closedMask (b : Block) (off : Nat) : Nat :=
  if b = .jig then
    if off = 0x0C then 0xC0FFFFFF
    else if off = 0x14 || off = 0x18 || (0x20 ≤ off && off < 0x54) then 0xFFFFFFFF
    else if off = 0x54 then 0xFF
    else if 0x400 ≤ off && off < 0x1400 then (if off % 0x20 = 0 then 0xFFFF007F else 0xFFC0007F)
    else if 0x1400 ≤ off && off < 0x14A0 then 0x33
    else 0
  else
    match off with
    | 0x0C | 0x1C => 0x1FFFF
    | 0x10 | 0x20 => 0xFFFF0F1F
    | 0x14 => 0x7FFF
    | 0x18 => 0xFFFFFFFF
    | 0x28 => 0x80000003
    | 0x2C => 0xFFFF
    | _ =>
      if 0x100 ≤ off && off < 0x1E0 then
        (if off < 0x108 || off = 0x10C || 0x160 ≤ off then 0xFFFFFFFF else if off = 0x108 then 0x303 else if off = 0x110 then 0xFFFF else 0)
      else 0

/-- A read of a register, with what it latches, locks, draws or takes (R109, R175, R338, R351, R405, R417, R445, R486).
`by_` is the task slot and the core of the stroke copy that reads. While ENABLE of JIG or RTC is 0 its register
interface is off (R47, R420): what a read of a register of its own then answers the spec does not say, a free value in
the bits that the register defines (R14, R15; log entries 9 and 22). -/
def readReg (by_ : Option (Nat × Nat)) (b : Block) (off : Nat) (s : State) : Nat × State :=
  if off % 4 ≠ 0 then (0, s)
  else if off = 0 then (idReg b, s)
  else if isAbsent b s then (0, s)
  else if off = 4 then (ctrlReg b s, s)
  else if off = 8 then (blockStatus b s, s)
  else if (b = .jig && !jigOpen s) || (b = .rtc && !rtcOpen s) then
    (Config.freeValue s.fresh &&& closedMask b off, { s with fresh := s.fresh + 1 })
  else
    match b, off with
    | .stk, 0x0C => (s.stk.tn % 2 ^ 32, { s with stk := { s.stk with tnHi := s.stk.tn / 2 ^ 32 % 2 ^ 32 } })
    | .dvt, 0x18 => (callerGroup (by_.map (·.1)) s, s)
    | .dvt, 0x28 => (s.dvt.edgeTn, { s with dvt := { s.dvt with digestLatch := s.dvt.digest } })
    | .can n, 0x18 => (readCan n 0x18 s, modCan n (fun c => { c with lec := 7, dlec := 7 }) s)
    | .can n, 0x100 => (readCan n 0x100 s, queueLock n 0 by_ s)
    | .can n, 0x180 => (readCan n 0x180 s, queueLock n 1 by_ s)
    | .ptp, 0x0C =>
      let t := timeBase s
      (t % 2 ^ 32, modPtp (fun p => { p with timeHi := t / 2 ^ 32 }) { s with fresh := s.fresh + 1 })
    | .ptp, off =>
      if 0x100 ≤ off && off < 0x1A0 && off % 16 = 0 then tsqTake ((off - 0x100) / 16) s else (readPtp off s, s)
    | .rtc, 0x0C => latchTime (Config.freeValue s.fresh % 32768) { s with fresh := s.fresh + 1 }
    | .evr, 0x40 =>
      let s := modEvr (fun e => latchWindow e.select e) s
      ((s.evr.window.headD 0).toNat, s)
    | .key, 0x28 =>
      let r := draw s
      (r.1 % 2 ^ 32, r.2)
    | .dbg, off =>
      if runsUnseen s off then (Config.freeValue s.fresh % 2 ^ 32, { s with fresh := s.fresh + 1 }) else (readDbg off s, s)
    | b, off => (readOwn b off s, s)

/-- A word read at an address that passes, in the stroke `by_` of a task slot or outside one. What the boot ROM holds the
manual does not say (log entry 7). -/
def readBy (by_ : Option (Nat × Stroke × Copy)) (a : Nat) (s : State) : Nat × State :=
  match blockAt a with
  | some b => readReg (by_.map (fun x => (x.1, x.2.2.core))) b (a - blockBase b) s
  | none =>
    if isMemory a then (leNat (memBytes s a 4), s)
    else if 0x20000000 ≤ a then (readWindow s (by_.map (·.2)) a, s)
    else (Config.freeValue s.fresh % 2 ^ 32, { s with fresh := s.fresh + 1 })

/-- A word read outside a stroke at an address that passes. -/
def readAt (a : Nat) (s : State) : Nat × State := readBy none a s

/-- A word that a crew core reads at an address that passes (R26). What a drive has itself stored in its read-write windows
reaches the model when its entry returns (log entry 2). -/
def coreRead (c a : Nat) (s : State) : Nat × State := readBy (drivenBy s c) a s

/-! ### Writes -/

/-- The RWL bits of `*_CTRL` above ENABLE (R348, R383, R417, R420). -/
def setCtrlBits (b : Block) (v : Nat) (s : State) : State :=
  match b with
  | .can n => modCan n (fun c => { c with opts := fld v 1 7 }) s
  | .mac m => modMac m (fun x => { x with opts := fld v 3 5 }) s
  | .ptp => modPtp (fun p => { p with syncEvery := v.testBit 1 }) s
  | _ => s

/-- A write to `*_CTRL`; one to DBG_CTRL changes nothing (R43, R554). -/
def writeCtrl (b : Block) (v : Nat) (s : State) : State :=
  if s.sys.mode = .rigging && !isAbsent b s then writeEnable b v (setCtrlBits b v s)
  else writeEnable b v s

/-- RWL registers of a CAN channel or MAC above `*_CTRL` (R347, R382). -/
def isRwl (b : Block) (off : Nat) : Bool :=
  match b with
  | .can _ => off = 0x0C || off = 0x10 || off = 0x14
  | .mac _ => off = 0x0C || off = 0x10
  | _ => false

/-- A write to a register of a block that passes, ST registers and the caller's group apart: `owner` is the drawer of
the access, none the service initiator. -/
def writeReg (owner : Option Nat) (b : Block) (off v : Nat) (s : State) : State :=
  if off % 4 ≠ 0 || off = 0 || off = 8 then s
  else if off = 4 then writeCtrl b v s
  else if isAbsent b s then (if isRwl b off then rwl b off id s else s)
  else
    match b with
    | .sys => writeSys off v s | .stk => writeStk off v s | .dvt => writeDvt off v s | .wke => writeWke off v s
    | .jig => writeJig off v s | .dio => writeDio off v s | .aio => writeAio off v s | .lpe => writeLpe off v s
    | .rio => writeRio off v s | .can n => writeCan n off v s | .mac m => writeMac m off v s | .ptp => writePtp off v s
    | .rtc => writeRtc off v s | .evr => writeEvr off v s | .cvu n => writeCvu n off v s | .key => writeKey off v s
    | .upd => writeUpd owner off v s | .hie => s | .dbg => writeDbg off v s | .drw => writeDrw off v s

/-- An ST register written outside any stroke's group (R15, R167): the service initiator's write takes effect at once in
RIGGING; every other one is rejected with a fault of kind ST_NO_GROUP. No slot wrote it: SLOT is a free value (log
entry 7). -/
def stageOutside (tag : Option Nat) (addr v : Nat) (s : State) : State :=
  if tag.isNone && s.sys.mode = .rigging then settleOutputs (applyStaged addr v s)
  else
    let slot := Config.freeValue s.fresh % 64
    let d := s.dvt
    let d := if d.fValid then d else
      { d with fValid := true, fKind := 2, fSlot := slot, fDetail := addr % 2 ^ 16, fAddr := addr }
    raise {
      code := dvtCode 2, block := 0x03, unit := slot, drawer := tag.getD 0,
      detail := slot * 2 ^ 24 + 2 * 2 ^ 20 + addr % 2 ^ 16 }
      { s with fresh := s.fresh + 1, dvt := { d with fCount := sat 32 d.fCount 1 } }

/-- A write outside a stroke at an address that passes; the boot ROM and the windows take none (R22, R26). -/
def writeAt (tag : Option Nat) (a v : Nat) (s : State) : State :=
  match blockAt a with
  | some b =>
    if isStaged b (a - blockBase b) then stageOutside tag a v s else writeReg tag b (a - blockBase b) v s
  | none => if isMemory a then putBytes a (leBytes 4 v) s else s

/-- A write of the stroke a core drives to a register (R34, R164, R165). -/
def coreWrite (c a v : Nat) (s : State) : State :=
  match drivenBy s c, blockAt a with
  | some (n, _, _), some b =>
    let off := a - blockBase b
    let d := taskDrawer s n
    if !drawerPasses s d (some n) true b off then coreRefused c 1 (blockCode b).1 a s
    else if isStaged b off then stageWrite c a v s
    else if b = .dvt && off = 0x0C then grpOpen c v s
    else if b = .dvt && off = 0x10 then grpCommit c v s
    else if b = .dvt && off = 0x14 then grpAbort c v s
    else writeReg (some d) b off v s
  | _, _ => s

/-- A word stored in the tag area at once: by the service initiator, or by drawer 0's stroke with an expert HIE grant
(R532). -/
def tagStore (by_ : Option (Fin 16)) (a v : Nat) (s : State) : State :=
  match by_ with
  | some c =>
    match drivenBy s c.val with
    | some (n, _, _) =>
      if memAllows s.drw.image (some (taskDrawer s n)) (some n) true true a then putBytes a (leBytes 4 v) s
      else coreRefused c.val 1 0 a s
    | none => s
  | none => putBytes a (leBytes 4 v) s

/-- A write to a register by a crew core's stroke, or by the service initiator, which does not reach DBG (R554); in the
tag area a store (R532). -/
def registerWrite (by_ : Option (Fin 16)) (a v : Nat) (s : State) : State :=
  if inTagArea a then (if a % 4 = 0 then tagStore by_ a v s else s)
  else match by_ with
  | some c => coreWrite c.val a v s
  | none =>
    match blockAt a with
    | some .dbg => noteRefused 1 0x20 0x13 a 0 s
    | some _ => writeAt none a v s
    | none => s

/-- `REGISTER_WRITE`: a write to a register that has no row of its own takes effect as its access code permits (R15). -/
def execRegisterWrite (by_ : Option (Fin 16)) (addr v : BitVec 32) (s : State) : Host.Outcome State Fault Refusal :=
  .next (registerWrite by_ addr.toNat v.toNat s)

/-- `STAGED_WRITE`: a write to an ST register; an address of another kind is none (R164, R167). -/
def execStagedWrite (by_ : Option (Fin 16)) (addr v : BitVec 32) (s : State) : Host.Outcome State Fault Refusal :=
  match blockAt addr.toNat with
  | some b => if isStaged b (addr.toNat - blockBase b) then .next (registerWrite by_ addr.toNat v.toNat s) else .next s
  | none => .next s

/-! ### Refused accesses (R34, R40) -/

/-- The drawer and the task slot an initiator carries. -/
def carried (s : State) (i : Initiator) : Option Nat × Option Nat :=
  match i with
  | .core c => (some (coreTag s c.val), (s.cores.getD c.val {}).driving)
  | .dma o => (o.map (·.val), none)
  | .service => (none, none)

/-- The initiator is a crew core. -/
def byCore (i : Initiator) : Bool :=
  match i with
  | .core _ => true
  | .dma _ | .service => false

/-- `ACCESS_REFUSED`: an access that the isolation unit does not pass; `kind` 0 read, 1 write, 2 instruction fetch
(R34, R107). An access that passes is not one. -/
def execAccessRefused (by_ : Initiator) (kind : Fin 3) (addr : BitVec 32) (s : State) : Host.Outcome State Fault Refusal :=
  let a := addr.toNat
  let t := carried s by_
  if !listed a || accessPasses s t.1 t.2 (byCore by_) (kind.val = 1) (kind.val = 2) a then .next s
  else
    match by_ with
    | .core c => .next { coreRefused c.val kind.val (targetOf a) a s with answer := .refused }
    | .dma o => .next { noteRefused 3 (o.elim 0x20 (·.val)) (targetOf a) a (o.elim 0 (·.val)) s with answer := .refused }
    | .service => .next { noteRefused kind.val 0x20 (targetOf a) a 0 s with answer := .refused }

/-- `ACCESS_OUT_OF_RANGE`: an access outside every listed range gets a bus error; a read returns 0 (R40). -/
def execAccessOutOfRange (by_ : Initiator) (write : Bool) (addr : BitVec 32) (s : State) :
    Host.Outcome State Fault Refusal :=
  let a := addr.toNat
  if listed a then .next s
  else
    let s := noteOutOfRange ((carried s by_).1.getD 0) a s
    let s := match by_ with
      | .core c => accessFault c.val s
      | _ => s
    .next { s with answer := if write then .refused else .value 0 }

/-! ### The probe's accesses (R539, R544) -/

/-- DBG registers that SVCACC reaches while debug is not allowed. -/
def dbgAlways (write : Bool) (off v : Nat) : Bool :=
  off = 0x00 || off = 0x08 || (0x40 ≤ off && off < 0x60) || off = 0x10 || (off = 0x0C && (!write || v % 16 = 1 || v % 16 = 2))

/-- UPD registers that SVCACC reaches while the load has failed (R101). -/
def updAlways (off : Nat) : Bool := 0x08 ≤ off && off < 0x34

/-- SVCACC reaches the address (R539). -/
def svcReaches (s : State) (write : Bool) (a v : Nat) : Bool :=
  s.key.debugUsed ||
  match blockAt a with
  | some .dbg => s.key.allowed || dbgAlways write (a - blockBase .dbg) v
  | some .upd => s.drw.load = 3 && updAlways (a - blockBase .upd)
  | _ => false

/-- The drawer of DBG_TAG, none for the service initiator; with BYPASS the access passes as the service initiator's. -/
def svcTag (d : Dbg) : Option Nat := if d.tag.testBit 7 || d.tag % 64 = 0x20 then none else some (d.tag % 64)

/-- The first access with BYPASS in a boot (R544). -/
def noteBypass (a : Nat) (s : State) : State :=
  if !s.dbg.tag.testBit 7 || s.key.bypassSeen then s
  else dbgEvent 0xF014 a (modKey (fun k => { k with bypassSeen := true }) s)

/-- The access of the probe passes: BYPASS, a DBG register, or as any access with its tag (R544, R554). -/
def svcPasses (s : State) (write : Bool) (a : Nat) : Bool :=
  s.dbg.tag.testBit 7 || blockAt a = some .dbg || accessPasses s (svcTag s.dbg) none true write false a

/-- How an SVCACC access ends: STATUS and DATA, with SVCACC in the instruction register (R538). -/
def svcEnd (status data : Nat) (s : State) : State := {
  modDbg (fun d => { d with ir := 8, svcStatus := status, svcData := data }) s with
  answer := if status = 0 then .value data else .refused }

/-- `SVCACC`: an access of the probe at Update-DR; none unpowered and in reset (R561). -/
def execSvcacc (write : Bool) (addr v : BitVec 32) (s : State) : Host.Outcome State Fault Refusal :=
  let a := addr.toNat
  let t := s
  let s := if write then probeWrote s else s
  if !driving t then .next { t with answer := .none }
  else if !svcReaches s write a v.toNat then
    let s := if write && a = 0x1012000C then dbgRequest v.toNat s else s
    .next (svcEnd 3 0 s)
  else if !listed a then .next (svcEnd 2 0 (noteOutOfRange ((svcTag s.dbg).getD 0) a s))
  else if !svcPasses s write a then
    .next (svcEnd 2 0 (noteRefused (bit write) (s.dbg.tag % 64) (targetOf a) a ((svcTag s.dbg).getD 0) s))
  else
    let s := noteBypass a s
    if write then .next (svcEnd 0 v.toNat (writeAt (svcTag s.dbg) a v.toNat s))
    else
      let r := readAt a s
      .next (svcEnd 0 r.1 r.2)

/-! ### The tag area (R532) -/

/-- `TAG_WRITE`: drawer 0 writes bytes of the tag area through a basic HIE grant; what would pass its end is refused. -/
def execTagWrite (core : Fin 16) (offset : Nat) (data : List Byte) (s : State) : Host.Outcome State Fault Refusal :=
  let a := 0x43FFFE00 + offset
  .next (service core.val 32 0x12 a (fun s =>
    if coreTag s core.val ≠ 0 then { coreRefused core.val 1 0 a s with answer := .refused }
    else if offset + data.length > 512 || data.isEmpty then { s with answer := .refused }
    else { putBytes a data s with answer := .none }) s)

end Sys2Proof.Machine
end

