-- ==== Sys2Proof/Machine/Hie.lean ====
section
/-! DEFINITION. Manager, zone managers and workers: receiving Marzin messages, the tree, the directory, causes (R520 to
R533). How bodies other than EVENT_FWD and CAUSE are laid out, and the codes of an ACK's status, the manual leaves open
(log entry 18). -/
namespace Sys2Proof.Machine

/-! ### HIERARCHY records (R520) -/

/-- Records of a form. -/
def hieForms (img : List Section) (form : Nat) : List Rec := ((recs img 0x0F).drop 1).filter (fun r => f8 r 0 = form)

/-- The point of a cause number. -/
def causePoint (img : List Section) (c : Nat) : Option Nat := ((hieForms img 3).find? (fun r => f16 r 2 = c)).map (f16 · 4)

/-- The declared points a publish record names. -/
def publishes (img : List Section) (r : Rec) : List PubEntry :=
  ((points img).filter (fun p => f16 r 2 ≤ ptIndex p && ptIndex p < f16 r 2 + f16 r 4)).map (fun p => {
    point := ptIndex p, tenant := tenantOf img (ptDrawer p), typ := ptType p, pub := (f8 r 1).testBit 0 })

/-- The entries this module publishes (R527); a point that two records name keeps the first one's. -/
def ownEntries (img : List Section) : List PubEntry :=
  ((hieForms img 4).flatMap (publishes img)).foldl (fun l e => if l.any (·.point = e.point) then l else l ++ [e]) []

/-! ### Sending -/

/-- The identity and state that an ALIGN carries (R524). -/
def ownAlign (k : AlignKind) (s : State) : MarzinBody :=
  .align { kind := k, role := s.hie.role, identity := identity s.key, origin := s.ptp.origin, tick := tickCode s.ptp.st }

/-- A message of this module's own to a child. -/
def ownDown (child : Nat) (ackReq : Bool) (body : MarzinBody) (s : State) : State :=
  hieSend child (ownMsg 0xFF ackReq child body s) { s with fresh := s.fresh + 2 }

/-- A message of this module's own toward its parent, before admission too. -/
def toParent (ackReq : Bool) (body : MarzinBody) (s : State) : State :=
  sendUp (ownMsg 0xFF ackReq s.hie.parent body s) { s with fresh := s.fresh + 2 }

/-- The sender is the parent. -/
def isParent (s : State) (n : Nat) : Bool := (s.hie.role = 1 || s.hie.role = 3) && n = s.hie.parent

/-- The sender is an admitted child. -/
def isChild (s : State) (n : Nat) : Bool := (s.hie.role = 2 || s.hie.role = 3) && s.hie.children.any (·.node = n)

/-- An ACK of the same class (R525). -/
def sendAck (peer cls seq status : Nat) (s : State) : State :=
  let s := modHie (fun h =>
    { h with peers := tset h.peers peer { (tget h.peers peer).getD {} with acked := some (cls, seq, status) } }) s
  if isParent s peer then toParent false (.ack cls seq status) s else ownDown peer false (.ack cls seq status) s

/-- The child through which a node is reached. -/
def childFor (s : State) (dest : Nat) : Option Nat :=
  if isChild s dest then some dest else (tget s.hie.routes dest).filter (isChild s)

/-- A message goes down toward a node, to nobody when no child leads to it. -/
def routeDown (dest : Nat) (m : Marzin) (s : State) : State := (childFor s dest).elim s (fun c => hieSend c m s)

/-! ### Receiving (R523, R525) -/

/-- The message of a header and a body. -/
def asMarzin (h : MarzinHead) (body : MarzinBody) : Marzin := {
  ackReq := h.ackReq, weight := h.weight, origin := h.origin, drawer := h.drawer, dest := h.dest, via := h.sender, len := h.len,
  body := body, raw := h.raw }

/-- The SEQ lies ahead of the last one accepted by 1 to 2³¹ − 1; in a new session none has been accepted (R525). -/
def seqAhead (last : Option Nat) (seq : Nat) : Bool :=
  match last with
  | none => true
  | some l => let d := (seq + (2 ^ 32 - l % 2 ^ 32)) % 2 ^ 32; 1 ≤ d && d < 2 ^ 31

/-- The link's session is over: the SEQ window restarts with the next one (R525, log entry 18). -/
def endSession (peer : Nat) (s : State) : State :=
  modHie (fun h => { h with peers := tset h.peers peer { (tget h.peers peer).getD {} with rx := none } }) s

/-- A first copy is accepted: the SEQ window moves, and the origin is known behind the child it came from. -/
def noteAccepted (h : MarzinHead) (s : State) : State :=
  let child := isChild s h.sender
  modHie (fun x => { x with
    peers := tset x.peers h.sender { (tget x.peers h.sender).getD {} with rx := some h.seq, addr := h.addr },
    accepted := x.accepted + 1, routes := if child then tset x.routes h.origin h.sender else x.routes }) s

/-- Receives a message: one that fails its TAG, MAGIC or VERSION, or from a module without a session, is rejected; a
copy is discarded and acknowledged again; the first copy is handled, with the status its ACK carries. `session` marks a
message that a module without a session may send: a join, or its answer. -/
def receive (h : MarzinHead) (session : Bool) (cls : Nat) (handle : State → Nat × State) (s : State) : State :=
  if s.hie.role = 0 || !s.enabled.contains .hie then s
  else if !h.valid || !(session || isParent s h.sender || isChild s h.sender) then
    modHie (fun x => { x with rejects := sat 32 x.rejects 1 }) s
  else if seqAhead ((tget s.hie.peers h.sender).getD {}).rx h.seq then
    let r := handle (noteAccepted h s)
    if h.ackReq then sendAck h.sender cls h.seq r.1 r.2 else r.2
  else
    let s := modHie (fun x => { x with dups := sat 32 x.dups 1 }) s
    if !h.ackReq then s
    else
      match ((tget s.hie.peers h.sender).getD {}).acked with
      | some (c, q, st) =>
        if c = cls && q = h.seq then sendAck h.sender cls h.seq st s
        else sendAck h.sender cls h.seq (Config.freeValue s.fresh) { s with fresh := s.fresh + 1 }
      | none => sendAck h.sender cls h.seq (Config.freeValue s.fresh) { s with fresh := s.fresh + 1 }

/-- A message for a MANAGER or ZONE_MANAGER enters the ingress arbiter (R531). -/
def intoIngress (m : Marzin) (s : State) : State :=
  let r := arbPush s.hie.ingress m
  noteArb m r.2.1 r.2.2 (modHie (fun h => { h with ingress := r.1 }) s)

/-- A message from above: for this module, for every child of it, or for a node behind one of them (R523, R524). -/
def fromAbove (m : Marzin) (own : State → State) (s : State) : State :=
  if m.dest = s.hie.node then own s
  else if m.dest = 0xFFFF then s.hie.children.foldl (fun (s : State) c => hieSend c.node m s) s
  else routeDown m.dest m s

/-- The head is that of a message of this module's own service initiator, which a MANAGER or ZONE_MANAGER sends down (log
entry 18). -/
def fromSelf (s : State) (h : MarzinHead) : Bool :=
  (s.hie.role = 2 || s.hie.role = 3) && s.enabled.contains .hie && h.sender = s.hie.node

/-- A message of this module's own toward a module below it, or to every child (R523, R524). -/
def originate (dest : Nat) (body : MarzinBody) (s : State) : State :=
  let m := ownMsg 0xFF true dest body s
  let s := { s with fresh := s.fresh + 2 }
  if dest = 0xFFFF then s.hie.children.foldl (fun (s : State) c => hieSend c.node m s) s else routeDown dest m s

/-- A message of a class that goes both ways: into the ingress arbiter of a MANAGER or ZONE_MANAGER; a WORKER takes it at
once (R524, R531). -/
def bothWays (h : MarzinHead) (body : MarzinBody) (own : State → State) (s : State) : State :=
  if fromSelf s h then originate h.dest body s
  else
    receive h false (classOf body) (fun s =>
      if s.hie.role = 1 then (0, fromAbove (asMarzin h body) own s) else (0, intoIngress (asMarzin h body) s)) s

/-- A message of a class that only goes up. -/
def upOnly (h : MarzinHead) (body : MarzinBody) (s : State) : State :=
  receive h false (classOf body) (fun s => (0, if isChild s h.sender then intoIngress (asMarzin h body) s else s)) s

/-! ### The tree (R522, R526) -/

/-- Why a join is refused, 0 not: TREE, DUPLICATE, ATTEST (R522, R523, R533). -/
def joinReason (s : State) (node role : Nat) (ident : List Byte) (attested : Bool) : Nat :=
  let roleOk := (s.hie.role = 2 && (role = 1 || role = 3)) || (s.hie.role = 3 && role = 1)
  if !roleOk || (s.hie.children.filter (·.node ≠ node)).length ≥ 127 then 1
  else if s.hie.children.any (fun c => c.node = node && c.identity ≠ ident) then 2
  else if !attested then 3
  else 0

/-- An event of the HIE block (R533). -/
def hieEvent (code detail : Nat) (s : State) : State := raise { code := code, block := 0x12, detail := detail } s

/-- A session key is agreed with a peer (R523). -/
def agreeKey (peer : Nat) (s : State) : State :=
  let k := Config.sessionKey peer s.fresh
  { s with fresh := s.fresh + 1, key := { s.key with
    tamper := { s.key.tamper with sessions := tset s.key.tamper.sessions peer k } } }

/-- A child is admitted: a new entry, or its own again. -/
def admitChild (node role : Nat) (ident : List Byte) (s : State) : State :=
  let c : Child := { node := node, role := role, identity := ident }
  let s := modHie (fun h => { h with
    children := if h.children.any (·.node = node) then h.children.map (fun x => if x.node = node then c else x) else h.children ++ [c],
    routes := tset h.routes node node }) s
  ownDown node false (ownAlign (.admission (if s.hie.role = 2 then 2 else 3)) s)
    (hieEvent 0xF001 (role % 4 * 2 ^ 16 + node) (agreeKey node s))

/-- A join reaches a parent. -/
def joinChild (node : Nat) (a : AlignMsg) (attested : Bool) (s : State) : State :=
  let r := joinReason s node a.role a.identity attested
  if r = 0 then admitChild node a.role a.identity s
  else ownDown node false (ownAlign (.refuse r) s) (hieEvent 0xF002 (r * 2 ^ 16 + node) s)

/-- An ALIGN of the parent: the parent is regained, and its ORIGIN is compared (R526). -/
def hearParent (origin : Nat) (s : State) : State :=
  let s := if s.hie.parentLost then hieEvent 0xF004 s.hie.parent (modHie (fun h => { h with parentLost := false }) s) else s
  let differs := origin ≠ s.ptp.origin
  let s := if differs && !s.hie.originMismatch then hieEvent 0xF00B 0 s else s
  modHie (fun h => { h with originMismatch := differs }) s

/-- This module is admitted: it publishes its entries (R522, R527). -/
def joined (level origin : Nat) (s : State) : State :=
  let s := hearParent origin (agreeKey s.hie.parent s)
  let s := modHie (fun h => { h with admitted := true, level := level }) s
  ownUp 0xFF true (.directory (.publish (ownEntries s.drw.image))) s

/-- An ALIGN handled. -/
def handleAlign (h : MarzinHead) (a : AlignMsg) (s : State) : State :=
  match a.kind with
  | .join ok => joinChild h.sender a ok s
  | .admission l => if isParent s h.sender then joined l a.origin s else s
  | .refuse _ => s
  | .beat =>
    if isParent s h.sender then toParent false (ownAlign .beat s) (hearParent a.origin s)
    else modHie (fun x => { x with children := x.children.map (fun c => if c.node = h.sender then { c with lost := false } else c) }) s

/-- The ALIGN starts a session: a join, or the parent's answer to one. -/
def startsSession (s : State) (h : MarzinHead) (k : AlignKind) : Bool :=
  match k with
  | .join _ => !isParent s h.sender
  | .admission _ | .refuse _ => isParent s h.sender
  | .beat => false

/-- `MARZIN_ALIGN`. -/
def execMarzinAlign (h : MarzinHead) (a : AlignMsg) (s : State) : Host.Outcome State Fault Refusal :=
  .next (receive h (startsSession s h a.kind) 1 (fun s => (0, handleAlign h a s)) s)

/-- `ALIGN_HEARTBEAT`: every 1 s a parent sends ALIGN to each admitted child (R526). -/
def execAlignHeartbeat (s : State) : Host.Outcome State Fault Refusal :=
  if s.enabled.contains .hie then
    .next (s.hie.children.foldl (fun (s : State) c => ownDown c.node false (ownAlign .beat s) s) s)
  else .next s

/-- `PARENT_LOST`: no ALIGN for 3 s (R526). -/
def execParentLost (s : State) : Host.Outcome State Fault Refusal :=
  if (s.hie.role = 1 || s.hie.role = 3) && s.hie.admitted && !s.hie.parentLost then
    .next (endSession s.hie.parent
      (hieEvent 0xF003 s.hie.parent (modHie (fun h => { h with parentLost := true, admitted := false, level := 0 }) s)))
  else .next s

/-- `CHILD_LOST`: no answer for 3 s (R526). -/
def execChildLost (node : Nat) (s : State) : Host.Outcome State Fault Refusal :=
  if s.hie.children.any (fun c => c.node = node && !c.lost) then
    .next (endSession node (hieEvent 0xF005 node (modHie (fun h =>
      { h with children := h.children.map (fun c => if c.node = node then { c with lost := true } else c) }) s)))
  else .next s

/-- `REJOIN`: a module that is not admitted joins every 10 s (R522, R526). -/
def execRejoin (s : State) : Host.Outcome State Fault Refusal :=
  if (s.hie.role = 1 || s.hie.role = 3) && !s.hie.admitted && s.enabled.contains .hie then
    .next (toParent true (ownAlign (.join true) s) (endSession s.hie.parent s))
  else .next s

/-! ### The directory (R527, R528) -/

/-- A publication replaces a node's entries, or is refused whole for lack of room. -/
def publishDir (node : Nat) (l : List PubEntry) (s : State) : State :=
  let others := s.hie.dir.filter (·.node ≠ node)
  if others.length + l.length > 262144 then
    hieEvent 0xF002 (4 * 2 ^ 16 + node) (modHie (fun h => { h with dirFull := true }) s)
  else
    modHie (fun h => { h with dir := others ++ l.map (fun e => {
      node := node, point := e.point, tenant := e.tenant, typ := e.typ, pub := e.pub }) }) s

/-- A requester may see an entry: its own tenant's, or a public one of tenant 0x0000 (R528). -/
def maySee (tenant t : Nat) (pub : Bool) : Bool := t = tenant || (t = 0 && pub)

/-- The answer of the owning module: the 16-byte entry of its latest version, or NOT_FOUND. -/
def ownAnswer (s : State) (tenant : Nat) (service : Bool) (point : Nat) : Option (List Byte) :=
  let seen := (ownEntries s.drw.image).any (fun e => e.point = point && maySee tenant e.tenant e.pub)
  if seen || (service && (pointRec s.drw.image point).isSome) then some (entryBytes ((tget s.dvt.latest point).getD {})) else none

/-- A DIR_READ of this module ends. -/
def endWait (target point : Nat) (e : Option (List Byte)) (s : State) : State :=
  let i := s.hie.waits.findIdx (fun w => w.node = target && w.point = point)
  if i < s.hie.waits.length then
    { modHie (fun h => { h with waits := h.waits.eraseIdx i }) s with answer := e.elim .refused .bytes }
  else s

/-- An answer of the manager's reaches the requester. -/
def answerTo (node target point : Nat) (e : Option (List Byte)) (s : State) : State :=
  if node = s.hie.node then endWait target point e s
  else (childFor s node).elim s (fun c =>
    hieSend c (ownMsg 0xFF true node (.directory (.value node target point e)) s) { s with fresh := s.fresh + 2 })

/-- The manager decides on a request: it goes down to the owning module, or is answered (R528). -/
def decideRead (node tenant : Nat) (service : Bool) (target point : Nat) (m : Marzin) (s : State) : State :=
  let seen := s.hie.dir.any (fun e => e.node = target && e.point = point && maySee tenant e.tenant e.pub)
  if !(seen || service) then answerTo node target point none s
  else if target = s.hie.node then answerTo node target point (ownAnswer s tenant service point) s
  else if (childFor s target).isNone then answerTo node target point none s
  else routeDown target { m with dest := target } s

/-- A DIRECTORY message for this module from above. -/
def directoryDown (d : DirMsg) (s : State) : State :=
  match d with
  | .publish _ => s
  | .request node tenant sv target point =>
    ownUp 0xFF true (.directory (.value node target point (ownAnswer s tenant sv point))) s
  | .value _ target point e => endWait target point e s

/-- `MARZIN_DIRECTORY`. -/
def execMarzinDirectory (h : MarzinHead) (d : DirMsg) (s : State) : Host.Outcome State Fault Refusal :=
  .next (bothWays h (.directory d) (directoryDown d) s)

/-- A request of drawer `d` for a point of another module goes to the manager; a module without a way up answers
NOT_FOUND. -/
def askTree (c d node point : Nat) (s : State) : State :=
  let t := tenantOf s.drw.image d
  let w : DirWait := { core := c, slot := ((s.cores.getD c {}).driving).getD 0, node := node, point := point }
  let m := ownMsg d true node (.directory (.request s.hie.node t false node point)) s
  let s : State := { modHie (fun h => { h with waits := h.waits ++ [w] }) s with answer := .none, fresh := s.fresh + 2 }
  if s.hie.role = 2 then decideRead s.hie.node t false node point m s
  else if hasParent s then sendUp { m with dest := s.hie.parent } s
  else endWait node point none s

/-- `DIR_READ`: a drawer reads a point of another module (R528); NOT_FOUND is `.refused`. -/
def execDirRead (core : Fin 16) (node point : Nat) (s : State) : Host.Outcome State Fault Refusal :=
  .next (service core.val 32 0x12 0x10110000 (fun (s : State) =>
    let d := coreTag s core.val
    if s.hie.role = 0 then { s with answer := .refused }
    else if node = s.hie.node then
      { s with answer := (ownAnswer s (tenantOf s.drw.image d) false point).elim .refused .bytes }
    else askTree core.val d node point s) s)

/-! ### Events, attestation, orchestration, notices (R524, R479) -/

/-- `MARZIN_EVENT_FWD`. -/
def execMarzinEventFwd (h : MarzinHead) (rec_ : List Byte) (recno : Nat) (s : State) : Host.Outcome State Fault Refusal :=
  .next (upOnly h (.event rec_ recno) s)

/-- `MARZIN_NOTICE`. -/
def execMarzinNotice (h : MarzinHead) (kind value : Nat) (s : State) : Host.Outcome State Fault Refusal :=
  .next (upOnly h (.notice kind value) s)

/-- A nonce for this module: the key core is asked for a statement, which goes up when it is signed (R479). -/
def askStatement (nonce : List Byte) (peer : Nat) (s : State) : State :=
  (enqueue { op := .statement nonce, stmt := statementOf nonce s, peer := some peer } s).2

/-- `MARZIN_ATTEST`. -/
def execMarzinAttest (h : MarzinHead) (a : AttestMsg) (s : State) : Host.Outcome State Fault Refusal :=
  .next (bothWays h (.attest a) (fun s => match a with | .nonce n => askStatement n h.sender s | .statement _ => s) s)

/-- A command of UPDATE_ORCH for this module: a write to UPD, SYS_MODE_REQ or the key mailbox by the service initiator;
its status goes up, whose content is open (R524, log entry 18). -/
def orchestrate (o : OrchMsg) (s : State) : State :=
  match o with
  | .status _ => s
  | .write a v =>
    let s := if blockAt a = some .upd || a = 0x10000010 || a = 0x100F0014 || a = 0x100F0018 then writeAt none a v s else s
    ownUp 0xFF true (.orch (.status (Config.freeValue s.fresh))) { s with fresh := s.fresh + 1 }

/-- `MARZIN_UPDATE_ORCH`. -/
def execMarzinUpdateOrch (h : MarzinHead) (o : OrchMsg) (s : State) : Host.Outcome State Fault Refusal :=
  .next (bothWays h (.orch o) (orchestrate o) s)

/-! ### Causes (R529, R530) -/

/-- Why a CAUSE is refused: 0 not, else the code of 0xF008. -/
def causeReason (s : State) (applyTn n : Nat) : Nat :=
  let locked := s.ptp.st = .locked || s.ptp.st = .holdover
  if s.sys.mode = .rigging || s.drw.image.isEmpty then 4
  else if s.hie.originMismatch then 2
  else if locked && applyTn > s.stk.tn + 240000 then 1
  else if s.hie.causes.length + n > 64 then 3
  else 0

/-- 0 on time, 1 LATE, 2 FREE (R529): a CAUSE is on time when the first edge after its acceptance, edge count `due`, has
no TN beyond APPLY_TN; acceptance at an edge is after it (R530). -/
def causeKind (s : State) (due applyTn : Nat) : Nat :=
  if s.ptp.st = .locked || s.ptp.st = .holdover then (if s.stk.tn + due ≤ applyTn + s.stk.edges then 0 else 1) else 2

/-- A CAUSE handled, with the status of its ACK; `stamp` is the acceptance instant. -/
def acceptCause (applyTn stamp : Nat) (entries : List (Nat × BitVec 64)) (s : State) : Nat × State :=
  let known := entries.filter (fun e => (causePoint s.drw.image e.1).isSome)
  let r := causeReason s applyTn known.length
  if r ≠ 0 then (2 + r, hieEvent 0xF008 r s)
  else
    let due := stampEdge s stamp
    let k := causeKind s due applyTn
    (k, modHie (fun h => { h with
      ignored := sat 8 h.ignored (entries.length - known.length),
      causes := h.causes ++ known.map (fun e => {
        cause := e.1, value := e.2, applyTn := applyTn, kind := k, due := due, msg := h.accepted, count := entries.length }) }) s)

/-- The manager sends a CAUSE to its children, with APPLY_TN its own TN plus CAUSE_LEAD (R529). -/
def originateCause (entries : List (Nat × BitVec 64)) (s : State) : State :=
  originate 0xFFFF (.cause (s.stk.tn + f16 (hieRec s.drw.image) 44) entries) s

/-- `MARZIN_CAUSE`: a zone manager applies it to itself and relays it to its children. With the manager's own head it is a
CAUSE that the manager originates; the APPLY_TN given is not used (log entry 18). -/
def execMarzinCause (h : MarzinHead) (applyTn : Nat) (entries : List (Nat × BitVec 64)) (s : State) :
    Host.Outcome State Fault Refusal :=
  if s.hie.role = 2 && fromSelf s h then .next (originateCause entries s)
  else
    .next (receive h false 6 (fun s =>
      if isParent s h.sender then
        let r := acceptCause applyTn h.stamp entries s
        (r.1, r.2.hie.children.foldl (fun (s : State) c => hieSend c.node (asMarzin h (.cause applyTn entries)) s) r.2)
      else (0, s)) s)

/-- The entry is due in the version of the edge of a TN and count; one that a re-base has left behind is late (R529,
R530). -/
def causeDue (tn edges : Nat) (p : CausePend) : Bool := if p.kind = 0 then p.applyTn ≤ tn else p.due ≤ edges

/-- Its outcome. -/
def causeOutcome (tn : Nat) (p : CausePend) : Nat := if p.kind = 0 && p.applyTn < tn then 1 else p.kind

/-- The event of a message whose entries were written (R533). -/
def causeEvent (p : CausePend) (s : State) : State :=
  let k := causeOutcome s.stk.tn p
  if k = 0 then hieEvent 0xF006 (p.count * 2 ^ 24 + p.applyTn % 2 ^ 24) s
  else hieEvent 0xF007 (k * 2 ^ 30 + s.stk.tn % 2 ^ 24) s

/-- One due entry written into the version of this edge, unless a later one names its cause too (R529, R530). -/
def writeCause (later : List CausePend) (p : CausePend) (s : State) : State :=
  if later.any (·.cause = p.cause) then modHie (fun h => { h with ignored := sat 8 h.ignored 1 }) s
  else
    let s := (causePoint s.drw.image p.cause).elim s (fun i => writeInput i p.value 0x80 s.stk.tn s)
    modHie (fun h =>
      if causeOutcome s.stk.tn p = 0 then { h with onTime := sat 16 h.onTime 1, causeLast := s.stk.tn % 2 ^ 32 }
      else { h with late := sat 8 h.late 1, causeLast := s.stk.tn % 2 ^ 32 }) s

/-- The due entries, in the order of their acceptance. -/
def writeCauses (l : List CausePend) (s : State) : State :=
  match l with
  | [] => s
  | p :: r => writeCauses r (writeCause r p s)

/-- Pending causes reach the version of the edge being sealed (R529). -/
def causeApply (s : State) : State :=
  let due := s.hie.causes.filter (causeDue s.stk.tn s.stk.edges)
  if due.isEmpty then s
  else
    let s := writeCauses due (modHie (fun h => { h with causes := h.causes.filter (fun p => !causeDue s.stk.tn s.stk.edges p) }) s)
    let heads := due.foldl (fun (l : List CausePend) p => if l.any (·.msg = p.msg) then l else l ++ [p]) []
    heads.foldl (fun (s : State) p => causeEvent p s) s

/-! ### ACK, resend, arbiters (R525, R531) -/

/-- `MARZIN_ACK`: the message acknowledged waits no longer. -/
def execMarzinAck (h : MarzinHead) (cls seq status : Nat) (s : State) : Host.Outcome State Fault Refusal :=
  .next (receive h false cls (fun s => (status, modHie (fun x => { x with
    unacked := x.unacked.filter (fun u => !(u.peer = h.sender && u.seq = seq && classOf u.msg.body = cls)) }) s)) s)

/-- `MARZIN_RESEND`: a message unanswered is sent again with its SEQ, at most 3 times, toward the parent through the egress
arbiter (R525, R531); after that it waits no longer. -/
def execMarzinResend (peer seq : Nat) (s : State) : Host.Outcome State Fault Refusal :=
  match s.hie.unacked.find? (fun u => u.peer = peer && u.seq = seq) with
  | none => .next s
  | some u =>
    if u.tries < 3 then
      let m := { u.msg with again := some seq }
      let s := modHie (fun h => { h with
        retries := sat 32 h.retries 1,
        unacked := h.unacked.map (fun x => if x.peer = peer && x.seq = seq then { x with tries := x.tries + 1 } else x) }) s
      .next (if isParent s peer then sendUp m s else hieSend peer m s)
    else .next (modHie (fun h => { h with unacked := h.unacked.filter (fun x => !(x.peer = peer && x.seq = seq)) }) s)

/-- The manager takes a message that its ingress arbiter served. -/
def consume (m : Marzin) (s : State) : State :=
  match m.body with
  | .directory (.publish l) => publishDir m.origin l s
  | .directory (.request node tenant sv target point) => decideRead node tenant sv target point m s
  | .directory (.value node target point e) => answerTo node target point e s
  | _ => s

/-- A message from the parent for this module itself. -/
def ownEffect (m : Marzin) (s : State) : State :=
  match m.body with
  | .directory d => directoryDown d s
  | .attest (.nonce n) => askStatement n m.via s
  | .orch o => orchestrate o s
  | _ => s

/-- `ARBITER_SERVE`: the egress arbiter hands its next message to the MACs, toward the parent; the ingress arbiter hands
its own to the manager; a zone manager takes or relays down what came from its parent and relays up the rest (R531). -/
def execArbiterServe (ingress : Bool) (s : State) : Host.Outcome State Fault Refusal :=
  let r := arbServe (if ingress then s.hie.ingress else s.hie.egress)
  let s := modHie (fun h => if ingress then { h with ingress := r.1 } else { h with egress := r.1 }) s
  match r.2 with
  | none => .next s
  | some (m, rest) =>
    let s := if rest then modHie (fun h => { h with srcOverflow := sat 32 h.srcOverflow 1 }) s else s
    if !ingress then .next (hieSend s.hie.parent m s)
    else if s.hie.role = 3 then
      if isParent s m.via then .next (fromAbove m (ownEffect m) s) else .next (sendUp m s)
    else .next (consume m s)

/-- `SOURCE_EXPIRY`: a source leaves an arbiter's table after 1 s without a message (R531). -/
def execSourceExpiry (ingress : Bool) (origin drawer : Nat) (s : State) : Host.Outcome State Fault Refusal :=
  .next (modHie (fun h =>
    if ingress then { h with ingress := arbExpire origin drawer h.ingress }
    else { h with egress := arbExpire origin drawer h.egress }) s)

end Sys2Proof.Machine
end

