-- ==== Sys2Proof/Machine/Replay.lean ====
section
/-! DEFINITION. The replay of a hot restart (R204): a bank and the journal records after it are played on a copy of the
state, edge by edge, with the strokes that the crew cores run; every edge digest is compared with the journal. -/
namespace Sys2Proof.Machine

/-! ### The journal at boot (R182, R185, R204) -/

/-- A record is valid: it ends with EDGE_CLOSE (R182). -/
def validRecord (r : JRecord) : Bool :=
  match r.entries.getLast? with
  | some (.edgeClose _ _) => true
  | _ => false

/-- The records after a bank's edge. -/
def recordsAfter (w : Wke) (b : Bank) : List JRecord := w.ring.filter (fun r => r.edge > b.edge)

/-- The ring leads from the bank to its last record without a gap, every record valid. -/
def reaches (w : Wke) (b : Bank) : Bool :=
  let l := recordsAfter w b
  l.map (·.edge) = (List.range l.length).map (fun i => b.edge + 1 + i) && l.all validRecord

/-- The record has a MARK of a kind. -/
def hasMark (kind : Nat) (r : JRecord) : Bool := r.entries.any (fun e => match e with | .mark k _ => k = kind | _ => false)

/-- `SYS_MODE.MODE` at the edge of a record. -/
def recordMode (r : JRecord) : Nat := (r.entries.findSome? (fun e => match e with | .edgeOpen _ _ m => some m | _ => none)).getD 0

/-- The edge digest of a record. -/
def recordDigest (r : JRecord) : BitVec 64 :=
  (r.entries.findSome? (fun e => match e with | .edgeClose d _ => some d | _ => none)).getD 0

/-- The jig rules that fired at the edge of a record. -/
def recordJig (r : JRecord) : Nat := (r.entries.findSome? (fun e => match e with | .jig m => some m | _ => none)).getD 0

/-- An edge before another whose number is known, modulo 2^32. -/
def tickBefore (tn n : Nat) : Nat := (tn + 2 ^ 32 - n % 2 ^ 32) % 2 ^ 32

/-! ### The replay -/

/-- Observations of one event task at one version. -/
structure Obs where
  slot : Nat
  edge : Nat
  count : Nat
  sources : Nat
  /-- a skipped stroke has carried it (R128) -/
  retry : Bool := false

/-- What the replay carries from entry to entry. -/
structure Replay where
  /-- the copy of the state on which it plays -/
  s : State
  /-- the strokes of the crew cores not yet released -/
  strokes : List HotStroke
  /-- observations that no released stroke has carried (R118, R128) -/
  obs : List Obs
  /-- catch tick of the write set whose entries follow -/
  tick : Nat := 0
  /-- slots with a write set at this edge -/
  seen : List Nat := []
  /-- every write set had its stroke and every edge digest matched -/
  ok : Bool := true

/-- The bank's stroke of a slot that the journal commits: its closed copy is adopted, not run (R194). -/
def adoptedHot (b : Bank) (slot relEdge : Nat) : Option WriteSet :=
  ((b.tasks.find? (fun t => t.slot = slot)).bind (·.stroke)).bind (fun k =>
    if k.relEdge = relEdge then (k.copies.find? (fun x => x.phase = .done && x.stop.isNone)).map (·.ws) else none)

/-- The record of the release whose settled write set is applied at a record (R197). -/
def settledAt (rs : List JRecord) (slot : Nat) (r : JRecord) : Option JRecord :=
  rs.find? (fun q => q.entries.any (fun e => match e with | .skip n _ f t => n = slot && f = 2 && t = r.tn | _ => false))

/-- A WSET entry: the write set is one that the bank holds closed, or that of the stroke a core has run, which gives its
digest, the messages it took and its staged writes. A write set released on time has carried the observations up to its
catch. -/
def replayWset (b : Bank) (rs : List JRecord) (r : JRecord) (slot : Nat) (d : BitVec 64) (x : Replay) : Replay :=
  let late := if x.seen.contains slot then none else settledAt rs slot r
  let rel := late.getD r
  let per := taskPeriod x.s slot
  let h0 : HotStroke := { edge := r.edge - b.edge, slot := slot, digest := d, taken := 0, staged := [] }
  let run := x.strokes.find? (fun h => b.edge + h.edge = r.edge && h.slot = slot)
  let got : HotStroke × Bool := match adoptedHot b slot rel.edge, run with
    | some w, _ => ({ h0 with taken := w.taken, staged := if w.grp = .committed && !w.grpOver then w.staged else [] }, true)
    | none, some h => (h, true)
    | none, none => (h0, false)
  let staged := got.1.staged
  let s := addStream ([0x10] ++ leBytes 8 got.1.digest.toNat) (setSkipped slot false x.s)
  let s := modTask slot (fun t => { t with inbox := t.inbox.drop got.1.taken }) s
  { x with
    s := { s with dvt := { s.dvt with applied := s.dvt.applied ++ staged.map (fun p => (p.1, p.2, slot)) } }
    strokes := x.strokes.erase got.1, tick := tickBefore rel.tn per, seen := slot :: x.seen, ok := x.ok && got.2
    obs := if late.isSome then x.obs else x.obs.filter (fun o => o.slot ≠ slot || o.edge + per > r.edge) }

/-- One entry of a record. The points of loop slots come from their evaluation, not from the journal. What a skipped stroke
carried stays pending with RETRY (R128). -/
def replayEntry (b : Bank) (rs : List JRecord) (r : JRecord) (x : Replay) (e : JEntry) : Replay :=
  let s := x.s
  match e with
  | .input q i t v =>
    { x with s := putEntry i { entryOf s.dvt.image i with
        value := v, quality := BitVec.ofNat 8 q, tick := t, init := false, skipped := false } s }
  | .wset n d => replayWset b rs r n d x
  | .point q i v =>
    if (pointRec s.drw.image i).elim false (fun p => ptWriter p ≤ 0x3F) then
      { x with s := commitPoint i v (BitVec.ofNat 8 q) x.tick s }
    else x
  | .message m dropped =>
    let s := modTask m.sender (fun t => { t with seqs := tset t.seqs m.dest ((m.seq + 1) % 65536) }) s
    if dropped then { x with s := s }
    else
      let s := modTask m.dest (fun t => { t with inbox := t.inbox ++ [m] }) s
      { x with s := { s with dvt := { s.dvt with delivered := s.dvt.delivered ++ [(m.dest, m.sender)] } } }
  | .skip n k _ _ =>
    { x with
      s := setSkipped n true (addStream [0x11, b8 n, b8 (skipCode k)] s)
      obs := x.obs.map (fun o => if o.slot = n && o.edge + taskPeriod s n ≤ r.edge then { o with retry := true } else o) }
  | .edgeOpen _ _ _ | .jig _ | .mark _ _ | .edgeClose _ _ | .raw _ => x

/-- The observations of every event task at the version just sealed (R116). -/
def replayObserve (old : Image) (r : JRecord) (s : State) : List Obs :=
  (taskRecs s.drw.image).filterMap (fun t =>
    if !tkEvent t then none
    else
      let hits := (enum (triggersOf s.drw.image t)).filter (fun p => fires old s.dvt.image (recordJig r) s.dvt.delivered (tkSlot t) p.2)
      if hits.isEmpty then none
      else some {
        slot := tkSlot t, edge := r.edge, count := hits.length, sources := hits.foldl (fun m p => bset m p.1) 0 })

/-- The staged writes of an edge that reach the loop engine; the other registers start as the image gives them (R290). -/
def replayStaged (s : State) : State :=
  s.dvt.applied.foldl (fun (s : State) p => if blockAt p.1 = some .lpe then applyStaged p.1 p.2.1.toNat s else s) s

/-- The loop slots after the seal of an edge: evaluated in RUN and DEGRADED, set back at the entry into HOLD (R53, R279). -/
def replayLoops (r : JRecord) (s : State) : State :=
  if hasMark 1 r then holdLoops s
  else if recordMode r = modeCode .run || recordMode r = modeCode .degraded then evalLoops s.dvt.latest r.tn r.edge s
  else s

/-- One edge record (R204): its entries, the loop results due, the edge digest, the seal, the observations and the loop
slots. -/
def replayEdge (b : Bank) (rs : List JRecord) (x : Replay) (r : JRecord) : Replay :=
  let old := x.s.dvt.latest
  let s := openVersion { x.s with stk := { x.s.stk with tn := r.tn, edges := r.edge } }
  let s := if hasMark 2 r then restartLoops r.edge s else s
  let x := r.entries.foldl (replayEntry b rs r) { x with s := s, seen := [] }
  let s := commitLoops x.s
  let d := digest64 (leBytes 8 s.dvt.digest.toNat ++ leBytes 8 r.tn ++ s.dvt.stream)
  let s := sealVersion { s with dvt := { s.dvt with digest := d, stream := [] } }
  { x with
    s := replayLoops r (replayStaged s), ok := x.ok && decide (d = recordDigest r)
    obs := x.obs ++ replayObserve old r s }

/-- A task slot as a bank holds it: inbox and SEQ counters (R187). -/
def loadTask (s : State) (c : TaskCkpt) : State :=
  modTask c.slot (fun t => { t with inbox := c.inbox, seqs := c.seqs }) s

/-- The observations that a bank holds of a task: those pending, and those of the stroke in progress (R187), which are
pending again when that stroke is discarded (R134 does not say: DESIGN CHOICE, log entry 17). -/
def bankObs (b : Bank) (c : TaskCkpt) : List Obs :=
  { slot := c.slot, edge := b.edge, count := c.pend, sources := c.pendSrc, retry := c.pendRetry } ::
    c.stroke.toList.map (fun k =>
      { slot := c.slot, edge := k.catchEdge, count := k.triggers, sources := k.sources, retry := k.retry })

/-- The copy of the state that a replay starts from: version K, the tasks and the loop slots of the bank; the slots that
catch at K are evaluated, since the checkpoint took them before that catch (R28, R204, R279). -/
def replayStart (b : Bank) (s : State) : State :=
  let s := { s with
    dvt := { s.dvt with latest := b.image, image := b.image, digest := b.digest },
    stk := { s.stk with tn := b.tn, edges := b.edge },
    lpe := { s.lpe with slots := (s.lpe.slots.map (·.1)).zip b.loops } }
  b.tasks.foldl loadTask (if b.runs then evalLoops b.image b.tn b.edge s else s)

/-- The replay of a bank over (K, E]. -/
def replayRun (h : HotReplay) (s : State) : Replay :=
  let b := bankOf s.wke h.bankB
  let rs := recordsAfter s.wke b
  rs.foldl (replayEdge b rs) { s := replayStart b s, strokes := h.strokes, obs := b.tasks.flatMap (bankObs b) }

/-- The pending count, the sources and RETRY of a slot at E. -/
def pendingAt (x : Replay) (slot : Nat) : Nat × Nat × Bool :=
  let l := x.obs.filter (fun o => decide (o.slot = slot))
  (min 65535 (sumOf (l.map (·.count))), l.foldl (fun m o => m ||| o.sources) 0, l.any (fun o => o.retry && o.count > 0))

/-! ### What a hot restart takes from it (R134, R204, R294) -/

/-- A task slot at E: inbox, SEQ counters and pending observations; the strokes not released are discarded. -/
def hotTask (x : Replay) (s : State) (slot : Nat) : State :=
  let p := pendingAt x slot
  modTask slot (fun t => { t with
    inbox := (task x.s slot).inbox, seqs := (task x.s slot).seqs, pend := p.1, pendSrc := p.2.1, pendRetry := p.2.2 }) s

/-- A loop slot at E: banks, active bank, histories, v_prev, prev_mode and detection counters. A result not yet released is
dropped, while the evaluation that gave it stands (DEDUCED, log entry 17). -/
def hotLoop (x : Replay) (s : State) (n : Nat) : State :=
  match tget x.s.lpe.slots n with
  | some k => modLoop n (fun l => { l with bankA := k.bankA, bankB := k.bankB, activeB := k.activeB, dyn := k.dyn, rel := k.dyn }) s
  | none => s

/-- The windows of a task slot hold the copy of a bank (R187). -/
def loadCopy (s : State) (c : TaskCkpt) : State :=
  let ws := stateWins s.drw.image c.slot
  { s with mem := Memory.put (s.mem.filter (fun p => !inWins ws p.1)) (c.copy.filter (fun p => inWins ws p.1)) }

/-- The closed working copy of an adopted write set, which the journal commits by E, its retained words included (R187,
R194). -/
def adoptWork (w : Wke) (b : Bank) (upTo : Nat) (s : State) (c : TaskCkpt) : State :=
  let ws := stateWins s.drw.image c.slot
  (adoptedCopy w b upTo c.slot).elim s (fun x => { s with mem := s.mem.put (x.ws.work.filter (fun p => inWins ws p.1)) })

/-- Bytes that the replayed strokes leave in the read-write windows of the declared task slots (log entry 2). -/
def putReplayed (l : List (Nat × Byte)) (s : State) : State :=
  let ws := (declaredSlots s).flatMap (stateWins s.drw.image)
  { s with mem := s.mem.put (l.filter (fun p => inWins ws p.1)) }

/-- The state of a hot restart: event 0x4009. -/
def hotRestart (h : HotReplay) (s : State) : State :=
  let b := bankOf s.wke h.bankB
  let rs := recordsAfter s.wke b
  let x := replayRun h s
  let e := rs.getLast?.elim b.edge (·.edge)
  let s := b.tasks.foldl (adoptWork s.wke b e) (b.tasks.foldl loadCopy s)
  let s := putReplayed h.state (putReplayed h.retained s)
  let s := { s with dvt := { s.dvt with image := x.s.dvt.latest } }
  let s := (s.lpe.slots.map (·.1)).foldl (hotLoop x) ((declaredSlots s).foldl (hotTask x) s)
  raise { code := 0x4009, block := 0x04, detail := bit h.bankB * 2 ^ 31 + min rs.length 0xFFFFFF } (jMark 4 2 s)

end Sys2Proof.Machine
end

