-- ==== Sys2Proof/Machine/Load.lean ====
section
/-! DEFINITION. The end of the carcass load: slots tried, jig copy, registers and tables written, cores bound, the
restart kind and its state (R44, R45, R99 to R104, R121, R133 to R136, R143, R182, R203, R204, R294, R588). -/
namespace Sys2Proof.Machine

/-! ### Slots tried (R99, R100, R106) -/

/-- The checks of codes 1 to 10 on a slot: false A, true B. -/
def loadCheck (s : State) (b : Bool) : Option Finding :=
  let x := slotOf s.upd b
  checkImage {
    runtime := x.runtime, program := x.program, floor := s.drw.serialFloor, keys := (List.range 8).map (slotKey s.key),
    ident := identity s.key } x.carcass

/-- A slot is refused: event 0x0011, FAIL, FIRST_FAIL and SECTION (R100, R106). -/
def refuseSlot (f : Finding) (s : State) : State :=
  let d := s.drw
  let d := if d.firstFail = 0 then { d with firstFail := f.1, section_ := f.2.1 } else d
  loadEvent 0x0011 (f.1 * 2 ^ 24 + f.2.1 * 2 ^ 16 + f.2.2) { s with drw := { d with fail := f.1 } }

/-- No slot loads: FAILED, RIGGING stays (R101). -/
def loadFailed (s : State) : State := { s with drw := { s.drw with load := 3, fallback := false } }

/-- The slot the boot ROM's runtime check left, then the other when it is PREVIOUS and not yet tried: whether one
loads (R65, R100). -/
def trySlots (s : State) : Bool × State :=
  match loadCheck s s.drw.slotB with
  | none => (true, s)
  | some f =>
    let s := refuseSlot f s
    let b := !s.drw.slotB
    if s.drw.fallback || (slotOf s.upd b).st ≠ .previous then (false, loadFailed s)
    else
      let s := { s with drw := { s.drw with slotB := b, loadSlot := b, fallback := true } }
      if runtimeCode (slotOf s.upd b) ≠ 0 then (false, loadFailed (runtimeFailed (runtimeCode (slotOf s.upd b)) b s))
      else
        match loadCheck s b with
        | none => (true, s)
        | some g => (false, loadFailed (refuseSlot g s))

/-! ### The jig copy (R104) -/

/-- A new jig body goes to the inactive copy; false when its read-back fails, which is code 11. A copy that does not match
its CRC differs from every body (R225). -/
def stageJigCopy (body : List Byte) (readbackOk : Bool) (s : State) : Bool × State :=
  let dg := Config.shake256 body 32
  let j := s.jig
  if dg = (jigCopy j).digest && copyOk (jigCopy j) then (true, { s with jig := { j with rewrote := false } })
  else
    let c : JigCopy := { body := body, crc := crc32c body, digest := dg }
    let j := if j.sel then { j with copy0 := c } else { j with copy1 := c }
    (readbackOk, { s with jig := { j with rewrote := true } })

/-- The selector is switched at "Load done"; the matrix adopts the copy between two cycles. -/
def switchJig (s : State) : State :=
  if s.jig.rewrote then { s with jig := { s.jig with sel := !s.jig.sel, adoptDue := true } } else s

/-! ### Blocks declared (R44, R45) -/

/-- The image binds a DIO item or holds a digital IO record. -/
def declaresDio (img : List Section) : Bool :=
  (points img).any (fun r => ptKind r = 1 || ptKind r = 2 || ptKind r = 4) || (recs img 9).any (fun r => f8 r 0 = 1 || f8 r 0 = 2)

/-- The block instances that an image declares. -/
def declaredBlocks (img : List Section) : List Block :=
  let net := recs img 0x0A
  infraBlocks ++ [.stk, .dvt, .wke, .jig, .rtc] ++ (if declaresDio img then [.dio] else []) ++
    (if (recs img 9).any (fun r => f8 r 0 = 3 && f8 r 4 ≠ 0) then [.aio] else []) ++
    (if (loopRecs img).isEmpty then [] else [.lpe]) ++ (if (remotes img 1).isEmpty then [] else [.rio]) ++
    ((List.range 4).filter (fun n => net.any (fun r => f8 r 0 = 1 && f8 r 1 = n))).map .can ++
    ((List.range 10).filter (fun n => net.any (fun r => (f8 r 0 = 2 || f8 r 0 = 3) && f8 r 1 = n))).map .mac ++
    (if (timeRec img).isSome then [.ptp] else []) ++ (if (sect img 0xF).isSome then [.hie] else [])

/-- DECLARED and ENABLE follow the image. -/
def declareBlocks (s : State) : State :=
  let l := declaredBlocks s.drw.image
  { s with declared := l, enabled := l ++ (if s.enabled.contains .dbg then [.dbg] else []) }

/-! ### Cores, seats and binding (R87, R121, R203) -/

/-- A pool core that failed its boot self-test: the lowest free seat takes its place, or the core is left out. SPARES is
set for the last free seat and for none. -/
def replaceCore (s : State) (c : Nat) : State :=
  if coreOut s c && s.stk.pools.any (fun m => m.testBit c) then
    match (freeSeats s.wke).head? with
    | some x => sparesOut (rebind c x { s with wke := { s.wke with seats := tset s.wke.seats x .taken } })
    | none => setCause 0 { s with stk := { s.stk with pools := s.stk.pools.map (fun m => bclr m c) } }
  else s

/-- The pools and the seats of the image, then the cores that failed the self-test. -/
def loadPools (s : State) : State :=
  let rs := recs s.drw.image 3
  let spare := ((rs.find? (fun r => f8 r 0 = 2)).elim 0 (f16 · 2))
  let s := { s with
    stk := { s.stk with pools := (List.range 8).map (fun i => (poolMask s.drw.image (i + 1)).getD 0) },
    wke := { s.wke with
      declared := spare, seats := ((bitsOf spare 16).filter (fun c => !coreOut s c)).map (fun c => (c, SeatUse.free)) } }
  (List.range 16).foldl replaceCore s

/-- The core among some with the fewest tasks bound, a tie to the lower. -/
def leastBound (bound : List Nat) (cores : List Nat) : Option Nat :=
  match cores with
  | [] => none
  | c :: r => some (r.foldl (fun b x => if bound.count x < bound.count b then x else b) c)

/-- One task is bound to one core of its pool, a paired one to two. A pool with one core leaves a pair alone. -/
def bindTask (acc : State × List Nat) (r : Rec) : State × List Nat :=
  let s := acc.1
  let bound := acc.2
  let cores := bitsOf (s.stk.pools.getD (tkPool r - 1) 0) 16
  match leastBound bound cores with
  | none => acc
  | some c =>
    let bound := bound ++ [c]
    if tkPaired r then
      match leastBound bound (cores.filter (fun x => x ≠ c)) with
      | some d => (modTask (tkSlot r) (fun t => { t with core := c, pair := d }) s, bound ++ [d])
      | none =>
        (modTask (tkSlot r) (fun t => { t with core := c, pair := c }) { s with wke := { s.wke with alone := s.wke.alone ++ [tkSlot r] } }, bound)
    else (modTask (tkSlot r) (fun t => { t with core := c, pair := c }) s, bound)

/-- Every declared task is bound, in ascending slot order (R121). -/
def bindTasks (s : State) : State := ((taskRecs s.drw.image).foldl bindTask (s, [])).1

/-! ### Registers loaded -/

/-- A size in KB, rounded up. -/
def kbUp (n : Nat) : Nat := (n + 1023) / 1024

/-- The registers that MODULE and UPDATE load, and the bounds the loader computes (R77, R86, R149, R155, R163, R185,
R188, R296, R444, R495). -/
def loadModule (s : State) : State :=
  let img := s.drw.image
  let m := modRec img
  let e := f32 m 0x0C
  let u := updateRec img
  { s with
    sys := { s.sys with linkDownS := f16 m 0x0A, eccLimit := f16 m 8 },
    evr := setBurst (fld e 24 7) { s.evr with rate := fld e 16 5, headTime := fld e 0 7 },
    wke := { s.wke with interval := ckptMs img, volume := kbUp (ckptVolume img), ringBound := kbUp (ringBound img) },
    dvt := { s.dvt with groups := groupSlots img, commitBound := commitPs img / 1000, vstoreBound := vstoreBound img },
    lpe := { s.lpe with bound := budgetBound img, slots := (loopRecs img).foldl (fun t r => tset t (lpSlot r) (freshSlot img r)) [] },
    upd := { s.upd with
      shadowN := if u.isEmpty then s.upd.shadowN else f32 u 0, watchM := if u.isEmpty then s.upd.watchM else f32 u 4 } }

/-- One IO record is loaded (R233, R260). -/
def loadIo (s : State) (r : Rec) : State :=
  match f8 r 0 with
  | 1 => applyDioCfg (f8 r 1) (f16 r 2) 0 s
  | 2 => applyDioCfg (32 + f8 r 1) (f16 r 2) 0 s
  | _ => modAio (f8 r 1) (fun c => { c with cfg := f16 r 2 % 8, mode := f8 r 4 % 8, old := none, since := 0 }) s

/-- A channel without an IO record has its reset configuration, an analog one MODE OFF too (R233, R260). -/
def loadIoDefaults (img : List Section) (s : State) : State :=
  let named (kind n : Nat) : Bool := (recs img 9).any (fun r => f8 r 0 = kind && f8 r 1 = n)
  let s := (List.range 32).foldl (fun s n => if named 1 n || (diCh s n).cfg = 3 then s else applyDioCfg n 3 0 s) s
  let s := (List.range 32).foldl (fun s n => if named 2 n then s else applyDioCfg (32 + n) 1 0 s) s
  (List.range 16).foldl (fun s n => if named 3 n then s else modAio n (fun c => { c with cfg := 1, mode := 0, old := none }) s) s

/-- ROLE, NODE_ID, PARENT_ID and VID of the module record (R520); the manager is level 1 and holds its own entries. -/
def loadHie (s : State) : State :=
  let r := hieRec s.drw.image
  if r.isEmpty then s
  else
    let s := modHie (fun h => { h with
      role := f8 r 1, node := f16 r 2, parent := f16 r 4, vid := f16 r 6, level := if f8 r 1 = 2 then 1 else 0 }) s
    if s.hie.role = 2 then publishDir s.hie.node (ownEntries s.drw.image) s else toParent true (ownAlign (.join true) s) s

/-- The RWL registers and tables of the blocks other than SYS, STK, DVT, WKE, LPE and UPD. -/
def loadBlocks (s : State) : State :=
  let img := s.drw.image
  let s := settleOutputs ((recs img 9).foldl loadIo (loadIoDefaults img s))
  let s := { s with can := (enum s.can).map (fun p => canLoad img p.1 p.2)
                    mac := (enum s.mac).map (fun p => macLoad img (if p.1 < 8 then roomOf img p.1 else 0) p.1 p.2) }
  let s := ptpLoad s
  let (n, s) := if (remotes img 1).isEmpty then (0, s) else draw s
  rioLoad (airUs img) n s

/-- What follows from an image in force beside its tables: the key core, the tamper inputs, the hierarchy. -/
def loadServices (s : State) : State :=
  let s := keyLoad s
  loadHie { s with rtc := { s.rtc with tamperEn := (f8 ((recs s.drw.image 0x0D).headD []) 2).testBit 0 } }

/-- The tables of the slot that passed are written; a declared point's entry holds DRAWER and TYPE (R99, R588). -/
def writeTables (s : State) : State :=
  let secs := parseImage (forceSlot s).carcass
  let blank : Image := (points secs).foldl (fun t r => tset t (ptIndex r) { drawer := ptDrawer r, typ := ptType r }) []
  { s with drw := { s.drw with image := secs }, dvt := { s.dvt with latest := blank, image := blank } }

/-- The image of the slot that passed is in force (R84, R105). -/
def adoptImage (s : State) : State :=
  let img := (forceSlot s).carcass
  { s with drw := { s.drw with meas := Config.shake256 (signedPart img) 32, serial := f32 img 0x1C } }

/-! ### The journal at boot (R182, R185, R204) -/

/-- Records after the last valid one are discarded: event 0x400A with their bytes. `torn` are the bytes of a record that
the writer had not finished. -/
def trimTail (torn : Nat) (s : State) : State :=
  let tail := s.wke.ring.reverse.takeWhile (fun r => !validRecord r)
  let n := ringBytes tail + torn
  let s := { s with wke := { s.wke with ring := s.wke.ring.take (s.wke.ring.length - tail.length) } }
  if n = 0 then s else raise { code := 0x400A, block := 0x04, detail := min n 0xFFFFFF } s

/-- The banks by age, the newest first. -/
def banksByAge (w : Wke) : List Bool :=
  if (bankOf w true).seq > (bankOf w false).seq && usable (bankOf w true) then [true, false] else [false, true]

/-- After a switch and before confirmation, only a checkpoint at or after the last task's switch serves (R505). -/
def afterSwitch (u : Upd) (b : Bank) : Bool := u.switchEnd.elim false (fun e => e ≤ b.edge) || !u.unconfirmed

/-- A bank a hot restart can use (R102, R185, R204, R505): none after a run whose journal ended in a gap. -/
def hotBank (s : State) (b : Bool) : Bool :=
  let k := bankOf s.wke b
  usable k && k.meas = s.drw.meas && reaches s.wke k && !s.wke.gap && afterSwitch s.upd k

/-! ### The restart kind (R62, R136, R143) -/

/-- Every usable bank was written under another image. -/
def measChanged (s : State) : Bool :=
  let l := [false, true].filter (fun b => usable (bankOf s.wke b))
  !l.isEmpty && l.all (fun b => (bankOf s.wke b).meas ≠ s.drw.meas)

/-- The replay that a hot restart takes: from the newest bank that serves and whose edge digests match (R204). -/
def hotReplay (hot : List HotReplay) (s : State) : Option HotReplay :=
  ((banksByAge s.wke).filter (hotBank s)).findSome? (fun b => hot.find? (fun h => h.bankB = b && (replayRun h s).ok))

/-- Why a declared hot restart becomes warm; 0 when it stays hot. Of several reasons the spec does not say which is
reported: POR, NO_BRACE, DBG_EXIT, outage unknown, outage at the limit, rollback, measurement, no checkpoint, in this
order; DEBUG that another reset or a loss of power has ended counts as DBG_EXIT (R55; DESIGN CHOICE, log entry 17). -/
def warmReason (hot : List HotReplay) (s : State) : Nat :=
  let limit := f16 (modRec s.drw.image) 2
  if s.sys.cause.testBit 0 then 2
  else if s.sys.noBrace then 3
  else if s.sys.cause.testBit 6 || s.sys.fromDebug then 4
  else if s.sys.outage = 0xFFFFFFFF then 8
  else if s.sys.outage ≥ limit then 1
  else if s.upd.back.isSome then 9
  else if measChanged s then 5
  else if (hotReplay hot s).isNone then 6
  else 0

/-- Kind taken and reason: 0 cold, 1 warm, 2 hot. FORCE lowers, and never raises. -/
def restartKind (hot : List HotReplay) (s : State) : Nat × Nat :=
  let d := f8 (modRec s.drw.image) 0
  let r := if d = 2 then warmReason hot s else 0
  let k := if r = 0 then d else 1
  if s.rtc.force = 1 && k > 0 then (0, 7) else if s.rtc.force = 2 && k > 1 then (1, 7) else (k, r)

/-! ### The restart state (R102, R133 to R136, R204, R294, R588) -/

/-- The initial values of a slot's retained variables. -/
def initRetained (s : State) (slot : Nat) : State :=
  let p := (forceSlot s).program
  { s with mem := (retWins s.drw.image slot).foldl (fun m r =>
      Memory.writeN m (mwBase r) ((List.range (mwSize r)).map (fun i => Config.retainInit p (mwBase r + i)))) s.mem }

/-- A slot whose window fails its check: initial values, event 0x2005, counted (R133). -/
def loseRetained (s : State) (slot : Nat) : State :=
  raise { code := 0x2005, block := 0x02, unit := slot, drawer := taskDrawer s slot, detail := slot * 2 ^ 24 }
    (initRetained { s with stk := { s.stk with retainLost := sat 7 s.stk.retainLost 1 } } slot)

/-- The carcass under which a slot's retained windows stand, when it is the other slot's (R102). -/
def oldCarcass (s : State) (slot : Nat) : Option (List Byte) :=
  let c := (slotOf s.upd (!s.drw.slotB)).carcass
  (tget s.drw.layout slot).bind (fun m =>
    if m ≠ s.drw.meas && m = Config.shake256 (signedPart c) 32 then some c else none)

/-- A warm restart under another image maps a slot's retained variables by identifier (R102, R504). -/
def mapRetained (old : List Byte) (s : State) (slot : Nat) : State :=
  let new := (forceSlot s).carcass
  let was := getRetained (retWins (parseImage old) slot) s.mem
  let bs := Config.retainMap old new (forceSlot s).program slot was
  let (ids, dropped) := Config.remapItems (namesOf old) (namesOf new) slot was
  let s := { s with mem := putRetained (retWins s.drw.image slot) bs s.mem }
  let s := modUpd (fun u => { u with remapInit := sat 16 u.remapInit ids.length, remapDrop := sat 16 u.remapDrop dropped }) s
  ids.foldl (fun (s : State) i => updEvent 0xE007 (slot * 2 ^ 24 + i % 2 ^ 24) s) s

/-- The retained variables of a cold or warm restart. -/
def keepRetained (cold : Bool) (s : State) : State :=
  if cold then (declaredSlots s).foldl initRetained s
  else
    (declaredSlots s).foldl (fun (s : State) n => (oldCarcass s n).elim s (fun c => mapRetained c s n)) s

/-- A cold or warm restart: every read-write DRAM window is filled from the program set's initial image (R134, R170). -/
def fillWindows (s : State) : State :=
  let p := (forceSlot s).program
  let ws := (recs s.drw.image 0x04).filter (fun r => mwWritable r && !mwRetained r)
  { s with mem := ws.foldl (fun m r => Memory.writeN m (mwBase r) ((Config.windowInit p (mwBase r)).take (mwSize r))) s.mem }

/-- INIT_VALUE of every point other than an input, as it stands until its first commit. -/
def initImage (img : List Section) (blank : Image) : Image :=
  ((points img).filter (fun r => !ptIsInput r)).foldl (fun t r =>
    tset t (ptIndex r) { entryOf blank (ptIndex r) with value := normalise (ptType r) (ptInit r), quality := 0x80, init := true }) blank

/-- The restart state is restored, STK_RESTART and event 0x2006 (R136, R143); the retained windows stand under the image in
force from now on (R102). -/
def restoreState (bad : List Nat) (hot : List HotReplay) (s : State) : State :=
  let (k, r) := restartKind hot s
  let s := { s with
    stk := { s.stk with rDeclared := f8 (modRec s.drw.image) 0, rTaken := k, rReason := r }, rtc := { s.rtc with force := 0 } }
  let s := match if k = 2 then hotReplay hot s else none with
    | some h => hotRestart h s
    | none => jMark 4 k (keepRetained (k = 0) <| fillWindows { s with dvt := { s.dvt with image := initImage s.drw.image s.dvt.latest } })
  let s := ((declaredSlots s).filter bad.contains).foldl loseRetained s
  let s := { s with drw := { s.drw with layout := (declaredSlots s).foldl (fun t n => tset t n s.drw.meas) s.drw.layout } }
  raise { code := 0x2006, block := 0x02, detail := restartReg s.stk } s

/-! ### The load -/

/-- "Load done" (R99): the selector, ENABLE, LOADED, the events; the mode changes at once when the warning is clear. -/
def loadDone (s : State) : State :=
  let s := declareBlocks (switchJig s)
  let s := { s with sys := { s.sys with boot := .loaded }, drw := { s.drw with load := 2, fail := 0 } }
  let s := if s.drw.fallback then loadEvent 0x0012 (loadReg s.drw) s else s
  let s := loadEvent 0x0010 s.drw.serial s
  tryRun (watchBoot (modUpd (fun u => { u with back := none }) s))

/-- Code 11: the tables stand written, the slot is refused and nothing is enabled; no image is in force to charge VBAK
(R414). The record to blame is the JIG section as a whole, and the load did not rewrite the copy in force (DESIGN
CHOICE, log entry 30). -/
def jigCopyFailed (s : State) : State :=
  loadFailed (refuseSlot (11, 7, 0xFFFF) { s with
    sys := { s.sys with boot := .loaded }, jig := { s.jig with rewrote := false }, rtc := { s.rtc with charge := false } })

/-- The steps of the load after its checks have passed, in the order of R99: the tables, the jig copy, the image in
force, the restart state. -/
def loadTables (journalTorn : Nat) (readbackOk : Bool) (bad : List Nat) (hot : List HotReplay) (s : State) : State :=
  let s := bindTasks (loadPools (loadBlocks (loadModule (writeTables s))))
  let (ok, s) := stageJigCopy (jigBody s.drw.image) readbackOk s
  if !ok then jigCopyFailed s
  else loadDone (restoreState bad hot (trimTail journalTorn (loadServices (adoptImage s))))

/-- `CARCASS_LOAD_DONE`: the load ends. `journalTorn` are bytes of an unfinished journal record, `jigReadbackOk` the
read back of a new jig copy, `retainBad` the slots whose retained window fails its check, `hot` the replays of a hot
restart from each bank (log entries 2 and 17). In SCRAPPED the boot has stopped and nothing is loaded (R473). In DEBUG
entered from RIGGING the boot goes on, and the module stays in DEBUG: the spec does not say (DESIGN CHOICE, log entry
30). -/
def execCarcassLoadDone (journalTorn : Nat) (jigReadbackOk : Bool) (retainBad : List (Fin 64)) (hot : List HotReplay)
    (s : State) : Host.Outcome State Fault Refusal :=
  if s.sys.boot ≠ .tested || s.sys.tamperHold || s.key.lc = 4 then .next s
  else if s.drw.load = 3 then .next { s with sys := { s.sys with boot := .loaded } }
  else
    let (ok, s) := trySlots s
    if ok then .next (sameCycle (loadTables journalTorn jigReadbackOk (retainBad.map (·.val)) hot) s)
    else .next { s with sys := { s.sys with boot := .loaded } }

end Sys2Proof.Machine
end

