-- ==== Sys2Proof/Machine/Edge.lean ====
section
/-! DEFINITION. The tick edge: time, sampling, input entries, commit, seal, outputs, observations, checkpoint, catches,
loops and dispatch, with the changes of mode, of update and of debug that fall on an edge (R19, R28, R51 to R55, R109 to
R135, R145 to R154, R182 to R187, R267, R307, R500 to R507, R545 to R551, R585, R588). -/
namespace Sys2Proof.Machine

/-! ### Time and measurements (R28, R68, R109, R255 to R257, R391, R428) -/

/-- The operating time grows by a tick, 32/125 of 1/1024 s. -/
def opStep (e : Evr) : Evr :=
  if e.opFrac + 32 ≥ 125 then { e with opTime := e.opTime + 1, opFrac := e.opFrac + 32 - 125 } else { e with opFrac := e.opFrac + 32 }

/-- TN and the edge count advance; a joining edge takes its aligned TN; SYNC_OUT follows (R391, R393, R397). -/
def edgeTime (s : State) : State :=
  let s := joinEdge { s with
    stk := { s.stk with tn := (s.stk.tn + 1) % 2 ^ 64, edges := s.stk.edges + 1 }, evr := opStep s.evr, hie := { s.hie with sent := [] },
    wke := { s.wke with recent := [] } }
  modPtp (fun p => { p with syncOut := p.syncEvery || decide (s.stk.tn % 4000 = 0) }) s

/-- What is measured at every tick; the lowest VSYS of a brace is kept (R73, R255 to R257). -/
def edgeMeasure (x : EdgeIn) (s : State) : State :=
  let s := noteTemp x.temp s
  let s := if x.nandWorn then setCause 4 s else s
  let v := x.vsys % 2 ^ 16
  { s with
    sys := { s.sys with vsys := v, braceMin := if s.sys.brace then min s.sys.braceMin v else s.sys.braceMin }
    dio := { s.dio with
      pins := x.pins % 2 ^ 32
      di := (enum s.dio.di).map (fun p => { p.2 with current := x.inCurrent.getD p.1 0 % 2 ^ 16 })
      dout := (enum s.dio.dout).map (fun p => { p.2 with current := x.outCurrent.getD p.1 0 % 2 ^ 16 })
      groups := (enum s.dio.groups).map (fun p =>
        { p.2 with voltage := x.grpVolt.getD p.1 0 % 2 ^ 16, current := min (x.grpCurrent.getD p.1 0) 0xFF }) } }

/-! ### Input entries (R19, R28, R232, R259, R262, R529, R588) -/

/-- A digital input item; the edge counter of an open wire carries OPEN_WIRE with GOOD clear (R237). -/
def dioInput (s : State) (r : Rec) : State :=
  let c := ptChan r
  let put := fun (v : Nat) (q : Byte) => writeInput (ptIndex r) (BitVec.ofNat 64 v) q s.stk.tn s
  if c < 0x20 then put (bit (diValue (diCh s c))) (diQuality (diCh s c))
  else if c < 0x40 then put (dioCount s (c - 0x20)) (if (diCh s (c - 0x20)).wireOpen then 0x20 else 0x80)
  else if c < 0x60 then put (doStatus s (c - 0x40) / 2 ^ 16) 0x80
  else put (grp s (c - 0x60)).voltage 0x80

/-- An analog input: its value at the end of a window, and at edge s; its status item when it changes, and at edge s. -/
def aioInput (first : Bool) (ended : List Nat) (s : State) (r : Rec) : State :=
  let c := ptChan r
  let tn := s.stk.tn
  if c < 0x10 then
    let ch := aioCh s c
    if !aioIn ch.mode || !(first || ended.contains c) then s
    else
      let tick := if first then tn else ch.tick
      let s := modAio c (fun x => { x with tick := tick }) s
      if ch.good.isNone then writeInput (ptIndex r) 0 0x40 tick s
      else writeInput (ptIndex r) (BitVec.ofInt 64 ch.value) ch.quality tick s
  else
    let st := aioStatus s (c - 0x10) / 2 ^ 16
    if first || st ≠ (aioCh s (c - 0x10)).statusSeen then
      modAio (c - 0x10) (fun x => { x with statusSeen := st }) (writeInput (ptIndex r) (BitVec.ofNat 64 st) 0x80 tn s)
    else s

/-- The local input entries, and the cause points at edge s. -/
def localInput (first : Bool) (ended : List Nat) (s : State) (r : Rec) : State :=
  if ptKind r = 1 then dioInput s r
  else if ptKind r = 3 && ptIsInput r then aioInput first ended s r
  else if first && ptIsInput r && ptKind r = 0 then writeInput (ptIndex r) 0 0 s.stk.tn s
  else s

/-- The entries of the points other than inputs at edge s (R134, R588): `im` is the restart state. -/
def placeRestart (im : Image) (s : State) : State :=
  ((points s.drw.image).filter (fun r => !ptIsInput r)).foldl (fun (s : State) r =>
    let e := entryOf im (ptIndex r)
    putEntry (ptIndex r) { e with tick := if e.init then s.stk.tn % 2 ^ 32 else e.tick } s) s

/-- Every input entry of edge s carries CHANGED 1 (R588). -/
def markInputs (s : State) : State :=
  let own := ((points s.drw.image).filter ptIsInput).map ptIndex
  { s with dvt := { s.dvt with image := s.dvt.image.map (fun p => if own.contains p.1 then (p.1, { p.2 with changed := true }) else p) } }

/-- The version of the edge opens and its input entries are written; while FREEZE is 1 none is (R547). -/
def edgeInputs (first : Bool) (ended : List Nat) (s : State) : State :=
  let im := s.dvt.image
  let s := openVersion s
  let s := if first then placeRestart im s else s
  if s.dbg.freeze then { s with rio := { s.rio with
      sta := s.rio.sta.map (fun p => (p.1, { p.2 with got := p.2.got.filter (fun g => g.2.2 > s.stk.edges) })) } }
  else
    let s := rioInputs first ((points s.drw.image).foldl (localInput first ended) s)
    let s := causeApply s
    if first then markInputs s else s

/-! ### Outputs (R32, R53, R216, R218, R267, R269, R308) -/

/-- The stroke value of an output: its point's value, off without a point (R96). -/
def outBit (s : State) (kind chan : Nat) : Bool :=
  (boundTo s.drw.image kind chan).elim false (fun r => normalise 1 (drivenValue s r) ≠ 0)

/-- The command of an analog output: its point's value, 0 without a point (R269). -/
def outCommand (s : State) (n : Nat) : Int :=
  (boundTo s.drw.image 3 n).elim 0 (fun r => ((drivenValue s r).truncate 32).toInt)

/-- The software conditions taken at the output instant (R216); kept while ENABLE of the JIG block is 0 (R47). -/
def takeConditions (s : State) : State :=
  if s.enabled.contains .jig then
    let c := maskOf ((List.range 64).map (fun n =>
      (boundTo s.drw.image 6 n).elim false (fun r => (entryOf s.dvt.image (ptIndex r)).value.toNat % 256 ≠ 0)))
    { s with jig := { s.jig with cond := c } }
  else s

/-- The stroke values of the digital and logic outputs; off while ENABLE of the DIO block is 0 (R43, R218). -/
def takeStrokes (s : State) : State :=
  let on := s.enabled.contains .dio
  { s with dio := { s.dio with
    stroke := if on then maskOf ((List.range 32).map (outBit s 2)) else 0,
    lstroke := if on then maskOf ((List.range 8).map (outBit s 4)) else 0 } }

/-- The commands of the analog outputs; none while ENABLE of the AIO block is 0 (R43, R267). -/
def takeCommands (s : State) : State :=
  if s.enabled.contains .aio then
    (List.range 16).foldl (fun (s : State) n => if aioOut (aioCh s n).mode then aioApply n (outCommand s n) s else s) s
  else s

/-- The output instant: stroke values and conditions, staged writes, analog commands, markers; the drivers follow. A staged
write that makes the drivers follow at once finds the stroke values of this instant: no output changes twice (R248). -/
def edgeOutputs (x : EdgeIn) (s : State) : State :=
  let s := takeConditions (takeStrokes s)
  let s := s.dvt.applied.foldl (fun (s : State) p => applyStaged p.1 p.2.1.toNat s) s
  settleOutputs (canMarkers (rioMarkers x.delays (takeCommands s)))

/-! ### Edge s (R114, R130, R134, R294) -/

/-- A declared task passes to ARMED; on a cold or warm restart a cyclic task waits for its OFFSET. -/
def armTask (hot : Bool) (s : State) (r : Rec) : State :=
  let wait := if hot || tkEvent r then 0 else phaseWait s.stk.tn (max 1 (tkPeriod r)) (tkOffset r)
  let s := modTask (tkSlot r) (fun t => { t with st := .armed, due := s.stk.edges + wait }) s
  if s.stk.pools.getD (tkPool r - 1) 0 = 0 then stopTask (tkSlot r) s else s

/-- A loop slot's first catch. -/
def armLoop (hot : Bool) (s : State) (r : Rec) : State :=
  let wait := if hot then 0 else phaseWait s.stk.tn (max 1 (lpPeriod r)) (lpOffset r)
  modLoop (lpSlot r) (fun l => { l with first := true, due := s.stk.edges + wait }) s

/-- The first edge in RUN or DEGRADED: the journal of this run begins, whose strokes all run under the set in force (R505);
tasks, loop slots and stations are armed. -/
def beginRun (x : EdgeIn) (s : State) : State :=
  let hot := s.stk.rTaken = 2
  let s := { s with
    sys := { s.sys with bootTime := x.bootMs % 2 ^ 32, fromDebug := false }
    stk := { s.stk with start := some s.stk.edges }
    upd := { s.upd with switchEnd := some 0 }
    wke := { s.wke with ring := [], gap := false, bankA := { s.wke.bankA with old := true }, bankB := { s.wke.bankB with old := true } } }
  (remotes s.drw.image 1).foldl armStation
    ((loopRecs s.drw.image).foldl (armLoop hot) ((taskRecs s.drw.image).foldl (armTask hot) s))

/-! ### HOLD and DEBUG (R53 to R55, R130, R545, R546) -/

/-- A task passes to HALTED: its stroke ends and its write set is discarded, with LAST 6 for its group; observations are
kept (R130, R166). In HOLD a stroke that ends so has the HOLD marker as its LAST_KIND (R140). -/
def haltTask (hold : Bool) (s : State) (n : Nat) : State :=
  modTask n (fun t => match t.st with
    | .armed | .live =>
      { loseStrokeAs 6 t with st := .halted, stroke := none, lastKind := if hold && t.stroke.isSome then 5 else t.lastKind }
    | _ => t) (freeCores n s)

/-- The crew halts: tasks and cores. A core that replays a takeover or casts a vote stays powered. -/
def haltCrew (hold : Bool) (s : State) : State :=
  let s := (declaredSlots s).foldl (haltTask hold) s
  (List.range 16).foldl (fun (s : State) c => gateIdle c s) { s with cores := s.cores.map (fun c => { c with driving := none }) }

/-- RESUME, or the first step in DEBUG: every halted task may catch at this edge, and every loop slot does. -/
def resumeCrew (s : State) : State :=
  let e := s.stk.edges
  restartLoops e { s with stk := { s.stk with
    tasks := s.stk.tasks.map (fun t => if t.st = .halted then { t with st := .armed, due := e } else t) } }

/-- At an edge of DEBUG at which no step falls the schedule waits: every edge count to come moves on by one. -/
def shiftSchedule (s : State) : State :=
  { s with
    stk := { s.stk with tasks := s.stk.tasks.map (fun t => { t with
      due := t.due + 1, lastCatch := t.lastCatch + 1, replayRel := t.replayRel + 1,
      stroke := t.stroke.map (fun k => { k with relEdge := k.relEdge + 1 }) }) }
    lpe := { s.lpe with slots := s.lpe.slots.map (fun p => (p.1, { p.2 with due := p.2.due + 1, relEdge := p.2.relEdge + 1 })) } }

/-- HOLD is entered at this edge. -/
def enterHold (s : State) : State :=
  enterMode .hold (holdLoops (haltCrew true (modSys (fun x => { x with holdReq := false }) s)))

/-- DEBUG is entered at this edge: every crew core is held (R545). -/
def enterDebug (s : State) : State :=
  let s := abandonUpdate 3 (modSys (fun x => { x with holdReq := false, resumeReq := false, haltReq := false }) s)
  let s := enterMode .debug (if s.stk.start.isSome then debugLoops (haltCrew false s) else s)
  let s := (List.range 16).foldl (fun (s : State) c => holdFree c 5 s) s
  dbgEvent 0xF011 (s.stk.tn % 2 ^ 32) (modDbg (fun d => { d with firstStep := true }) s)

/-- A step begins: it is counted, and ends the holds of the entry (log entry 16). -/
def beginStep (s : State) : State :=
  let s := modDbg (fun d => { d with
    stepDue := false, stepBusy := true, steps := (d.steps + 1) % 2 ^ 24, firstStep := false,
    cores := d.cores.map (fun c => if c.held && c.cause = 5 then { c with held := false, cause := 0 } else c) }) s
  let s := (List.range 16).foldl (fun (s : State) c => gateIdle c s) s
  dbgEvent 0xF012 (bit s.dbg.freeze * 2 ^ 31 + s.dbg.steps) s

/-- MARK 0x03 of an edge in DEBUG (R551); the write that asked for the entry is not counted at the entry edge, as the
manual's example of that mark shows. -/
def debugMark (entered step : Bool) (s : State) : State :=
  let forces := s.dbg.forces.any (fun f => f.pt.testBit 31 || f.active.isSome)
  let arg := bit entered + 2 * bit step + 4 * bit forces + 8 * bit (s.dbg.wrote && !entered) + 16 * bit s.dbg.freeze
  let s := if arg = 0 then s else jMark 3 arg s
  modDbg (fun d => { d with wrote := false }) s

/-! ### The commit of an edge that enters HOLD (R53, R128) -/

/-- A task slot's part of that commit: no skip is recorded, the HOLD marker stands in its place. -/
def commitHold (s : State) (slot : Nat) : State :=
  let s := applySettled slot s
  match (task s slot).st, (task s slot).stroke with
  | .live, some k =>
    if k.relEdge ≠ s.stk.edges || s.wke.alone.contains slot then s
    else
      match classify s slot { k with copies := k.copies.filter (fun x => !x.shadow) } with
      | .skip _ => s
      | _ => releaseStroke slot k s
  | _, _ => s

/-! ### The edge -/

/-- The reset that waits for the close of a commit, if any: a service reset, a RELEASE during a step (R75, R552). -/
def resetDue (s : State) : Option Nat := if s.sys.resetReq then some 5 else if s.dbg.exitDue then some 6 else none

/-- What an edge does, settled before its commit (R51 to R55, R503, R507, R546). -/
structure EdgePlan where
  /-- a reset takes place at the close of the commit -/
  reset : Bool
  /-- the edge is s -/
  first : Bool
  /-- write sets commit -/
  commits : Bool
  /-- tasks and loop slots may catch -/
  catches : Bool
  hold : Bool
  debug : Bool
  resume : Bool
  step : Bool
  switch : Bool
  back : Bool

/-- Strokes and loop slots run in the mode. -/
def runs (m : Mode) : Bool := m = .run || m = .degraded

/-- The plan of the edge; `start` and TN are those of the edge already. -/
def edgePlan (s : State) : EdgePlan :=
  let free := !wkeBusy s
  let reset := (resetDue s).isSome
  let debug := !reset && s.sys.haltReq && free && (runs s.sys.mode || s.sys.mode = .hold)
  let hold := !reset && !debug && s.sys.holdReq && free && runs s.sys.mode
  let resume := !reset && !debug && s.sys.resumeReq && s.sys.mode = .hold
  let step := s.sys.mode = .debug && s.dbg.stepDue
  let first := runs s.sys.mode && s.stk.start.isNone
  { reset := reset, first := first, debug := debug, hold := hold, resume := resume, step := step,
    commits := (runs s.sys.mode && !first) || step, catches := (runs s.sys.mode && !debug && !hold) || resume || step,
    switch := runs s.sys.mode && !first && !reset && !debug && !hold && switchNow s,
    back := runs s.sys.mode && !reset && s.upd.back.isSome }

/-- The changes of mode that take effect as the edge falls: RESUME, and those of SYS_REPLACE unless a reset or a move to
HOLD or DEBUG overtakes them (R51, R52, R54). -/
def edgeMode (p : EdgePlan) (s : State) : State :=
  let on := if s.sys.replace = 0 then Mode.run else Mode.degraded
  if p.resume then resumeCrew (jMark 2 0 (enterMode on (modSys (fun x => { x with resumeReq := false }) s)))
  else if runs s.sys.mode && s.sys.mode ≠ on && !p.reset && !p.hold && !p.debug then enterMode on s
  else s

/-- What precedes the commit: edge s, the step, the marks of the record. -/
def edgeBegin (x : EdgeIn) (p : EdgePlan) (s : State) : State :=
  let s := edgeMode p s
  let s := if p.first then beginRun x s else s
  let s := if s.sys.mode = .debug && !p.step then shiftSchedule s else s
  let s := if p.step then beginStep (if s.dbg.firstStep then resumeCrew s else s) else s
  let s := if p.hold then jMark 1 0 s else s
  let s := if p.debug || s.sys.mode = .debug then debugMark p.debug p.step s else s
  let s := if p.switch then jMark 8 0 s else s
  if p.back then jMark 9 0 s else s

/-- The commit and the close of the record (R153, R172, R182). A core that a release frees dispatches at once, before the
catches (R585). -/
def edgeCommit (x : EdgeIn) (p : EdgePlan) (s : State) : State :=
  let s := openRecord (!tickLocked s) s
  let s := if p.commits then (commitOrder s).foldl (if p.hold then commitHold else commitSlot) s else s
  let s := if p.commits && s.enabled.contains .lpe then commitLoops s else s
  let s := closeRecord s
  let s := if p.commits && !(p.hold || p.debug || p.reset) then dispatchAll s else s
  { s with dvt := { s.dvt with commitLast := x.commitNs % 2 ^ 32, commitMax := max s.dvt.commitMax (x.commitNs % 2 ^ 32) } }

/-- A checkpoint at s + nN, or at the first edge at which the writer is free; none in DEBUG (R186, R551). -/
def edgeCheckpoint (s : State) : State :=
  if s.sys.mode = .debug then s
  else
    let due := s.stk.start.any (fun e => (s.stk.edges - e) % (s.wke.interval * 4) = 0)
    if (due || s.wke.ckptDue) && s.wke.writing.isNone then ckptStart s
    else if due then { s with wke := { s.wke with ckptDue := true } }
    else s

/-- A task whose turn it is catches, and takes the set its update gives it (R112, R503). -/
def catchNote (s : State) (n : Nat) : State :=
  let t := catchDue s n
  if (task t n).st = .live && (task t n).lastCatch = s.stk.edges && (task s n).st = .armed then noteCatch n t else t

/-- A core that has not left gating at a catch it serves is a core that fails, kind 1 (R66, R190). -/
def wakeCheck (s : State) (c : Nat) : State :=
  let serves := s.stk.tasks.any (fun t => t.stroke.elim false (fun k => k.catchEdge = s.stk.edges && (copyOn k c).isSome))
  if serves && !coreHeld s c && (s.cores.getD c {}).driving.isNone then failCore c 1 s else s

/-- The catch instant: tasks, loop slots (none while ENABLE of the LPE block is 0, R43), dispatch; a core without a use
enters gating. -/
def edgeCatch (x : EdgeIn) (s : State) : State :=
  let s := (declaredSlots s).foldl leaveReplay (shadowStart s)
  let s := (declaredSlots s).foldl catchNote s
  let s := (x.wakeFail.map (·.val)).mergeSort.foldl wakeCheck s
  let s := if s.enabled.contains .lpe then evalLoops s.dvt.latest s.stk.tn s.stk.edges s else idleLoops s
  (List.range 16).foldl (fun (s : State) c => gateIdle c s) (dispatchAll s)

/-- Records closed two edges ago reach the ring at the latest now (R182). -/
def edgeRing (s : State) : State :=
  s.wke.buffer.foldl (fun (s : State) r => if r.edge + 2 ≤ s.stk.edges then ringWrite s else s) s

/-- What the update does at an edge after the commit has closed (R502 to R507). -/
def edgeUpdate (p : EdgePlan) (s : State) : State :=
  let s := if p.back then doRollback s else s
  if p.switch then doSwitch s else s

/-- The close of the commit: the seal, observations, the move to HOLD or DEBUG (R28, R53, R55, R116). -/
def edgeSeal (p : EdgePlan) (s : State) : State :=
  let old := s.dvt.latest
  let s := sealVersion (if s.sys.mode = .debug then applyForces s else s)
  let s := (declaredSlots s).foldl (observe old) s
  if p.hold then enterHold s else if p.debug then enterDebug s else s

/-- The outputs and the catches (R28). The watch of an update counts the edges after *H*, or after s (R506, R509). -/
def edgeAfter (x : EdgeIn) (p : EdgePlan) (s : State) : State :=
  let s := noteVstore (edgeCheckpoint (edgeOutputs x s))
  let s := edgeUpdate p s
  if s.sys.boot ≠ .loaded then s
  else
    let s := if p.catches then edgeCatch x s else idleLoops s
    let s := switchEnds (shadowEdge s)
    deferFail (if p.switch || p.first then s else watchEdge s)

/-- The edge instant: the latches, remote deadlines, changes of mode (R28). -/
def edgeLatch (x : EdgeIn) (s : State) : State :=
  let e := s.stk.edges
  let s := if s.dbg.freeze then s else rioDeadlines e s
  aioLatch s.stk.tn e x.conv (diLatch s)

/-- An edge with an image in force in RUN, DEGRADED, HOLD or DEBUG. What falls at one instant of R28 is one clock cycle of
the recorder (DEDUCED, log entry 12). -/
def edgeRun (x : EdgeIn) (s : State) : State :=
  let p := edgePlan s
  let ended := aioEnded s.stk.tn s.stk.edges s
  let s := sameCycle (fun s => edgeBegin x p (edgeLatch x s)) s
  let s := sameCycle (fun s => edgeCommit x p (edgeInputs p.first ended s)) s
  match resetDue s with
  | some c => assertReset c s
  | none =>
    let s := sameCycle (edgeAfter x p) (sameCycle (edgeSeal p) s)
    if s.sys.boot ≠ .loaded then s else edgeRing (stepCheck s)

/-- An edge in RIGGING, or without an image in force: time passes. The probe's halt takes effect, and in DEBUG a step is
taken, and the record of the edge is written, with its mark (R51, R55, R182, R545, R546, R551). In HOLD that tamper has
entered at start-up the boot has stopped, and no record is written (DEDUCED, log entry 8). -/
def edgeIdle (s : State) : State :=
  let entered := s.sys.haltReq && s.sys.mode ≠ .debug
  let step := s.sys.mode = .debug && s.dbg.stepDue
  if !entered && s.sys.mode ≠ .debug then s
  else
    let s := if step then beginStep s else s
    let s := closeRecord (openRecord (!tickLocked s) (debugMark entered step s))
    match resetDue s with
    | some c => assertReset c s
    | none => edgeRing (stepCheck (if entered then enterDebug s else s))

/-- `TICK_EDGE`. Edges fall from the lock of the PLL on (R391). -/
def execTickEdge (x : EdgeIn) (s : State) : Host.Outcome State Fault Refusal :=
  if s.sys.boot = .off || s.sys.boot = .held || s.sys.boot = .released then .next s
  else
    let s := jigSample (edgeMeasure x (edgeTime s))
    let s := if s.drw.load = 2 && s.sys.mode ≠ .rigging then edgeRun x s else edgeIdle s
    .next (if s.sys.boot = .held then s else drainBuffer s)

end Sys2Proof.Machine
end

