-- ==== Sys2Proof/Machine/Dispatch.lean ====
section
/-! DEFINITION. The dispatch: one arm per command, each a direct call of its meaning. -/
namespace Sys2Proof.Machine

/-- The effect of a command on everything but the queue of waiting commands. -/
def exec (i : Instr) (s : State) : Host.Outcome State Fault Refusal :=
  match i with
  | .vsysArrives => Sys2Proof.Machine.execVsysArrives s
  | .resetRelease lost torn => Sys2Proof.Machine.execResetRelease lost torn s
  | .jigConfigRead flips => Sys2Proof.Machine.execJigConfigRead flips s
  | .pllLocked => Sys2Proof.Machine.execPllLocked s
  | .bootSelfTestDone failedCores nandWorn => Sys2Proof.Machine.execBootSelfTestDone failedCores nandWorn s
  | .carcassLoadDone journalTorn jigReadbackOk retainBad hot => Sys2Proof.Machine.execCarcassLoadDone journalTorn jigReadbackOk retainBad hot s
  | .powerFailWarning vsys => Sys2Proof.Machine.execPowerFailWarning vsys s
  | .nandPageDonePause => Sys2Proof.Machine.execNandPageDonePause s
  | .braceFlushDone => Sys2Proof.Machine.execBraceFlushDone s
  | .warningReleaseCrossing => Sys2Proof.Machine.execWarningReleaseCrossing s
  | .braceEnd units lowest => Sys2Proof.Machine.execBraceEnd units lowest s
  | .braceLong lowest => Sys2Proof.Machine.execBraceLong lowest s
  | .vsysResetThreshold => Sys2Proof.Machine.execVsysResetThreshold s
  | .coxLockstepMismatch => Sys2Proof.Machine.execCoxLockstepMismatch s
  | .coxWatchdogExpiry => Sys2Proof.Machine.execCoxWatchdogExpiry s
  | .pllLoss => Sys2Proof.Machine.execPllLoss s
  | .serviceReset v => Sys2Proof.Machine.execServiceReset v s
  | .holdRequest key => Sys2Proof.Machine.execHoldRequest key s
  | .resumeRequest key => Sys2Proof.Machine.execResumeRequest key s
  | .eccCorrectedError => Sys2Proof.Machine.execEccCorrectedError s
  | .linkDownTimeout port => Sys2Proof.Machine.execLinkDownTimeout port s
  | .linkDownClear => Sys2Proof.Machine.execLinkDownClear s
  | .vbakLowCrossing => Sys2Proof.Machine.execVbakLowCrossing s
  | .vbakLowRelease => Sys2Proof.Machine.execVbakLowRelease s
  | .fireWindowSet temp => Sys2Proof.Machine.execFireWindowSet temp s
  | .fireWindowClear temp => Sys2Proof.Machine.execFireWindowClear temp s
  | .fireWindowOvertemp temp => Sys2Proof.Machine.execFireWindowOvertemp temp s
  | .fireWindowTimeLimit temp => Sys2Proof.Machine.execFireWindowTimeLimit temp s
  | .tempExcursion temp => Sys2Proof.Machine.execTempExcursion temp s
  | .tempExcursionEnd => Sys2Proof.Machine.execTempExcursionEnd s
  | .coreWake core => Sys2Proof.Machine.execCoreWake core s
  | .tickEdge x => Sys2Proof.Machine.execTickEdge x s
  | .strokeReturn core driveUs work wrote => Sys2Proof.Machine.execStrokeReturn core driveUs work wrote s
  | .budgetExhausted core => Sys2Proof.Machine.execBudgetExhausted core s
  | .writeViewWrite core point off bs => Sys2Proof.Machine.execWriteViewWrite core point off bs s
  | .send core dest payload => Sys2Proof.Machine.execSend core dest payload s
  | .receive core => Sys2Proof.Machine.execReceive core s
  | .inboxCount core => Sys2Proof.Machine.execInboxCount core s
  | .writeStatus core => Sys2Proof.Machine.execWriteStatus core s
  | .strokeInfo core => Sys2Proof.Machine.execStrokeInfo core s
  | .groupOpen core v => Sys2Proof.Machine.execGroupOpen core v s
  | .groupCommit core v => Sys2Proof.Machine.execGroupCommit core v s
  | .groupAbort core v => Sys2Proof.Machine.execGroupAbort core v s
  | .stagedWrite by_ addr v => Sys2Proof.Machine.execStagedWrite by_ addr v s
  | .edgeDigestLatch => Sys2Proof.Machine.execEdgeDigestLatch s
  | .tnLatch => Sys2Proof.Machine.execTnLatch s
  | .journalRecordWrite => Sys2Proof.Machine.execJournalRecordWrite s
  | .checkpointComplete duration failAt => Sys2Proof.Machine.execCheckpointComplete duration failAt s
  | .coreHang core => Sys2Proof.Machine.execCoreHang core s
  | .coreCacheEcc core => Sys2Proof.Machine.execCoreCacheEcc core s
  | .coreMachineCheck core => Sys2Proof.Machine.execCoreMachineCheck core s
  | .takeoverCopiesLoaded seat us => Sys2Proof.Machine.execTakeoverCopiesLoaded seat us s
  | .replayStrokeDone seat slot tn x us => Sys2Proof.Machine.execReplayStrokeDone seat slot tn x us s
  | .memoryUncorrectable hit page => Sys2Proof.Machine.execMemoryUncorrectable hit page s
  | .settlementDone slot matched us => Sys2Proof.Machine.execSettlementDone slot matched us s
  | .seatSelfTest seat => Sys2Proof.Machine.execSeatSelfTest seat s
  | .seatSelfTestDone seat passed => Sys2Proof.Machine.execSeatSelfTestDone seat passed s
  | .diCouplerChange input level => Sys2Proof.Machine.execDiCouplerChange input level s
  | .jigScrub mram matrix => Sys2Proof.Machine.execJigScrub mram matrix s
  | .jigCopyAdopt => Sys2Proof.Machine.execJigCopyAdopt s
  | .jigLatchClr v => Sys2Proof.Machine.execJigLatchClr v s
  | .diFilterSettled input => Sys2Proof.Machine.execDiFilterSettled input s
  | .wireOpen input current => Sys2Proof.Machine.execWireOpen input current s
  | .wireIntact input current => Sys2Proof.Machine.execWireIntact input current s
  | .doOverload output currentMa => Sys2Proof.Machine.execDoOverload output currentMa s
  | .doOverloadClear output => Sys2Proof.Machine.execDoOverloadClear output s
  | .doThermalShutdown output => Sys2Proof.Machine.execDoThermalShutdown output s
  | .doThermalRetry output => Sys2Proof.Machine.execDoThermalRetry output s
  | .doRetriesReset output => Sys2Proof.Machine.execDoRetriesReset output s
  | .doOpenLoadOn output => Sys2Proof.Machine.execDoOpenLoadOn output s
  | .doOpenLoadOff output => Sys2Proof.Machine.execDoOpenLoadOff output s
  | .doOpenLoadClear output => Sys2Proof.Machine.execDoOpenLoadClear output s
  | .doExtDriveOff output => Sys2Proof.Machine.execDoExtDriveOff output s
  | .doExtDriveReverse output => Sys2Proof.Machine.execDoExtDriveReverse output s
  | .doExtDriveClear output => Sys2Proof.Machine.execDoExtDriveClear output s
  | .doDiagBlankEnd output => Sys2Proof.Machine.execDoDiagBlankEnd output s
  | .groupTrip group current => Sys2Proof.Machine.execGroupTrip group current s
  | .groupTripRetry group => Sys2Proof.Machine.execGroupTripRetry group s
  | .groupTripRetriesReset group => Sys2Proof.Machine.execGroupTripRetriesReset group s
  | .groupLowWarning group volts => Sys2Proof.Machine.execGroupLowWarning group volts s
  | .groupLowRelease group volts => Sys2Proof.Machine.execGroupLowRelease group volts s
  | .groupUnpowered group volts => Sys2Proof.Machine.execGroupUnpowered group volts s
  | .groupPoweredAgain group volts => Sys2Proof.Machine.execGroupPoweredAgain group volts s
  | .doChannelClear output v cooled => Sys2Proof.Machine.execDoChannelClear output v cooled s
  | .doGroupClear v => Sys2Proof.Machine.execDoGroupClear v s
  | .doReset drawer output cooled => Sys2Proof.Machine.execDoReset drawer output cooled s
  | .referenceCheck channel passed => Sys2Proof.Machine.execReferenceCheck channel passed s
  | .aoOverload channel => Sys2Proof.Machine.execAoOverload channel s
  | .aoOverloadClear channel => Sys2Proof.Machine.execAoOverloadClear channel s
  | .aoOpenLoop channel => Sys2Proof.Machine.execAoOpenLoop channel s
  | .aoOpenLoopClear channel => Sys2Proof.Machine.execAoOpenLoopClear channel s
  | .markerAbandon medium => Sys2Proof.Machine.execMarkerAbandon medium s
  | .replyReceive medium id payload stamp => Sys2Proof.Machine.execReplyReceive medium id payload stamp s
  | .replyDeadline medium station => Sys2Proof.Machine.execReplyDeadline medium station s
  | .canTxRequest channel bufs => Sys2Proof.Machine.execCanTxRequest channel bufs s
  | .canTxCancel channel bufs => Sys2Proof.Machine.execCanTxCancel channel bufs s
  | .canSend core channel buffer id ctrl data => Sys2Proof.Machine.execCanSend core channel buffer id ctrl data s
  | .canReceive core channel queue => Sys2Proof.Machine.execCanReceive core channel queue s
  | .canTxStart channel => Sys2Proof.Machine.execCanTxStart channel s
  | .canArbitrationLost channel => Sys2Proof.Machine.execCanArbitrationLost channel s
  | .canTxEnd channel error stamp => Sys2Proof.Machine.execCanTxEnd channel error stamp s
  | .canRecover channel v => Sys2Proof.Machine.execCanRecover channel v s
  | .canBusOffLeft channel => Sys2Proof.Machine.execCanBusOffLeft channel s
  | .canFrameReceive channel frame stamp => Sys2Proof.Machine.execCanFrameReceive channel frame stamp s
  | .canProtocolException channel => Sys2Proof.Machine.execCanProtocolException channel s
  | .canRxqLock channel queue by_ => Sys2Proof.Machine.execCanRxqLock channel queue by_ s
  | .canRxqPop channel queue => Sys2Proof.Machine.execCanRxqPop channel queue s
  | .canRxqRelease channel queue => Sys2Proof.Machine.execCanRxqRelease channel queue s
  | .canErrRead channel => Sys2Proof.Machine.execCanErrRead channel s
  | .macRingRun mac queue idx log2 => Sys2Proof.Machine.execMacRingRun mac queue idx log2 s
  | .macRingStop mac queue idx => Sys2Proof.Machine.execMacRingStop mac queue idx s
  | .macTailWrite mac queue idx v => Sys2Proof.Machine.execMacTailWrite mac queue idx v s
  | .ethSend core mac buf len => Sys2Proof.Machine.execEthSend core mac buf len s
  | .ethReceive core mac queue => Sys2Proof.Machine.execEthReceive core mac queue s
  | .macTxStart mac => Sys2Proof.Machine.execMacTxStart mac s
  | .macTxComplete mac stamp => Sys2Proof.Machine.execMacTxComplete mac stamp s
  | .macCollision mac => Sys2Proof.Machine.execMacCollision mac s
  | .macLateCollision mac => Sys2Proof.Machine.execMacLateCollision mac s
  | .macBackoffExpiry mac => Sys2Proof.Machine.execMacBackoffExpiry mac s
  | .plcaCycleStart mac leftNs => Sys2Proof.Machine.execPlcaCycleStart mac leftNs s
  | .plcaCycleEnd mac leftNs => Sys2Proof.Machine.execPlcaCycleEnd mac leftNs s
  | .macFrameReceive mac rx => Sys2Proof.Machine.execMacFrameReceive mac rx s
  | .pauseExpiry mac => Sys2Proof.Machine.execPauseExpiry mac s
  | .xoffSend mac fill => Sys2Proof.Machine.execXoffSend mac fill s
  | .xoffRepeat mac fill => Sys2Proof.Machine.execXoffRepeat mac fill s
  | .xonSend mac fill => Sys2Proof.Machine.execXonSend mac fill s
  | .macLinkUp mac gigabit => Sys2Proof.Machine.execMacLinkUp mac gigabit s
  | .macLinkDown mac => Sys2Proof.Machine.execMacLinkDown mac s
  | .macLinkRefused mac => Sys2Proof.Machine.execMacLinkRefused mac s
  | .macRenegotiate mac => Sys2Proof.Machine.execMacRenegotiate mac s
  | .ptpMessageReceive port msg => Sys2Proof.Machine.execPtpMessageReceive port msg s
  | .announceTimeout port roles => Sys2Proof.Machine.execAnnounceTimeout port roles s
  | .syncTimeout => Sys2Proof.Machine.execSyncTimeout s
  | .holdoverExpiry => Sys2Proof.Machine.execHoldoverExpiry s
  | .ptpMessageSend port kind => Sys2Proof.Machine.execPtpMessageSend port kind s
  | .tsqHeadRead mac => Sys2Proof.Machine.execTsqHeadRead mac s
  | .tsqEntryExpiry mac => Sys2Proof.Machine.execTsqEntryExpiry mac s
  | .rtcSecond vbak => Sys2Proof.Machine.execRtcSecond vbak s
  | .rtcSetNextEdge key => Sys2Proof.Machine.execRtcSetNextEdge key s
  | .rtcSetImmediate key by_ => Sys2Proof.Machine.execRtcSetImmediate key by_ s
  | .rtcSetCancel key => Sys2Proof.Machine.execRtcSetCancel key s
  | .rtcSet core set0 set1 => Sys2Proof.Machine.execRtcSet core set0 set1 s
  | .rtcNow core => Sys2Proof.Machine.execRtcNow core s
  | .rtcTimeLatch subsec => Sys2Proof.Machine.execRtcTimeLatch subsec s
  | .rtcTrimCheck utc diff => Sys2Proof.Machine.execRtcTrimCheck utc diff s
  | .rtcTrimStep => Sys2Proof.Machine.execRtcTrimStep s
  | .oscStop => Sys2Proof.Machine.execOscStop s
  | .backupDomainReset => Sys2Proof.Machine.execBackupDomainReset s
  | .backupFeedSwitch toVbak => Sys2Proof.Machine.execBackupFeedSwitch toVbak s
  | .eventOccurrence code block unit drawer detail => Sys2Proof.Machine.execEventOccurrence code block unit drawer detail s
  | .batchMoveDone => Sys2Proof.Machine.execBatchMoveDone s
  | .eventBufferEmpty => Sys2Proof.Machine.execEventBufferEmpty s
  | .headClose => Sys2Proof.Machine.execHeadClose s
  | .tokenGain code => Sys2Proof.Machine.execTokenGain code s
  | .opTimeSave => Sys2Proof.Machine.execOpTimeSave s
  | .eventWindowLatch => Sys2Proof.Machine.execEventWindowLatch s
  | .eventCursorWrite cursor v => Sys2Proof.Machine.execEventCursorWrite cursor v s
  | .evrClear v => Sys2Proof.Machine.execEvrClear v s
  | .eventClear core => Sys2Proof.Machine.execEventClear core s
  | .eventRead core => Sys2Proof.Machine.execEventRead core s
  | .eventSeek core recno => Sys2Proof.Machine.execEventSeek core recno s
  | .eventNext core => Sys2Proof.Machine.execEventNext core s
  | .cvuCfgWrite unit v => Sys2Proof.Machine.execCvuCfgWrite unit v s
  | .cvuFeedStart unit => Sys2Proof.Machine.execCvuFeedStart unit s
  | .cvuData8 unit v => Sys2Proof.Machine.execCvuData8 unit v s
  | .cvuData16 unit v => Sys2Proof.Machine.execCvuData16 unit v s
  | .cvuData32 unit v => Sys2Proof.Machine.execCvuData32 unit v s
  | .cvuResultRead unit count => Sys2Proof.Machine.execCvuResultRead unit count s
  | .cvuComputeJob unit => Sys2Proof.Machine.execCvuComputeJob unit s
  | .cvuAppendJob unit => Sys2Proof.Machine.execCvuAppendJob unit s
  | .cvuStripJob unit => Sys2Proof.Machine.execCvuStripJob unit s
  | .cvuJobDone unit => Sys2Proof.Machine.execCvuJobDone unit s
  | .crcBlock core unit poly mode src dst len => Sys2Proof.Machine.execCrcBlock core unit poly mode src dst len s
  | .attestCommand rsp nonce => Sys2Proof.Machine.execAttestCommand rsp nonce s
  | .lcAdvance target cert sig => Sys2Proof.Machine.execLcAdvance target cert sig s
  | .enrol slot key sig => Sys2Proof.Machine.execEnrol slot key sig s
  | .invalidateBranch drawer => Sys2Proof.Machine.execInvalidateBranch drawer s
  | .tamperClear sig => Sys2Proof.Machine.execTamperClear sig s
  | .rootRestore sig => Sys2Proof.Machine.execRootRestore sig s
  | .fuseProgrammed => Sys2Proof.Machine.execFuseProgrammed s
  | .keyRequestDone => Sys2Proof.Machine.execKeyRequestDone s
  | .keyBranch core => Sys2Proof.Machine.execKeyBranch core s
  | .keyDerive core parent label => Sys2Proof.Machine.execKeyDerive core parent label s
  | .keyDigest core h data => Sys2Proof.Machine.execKeyDigest core h data s
  | .keySign core h data => Sys2Proof.Machine.execKeySign core h data s
  | .keyPublic core h => Sys2Proof.Machine.execKeyPublic core h s
  | .keyInvalidate core h => Sys2Proof.Machine.execKeyInvalidate core h s
  | .random core buf n => Sys2Proof.Machine.execRandom core buf n s
  | .attest core nonce => Sys2Proof.Machine.execAttest core nonce s
  | .keyRemask => Sys2Proof.Machine.execKeyRemask s
  | .rngHealthFail proportion => Sys2Proof.Machine.execRngHealthFail proportion s
  | .rngSelfTest passed => Sys2Proof.Machine.execRngSelfTest passed s
  | .keyRngRead => Sys2Proof.Machine.execKeyRngRead s
  | .tamperSample ohms => Sys2Proof.Machine.execTamperSample ohms s
  | .stageOpen by_ => Sys2Proof.Machine.execStageOpen s by_
  | .xfer by_ => Sys2Proof.Machine.execXfer by_ s
  | .xferDone => Sys2Proof.Machine.execXferDone s
  | .xferData v => Sys2Proof.Machine.execXferData v s
  | .verify by_ => Sys2Proof.Machine.execVerify s by_
  | .verifyDone => Sys2Proof.Machine.execVerifyDone s
  | .start by_ => Sys2Proof.Machine.execStart s by_
  | .abandon => Sys2Proof.Machine.execAbandon s
  | .rollback by_ => Sys2Proof.Machine.execRollback s by_
  | .lock by_ => Sys2Proof.Machine.execLock by_ s
  | .shadowCoverageTimeout => Sys2Proof.Machine.execShadowCoverageTimeout s
  | .switchDeferTimeout => Sys2Proof.Machine.execSwitchDeferTimeout s
  | .watchComplete => Sys2Proof.Machine.execWatchComplete s
  | .marzinAlign h a => Sys2Proof.Machine.execMarzinAlign h a s
  | .marzinDirectory h d => Sys2Proof.Machine.execMarzinDirectory h d s
  | .marzinEventFwd h rec_ recno => Sys2Proof.Machine.execMarzinEventFwd h rec_ recno s
  | .marzinAttest h a => Sys2Proof.Machine.execMarzinAttest h a s
  | .marzinUpdateOrch h o => Sys2Proof.Machine.execMarzinUpdateOrch h o s
  | .marzinCause h applyTn entries => Sys2Proof.Machine.execMarzinCause h applyTn entries s
  | .marzinNotice h kind value => Sys2Proof.Machine.execMarzinNotice h kind value s
  | .marzinAck h cls seq status => Sys2Proof.Machine.execMarzinAck h cls seq status s
  | .marzinResend peer seq => Sys2Proof.Machine.execMarzinResend peer seq s
  | .alignHeartbeat => Sys2Proof.Machine.execAlignHeartbeat s
  | .parentLost => Sys2Proof.Machine.execParentLost s
  | .childLost node => Sys2Proof.Machine.execChildLost node s
  | .rejoin => Sys2Proof.Machine.execRejoin s
  | .arbiterServe ingress => Sys2Proof.Machine.execArbiterServe ingress s
  | .sourceExpiry ingress origin drawer => Sys2Proof.Machine.execSourceExpiry ingress origin drawer s
  | .dirRead core node point => Sys2Proof.Machine.execDirRead core node point s
  | .tagWrite core offset data => Sys2Proof.Machine.execTagWrite core offset data s
  | .tapExtest pins shiftIn => Sys2Proof.Machine.execTapExtest pins shiftIn s
  | .tapIdcode => Sys2Proof.Machine.execTapIdcode s
  | .tapSamplePreload pins shiftIn => Sys2Proof.Machine.execTapSamplePreload pins shiftIn s
  | .tapBypass => Sys2Proof.Machine.execTapBypass s
  | .svcacc write addr v => Sys2Proof.Machine.execSvcacc write addr v s
  | .presentToken => Sys2Proof.Machine.execPresentToken s
  | .clearToken => Sys2Proof.Machine.execClearToken s
  | .dbgTokenWrite v => Sys2Proof.Machine.execDbgTokenWrite v s
  | .enable => Sys2Proof.Machine.execEnable s
  | .halt => Sys2Proof.Machine.execHalt s
  | .tickStep => Sys2Proof.Machine.execTickStep s
  | .tickStepFrozen => Sys2Proof.Machine.execTickStepFrozen s
  | .stepEnd => Sys2Proof.Machine.execStepEnd s
  | .release => Sys2Proof.Machine.execRelease s
  | .dbgTagWrite v => Sys2Proof.Machine.execDbgTagWrite v s
  | .coreHalt core pc regs => Sys2Proof.Machine.execCoreHalt core pc regs s
  | .coreRun core => Sys2Proof.Machine.execCoreRun core s
  | .coreStep core pc regs => Sys2Proof.Machine.execCoreStep core pc regs s
  | .breakpointHit core index pc regs => Sys2Proof.Machine.execBreakpointHit core index pc regs s
  | .watchpointHit core index addr write pc regs => Sys2Proof.Machine.execWatchpointHit core index addr write pc regs s
  | .forceEntryWrite entry word v => Sys2Proof.Machine.execForceEntryWrite entry word v s
  | .probeIdleTimeout => Sys2Proof.Machine.execProbeIdleTimeout s
  | .trstNLow => Sys2Proof.Machine.execTrstNLow s
  | .accessRefused by_ kind addr => Sys2Proof.Machine.execAccessRefused by_ kind addr s
  | .accessOutOfRange by_ write addr => Sys2Proof.Machine.execAccessOutOfRange by_ write addr s
  | .registerWrite by_ addr v => Sys2Proof.Machine.execRegisterWrite by_ addr v s
  | .backupDomainValid => Sys2Proof.Machine.execBackupDomainValid s
  | .busIntegrationDone channel => Sys2Proof.Machine.execBusIntegrationDone channel s
  | .canRxError channel error heavy => Sys2Proof.Machine.execCanRxError channel error heavy s
  | .plcaConflictTimeout mac => Sys2Proof.Machine.execPlcaConflictTimeout mac s
  | .reverseBlockEnd output => Sys2Proof.Machine.execReverseBlockEnd output s

end Sys2Proof.Machine
end

