-- ==== Sys2Proof/Machine/Pins.lean ====
section
/-! DEFINITION. What the panel sees of the module: the output contacts of its supervisors, the replace LED, the keeper
pull-downs, and the power domains (R37, R50, R57, R58, R60, R241, R561, R568, R572, R589). -/
namespace Sys2Proof.Machine

/-- The level at an output contact that the module drives; `released` where it does not drive it (R561, R568). -/
inductive Level where
  | low | high | released
  deriving DecidableEq, Repr

/-- A push-pull output with a level (R568). -/
def pushPull (high : Bool) : Level := if high then .high else .low

/-- An open-drain output with a level: it conducts to GND, or is open (R568). -/
def openDrain (low : Bool) : Level := if low then .low else .released

/-- A logic contact of J2 as its block drives it, or under EXTEST as its cell of the boundary register holds it: 1 is
the high level, open for an open-drain output (R538; DEDUCED, log entry 16). Nothing is driven unpowered or in reset
(R561). -/
def logicPin (n : Nat) (drain own : Bool) (s : State) : Level :=
  if !driving s then .released
  else
    let high := if s.dbg.ir = 0 then s.dbg.boundary.testBit (Config.boundaryCell n) else own
    if drain then openDrain (!high) else pushPull high

/-- LOGIC_OUTn: it conducts while its driver command is 1 (R218, R568). -/
def logicOut (n : Fin 8) (s : State) : Level := logicPin n.val true (!s.dio.lcmd.testBit n.val) s

/-- REPLACE_N: active, low, while any cause bit of SYS_REPLACE is set, in every mode except DORMANT and reset; an open-drain
output, so not driven otherwise (R57, R568). -/
def replaceN (s : State) : Level := logicPin 8 true (s.sys.replace = 0) s

/-- The replace LED: lit while REPLACE_N is active (R57, R572). EXTEST drives the contact, not the LED. -/
def replaceLed (s : State) : Bool := driving s && s.sys.replace ≠ 0

/-- PFW_N: low while the power-fail warning is asserted (R59, R60, R589). -/
def pfwN (s : State) : Level := logicPin 10 false (!s.sys.pfw) s

/-- HEALTHY: high in RUN alone (R50). It is driven from the entry into RIGGING, at PLL lock, on (DEDUCED, log entry 30). -/
def healthy (s : State) : Level :=
  if s.sys.boot = .released && s.dbg.ir ≠ 0 then .released else logicPin 9 false (s.sys.mode = .run) s

/-- The contact FLT_NO–FLT_COM is closed: in RUN and DEGRADED (R50). -/
def fltClosed (s : State) : Bool := driving s && (s.sys.mode = .run || s.sys.mode = .degraded)

/-- SYNC_OUT (R397, R561). -/
def syncOutPin (s : State) : Level := logicPin 11 false s.ptp.syncOut s

/-- TDO while the TAP shifts a bit out; open unpowered and in reset (R561), and while nothing is shifted (IEEE 1149.1). -/
def tdoPin (shifting : Option Bool) (s : State) : Level := if driving s then shifting.elim .released pushPull else .released

/-- The keeper pull-down of an output acts: from the end of carcass load until the next reset, while its KEEPER is 1
(R241). -/
def keeperActs (s : State) (n : Nat) : Bool := s.sys.boot = .loaded && (doCh s n).cfg.testBit 2

/-- VBAK is charged from the main feed (R414). -/
def chargesVbak (s : State) : Bool := s.rtc.charge && s.sys.boot ≠ .off

/-- The power domains (R37). -/
inductive Domain where
  | bak | safe
  | field (group : Fin 4)
  | sup | key | store
  | four (k : Fin 4)
  | loop | net | ana
  deriving DecidableEq, Repr

/-- A power domain is on (R37): a field group as supplied, a four while one of its cores is in use, the loop engine as the
mode asks. -/
def domainPowered (d : Domain) (s : State) : Bool :=
  match d with
  | .bak => s.rtc.valid
  | .safe => s.sys.boot ≠ .off
  | .field g => s.sys.boot ≠ .off && !(grp s g.val).unpowered
  | .sup | .key | .store | .net | .ana => driving s
  | .four k => driving s && ((s.cores.drop (4 * k.val)).take 4).any (·.powered)
  | .loop =>
    driving s && (s.sys.mode = .debug || ((s.sys.mode = .run || s.sys.mode = .degraded) && s.declared.contains .lpe))

end Sys2Proof.Machine
end

