-- ==== Sys2Proof/Safety.lean ====
section
/-! DEFINITION. What counts as a sound state: the invariants that every step keeps. -/
namespace Sys2Proof.Machine

/-- The memory is in its canonical form (R22, log entry 3). -/
def State.Sound (s : State) : Prop := Memory.wf s.mem

end Sys2Proof.Machine
end

