-- ==== Sys2Proof/Certificates/Slice0/Obligations.lean ====
section
/-! DEFINITION. The obligations: statements about the commands and about the whole machine, for the provers. A command's
next state is written with the fields it changes; `raise` is the recorder's entry of an event, with a statement of its
own. -/
open Sys2Proof Sys2Proof.Machine

/-! ### Supplies, start-up, resets, mode requests (R49 to R77) -/

/-- From power-up to the self-test's end (R46, R64, R65, R225, R428). -/
def Obligations.PowerUpStages : Prop :=
  (∀ s : State, s.sys.boot = .off →
    exec .vsysArrives s = .next { s with
      sys := { s.sys with boot := .held, mode := .rigging, prev := .dormant, pfw := true } }) ∧
  (∀ (lost : ReleaseIn) (torn : Bool) (s : State), s.sys.boot = .held →
    ∃ t, exec (.resetRelease lost torn) s = .next t ∧ t.sys.boot = .released ∧
      t.evr.cycles = (s.evr.cycles + 1) % 2 ^ 32 ∧ t.evr.opTime = s.evr.opSaved + 1024 ∧
      t.key.lc = lcOf s.key.fuses ∧ t.key.fuses = s.key.fuses ∧ t.mem = s.mem ∧ t.stk = s.stk ∧ t.wke = s.wke) ∧
  (∀ (flips : List (Nat × Byte)) (s : State), s.sys.boot ≠ .off → s.jig.readDue = true →
    let c := jigCopy (spoilCopy flips s.jig)
    ∃ t, exec (.jigConfigRead flips) s = .next t ∧ t.jig.active = true ∧ t.jig.readDue = false ∧
      (c.body = [] ∨ copyOk c = true → t.jig.matrix = c.body ∧ t.jig.scrubFail = false ∧ t.jig.adoptDue = false ∧
        (c.body = [] ∨ s.jig.adoptDue = false → t = { s with jig := t.jig, dio := t.dio })) ∧
      (c.body ≠ [] → copyOk c = false → t.jig.matrix = [] ∧ t.jig.scrubFail = true ∧ t.jig.where_ = 1) ∧
      t.stk = s.stk ∧ t.wke = s.wke ∧ t.mem = s.mem) ∧
  (∀ (flips : List (Nat × Byte)) (s : State), s.sys.boot = .off ∨ s.jig.readDue = false →
    exec (.jigConfigRead flips) s = .next s) ∧
  (∀ s : State, s.sys.boot = .released →
    ∃ t, exec .pllLocked s = .next t ∧ t.sys.boot = .clocked ∧ t.evr.running = true ∧ t.ptp.syncOut = true ∧
      (∀ b ∈ [Block.sys, .drw, .evr, .key, .upd, .cvu 0, .cvu 1, .cvu 2, .cvu 3, .cvu 4, .cvu 5], b ∈ t.enabled) ∧
      t.mem = s.mem ∧ t.stk = s.stk) ∧
  (∀ (cores : Fin 65536) (worn : Bool) (s : State), s.sys.boot = .clocked → s.sys.tamperHold = false →
    ∃ t, exec (.bootSelfTestDone cores worn) s = .next t ∧ t.sys.boot = .tested ∧ t.wke.bootBad = cores.val ∧
      t.wke.failed = s.wke.failed ∧
      t.mem = s.mem.filter (fun p => p.1 < 0x80000000) ∧ t.stk = s.stk ∧ t.dio = s.dio)

/-- The brace (R59, R60), and the contacts that show it and the mode (R10, R50, R57, R572, R589): PFW_N follows the
warning, REPLACE_N and its LED the causes of replacement, HEALTHY and the fault contact the mode, unless EXTEST drives the
contacts; unpowered and in reset nothing is driven (R561). -/
def Obligations.BraceStages : Prop :=
  (∀ (v : Nat) (s : State), s.sys.boot ≠ .off → s.sys.pfw = false →
    exec (.powerFailWarning v) s = .next (raise { code := 0x1010, block := 0x01, detail := v % 2 ^ 16 } { s with
      sys := { s.sys with
        pfw := true, brace := true, pfwSeen := true, braceSeen := true, confirming := false, nandPaused := false,
        flushed := false, braceMin := v % 2 ^ 16 },
      evr := { s.evr with opSaved := s.evr.opTime } })) ∧
  (∀ s : State, exec .nandPageDonePause s = .next { s with
    sys := { s.sys with nandPaused := s.sys.brace },
    evr := { s.evr with moveWait := s.evr.moveWait || (s.sys.brace && s.evr.moving) } }) ∧
  (∀ s : State, s.sys.brace = true →
    ∃ t, exec .braceFlushDone s = .next t ∧ t.sys = { s.sys with flushed := true } ∧ t.evr.buffer = 0 ∧
      (s.wke.suspended = false → s.wke.writing = none → t.wke.buffer = []) ∧ t.stk = s.stk ∧ t.dvt = s.dvt ∧ t.dio = s.dio ∧ t.mem = s.mem) ∧
  (∀ s : State, exec .warningReleaseCrossing s = .next { s with sys := { s.sys with confirming := s.sys.pfw } }) ∧
  (∀ (units lowest : Nat) (s : State), s.sys.pfw = true → s.sys.confirming = true → s.sys.brace = true →
    s.sys.mode ≠ .rigging → s.evr.moveWait = false →
    exec (.braceEnd units lowest) s = .next (raise
      { code := 0x1011, block := 0x01, detail := min units 0xFFFF * 2 ^ 16 + lowest % 2 ^ 16 } { s with
      sys := { s.sys with
        pfw := false, brace := false, braceLong := false, confirming := false, nandPaused := false, flushed := false,
        braceMin := lowest % 2 ^ 16 },
      upd := resumeStaging s.upd })) ∧
  (∀ (lowest : Nat) (s : State), s.sys.brace = true → s.sys.braceLong = false →
    exec (.braceLong lowest) s = .next (raise { code := 0x1013, block := 0x01, detail := lowest % 2 ^ 16 } { s with
      sys := { s.sys with braceLong := true, braceMin := lowest % 2 ^ 16 } })) ∧
  (∀ s : State, driving s = true → s.dbg.ir ≠ 0 →
    (pfwN s = .low ↔ s.sys.pfw = true) ∧ (replaceN s = .low ↔ s.sys.replace ≠ 0) ∧
    (replaceLed s = true ↔ replaceN s = .low) ∧ (healthy s = .high ↔ s.sys.boot ≠ .released ∧ s.sys.mode = .run) ∧
    (fltClosed s = true ↔ s.sys.mode = .run ∨ s.sys.mode = .degraded)) ∧
  (∀ (v : Nat) (s : State), driving s = true → s.dbg.ir ≠ 0 → s.sys.pfw = false →
    ∃ t, exec (.powerFailWarning v) s = .next t ∧ pfwN s = .high ∧ pfwN t = .low) ∧
  (∀ s : State, driving s = false →
    pfwN s = .released ∧ replaceN s = .released ∧ healthy s = .released ∧ syncOutPin s = .released ∧ fltClosed s = false ∧
    replaceLed s = false ∧ (∀ n, logicOut n s = .released) ∧ ∀ b, tdoPin b s = .released)

/-- What every reset leaves, with the bits of its cause and of the requests that still wait, and PRIMARY, the first of
them (R61, R62, R74): blocks outside BAK and SAFE at their reset state, memory and the serial floor kept. -/
def ResetLeaves (i : Nat) (s t : State) : Prop :=
  t.sys.boot = .held ∧ t.sys.mode = .rigging ∧ t.sys.cause = bset (dueCauses s) i ∧
  t.sys.primary = (if s.sys.dueFirst = 0 then i + 1 else s.sys.dueFirst) ∧ t.sys.replace = 0 ∧
  t.stk = {} ∧ t.dvt = {} ∧ t.lpe = {} ∧ t.aio = {} ∧ t.enabled = [] ∧ t.declared = [] ∧
  t.drw = { serialFloor := s.drw.serialFloor, layout := s.drw.layout } ∧ t.mem = s.mem ∧ t.pending = s.pending

/-- The reset causes (R33, R61, R75): a reset of the running module, at once where no commit takes place. -/
def Obligations.ResetCauses : Prop :=
  (∀ s : State, s.sys.boot ≠ .off → s.sys.boot ≠ .held → ∃ t, exec .coxLockstepMismatch s = .next t ∧ ResetLeaves 2 s t) ∧
  (∀ s : State, s.sys.boot ≠ .off → s.sys.boot ≠ .held → ∃ t, exec .coxWatchdogExpiry s = .next t ∧ ResetLeaves 3 s t) ∧
  (∀ s : State, s.sys.boot ≠ .off → s.sys.boot ≠ .held → ∃ t, exec .pllLoss s = .next t ∧ ResetLeaves 4 s t) ∧
  (∀ s : State, s.sys.boot ≠ .off → s.sys.boot ≠ .held → s.sys.mode = .rigging ∨ s.sys.mode = .hold →
    ∃ t, exec (.serviceReset 0x5E7A0001) s = .next t ∧ ResetLeaves 5 s t) ∧
  (∀ s : State, s.sys.mode = .run ∨ s.sys.mode = .degraded →
    exec (.serviceReset 0x5E7A0001) s = .next { s with sys := { s.sys with
      resetReq := true, dueFirst := if s.sys.dueFirst = 0 then 6 else s.sys.dueFirst } }) ∧
  (∀ (v : Nat) (s : State), v ≠ 0x5E7A0001 →
    exec (.serviceReset v) s = .next (raise { code := 0x0004, block := 0x01, detail := 0x10000024 } s)) ∧
  (∀ s : State, s.sys.boot ≠ .off →
    ∃ t, exec .vsysResetThreshold s = .next t ∧ t.sys.boot = .off ∧ t.sys.mode = .dormant ∧
      t.sys.cause.testBit 1 = true ∧ t.sys.noBrace = !s.sys.brace ∧ t.dio = {} ∧ t.dbg = {} ∧ t.mem = s.mem ∧ t.pending = s.pending)

/-- HOLD and RESUME requests (R53, R54, R70): accepted with their key in the modes that allow them, else event 0x0004. -/
def Obligations.ModeRequests : Prop :=
  (∀ s : State, s.sys.mode = .run ∨ s.sys.mode = .degraded →
    ∃ t, exec (.holdRequest 0x4A46) s = .next t ∧ t.sys = { s.sys with holdReq := true } ∧
      (shadowing s.upd = false → t = { s with sys := t.sys })) ∧
  (∀ s : State, s.sys.mode = .hold → s.sys.tamperHold = false →
    exec (.resumeRequest 0x4A46) s = .next { s with sys := { s.sys with resumeReq := true } }) ∧
  (∀ (k : Nat) (s : State), k % 2 ^ 16 ≠ 0x4A46 →
    exec (.holdRequest k) s = .next (raise { code := 0x0004, block := 0x01, detail := 0x10000010 } s) ∧
    exec (.resumeRequest k) s = .next (raise { code := 0x0004, block := 0x01, detail := 0x10000010 } s)) ∧
  (∀ s : State, s.sys.mode = .rigging ∨ s.sys.mode = .hold ∨ s.sys.mode = .debug →
    exec (.holdRequest 0x4A46) s = .next (raise { code := 0x0004, block := 0x01, detail := 0x10000010 } s))

/-- Replacement causes (R56, R57). Board temperature (R574, R575, R577). The fire window is one of the ordering code
JF6400-X. -/
def Obligations.ReplacementCausesAndTemperature : Prop :=
  (∀ s : State, isUp s = true →
    ∃ t, exec .eccCorrectedError s = .next t ∧
      t.sys.eccTimes = s.sys.eccTimes.filter (fun x => x + 3686400 > s.evr.opTime) ++ [s.evr.opTime] ∧
      t.sys.replace = (if t.sys.eccTimes.length > s.sys.eccLimit then bset s.sys.replace 1 else s.sys.replace) ∧
      t = { s with sys := t.sys, evr := t.evr, hie := t.hie, fresh := t.fresh }) ∧
  (∀ (port : Fin 2) (s : State), s.declared.contains (.mac (8 + port.val)) = true →
    (s.mac.getD (8 + port.val) {}).link = false → s.sys.replace.testBit 2 = false →
    ∃ t, exec (.linkDownTimeout port) s = .next t ∧ t.sys = { s.sys with replace := bset s.sys.replace 2 } ∧
      t = { s with sys := t.sys, evr := t.evr, hie := t.hie, fresh := t.fresh }) ∧
  (∀ s : State, (declaredPorts s).all (fun m => (s.mac.getD m {}).link) = true →
    exec .linkDownClear s = .next { s with sys := { s.sys with replace := bclr s.sys.replace 2 } }) ∧
  (∀ s : State, isUp s = true → s.sys.replace.testBit 3 = false →
    ∃ t, exec .vbakLowCrossing s = .next t ∧ t.sys = { s.sys with vbakLow := true, replace := bset s.sys.replace 3 } ∧
      t = { s with sys := t.sys, evr := t.evr, hie := t.hie, fresh := t.fresh }) ∧
  (∀ s : State, exec .vbakLowRelease s = .next { s with
    sys := { s.sys with vbakLow := false, replace := bclr s.sys.replace 3 } }) ∧
  (∀ (x : Int) (s : State), s.sys.boot ≠ .off →
    ∃ t, exec (.fireWindowSet x) s = .next t ∧ t.sys.temp = x ∧ t.sys.fire = (s.sys.fire || Config.orderX) ∧
      t = { s with sys := t.sys, evr := t.evr, hie := t.hie, fresh := t.fresh }) ∧
  (∀ (x : Int) (s : State), s.sys.fire = true →
    exec (.fireWindowClear x) s = .next (raise
      { code := 0x0031, block := 0x01,
        detail := min ((s.evr.opTime - s.sys.fireStart) / 61440) 0xFFFF * 2 ^ 16 + twos 16 (max s.sys.fireMax x) }
      { s with sys := { s.sys with
        temp := x, fireMax := max s.sys.fireMax x, fire := false, replace := bclr s.sys.replace 5 } })) ∧
  (∀ (x : Int) (s : State), s.sys.fire = true → s.sys.fireOver = false →
    exec (.fireWindowOvertemp x) s = .next (raise
      { code := 0x0030, block := 0x01, detail := 2 ^ 31 + twos 16 x }
      { s with sys := { s.sys with temp := x, fireMax := max s.sys.fireMax x, fireOver := true } })) ∧
  (∀ (x : Int) (s : State), s.sys.fire = true → s.sys.fireLong = false →
    exec (.fireWindowTimeLimit x) s = .next (raise
      { code := 0x0030, block := 0x01, detail := 2 ^ 31 + 2 ^ 30 + twos 16 x }
      { s with sys := { s.sys with temp := x, fireMax := max s.sys.fireMax x, fireLong := true } })) ∧
  (∀ (x : Int) (s : State), s.sys.fire = false → s.sys.excursion = false → s.sys.boot ≠ .off → x < -400 →
    exec (.tempExcursion x) s = .next (raise
      { code := 0x0030, block := 0x01, detail := twos 16 x } { s with sys := { s.sys with temp := x, excursion := true } })) ∧
  (∀ s : State, exec .tempExcursionEnd s = .next { s with sys := { s.sys with excursion := false } })

/-! ### Strokes and tasks, commit services (R109 to R175) -/

/-- The services that tell a stroke about itself (R119, R152, R158), and what it reads back of its own writes (R26): the
write view gives what it wrote over what it saw, the snapshot view what it caught. -/
def Obligations.StrokeInquiries : Prop :=
  ∀ (core : Fin 16) (n : Nat) (k : Stroke) (x : Copy) (s : State), drivenBy s core.val = some (n, k, x) →
    exec (.writeStatus core) s = .next { s with answer := .value x.ws.rejected } ∧
    exec (.strokeInfo core) s = .next { s with answer := .values [k.catchTn, k.triggers, k.sources, bit k.retry, k.restart] } ∧
    exec (.inboxCount core) s = .next { s with answer := .value (k.inboxSeen - k.inboxFrom - x.ws.taken) } ∧
    (∀ m, k.inboxFrom + x.ws.taken < k.inboxSeen → (task s n).inbox[k.inboxFrom + x.ws.taken]? = some m →
      exec (.receive core) s = .next { modWs n core.val (fun w => { w with taken := w.taken + 1 }) s with
        answer := .bytes (msgBytes m) }) ∧
    (k.inboxSeen ≤ k.inboxFrom + x.ws.taken → exec (.receive core) s = .next { s with answer := .none }) ∧
    (∀ (p off : Nat) (l : List Byte), (pointRec s.drw.image p).elim false (fun r => ptWriter r = n) = true → off < 9 →
      let e := viewEntry s (some (k, x)) true p
      ∃ t k' x', exec (.writeViewWrite core p off l) s = .next t ∧ drivenBy t core.val = some (n, k', x') ∧
        viewEntry t (some (k', x')) true p = { e with
          value := (mergeEntry e.value e.quality off l).1, quality := (mergeEntry e.value e.quality off l).2 } ∧
        viewEntry t (some (k', x')) false p = viewEntry s (some (k, x)) false p)

/-- SEND (R157, R159): accepted into the write set within the limits, refused with LIMIT or ROUTE beyond them. At the commit
of its sender a message joins the inbox of its destination, numbered for the pair, or is dropped when 32 are there (R160,
R161). -/
def Obligations.SendCodes : Prop :=
  (∀ (core : Fin 16) (dest n : Nat) (k : Stroke) (x : Copy) (l : List Byte) (s : State), drivenBy s core.val = some (n, k, x) →
    (x.ws.msgs.length < 16 → 1 ≤ l.length → l.length ≤ 256 →
      (taskRec s.drw.image dest).elim false (fun r => tkDrawer r = taskDrawer s n) = true →
      exec (.send core dest l) s = .next { modWs n core.val (fun w => { w with
        msgs := w.msgs ++ [{ sender := n, dest := dest, seq := 0, tn := 0, payload := l }] }) s with answer := .value 0 }) ∧
    (16 ≤ x.ws.msgs.length ∨ l.length = 0 ∨ 256 < l.length →
      ∃ t, exec (.send core dest l) s = .next t ∧ t.answer = .value 1 ∧ t.dvt.fCount = sat 32 s.dvt.fCount 1 ∧
        t.dvt.image = s.dvt.image ∧ t.mem = s.mem) ∧
    (x.ws.msgs.length < 16 → 1 ≤ l.length → l.length ≤ 256 →
      (taskRec s.drw.image dest).elim true (fun r => tkDrawer r ≠ taskDrawer s n) = true →
      ∃ t, exec (.send core dest l) s = .next t ∧ t.answer = .value 2 ∧ t.dvt.fCount = sat 32 s.dvt.fCount 1 ∧
        t.dvt.image = s.dvt.image ∧ t.mem = s.mem)) ∧
  (∀ (tn : Nat) (m : Msg) (s : State), m.dest < s.stk.tasks.length → m.sender < s.stk.tasks.length →
    let t := deliver tn s m
    let n := tnum (task s m.sender).seqs m.dest
    tnum (task t m.sender).seqs m.dest = (n + 1) % 65536 ∧ t.dvt.image = s.dvt.image ∧ t.mem = s.mem ∧
    ((task s m.dest).inbox.length < 32 →
      (task t m.dest).inbox = (task s m.dest).inbox ++ [{ m with seq := n, tn := tn }] ∧
      t.dvt.delivered = s.dvt.delivered ++ [(m.dest, m.sender)] ∧
      t.wke.cur = s.wke.cur ++ [.message { m with seq := n, tn := tn } false]) ∧
    (32 ≤ (task s m.dest).inbox.length →
      (task t m.dest).inbox = (task s m.dest).inbox ∧ (task t m.dest).drops = sat 16 (task s m.dest).drops 1 ∧
      t.dvt.msgDrops = sat 32 s.dvt.msgDrops 1 ∧ t.dvt.delivered = s.dvt.delivered ∧
      t.wke.cur = s.wke.cur ++ [.message { m with seq := n, tn := tn } true]))

/-- A write view (R26, R147, R152): the writer's bytes go into its write set; another task's write changes no point and
is counted as a fault and in both of its counters, at offsets 9 to 15 too (log entry 26). Outside a stroke the view is written by none: the access is refused and
recorded (log entry 30). -/
def Obligations.WriteViews : Prop :=
  (∀ (core : Fin 16) (p off : Nat) (l : List Byte) (s : State), drivenBy s core.val = none →
    exec (.writeViewWrite core p off l) s = .next (noteRefused 1 0 0 (0x20040000 + p * 16 + off) 0 s)) ∧
  ∀ (core : Fin 16) (p off n : Nat) (k : Stroke) (x : Copy) (l : List Byte) (s : State), drivenBy s core.val = some (n, k, x) →
    ((pointRec s.drw.image p).elim false (fun r => ptWriter r = n) = true →
      (off < 9 → exec (.writeViewWrite core p off l) s = .next (modWs n core.val (fun w =>
        let cur := (tget w.points p).getD ((entryOf k.snap p).value, (entryOf k.snap p).quality)
        { w with points := tset w.points p (mergeEntry cur.1 cur.2 off l) }) s)) ∧
      (9 ≤ off → exec (.writeViewWrite core p off l) s = .next s)) ∧
    ((pointRec s.drw.image p).elim false (fun r => ptWriter r = n) = false →
      ∃ t, exec (.writeViewWrite core p off l) s = .next t ∧ t.dvt.fCount = sat 32 s.dvt.fCount 1 ∧
        (task t n).wrRej = sat 16 (task s n).wrRej 1 ∧ t.dvt.image = s.dvt.image ∧ t.mem = s.mem)

/-- Transaction groups (R163 to R166): open from IDLE once in a stroke, commit or abort what is open. -/
def Obligations.TransactionGroups : Prop :=
  ∀ (core : Fin 16) (n g : Nat) (x : Copy) (s : State), grpCaller s core.val = some (n, x, g) →
    (x.ws.grp = .idle → x.ws.grpUsed = false →
      exec (.groupOpen core 1) s = .next (modWs n core.val (fun w => { w with grp := .opened, grpUsed := true, staged := [] }) s)) ∧
    (x.ws.grp = .opened →
      exec (.groupCommit core 1) s = .next (modWs n core.val (fun w => { w with grp := .committed }) s)) ∧
    (x.ws.grp = .overflow →
      exec (.groupCommit core 1) s = .next (modWs n core.val (fun w => { w with grp := .committed, grpOver := true }) s)) ∧
    (x.ws.grp = .opened ∨ x.ws.grp = .overflow →
      exec (.groupAbort core 1) s = .next (modTask n (fun t => { t with grpLast := 2 })
        (modWs n core.val (fun w => { w with grp := .idle, grpLast := 2, staged := [] }) s))) ∧
    (x.ws.grp = .committed →
      ∃ t, exec (.groupOpen core 1) s = .next t ∧ t.dvt.fCount = sat 32 s.dvt.fCount 1 ∧ t.mem = s.mem)

/-- The end of a drive (R112, R125, R137): the copy is done, with its measures, or stopped as a skip of kind BUDGET with
its write set discarded. The life of its stroke around it: a task due catches the sealed version and what is pending
(R112, R117, R119, R154), a core takes the ready stroke of highest priority (R122), and at its release a returned stroke
commits and any other is skipped, its observations kept (R124, R125, R128, R147, R150, R153); the slots commit by priority,
then number. Version k opens as version k - 1 with CHANGED 0 (R148), the slots commit into it, and it is sealed as the version
that the catches of the edge see (R154). -/
def Obligations.DriveEnds : Prop :=
  (∀ (core : Fin 16) (us work n : Nat) (wrote : DriveWrites) (k : Stroke) (x : Copy) (s : State),
    drivenBy s core.val = some (n, k, x) → x.shadow = false → x.ws.grp = .idle ∨ x.ws.grp = .committed →
    ∃ t, exec (.strokeReturn core us work wrote) s = .next t ∧ (task t n).driveLast = us ∧
      (∃ k' x', (task t n).stroke = some k' ∧ copyOn k' core.val = some x' ∧ x'.phase = .done ∧ x'.ws.points = x.ws.points ∧
        x'.ws.work = x.ws.work ++ wrote.state) ∧
      t.dvt = { s.dvt with vstore := t.dvt.vstore, vstorePeak := t.dvt.vstorePeak } ∧ t.dio = s.dio ∧ t.mem = s.mem) ∧
  (∀ (core : Fin 16) (n : Nat) (k : Stroke) (x : Copy) (s : State),
    drivenBy s core.val = some (n, k, x) → taskIsWork s n = true → isShadow s n core.val = false →
    ∃ t, exec (.budgetExhausted core) s = .next t ∧
      (∃ k' x', (task t n).stroke = some k' ∧ copyOn k' core.val = some x' ∧ x'.phase = .done ∧ x'.stop = some .budget ∧
        x'.ws.points = [] ∧ x'.ws.msgs = []) ∧
      t.dvt = { s.dvt with vstore := t.dvt.vstore, vstorePeak := t.dvt.vstorePeak } ∧ t.dio = s.dio ∧ t.mem = s.mem) ∧
  (∀ (core : Fin 16) (s : State), coreRuns s core.val = true → tget s.wke.seats core.val ≠ some .free →
    exec (.coreWake core) s = .next { s with cores := lmod s.cores core.val (fun x => { x with powered := true }) }) ∧
  (∀ s : State, (declaredSlots s).Pairwise (· < ·) → (commitOrder s).Perm (declaredSlots s) ∧
    (commitOrder s).Pairwise (fun a b => taskPrio s b < taskPrio s a ∨ (taskPrio s a = taskPrio s b ∧ a < b))) ∧
  (∀ (n : Nat) (k : Stroke) (x : Copy) (s : State), (task s n).st = .live → (task s n).stroke = some k →
    k.relEdge = s.stk.edges → k.copies = [x] → x.shadow = false → s.wke.alone.contains n = false →
    (∀ y ∈ s.wke.settles, y.slot ≠ n) → x.phase = .done → x.stop = none →
    let t := commitSlot s n
    let d := wsDigest s n k.catchTn x.ws
    (task t n).st = .armed ∧ (task t n).stroke = none ∧ (task t n).due = s.stk.edges ∧ (task t n).lastKind = 0 ∧
    (task t n).strokes = sat 32 (task s n).strokes 1 ∧ (task t n).digest = d ∧
    t.dvt.stream = s.dvt.stream ++ ([0x10] ++ leBytes 8 d.toNat) ∧ (s.wke.cur ++ [.wset n d]) <+: t.wke.cur ∧
    (∀ (i : Nat) (v : BitVec 64) (q : Byte), (x.ws.points.map (·.1)).Nodup → tget x.ws.points i = some (v, q) →
      (entryOf t.dvt.image i).value = (forcedValue s i).getD (normalise (entryOf s.dvt.image i).typ v) ∧
      (entryOf t.dvt.image i).quality = withForced s i q ∧ (entryOf t.dvt.image i).tick = k.catchTn % 2 ^ 32) ∧
    (∀ i : Nat, tget x.ws.points i = none → (entryOf t.dvt.image i).value = (entryOf s.dvt.image i).value ∧
      (entryOf t.dvt.image i).quality = (entryOf s.dvt.image i).quality) ∧
    (x.ws.work = [] → x.ws.retained = [] → t.mem = s.mem) ∧
    (∀ (o a : Nat) (v : BitVec 64), x.ws.work = [] → x.ws.retained = [(o, v)] → retAddr (retWins s.drw.image n) o = some a →
      t.mem = Memory.writeN s.mem a (leBytes 8 v.toNat))) ∧
  (∀ (n : Nat) (k : Stroke) (x : Copy) (s : State), (task s n).st = .live → (task s n).stroke = some k →
    k.relEdge = s.stk.edges → k.copies = [x] → x.shadow = false → s.wke.alone.contains n = false →
    (∀ y ∈ s.wke.settles, y.slot ≠ n) → x.phase ≠ .done ∨ x.stop ≠ none →
    let t := commitSlot s n
    let kd := x.stop.getD (if taskIsWork s n && s.sys.mode ≠ .debug then .late else .overrun)
    (task t n).st = .armed ∧ (task t n).stroke = none ∧ (task t n).due = s.stk.edges ∧
    (task t n).lastKind = lastKindCode kd ∧ (task t n).skips = sat 32 (task s n).skips 1 ∧
    t.stk.skipTotal = sat 32 s.stk.skipTotal 1 ∧ (task t n).pend = min 65535 ((task s n).pend + k.triggers) ∧
    (task t n).pendSrc = ((task s n).pendSrc ||| k.sources) ∧
    (task t n).pendRetry = ((task s n).pendRetry || decide (0 < k.triggers)) ∧
    t.dvt.stream = s.dvt.stream ++ [0x11, b8 n, b8 (skipCode kd)] ∧
    t.wke.cur = s.wke.cur ++ [.skip n kd (if kd = .late then 1 else 0) 0] ∧
    (∀ i : Nat, (entryOf t.dvt.image i).value = (entryOf s.dvt.image i).value) ∧
    (∀ r ∈ ownedBy s.drw.image n, (tget s.dvt.image (ptIndex r)).isSome = true →
      (entryOf t.dvt.image (ptIndex r)).skipped = true) ∧ t.mem = s.mem) ∧
  (∀ (n : Nat) (s : State), (task s n).st = .armed →
    (if taskIsEvent s n then 0 < (task s n).pend else (task s n).due = s.stk.edges) →
    ∃ k, (task (catchDue s n) n).stroke = some k ∧ (task (catchDue s n) n).st = .live ∧ k.catchTn = s.stk.tn ∧
      k.relEdge = s.stk.edges + taskPeriod s n ∧ k.snap = s.dvt.latest ∧ k.inboxSeen = (task s n).inbox.length ∧
      k.triggers = (task s n).pend ∧ k.sources = (task s n).pendSrc ∧ k.retry = (task s n).pendRetry ∧
      (∀ x ∈ k.copies, x.phase = .ready ∧ x.ws = {}) ∧ (task (catchDue s n) n).pend = 0 ∧
      (task (catchDue s n) n).pendRetry = false) ∧
  (∀ (n : Nat) (s : State), (task s n).st ≠ .armed ∨
    (if taskIsEvent s n then (task s n).pend = 0 else (task s n).due ≠ s.stk.edges) → catchDue s n = s) ∧
  (∀ (n : Nat) (old : Image) (r : Rec) (s : State), taskRec s.drw.image n = some r → tkEvent r = true →
    n < s.stk.tasks.length → (task s n).st ≠ .off → (task s n).st ≠ .stopped → (task s n).pend ≤ 65535 →
    (task (observe old s n) n).pend = min 65535 ((task s n).pend + (triggersOf s.drw.image r).countP
      (fires old s.dvt.image (jigFired s.jig) s.dvt.delivered n))) ∧
  (∀ (c n : Nat) (s : State), c < s.cores.length → coreRuns s c = true → bestReady s c = some n →
    ((s.cores.getD c {}).driving.elim true (fun m => decide (taskPrio s m < taskPrio s n))) = true →
    ((dispatchCore s c).cores.getD c {}).driving = some n ∧ ((dispatchCore s c).cores.getD c {}).powered = true ∧
    (dispatchCore s c).dvt = s.dvt ∧ (dispatchCore s c).mem = s.mem) ∧
  (∀ (i : Nat) (s : State), entryOf (openVersion s).dvt.image i = { entryOf s.dvt.latest i with changed := false }) ∧
  (∀ (x : EdgeIn) (p : EdgePlan) (s : State), p.commits = true → p.hold = false → s.enabled.contains .lpe = false →
    let o := openRecord (!tickLocked s) s
    let c := (commitOrder o).foldl commitSlot o
    (edgeCommit x p s).dvt.image = c.dvt.image ∧ (edgeCommit x p s).mem = c.mem) ∧
  (∀ (p : EdgePlan) (s : State), s.sys.mode ≠ .debug → p.hold = false → p.debug = false →
    (edgeSeal p s).dvt.latest = s.dvt.image ∧ (edgeSeal p s).dvt.image = s.dvt.image ∧ (edgeSeal p s).mem = s.mem)

/-- Reads that latch (R109, R175): TN's upper word, and the edge digest. The word answered and the register read after it
give one value of the 64-bit TN; the two digest registers give the digest of the edge. -/
def Obligations.LatchingReads : Prop :=
  (∀ s : State, exec .tnLatch s = .next { s with
    stk := { s.stk with tnHi := s.stk.tn / 2 ^ 32 % 2 ^ 32 }, answer := .value (s.stk.tn % 2 ^ 32) }) ∧
  (∀ s : State, ∃ t lo, exec .tnLatch s = .next t ∧ t.answer = .value lo ∧
    (readReg none .stk 0x10 t).1 * 2 ^ 32 + lo = s.stk.tn % 2 ^ 64) ∧
  (∀ s : State, exec .edgeDigestLatch s = .next { s with
    dvt := { s.dvt with digestLatch := s.dvt.digest }, answer := .value s.dvt.edgeTn }) ∧
  (∀ s : State, ∃ t, exec .edgeDigestLatch s = .next t ∧
    (readReg none .dvt 0x30 t).1 * 2 ^ 32 + (readReg none .dvt 0x2C t).1 = s.dvt.digest.toNat)

/-! ### Wake journal, spare seats and replay (R180 to R210) -/

/-- The ring and the checkpoints (R182, R185, R189). The close of an edge's record, with its digest (R172, R182, R183), and the
start of a checkpoint, which holds the edge's version and every task, in the bank that is not the newest (R186, R187). -/
def Obligations.JournalWriter : Prop :=
  (∀ (r : JRecord) (b l : List JRecord) (s : State), s.wke.buffer = r :: b → s.wke.suspended = false →
    makeRoom (recBytes r).length (ckEdge (newestBank s.wke)) s.wke.ring = some l →
    ∃ t, exec .journalRecordWrite s = .next t ∧ t.wke.buffer = b ∧ t.wke.ring = l ++ [r] ∧
      t.wke.suspended = false ∧ t = { s with wke := t.wke }) ∧
  (∀ (r : JRecord) (b : List JRecord) (s : State), s.wke.buffer = r :: b → s.wke.suspended = false →
    makeRoom (recBytes r).length (ckEdge (newestBank s.wke)) s.wke.ring = none →
    exec .journalRecordWrite s = .next (raise
      { code := 0x4007, block := 0x04, detail := bit s.wke.newestB * 2 ^ 31 }
      { s with wke := { s.wke with suspended := true, buffer := if s.wke.writing.isSome then s.wke.buffer else [] } })) ∧
  (∀ (d : Nat) (b : Bank) (s : State), s.wke.writing = some b → s.wke.suspended = false →
    ∃ t, exec (.checkpointComplete d none) s = .next t ∧ t.wke.writing = none ∧ t.wke.newestB = s.wke.writingB ∧
      newestBank t.wke = { b with complete := true } ∧ olderBank t.wke = bankOf s.wke (!s.wke.writingB) ∧
      t.wke.duration = min d 0xFFFF ∧ (∀ n, (task t n).third = none) ∧
      t = { s with wke := t.wke, stk := t.stk }) ∧
  (∀ (d n : Nat) (b : Bank) (s : State), s.wke.writing = some b →
    exec (.checkpointComplete d (some n)) s = .next (raise
      { code := 0x4005, block := 0x04, detail := bit s.wke.writingB * 2 ^ 31 + min n 0xFFFFFF }
      { s with wke := { s.wke with cReadback := sat 8 s.wke.cReadback 1 } })) ∧
  (∀ s : State,
    let t := closeRecord s
    let d := digest64 (leBytes 8 s.dvt.digest.toNat ++ leBytes 8 s.stk.tn ++ s.dvt.stream)
    t.dvt.digest = d ∧ t.dvt.edgeTn = s.stk.tn % 2 ^ 32 ∧ t.dvt.stream = [] ∧ t.wke.cur = [] ∧ t.dvt.image = s.dvt.image ∧
    (s.wke.suspended = false → t.wke.buffer = s.wke.buffer ++
      [{ tn := s.stk.tn, edge := s.stk.edges, entries := closeEntries s.wke.cur d }])) ∧
  (∀ (e : Nat) (s : State), s.sys.mode ≠ .debug → s.stk.start = some e → (s.stk.edges - e) % (s.wke.interval * 4) = 0 →
    (s.wke.writing.isSome = true → edgeCheckpoint s = { s with wke := { s.wke with ckptDue := true } }) ∧
    (s.wke.writing = none → ∃ b, (edgeCheckpoint s).wke.writing = some b ∧
      (edgeCheckpoint s).wke.writingB = !s.wke.newestB ∧ b.complete = false ∧ b.tn = s.stk.tn ∧ b.edge = s.stk.edges ∧
      b.image = s.dvt.latest ∧ b.digest = s.dvt.digest ∧ b.tasks = (declaredSlots s).map (taskCkpt s) ∧
      b.loops = s.lpe.slots.map (·.2) ∧ newestBank (edgeCheckpoint s).wke = newestBank s.wke ∧
      (edgeCheckpoint s).dvt = s.dvt ∧ (edgeCheckpoint s).mem = s.mem))

/-- A crew core that hangs in a drive, or reports an error, fails (R190, R191): its bit is set and stays the only one that
changes; the committed image and memory are as they were. The self-test of a spare seat (R39, R200): it wakes, returns to
gating when it passes, and is a failed core when it does not. -/
def Obligations.CoreFailuresAndSelfTests : Prop :=
  (∀ (core : Fin 16) (s : State), inDrive s core.val = true → coreHeld s core.val = false →
    coreOut s core.val = false →
    ∃ t, exec (.coreHang core) s = .next t ∧ t.wke.failed = bset s.wke.failed core.val ∧ t.dvt = { s.dvt with vstore := t.dvt.vstore, vstorePeak := t.dvt.vstorePeak } ∧
      t.dio = s.dio ∧ t.mem = s.mem) ∧
  (∀ (core : Fin 16) (s : State), coreOut s core.val = false →
    ∃ t, exec (.coreCacheEcc core) s = .next t ∧ t.wke.failed = bset s.wke.failed core.val ∧ t.dvt = { s.dvt with vstore := t.dvt.vstore, vstorePeak := t.dvt.vstorePeak } ∧
      t.dio = s.dio ∧ t.mem = s.mem) ∧
  (∀ (core : Fin 16) (s : State), coreOut s core.val = false →
    ∃ t, exec (.coreMachineCheck core) s = .next t ∧ t.wke.failed = bset s.wke.failed core.val ∧ t.dvt = { s.dvt with vstore := t.dvt.vstore, vstorePeak := t.dvt.vstorePeak } ∧
      t.dio = s.dio ∧ t.mem = s.mem) ∧
  (∀ (seat : Fin 16) (s : State), tget s.wke.seats seat.val = some .free →
    s.wke.seats.all (fun p => p.2 ≠ .selfTest) = true →
    exec (.seatSelfTest seat) s = .next { s with
      wke := { s.wke with seats := tset s.wke.seats seat.val .selfTest },
      cores := lmod s.cores seat.val (fun x => { x with powered := true }) }) ∧
  (∀ (seat : Fin 16) (s : State), tget s.wke.seats seat.val = some .selfTest →
    exec (.seatSelfTestDone seat true) s = .next { s with
      wke := { s.wke with seats := tset s.wke.seats seat.val .free },
      cores := lmod s.cores seat.val (fun x => { x with powered := false }) }) ∧
  (∀ (seat : Fin 16) (s : State), tget s.wke.seats seat.val = some .selfTest → coreOut s seat.val = false →
    ∃ t, exec (.seatSelfTestDone seat false) s = .next t ∧ t.wke.failed = bset s.wke.failed seat.val ∧
      tget t.wke.seats seat.val = none ∧ t.dvt = { s.dvt with vstore := t.dvt.vstore, vstorePeak := t.dvt.vstorePeak } ∧ t.mem = s.mem)

/-- Takeovers and settlements (R192, R194, R195, R197): copies loaded, a replayed stroke that agrees, an error in a bank,
and a settlement without a majority. -/
def Obligations.TakeoversAndSettlements : Prop :=
  (∀ (seat : Fin 16) (us : Nat) (s : State),
    ∃ t, exec (.takeoverCopiesLoaded seat us) s = .next t ∧ (∀ x ∈ t.wke.takeovers, x.seat = seat.val → x.loaded = true) ∧
      t.dvt = s.dvt ∧ t.dio = s.dio ∧ t.pending = s.pending) ∧
  (∀ (seat : Fin 16) (slot : Fin 64) (tn us : Nat) (e : ReplayEnd) (x : Takeover) (s : State),
    s.wke.takeovers.find? (fun t => t.seat = seat.val && t.loaded && t.slots.contains slot.val) = some x →
    wsetAt s.wke slot.val tn = some e.digest → 1 < x.left →
    ∃ t, exec (.replayStrokeDone seat slot tn e us) s = .next t ∧
      t.wke = { s.wke with takeovers := s.wke.takeovers.map (fun y =>
        if y.seat = x.seat && y.slots = x.slots then { y with
          left := y.left - 1, built := y.built.map (fun p => if p.1 = slot.val then (p.1, Memory.put p.2 e.state) else p) } else y) } ∧
      t = { s with wke := t.wke, evr := t.evr }) ∧
  (∀ (b : Bool) (page : Nat) (s : State),
    ∃ t, exec (.memoryUncorrectable (.bank b) page) s = .next t ∧ bankValid (bankOf t.wke b) = false ∧
      bankOf t.wke (!b) = bankOf s.wke (!b) ∧
      (bankValid (bankOf s.wke (!b)) = true → s.wke.newestB = b → t.wke.newestB = !b) ∧ t = { s with wke := t.wke, evr := t.evr, hie := t.hie, fresh := t.fresh }) ∧
  (∀ (slot : Fin 64) (us : Nat) (x : Settle) (s : State),
    s.wke.settles.find? (fun x => x.slot = slot.val && x.won.isNone) = some x →
    ∃ t, exec (.settlementDone slot none us) s = .next t ∧ t.wke.cUnsettled = sat 8 s.wke.cUnsettled 1 ∧
      t.dvt = s.dvt ∧ t.mem = s.mem)

/-! ### Jig matrix (R211 to R231) -/

/-- The value of a used term of a rule (R211, R212): its source after INVERT, or its latch output when LATCH is 1. -/
def TermIsOne (body : List Byte) (di cond rules latch n m : Nat) : Prop :=
  let w := jigTerm body n m
  let i := fld w 0 7
  let source := if fld w 30 2 = 1 then di.testBit i else if fld w 30 2 = 2 then cond.testBit i else rules.testBit i
  if w.testBit 28 then latch.testBit (8 * n + m) = true else (source ^^ w.testBit 29) = true

/-- A rule is true exactly while it has a used term and each of its used terms has the value 1 (R212); `e.1` are the
latch outputs and `e.2` the rule states that an evaluation gives. A rule-state term sees the rules of lower number.
An input's change reaches the rules at once, with no tick. As the outputs settle, the command of an output is its rules'
where one that is true forces it, else its stroke value, which is its point's (R53, R96, R218). -/
def Obligations.RuleTruth : Prop :=
  (∀ (body : List Byte) (di cond latch n : Nat), n < 128 →
    let e := evalRules body di cond latch
    e.2.testBit n = true ↔
      (∃ m < 8, fld (jigTerm body n m) 30 2 ≠ 0) ∧
      ∀ m < 8, fld (jigTerm body n m) 30 2 ≠ 0 → TermIsOne body di cond (e.2 % 2 ^ n) e.1 n m) ∧
  (∀ (i : Fin 32) (b : Bool) (s : State), s.sys.boot ≠ .off → s.jig.active = true → s.jig.matrix ≠ [] →
    ∃ t, exec (.diCouplerChange i b) s = .next t ∧ t.jig.matrix = s.jig.matrix ∧
      t.jig.rules = (evalRules s.jig.matrix (jigInputs t) s.jig.cond s.jig.latch).2 ∧ t.stk = s.stk) ∧
  (∀ (n : Nat) (s : State), n < 32 → s.sys.boot ≠ .off → s.sys.boot ≠ .held → s.jig.active = true →
    let t := settleOutputs s
    t.dio.cmd.testBit n =
      if s.jig.scrubFail = true ∧ targetMode t n ≠ 0 ∧ targetHold t n = 0 then false
      else if s.jig.scrubFail = true ∧ targetMode t n ≠ 0 ∧ targetHold t n = 1 then true
      else if s.jig.scrubFail = true ∧ targetMode t n ≠ 0 then s.dio.stroke.testBit n
      else if targetAny t n = true ∧ targetMode t n = 1 then true
      else if targetAny t n = true ∧ targetMode t n = 2 then false else s.dio.stroke.testBit n) ∧
  (∀ (n : Nat) (s : State), n < 32 → s.sys.boot = .off ∨ s.sys.boot = .held ∨ s.jig.active = false →
    (settleOutputs s).dio.cmd.testBit n = false) ∧
  (∀ (n : Nat) (r : Rec) (s : State), n < 32 → boundTo s.drw.image 2 n = some r → s.enabled.contains .dio = true →
    ((takeStrokes s).dio.stroke.testBit n = true ↔ normalise 1 (drivenValue s r) ≠ 0))

/-- The scrub, the adoption of a copy, a latch clear and a coupler change (R104, R215, R220, R223, R224, R231). -/
def Obligations.JigCommands : Prop :=
  (∀ s : State, s.jig.active = true → s.jig.scrubFail = false → s.jig.adoptDue = false → (jigCopy s.jig).body ≠ [] →
    copyOk (jigCopy s.jig) = true → s.jig.matrix = (jigCopy s.jig).body →
    ∃ t, exec (.jigScrub [] []) s = .next t ∧ t.jig.scrubFail = false ∧ t.jig.cycles = (s.jig.cycles + 1) % 2 ^ 24 ∧
      t.jig.matrix = s.jig.matrix ∧ t = { s with jig := t.jig, dio := t.dio }) ∧
  (∀ (i : Nat) (b : Byte) (s : State), s.jig.active = true → s.jig.scrubFail = false → s.jig.adoptDue = false →
    (jigCopy s.jig).body ≠ [] → copyOk (jigCopy s.jig) = true →
    lmod s.jig.matrix i (fun _ => b) ≠ (jigCopy s.jig).body →
    ∃ t, exec (.jigScrub [] [(i, b)]) s = .next t ∧ t.jig.scrubFail = true ∧ t.jig.where_ = 2 ∧
      t.sys.replace.testBit 6 = true ∧
      t = { s with sys := t.sys, jig := t.jig, dio := t.dio, evr := t.evr, hie := t.hie, fresh := t.fresh }) ∧
  (∀ s : State, s.jig.active = true → s.jig.adoptDue = true →
    ∃ t, exec .jigCopyAdopt s = .next t ∧ t.jig.matrix = (jigCopy s.jig).body ∧ t.jig.adoptDue = false ∧
      t = { s with jig := t.jig, dio := t.dio, evr := t.evr, hie := t.hie, fresh := t.fresh }) ∧
  (∀ (v : Nat) (s : State), s.enabled.contains .jig = true → fld v 16 16 = 0x4A43 →
    exec (.jigLatchClr v) s = .next (raise
      { code := 0x5003, block := 0x05, detail := bit (v.testBit 15) * 2 ^ 31 + (if v.testBit 15 then 0 else fld v 0 7) }
      (settleOutputs { s with jig := { s.jig with latch := maskOf ((List.range 1024).map (fun i =>
        s.jig.latch.testBit i && (!(v.testBit 15 || i / 8 = fld v 0 7) ||
          termRaw (jigInputs s) s.jig.cond s.jig.rules (jigTerm s.jig.matrix (i / 8) (i % 8))))) } }))) ∧
  (∀ (v : Nat) (s : State), s.enabled.contains .jig = true → fld v 16 16 ≠ 0x4A43 →
    exec (.jigLatchClr v) s = .next (raise { code := 0x0004, block := 0x05, detail := 0x10040010 } s)) ∧
  (∀ (v : Nat) (s : State), s.enabled.contains .jig = false → exec (.jigLatchClr v) s = .next s) ∧
  (∀ (n : Fin 32) (b : Bool) (s : State), s.sys.boot ≠ .off →
    ∃ t, exec (.diCouplerChange n b) s = .next t ∧ t.jig.di = bput s.jig.di n.val b ∧
      t = { s with jig := t.jig, dio := t.dio })

/-! ### Digital inputs and outputs (R232 to R258) -/

/-- Inputs (R235, R237): the filter output, and an open or intact wire. -/
def Obligations.InputMonitors : Prop :=
  (∀ (n : Fin 32) (s : State), exec (.diFilterSettled n) s = .next (modDi n.val
    (filterTake (s.jig.di.testBit n.val)) s)) ∧
  (∀ (v : Bool) (c : DiCh), (filterTake v c).filt = v ∧
    (filterTake v c).edges = (if c.filt = v || c.wireOpen || (diCount c = 0 && !v) || (diCount c = 1 && v) then c.edges
      else (c.edges + 1) % 2 ^ 32)) ∧
  (∀ c : DiCh, diOut c = true ↔ c.wireOpen = false ∧ c.filt = true) ∧
  (∀ (n : Fin 32) (i : Nat) (s : State), diWb (diCh s n.val) = true → (diCh s n.val).wireOpen = false →
    ∃ t, exec (.wireOpen n i) s = .next t ∧ t.dio.di = lmod s.dio.di n.val (fun c => { c with
        wireOpen := true, owSeen := true }) ∧ t.jig.di = s.jig.di ∧
      t = { s with jig := t.jig, dio := t.dio, evr := t.evr, hie := t.hie, fresh := t.fresh }) ∧
  (∀ (n : Fin 32) (i : Nat) (s : State), (diCh s n.val).wireOpen = true →
    ∃ t, exec (.wireIntact n i) s = .next t ∧ t.dio.di = lmod s.dio.di n.val (fun c => { c with
        wireOpen := false }) ∧ t.jig.di = s.jig.di ∧
      t = { s with jig := t.jig, dio := t.dio, evr := t.evr, hie := t.hie, fresh := t.fresh })

/-- Overload and thermal shutdown of an output (R242, R243); the shutdown after the eighth retry latches it off. The current
limit is derated while the fire window is set (R239, R574), and an output's pin follows its switch (R251). -/
def Obligations.OutputProtection : Prop :=
  (∀ s : State, currentLimit s = if s.sys.fire then (450, 700) else (1200, 1800)) ∧
  (∀ (n : Fin 32) (i : Nat) (s : State), i < (currentLimit s).1 → exec (.doOverload n i) s = .next s) ∧
  (∀ (n : Fin 32) (i : Nat) (s : State), detects s n.val = true → (doCh s n.val).overload = false →
    (currentLimit s).1 ≤ i →
    exec (.doOverload n i) s = .next (dioEvent 0x6003 2 n.val (i % 2 ^ 16)
      (modDo n.val (fun c => { c with overload := true, overloadSeen := true }) s))) ∧
  (∀ (n : Fin 32) (s : State), exec (.doOverloadClear n) s = .next (modDo n.val (fun c => { c with overload := false }) s)) ∧
  (∀ (n : Fin 32) (s : State), detects s n.val = true → (doCh s n.val).thermal = false → (doCh s n.val).retries < 8 →
    exec (.doThermalShutdown n) s = .next (dioEvent 0x6004 2 n.val ((doCh s n.val).retries * 2 ^ 16)
      (followPins (modDo n.val (fun c => { c with
        thermal := true, thermalSeen := true, shutdowns := sat 32 c.shutdowns 1, cooled := false, cleared := false })) s))) ∧
  (∀ (n : Fin 32) (s : State), detects s n.val = true → (doCh s n.val).thermal = false → 8 ≤ (doCh s n.val).retries →
    ∃ t, exec (.doThermalShutdown n) s = .next t ∧ t.dio.dout = lmod s.dio.dout n.val (fun c => { c with
        thermal := true, thermalSeen := true, shutdowns := sat 32 c.shutdowns 1, cooled := false, cleared := false,
        latched := true }) ∧
      t = { s with
        dio := { s.dio with dout := t.dio.dout, pins := t.dio.pins }, evr := t.evr, hie := t.hie, fresh := t.fresh }) ∧
  (∀ (n : Fin 32) (c : DoCh) (s : State), s.dio.dout[n.val]? = some c → c.thermal = true →
    let on := s.dio.cmd.testBit n.val && grpOn s (grpOf n.val) && !c.latched
    ∃ t, exec (.doThermalRetry n) s = .next t ∧
      t = { s with dio := { s.dio with dout := t.dio.dout, pins := t.dio.pins } } ∧
      (c.cleared = true → t.dio.dout[n.val]? = some { c with thermal := false, cleared := false }) ∧
      (c.cleared = false → on = true →
        t.dio.dout[n.val]? = some { c with thermal := false, cooled := false, retries := min 8 (c.retries + 1) }) ∧
      (c.cleared = false → on = false → t.dio.dout[n.val]? = some { c with cooled := true }) ∧
      (∀ (m : Nat) (x : DoCh), m ≠ n.val → s.dio.dout[m]? = some x → x.thermal = false ∨ x.cooled = false →
        t.dio.dout[m]? = some x)) ∧
  (∀ (n : Fin 32) (s : State), exec (.doRetriesReset n) s = .next (modDo n.val (fun c =>
    if c.latched then c else { c with retries := 0 }) s)) ∧
  (∀ (n : Nat) (f : State → State) (s : State), n < 32 →
    (followPins f s).dio.pins.testBit n = (if conducts s n = conducts (f s) n then (f s).dio.pins.testBit n else conducts (f s) n) ∧
    followPins f s = { f s with dio := { (f s).dio with pins := (followPins f s).dio.pins } })

/-- Diagnosis of an output: open load, external drive, blanking (R242, R245). -/
def Obligations.OutputDiagnosis : Prop :=
  (∀ (n : Fin 32) (s : State), diagnoses s n.val = true → conducts s n.val = true →
    (doCh s n.val).cfg.testBit 0 = true → (doCh s n.val).openOn = false →
    exec (.doOpenLoadOn n) s = .next (dioEvent 0x6006 2 n.val 0
      (modDo n.val (fun c => { c with openOn := true, openSeen := true }) s))) ∧
  (∀ (n : Fin 32) (s : State), diagnoses s n.val = true → s.dio.cmd.testBit n.val = false →
    (doCh s n.val).cfg.testBit 1 = true → (doCh s n.val).openOff = false →
    exec (.doOpenLoadOff n) s = .next (dioEvent 0x6006 2 n.val 1
      (setPin n.val false (modDo n.val (fun c => { c with openOff := true, openSeen := true }) s)))) ∧
  (∀ (n : Fin 32) (s : State), ∃ t, exec (.doOpenLoadClear n) s = .next t ∧
    t = { s with dio := { s.dio with dout := t.dio.dout, pins := t.dio.pins } } ∧
    t.dio.dout = lmod s.dio.dout n.val (fun c => { c with openOn := false, openOff := false }) ∧
    t.dio.pins = if (doCh s n.val).openOff && !s.dio.cmd.testBit n.val then bput s.dio.pins n.val false else s.dio.pins) ∧
  (∀ (n : Fin 32) (s : State), diagnoses s n.val = true → s.dio.cmd.testBit n.val = false → (doCh s n.val).ext = false →
    exec (.doExtDriveOff n) s = .next (dioEvent 0x6007 2 n.val 0
      (setPin n.val true (modDo n.val (fun c => { c with ext := true, extSeen := true }) s)))) ∧
  (∀ (n : Fin 32) (s : State), detects s n.val = true → s.dio.cmd.testBit n.val = true →
    ∃ t, exec (.doExtDriveReverse n) s = .next t ∧
      t.dio.dout = lmod s.dio.dout n.val (fun c => { c with
        reverse := true, ext := c.ext || !(doCh s n.val).blank, extSeen := c.extSeen || (!(doCh s n.val).blank && !(doCh s n.val).ext) }) ∧
      t = { s with dio := t.dio, evr := t.evr, hie := t.hie, fresh := t.fresh }) ∧
  (∀ (n : Fin 32) (s : State), ∃ t, exec (.doExtDriveClear n) s = .next t ∧
    t = { s with dio := { s.dio with dout := t.dio.dout, pins := t.dio.pins } } ∧
    t.dio.dout = lmod s.dio.dout n.val (fun c => { c with ext := false }) ∧
    t.dio.pins = if (doCh s n.val).ext && !s.dio.cmd.testBit n.val then bput s.dio.pins n.val false else s.dio.pins) ∧
  (∀ (n : Fin 32) (s : State), exec (.reverseBlockEnd n) s =
    .next (followPins (modDo n.val (fun c => { c with reverse := false })) s)) ∧
  (∀ (n : Fin 32) (s : State), exec (.doDiagBlankEnd n) s = .next (modDo n.val (fun c => { c with blank := false }) s))

/-- Groups of outputs: trips and supply (R244, R247). Clears of latched outputs and groups (R250, R258): with the key; by
the drawer that owns the output. -/
def Obligations.OutputGroupsAndClears : Prop :=
  (∀ (g : Fin 4) (i : Nat) (s : State), s.sys.boot ≠ .off → grpOn s g.val = true → (grp s g.val).retries < 8 →
    ∃ t, exec (.groupTrip g i) s = .next t ∧ t.dio.groups = lmod s.dio.groups g.val (fun x => { x with tripped := true }) ∧
      t = { s with dio := t.dio, evr := t.evr, hie := t.hie, fresh := t.fresh }) ∧
  (∀ (g : Fin 4) (i : Nat) (s : State), s.sys.boot ≠ .off → grpOn s g.val = true → 8 ≤ (grp s g.val).retries →
    ∃ t, exec (.groupTrip g i) s = .next t ∧ t.dio.groups = lmod s.dio.groups g.val (fun x => { x with tripLatched := true }) ∧
      t = { s with dio := t.dio, evr := t.evr, hie := t.hie, fresh := t.fresh }) ∧
  (∀ (g : Fin 4) (s : State), (grp s g.val).tripped = true →
    ∃ t, exec (.groupTripRetry g) s = .next t ∧ t.dio.groups = lmod s.dio.groups g.val (fun x => { x with
        tripped := false, retries := min 8 (x.retries + 1) }) ∧ t = { s with
        dio := { s.dio with groups := t.dio.groups, dout := t.dio.dout, pins := t.dio.pins } }) ∧
  (∀ (g : Fin 4) (s : State), exec (.groupTripRetriesReset g) s = .next (modGrp g.val (fun x => { x with retries := 0 }) s)) ∧
  (∀ (g : Fin 4) (v : Nat) (s : State), s.sys.boot ≠ .off → (grp s g.val).low = false →
    exec (.groupLowWarning g v) s = .next (grpEvent 0x600A g.val (v % 2 ^ 16)
      (modGrp g.val (fun x => { x with low := true }) s))) ∧
  (∀ (g : Fin 4) (v : Nat) (s : State), (grp s g.val).low = true →
    exec (.groupLowRelease g v) s = .next (grpEvent 0x600C g.val (v % 2 ^ 16)
      (modGrp g.val (fun x => { x with low := false }) s))) ∧
  (∀ (g : Fin 4) (v : Nat) (s : State), s.sys.boot ≠ .off → (grp s g.val).unpowered = false →
    exec (.groupUnpowered g v) s = .next (grpEvent 0x600B g.val (v % 2 ^ 16)
      (followPins (modGrp g.val (fun x => { x with unpowered := true })) s))) ∧
  (∀ (g : Fin 4) (v : Nat) (s : State), (grp s g.val).unpowered = true →
    ∃ t, exec (.groupPoweredAgain g v) s = .next t ∧ t.dio.groups = lmod s.dio.groups g.val (fun x => { x with
        unpowered := false }) ∧
      t = { s with dio := t.dio, evr := t.evr, hie := t.hie, fresh := t.fresh }) ∧
  (∀ (n : Fin 32) (v : Nat) (c : Bool) (s : State), fld v 16 16 = 0x4A44 → v.testBit 0 = true →
    exec (.doChannelClear n v c) s = .next (dioEvent 0x600D 2 n.val 0 (followPins (modDo n.val (fun x =>
      let hot := x.thermal && !x.cooled && !c
      { x with latched := false, retries := 0, thermal := hot, cooled := false, cleared := hot })) s))) ∧
  (∀ (n : Fin 32) (v : Nat) (c : Bool) (s : State), fld v 16 16 ≠ 0x4A44 →
    exec (.doChannelClear n v c) s = .next (raise
      { code := 0x0004, block := 0x06, detail := 0x10050000 + 0x100 + (32 + n.val) * 0x10 + 0xC } s)) ∧
  (∀ (v : Nat) (s : State), fld v 16 16 = 0x4A44 →
    ∃ t, exec (.doGroupClear v) s = .next t ∧
      (∀ (g : Nat) (x : Group), s.dio.groups[g]? = some x → t.dio.groups[g]? = some
        (if v.testBit g then { x with tripLatched := false, retries := 0 } else x)) ∧
      t = { s with
        dio := { s.dio with groups := t.dio.groups, dout := t.dio.dout, pins := t.dio.pins }, evr := t.evr, hie := t.hie,
        fresh := t.fresh }) ∧
  (∀ (d n : Fin 32) (c : Bool) (s : State), grant s.drw.image d.val 4 ≠ 0 →
    (boundTo s.drw.image 2 n.val).elim false (fun r => ptDrawer r = d.val) = true →
    ∃ t, exec (.doReset d n c) s = .next t ∧ t.answer = .value 1 ∧ t.dio.dout = lmod s.dio.dout n.val (fun x =>
        let hot := x.thermal && !x.cooled && !c
        { x with latched := false, retries := 0, thermal := hot, cooled := false, cleared := hot }) ∧
      t = { s with answer := t.answer, dio := t.dio, evr := t.evr, hie := t.hie, fresh := t.fresh })

/-! ### Analog inputs and outputs (R259 to R278) -/

/-- The monitors of analog channels (R265, R268), what a conversion stores (R261 to R264) and the command of an output (R266,
R267, R269). Loop slots (R283, R285 to R287, R290, R291, R153): an evaluation in its numbers and limits, its result, which
the commit of its release edge writes, and the banks. -/
def Obligations.AnalogMonitors : Prop :=
  (∀ (n : Fin 16) (ok : Bool) (s : State), aioOut (aioCh s n.val).mode = false →
    exec (.referenceCheck n ok) s = .next (modAio n.val (fun c => { c with refBad := !ok }) s)) ∧
  (∀ (n : Fin 16) (ok : Bool) (s : State), aioOut (aioCh s n.val).mode = true →
    ∃ t, exec (.referenceCheck n ok) s = .next t ∧ t.aio.ch = lmod s.aio.ch n.val (fun c => { c with
        refBad := !ok, convFault := !ok, faultSeen := c.faultSeen || !ok }) ∧
      t = { s with aio := t.aio, evr := t.evr, hie := t.hie, fresh := t.fresh }) ∧
  (∀ (n : Fin 16) (s : State), (aioCh s n.val).mode = 5 → (aioCh s n.val).overload = false →
    aioEvaluates s n.val = true → (aioTerminal s n.val).isSome = true →
    exec (.aoOverload n) s = .next (aioEvent 0x7003 n.val 2
      (modAio n.val (fun c => { c with overload := true, faultSeen := true }) s))) ∧
  (∀ (n : Fin 16) (s : State), aioEvaluates s n.val = true →
    exec (.aoOverloadClear n) s = .next (modAio n.val (fun c => { c with overload := false }) s)) ∧
  (∀ (n : Fin 16) (s : State), (aioCh s n.val).mode = 6 → (aioCh s n.val).openLoop = false →
    1000000 ≤ (aioCh s n.val).value → aioEvaluates s n.val = true → (aioTerminal s n.val).isSome = true →
    exec (.aoOpenLoop n) s = .next (aioEvent 0x7003 n.val 1
      (modAio n.val (fun c => { c with openLoop := true, faultSeen := true }) s))) ∧
  (∀ (n : Fin 16) (s : State), aioEvaluates s n.val = true →
    exec (.aoOpenLoopClear n) s = .next (modAio n.val (fun c => { c with openLoop := false }) s)) ∧
  (∀ (n : Fin 16) (s : State), aioEvaluates s n.val = false →
    exec (.aoOverload n) s = .next s ∧ exec (.aoOverloadClear n) s = .next s ∧
    exec (.aoOpenLoop n) s = .next s ∧ exec (.aoOpenLoopClear n) s = .next s) ∧
  (∀ (n tn : Nat) (m : Int) (c : AioCh) (s : State), s.aio.ch[n]? = some c → c.refBad = false →
    let v := clampInt (aioRange c.mode).1 (aioRange c.mode).2 m
    let q := aioBand c.mode v
    let t := aioConvert n tn (some m) s
    (isGood q = true → t.aio.ch[n]? = some { c with
      convFault := false, value := v, quality := q, tick := tn, good := some true, lastGood := some v }) ∧
    (isGood q = false → aioFail c = false → t.aio.ch[n]? = some { c with
      convFault := false, value := v, quality := q, tick := tn, good := some false }) ∧
    (isGood q = false → aioFail c = true → t.aio.ch[n]? = some { c with
      convFault := false, value := c.lastGood.getD 0, quality := q ||| 0x08, tick := tn, good := some false }) ∧
    t = { s with aio := t.aio, evr := t.evr, hie := t.hie, fresh := t.fresh }) ∧
  (∀ (n tn : Nat) (m : Option Int) (c : AioCh) (s : State), s.aio.ch[n]? = some c → c.refBad = true ∨ m = none →
    ∃ c', (aioConvert n tn m s).aio.ch[n]? = some c' ∧ c'.value = c.value ∧ c'.tick = c.tick ∧ c'.convFault = true ∧
      c'.faultSeen = true ∧ c'.quality = ((c.quality &&& 0x7F) ||| 0x40 ||| (if aioFail c then 0x08 else 0))) ∧
  (∀ (n : Nat) (v : Int) (c : AioCh) (s : State), s.aio.ch[n]? = some c → aioOut c.mode = true → s.sys.boot = .loaded →
    s.enabled.contains .aio = true → c.convFault = false →
    let w := max 0 (min v (if c.mode = 5 then 10500000 else 22000000))
    aioTerminal (aioApply n v s) n = some w ∧
    ∃ c', (aioApply n v s).aio.ch[n]? = some c' ∧ c'.clamped = decide (w ≠ v)) ∧
  (∀ (img : List Section) (im : Image) (r : Rec) (bank : List Int) (sw fi : Bool) (k : LoopLinks) (d : LoopDyn),
    k.inner = none → bank.getD 40 0 ≤ bank.getD 41 0 →
    let e := evalDyn img im r bank sw fi k d
    bank.getD 40 0 ≤ e.vPrev ∧ e.vPrev ≤ bank.getD 41 0 ∧
    (e.prevMode = .auto → 0 < bank.getD 42 0 → bank.getD 40 0 ≤ d.vPrev → d.vPrev ≤ bank.getD 41 0 →
      d.vPrev - bank.getD 42 0 ≤ e.vPrev ∧ e.vPrev ≤ d.vPrev + bank.getD 42 0)) ∧
  (∀ (b0 b1 b2 a1 a2 v x x1 x2 y1 y2 : Int) (l : List Int) (i : Bool),
    let y := sat32 (rnd (b0 * x + b1 * x1 + b2 * x2 - a1 * y1 - a2 * y2) 28)
    runSections (b0 :: b1 :: b2 :: a1 :: a2 :: l) i false v 1 0 x [(x1, x2, y1, y2)] = (y, [(x, x1, y, y1)])) ∧
  (∀ (b0 b1 b2 v x x1 x2 y1 y2 : Int) (l : List Int),
    let p := rnd (b0 * x + b1 * x1 + b2 * x2) 28
    (-(2 ^ 31) : Int) ≤ v → v ≤ 2 ^ 31 - 1 → -(2 ^ 31) ≤ v - p → v - p ≤ 2 ^ 31 - 1 →
    (runSections (b0 :: b1 :: b2 :: -(2 ^ 28) :: 0 :: l) true true v 1 0 x [(x1, x2, y1, y2)]).1 = v) ∧
  (∀ (im : Image) (tn e : Nat) (r : Rec) (l : LoopSlot) (s : State), tget s.lpe.slots (lpSlot r) = some l →
    let d := evalDyn s.drw.image im r (activeBank l) l.swapped l.first (loopLinks s.drw.image s.lpe.slots r) l.dyn
    let t := evalSlot im tn e r s
    ∃ l', tget t.lpe.slots (lpSlot r) = some l' ∧ l'.dyn = d ∧ l'.rel = l.rel ∧ l'.catchTn = tn % 2 ^ 32 ∧
      l'.result = some (scaleOut r ((pointRec s.drw.image (lpOut r)).elim 4 ptType) d.vPrev, loopQuality r d.prevMode) ∧
      l'.relEdge = e + lpPeriod r ∧ l'.due = e + lpPeriod r ∧ l'.swapped = false ∧ l'.first = false ∧
      t = { s with lpe := t.lpe, evr := t.evr, hie := t.hie, fresh := t.fresh }) ∧
  (∀ (r : Rec) (l : LoopSlot) (o : Int) (q : Byte) (s : State), r ∈ loopRecs s.drw.image →
    (∀ x ∈ loopRecs s.drw.image, lpSlot x = lpSlot r ∨ lpOut x = lpOut r → x = r) →
    tget s.lpe.slots (lpSlot r) = some l → l.result = some (o, q) → l.relEdge = s.stk.edges → lpOut r ≠ 0xFFFF →
    let t := commitLoops s
    tget t.lpe.slots (lpSlot r) = some { l with rel := l.dyn, result := none } ∧
    (entryOf t.dvt.image (lpOut r)).value =
      (forcedValue s (lpOut r)).getD (normalise (entryOf s.dvt.image (lpOut r)).typ (BitVec.ofInt 64 o)) ∧
    (entryOf t.dvt.image (lpOut r)).quality = withForced s (lpOut r) q) ∧
  (∀ (n v a : Nat) (l : LoopSlot) (r : Rec) (s : State), tget s.lpe.slots n = some l → loopRec s.drw.image n = some r →
    (l.cidx < 43 → ∃ l', tget (applyLpe n 0x18 v a s).lpe.slots n = some l' ∧ l'.cidx = l.cidx + 1 ∧
      activeBank l' = activeBank l ∧
      (if l.activeB then l'.bankA else l'.bankB) = lmod (if l.activeB then l.bankA else l.bankB) l.cidx (fun _ => signed 32 v)) ∧
    (bankFails s.drw.image r (if l.activeB then l.bankA else l.bankB) = 0 →
      tget (applyLpe n 0x1C 1 a s).lpe.slots n = some { l with activeB := !l.activeB, swapped := true, swaps := sat 16 l.swaps 1 }) ∧
    (bankFails s.drw.image r (if l.activeB then l.bankA else l.bankB) ≠ 0 →
      tget (applyLpe n 0x1C 1 a s).lpe.slots n = some { l with swapRefused := true }))
/-! ### Remote I/O (R305 to R328) -/

/-- A reply on 10BASE-T1S that passes every check is the station's next input; one that fails is counted (R313, R316). At the
output instant each medium's marker is released, with its number, for the stations due (R308, R312, R314); at an edge an
accepted reply's items, or their STALE values after a miss, are entries of the version (R316, R317). -/
def Obligations.RemoteReplies : Prop :=
  (∀ (m : Fin 12) (id us : Nat) (p : List Byte) (r : Rec) (x : Station) (d : Due) (s : State), m.val < 8 →
    f8 p 1 = 2 → f8 p 3 < 16 → stationRec s.drw.image (staKey m.val (f8 p 3)) = some r →
    tget s.rio.sta (staKey m.val (f8 p 3)) = some x → x.due = some d →
    replyReason x (stampEdge s us) (stReply r) s.rio.runId (t1sOk p r) (f32 p 4) 32 (some (f16 p 8)) = 0 →
    ∃ t y, exec (.replyReceive m id p us) s = .next t ∧ tget t.rio.sta (staKey m.val (f8 p 3)) = some y ∧
      y.got = some (replyVals p 12 (stIn r), d.tn, max (stampEdge s us) (s.stk.edges + 1)) ∧ y.online = true ∧ y.commLost = false ∧ y.missed = 0 ∧
      y.due = some { d with answered := true } ∧
      t = { s with rio := { s.rio with sta := t.rio.sta }, evr := t.evr, hie := t.hie, fresh := t.fresh }) ∧
  (∀ (m : Fin 12) (k : Fin 16) (r : Rec) (x : Station) (s : State),
    stationRec s.drw.image (staKey m.val k.val) = some r → tget s.rio.sta (staKey m.val k.val) = some x →
    missesAt x r (s.stk.edges + 1) = true → s.dbg.freeze = false →
    ∃ t y, exec (.replyDeadline m k) s = .next t ∧ tget t.rio.sta (staKey m.val k.val) = some y ∧
      y.missed = min 255 (x.missed + 1) ∧ y.misses = sat 32 x.misses 1 ∧
      y.commLost = (x.commLost || decide (min 255 (x.missed + 1) ≥ stLimit r)) ∧
      t.rio.missTotal = sat 32 s.rio.missTotal 1 ∧
      t = { s with rio := t.rio, evr := t.evr, hie := t.hie, fresh := t.fresh }) ∧
  (∀ (m : Fin 12) (x : Medium) (s : State), tget s.rio.media m.val = some x → x.flight = some s.stk.edges →
    notBegun s m.val x = true →
    ∃ t, exec (.markerAbandon m) s = .next t ∧ t.rio.abandonTotal = sat 32 s.rio.abandonTotal 1 ∧
      t.rio.sta = s.rio.sta ∧ (m.val < 8 → t.can = s.can) ∧
      t = { s with rio := t.rio, can := t.can, evr := t.evr, hie := t.hie, fresh := t.fresh }) ∧
  (∀ (m : Fin 12) (k : Fin 16) (s : State), s.dbg.freeze = true → exec (.replyDeadline m k) s = .next s) ∧
  (∀ (dl : List (Nat × Nat)) (m : Nat) (x : Medium) (s : State), marks s.sys.mode = true → s.enabled.contains .rio = true →
    tget s.rio.media m = some x → carries s m = true → (s.rio.media.map (·.1)).Nodup →
    (∀ r ∈ remotes s.drw.image 1, f8 r 2 < 16) →
    let t := rioMarkers dl s
    let due := (remotes s.drw.image 1).filter (fun r => f8 r 1 = m && isDue s s.stk.edges r)
    (∃ y, tget t.rio.media m = some y ∧ y.seq = (x.seq + 1) % 2 ^ 32 ∧ y.last = x.seq ∧ y.flight = some s.stk.edges ∧
      y.frames = if m < 8 then [(m, t1sFrame s m x.seq due)] else canMarker s m x.seq due) ∧
    (∀ r ∈ due, (tget s.rio.sta (rmKey r)).isSome = true → ∃ z, tget t.rio.sta (rmKey r) = some z ∧
      z.due = some { edge := s.stk.edges, tn := s.stk.tn, seq := x.seq })) ∧
  (∀ (dl : List (Nat × Nat)) (s : State), marks s.sys.mode = false ∨ s.enabled.contains .rio = false → rioMarkers dl s = s) ∧
  (∀ (k tn : Nat) (l : List (Nat × Byte)) (i p : Rec) (v : Nat) (q : Byte) (s : State), i ∈ itemsOf s.drw.image k 0 →
    itemPoint s.drw.image i = some p → l[f8 i 6]? = some (v, q) →
    (∀ j ∈ itemsOf s.drw.image k 0, (itemPoint s.drw.image j).map ptIndex = some (ptIndex p) → j = i) →
    let e := entryOf (writeReply k l tn s).dvt.image (ptIndex p)
    e.value = (forcedValue s (ptIndex p)).getD
      (normalise (entryOf s.dvt.image (ptIndex p)).typ (BitVec.ofNat 64 v)) ∧
    e.quality = withForced s (ptIndex p) q ∧ e.tick = tn % 2 ^ 32) ∧
  (∀ (k : Nat) (b : Bool) (i p : Rec) (s : State), (itemsOf s.drw.image k 0).Nodup → i ∈ itemsOf s.drw.image k 0 →
    itemPoint s.drw.image i = some p →
    (∀ j ∈ itemsOf s.drw.image k 0, (itemPoint s.drw.image j).map ptIndex = some (ptIndex p) → j = i) →
    let o := entryOf s.dvt.image (ptIndex p)
    let e := entryOf (writeStale k b s).dvt.image (ptIndex p)
    e.value = (forcedValue s (ptIndex p)).getD (normalise o.typ o.value) ∧ e.tick = o.tick % 2 ^ 32 ∧
    e.quality = withForced s (ptIndex p) (if b then ((o.quality ||| 0x40) &&& 0x7F) ||| 0x02 else o.quality ||| 0x40))

/-! ### CAN FD (R329 to R355) -/

/-- Transmit buffers (R333 to R335): a request waits, a cancelled one ends, SEND writes and requests a buffer. -/
def Obligations.CanRequests : Prop :=
  (∀ (n : Fin 4) (b : Fin 3) (s : State), canRuns s n.val = true →
    txBusy ((canOf s n.val).bufs.getD b.val {}) = false →
    txRefused (canOf s n.val) ((canOf s n.val).bufs.getD b.val {}) = false →
    exec (.canTxRequest n (2 ^ b.val)) s = .next (modBuf n.val b.val (fun x => { x with st := .pending, cancel := false }) s)) ∧
  (∀ (n : Fin 4) (b : Fin 3) (s : State), canRuns s n.val = true →
    exec (.canTxCancel n (2 ^ b.val)) s = .next (modBuf n.val b.val (fun x =>
      if x.st = .pending then { x with st := .cancelled } else if x.st = .active then { x with cancel := true } else x) s)) ∧
  (∀ (core : Fin 16) (n : Fin 4) (b : Fin 3) (id ctrl j : Nat) (l : List Byte) (k : Stroke) (y : Copy) (c : Can)
    (x : CanBuf) (s : State), drivenBy s core.val = some (j, k, y) → grant s.drw.image (taskDrawer s j) (8 + n.val) ≠ 0 →
    canRuns s n.val = true → s.can[n.val]? = some c → c.bufs[b.val]? = some x → txBusy x = false →
    txRefused c { x with ctrl := ctrl % 2 ^ 32 &&& 0xF00F } = false →
    ∃ t c', exec (.canSend core n b id ctrl l) s = .next t ∧ t.can[n.val]? = some c' ∧
      c'.bufs[b.val]? = some { x with
        id := id % 2 ^ 30, ctrl := ctrl % 2 ^ 32 &&& 0xF00F, data := padData l, st := .pending, cancel := false } ∧
      t = { s with can := t.can })

/-- The bus side of sending (R333, R334, R341, R342). The error counts and the states of a channel (R341, R344, R347, R351).
-/
def Obligations.CanAttemptsAndErrorStates : Prop :=
  (∀ (n : Fin 4) (b : Nat) (s : State), canRuns s n.val = true → (canOf s n.val).busOff = false →
    (canOf s n.val).integrating = false → canMonitor (canOf s n.val) = false → (canOf s n.val).active = none →
    (canOf s n.val).waiting = [] → nextBuf (canOf s n.val) = some b →
    ∃ t, exec (.canTxStart n) s = .next t ∧
      (∀ c, s.can[n.val]? = some c → ∃ c', t.can[n.val]? = some c' ∧ c'.active = some b ∧
        c'.bufs = lmod c.bufs b (fun x => { x with st := .active }) ∧ c'.tec = c.tec ∧ c'.rec_ = c.rec_ ∧
        ∃ f, c'.onBus = some f ∧ (f.esi = true ↔ f.fdf = true ∧ canPassive c = true) ∧
          (c'.loopDelay = c.loopDelay ∨ (f.brs = true ∧ canTdc c = true))) ∧
      t = { s with can := t.can, fresh := t.fresh }) ∧
  (∀ (n : Fin 4) (b : Nat) (c : Can) (s : State), s.can[n.val]? = some c → c.active = some b →
    ∃ t c', exec (.canArbitrationLost n) s = .next t ∧ t.can[n.val]? = some c' ∧ c'.active = none ∧ c'.ackRun = 0 ∧
      c'.onBus = none ∧
      c'.tec = c.tec ∧ c'.bufs = (if b < 3 then lmod c.bufs b failBuf else c.bufs) ∧
      t.rio = { s.rio with abandonTotal := if b < 3 || !c.old || c.dropped then s.rio.abandonTotal else sat 32 s.rio.abandonTotal 1 } ∧
      t = { s with can := t.can, rio := t.rio, evr := t.evr, hie := t.hie, fresh := t.fresh }) ∧
  (∀ (n : Fin 4) (b ts : Nat) (c : Can) (s : State), s.can[n.val]? = some c → c.active = some b → b < 3 →
    ∃ t c', exec (.canTxEnd n none ts) s = .next t ∧ t.can[n.val]? = some c' ∧ c'.active = none ∧ c'.tec = c.tec - 1 ∧
      c'.alone = false ∧ c'.lec = 0 ∧ c'.txCount = sat 32 c.txCount 1 ∧
      c'.bufs = lmod c.bufs b (fun x => { x with st := .sent, cancel := false, ts := ts % 2 ^ 64 }) ∧
      t = { s with can := t.can, evr := t.evr, hie := t.hie, fresh := t.fresh }) ∧
  (∀ (n : Fin 4) (b ts : Nat) (e : CanError) (c : Can) (s : State), s.can[n.val]? = some c → c.active = some b → b < 3 →
    ∃ t c', exec (.canTxEnd n (some e) ts) s = .next t ∧ t.can[n.val]? = some c' ∧ c'.active = none ∧
      c'.tec = (if e.exempt && ((e.code = 3 && canPassive c) || e.code = 1) then c.tec + 8 * e.more
        else c.tec + 8 + 8 * e.more) ∧
      c'.bufs = lmod c.bufs b failBuf ∧
      t = { s with can := t.can, evr := t.evr, hie := t.hie, fresh := t.fresh }) ∧
  (∀ (n : Fin 4) (e : CanError) (h : Bool) (c : Can) (s : State), canRuns s n.val = true → s.can[n.val]? = some c →
    c.busOff = false → c.integrating = false →
    ∃ t c', exec (.canRxError n e h) s = .next t ∧ t.can[n.val]? = some c' ∧
      c'.rec_ = (if e.own then c.rec_ else min 255 (c.rec_ + (if h then 8 else 1) + 8 * e.more)) ∧
      c'.tec = (if e.own then c.tec + 8 + 8 * e.more else c.tec) ∧
      t = { s with can := t.can, rio := t.rio, evr := t.evr, hie := t.hie, fresh := t.fresh }) ∧
  (∀ (n : Fin 4) (v : Nat) (s : State), fld v 16 16 = 0x4A42 → v.testBit 0 = true → (canOf s n.val).busOff = true →
    canAuto (canOf s n.val) = false →
    exec (.canRecover n v) s = .next (modCan n.val (fun c => { c with recovering := true }) s)) ∧
  (∀ (n : Fin 4) (v : Nat) (s : State), fld v 16 16 ≠ 0x4A42 →
    exec (.canRecover n v) s = .next (raise { code := 0x0004, block := 0x0A, detail := 0x10090000 + n.val * 0x1000 + 0x20 } s)) ∧
  (∀ (n : Fin 4) (s : State), (canOf s n.val).busOff = true → (canOf s n.val).recovering = true →
    ∃ t, exec (.canBusOffLeft n) s = .next t ∧ t.can = lmod s.can n.val (fun c => { c with
        busOff := false, recovering := false, tec := 0, rec_ := 0, ackRun := 0 }) ∧
      t = { s with can := t.can, evr := t.evr, hie := t.hie, fresh := t.fresh }) ∧
  (∀ (n : Fin 4) (s : State), canRuns s n.val = true →
    exec (.busIntegrationDone n) s = .next (modCan n.val (fun c => { c with integrating := false }) s)) ∧
  (∀ (n : Fin 4) (s : State), canRuns s n.val = true → canFd (canOf s n.val) = false → (canOf s n.val).busOff = false →
    (canOf s n.val).integrating = false →
    ∃ t, exec (.canProtocolException n) s = .next t ∧ t.can = lmod s.can n.val (fun c => { c with
        pxe := sat 32 c.pxe 1, integrating := true, flags := bset c.flags 0 }) ∧
      t = { s with can := t.can, evr := t.evr, hie := t.hie, fresh := t.fresh }) ∧
  (∀ (n : Fin 4) (s : State), s.declared.contains (.can n.val) = false →
    exec (.canErrRead n) s = .next { s with answer := .value 0 }) ∧
  (∀ (n : Fin 4) (s : State), s.declared.contains (.can n.val) = true → exec (.canErrRead n) s = .next { modCan n.val (fun c => { c with lec := 7, dlec := 7 }) s with
    answer := .value (errDetail (canOf s n.val) + (canOf s n.val).dlec * 2 ^ 4 + (canOf s n.val).lec) })

/-- Receive queues (R336 to R339): a matching frame joins its queue; lock, pop and release of the head; RECEIVE. -/
def Obligations.CanQueues : Prop :=
  (∀ (n : Fin 4) (f : CanFrame) (ts : Nat) (r : Rec) (c : Can) (x : CanQueue) (s : State), canRuns s n.val = true →
    s.can[n.val]? = some c → c.busOff = false → c.integrating = false → (f.fdf && !canFd c) = false →
    seqTakes s (8 + n.val) (f.id / 2 ^ 18) = false ∨ f.ide = true → (canPairs s n.val).find? (pairMatches f) = some r → f8 r 4 < 2 →
    c.queues[f8 r 4]? = some x → x.entries.length < 32 →
    ∃ t c', exec (.canFrameReceive n f ts) s = .next t ∧ t.can[n.val]? = some c' ∧
      c'.queues = lmod c.queues (f8 r 4) (fun x => { x with
        entries := x.entries ++ [{ frame := f, pair := f8 r 2, ts := ts % 2 ^ 64, afterLoss := x.loss }], loss := false }) ∧
      c'.rxCount = sat 32 c.rxCount 1 ∧
      t = { s with can := t.can, rio := t.rio, evr := t.evr, hie := t.hie, fresh := t.fresh }) ∧
  (∀ (n : Fin 4) (q : Fin 2) (w : Option (Fin 16)) (s : State), canRuns s n.val = true →
    exec (.canRxqLock n q w) s = .next { modQueue n.val q.val (fun x => if x.entries.isEmpty || x.locked then x
        else { x with locked := true, holder := w.bind (fun c => (s.cores.getD c.val {}).driving.map (fun j => (j, c.val))) }) s with
      answer := .value ((queueHead ((canOf s n.val).queues.getD q.val {})).headD 0) }) ∧
  (∀ (n : Fin 4) (q : Fin 2) (s : State), canRuns s n.val = false →
    exec (.canRxqPop n q) s = .next s ∧ exec (.canRxqRelease n q) s = .next s) ∧
  (∀ (n : Fin 4) (q : Fin 2) (s : State), canRuns s n.val = true → ((canOf s n.val).queues.getD q.val {}).locked = true →
    ((canOf s n.val).queues.getD q.val {}).shadow = none →
    exec (.canRxqPop n q) s = .next (modQueue n.val q.val (fun x => { x with
      entries := x.entries.drop 1, locked := false, holder := none, shadow := none }) s)) ∧
  (∀ (n : Fin 4) (q : Fin 2) (s : State), canRuns s n.val = true → ((canOf s n.val).queues.getD q.val {}).locked = true →
    exec (.canRxqRelease n q) s = .next (modQueue n.val q.val (fun x => { x with locked := false, holder := none }) s)) ∧
  (∀ (core : Fin 16) (n : Fin 4) (q : Fin 2) (j : Nat) (k : Stroke) (y : Copy) (c : Can) (x : CanQueue) (s : State),
    drivenBy s core.val = some (j, k, y) → grant s.drw.image (taskDrawer s j) (8 + n.val) ≠ 0 → canRuns s n.val = true →
    s.can[n.val]? = some c → c.queues[q.val]? = some x → x.entries ≠ [] → x.locked = false → x.shadow = none →
    ∃ t c', exec (.canReceive core n q) s = .next t ∧ t.answer = .values (queueHead x) ∧ t.can[n.val]? = some c' ∧
      c'.queues[q.val]? = some { x with entries := x.entries.drop 1, locked := false, holder := none, shadow := none } ∧
      t = { s with answer := t.answer, can := t.can })
/-! ### Ethernet MACs (R356 to R389) -/

/-- Descriptor rings: RUN, stop and TAIL (R360, R388). -/
def Obligations.RingRegisters : Prop :=
  (∀ (m : Fin 10) (q : Bool) (i l : Nat) (x : Mac) (y : Ring) (s : State), ownerByte s m.val q i ≠ 0xFE →
    macRuns s m.val = true → s.mac[m.val]? = some x → (if q then x.queues else x.rings)[i]? = some y → y.run = false →
    2 ≤ l → l ≤ 12 →
    ∃ t, exec (.macRingRun m q i l) s = .next t ∧ ringOf t m.val q i = { y with
        run := true, stopped := false, log2 := l, head := 0, tail := 0, segs := 0, seen := 0 } ∧
      t = { s with mac := t.mac }) ∧
  (∀ (m : Fin 10) (q : Bool) (i : Nat) (x : Mac) (y : Ring) (s : State), ownerByte s m.val q i ≠ 0xFE →
    macRuns s m.val = true → s.mac[m.val]? = some x → (if q then x.queues else x.rings)[i]? = some y → y.run = true →
    2 ≤ y.log2 → y.log2 ≤ 12 →
    ∃ t, exec (.macRingStop m q i) s = .next t ∧ ringOf t m.val q i = { y with run := false } ∧ t = { s with mac := t.mac }) ∧
  (∀ (m : Fin 10) (q : Bool) (i v : Nat) (s : State), ownerByte s m.val q i ≠ 0xFE → macRuns s m.val = true →
    v < 2 ^ (ringOf s m.val q i).log2 → m.val < 8 ∨ (macOf s m.val).link = true →
    exec (.macTailWrite m q i v) s = .next (modRing m.val q i (fun x => { x with tail := v }) s))

/-- The services of a drawer on its ring and queue (R361, R362): the descriptor is stored, and no byte outside it. -/
def Obligations.EthernetServices : Prop :=
  (∀ (core : Fin 16) (m : Fin 10) (buf len j r : Nat) (k : Stroke) (y : Copy) (s : State),
    drivenBy s core.val = some (j, k, y) → grant s.drw.image (taskDrawer s j) (12 + m.val) ≠ 0 →
    ringOfDrawer s m.val (coreTag s core.val) = some r →
    let x := ringOf s m.val false r
    let a := x.base + 32 * x.tail
    x.run = true → (x.tail + 1) % 2 ^ x.log2 ≠ x.head → coreMem s core.val true a 32 = true → plainBytes a 32 = true →
    macRuns s m.val = true → ringOwnerByte s m.val r ≠ 0xFE → m.val < 8 ∨ (macOf s m.val).link = true →
    ∃ t, exec (.ethSend core m buf len) s = .next t ∧ t.answer = .value 0 ∧
      (r < 4 → r < (macOf s m.val).rings.length → m.val < s.mac.length →
        (ringOf t m.val false r).tail = (x.tail + 1) % 2 ^ x.log2) ∧
      t.mem = Memory.writeN s.mem a (leBytes 4 buf ++ leBytes 4 (len % 2 ^ 17) ++ List.replicate 24 0) ∧
      (∀ b, b < a ∨ a + 32 ≤ b → Memory.read t.mem b = Memory.read s.mem b) ∧
      t = { s with answer := t.answer, mac := t.mac, mem := t.mem, evr := t.evr, hie := t.hie, fresh := t.fresh }) ∧
  (∀ (core : Fin 16) (m : Fin 10) (q j : Nat) (k : Stroke) (y : Copy) (s : State),
    drivenBy s core.val = some (j, k, y) → grant s.drw.image (taskDrawer s j) (12 + m.val) ≠ 0 → q < 8 →
    queueOwnerByte s m.val q = coreTag s core.val →
    let x := ringOf s m.val true q
    let a := x.base + 32 * x.seen
    x.seen ≠ x.head → coreMem s core.val true a 32 = true → plainBytes a 32 = true →
    ∃ t, exec (.ethReceive core m q) s = .next t ∧
      t.answer = .bytes (memBytes s (f32 (memBytes s a 8) 0) (fld (f32 (memBytes s a 8) 4) 0 11)) ∧
      t.mem = Memory.writeN s.mem (a + 4) (List.replicate 20 0) ∧
      (∀ b, b < a + 4 ∨ a + 24 ≤ b → Memory.read t.mem b = Memory.read s.mem b) ∧
      t = { s with answer := t.answer, mac := t.mac, mem := t.mem, evr := t.evr, hie := t.hie, fresh := t.fresh })

/-- A transmit descriptor is written back with its word 3 and no time stamp, where its ring's owner may write, and HEAD
advances, unless the ring has been started again since (R361, R379). -/
def WritesBack (s t : State) (m r w : Nat) (x : MacTx) : Prop :=
  (dmaAccess (ownerTag (ringOwnerByte s m r)) true (x.desc + 12) 12 s).1 = true → plainBytes (x.desc + 12) 12 = true →
    t.mem = Memory.writeN s.mem (x.desc + 12) (leBytes 4 w ++ List.replicate 8 0) ∧
    ∀ g, (macOf s m).rings[r]? = some g → (macOf t m).rings[r]? =
      some (if x.restarted then g else { g with head := (g.head + 1) % 2 ^ g.log2, segs := 0 })

/-- Frames on the line (R364 to R366): start, end, collision, back-off. A plain descriptor is taken from its ring, its frame
read, padded and given its FCS (R361, R369); at its end, and after too many or a late collision, the descriptor is written
back (R361, R365). -/
def Obligations.LineEvents : Prop :=
  (∀ (m : Fin 10) (x : MacTx) (s : State), macRuns s m.val = true →
    (8 ≤ m.val ∨ macPlca (macOf s m.val) = false ∨ ((macOf s m.val).cycle = true ∧ (macOf s m.val).turn = true)) →
    (macOf s m.val).tx = some x → x.onLine = false → x.backoff = none → fitsCycle s m.val (txLen x) = true →
    exec (.macTxStart m) s = .next (modMac m.val (fun y => { y with tx := some { x with onLine := true }, turn := false }) s)) ∧
  (∀ (m : Fin 10) (k : PtpKind) (l : List PtpKind) (s : State), macRuns s m.val = true → 8 ≤ m.val →
    (macOf s m.val).tx = none → (macOf s m.val).link = true → (macOf s m.val).pauseOut = [] → (macOf s m.val).paused = 0 →
    (macOf s m.val).ptpOut = k :: l → fitsCycle s m.val (ptpLen k) = true →
    exec (.macTxStart m) s = .next (modMac m.val (fun y => { y with
      ptpOut := l, tx := some { src := .ptp k, frame := ptpHeader s m.val }, turn := false }) { s with fresh := s.fresh + 1 })) ∧
  (∀ (m : Fin 10) (r : Nat) (y : Mac) (g : Ring) (s : State), macRuns s m.val = true → s.mac[m.val]? = some y →
    y.rings[r]? = some g → y.tx = none → y.pauseOut = [] → y.paused = 0 → y.ptpOut = [] →
    (8 ≤ m.val ∧ y.link = true) ∨ (m.val < 8 ∧ (macPlca y = false ∨ (y.cycle = true ∧ y.turn = true))) →
    (ringOrder y).find? (fun i => ringReady (ringOf s m.val false i)) = some r →
    (dmaAccess (ownerTag (ringOwnerByte s m.val r)) false (headAddr g) 32 s).1 = true →
    let d := memBytes s (headAddr g) 12
    let len := fld (f32 d 4) 0 17
    let f := memBytes s (f32 d 0) len
    (f32 d 4).testBit 30 = false → 14 ≤ len → len ≤ 1514 → 8 ≤ m.val ∨ len ≤ y.room → fitsCycle s m.val len = true →
    (dmaAccess (ownerTag (ringOwnerByte s m.val r)) false (f32 d 0) len s).1 = true →
    exec (.macTxStart m) s = .next (modMac m.val (fun y => { y with
      tx := some { src := .ring r, frame := withFcs (f ++ List.replicate (60 - f.length) 0), tsReq := (f32 d 4).testBit 31,
                   desc := headAddr g, seg := g.segs }
      lastRing := if r = 0 then y.lastRing else r, turn := false }) s)) ∧
  (∀ (m : Fin 10) (ts : Nat) (x : MacTx) (s : State), onLine s m.val = some x →
    ∃ t, exec (.macTxComplete m ts) s = .next t ∧ (x.src ≠ .marker → (macOf t m.val).tx = none) ∧
      (x.src = .marker → (macOf t m.val).marker = none ∧ (macOf t m.val).tx = (macOf s m.val).tx) ∧
      (∀ r, x.src = .ring r → x.total = 0 → x.tsReq = false →
        WritesBack s t m.val r (2 ^ 31 + 2 ^ 16 + (x.collisions + 1)) x ∧
        t = { s with mac := t.mac, mem := t.mem, evr := t.evr, hie := t.hie, drw := t.drw, fresh := t.fresh }) ∧
      t.dio = s.dio ∧ t.stk = s.stk ∧ t.can = s.can) ∧
  (∀ (m : Fin 10) (x : MacTx) (s : State), m.val < 8 → onLine s m.val = some x → x.collisions + 1 < 16 →
    let again := { x with
      collisions := x.collisions + 1, onLine := false,
      backoff := if macPlca (macOf s m.val) then x.backoff else some (Config.freeValue s.fresh % 2 ^ min (x.collisions + 1) 10) }
    ∃ t, exec (.macCollision m) s = .next t ∧
      (if x.src = .marker then (macOf t m.val).marker else (macOf t m.val).tx) = some again ∧
      t = { s with mac := t.mac, fresh := t.fresh }) ∧
  (∀ (m : Fin 10) (x : MacTx) (s : State), m.val < 8 → onLine s m.val = some x → 15 ≤ x.collisions →
    ∃ t, exec (.macCollision m) s = .next t ∧
      (if x.src = .marker then (macOf t m.val).marker else (macOf t m.val).tx) = none ∧
      (∀ r, x.src = .ring r → WritesBack s t m.val r (2 ^ 31 + 2 ^ 27 + 16) x) ∧ t.dio = s.dio ∧ t.stk = s.stk ∧ t.can = s.can) ∧
  (∀ (m : Fin 10) (x : MacTx) (s : State), m.val < 8 → onLine s m.val = some x →
    ∃ t, exec (.macLateCollision m) s = .next t ∧
      (if x.src = .marker then (macOf t m.val).marker else (macOf t m.val).tx) = none ∧
      (∀ r, x.src = .ring r → WritesBack s t m.val r (2 ^ 31 + 2 * 2 ^ 27 + (x.collisions + 1)) x) ∧ t.dio = s.dio ∧ t.stk = s.stk ∧ t.can = s.can) ∧
  (∀ (m : Fin 10) (x : MacTx) (s : State), (macOf s m.val).tx = some x → x.backoff.isSome = true →
    exec (.macBackoffExpiry m) s = .next (modMac m.val (fun y => { y with tx := some { x with backoff := none, onLine := true } }) s))

/-- T1S segments (R366, R367, R384): the coordinator's cycles, the first of which after an output instant carries the marker
(R312), and the conflict flag. -/
def Obligations.SegmentCycles : Prop :=
  (∀ (m : Fin 10) (ns : Nat) (x : Mac) (s : State), macRuns s m.val = true → m.val < 8 → s.mac[m.val]? = some x →
    macPlca x = true →
    ∃ t y, exec (.plcaCycleStart m ns) s = .next t ∧ t.mac[m.val]? = some y ∧ y.cycle = true ∧ y.leftNs = ns ∧
      (∀ z, tget s.rio.media m.val = some z → z.flight = some s.stk.edges → x.cycleEdge ≠ some s.stk.edges →
        y.marker = some { src := .marker, frame := withFcs (z.frames.headD (0, [])).2 } ∧ y.turn = false ∧
        y.cycleEdge = some s.stk.edges) ∧
      t = { s with mac := t.mac }) ∧
  (∀ (m : Fin 10) (ns : Nat) (s : State), macRuns s m.val = true → (macOf s m.val).cycle = true → carries s m.val = true →
    ns < 2000 + 3200 * macNodes (macOf s m.val) + 5000 → m.val < s.mac.length →
    ∃ t, exec (.plcaCycleEnd m ns) s = .next t ∧ t = modMac m.val (fun y => { y with cycle := false, turn := false }) s) ∧
  (∀ (m : Fin 10) (ns : Nat) (x : Mac) (s : State), macRuns s m.val = true → s.mac[m.val]? = some x → x.cycle = true →
    carries s m.val = false ∨ 2000 + 3200 * macNodes x + 5000 ≤ ns →
    ∃ t y, exec (.plcaCycleEnd m ns) s = .next t ∧ t.mac[m.val]? = some y ∧ y.cycle = true ∧ y.leftNs = ns ∧
      t = { s with mac := t.mac }) ∧
  (∀ (m : Fin 10) (s : State), exec (.plcaConflictTimeout m) s = .next (modMac m.val (fun y => { y with conflict := false }) s))

/-- What a received frame meets that is whole, without error, of a legal length and addressed by one of the MAC's address
entries or by none (R370): neither a reply nor PTP, neither control nor broadcast. -/
def PlainFrame (s : State) (m len fill : Nat) (f : List Byte) : Prop :=
  macRuns s m = true ∧ (8 ≤ m → (macOf s m).link = true) ∧ 64 ≤ len ∧ len ≤ 1518 ∧ fill ≤ fifoSize m ∧
  isReply s m f = false ∧ isPtp s m f = false ∧ be16 f 12 ≠ 0x8808 ∧ f.take 6 ≠ List.replicate 6 0xFF

/-- A received frame with a matching address (R362, R370, R371): the frame is stored at BUF and words 1 to 5 of the
descriptor are written, where the queue's owner may write, and HEAD advances; a frame for no address is only counted, as is one
whose FCS is wrong (R450); the beacon of another node sets CONFLICT under PLCA (R366). -/
def Obligations.FrameReception : Prop :=
  (∀ (m : Fin 10) (f : List Byte) (len ts fill : Nat) (x : Mac) (s : State), PlainFrame s m.val len fill f →
    s.mac[m.val]? = some x → (List.range 8).find? (fun e => addrEntry s.drw.image m.val e = some (f.take 6)) = none →
    ∃ t y, exec (.macFrameReceive m (.frame f len (ethFcs f) true false ts fill)) s = .next t ∧ t.mac[m.val]? = some y ∧
      y.cnt = lmod x.cnt 11 (fun v => sat 32 v 1) ∧ y.queues = x.queues ∧ t = { s with mac := t.mac }) ∧
  (∀ (m : Fin 10) (f : List Byte) (len ts fill e : Nat) (r : Rec) (x : Mac) (z : Ring) (s : State),
    PlainFrame s m.val len fill f → s.mac[m.val]? = some x →
    (List.range 8).find? (fun e => addrEntry s.drw.image m.val e = some (f.take 6)) = some e →
    (filters s.drw.image 2).find? (fun r => f8 r 1 = m.val && f8 r 2 = e) = some r →
    x.queues[(steer s m.val (f8 r 4) f).1]? = some z → z.run = true → z.head ≠ z.tail →
    let q := (steer s m.val (f8 r 4) f).1
    let o := ownerTag (queueOwnerByte s m.val q)
    let a := headAddr z
    let buf := f32 (memBytes s a 4) 0
    let w1 := 2 ^ 31 + bit (isTagged f) * 2 ^ 30 + bit (fb f 0 % 2 = 1) * 2 ^ 28 + e * 2 ^ 24 + (steer s m.val (f8 r 4) f).2 * 2 ^ 20 + f.length
    let w2 := etherType f * 2 ^ 16 + (if isTagged f then be16 f 14 else 0)
    (dmaAccess o false a 32 s).1 = true → (dmaAccess o true buf f.length s).1 = true →
    (dmaAccess o true (a + 4) 20 s).1 = true → plainBytes a 32 = true → plainBytes buf f.length = true →
    ∃ t y, exec (.macFrameReceive m (.frame f len (ethFcs f) true false ts fill)) s = .next t ∧ t.mac[m.val]? = some y ∧
      y.queues[q]? = some { z with head := (z.head + 1) % 2 ^ z.log2, drops := 0 } ∧
      y.cnt = lmod x.cnt 6 (fun v => sat 32 v 1) ∧
      t.mem = Memory.writeN (Memory.writeN s.mem buf f) (a + 4)
        (leBytes 4 w1 ++ leBytes 4 w2 ++ leBytes 4 z.drops ++ leBytes 8 (ts % 2 ^ 64)) ∧
      (∀ b, (b < buf ∨ buf + f.length ≤ b) → (b < a + 4 ∨ a + 24 ≤ b) → Memory.read t.mem b = Memory.read s.mem b) ∧
      t = { s with mac := t.mac, mem := t.mem, evr := t.evr, hie := t.hie, fresh := t.fresh }) ∧
  (∀ (m : Fin 10) (f : List Byte) (len fcs ts fill : Nat) (w : Bool) (x : Mac) (s : State), macRuns s m.val = true →
    (8 ≤ m.val → (macOf s m.val).link = true) → s.mac[m.val]? = some x → 64 ≤ len → len ≤ 1518 → fill ≤ fifoSize m.val →
    fcs ≠ ethFcs f →
    ∃ t y, exec (.macFrameReceive m (.frame f len fcs w false ts fill)) s = .next t ∧ t.mac[m.val]? = some y ∧
      y.cnt = lmod x.cnt 7 (fun v => sat 32 v 1) ∧ y.queues = x.queues ∧ t = { s with mac := t.mac }) ∧
  (∀ (m : Fin 10) (x : Mac) (s : State), macRuns s m.val = true → m.val < 8 → s.mac[m.val]? = some x → macPlca x = true →
    ∃ t y, exec (.macFrameReceive m .beacon) s = .next t ∧ t.mac[m.val]? = some y ∧ y.conflict = true ∧
      y.flags = bset x.flags 5 ∧ y.queues = x.queues ∧
      t = { s with mac := t.mac, evr := t.evr, hie := t.hie, fresh := t.fresh })

/-- Flow control and links of a backbone MAC (R368, R372, R373, R379). -/
def Obligations.FlowAndLinks : Prop :=
  (∀ (m : Fin 10) (s : State), exec (.pauseExpiry m) s = .next (modMac m.val (fun y => { y with paused := 0 }) s)) ∧
  (∀ (m : Fin 10) (fill : Nat) (x : Mac) (s : State), s.mac[m.val]? = some x → pauses s m.val = true →
    highWm x * 65536 < fill * 100 → x.pauseCfg / 65536 ≠ 0 →
    ∃ t y, exec (.xoffSend m fill) s = .next t ∧ t.mac[m.val]? = some y ∧ y.pauseOut = x.pauseOut ++ [x.pauseCfg / 65536] ∧
      y.xoff = true ∧ y.fill = min fill (fifoSize m.val) ∧ t = { s with mac := t.mac }) ∧
  (∀ (m : Fin 10) (fill : Nat) (x : Mac) (s : State), s.mac[m.val]? = some x → pauses s m.val = true → x.xoff = true →
    lowWm x * 65536 ≤ fill * 100 → x.pauseCfg / 65536 ≠ 0 →
    ∃ t y, exec (.xoffRepeat m fill) s = .next t ∧ t.mac[m.val]? = some y ∧ y.pauseOut = x.pauseOut ++ [x.pauseCfg / 65536] ∧
      y.xoff = true ∧ y.fill = min fill (fifoSize m.val) ∧ t = { s with mac := t.mac }) ∧
  (∀ (m : Fin 10) (fill : Nat) (x : Mac) (s : State), s.mac[m.val]? = some x → pauses s m.val = true → x.xoff = true →
    fill * 100 < lowWm x * 65536 →
    ∃ t y, exec (.xonSend m fill) s = .next t ∧ t.mac[m.val]? = some y ∧ y.pauseOut = x.pauseOut ++ [0] ∧
      y.xoff = false ∧ y.fill = min fill (fifoSize m.val) ∧ t = { s with mac := t.mac }) ∧
  (∀ (m : Fin 10) (g : Bool) (x : Mac) (s : State), 8 ≤ m.val → macRuns s m.val = true → s.mac[m.val]? = some x →
    x.link = false →
    ∃ t y, exec (.macLinkUp m g) s = .next t ∧ t.mac[m.val]? = some y ∧ y.link = true ∧
      y.speed = (if g && !x.opts.testBit 2 then 3 else 2) ∧ y.refused = false ∧
      t = { s with mac := t.mac, evr := t.evr, hie := t.hie, fresh := t.fresh }) ∧
  (∀ (m : Fin 10) (s : State), 8 ≤ m.val → (macOf s m.val).link = true →
    ∃ t, exec (.macLinkDown m) s = .next t ∧ (macOf t m.val).link = false ∧ (macOf t m.val).tx = none ∧
      (macOf t m.val).paused = 0 ∧ (macOf t m.val).pauseOut = [] ∧ t.dio = s.dio ∧ t.stk = s.stk ∧ t.can = s.can) ∧
  (∀ (m : Fin 10) (s : State), 8 ≤ m.val → macRuns s m.val = true → (macOf s m.val).link = false →
    exec (.macLinkRefused m) s = .next (macEvent 0xB003 m.val 0 0
      (modMac m.val (fun y => { y with refused := true, negotiating := false }) s))) ∧
  (∀ (m : Fin 10) (s : State), (macOf s m.val).refused = true → (macOf s m.val).link = false →
    exec (.macRenegotiate m) s = .next (modMac m.val (fun y => { y with negotiating := true }) s))

/-! ### Time: PTP and the calendar (R390 to R424) -/

/-- PTP ports and time-stamp queues (R395, R400 to R403, R417). The time base is set to PTP time as the module aligns, and at the
joining edge, at least one whole tick period later, the tick count takes its aligned value (R390, R391, R393). -/
def Obligations.PtpPorts : Prop :=
  (∀ (m : Fin 10) (g : PtpMessage) (s : State), ptpEnabled s m.val = true → profileHas s g.kind = true → g.domain ≠ fld s.ptp.cfg 16 8 →
    exec (.ptpMessageReceive m g) s = .next (modPort m.val (fun p => { p with ignored := sat 8 p.ignored 1 }) s)) ∧
  (∀ (m : Fin 10) (g : PtpMessage) (s : State), ptpEnabled s m.val = false ∨ profileHas s g.kind = false →
    exec (.ptpMessageReceive m g) s = .next s) ∧
  (∀ (m : Fin 10) (g : PtpMessage) (s : State), ptpEnabled s m.val = true → profileHas s g.kind = true →
    g.domain = fld s.ptp.cfg 16 8 → g.kind ≠ .sync ∨ g.twoStep = true → g.roles = none → g.offset = none →
    s.ptp.aligned = true ∨ s.ptp.slavePort = 0xF →
    exec (.ptpMessageReceive m g) s = .next (g.delay.elim s (fun d =>
      modPort m.val (fun p => { p with delay := min d 0xFFFF, measured := true }) s))) ∧
  (∀ (m : Fin 10) (r : PtpRoles) (s : State), ptpEnabled s m.val = true →
    ∃ t, exec (.announceTimeout m r) s = .next t ∧
      t.ptp.slavePort = (match r.slave with | some n => if 8 ≤ n && ptpEnabled s n then n else 0xF | none => 0xF) ∧
      t.ptp.gm = (r.gm && ptpFlag s 1 && decide (t.ptp.slavePort = 0xF)) ∧
      t.ptp.gmId = (if t.ptp.gm then clockIdentity s else r.gmId % 2 ^ 64) ∧
      t = { s with stk := { s.stk with baseNs := t.stk.baseNs }, ptp := t.ptp, evr := t.evr, hie := t.hie, fresh := t.fresh }) ∧
  (∀ s : State, s.ptp.st = .locked → s.ptp.gm = false →
    ∃ t, exec .syncTimeout s = .next t ∧ t.ptp = { s.ptp with st := .holdover, good := 0, bad := 0, mark := s.stk.edges } ∧
      t = { s with ptp := t.ptp, evr := t.evr, hie := t.hie, fresh := t.fresh }) ∧
  (∀ s : State, s.ptp.st = .holdover →
    ∃ t, exec .holdoverExpiry s = .next t ∧ t.ptp = { s.ptp with st := .free, good := 0, bad := 0 } ∧
      t = { s with ptp := t.ptp, evr := t.evr, hie := t.hie, fresh := t.fresh }) ∧
  (∀ (m : Fin 10) (k : PtpKind) (s : State), ptpEnabled s m.val = true → maySend s m.val k = true →
    exec (.ptpMessageSend m k) s = .next (modMac m.val (fun x => { x with ptpOut := x.ptpOut ++ [k] })
      (if k = .announce then { s with ptp := { s.ptp with announced := some (announceOf s) } } else s))) ∧
  (∀ (ns since : Nat) (s : State), s.ptp.aligned = false → s.ptp.join = none →
    let last : Int := (ns : Int) - (since % 250000 : Nat)
    (startJoin ns since s).stk = { s.stk with baseNs := last - (s.stk.edges * 250000 : Nat) } ∧
    ∃ k : Int, last + 250000 ≤ s.ptp.origin * 1000000000 + k * 250000 ∧
      s.ptp.origin * 1000000000 + k * 250000 < last + 500000 ∧
      (startJoin ns since s).ptp = { s.ptp with join := some (twos 64 k, (s.ptp.origin * 1000000000 + k * 250000).toNat,
        (s.ptp.origin * 1000000000 + k * 250000 - last).toNat) }) ∧
  (∀ (tn j iv : Nat) (s : State), s.ptp.join = some (tn, j, iv) →
    let t := joinEdge s
    t.stk = { s.stk with tn := tn, baseNs := (j : Int) - (s.stk.edges * 250000 : Nat) } ∧ t.ptp.join = none ∧
    t.ptp.aligned = true ∧ t.ptp.alignTn = tn % 2 ^ 32 ∧ t.ptp.st = (if s.ptp.gm then .locked else .acquiring) ∧
    t = { s with stk := t.stk, ptp := t.ptp, aio := t.aio, evr := t.evr, hie := t.hie, fresh := t.fresh }) ∧
  (∀ (m : Fin 10) (r i ts : Nat) (l : List (Nat × Nat × Nat)) (s : State),
    (s.ptp.tsq.getD m.val {}).entries = (r, i, ts) :: l →
    exec (.tsqHeadRead m) s = .next { modTsq m.val (fun q => { q with entries := l, latch := ts }) s with
      answer := .value (2 ^ 31 + r * 2 ^ 26 + i % 2 ^ 12) }) ∧
  (∀ (m : Fin 10) (s : State), exec (.tsqEntryExpiry m) s = .next (modTsq m.val (fun q => { q with entries := q.entries.drop 1 }) s))

/-- The calendar counts and is set (R404 to R408, R422, R423). -/
def Obligations.CalendarCommands : Prop :=
  (∀ (v : Nat) (s : State), s.rtc.valid = true → s.rtc.pendingSet = none →
    ∃ t, exec (.rtcSecond v) s = .next t ∧
      t.rtc.seconds = (if s.rtc.seconds = 4291747199 then 0 else s.rtc.seconds + 1) ∧ t.rtc.subsec = 0 ∧
      t.rtc.epoch = s.rtc.epoch ∧
      t = { s with rtc := t.rtc, evr := t.evr, hie := t.hie, fresh := t.fresh }) ∧
  (∀ (v n : Nat) (s : State), s.rtc.valid = true → s.rtc.pendingSet = some n →
    ∃ t, exec (.rtcSecond v) s = .next t ∧ t.rtc.seconds = n ∧ t.rtc.subsec = 0 ∧ t.rtc.pendingSet = none ∧
      t.rtc.osf = false ∧
      t = { s with rtc := t.rtc, evr := t.evr, hie := t.hie, fresh := t.fresh }) ∧
  (∀ (n : Nat) (s : State), s.enabled.contains .rtc = true → setSeconds s.rtc.set0 s.rtc.set1 = some n →
    exec (.rtcSetNextEdge 0x4A54) s = .next { s with rtc := { s.rtc with refused := false, pendingSet := some n } }) ∧
  (∀ (n : Nat) (s : State), s.enabled.contains .rtc = true → setSeconds s.rtc.set0 s.rtc.set1 = some n →
    ∃ t, exec (.rtcSetImmediate 0x4A54 none) s = .next t ∧ t.rtc.seconds = n ∧ t.rtc.subsec = 0 ∧ t.rtc.osf = false ∧
      t.rtc.pendingSet = none ∧ t.rtc.epoch = (if s.rtc.epoch = 255 then 1 else s.rtc.epoch + 1) ∧
      t = { s with rtc := t.rtc, evr := t.evr, hie := t.hie, fresh := t.fresh }) ∧
  (∀ s : State, s.enabled.contains .rtc = true →
    exec (.rtcSetCancel 0x4A54) s = .next { s with rtc := { s.rtc with pendingSet := none, refused := false } }) ∧
  (∀ (k : Nat) (s : State), s.enabled.contains .rtc = true → k ≠ 0x4A54 →
    exec (.rtcSetNextEdge k) s = .next (raise { code := 0x0004, block := 0x0D, detail := 0x100C0024 } s) ∧
    exec (.rtcSetCancel k) s = .next (raise { code := 0x0004, block := 0x0D, detail := 0x100C0024 } s)) ∧
  (∀ (core : Fin 16) (s0 s1 n j : Nat) (k : Stroke) (y : Copy) (s : State), drivenBy s core.val = some (j, k, y) →
    grant s.drw.image (taskDrawer s j) 23 ≠ 0 → setSeconds (s0 % 2 ^ 17) (s1 &&& 0xFFFF0F1F) = some n →
    exec (.rtcSet core s0 s1) s = .next { s with rtc := { s.rtc with
      set0 := s0 % 2 ^ 17, set1 := s1 &&& 0xFFFF0F1F, refused := false, pendingSet := some n } }) ∧
  (∀ (core : Fin 16) (j : Nat) (k : Stroke) (y : Copy) (s : State), drivenBy s core.val = some (j, k, y) →
    exec (.rtcNow core) s = .next { s with answer := .values [time0 s.rtc.seconds, time1 s.rtc.seconds, s.rtc.seconds] }) ∧
  (∀ (u : Fin 32768) (s : State), s.enabled.contains .rtc = true → exec (.rtcTimeLatch u) s = .next { s with
    rtc := { s.rtc with
      latch1 := time1 s.rtc.seconds, latchSub := max u.val s.rtc.subsec, latchSec := s.rtc.seconds,
      subsec := max u.val s.rtc.subsec },
    answer := .value (time0 s.rtc.seconds) }) ∧
  (∀ (k : Nat) (u : Fin 32768) (s : State), s.enabled.contains .rtc = false →
    exec (.rtcSetNextEdge k) s = .next s ∧ exec (.rtcSetImmediate k none) s = .next s ∧ exec (.rtcSetCancel k) s = .next s ∧
    ∃ t, exec (.rtcTimeLatch u) s = .next t ∧ t = { s with answer := t.answer, fresh := t.fresh })

/-- Trimming from PTP, and the backup domain (R408, R409, R411 to R413). -/
def Obligations.BackupDomain : Prop :=
  (∀ (ns o : Nat) (c : Fin 32768) (s : State), announcedOffset s = some o → rtcTrim s = true →
    s.enabled.contains .rtc = true → s.ptp.st = .locked →
    let utc := utcCycles o ns s
    let sub := max c.val s.rtc.subsec
    let d := ((utc : Int) - (s.rtc.seconds * 32768 + sub : Nat)).natAbs
    (d * 10 ≤ 32768 → exec (.rtcTrimCheck ns c) s = .next { s with rtc := { s.rtc with
      trim := d, trimUp := decide (s.rtc.seconds * 32768 + sub < utc), subsec := sub } }) ∧
    (32768 < d * 10 → ∃ t, exec (.rtcTrimCheck ns c) s = .next t ∧ t.rtc.seconds = utc / 32768 % 4291747200 ∧
      t.rtc.subsec = utc % 32768 ∧ t.rtc.osf = false ∧ t.rtc.pendingSet = none ∧
      t = { s with rtc := t.rtc, evr := t.evr, hie := t.hie, fresh := t.fresh })) ∧
  (∀ (ns : Nat) (c : Fin 32768) (s : State), announcedOffset s = none ∨ s.ptp.st ≠ .locked →
    exec (.rtcTrimCheck ns c) s = .next s) ∧
  (∀ s : State, s.rtc.trim ≠ 0 → exec .rtcTrimStep s = .next { s with rtc := { s.rtc with
    trim := s.rtc.trim - 1
    subsec := if s.rtc.trimUp then min (s.rtc.subsec + 1) 32767 else s.rtc.subsec - 1 } }) ∧
  (∀ s : State, s.rtc.valid = true →
    exec .oscStop s = .next (raise { code := 0xC007, block := 0x0D } { s with
      rtc := { s.rtc with osf := true, oscStop := true } })) ∧
  (∀ s : State, ∃ t, exec .backupDomainReset s = .next t ∧ t.rtc.valid = false ∧ t.rtc.seconds = 0 ∧ t.rtc.epoch = 0 ∧
    t.rtc.subsec = 0 ∧ t.rtc.canary = false ∧ t.rtc.general = List.replicate 32 0 ∧ t.rtc.captured = false ∧
    t.rtc.osf = s.rtc.osf ∧
    t = { s with rtc := t.rtc, key := { s.key with tamper := t.key.tamper } }) ∧
  (∀ s : State, s.rtc.valid = false → s.rtc.checkDue = false →
    exec .backupDomainValid s = .next { s with rtc := { s.rtc with
      valid := true, seconds := 0, subsec := 0, epoch := 0 } }) ∧
  (∀ s : State, s.rtc.valid = false → s.rtc.checkDue = true → s.rtc.feedVbak = false → s.rtc.canary = false →
    ∃ t, exec .backupDomainValid s = .next t ∧ t.rtc.valid = true ∧ t.rtc.seconds = 0 ∧ t.rtc.canary = true ∧
      t.rtc.checkDue = false ∧ t.rtc.osf = true ∧ t.rtc.domainLost = true ∧ t.rtc.general = List.replicate 32 0 ∧
      t.sys.cause.testBit 0 = true ∧ t.sys.primary = 1 ∧ t.sys.outage = 0xFFFFFFFF ∧
      t = { s with sys := t.sys, rtc := t.rtc, key := { s.key with tamper := t.key.tamper }, evr := t.evr, hie := t.hie,
                   fresh := t.fresh }) ∧
  (∀ (b : Bool) (s : State), s.rtc.checkDue = false ∨ s.rtc.valid = false ∨ b = true →
    exec (.backupFeedSwitch b) s = .next { s with rtc := { s.rtc with feedVbak := b } }) ∧
  (∀ s : State, s.rtc.checkDue = true → s.rtc.valid = true → s.rtc.canary = true →
    exec (.backupFeedSwitch false) s = .next { s with rtc := { s.rtc with feedVbak := false, checkDue := false } })
/-! ### Event recorder (R425 to R446, R578 to R582) -/

/-- The rate-limited codes of R432 are the listed ones and no others; an occurrence of every other code takes no token and
never folds: whatever its bucket holds, it merges into the open head or is a record of its own (R581). -/
def Obligations.RateLimitedCodes : Prop :=
  (∀ code : Nat, rateLimited code = true ↔
    code = 0x4004 ∨ code = 0x5004 ∨ (0x8001 ≤ code ∧ code ≤ 0x8005) ∨ code = 0x9005 ∨ code = 0xA006 ∨ code = 0xA007 ∨
      code = 0xA009 ∨ (0xB004 ≤ code ∧ code ≤ 0xB007) ∨ code = 0xB00B ∨ code = 0xB00C ∨ code = 0xF009 ∨ code = 0xF012) ∧
  (∀ (o : Occ) (s : State), rateLimited o.code = false → s.evr.running = true → s.evr.cycle = none → s.evr.buffer < 256 →
    s.evr.records.length < storeCap → tracked s.hie.egress < 4096 →
    (raise o s).evr.spent = s.evr.spent ∧ (raise o s).evr.folds = s.evr.folds ∧
    (mergesHead o s.evr = true → (raise o s).evr.records = lmod s.evr.records (s.evr.records.length - 1)
      (fun r => { r with repeats := r.repeats + 1 })) ∧
    (mergesHead o s.evr = false → ∃ r, (raise o s).evr.records = s.evr.records ++ [r] ∧ r.code = o.code ∧ r.repeats = 1 ∧
      r.folded = false))

/-- What an occurrence does to the store (R430 to R433): with room in the buffer it merges into the open head, or, when its
code is not rate-limited or its bucket holds a token, it is one new record with the next RECNO, or it folds into a record
of the same code and drawer, whose fields stay; without room it is counted as a drop, unless it is a clear's own record (log entry 5); before the boot's recorder
runs it is held. Nothing but the recorder, and the link that forwards a record, changes. A new record may itself raise 0xF009 where the
egress arbiter's table is full (R531), so these say what happens where it has room. -/
def Obligations.OccurrenceEntry : Prop :=
  (∀ (o : Occ) (s : State), raise o s = { s with
    evr := (raise o s).evr, hie := (raise o s).hie, fresh := (raise o s).fresh }) ∧
  ∀ (o : Occ) (s : State), s.evr.cycle = none →
    (s.evr.running = false → (raise o s).evr = { s.evr with held := holdOcc o s.evr.held }) ∧
    (s.evr.running = true → 256 ≤ s.evr.buffer → o.code ≠ 0x0021 →
      (raise o s).evr = { s.evr with drops := sat 32 s.evr.drops 1, dropped := s.evr.dropped + 1 }) ∧
    (s.evr.running = true → s.evr.buffer < 256 → mergesHead o s.evr = true →
      (raise o s).evr.next = s.evr.next ∧
      (raise o s).evr.records = lmod s.evr.records (s.evr.records.length - 1) (fun r => { r with repeats := r.repeats + 1 })) ∧
    (s.evr.running = true → s.evr.buffer < 256 → mergesHead o s.evr = false → s.evr.records.length < storeCap →
      tracked s.hie.egress < 4096 → rateLimited o.code = false ∨ tnum s.evr.spent o.code < s.evr.burst →
      (raise o s).evr.next = (s.evr.next + 1) % 2 ^ 32 ∧ (raise o s).evr.drops = s.evr.drops ∧
      ∃ r, (raise o s).evr.records = s.evr.records ++ [r] ∧ r.recno = s.evr.next ∧ r.code = o.code ∧ r.drawer = o.drawer ∧
        r.severity = severity o.code ∧ r.block = o.block ∧ r.unit = o.unit ∧ r.detail = w32 o.detail ∧ r.repeats = 1 ∧
        r.folded = false ∧ r.cycles = s.evr.cycles ∧ r.opTime = s.evr.opTime % 2 ^ 48 ∧ r.cal = s.rtc.seconds) ∧
    (∀ i r, s.evr.running = true → s.evr.buffer < 256 → mergesHead o s.evr = false → rateLimited o.code = true →
      s.evr.burst ≤ tnum s.evr.spent o.code → foldTarget o s.evr = some i → s.evr.records[i]? = some r → r.repeats < 32767 →
      (raise o s).evr.next = s.evr.next ∧ (raise o s).evr.folds = sat 32 s.evr.folds 1 ∧ r.code = o.code ∧ r.drawer = o.drawer ∧
      (raise o s).evr.records = lmod s.evr.records i (fun x => { x with repeats := x.repeats + 1, folded := true }))

/-- The recorder's own commands (R428, R430 to R434, R578, R582), and what reading and clearing leave of it in every state
(R436 to R439): reading and moving a cursor change no record, and a clear moves the floor alone, to the record it writes. -/
def Obligations.RecorderUpkeep : Prop :=
  (∀ (code b u d x : Nat) (s : State), knownCode code = true →
    exec (.eventOccurrence code b u d x) s = .next (raise
      { code := code, block := b % 32, unit := u % 2048, drawer := d % 32, detail := x } s)) ∧
  (∀ (code b u d x : Nat) (s : State), knownCode code = false → exec (.eventOccurrence code b u d x) s = .next s) ∧
  (∀ s : State, ∃ t, exec .eventBufferEmpty s = .next t ∧ t.evr.buffer = 0 ∧ t.evr.bufferNew = 0 ∧
    (s.evr.dropped = 0 → t.evr.records = s.evr.records) ∧
    t = { s with evr := t.evr, hie := t.hie, fresh := t.fresh }) ∧
  (∀ s : State, exec .headClose s = .next { s with evr := { s.evr with headOpen := false } }) ∧
  (∀ (c : Nat) (s : State), exec (.tokenGain c) s = .next { s with
    evr := { s.evr with spent := tset s.evr.spent c (tnum s.evr.spent c - 1) } }) ∧
  (∀ s : State, exec .opTimeSave s = .next { s with evr := { s.evr with opSaved := s.evr.opTime } }) ∧
  (∀ s : State, s.evr.moving = false ∨ s.sys.nandPaused = true → exec .batchMoveDone s = .next s) ∧
  (∀ s : State, s.evr.moving = true → s.sys.nandPaused = false → ∃ t, exec .batchMoveDone s = .next t ∧
    t.evr.records = s.evr.records.drop 4096 ∧
    (s.evr.archive.length ≤ archiveCap - 4096 → t.evr.archive = s.evr.archive ++ s.evr.records.take 4096) ∧
    t.evr.next = s.evr.next ∧ t = { s with evr := t.evr }) ∧
  (∀ s : State, ∃ t, exec .eventWindowLatch s = .next t ∧ t.evr.records = s.evr.records ∧ t.evr.archive = s.evr.archive ∧
    t.evr.next = s.evr.next ∧ t.evr.floor = s.evr.floor ∧ t = { s with answer := t.answer, evr := t.evr }) ∧
  (∀ (c : Fin 33) (v : Nat) (s : State), ∃ t, exec (.eventCursorWrite c v) s = .next t ∧
    (∀ k, k ≠ c.val → t.evr.cursors[k]? = s.evr.cursors[k]?) ∧
    t = { s with evr := { s.evr with cursors := t.evr.cursors, skips := t.evr.skips } }) ∧
  (∀ (core : Fin 16) (d v : Nat) (s : State), callerDrawer s core.val = some d →
    (∃ t, exec (.eventRead core) s = .next t ∧ t.answer ≠ .refused ∧ t.evr.records = s.evr.records ∧
      t.evr.archive = s.evr.archive ∧ t.evr.next = s.evr.next ∧ t.evr.floor = s.evr.floor ∧
      t = { s with answer := t.answer, evr := t.evr }) ∧
    (∃ t, exec (.eventSeek core v) s = .next t ∧ (∀ k, k ≠ d → t.evr.cursors[k]? = s.evr.cursors[k]?) ∧
      t = { s with evr := { s.evr with cursors := t.evr.cursors, skips := t.evr.skips } }) ∧
    (∃ t, exec (.eventNext core) s = .next t ∧ t.answer ≠ .refused ∧ t = { s with answer := t.answer })) ∧
  (∀ s : State, ∃ t, exec (.evrClear 0x4A450001) s = .next t ∧
    (t.evr.floor = s.evr.floor ∨ t.evr.floor = s.evr.next) ∧ t = { s with evr := t.evr, hie := t.hie, fresh := t.fresh }) ∧
  (∀ (core : Fin 16) (s : State), callerDrawer s core.val = some 0 → ∃ t, exec (.eventClear core) s = .next t ∧
    t.answer = .value 0 ∧ (t.evr.floor = s.evr.floor ∨ t.evr.floor = s.evr.next) ∧
    t = { s with answer := t.answer, evr := t.evr, hie := t.hie, fresh := t.fresh })

/-- Reading records (R436 to R438, R445): the record a cursor stands at enters the window, as it is stored, WSTAT says
whether records were skipped, whether it is the open head and whether it is archived, and that cursor alone passes on, to the
RECNO after it; the store does not change. A clear (R439, R446) writes its own event 0x0021, a full buffer or not (log entry 5), and raises
the floor to that record; no record is erased by it. -/
def Obligations.EventReadingAndClearing : Prop :=
  (∀ (r : EvRecord) (a : Bool) (s : State),
    let c := s.evr.select
    let v := settleCursor s.evr (s.evr.cursors.getD c 1)
    findRecord s.evr c v.1 = some (r, a) →
    ∃ t, exec .eventWindowLatch s = .next t ∧ t.evr.wrecno = r.recno ∧
      t.evr.cursors = lmod s.evr.cursors c (fun _ => (r.recno + 1) % 2 ^ 32) ∧
      t.evr.wstat = w32 (2 ^ 31 + bit (v.2 || s.evr.skips.getD c false) * 2 ^ 30 +
        bit (s.evr.headOpen && s.evr.records.getLast?.elim false (fun h => h.recno = r.recno)) * 2 ^ 29 + bit a * 2 ^ 28 + c) ∧
      t.evr.window = (List.range 8).map (fun i => w32 (f32 (recordBytes r) (4 * i))) ∧
      (∀ k, k ≠ c → t.evr.cursors[k]? = s.evr.cursors[k]?) ∧ t.evr.records = s.evr.records ∧ t.evr.archive = s.evr.archive ∧
      t = { s with answer := t.answer, evr := t.evr }) ∧
  (∀ (core : Fin 16) (d : Nat) (r : EvRecord) (a : Bool) (s : State), callerDrawer s core.val = some d → d < 32 →
    let v := settleCursor s.evr (s.evr.cursors.getD d 1)
    findRecord s.evr d v.1 = some (r, a) →
    ∃ t, exec (.eventRead core) s = .next t ∧ t.evr.wrecno = r.recno ∧
      t.evr.cursors = lmod s.evr.cursors d (fun _ => (r.recno + 1) % 2 ^ 32) ∧
      t.evr.wstat = w32 (2 ^ 31 + bit (v.2 || s.evr.skips.getD d false) * 2 ^ 30 +
        bit (s.evr.headOpen && s.evr.records.getLast?.elim false (fun h => h.recno = r.recno)) * 2 ^ 29 + bit a * 2 ^ 28 + d) ∧
      t.answer = .bytes (((List.range 8).map (fun i => w32 (f32 (recordBytes r) (4 * i)))).flatMap (fun w => leBytes 4 w.toNat)) ∧
      (∀ k, k ≠ d → t.evr.cursors[k]? = s.evr.cursors[k]?) ∧ t.evr.records = s.evr.records ∧ t.evr.archive = s.evr.archive ∧
      t = { s with answer := t.answer, evr := t.evr }) ∧
  (∀ (c : Fin 33) (v : Nat) (s : State),
    ∃ t, exec (.eventCursorWrite c v) s = .next t ∧
      t.evr.cursors = lmod s.evr.cursors c.val (fun _ => (clampCursor s.evr (v % 2 ^ 32)).1) ∧
      t.evr.records = s.evr.records ∧ t = { s with evr := t.evr }) ∧
  (∀ (core : Fin 16) (d v : Nat) (s : State), callerDrawer s core.val = some d →
    (∃ t, exec (.eventSeek core v) s = .next t ∧
      t.evr.cursors = lmod s.evr.cursors d (fun _ => (clampCursor s.evr (v % 2 ^ 32)).1) ∧
      t.evr.records = s.evr.records ∧ t = { s with evr := t.evr }) ∧
    exec (.eventNext core) s = .next { s with answer := .value (settleCursor s.evr (s.evr.cursors.getD d 1)).1 }) ∧
  (∀ (v : Nat) (s : State), fld v 16 16 = 0x4A45 → v.testBit 0 = true → s.evr.running = true → s.evr.cycle = none →
    s.evr.records.length < storeCap → tracked s.hie.egress < 4096 →
    ∃ t r, exec (.evrClear v) s = .next t ∧ t.evr.floor = s.evr.next ∧ t.evr.records = s.evr.records ++ [r] ∧
      r.code = 0x0021 ∧ r.recno = s.evr.next ∧ t.evr.archive = s.evr.archive ∧
      t = { s with evr := t.evr, hie := t.hie, fresh := t.fresh }) ∧
  (∀ (core : Fin 16) (s : State), callerDrawer s core.val = some 0 → s.evr.running = true → s.evr.cycle = none →
    s.evr.records.length < storeCap → tracked s.hie.egress < 4096 →
    ∃ t r, exec (.eventClear core) s = .next t ∧ t.answer = .value 0 ∧ t.evr.floor = s.evr.next ∧
      t.evr.records = s.evr.records ++ [r] ∧ r.code = 0x0021 ∧
      t = { s with answer := t.answer, evr := t.evr, hie := t.hie, fresh := t.fresh }) ∧
  (∀ (core : Fin 16) (d : Nat) (s : State), callerDrawer s core.val = some d → d ≠ 0 →
    exec (.eventClear core) s = .next { s with answer := .refused }) ∧
  (∀ (v : Nat) (s : State), fld v 16 16 ≠ 0x4A45 →
    exec (.evrClear v) s = .next (raise { code := 0x0004, block := 0x0E, detail := 0x100D0018 } s))

/-! ### Check-value units (R447 to R458) -/

/-- A unit fed by software (R448, R451): a new configuration restarts the running value, data advance it. DMA jobs (R452,
R453): an accepted job runs; COMPUTE leaves memory as it is, APPEND writes the data and their check, STRIP the data without
it and says whether it matched; a job of a unit that does not run waits (R43). The service CRC_BLOCK returns status, result and
match. -/
def Obligations.CheckValueUnits : Prop :=
  (∀ (n : Fin 6) (v : Nat) (u : Cvu) (s : State), cvuRuns s n.val = true → s.cvu[n.val]? = some u → u.busy = false →
    ∃ t, exec (.cvuCfgWrite n v) s = .next t ∧ t.cvu[n.val]? = some { u with
        poly := v % 4, mode := fld v 4 2, run := (crcKind (v % 4)).init, count := 0 } ∧ t = { s with cvu := t.cvu }) ∧
  (∀ (n : Fin 6) (u : Cvu) (s : State), cvuRuns s n.val = true → s.cvu[n.val]? = some u → u.busy = false → u.mode = 0 →
    (∀ v, ∃ t, exec (.cvuData8 n v) s = .next t ∧ t.cvu[n.val]? = some { u with
        run := crcFeed (crcKind u.poly) u.run [v], count := sat 32 u.count 1 } ∧ t = { s with cvu := t.cvu }) ∧
    (∀ v, ∃ t, exec (.cvuData16 n v) s = .next t ∧ t.cvu[n.val]? = some { u with
        run := crcFeed (crcKind u.poly) u.run (leBytes 2 v.toNat), count := sat 32 u.count 2 } ∧ t = { s with cvu := t.cvu }) ∧
    (∀ v, ∃ t, exec (.cvuData32 n v) s = .next t ∧ t.cvu[n.val]? = some { u with
        run := crcFeed (crcKind u.poly) u.run (leBytes 4 v.toNat), count := sat 32 u.count 4 } ∧ t = { s with cvu := t.cvu }) ∧
    (∃ t, exec (.cvuFeedStart n) s = .next t ∧ t.cvu[n.val]? = some { u with
        run := (crcKind u.poly).init, count := 0, busy := false, done := false, hit := false, status := 0 } ∧
      t = { s with cvu := t.cvu })) ∧
  (∀ (n : Fin 6) (s : State),
    exec (.cvuResultRead n false) s = .next { s with
      answer := .value ((cvuOf s n.val).run ^^^ (crcKind (cvuOf s n.val).poly).xorOut) } ∧
    exec (.cvuResultRead n true) s = .next { s with answer := .value (cvuOf s n.val).count }) ∧
  (∀ (n : Fin 6) (u : Cvu) (s : State), cvuRuns s n.val = true → s.cvu[n.val]? = some u → u.busy = false →
    jobRefusal u = 0 →
    (u.mode = 1 → ∃ t, exec (.cvuComputeJob n) s = .next t ∧ t.cvu[n.val]? = some { u with
        run := (crcKind u.poly).init, count := 0, busy := true, done := false, hit := false, status := 0 } ∧ t = { s with cvu := t.cvu }) ∧
    (u.mode = 2 → ∃ t, exec (.cvuAppendJob n) s = .next t ∧ t.cvu[n.val]? = some { u with
        run := (crcKind u.poly).init, count := 0, busy := true, done := false, hit := false, status := 0 } ∧ t = { s with cvu := t.cvu }) ∧
    (u.mode = 3 → ∃ t, exec (.cvuStripJob n) s = .next t ∧ t.cvu[n.val]? = some { u with
        run := (crcKind u.poly).init, count := 0, busy := true, done := false, hit := false, status := 0 } ∧ t = { s with cvu := t.cvu })) ∧
  (∀ (n : Fin 6) (u : Cvu) (s : State), cvuRuns s n.val = true → s.cvu[n.val]? = some u → u.busy = true → u.mode = 1 →
    passedBytes s (cvuOwner s n.val) false u.src u.len = u.len →
    ∃ t, exec (.cvuJobDone n) s = .next t ∧ t.cvu[n.val]? = some { u with
        busy := false, done := true, status := 1, hit := false, count := sat 32 0 u.len,
        run := crcFeed (crcKind u.poly) (crcKind u.poly).init (jobBytes s u.src u.len) } ∧ t = { s with cvu := t.cvu }) ∧
  (∀ (n : Fin 6) (u : Cvu) (s : State), cvuRuns s n.val = true → s.cvu[n.val]? = some u → u.busy = true → u.mode = 2 →
    passedBytes s (cvuOwner s n.val) false u.src u.len = u.len →
    passedBytes s (cvuOwner s n.val) true u.dst (u.len + cvuWidth u.poly) = u.len + cvuWidth u.poly →
    ∃ t, exec (.cvuJobDone n) s = .next t ∧
      t.mem = Memory.writeN s.mem u.dst (jobBytes s u.src u.len ++ crcBytes u.poly
        (crcFeed (crcKind u.poly) (crcKind u.poly).init (jobBytes s u.src u.len) ^^^ (crcKind u.poly).xorOut)) ∧
      t = { s with cvu := t.cvu, mem := t.mem, evr := t.evr, hie := t.hie, fresh := t.fresh }) ∧
  (∀ (n : Fin 6) (u : Cvu) (s : State), cvuRuns s n.val = true → s.cvu[n.val]? = some u → u.busy = true → u.mode = 3 →
    let b := u.len - cvuWidth u.poly
    let x := crcFeed (crcKind u.poly) (crcKind u.poly).init (jobBytes s u.src b)
    let hit := decide (jobBytes s (u.src + b) (cvuWidth u.poly) = crcBytes u.poly (x ^^^ (crcKind u.poly).xorOut))
    passedBytes s (cvuOwner s n.val) false u.src u.len = u.len → passedBytes s (cvuOwner s n.val) true u.dst b = b →
    ∃ t, exec (.cvuJobDone n) s = .next t ∧ t.mem = Memory.writeN s.mem u.dst (jobBytes s u.src b) ∧
      t.cvu[n.val]? = some { u with
        busy := false, done := true, status := 1, hit := hit, count := sat 32 0 b, run := x, mismatch := u.mismatch || !hit } ∧
      t = { s with cvu := t.cvu, mem := t.mem, evr := t.evr, hie := t.hie, fresh := t.fresh }) ∧
  (∀ (n : Fin 6) (u : Cvu) (s : State), s.cvu[n.val]? = some u → cvuRuns s n.val = false ∨ u.busy = false →
    exec (.cvuJobDone n) s = .next s) ∧
  (∀ (core : Fin 16) (n : Fin 6) (p : Fin 4) (src len j : Nat) (k : Stroke) (y : Copy) (u : Cvu) (s : State),
    drivenBy s core.val = some (j, k, y) → grant s.drw.image (taskDrawer s j) (25 + n.val) ≠ 0 →
    cvuRuns s n.val = true → s.cvu[n.val]? = some u → u.busy = false → src < 2 ^ 32 → 0 < len → len < 2 ^ 25 →
    passedBytes s (cvuOwner s n.val) false src len = len →
    ∃ t, exec (.crcBlock core n p 1 src 0 len) s = .next t ∧ t.answer = .values [1,
        crcFeed (crcKind p.val) (crcKind p.val).init (jobBytes s src len) ^^^ (crcKind p.val).xorOut, 0] ∧
      t = { s with answer := t.answer, cvu := t.cvu })

/-! ### Key core (R459 to R492) -/

/-- A command of the mailbox starts (R477): it runs as the key core's request, and no fuse bit has changed. -/
def MailboxTakes (c : Instr) (op code : Nat) (rsp : Nat) (payload sig : List Byte) : Prop :=
  ∀ s : State, s.key.cmdState ≠ 1 → s.key.running = none → s.key.queue = [] →
    ∃ t r, exec c s = .next t ∧ t.key.cmdState = 1 ∧ t.key.cmdOp = code ∧ t.key.running = some r ∧
      r.op = .command op rsp payload sig ∧ r.asker = none ∧ t.key.fuses = s.key.fuses ∧ t.key.slots = s.key.slots ∧
      t = { s with key := t.key, fresh := t.fresh }

/-- The commands of the mailbox (R472 to R477). -/
def Obligations.MailboxCommands : Prop :=
  (∀ rsp nonce, MailboxTakes (.attestCommand rsp nonce) 1 1 rsp nonce []) ∧
  (∀ target cert sig, MailboxTakes (.lcAdvance target cert sig) 2 2 0 (b8 target :: cert) sig) ∧
  (∀ slot key sig, MailboxTakes (.enrol slot key sig) 3 3 0 ([b8 slot, 0, 0, 0] ++ key) sig) ∧
  (∀ d, MailboxTakes (.invalidateBranch d) 4 4 0 [b8 d] []) ∧
  (∀ sig, MailboxTakes (.tamperClear sig) 5 5 0 [] sig) ∧
  (∀ sig, MailboxTakes (.rootRestore sig) 6 6 0 [] sig)

/-- A task's request starts at once when the key core is idle (R466), for the drawer of the task. -/
def ServiceTakes (c : Fin 16 → Instr) (op : KeyOp) : Prop :=
  ∀ (core : Fin 16) (n : Nat) (k : Stroke) (y : Copy) (s : State), drivenBy s core.val = some (n, k, y) →
    s.key.running = none → s.key.queue = [] →
    ∃ t r, exec (c core) s = .next t ∧ t.answer = .none ∧ t.key.running = some r ∧ r.op = op ∧
      r.asker = some (core.val, n) ∧ r.drawer = taskDrawer s n ∧ t.key.fuses = s.key.fuses ∧
      t = { s with answer := t.answer, key := t.key, fresh := t.fresh }

/-- The key services of a task (R464 to R467, R471). -/
def Obligations.KeyServices : Prop :=
  (∀ h l, ServiceTakes (fun c => .keyDerive c h l) (.derive_ h l)) ∧
  (∀ h l, ServiceTakes (fun c => .keyDigest c h l) (.digest h l)) ∧
  (∀ h l, ServiceTakes (fun c => .keySign c h l) (.sign h l)) ∧
  (∀ h, ServiceTakes (fun c => .keyPublic c h) (.pub h)) ∧
  (∀ h, ServiceTakes (fun c => .keyInvalidate c h) (.invalidate h)) ∧
  (∀ b n, ServiceTakes (fun c => .random c b n) (.random b n)) ∧
  (∀ (core : Fin 16) (nonce : List Byte) (n : Nat) (k : Stroke) (y : Copy) (s : State), drivenBy s core.val = some (n, k, y) →
    taskDrawer s n = 0 → s.key.running = none → s.key.queue = [] →
    ∃ t r, exec (.attest core nonce) s = .next t ∧ t.answer = .none ∧ t.key.running = some r ∧ r.op = .statement nonce ∧
      r.stmt = statementOf nonce s ∧ t = { s with answer := t.answer, key := t.key, fresh := t.fresh }) ∧
  (∀ (core : Fin 16) (n : Nat) (k : Stroke) (y : Copy) (s : State), drivenBy s core.val = some (n, k, y) →
    exec (.keyBranch core) s = .next { s with answer := .value (handle s (8 + taskDrawer s n)) }) ∧
  (∀ (core : Fin 16) (h n : Nat) (k : Stroke) (y : Copy) (s : State), drivenBy s core.val = some (n, k, y) →
    16 ≤ s.key.queue.length → exec (.keyPublic core h) s = .next { s with answer := .reason 8 })

/-- What the key core's requests do when they end (R466, R472, R473, R475): a digest, an enrolment, a refusal, a blown
fuse bit. -/
def Obligations.KeyResults : Prop :=
  (∀ (r : KeyReq) (h : Nat) (l : List Byte) (s : State), s.key.running = some r → s.key.fusing = none → r.withdrawn = false →
    r.reason = 0 → r.op = .digest h l →
    ∃ t, exec .keyRequestDone s = .next t ∧ t.answer = .bytes (Config.shake256 (keyBytes r.key ++ l) 32) ∧
      (s.key.queue = [] → t.key.running = none) ∧ t.key.fuses = s.key.fuses ∧
      t = { s with answer := t.answer, key := t.key, fresh := t.fresh }) ∧
  (∀ (r : KeyReq) (p sig : List Byte) (s : State), s.key.running = some r → s.key.fusing = none → r.withdrawn = false →
    r.reason = 0 → r.op = .command 3 0 p sig →
    ∃ t, exec .keyRequestDone s = .next t ∧ t.key.cmdState = 2 ∧ t.key.cmdReason = 0 ∧
      t.key.slots = lmod s.key.slots (f8 p 0) (fun x => { key := p.drop 4, changes := sat 8 x.changes 1 }) ∧
      t.key.fuses = s.key.fuses ∧ t = { s with key := t.key, evr := t.evr, hie := t.hie, fresh := t.fresh }) ∧
  (∀ (r : KeyReq) (op rsp : Nat) (p sig : List Byte) (s : State), s.key.running = some r → s.key.fusing = none →
    r.withdrawn = false → r.reason ≠ 0 → r.op = .command op rsp p sig →
    ∃ t, exec .keyRequestDone s = .next t ∧ t.key.cmdState = 3 ∧ t.key.cmdReason = r.reason ∧ t.key.fuses = s.key.fuses ∧
      t.key.slots = s.key.slots ∧ t = { s with key := t.key, evr := t.evr, hie := t.hie, fresh := t.fresh }) ∧
  (∀ (n : Nat) (s : State), s.key.fusing = some n →
    ∃ t, exec .fuseProgrammed s = .next t ∧ t.key.fuses = bset s.key.fuses (n - 1) ∧ t.key.pending = true ∧
      t.key.target = n ∧ t.key.fusing = none ∧ t.key.lc = s.key.lc ∧ t.key.cmdState = 2 ∧
      t = { s with key := t.key, evr := t.evr, hie := t.hie, fresh := t.fresh })

/-- Masking, the random source and the tamper loop (R470, R471, R481 to R483). A masking round leaves every key as it
was; a random word is a value the model leaves open (log entry 7). -/
def Obligations.KeyMaskingAndTamper : Prop :=
  (∀ s : State, s.key.ready = true → s.key.rngFail = false →
    ∃ t, exec .keyRemask s = .next t ∧ (∀ i, cellKey t.key i = cellKey s.key i) ∧ t.key.remask = sat 32 s.key.remask 1 ∧
      t = { s with key := t.key, fresh := t.fresh }) ∧
  (∀ (b : Bool) (s : State), exec (.rngHealthFail b) s = .next (raise { code := 0xD009, block := 0x10, detail := bit b }
    { s with key := { s.key with rngFail := true } })) ∧
  (∀ s : State, exec (.rngSelfTest true) s = .next { s with key := { s.key with rngFail := false } } ∧
    exec (.rngSelfTest false) s = .next s) ∧
  (∀ s : State, ∃ t n, exec .keyRngRead s = .next t ∧ n < 2 ^ 32 ∧ t = { s with answer := .value n, fresh := t.fresh }) ∧
  (∀ (x : Nat) (s : State), s.rtc.valid = true → s.rtc.tamperEn = false ∨ (5000 ≤ x ∧ x ≤ 20000) →
    exec (.tamperSample x) s = .next { s with
      key := { s.key with tamper := { s.key.tamper with loopBad := decide (x < 5000 ∨ 20000 < x) } } }) ∧
  (∀ (x : Nat) (s : State), s.rtc.valid = false → exec (.tamperSample x) s = .next s) ∧
  (∀ (x : Nat) (s : State), s.rtc.valid = true → s.rtc.tamperEn = true → x < 5000 ∨ 20000 < x →
    ∃ t, exec (.tamperSample x) s = .next t ∧ t.key.tamper.loopBad = true ∧
      t.key.tamper.count = sat 16 s.key.tamper.count 1 ∧ (t.key.tamper.latched = true ∨ t.key.tamper.due = true) ∧
      t.key.fuses = s.key.fuses ∧ t.mem = s.mem ∧ t.stk = s.stk)
/-! ### Updates (R493 to R519) -/

/-- A command of UPD_CMD that its phase does not allow changes nothing but the recorder, which takes 0x0004. -/
def UpdIgnored (c : Instr) (s : State) : Prop :=
  exec c s = .next (raise { code := 0x0004, block := 0x11, detail := 0x1010000C } s)

/-- The commands of updates may come from here (R494, R514): from the service initiator, or from a stroke whose drawer has the
UPD grant at this level. -/
def mayUpdate (level : Nat) (s : State) (by_ : Option (Fin 16)) : Bool :=
  by_.elim true (fun c => (drivenBy s c.val).elim false (fun p => level ≤ grant s.drw.image (taskDrawer s p.1) 31))

/-- Staging (R496): STAGE_OPEN empties the slot that is not active; bytes written at the offset enter the part selected
there, or set OVER past its end; a transfer brings its bytes when it ends, and does not end while the block is off (R43); during
a brace the slot waits (R59). The active slot never changes. A task needs the grant (R494): without it the service answers
refused and no slot changes. -/
def Obligations.StagingASet : Prop :=
  (∀ (by_ : Option (Fin 16)) (s : State), mayUpdate 1 s by_ = true → s.upd.startDue = false →
    s.upd.phase = .idle ∨ s.upd.phase = .staging ∨ s.upd.phase = .verified →
    ∃ t, exec (.stageOpen by_) s = .next t ∧ t.upd.phase = .staging ∧ t.upd.written = 0 ∧ stagedSlot t = { st := .staging } ∧
      t.upd.overrun = false ∧ t.upd.dmaRefused = false ∧ t.upd.notStaging = false ∧
      activeSlot t.upd = activeSlot s.upd ∧ t = { s with upd := t.upd }) ∧
  (∀ (by_ : Option (Fin 16)) (s : State), mayUpdate 1 s by_ = true →
    s.upd.phase = .shadow ∨ s.upd.phase = .switching ∨ s.upd.phase = .watch → UpdIgnored (.stageOpen by_) s) ∧
  (∀ (by_ : Option (Fin 16)) (s : State), mayUpdate 1 s by_ = false →
    ∀ c ∈ [Instr.stageOpen by_, .xfer by_, .verify by_, .start by_, .rollback by_],
      ∃ t, exec c s = .next t ∧ t.answer = .refused ∧ t.upd.slotA = s.upd.slotA ∧ t.upd.slotB = s.upd.slotB ∧
        t.upd.activeB = s.upd.activeB) ∧
  (∀ (by_ : Option (Fin 16)) (s : State), mayUpdate 1 s by_ = true → s.upd.phase = .staging → s.upd.busy = false →
    exec (.xfer by_) s = .next { s with upd := { s.upd with
      busy := true, overrun := false, dmaRefused := false, notStaging := false,
      xferOwner := by_.map (fun c => coreTag s c.val) } }) ∧
  (∀ (by_ : Option (Fin 16)) (s : State), mayUpdate 1 s by_ = true → s.upd.phase ≠ .staging → ∃ t, exec (.xfer by_) s = .next t ∧
    t.upd = { s.upd with notStaging := true } ∧ t = { s with upd := t.upd, evr := t.evr, hie := t.hie, fresh := t.fresh }) ∧
  (∀ s : State, s.enabled.contains .upd = true → s.upd.busy = true → s.sys.brace = false → dmaAccess s.upd.xferOwner false s.upd.addr s.upd.len s = (true, s) →
    s.upd.offset + s.upd.len ≤ partLimit s.upd.part →
    ∃ t, exec .xferDone s = .next t ∧ t.upd.busy = false ∧ t.upd.offset = (s.upd.offset + s.upd.len) % 2 ^ 32 ∧
      sub (partOf s.upd.part (stagedSlot t)) s.upd.offset s.upd.len = memBytes s s.upd.addr s.upd.len ∧
      activeSlot t.upd = activeSlot s.upd ∧ t = { s with upd := t.upd }) ∧
  (∀ s : State, s.upd.busy = false ∨ s.sys.brace = true ∨ s.enabled.contains .upd = false → exec .xferDone s = .next s) ∧
  (∀ (v : BitVec 32) (s : State), s.upd.phase = .staging → s.sys.brace = true → s.upd.offset + 4 ≤ partLimit s.upd.part →
    exec (.xferData v) s = .next { s with upd := { s.upd with
      held := s.upd.held ++ [(s.upd.part, s.upd.offset, leBytes 4 v.toNat)], offset := (s.upd.offset + 4) % 2 ^ 32,
      written := bset s.upd.written s.upd.part } }) ∧
  (∀ (v : BitVec 32) (s : State), s.upd.phase = .staging → s.sys.brace = false → s.upd.offset + 4 ≤ partLimit s.upd.part →
    ∃ t, exec (.xferData v) s = .next t ∧ t.upd.offset = (s.upd.offset + 4) % 2 ^ 32 ∧
      t.upd.written = bset s.upd.written s.upd.part ∧
      sub (partOf s.upd.part (stagedSlot t)) s.upd.offset 4 = leBytes 4 v.toNat ∧
      (∀ k, k < s.upd.offset ∨ s.upd.offset + 4 ≤ k →
        (partOf s.upd.part (stagedSlot t)).getD k 0 = (partOf s.upd.part (stagedSlot s)).getD k 0) ∧
      activeSlot t.upd = activeSlot s.upd ∧ t = { s with upd := t.upd }) ∧
  (∀ (v : BitVec 32) (s : State), s.upd.phase = .staging → partLimit s.upd.part < s.upd.offset + 4 →
    exec (.xferData v) s = .next { s with upd := { s.upd with overrun := true } }) ∧
  (∀ (v : BitVec 32) (s : State), s.upd.phase ≠ .staging →
    exec (.xferData v) s = .next { s with upd := { s.upd with notStaging := true } })

/-- The commands from VERIFY to LOCK (R497 to R499, R506, R511, R512). A verification passes or fails with the code and
section of the first check that fails; START is refused for the reasons of UPD_REFUSE, begins a shadow at the next edge, or
resets the module; ABANDON leaves the set VERIFIED; ROLLBACK is trigger 6; a lock block that is not right changes nothing
but the recorder, and is not read while the block is off or for a task without an expert grant (R514). -/
def Obligations.UpdateCommands : Prop :=
  (∀ (by_ : Option (Fin 16)) (s : State), mayUpdate 1 s by_ = true → s.upd.phase = .staging → s.upd.busy = false →
    ∃ t, exec (.verify by_) s = .next t ∧ t.upd.phase = .verifying ∧ t.upd.result = 3 ∧
      (∀ p, p < 3 → s.upd.written.testBit p = true → partOf p (stagedSlot t) = partOf p (stagedSlot s)) ∧
      (∀ p, p < 3 → s.upd.written.testBit p = false → s.drw.load = 2 → s.sys.brace = false →
        partOf p (stagedSlot t) = partOf p (activeSlot s.upd)) ∧
      activeSlot t.upd = activeSlot s.upd ∧ t = { s with upd := t.upd }) ∧
  (∀ (by_ : Option (Fin 16)) (s : State), mayUpdate 1 s by_ = true → s.upd.phase = .idle → UpdIgnored (.verify by_) s) ∧
  (∀ s : State, s.upd.held ≠ [] ∨ s.upd.copyDue = true → exec .verifyDone s = .next s) ∧
  (∀ s : State, s.upd.phase = .verifying → s.upd.held = [] → s.upd.copyDue = false → ∃ t, exec .verifyDone s = .next t ∧
    match verifySet s with
    | some (c, x, _) => t.upd = { s.upd with phase := .staging, result := 2, code := c, section_ := x } ∧
        t = { s with upd := t.upd, evr := t.evr, hie := t.hie, fresh := t.fresh }
    | none => t.upd.phase = .verified ∧ t.upd.result = 1 ∧ t.upd.kind = updateKind s ∧ (stagedSlot t).st = .verified ∧
        activeSlot t.upd = activeSlot s.upd ∧ t = { s with upd := t.upd, evr := t.evr, hie := t.hie, fresh := t.fresh }) ∧
  (∀ (by_ : Option (Fin 16)) (s : State), mayUpdate 1 s by_ = true → updRefuse s ≠ 0 → exec (.start by_) s = .next (raise { code := 0xE003, block := 0x11, detail := updRefuse s } s)) ∧
  (∀ (by_ : Option (Fin 16)) (s : State), mayUpdate 1 s by_ = true → updRefuse s = 0 → isOnline s = true →
    exec (.start by_) s = .next { s with upd := { s.upd with startDue := true, kind := 1 } }) ∧
  (∀ (by_ : Option (Fin 16)) (s : State), mayUpdate 1 s by_ = true → updRefuse s = 0 → isOnline s = false →
    ∃ t, exec (.start by_) s = .next t ∧ t.upd.activeB = !s.upd.activeB ∧ t.upd.unconfirmed = true ∧ (activeSlot t.upd).st = .inForce ∧ t.mem = s.mem) ∧
  (∀ s : State, shadowing s.upd = true → ∃ t, exec .abandon s = .next t ∧ t.upd.phase = .verified ∧ t.upd.startDue = false ∧
    t.upd.seats = [] ∧ t.upd.slotA = s.upd.slotA ∧ t.upd.slotB = s.upd.slotB ∧
    (∀ p ∈ s.wke.seats, p.2 = .shadow → (p.1, .free) ∈ t.wke.seats) ∧ (∀ p ∈ t.wke.seats, p.2 ≠ .shadow) ∧
    t = { s with upd := t.upd, dvt := t.dvt, cores := t.cores, stk := t.stk, wke := t.wke, evr := t.evr, hie := t.hie, fresh := t.fresh }) ∧
  (∀ s : State, s.upd.phase = .idle → s.upd.startDue = false → UpdIgnored .abandon s ∧ UpdIgnored (.rollback none) s) ∧
  (∀ (by_ : Option (Fin 16)) (s : State), mayUpdate 1 s by_ = true → s.upd.phase = .switching ∨ s.upd.phase = .watch →
    exec (.rollback by_) s = .next { s with upd := { s.upd with back := some (0xFF, 6), phase := .rollingBack } }) ∧
  (∀ (by_ : Option (Fin 16)) (s : State),
    let a := s.upd.lockAddr
    let n := min (leNat (memBytes s (a + 44) 2)) 1462
    let b := memBytes s a (46 + n)
    mayUpdate 2 s by_ = true → s.enabled.contains .upd = true →
    dmaAccess (by_.map (fun c => coreTag s c.val)) false a (46 + n) s = (true, s) →
    exec (.lock by_) s = .next (if lockOk s b then
        raise { code := 0xE00B, block := 0x11, detail := f8 b 5 * 2 }
          { s with upd := { s.upd with locked := f8 b 5 = 1, lockSeq := f32 b 8 } }
      else raise { code := 0xE00B, block := 0x11, detail := 1 } s)) ∧
  (∀ (by_ : Option (Fin 16)) (s : State), mayUpdate 2 s by_ = true → s.enabled.contains .upd = false →
    exec (.lock by_) s = .next s) ∧
  (∀ (by_ : Option (Fin 16)) (s : State), mayUpdate 2 s by_ = false → ∃ t, exec (.lock by_) s = .next t ∧ t.answer = .refused ∧
    t.upd.locked = s.upd.locked ∧ t.upd.lockSeq = s.upd.lockSeq)

/-- The shadow's time limits and the end of the watch (R502, R503, R508, R103): a task that never shadows fails the shadow,
a switch edge that does not come within 600 s abandons the update, and a watch that completes confirms it and raises the
least serial that a load accepts. -/
def Obligations.ShadowLimitsAndWatch : Prop :=
  (∀ (n : Nat) (s : State), s.upd.phase = .shadow → lacking s.upd = some n → coverageEdge s ≤ s.stk.edges →
    ∃ t, exec .shadowCoverageTimeout s = .next t ∧ t.upd.phase = .verified ∧ t.upd.seats = [] ∧
      t.upd.slotA = s.upd.slotA ∧ t.upd.slotB = s.upd.slotB ∧ (∀ p ∈ t.wke.seats, p.2 ≠ .shadow) ∧
      t = { s with upd := t.upd, dvt := t.dvt, cores := t.cores, stk := t.stk, wke := t.wke, evr := t.evr, hie := t.hie,
                   fresh := t.fresh }) ∧
  (∀ s : State, lacking s.upd = none → exec .shadowCoverageTimeout s = .next s) ∧
  (∀ s : State, s.upd.phase = .deferred → s.upd.passAt + 614400 ≤ s.evr.opTime →
    ∃ t, exec .switchDeferTimeout s = .next t ∧ t.upd.phase = .verified ∧ t.upd.slotA = s.upd.slotA ∧ t.upd.slotB = s.upd.slotB ∧
      t = { s with upd := t.upd, dvt := t.dvt, cores := t.cores, stk := t.stk, wke := t.wke, evr := t.evr, hie := t.hie,
                   fresh := t.fresh }) ∧
  (∀ s : State, s.upd.phase = .deferred → s.evr.opTime < s.upd.passAt + 614400 → exec .switchDeferTimeout s = .next s) ∧
  (∀ s : State, s.upd.phase = .watch ∨ s.upd.phase = .switching → s.upd.watch = 0 → s.upd.back = none →
    exec .watchComplete s = .next (raise { code := 0xE009, block := 0x11, detail := s.drw.serial }
      { s with upd := { s.upd with phase := .idle, unconfirmed := false },
               drw := { s.drw with serialFloor := s.drw.serial } })) ∧
  (∀ s : State, s.upd.watch ≠ 0 → exec .watchComplete s = .next s)
/-! ### The hierarchy (R520 to R533) -/

/-- The fields that receiving and sending Marzin messages may change, beside the recorder: the link. -/
def OnlyLink (s t : State) : Prop := t = { s with evr := t.evr, hie := t.hie, fresh := t.fresh }

/-- The Marzin commands by their header: one shape of reception for every class (R523, R525). -/
def marzinCommands (h : MarzinHead) : List Instr :=
  [.marzinEventFwd h [] 0, .marzinNotice h 0 0, .marzinAttest h (.statement []), .marzinUpdateOrch h (.status 0),
   .marzinDirectory h (.publish []), .marzinCause h 0 [], .marzinAck h 3 0 0]

/-- Receiving, sending again and the arbiters (R523, R525, R531). A message that is not valid, or of a module without a
session, is rejected and counted; a copy is counted and changes nothing of the link but its answer; an EVENT_FWD or a NOTICE
of a child enters the ingress arbiter, an ACK ends the waiting of its message, acknowledged or not; a message is sent again
with its SEQ, at most 3 times, toward the parent through the egress arbiter; a source without messages leaves the table it is
named in, and no other does. -/
def Obligations.MarzinReceipt : Prop :=
  (∀ (h : MarzinHead) (s : State), ∀ c ∈ marzinCommands h, s.hie.role = 0 ∨ s.enabled.contains .hie = false →
    exec c s = .next s) ∧
  (∀ (h : MarzinHead) (s : State), ∀ c ∈ marzinCommands h, s.hie.role ≠ 0 → s.enabled.contains .hie = true →
    fromSelf s h = false → h.valid = false →
    exec c s = .next { s with hie := { s.hie with rejects := sat 32 s.hie.rejects 1 } }) ∧
  (∀ (h : MarzinHead) (s : State), ∀ c ∈ marzinCommands h, s.hie.role ≠ 0 → s.enabled.contains .hie = true →
    fromSelf s h = false → isParent s h.sender = false → isChild s h.sender = false →
    exec c s = .next { s with hie := { s.hie with rejects := sat 32 s.hie.rejects 1 } }) ∧
  (∀ (h : MarzinHead) (l : Nat) (s : State), ∀ c ∈ marzinCommands h, s.hie.role ≠ 0 → s.enabled.contains .hie = true →
    fromSelf s h = false → h.valid = true → isParent s h.sender = true ∨ isChild s h.sender = true →
    ((tget s.hie.peers h.sender).getD {}).rx = some l → seqAhead (some l) h.seq = false →
    (h.ackReq = false → exec c s = .next { s with hie := { s.hie with dups := sat 32 s.hie.dups 1 } }) ∧
    ∃ t, exec c s = .next t ∧ t.hie.dups = sat 32 s.hie.dups 1 ∧ t.hie.accepted = s.hie.accepted ∧
      t.hie.ingress = s.hie.ingress ∧ OnlyLink s t) ∧
  (∀ q : Nat, seqAhead none q = true) ∧
  (∀ l q : Nat, seqAhead (some l) q = true ↔
    (1 ≤ (q + (2 ^ 32 - l % 2 ^ 32)) % 2 ^ 32 ∧ (q + (2 ^ 32 - l % 2 ^ 32)) % 2 ^ 32 < 2 ^ 31)) ∧
  (∀ (h : MarzinHead) (rec_ : List Byte) (n : Nat) (s : State), s.hie.role ≠ 0 → s.enabled.contains .hie = true →
    h.valid = true → isParent s h.sender = true ∨ isChild s h.sender = true →
    seqAhead ((tget s.hie.peers h.sender).getD {}).rx h.seq = true →
    ∃ t, exec (.marzinEventFwd h rec_ n) s = .next t ∧
      t.hie.ingress = (if isChild s h.sender then (arbPush s.hie.ingress (asMarzin h (.event rec_ n))).1 else s.hie.ingress) ∧
      t.hie.accepted = s.hie.accepted + 1 ∧ ((tget t.hie.peers h.sender).getD {}).rx = some h.seq ∧ OnlyLink s t) ∧
  (∀ (h : MarzinHead) (k v : Nat) (s : State), s.hie.role ≠ 0 → s.enabled.contains .hie = true →
    h.valid = true → isParent s h.sender = true ∨ isChild s h.sender = true →
    seqAhead ((tget s.hie.peers h.sender).getD {}).rx h.seq = true →
    ∃ t, exec (.marzinNotice h k v) s = .next t ∧
      t.hie.ingress = (if isChild s h.sender then (arbPush s.hie.ingress (asMarzin h (.notice k v))).1 else s.hie.ingress) ∧
      t.hie.accepted = s.hie.accepted + 1 ∧ ((tget t.hie.peers h.sender).getD {}).rx = some h.seq ∧ OnlyLink s t) ∧
  (∀ (h : MarzinHead) (cls seq st : Nat) (s : State), s.hie.role ≠ 0 → s.enabled.contains .hie = true →
    h.valid = true → isParent s h.sender = true ∨ isChild s h.sender = true →
    seqAhead ((tget s.hie.peers h.sender).getD {}).rx h.seq = true →
    ∃ t, exec (.marzinAck h cls seq st) s = .next t ∧
      t.hie.unacked = s.hie.unacked.filter (fun u => !(u.peer = h.sender && u.seq = seq && classOf u.msg.body = cls)) ∧
      ((tget t.hie.peers h.sender).getD {}).rx = some h.seq ∧ (h.ackReq = false → t.hie.sent = s.hie.sent) ∧ OnlyLink s t) ∧
  (∀ (peer seq : Nat) (u : Unacked) (s : State), isParent s peer = false →
    s.hie.unacked.find? (fun u => u.peer = peer && u.seq = seq) = some u → u.tries < 3 →
    ∃ t m, exec (.marzinResend peer seq) s = .next t ∧ t.hie.retries = sat 32 s.hie.retries 1 ∧
      t.hie.sent = s.hie.sent ++ [m] ∧ m.peer = peer ∧ m.seq = seq ∧ m.msg.body = u.msg.body ∧ m.ports = linkPorts s ∧
      t.hie.unacked = s.hie.unacked.map (fun x => if x.peer = peer ∧ x.seq = seq then { x with tries := x.tries + 1 } else x) ∧
      t.hie.egress = s.hie.egress ∧ t = { s with hie := t.hie }) ∧
  (∀ (peer seq : Nat) (u : Unacked) (s : State), isParent s peer = true →
    s.hie.unacked.find? (fun u => u.peer = peer && u.seq = seq) = some u → u.tries < 3 →
    ∃ t, exec (.marzinResend peer seq) s = .next t ∧ t.hie.retries = sat 32 s.hie.retries 1 ∧
      t.hie.egress = (arbPush s.hie.egress { u.msg with again := some seq }).1 ∧ t.hie.sent = s.hie.sent ∧ OnlyLink s t) ∧
  (∀ (peer seq : Nat) (u : Unacked) (s : State),
    s.hie.unacked.find? (fun u => u.peer = peer && u.seq = seq) = some u → 3 ≤ u.tries →
    exec (.marzinResend peer seq) s = .next { s with hie := { s.hie with
      unacked := s.hie.unacked.filter (fun x => !(x.peer = peer && x.seq = seq)) } }) ∧
  (∀ (peer seq : Nat) (s : State), s.hie.unacked.find? (fun u => u.peer = peer && u.seq = seq) = none →
    exec (.marzinResend peer seq) s = .next s) ∧
  (∀ (m : Marzin) (rest : Bool) (a : Arbiter) (s : State), arbServe s.hie.egress = (a, some (m, rest)) →
    ∃ t x, exec (.arbiterServe false) s = .next t ∧ t.hie.egress = a ∧ t.hie.sent = s.hie.sent ++ [x] ∧
      x.peer = s.hie.parent ∧ x.msg = m ∧ x.seq = m.again.getD ((((tget s.hie.peers s.hie.parent).getD {}).tx + 1) % 2 ^ 32) ∧
      x.payloads = x.ports.map (marzinPayload s x.peer x.seq m) ∧
      (m.ackReq = false → t.hie.unacked = s.hie.unacked) ∧ t = { s with hie := t.hie }) ∧
  (∀ (m : Marzin) (rest : Bool) (a : Arbiter) (s : State), s.hie.role = 3 → isParent s m.via = false →
    arbServe s.hie.ingress = (a, some (m, rest)) →
    ∃ t, exec (.arbiterServe true) s = .next t ∧ t.hie.ingress = a ∧ t.hie.egress = (arbPush s.hie.egress m).1 ∧ OnlyLink s t) ∧
  (∀ (m : Marzin) (rest : Bool) (c : Nat) (a : Arbiter) (s : State), s.hie.role = 3 → isParent s m.via = true →
    m.dest ≠ s.hie.node → m.dest ≠ 0xFFFF → childFor s m.dest = some c → arbServe s.hie.ingress = (a, some (m, rest)) →
    ∃ t x, exec (.arbiterServe true) s = .next t ∧ t.hie.ingress = a ∧ t.hie.sent = s.hie.sent ++ [x] ∧ x.peer = c ∧
      x.msg = m ∧ t = { s with hie := t.hie }) ∧
  (∀ (o d : Nat) (s : State), ∃ t, exec (.sourceExpiry true o d) s = .next t ∧
    (∀ x, x ∈ t.hie.ingress.sources ↔ x ∈ s.hie.ingress.sources ∧ ¬(x.origin = o ∧ x.drawer = d ∧ x.queue = [])) ∧
    t.hie.ingress.sources.Sublist s.hie.ingress.sources ∧ t.hie.ingress.first = s.hie.ingress.first ∧
    t = { s with hie := { s.hie with ingress := t.hie.ingress } }) ∧
  (∀ (o d : Nat) (s : State), ∃ t, exec (.sourceExpiry false o d) s = .next t ∧
    (∀ x, x ∈ t.hie.egress.sources ↔ x ∈ s.hie.egress.sources ∧ ¬(x.origin = o ∧ x.drawer = d ∧ x.queue = [])) ∧
    t.hie.egress.sources.Sublist s.hie.egress.sources ∧ t.hie.egress.first = s.hie.egress.first ∧
    t = { s with hie := { s.hie with egress := t.hie.egress } })

/-- The tree (R522, R523, R526, R533): a join is admitted, or refused with its reason; beats keep a parent and its children;
a lost parent or child is recorded once, and its session is over, so that the next SEQ is accepted whatever it is; a module
that is not admitted joins again. Causes come from the parent and wait for the edge of their version (R529, R530); the manager's
own go to every child with APPLY_TN its TN plus CAUSE_LEAD. -/
def Obligations.TreeAndCauses : Prop :=
  (∀ (h : MarzinHead) (a : AlignMsg) (s : State), s.hie.role ≠ 0 → s.enabled.contains .hie = true → h.valid = true →
    a.kind = .join true → isParent s h.sender = false →
    seqAhead ((tget s.hie.peers h.sender).getD {}).rx h.seq = true →
    (joinReason s h.sender a.role a.identity true = 0 → ∃ t, exec (.marzinAlign h a) s = .next t ∧
      (∃ c ∈ t.hie.children, c.node = h.sender ∧ c.role = a.role ∧ c.identity = a.identity ∧ c.lost = false) ∧
      (∀ c ∈ s.hie.children, c.node ≠ h.sender → c ∈ t.hie.children) ∧
      t = { s with key := t.key, evr := t.evr, hie := t.hie, fresh := t.fresh }) ∧
    (joinReason s h.sender a.role a.identity true ≠ 0 → ∃ t, exec (.marzinAlign h a) s = .next t ∧
      t.hie.children = s.hie.children ∧ OnlyLink s t)) ∧
  (∀ s : State, s.enabled.contains .hie = true → ∃ t, exec .alignHeartbeat s = .next t ∧
    t.hie.sent.length = s.hie.sent.length + s.hie.children.length ∧ t.hie.children = s.hie.children ∧
    t = { s with hie := t.hie, fresh := t.fresh }) ∧
  (∀ s : State, s.hie.role = 1 ∨ s.hie.role = 3 → s.hie.admitted = true → s.hie.parentLost = false →
    exec .parentLost s = .next (endSession s.hie.parent (raise { code := 0xF003, block := 0x12, detail := s.hie.parent }
      { s with hie := { s.hie with parentLost := true, admitted := false, level := 0 } }))) ∧
  (∀ (n : Nat) (s : State), ((tget (endSession n s).hie.peers n).getD {}).rx = none ∧
    (∀ q, seqAhead ((tget (endSession n s).hie.peers n).getD {}).rx q = true) ∧
    (∀ k, k ≠ n → tget (endSession n s).hie.peers k = tget s.hie.peers k) ∧
    endSession n s = { s with hie := { s.hie with peers := (endSession n s).hie.peers } }) ∧
  (∀ (n : Nat) (s : State), s.hie.children.any (fun c => c.node = n && !c.lost) = true →
    ∃ t, exec (.childLost n) s = .next t ∧ (∀ c ∈ t.hie.children, c.node = n → c.lost = true) ∧
      (∀ c ∈ s.hie.children, c.node ≠ n → c ∈ t.hie.children) ∧ ((tget t.hie.peers n).getD {}).rx = none ∧ OnlyLink s t) ∧
  (∀ (n : Nat) (s : State), s.hie.children.any (fun c => c.node = n && !c.lost) = false → exec (.childLost n) s = .next s) ∧
  (∀ s : State, s.hie.role = 1 ∨ s.hie.role = 3 → s.hie.admitted = false → s.enabled.contains .hie = true →
    ∃ t m, exec .rejoin s = .next t ∧ t.hie.egress = (arbPush s.hie.egress m).1 ∧ m.dest = s.hie.parent ∧ m.ackReq = true ∧
      classOf m.body = 1 ∧ OnlyLink s t) ∧
  (∀ s : State, s.hie.admitted = true → exec .rejoin s = .next s) ∧
  (∀ (h : MarzinHead) (tn : Nat) (l : List (Nat × BitVec 64)) (s : State), s.hie.role ≠ 0 → s.enabled.contains .hie = true →
    h.valid = true → h.ackReq = false → isParent s h.sender = true →
    seqAhead ((tget s.hie.peers h.sender).getD {}).rx h.seq = true →
    let known := l.filter (fun e => (causePoint s.drw.image e.1).isSome)
    (causeReason s tn known.length = 0 → ∃ t, exec (.marzinCause h tn l) s = .next t ∧
      t.hie.causes.map (fun p => (p.cause, p.value, p.applyTn)) =
        s.hie.causes.map (fun p => (p.cause, p.value, p.applyTn)) ++ known.map (fun e => (e.1, e.2, tn)) ∧
      t.hie.ignored = sat 8 s.hie.ignored (l.length - known.length) ∧ t = { s with hie := t.hie }) ∧
    (causeReason s tn known.length ≠ 0 → ∃ t, exec (.marzinCause h tn l) s = .next t ∧ t.hie.causes = s.hie.causes ∧ OnlyLink s t)) ∧
  (∀ (h : MarzinHead) (tn : Nat) (l : List (Nat × BitVec 64)) (s : State), s.hie.role = 2 → fromSelf s h = true →
    ∃ t, exec (.marzinCause h tn l) s = .next t ∧
      t.hie.sent.map (fun x => (x.peer, x.msg.body)) = s.hie.sent.map (fun x => (x.peer, x.msg.body)) ++
        s.hie.children.map (fun c => (c.node, .cause (s.stk.tn + f16 (hieRec s.drw.image) 44) l)) ∧
      t.hie.causes = s.hie.causes ∧ t = { s with hie := t.hie, fresh := t.fresh })

/-- The directory, attestation, orchestration and the tag area (R479, R524, R527, R528, R532): a publication reaches the
directory when the manager is served it, and replaces its node's entries; a drawer reads only what it may see; a nonce
becomes a request to the key core; a zone manager's ingress goes through its arbiter; what a module's own service initiator
sends goes down to the child that leads to its destination; a read of another module's point waits for the manager's answer;
drawer 0 writes the tag area. -/
def Obligations.DirectoryAndOrders : Prop :=
  (∀ (h : MarzinHead) (d : DirMsg) (s : State), s.hie.role ≠ 0 → s.enabled.contains .hie = true → fromSelf s h = false →
    h.valid = true → isChild s h.sender = true →
    seqAhead ((tget s.hie.peers h.sender).getD {}).rx h.seq = true →
    ∃ t, exec (.marzinDirectory h d) s = .next t ∧
      t.hie.ingress = (arbPush s.hie.ingress (asMarzin h (.directory d))).1 ∧ t.hie.dir = s.hie.dir ∧ OnlyLink s t) ∧
  (∀ (m : Marzin) (l : List PubEntry) (a : Arbiter) (s : State), s.hie.role = 2 →
    arbServe s.hie.ingress = (a, some (m, false)) → m.body = .directory (.publish l) →
    (s.hie.dir.filter (·.node ≠ m.origin)).length + l.length ≤ 262144 →
    ∃ t, exec (.arbiterServe true) s = .next t ∧ t.hie.dir.filter (·.node ≠ m.origin) = s.hie.dir.filter (·.node ≠ m.origin) ∧
      (t.hie.dir.filter (·.node = m.origin)).map (fun e => (e.point, e.tenant, e.typ, e.pub)) =
        l.map (fun e => (e.point, e.tenant, e.typ, e.pub)) ∧ t = { s with hie := t.hie }) ∧
  (∀ (c : Fin 16) (p n : Nat) (k : Stroke) (x : Copy) (s : State), drivenBy s c.val = some (n, k, x) →
    grant s.drw.image (taskDrawer s n) 32 ≠ 0 → s.hie.role ≠ 0 →
    ∃ t, exec (.dirRead c s.hie.node p) s = .next t ∧
      t.answer = (ownAnswer s (tenantOf s.drw.image (coreTag s c.val)) false p).elim .refused .bytes ∧
      t = { s with answer := t.answer }) ∧
  (∀ (c : Fin 16) (q p n : Nat) (k : Stroke) (x : Copy) (s : State), drivenBy s c.val = some (n, k, x) →
    grant s.drw.image (taskDrawer s n) 32 ≠ 0 → s.hie.role = 1 ∨ s.hie.role = 3 → q ≠ s.hie.node →
    (hasParent s = true → ∃ t m, exec (.dirRead c q p) s = .next t ∧ t.answer = .none ∧
      t.hie.waits = s.hie.waits ++ [{ core := c.val, slot := n, node := q, point := p }] ∧
      t.hie.egress = (arbPush s.hie.egress m).1 ∧
      m.body = .directory (.request s.hie.node (tenantOf s.drw.image (coreTag s c.val)) false q p) ∧
      t = { s with answer := .none, evr := t.evr, hie := t.hie, fresh := t.fresh }) ∧
    (hasParent s = false → ∃ t, exec (.dirRead c q p) s = .next t ∧ t.answer = .refused ∧ t.hie.egress = s.hie.egress ∧
      t = { s with answer := .refused, hie := t.hie, fresh := t.fresh })) ∧
  (∀ (h : MarzinHead) (n : List Byte) (s : State), s.hie.role = 3 → s.enabled.contains .hie = true → fromSelf s h = false →
    h.valid = true → isParent s h.sender = true → seqAhead ((tget s.hie.peers h.sender).getD {}).rx h.seq = true →
    ∃ t, exec (.marzinAttest h (.nonce n)) s = .next t ∧
      t.hie.ingress = (arbPush s.hie.ingress (asMarzin h (.attest (.nonce n)))).1 ∧ t.key = s.key ∧ OnlyLink s t) ∧
  (∀ (h : MarzinHead) (v : Nat) (b : OrchMsg) (s : State), fromSelf s h = true → h.dest ≠ 0xFFFF → childFor s h.dest = some v →
    ∃ t x, exec (.marzinUpdateOrch h b) s = .next t ∧ t.hie.sent = s.hie.sent ++ [x] ∧ x.peer = v ∧ x.msg.body = .orch b ∧
      x.msg.dest = h.dest ∧ x.msg.ackReq = true ∧ t = { s with hie := t.hie, fresh := t.fresh }) ∧
  (∀ (h : MarzinHead) (n : List Byte) (s : State), s.hie.role = 1 → s.enabled.contains .hie = true → h.valid = true →
    h.ackReq = false → isParent s h.sender = true → h.dest = s.hie.node →
    seqAhead ((tget s.hie.peers h.sender).getD {}).rx h.seq = true → s.key.running = none → s.key.queue = [] →
    ∃ t r, exec (.marzinAttest h (.nonce n)) s = .next t ∧ t.key.running = some r ∧ r.op = .statement n ∧
      r.peer = some h.sender ∧ t = { s with hie := t.hie, key := t.key, fresh := t.fresh }) ∧
  (∀ (h : MarzinHead) (v : Nat) (s : State), s.hie.role = 1 → s.enabled.contains .hie = true → h.valid = true →
    h.ackReq = false → isParent s h.sender = true → h.dest = s.hie.node →
    seqAhead ((tget s.hie.peers h.sender).getD {}).rx h.seq = true →
    exec (.marzinUpdateOrch h (.status v)) s = .next (noteAccepted h s)) ∧
  (∀ (h : MarzinHead) (v : Nat) (s : State), s.hie.role = 1 → s.enabled.contains .hie = true → h.valid = true →
    h.ackReq = false → isParent s h.sender = true → h.dest = s.hie.node →
    seqAhead ((tget s.hie.peers h.sender).getD {}).rx h.seq = true → v < 2 ^ 32 →
    ∃ t, exec (.marzinUpdateOrch h (.write 0x1010001C v)) s = .next t ∧ t.upd.addr = v ∧
      t = { s with upd := t.upd, evr := t.evr, hie := t.hie, fresh := t.fresh }) ∧
  (∀ (c : Fin 16) (o n : Nat) (l : List Byte) (k : Stroke) (x : Copy) (s : State), drivenBy s c.val = some (n, k, x) →
    grant s.drw.image (taskDrawer s n) 32 ≠ 0 → coreTag s c.val = 0 → l ≠ [] → o + l.length ≤ 512 →
    ∃ t, exec (.tagWrite c o l) s = .next t ∧ t.mem = Memory.writeN s.mem (0x43FFFE00 + o) l ∧
      t.hie.tagSeq = sat 32 s.hie.tagSeq 1 ∧
      t = { s with mem := t.mem, answer := .none, evr := t.evr, hie := t.hie, fresh := t.fresh }) ∧
  (∀ (c : Fin 16) (o n : Nat) (l : List Byte) (k : Stroke) (x : Copy) (s : State), drivenBy s c.val = some (n, k, x) →
    grant s.drw.image (taskDrawer s n) 32 ≠ 0 → coreTag s c.val = 0 → 512 < o + l.length →
    exec (.tagWrite c o l) s = .next { s with answer := .refused })
/-! ### Debug (R538 to R557) -/

/-- A command of DBG_REQ that is not known, or not allowed yet, changes nothing but the recorder, which takes 0x0004; it is
still the probe's write. -/
def DbgIgnored (c : Instr) (s : State) : Prop :=
  exec c s = .next (raise { code := 0x0004, block := 0x13, detail := 0x1012000C } (probeWrote s))

/-- The TAP, tokens and the commands of DBG_REQ (R538, R540 to R544, R546, R547, R552, R556). -/
def Obligations.DebugCommands : Prop :=
  (∀ (pins x : Nat) (s : State), driving s = true →
    exec (.tapExtest pins x) s = .next { s with dbg := { s.dbg with ir := 0, boundary := x }, answer := .value pins } ∧
    exec (.tapSamplePreload pins x) s = .next { s with dbg := { s.dbg with ir := 2, boundary := x }, answer := .value pins } ∧
    exec .tapIdcode s = .next { s with dbg := { s.dbg with ir := 1 }, answer := .value 0x16400FFF } ∧
    exec .tapBypass s = .next { s with dbg := { s.dbg with ir := 0x1F }, answer := .value 0 }) ∧
  (∀ (pins x : Nat) (s : State), driving s = false → ∀ c ∈ [Instr.tapExtest pins x, .tapSamplePreload pins x, .tapIdcode, .tapBypass],
    exec c s = .next { s with answer := .none }) ∧
  (∀ (v : BitVec 32) (s : State), s.dbg.token.length + 4 ≤ 1536 →
    exec (.dbgTokenWrite v) s = .next { s with dbg := { s.dbg with token := s.dbg.token ++ leBytes 4 v.toNat, wrote := true } }) ∧
  (∀ s : State, exec .clearToken s = .next { s with dbg := { s.dbg with token := [], wrote := true } }) ∧
  (∀ s : State, s.key.lc ≠ 2 → exec .presentToken s = .next (probeWrote s)) ∧
  (∀ s : State, s.key.lc = 2 → tokenReason s s.dbg.token ≠ 0 → ∃ t, exec .presentToken s = .next t ∧
    t.dbg.tokenRefused = true ∧ t.key = s.key ∧ t.enabled = s.enabled ∧
    t = { s with dbg := t.dbg, evr := t.evr, hie := t.hie, fresh := t.fresh }) ∧
  (∀ s : State, s.key.lc = 2 →
    let ok := decide (tokenReason s s.dbg.token = 0)
    ∃ t, exec .presentToken s = .next t ∧ t.key = { s.key with allowed := s.key.allowed || ok } ∧ t.dbg.tokenRefused = !ok ∧
      t.enabled.contains .dbg = (s.enabled.contains .dbg || ok) ∧
      t.dbg.bypassOk = (s.dbg.bypassOk || (ok && (f8 s.dbg.token 5).testBit 0)) ∧
      t = { s with dbg := t.dbg, key := t.key, enabled := t.enabled, evr := t.evr, hie := t.hie, fresh := t.fresh }) ∧
  (∀ s : State, s.key.allowed = false →
    DbgIgnored .enable s ∧ DbgIgnored .halt s ∧ DbgIgnored .tickStep s ∧ DbgIgnored .tickStepFrozen s ∧ DbgIgnored .release s) ∧
  (∀ s : State, s.key.allowed = true → s.key.debugUsed = false → ∃ t, exec .enable s = .next t ∧
    t.key.debugUsed = true ∧ t.key.offcutMram = true ∧ t.rtc.offcutPending = true ∧
    t = { s with dbg := { s.dbg with wrote := true }, key := t.key, rtc := t.rtc, evr := t.evr, hie := t.hie, fresh := t.fresh }) ∧
  (∀ s : State, s.key.allowed = true → s.key.debugUsed = true → exec .enable s = .next (probeWrote s)) ∧
  (∀ s : State, s.key.allowed = true → s.key.debugUsed = true → s.sys.mode ≠ .debug →
    exec .halt s = .next { s with dbg := { s.dbg with wrote := true }, sys := { s.sys with haltReq := true } }) ∧
  (∀ s : State, s.key.allowed = true → s.sys.mode = .debug → s.dbg.stepBusy = false → s.dbg.stepDue = false →
    exec .tickStep s = .next { s with dbg := { s.dbg with wrote := true, stepDue := true, freeze := false } } ∧
    exec .tickStepFrozen s = .next { s with dbg := { s.dbg with wrote := true, stepDue := true, freeze := true } }) ∧
  (∀ s : State, s.key.allowed = true → s.sys.mode = .debug → s.dbg.stepBusy = true →
    exec .tickStep s = .next { s with dbg := { s.dbg with wrote := true, stepIgnored := true } } ∧
    exec .release s = .next { s with
      dbg := { s.dbg with wrote := true, exitDue := true },
      sys := { s.sys with dueFirst := if s.sys.dueFirst = 0 then 7 else s.sys.dueFirst } }) ∧
  (∀ s : State, s.key.allowed = true → s.sys.mode = .debug → s.dbg.stepBusy = false → s.sys.boot ≠ .off → s.sys.boot ≠ .held →
    ∃ t, exec .release s = .next t ∧ t.sys.mode = State.reset.sys.mode ∧ t.sys.boot = .held ∧ t.sys.cause = bset (dueCauses s) 6 ∧
      t.mem = s.mem ∧ t.pending = s.pending) ∧
  (∀ s : State, s.sys.mode ≠ .debug → exec .probeIdleTimeout s = .next s ∧
    exec .trstNLow s = .next { s with dbg := { s.dbg with ir := 1 } }) ∧
  (∀ s : State, s.sys.mode = .debug → s.dbg.stepBusy = true →
    exec .probeIdleTimeout s = .next (modSys (fun x => { x with dueFirst := if x.dueFirst = 0 then 7 else x.dueFirst })
      (modDbg (fun d => { d with exitDue := true }) (raise { code := 0xF015, block := 0x13, detail := 0 } s))) ∧
    exec .trstNLow s = .next (modSys (fun x => { x with dueFirst := if x.dueFirst = 0 then 7 else x.dueFirst })
      (modDbg (fun d => { d with exitDue := true }) (raise { code := 0xF015, block := 0x13, detail := 1 }
        { s with dbg := { s.dbg with ir := 1 } })))) ∧
  (∀ s : State, s.sys.mode = .debug → s.dbg.stepBusy = false → s.sys.boot ≠ .off → s.sys.boot ≠ .held →
    ∀ c ∈ [Instr.probeIdleTimeout, .trstNLow],
      ∃ t, exec c s = .next t ∧ t.sys.mode = State.reset.sys.mode ∧ t.sys.boot = .held ∧ t.sys.cause = bset (dueCauses s) 6 ∧
        t.dbg.ir = 1 ∧ t.mem = s.mem ∧ t.pending = s.pending)

/-- Cores under the probe and the force table (R545 to R552): a halt, a match of an enabled breakpoint or watchpoint and a
step hold a core with its pc and cause; one that is held is not held again, but a halt makes the hold of the entry into DEBUG
the probe's own; a run releases it; only in DEBUG is the force
table written. -/
def Obligations.CoresUnderTheProbe : Prop :=
  (∀ (v : Nat) (s : State), exec (.dbgTagWrite v) s = .next { s with dbg := { s.dbg with
    wrote := true, tag := v % 64 + (if v.testBit 7 && s.dbg.bypassOk then 128 else 0) } }) ∧
  (∀ (c : Fin 16) (pc : Nat) (l : List (Nat × Nat)) (x : DbgCore) (s : State), s.sys.mode = .debug →
    s.dbg.cores[c.val]? = some x → x.held = false → coreOut s c.val = false →
    ∃ t y, exec (.coreHalt c pc l) s = .next t ∧ t.dbg.cores[c.val]? = some y ∧ y.held = true ∧ y.cause = 1 ∧
      y.pc = pc % 2 ^ 32 ∧ y.bps = x.bps ∧ y.wps = x.wps ∧ (∀ k, k ≠ c.val → t.dbg.cores[k]? = s.dbg.cores[k]?) ∧
      t = { s with dbg := t.dbg, cores := lmod s.cores c.val (fun z => { z with powered := true }) }) ∧
  (∀ (c : Fin 16) (pc : Nat) (l : List (Nat × Nat)) (s : State), s.sys.mode ≠ .debug →
    exec (.coreHalt c pc l) s = .next (probeWrote s) ∧ exec (.coreStep c pc l) s = .next (probeWrote s) ∧
    exec (.coreRun c) s = .next (probeWrote s)) ∧
  (∀ (c : Fin 16) (pc : Nat) (l : List (Nat × Nat)) (x : DbgCore) (s : State), s.sys.mode = .debug →
    s.dbg.cores[c.val]? = some x → x.held = true →
    (coreOut s c.val = true ∨ x.cause ≠ 5 → exec (.coreHalt c pc l) s = .next (probeWrote s)) ∧
    (coreOut s c.val = false → x.cause = 5 → ∃ t y, exec (.coreHalt c pc l) s = .next t ∧ t.dbg.cores[c.val]? = some y ∧
      y = { x with cause := 1 } ∧ (∀ k, k ≠ c.val → t.dbg.cores[k]? = s.dbg.cores[k]?) ∧ t = { s with dbg := t.dbg }) ∧
    ∃ t y, exec (.coreStep c pc l) s = .next t ∧ t.dbg.cores[c.val]? = some y ∧ y.held = true ∧ y.cause = 4 ∧
      y.pc = pc % 2 ^ 32 ∧ (∀ k, k ≠ c.val → t.dbg.cores[k]? = s.dbg.cores[k]?) ∧
      t = { s with dbg := t.dbg, cores := t.cores }) ∧
  (∀ (c : Fin 16) (x : DbgCore) (s : State), s.sys.mode = .debug → s.dbg.cores[c.val]? = some x → x.held = true →
    ∃ t y, exec (.coreRun c) s = .next t ∧ t.dbg.cores[c.val]? = some y ∧ y.held = false ∧ y.pc = x.pc ∧ y.regs = x.regs ∧
      (∀ k, k ≠ c.val → t.dbg.cores[k]? = s.dbg.cores[k]?) ∧
      t = { s with dbg := t.dbg, cores := t.cores, stk := t.stk, upd := t.upd, evr := t.evr, hie := t.hie, fresh := t.fresh }) ∧
  (∀ (c : Fin 16) (i : Fin 8) (pc b : Nat) (l : List (Nat × Nat)) (x : DbgCore) (s : State), s.enabled.contains .dbg = true →
    coreOut s c.val = false → s.dbg.cores[c.val]? = some x → x.held = false → x.bps[i.val]? = some b →
    b.testBit 0 = true →
    (b / 4 = pc % 2 ^ 32 / 4 → ∃ t y, exec (.breakpointHit c i pc l) s = .next t ∧ t.dbg.cores[c.val]? = some y ∧
      y.held = true ∧ y.cause = 2 ∧ y.index = i.val ∧ y.pc = pc % 2 ^ 32 ∧ t = { s with dbg := t.dbg, cores := t.cores }) ∧
    (b / 4 ≠ pc % 2 ^ 32 / 4 → exec (.breakpointHit c i pc l) s = .next s)) ∧
  (∀ (c : Fin 16) (i : Fin 4) (a pc w k : Nat) (wr : Bool) (l : List (Nat × Nat)) (x : DbgCore) (s : State),
    s.enabled.contains .dbg = true → coreOut s c.val = false → s.dbg.cores[c.val]? = some x → x.held = false →
    x.wps[i.val]? = some (w, k) → k.testBit 31 = true → k.testBit (if wr then 9 else 8) = true →
    (a % 2 ^ 32 / 2 ^ (k % 32) = w / 2 ^ (k % 32) → ∃ t y, exec (.watchpointHit c i a wr pc l) s = .next t ∧
      t.dbg.cores[c.val]? = some y ∧ y.held = true ∧ y.cause = 3 ∧ y.index = i.val ∧ y.pc = pc % 2 ^ 32 ∧ t = { s with dbg := t.dbg, cores := t.cores }) ∧
    (a % 2 ^ 32 / 2 ^ (k % 32) ≠ w / 2 ^ (k % 32) → exec (.watchpointHit c i a wr pc l) s = .next s)) ∧
  (∀ (e : Fin 32) (w : Fin 3) (v : BitVec 32) (f : Force) (s : State), s.sys.mode = .debug →
    s.dbg.forces[e.val]? = some f → ∃ t, exec (.forceEntryWrite e w v) s = .next t ∧
      t.dbg.forces[e.val]? = some (if w.val = 0 then { f with pt := v.toNat % 2 ^ 14 + (if v.toNat.testBit 31 then 2 ^ 31 else 0) }
        else if w.val = 1 then { f with value := f.value / 2 ^ 32 * 2 ^ 32 + v.toNat }
        else { f with value := v.toNat * 2 ^ 32 + f.value % 2 ^ 32 }) ∧
      (∀ k, k ≠ e.val → t.dbg.forces[k]? = s.dbg.forces[k]?) ∧
      t = { s with dbg := t.dbg, evr := t.evr, hie := t.hie, fresh := t.fresh }) ∧
  (∀ (e : Fin 32) (w : Fin 3) (v : BitVec 32) (s : State), s.sys.mode ≠ .debug →
    exec (.forceEntryWrite e w v) s = .next (probeWrote s)) ∧
  (∀ s : State, s.dbg.stepBusy = true → (∀ c < 16, stepIdle s c = true) →
    exec .stepEnd s = .next { s with dbg := { s.dbg with stepBusy := false } }) ∧
  (∀ s : State, s.dbg.stepBusy = false → exec .stepEnd s = .next s)
/-! ### Accesses to registers and memory (R15, R22, R34, R36, R40, R42, R164, R167, R538, R539, R554) -/

/-- A probe whose accesses all go out as the service initiator's, without BYPASS: debug is enabled, DBG_TAG is 0x20. -/
def ServiceProbe (s : State) : Prop := s.key.debugUsed = true ∧ s.dbg.tag = 0x20

/-- Accesses of the probe, of strokes and of the service initiator to registers and memory. -/
def Obligations.RegisterAccess : Prop :=
  (∀ (w : Bool) (a v : BitVec 32) (s : State), driving s = false → exec (.svcacc w a v) s = .next { s with answer := .none }) ∧
  (∀ (a v : BitVec 32) (s : State), driving s = true → s.key.debugUsed = false → s.key.allowed = false → s.drw.load ≠ 3 →
    blockAt a.toNat ≠ some .dbg →
    exec (.svcacc false a v) s = .next { s with dbg := { s.dbg with ir := 8, svcStatus := 3, svcData := 0 }, answer := .refused }) ∧
  (∀ (b : Block) (a v : BitVec 32) (s : State), driving s = true → ServiceProbe s → blockAt a.toNat = some b → b ≠ .dbg →
    a.toNat = blockBase b →
    exec (.svcacc false a v) s = .next { s with
      dbg := { s.dbg with ir := 8, svcStatus := 0, svcData := idReg b }, answer := .value (idReg b) }) ∧
  (∀ (a v : BitVec 32) (s : State), driving s = true → ServiceProbe s → isMemory a.toNat = true → windowAt s.drw.image a.toNat = none →
    plainBytes a.toNat 4 = true →
    exec (.svcacc false a v) s = .next { s with
      dbg := { s.dbg with ir := 8, svcStatus := 0, svcData := leNat (memBytes s a.toNat 4) },
      answer := .value (leNat (memBytes s a.toNat 4)) } ∧
    ∃ t, exec (.svcacc true a v) s = .next t ∧ t.mem = Memory.writeN s.mem a.toNat (leBytes 4 v.toNat) ∧
      t.dbg = { s.dbg with ir := 8, svcStatus := 0, svcData := v.toNat, wrote := true } ∧
      t = { s with mem := t.mem, dbg := t.dbg, answer := .value v.toNat, evr := t.evr, hie := t.hie, fresh := t.fresh }) ∧
  (∀ (a v : BitVec 32) (s : State), driving s = true → ServiceProbe s → listed a.toNat = false →
    ∃ t, exec (.svcacc false a v) s = .next t ∧ t.answer = .refused ∧ t.dbg = { s.dbg with ir := 8, svcStatus := 2, svcData := 0 } ∧
      t = { s with dbg := t.dbg, answer := t.answer, evr := t.evr, hie := t.hie, fresh := t.fresh }) ∧
  (∀ (a v : BitVec 32) (s : State), inTagArea a.toNat = true → a.toNat % 4 = 0 →
    ∃ t, exec (.registerWrite none a v) s = .next t ∧ t.mem = Memory.writeN s.mem a.toNat (leBytes 4 v.toNat) ∧
      t.hie.tagSeq = sat 32 s.hie.tagSeq 1 ∧ t = { s with mem := t.mem, evr := t.evr, hie := t.hie, fresh := t.fresh }) ∧
  (∀ (v : BitVec 32) (s : State),
    exec (.registerWrite none 0x1010001C#32 v) s = .next { s with upd := { s.upd with addr := v.toNat } } ∧
    exec (.registerWrite none 0x1010004C#32 v) s = .next { s with upd := { s.upd with lockAddr := v.toNat } }) ∧
  (∀ (b : Block) (a v : BitVec 32) (s : State), blockAt a.toNat = some b → b ≠ .dbg →
    a.toNat = blockBase b ∨ a.toNat = blockBase b + 8 →
    exec (.registerWrite none a v) s = .next s) ∧
  (∀ (a v : BitVec 32) (s : State), blockAt a.toNat = some .dbg →
    exec (.registerWrite none a v) s = .next (noteRefused 1 0x20 0x13 a.toNat 0 s)) ∧
  (∀ (c : Fin 16) (a v : BitVec 32) (n : Nat) (k : Stroke) (x : Copy) (b : Block) (s : State),
    drivenBy s c.val = some (n, k, x) → blockAt a.toNat = some b →
    drawerPasses s (taskDrawer s n) (some n) true b (a.toNat - blockBase b) = false →
    ∃ t, exec (.registerWrite (some c) a v) s = .next t ∧ t.drw.fCount = sat 32 s.drw.fCount 1 ∧
      (s.drw.fValid = false → t.drw.fValid = true ∧ t.drw.fKind = 1 ∧ t.drw.fAddr = a.toNat) ∧
      t = { s with drw := t.drw, dvt := t.dvt, stk := t.stk, wke := t.wke, can := t.can, evr := t.evr, key := t.key, upd := t.upd, hie := t.hie,
                   cores := t.cores, fresh := t.fresh }) ∧
  (∀ (c : Fin 16) (a v : BitVec 32) (n : Nat) (k : Stroke) (x : Copy) (b : Block) (s : State),
    drivenBy s c.val = some (n, k, x) → blockAt a.toNat = some b →
    drawerPasses s (taskDrawer s n) (some n) true b (a.toNat - blockBase b) = true →
    isStaged b (a.toNat - blockBase b) = true → x.ws.grp = .opened → x.ws.staged.length < 256 →
    exec (.stagedWrite (some c) a v) s =
      .next (modWs n c.val (fun w => { w with staged := w.staged ++ [(a.toNat, v)] }) s)) ∧
  (∀ (n : Fin 32) (v : BitVec 32) (c : DoCh) (s : State), s.sys.mode = .rigging → s.dio.dout[n.val]? = some c →
    ∃ t, exec (.stagedWrite none (0x10050300#32 + BitVec.ofNat 32 (16 * n.val)) v) s = .next t ∧
      t.dio.dout[n.val]? = some { c with cfg := v.toNat &&& dioCfgMask (32 + n.val) } ∧
      (∀ j, j ≠ n.val → t.dio.dout[j]? = s.dio.dout[j]?) ∧ t = { s with dio := t.dio }) ∧
  (∀ (a v : BitVec 32) (b : Block) (s : State), s.sys.mode ≠ .rigging → blockAt a.toNat = some b →
    isStaged b (a.toNat - blockBase b) = true →
    ∃ t, exec (.stagedWrite none a v) s = .next t ∧ t.dvt.fCount = sat 32 s.dvt.fCount 1 ∧
      (s.dvt.fValid = false → t.dvt.fValid = true ∧ t.dvt.fKind = 2 ∧ t.dvt.fAddr = a.toNat) ∧
      t = { s with dvt := t.dvt, evr := t.evr, hie := t.hie, fresh := t.fresh })

/-- The copy of a slot's stroke on a core has ended by an access (R127): its drive is over, the skip of kind ACCESS is due, and
what it wrote is gone. -/
def EndedByAccess (t : State) (n c : Nat) : Prop :=
  (t.cores.getD c {}).driving ≠ some n ∧
  ∃ k y, (task t n).stroke = some k ∧ copyOn k c = some y ∧ y.phase = .done ∧ y.stop = some .access ∧ y.ws.points = [] ∧
    y.ws.msgs = []

/-- Accesses that end in an error (R34, R40, R127): one that the isolation unit refuses is counted, the first kept; one
outside every listed range reads 0; each is recorded, and ends the stroke of a crew core. -/
def Obligations.AccessFailures : Prop :=
  (∀ (o : Option (Fin 32)) (k : Fin 3) (a : BitVec 32) (s : State), listed a.toNat = true →
    accessPasses s (o.map (·.val)) none false (k.val = 1) (k.val = 2) a.toNat = false →
    ∃ t, exec (.accessRefused (.dma o) k a) s = .next t ∧ t.answer = .refused ∧ t.drw.fCount = sat 32 s.drw.fCount 1 ∧
      (s.drw.fValid = false → t.drw.fValid = true ∧ t.drw.fKind = 3 ∧ t.drw.fTag = o.elim 0x20 (·.val) ∧ t.drw.fAddr = a.toNat) ∧
      (s.drw.fValid = true → t.drw.fKind = s.drw.fKind ∧ t.drw.fTag = s.drw.fTag ∧ t.drw.fAddr = s.drw.fAddr) ∧
      t = { s with answer := t.answer, drw := t.drw, evr := t.evr, hie := t.hie, fresh := t.fresh }) ∧
  (∀ (c : Fin 16) (k : Fin 3) (a : BitVec 32) (n : Nat) (q : Stroke) (x : Copy) (s : State), listed a.toNat = true →
    drivenBy s c.val = some (n, q, x) →
    accessPasses s (some (coreTag s c.val)) (some n) true (k.val = 1) (k.val = 2) a.toNat = false →
    ∃ t, exec (.accessRefused (.core c) k a) s = .next t ∧ t.answer = .refused ∧ t.drw.fCount = sat 32 s.drw.fCount 1 ∧
      (s.drw.fValid = false → t.drw.fValid = true ∧ t.drw.fKind = k.val ∧ t.drw.fTag = coreTag s c.val ∧ t.drw.fAddr = a.toNat) ∧
      (isShadow s n c.val = false → EndedByAccess t n c.val) ∧ t.mem = s.mem ∧ t.dvt = { s.dvt with vstore := t.dvt.vstore, vstorePeak := t.dvt.vstorePeak }) ∧
  (∀ (k : Fin 3) (a : BitVec 32) (s : State), listed a.toNat = true →
    accessPasses s none none false (k.val = 1) (k.val = 2) a.toNat = false →
    ∃ t, exec (.accessRefused .service k a) s = .next t ∧ t.answer = .refused ∧ t.drw.fCount = sat 32 s.drw.fCount 1 ∧
      (s.drw.fValid = false → t.drw.fValid = true ∧ t.drw.fKind = k.val ∧ t.drw.fTag = 0x20 ∧ t.drw.fAddr = a.toNat) ∧
      t = { s with answer := t.answer, drw := t.drw, evr := t.evr, hie := t.hie, fresh := t.fresh }) ∧
  (∀ (i : Initiator) (k : Fin 3) (a : BitVec 32) (s : State), listed a.toNat = false →
    exec (.accessRefused i k a) s = .next s) ∧
  (∀ (o : Option (Fin 32)) (k : Fin 3) (a : BitVec 32) (s : State),
    accessPasses s (o.map (·.val)) none false (k.val = 1) (k.val = 2) a.toNat = true →
    exec (.accessRefused (.dma o) k a) s = .next s) ∧
  (∀ (w : Bool) (c : Fin 16) (a : BitVec 32) (n : Nat) (q : Stroke) (x : Copy) (s : State), listed a.toNat = false →
    drivenBy s c.val = some (n, q, x) →
    ∃ t, exec (.accessOutOfRange (.core c) w a) s = .next { t with answer := if w then .refused else .value 0 } ∧
      t = accessFault c.val (raise { code := 0x0005, block := 0x01, drawer := taskDrawer s n, detail := a.toNat } s) ∧
      (isShadow s n c.val = false → EndedByAccess t n c.val) ∧ t.drw = s.drw ∧ t.mem = s.mem) ∧
  (∀ (w : Bool) (a : BitVec 32) (s : State), listed a.toNat = false →
    exec (.accessOutOfRange .service w a) s = .next { raise { code := 0x0005, block := 0x01, detail := a.toNat } s with
      answer := if w then .refused else .value 0 }) ∧
  (∀ (o : Option (Fin 32)) (w : Bool) (a : BitVec 32) (s : State), listed a.toNat = false →
    exec (.accessOutOfRange (.dma o) w a) s = .next { raise
        { code := 0x0005, block := 0x01, drawer := (o.map (·.val)).getD 0, detail := a.toNat } s with
      answer := if w then .refused else .value 0 }) ∧
  (∀ (i : Initiator) (w : Bool) (a : BitVec 32) (s : State), listed a.toNat = true →
    exec (.accessOutOfRange i w a) s = .next s)

/-! ### The load and the tick edge (R28, R65, R99, R100, R101, R109, R391) -/

/-- The end of a load: with no slot that loads the module stays in RIGGING with the load FAILED; otherwise the image is in
force, or its jig copy did not read back, code 11. A load that has failed before, a boot that is not there yet, a scrapped
module: nothing is loaded. A tick edge without an image in force, or in RIGGING: time passes, nothing commits, and the program's state stays; no
edge falls before the PLL has locked. There the probe's halt enters DEBUG, and a step is taken (R51, R545, R546). With an image in force an edge counts, unless it ends in a reset. -/
def Obligations.LoadEndsAndIdleEdges : Prop :=
  (∀ (j : Nat) (ok : Bool) (bad : List (Fin 64)) (hot : List HotReplay) (s : State),
    s.sys.boot ≠ .tested ∨ s.sys.tamperHold = true ∨ s.key.lc = 4 → exec (.carcassLoadDone j ok bad hot) s = .next s) ∧
  (∀ (j : Nat) (ok : Bool) (bad : List (Fin 64)) (hot : List HotReplay) (s : State),
    s.sys.boot = .tested → s.sys.tamperHold = false → s.key.lc ≠ 4 → s.drw.load = 3 →
    exec (.carcassLoadDone j ok bad hot) s = .next { s with sys := { s.sys with boot := .loaded } }) ∧
  (∀ (j : Nat) (ok : Bool) (bad : List (Fin 64)) (hot : List HotReplay) (s : State),
    s.sys.boot = .tested → s.sys.tamperHold = false → s.key.lc ≠ 4 → s.drw.load ≠ 3 →
    ∃ t, exec (.carcassLoadDone j ok bad hot) s = .next t ∧ t.sys.boot = .loaded ∧
      (if (trySlots s).1 then (t.drw.load = 2 ∧ t.drw.fail = 0) ∨ (t.drw.load = 3 ∧ t.drw.fail = 11)
      else t.drw.load = 3 ∧ t.drw.fail ≠ 0 ∧ t.drw.image = s.drw.image ∧ t.sys.mode = s.sys.mode ∧ t.mem = s.mem ∧
        t = { s with sys := t.sys, drw := t.drw, evr := t.evr, hie := t.hie, fresh := t.fresh })) ∧
  (∀ (x : EdgeIn) (s : State), s.sys.boot = .off ∨ s.sys.boot = .held ∨ s.sys.boot = .released →
    exec (.tickEdge x) s = .next s) ∧
  (∀ (x : EdgeIn) (s : State), s.sys.boot = .clocked ∨ s.sys.boot = .tested ∨ s.sys.boot = .loaded →
    s.drw.load ≠ 2 ∨ s.sys.mode = .rigging → s.sys.mode ≠ .debug → s.sys.haltReq = false → s.ptp.join = none →
    ∃ t, exec (.tickEdge x) s = .next t ∧ t.stk = { s.stk with tn := (s.stk.tn + 1) % 2 ^ 64, edges := s.stk.edges + 1 } ∧
      t.sys.mode = s.sys.mode ∧ t.evr.buffer = 0 ∧ 125 * t.evr.opTime + t.evr.opFrac = 125 * s.evr.opTime + s.evr.opFrac + 32 ∧
      t = { s with stk := t.stk, sys := t.sys, jig := t.jig, dio := t.dio, ptp := t.ptp, wke := t.wke, evr := t.evr, hie := t.hie,
                   fresh := t.fresh }) ∧
  (∀ (x : EdgeIn) (s : State), s.sys.boot = .clocked ∨ s.sys.boot = .tested ∨ s.sys.boot = .loaded →
    s.drw.load ≠ 2 ∨ s.sys.mode = .rigging → s.sys.mode ≠ .debug → s.sys.haltReq = true → s.ptp.join = none →
    s.sys.resetReq = false → s.dbg.exitDue = false →
    ∃ t, exec (.tickEdge x) s = .next t ∧ t.sys.mode = .debug ∧ t.sys.haltReq = false ∧
      t.stk.edges = s.stk.edges + 1 ∧ t.mem = s.mem) ∧
  (∀ (x : EdgeIn) (s : State), s.sys.boot = .clocked ∨ s.sys.boot = .tested ∨ s.sys.boot = .loaded →
    s.drw.load ≠ 2 → s.sys.mode = .debug → s.dbg.stepDue = true →
    ∃ t, exec (.tickEdge x) s = .next t ∧ t.dbg.stepDue = false ∧ t.mem = s.mem) ∧
  (∀ (x : EdgeIn) (s : State), s.sys.boot = .loaded → s.drw.load = 2 → s.sys.mode ≠ .rigging → s.ptp.join = none →
    ∃ t, exec (.tickEdge x) s = .next t ∧ t.pending = s.pending ∧
      (t.sys.boot = .held ∨ (t.stk.tn = (s.stk.tn + 1) % 2 ^ 64 ∧ t.stk.edges = s.stk.edges + 1)))
/-! ### The whole machine -/

/-- A step takes the command at the front of the queue and runs it on the state with the queue's rest; with nothing waiting
the block idles (log entry 4: the idle step is the model's choice). -/
def Obligations.StepRunsFront : Prop :=
  (∀ (c : Instr) (r : List Instr) (s : State), step { s with pending := c :: r } = exec c { s with pending := r }) ∧
  (∀ s : State, step { s with pending := [] } = .next { s with pending := [] })

/-- What reset leaves, read through the registers (R69, R71, R186, R406, R441, R514, R555): the values the manual's
register tables give. -/
def Obligations.ResetRegisters : Prop :=
  (readReg none .sys 0x0C State.reset).1 = 0x001 ∧ (readReg none .sys 0x18 State.reset).1 = 4 ∧
  (readReg none .wke 0x0C State.reset).1 = 0x64 ∧ (readReg none .rtc 0x20 { State.reset with enabled := [.rtc] }).1 = 0x07D00101 ∧
  (readReg none .evr 0x0C State.reset).1 = 0x4010000A ∧ (readReg none .evr 0x1C State.reset).1 = 0x20 ∧
  (readReg none .upd 0x50 State.reset).1 = 0xFA0 ∧ (readReg none .upd 0x54 State.reset).1 = 0x9C40 ∧
  (readReg none .dbg 0x14 State.reset).1 = 0x20 ∧
  State.reset.pending = [] ∧ State.reset.Sound

/-- Every command completes, in every state and with every operand, and leaves the commands that wait: the spec stops none of
them, and the block has no command that is not modelled. -/
def Obligations.QueueUntouched : Prop :=
  ∀ (c : Instr) (s : State), ∃ t, exec c s = .next t ∧ t.pending = s.pending

/-- The canonical form of memory holds after every step from a state in which it holds (log entry 3). -/
def Obligations.StepKeepsMemory : Prop :=
  ∀ s t : State, s.Sound → step s = .next t → t.Sound

/-- A fuse bit that is blown stays blown over every step (R475). -/
def Obligations.FusesStayBlown : Prop :=
  ∀ (s t : State) (k : Nat), step s = .next t → s.key.fuses.testBit k = true → t.key.fuses.testBit k = true

/-- The least serial that a load accepts changes only by a confirmation, to the serial of the image then in force (R103). -/
def Obligations.SerialFloorMoves : Prop :=
  ∀ s t : State, step s = .next t →
    t.drw.serialFloor = s.drw.serialFloor ∨ (t.drw.serialFloor = t.drw.serial ∧ t.upd.unconfirmed = false)
end

