-- ==== Sys2Proof/Laws/Data.lean ====
section
/-! SUPPORT. Sparse tables and lists by position: what reads back after a change. -/
namespace Sys2Proof.Machine

variable {α : Type}

/-- The entry just set reads back. -/
@[simp] theorem tget_tset_same (t : Table α) (k : Nat) (a : α) : tget (tset t k a) k = some a := by
  induction t with
  | nil => simp [tset, tget]
  | cons p r ih => obtain ⟨i, b⟩ := p; simp only [tset]; repeat' split <;> simp_all [tget]

/-- Every other entry reads as before. -/
theorem tget_tset_other (t : Table α) {k j : Nat} (a : α) (h : j ≠ k) : tget (tset t k a) j = tget t j := by
  induction t with
  | nil => simp [tset, tget, Ne.symm h]
  | cons p r ih =>
    obtain ⟨i, b⟩ := p
    simp only [tset]
    repeat' split
    all_goals simp only [tget, ih]
    all_goals grind

/-- A key taken out is absent. -/
@[simp] theorem tget_tdel_same (t : Table α) (k : Nat) : tget (tdel t k) k = none := by
  induction t with
  | nil => rfl
  | cons p r ih =>
    obtain ⟨i, b⟩ := p
    by_cases e : i = k
    · subst e; simpa [tdel, tget] using ih
    · have : tdel ((i, b) :: r) k = (i, b) :: tdel r k := by simp [tdel, e]
      rw [this, tget, if_neg e, ih]

/-- Every other entry reads as before. -/
theorem tget_tdel_other (t : Table α) {k j : Nat} (h : j ≠ k) : tget (tdel t k) j = tget t j := by
  induction t with
  | nil => rfl
  | cons p r ih =>
    obtain ⟨i, b⟩ := p
    by_cases e : i = k
    · subst e
      have : tdel ((i, b) :: r) i = tdel r i := by simp [tdel]
      rw [this, ih, tget, if_neg (Ne.symm h)]
    · have : tdel ((i, b) :: r) k = (i, b) :: tdel r k := by simp [tdel, e]
      rw [this, tget, tget, ih]

/-- A change at a position keeps the length. -/
@[simp] theorem length_lmod (l : List α) (i : Nat) (f : α → α) : (lmod l i f).length = l.length := by
  induction l generalizing i with
  | nil => rfl
  | cons a r ih => cases i <;> simp [lmod, ih]

/-- The changed position reads changed. -/
@[simp] theorem getElem?_lmod_same (l : List α) (i : Nat) (f : α → α) : (lmod l i f)[i]? = l[i]?.map f := by
  induction l generalizing i with
  | nil => rfl
  | cons a r ih => cases i <;> simp [lmod, ih]

/-- Every other position reads as before. -/
theorem getElem?_lmod_other (l : List α) {i j : Nat} (f : α → α) (h : j ≠ i) : (lmod l i f)[j]? = l[j]? := by
  induction l generalizing i j with
  | nil => rfl
  | cons a r ih =>
    cases i <;> cases j
    · exact absurd rfl h
    · rfl
    · rfl
    · simpa [lmod] using ih (by omega)

/-- The default read of a changed position. -/
theorem getD_lmod_same (l : List α) {i : Nat} (f : α → α) (d : α) (h : i < l.length) : (lmod l i f).getD i d = f (l.getD i d) := by
  rw [List.getD, List.getD, getElem?_lmod_same, List.getElem?_eq_getElem h]
  rfl

/-- The default read of every other position. -/
theorem getD_lmod_other (l : List α) {i j : Nat} (f : α → α) (d : α) (h : j ≠ i) : (lmod l i f).getD j d = l.getD j d := by
  simp [List.getD, getElem?_lmod_other l f h]

end Sys2Proof.Machine
end

