-- ==== Sys2Proof/Laws/Keeps.lean ====
section
/-! SUPPORT. What most operations leave as it was: the commands that wait, memory, the fuses, the least serial a load
accepts. How these pass through conditions and folds. -/
namespace Sys2Proof.Machine

/-- The state keeps the commands that wait, memory, the fuses and the least serial a load accepts of another. -/
abbrev State.Keeps (t s : State) : Prop :=
  t.pending = s.pending ∧ t.mem = s.mem ∧ t.key.fuses = s.key.fuses ∧ t.drw.serialFloor = s.drw.serialFloor

/-- The parts of a state chosen by a condition. -/
theorem ite_keeps (c : Prop) [Decidable c] (a b : State) :
    (if c then a else b).pending = (if c then a.pending else b.pending) ∧ (if c then a else b).mem = (if c then a.mem else b.mem) ∧
    (if c then a else b).key = (if c then a.key else b.key) ∧ (if c then a else b).drw = (if c then a.drw else b.drw) := by
  split <;> exact ⟨rfl, rfl, rfl, rfl⟩

/-- The fuses of a key core chosen by a condition. -/
theorem ite_fuses (c : Prop) [Decidable c] (a b : Key) : (if c then a else b).fuses = if c then a.fuses else b.fuses := by
  split <;> rfl

/-- The least serial of a condition. -/
theorem ite_floor (c : Prop) [Decidable c] (a b : Drw) :
    (if c then a else b).serialFloor = if c then a.serialFloor else b.serialFloor := by
  split <;> rfl

/-- A reading of the state that every step of a fold keeps. -/
theorem foldl_keep {α β : Type} (g : State → β) (f : State → α → State) (h : ∀ s x, g (f s x) = g s) (l : List α) (s : State) :
    g (l.foldl f s) = g s := by
  induction l generalizing s with
  | nil => rfl
  | cons a l ih => rw [List.foldl_cons, ih, h]
theorem foldl_pending {α : Type} (f : State → α → State) (h : ∀ s x, (f s x).pending = s.pending) (l : List α) (s : State) :
    (l.foldl f s).pending = s.pending := foldl_keep (fun s => s.pending) f h l s
theorem foldl_mem {α : Type} (f : State → α → State) (h : ∀ s x, (f s x).mem = s.mem) (l : List α) (s : State) :
    (l.foldl f s).mem = s.mem := foldl_keep (fun s => s.mem) f h l s
theorem foldl_fuses {α : Type} (f : State → α → State) (h : ∀ s x, (f s x).key.fuses = s.key.fuses) (l : List α) (s : State) :
    (l.foldl f s).key.fuses = s.key.fuses := foldl_keep (fun s => s.key.fuses) f h l s
theorem foldl_floor {α : Type} (f : State → α → State) (h : ∀ s x, (f s x).drw.serialFloor = s.drw.serialFloor) (l : List α) (s : State) :
    (l.foldl f s).drw.serialFloor = s.drw.serialFloor := foldl_keep (fun s => s.drw.serialFloor) f h l s

theorem keeps_of (t s : State) (h : t = s) : t.Keeps s := by subst h; exact ⟨rfl, rfl, rfl, rfl⟩

/-- A fold of steps that keep keeps. -/
theorem foldl_keeps {α : Type} (f : State → α → State) (h : ∀ s x, (f s x).Keeps s) (l : List α) (s : State) :
    (l.foldl f s).Keeps s :=
  ⟨foldl_pending f (fun s x => (h s x).1) l s, foldl_mem f (fun s x => (h s x).2.1) l s,
    foldl_fuses f (fun s x => (h s x).2.2.1) l s, foldl_floor f (fun s x => (h s x).2.2.2) l s⟩

end Sys2Proof.Machine
end

