-- ==== Sys2Proof/Laws/Frames.lean ====
section
/-! SUPPORT. Frames by name: `t.OnlyFreshEvrHie s` says that `t` differs from `s` in `fresh`, `evr` and `hie` at most. -/
namespace Sys2Proof.Machine

/-- The parts of a state chosen by a condition. -/
theorem ite_fields (c : Prop) [Decidable c] (a b : State) :
    (if c then a else b).pending = (if c then a.pending else b.pending) ∧
    (if c then a else b).answer = (if c then a.answer else b.answer) ∧
    (if c then a else b).fresh = (if c then a.fresh else b.fresh) ∧
    (if c then a else b).sys = (if c then a.sys else b.sys) ∧
    (if c then a else b).drw = (if c then a.drw else b.drw) ∧
    (if c then a else b).stk = (if c then a.stk else b.stk) ∧
    (if c then a else b).dvt = (if c then a.dvt else b.dvt) ∧
    (if c then a else b).wke = (if c then a.wke else b.wke) ∧
    (if c then a else b).jig = (if c then a.jig else b.jig) ∧
    (if c then a else b).dio = (if c then a.dio else b.dio) ∧
    (if c then a else b).aio = (if c then a.aio else b.aio) ∧
    (if c then a else b).lpe = (if c then a.lpe else b.lpe) ∧
    (if c then a else b).rio = (if c then a.rio else b.rio) ∧
    (if c then a else b).can = (if c then a.can else b.can) ∧
    (if c then a else b).mac = (if c then a.mac else b.mac) ∧
    (if c then a else b).ptp = (if c then a.ptp else b.ptp) ∧
    (if c then a else b).rtc = (if c then a.rtc else b.rtc) ∧
    (if c then a else b).evr = (if c then a.evr else b.evr) ∧
    (if c then a else b).cvu = (if c then a.cvu else b.cvu) ∧
    (if c then a else b).key = (if c then a.key else b.key) ∧
    (if c then a else b).upd = (if c then a.upd else b.upd) ∧
    (if c then a else b).hie = (if c then a.hie else b.hie) ∧
    (if c then a else b).dbg = (if c then a.dbg else b.dbg) ∧
    (if c then a else b).cores = (if c then a.cores else b.cores) ∧
    (if c then a else b).enabled = (if c then a.enabled else b.enabled) ∧
    (if c then a else b).declared = (if c then a.declared else b.declared) ∧
    (if c then a else b).mem = (if c then a.mem else b.mem) := by
  split <;> simp only [and_self]

abbrev State.OnlyEvr (t s : State) : Prop :=
  t.pending = s.pending ∧ t.answer = s.answer ∧ t.fresh = s.fresh ∧ t.sys = s.sys ∧ t.drw = s.drw ∧ t.stk = s.stk ∧
  t.dvt = s.dvt ∧ t.wke = s.wke ∧ t.jig = s.jig ∧ t.dio = s.dio ∧ t.aio = s.aio ∧ t.lpe = s.lpe ∧ t.rio = s.rio ∧
  t.can = s.can ∧ t.mac = s.mac ∧ t.ptp = s.ptp ∧ t.rtc = s.rtc ∧ t.cvu = s.cvu ∧ t.key = s.key ∧ t.upd = s.upd ∧
  t.hie = s.hie ∧ t.dbg = s.dbg ∧ t.cores = s.cores ∧ t.enabled = s.enabled ∧ t.declared = s.declared ∧ t.mem = s.mem

abbrev State.OnlyHie (t s : State) : Prop :=
  t.pending = s.pending ∧ t.answer = s.answer ∧ t.fresh = s.fresh ∧ t.sys = s.sys ∧ t.drw = s.drw ∧ t.stk = s.stk ∧
  t.dvt = s.dvt ∧ t.wke = s.wke ∧ t.jig = s.jig ∧ t.dio = s.dio ∧ t.aio = s.aio ∧ t.lpe = s.lpe ∧ t.rio = s.rio ∧
  t.can = s.can ∧ t.mac = s.mac ∧ t.ptp = s.ptp ∧ t.rtc = s.rtc ∧ t.evr = s.evr ∧ t.cvu = s.cvu ∧ t.key = s.key ∧
  t.upd = s.upd ∧ t.dbg = s.dbg ∧ t.cores = s.cores ∧ t.enabled = s.enabled ∧ t.declared = s.declared ∧ t.mem = s.mem

theorem foldl_OnlyHie {α : Type} (f : State → α → State) (h : ∀ s x, (f s x).OnlyHie s) (l : List α) (s : State) :
    (l.foldl f s).OnlyHie s := by
  induction l generalizing s with
  | nil => simp only [List.foldl_nil, State.OnlyHie, and_self]
  | cons a l ih => rw [List.foldl_cons]; simp only [State.OnlyHie, ih, h, and_self]

abbrev State.OnlyFreshEvrHie (t s : State) : Prop :=
  t.pending = s.pending ∧ t.answer = s.answer ∧ t.sys = s.sys ∧ t.drw = s.drw ∧ t.stk = s.stk ∧ t.dvt = s.dvt ∧
  t.wke = s.wke ∧ t.jig = s.jig ∧ t.dio = s.dio ∧ t.aio = s.aio ∧ t.lpe = s.lpe ∧ t.rio = s.rio ∧ t.can = s.can ∧
  t.mac = s.mac ∧ t.ptp = s.ptp ∧ t.rtc = s.rtc ∧ t.cvu = s.cvu ∧ t.key = s.key ∧ t.upd = s.upd ∧ t.dbg = s.dbg ∧
  t.cores = s.cores ∧ t.enabled = s.enabled ∧ t.declared = s.declared ∧ t.mem = s.mem

theorem foldl_OnlyFreshEvrHie {α : Type} (f : State → α → State) (h : ∀ s x, (f s x).OnlyFreshEvrHie s) (l : List α) (s : State) :
    (l.foldl f s).OnlyFreshEvrHie s := by
  induction l generalizing s with
  | nil => simp only [List.foldl_nil, State.OnlyFreshEvrHie, and_self]
  | cons a l ih => rw [List.foldl_cons]; simp only [State.OnlyFreshEvrHie, ih, h, and_self]

abbrev State.OnlyFreshSysEvrHie (t s : State) : Prop :=
  t.pending = s.pending ∧ t.answer = s.answer ∧ t.drw = s.drw ∧ t.stk = s.stk ∧ t.dvt = s.dvt ∧ t.wke = s.wke ∧
  t.jig = s.jig ∧ t.dio = s.dio ∧ t.aio = s.aio ∧ t.lpe = s.lpe ∧ t.rio = s.rio ∧ t.can = s.can ∧ t.mac = s.mac ∧
  t.ptp = s.ptp ∧ t.rtc = s.rtc ∧ t.cvu = s.cvu ∧ t.key = s.key ∧ t.upd = s.upd ∧ t.dbg = s.dbg ∧ t.cores = s.cores ∧
  t.enabled = s.enabled ∧ t.declared = s.declared ∧ t.mem = s.mem

abbrev State.OnlyJig (t s : State) : Prop :=
  t.pending = s.pending ∧ t.answer = s.answer ∧ t.fresh = s.fresh ∧ t.sys = s.sys ∧ t.drw = s.drw ∧ t.stk = s.stk ∧
  t.dvt = s.dvt ∧ t.wke = s.wke ∧ t.dio = s.dio ∧ t.aio = s.aio ∧ t.lpe = s.lpe ∧ t.rio = s.rio ∧ t.can = s.can ∧
  t.mac = s.mac ∧ t.ptp = s.ptp ∧ t.rtc = s.rtc ∧ t.evr = s.evr ∧ t.cvu = s.cvu ∧ t.key = s.key ∧ t.upd = s.upd ∧
  t.hie = s.hie ∧ t.dbg = s.dbg ∧ t.cores = s.cores ∧ t.enabled = s.enabled ∧ t.declared = s.declared ∧ t.mem = s.mem

abbrev State.OnlyDio (t s : State) : Prop :=
  t.pending = s.pending ∧ t.answer = s.answer ∧ t.fresh = s.fresh ∧ t.sys = s.sys ∧ t.drw = s.drw ∧ t.stk = s.stk ∧
  t.dvt = s.dvt ∧ t.wke = s.wke ∧ t.jig = s.jig ∧ t.aio = s.aio ∧ t.lpe = s.lpe ∧ t.rio = s.rio ∧ t.can = s.can ∧
  t.mac = s.mac ∧ t.ptp = s.ptp ∧ t.rtc = s.rtc ∧ t.evr = s.evr ∧ t.cvu = s.cvu ∧ t.key = s.key ∧ t.upd = s.upd ∧
  t.hie = s.hie ∧ t.dbg = s.dbg ∧ t.cores = s.cores ∧ t.enabled = s.enabled ∧ t.declared = s.declared ∧ t.mem = s.mem

abbrev State.OnlyJigDio (t s : State) : Prop :=
  t.pending = s.pending ∧ t.answer = s.answer ∧ t.fresh = s.fresh ∧ t.sys = s.sys ∧ t.drw = s.drw ∧ t.stk = s.stk ∧
  t.dvt = s.dvt ∧ t.wke = s.wke ∧ t.aio = s.aio ∧ t.lpe = s.lpe ∧ t.rio = s.rio ∧ t.can = s.can ∧ t.mac = s.mac ∧
  t.ptp = s.ptp ∧ t.rtc = s.rtc ∧ t.evr = s.evr ∧ t.cvu = s.cvu ∧ t.key = s.key ∧ t.upd = s.upd ∧ t.hie = s.hie ∧
  t.dbg = s.dbg ∧ t.cores = s.cores ∧ t.enabled = s.enabled ∧ t.declared = s.declared ∧ t.mem = s.mem

abbrev State.OnlySys (t s : State) : Prop :=
  t.pending = s.pending ∧ t.answer = s.answer ∧ t.fresh = s.fresh ∧ t.drw = s.drw ∧ t.stk = s.stk ∧ t.dvt = s.dvt ∧
  t.wke = s.wke ∧ t.jig = s.jig ∧ t.dio = s.dio ∧ t.aio = s.aio ∧ t.lpe = s.lpe ∧ t.rio = s.rio ∧ t.can = s.can ∧
  t.mac = s.mac ∧ t.ptp = s.ptp ∧ t.rtc = s.rtc ∧ t.evr = s.evr ∧ t.cvu = s.cvu ∧ t.key = s.key ∧ t.upd = s.upd ∧
  t.hie = s.hie ∧ t.dbg = s.dbg ∧ t.cores = s.cores ∧ t.enabled = s.enabled ∧ t.declared = s.declared ∧ t.mem = s.mem

abbrev State.OnlyFreshSysJigDioEvrHie (t s : State) : Prop :=
  t.pending = s.pending ∧ t.answer = s.answer ∧ t.drw = s.drw ∧ t.stk = s.stk ∧ t.dvt = s.dvt ∧ t.wke = s.wke ∧
  t.aio = s.aio ∧ t.lpe = s.lpe ∧ t.rio = s.rio ∧ t.can = s.can ∧ t.mac = s.mac ∧ t.ptp = s.ptp ∧ t.rtc = s.rtc ∧
  t.cvu = s.cvu ∧ t.key = s.key ∧ t.upd = s.upd ∧ t.dbg = s.dbg ∧ t.cores = s.cores ∧ t.enabled = s.enabled ∧
  t.declared = s.declared ∧ t.mem = s.mem

abbrev State.OnlyFreshSysJigEvrHie (t s : State) : Prop :=
  t.pending = s.pending ∧ t.answer = s.answer ∧ t.drw = s.drw ∧ t.stk = s.stk ∧ t.dvt = s.dvt ∧ t.wke = s.wke ∧
  t.dio = s.dio ∧ t.aio = s.aio ∧ t.lpe = s.lpe ∧ t.rio = s.rio ∧ t.can = s.can ∧ t.mac = s.mac ∧ t.ptp = s.ptp ∧
  t.rtc = s.rtc ∧ t.cvu = s.cvu ∧ t.key = s.key ∧ t.upd = s.upd ∧ t.dbg = s.dbg ∧ t.cores = s.cores ∧
  t.enabled = s.enabled ∧ t.declared = s.declared ∧ t.mem = s.mem

abbrev State.OnlyFreshJigDioEvrHie (t s : State) : Prop :=
  t.pending = s.pending ∧ t.answer = s.answer ∧ t.sys = s.sys ∧ t.drw = s.drw ∧ t.stk = s.stk ∧ t.dvt = s.dvt ∧
  t.wke = s.wke ∧ t.aio = s.aio ∧ t.lpe = s.lpe ∧ t.rio = s.rio ∧ t.can = s.can ∧ t.mac = s.mac ∧ t.ptp = s.ptp ∧
  t.rtc = s.rtc ∧ t.cvu = s.cvu ∧ t.key = s.key ∧ t.upd = s.upd ∧ t.dbg = s.dbg ∧ t.cores = s.cores ∧
  t.enabled = s.enabled ∧ t.declared = s.declared ∧ t.mem = s.mem

abbrev State.OnlyFreshJigEvrHie (t s : State) : Prop :=
  t.pending = s.pending ∧ t.answer = s.answer ∧ t.sys = s.sys ∧ t.drw = s.drw ∧ t.stk = s.stk ∧ t.dvt = s.dvt ∧
  t.wke = s.wke ∧ t.dio = s.dio ∧ t.aio = s.aio ∧ t.lpe = s.lpe ∧ t.rio = s.rio ∧ t.can = s.can ∧ t.mac = s.mac ∧
  t.ptp = s.ptp ∧ t.rtc = s.rtc ∧ t.cvu = s.cvu ∧ t.key = s.key ∧ t.upd = s.upd ∧ t.dbg = s.dbg ∧ t.cores = s.cores ∧
  t.enabled = s.enabled ∧ t.declared = s.declared ∧ t.mem = s.mem

theorem foldl_OnlyFreshJigEvrHie {α : Type} (f : State → α → State) (h : ∀ s x, (f s x).OnlyFreshJigEvrHie s) (l : List α) (s : State) :
    (l.foldl f s).OnlyFreshJigEvrHie s := by
  induction l generalizing s with
  | nil => simp only [List.foldl_nil, State.OnlyFreshJigEvrHie, and_self]
  | cons a l ih => rw [List.foldl_cons]; simp only [State.OnlyFreshJigEvrHie, ih, h, and_self]

abbrev State.OnlyFreshDioEvrHie (t s : State) : Prop :=
  t.pending = s.pending ∧ t.answer = s.answer ∧ t.sys = s.sys ∧ t.drw = s.drw ∧ t.stk = s.stk ∧ t.dvt = s.dvt ∧
  t.wke = s.wke ∧ t.jig = s.jig ∧ t.aio = s.aio ∧ t.lpe = s.lpe ∧ t.rio = s.rio ∧ t.can = s.can ∧ t.mac = s.mac ∧
  t.ptp = s.ptp ∧ t.rtc = s.rtc ∧ t.cvu = s.cvu ∧ t.key = s.key ∧ t.upd = s.upd ∧ t.dbg = s.dbg ∧ t.cores = s.cores ∧
  t.enabled = s.enabled ∧ t.declared = s.declared ∧ t.mem = s.mem

abbrev State.OnlyAio (t s : State) : Prop :=
  t.pending = s.pending ∧ t.answer = s.answer ∧ t.fresh = s.fresh ∧ t.sys = s.sys ∧ t.drw = s.drw ∧ t.stk = s.stk ∧
  t.dvt = s.dvt ∧ t.wke = s.wke ∧ t.jig = s.jig ∧ t.dio = s.dio ∧ t.lpe = s.lpe ∧ t.rio = s.rio ∧ t.can = s.can ∧
  t.mac = s.mac ∧ t.ptp = s.ptp ∧ t.rtc = s.rtc ∧ t.evr = s.evr ∧ t.cvu = s.cvu ∧ t.key = s.key ∧ t.upd = s.upd ∧
  t.hie = s.hie ∧ t.dbg = s.dbg ∧ t.cores = s.cores ∧ t.enabled = s.enabled ∧ t.declared = s.declared ∧ t.mem = s.mem

theorem foldl_OnlyAio {α : Type} (f : State → α → State) (h : ∀ s x, (f s x).OnlyAio s) (l : List α) (s : State) :
    (l.foldl f s).OnlyAio s := by
  induction l generalizing s with
  | nil => simp only [List.foldl_nil, State.OnlyAio, and_self]
  | cons a l ih => rw [List.foldl_cons]; simp only [State.OnlyAio, ih, h, and_self]

abbrev State.OnlyFreshAioEvrHie (t s : State) : Prop :=
  t.pending = s.pending ∧ t.answer = s.answer ∧ t.sys = s.sys ∧ t.drw = s.drw ∧ t.stk = s.stk ∧ t.dvt = s.dvt ∧
  t.wke = s.wke ∧ t.jig = s.jig ∧ t.dio = s.dio ∧ t.lpe = s.lpe ∧ t.rio = s.rio ∧ t.can = s.can ∧ t.mac = s.mac ∧
  t.ptp = s.ptp ∧ t.rtc = s.rtc ∧ t.cvu = s.cvu ∧ t.key = s.key ∧ t.upd = s.upd ∧ t.dbg = s.dbg ∧ t.cores = s.cores ∧
  t.enabled = s.enabled ∧ t.declared = s.declared ∧ t.mem = s.mem

theorem foldl_OnlyFreshAioEvrHie {α : Type} (f : State → α → State) (h : ∀ s x, (f s x).OnlyFreshAioEvrHie s) (l : List α) (s : State) :
    (l.foldl f s).OnlyFreshAioEvrHie s := by
  induction l generalizing s with
  | nil => simp only [List.foldl_nil, State.OnlyFreshAioEvrHie, and_self]
  | cons a l ih => rw [List.foldl_cons]; simp only [State.OnlyFreshAioEvrHie, ih, h, and_self]

abbrev State.OnlyLpe (t s : State) : Prop :=
  t.pending = s.pending ∧ t.answer = s.answer ∧ t.fresh = s.fresh ∧ t.sys = s.sys ∧ t.drw = s.drw ∧ t.stk = s.stk ∧
  t.dvt = s.dvt ∧ t.wke = s.wke ∧ t.jig = s.jig ∧ t.dio = s.dio ∧ t.aio = s.aio ∧ t.rio = s.rio ∧ t.can = s.can ∧
  t.mac = s.mac ∧ t.ptp = s.ptp ∧ t.rtc = s.rtc ∧ t.evr = s.evr ∧ t.cvu = s.cvu ∧ t.key = s.key ∧ t.upd = s.upd ∧
  t.hie = s.hie ∧ t.dbg = s.dbg ∧ t.cores = s.cores ∧ t.enabled = s.enabled ∧ t.declared = s.declared ∧ t.mem = s.mem

abbrev State.OnlyFreshLpeEvrHie (t s : State) : Prop :=
  t.pending = s.pending ∧ t.answer = s.answer ∧ t.sys = s.sys ∧ t.drw = s.drw ∧ t.stk = s.stk ∧ t.dvt = s.dvt ∧
  t.wke = s.wke ∧ t.jig = s.jig ∧ t.dio = s.dio ∧ t.aio = s.aio ∧ t.rio = s.rio ∧ t.can = s.can ∧ t.mac = s.mac ∧
  t.ptp = s.ptp ∧ t.rtc = s.rtc ∧ t.cvu = s.cvu ∧ t.key = s.key ∧ t.upd = s.upd ∧ t.dbg = s.dbg ∧ t.cores = s.cores ∧
  t.enabled = s.enabled ∧ t.declared = s.declared ∧ t.mem = s.mem

theorem foldl_OnlyFreshLpeEvrHie {α : Type} (f : State → α → State) (h : ∀ s x, (f s x).OnlyFreshLpeEvrHie s) (l : List α) (s : State) :
    (l.foldl f s).OnlyFreshLpeEvrHie s := by
  induction l generalizing s with
  | nil => simp only [List.foldl_nil, State.OnlyFreshLpeEvrHie, and_self]
  | cons a l ih => rw [List.foldl_cons]; simp only [State.OnlyFreshLpeEvrHie, ih, h, and_self]

abbrev State.OnlyStk (t s : State) : Prop :=
  t.pending = s.pending ∧ t.answer = s.answer ∧ t.fresh = s.fresh ∧ t.sys = s.sys ∧ t.drw = s.drw ∧ t.dvt = s.dvt ∧
  t.wke = s.wke ∧ t.jig = s.jig ∧ t.dio = s.dio ∧ t.aio = s.aio ∧ t.lpe = s.lpe ∧ t.rio = s.rio ∧ t.can = s.can ∧
  t.mac = s.mac ∧ t.ptp = s.ptp ∧ t.rtc = s.rtc ∧ t.evr = s.evr ∧ t.cvu = s.cvu ∧ t.key = s.key ∧ t.upd = s.upd ∧
  t.hie = s.hie ∧ t.dbg = s.dbg ∧ t.cores = s.cores ∧ t.enabled = s.enabled ∧ t.declared = s.declared ∧ t.mem = s.mem

theorem foldl_OnlyStk {α : Type} (f : State → α → State) (h : ∀ s x, (f s x).OnlyStk s) (l : List α) (s : State) :
    (l.foldl f s).OnlyStk s := by
  induction l generalizing s with
  | nil => simp only [List.foldl_nil, State.OnlyStk, and_self]
  | cons a l ih => rw [List.foldl_cons]; simp only [State.OnlyStk, ih, h, and_self]

abbrev State.OnlyCores (t s : State) : Prop :=
  t.pending = s.pending ∧ t.answer = s.answer ∧ t.fresh = s.fresh ∧ t.sys = s.sys ∧ t.drw = s.drw ∧ t.stk = s.stk ∧
  t.dvt = s.dvt ∧ t.wke = s.wke ∧ t.jig = s.jig ∧ t.dio = s.dio ∧ t.aio = s.aio ∧ t.lpe = s.lpe ∧ t.rio = s.rio ∧
  t.can = s.can ∧ t.mac = s.mac ∧ t.ptp = s.ptp ∧ t.rtc = s.rtc ∧ t.evr = s.evr ∧ t.cvu = s.cvu ∧ t.key = s.key ∧
  t.upd = s.upd ∧ t.hie = s.hie ∧ t.dbg = s.dbg ∧ t.enabled = s.enabled ∧ t.declared = s.declared ∧ t.mem = s.mem

theorem foldl_OnlyCores {α : Type} (f : State → α → State) (h : ∀ s x, (f s x).OnlyCores s) (l : List α) (s : State) :
    (l.foldl f s).OnlyCores s := by
  induction l generalizing s with
  | nil => simp only [List.foldl_nil, State.OnlyCores, and_self]
  | cons a l ih => rw [List.foldl_cons]; simp only [State.OnlyCores, ih, h, and_self]

abbrev State.OnlyMem (t s : State) : Prop :=
  t.pending = s.pending ∧ t.answer = s.answer ∧ t.fresh = s.fresh ∧ t.sys = s.sys ∧ t.drw = s.drw ∧ t.stk = s.stk ∧
  t.dvt = s.dvt ∧ t.wke = s.wke ∧ t.jig = s.jig ∧ t.dio = s.dio ∧ t.aio = s.aio ∧ t.lpe = s.lpe ∧ t.rio = s.rio ∧
  t.can = s.can ∧ t.mac = s.mac ∧ t.ptp = s.ptp ∧ t.rtc = s.rtc ∧ t.evr = s.evr ∧ t.cvu = s.cvu ∧ t.key = s.key ∧
  t.upd = s.upd ∧ t.hie = s.hie ∧ t.dbg = s.dbg ∧ t.cores = s.cores ∧ t.enabled = s.enabled ∧ t.declared = s.declared

theorem foldl_OnlyMem {α : Type} (f : State → α → State) (h : ∀ s x, (f s x).OnlyMem s) (l : List α) (s : State) :
    (l.foldl f s).OnlyMem s := by
  induction l generalizing s with
  | nil => simp only [List.foldl_nil, State.OnlyMem, and_self]
  | cons a l ih => rw [List.foldl_cons]; simp only [State.OnlyMem, ih, h, and_self]

abbrev State.OnlyStkMem (t s : State) : Prop :=
  t.pending = s.pending ∧ t.answer = s.answer ∧ t.fresh = s.fresh ∧ t.sys = s.sys ∧ t.drw = s.drw ∧ t.dvt = s.dvt ∧
  t.wke = s.wke ∧ t.jig = s.jig ∧ t.dio = s.dio ∧ t.aio = s.aio ∧ t.lpe = s.lpe ∧ t.rio = s.rio ∧ t.can = s.can ∧
  t.mac = s.mac ∧ t.ptp = s.ptp ∧ t.rtc = s.rtc ∧ t.evr = s.evr ∧ t.cvu = s.cvu ∧ t.key = s.key ∧ t.upd = s.upd ∧
  t.hie = s.hie ∧ t.dbg = s.dbg ∧ t.cores = s.cores ∧ t.enabled = s.enabled ∧ t.declared = s.declared

abbrev State.OnlyDvt (t s : State) : Prop :=
  t.pending = s.pending ∧ t.answer = s.answer ∧ t.fresh = s.fresh ∧ t.sys = s.sys ∧ t.drw = s.drw ∧ t.stk = s.stk ∧
  t.wke = s.wke ∧ t.jig = s.jig ∧ t.dio = s.dio ∧ t.aio = s.aio ∧ t.lpe = s.lpe ∧ t.rio = s.rio ∧ t.can = s.can ∧
  t.mac = s.mac ∧ t.ptp = s.ptp ∧ t.rtc = s.rtc ∧ t.evr = s.evr ∧ t.cvu = s.cvu ∧ t.key = s.key ∧ t.upd = s.upd ∧
  t.hie = s.hie ∧ t.dbg = s.dbg ∧ t.cores = s.cores ∧ t.enabled = s.enabled ∧ t.declared = s.declared ∧ t.mem = s.mem

theorem foldl_OnlyDvt {α : Type} (f : State → α → State) (h : ∀ s x, (f s x).OnlyDvt s) (l : List α) (s : State) :
    (l.foldl f s).OnlyDvt s := by
  induction l generalizing s with
  | nil => simp only [List.foldl_nil, State.OnlyDvt, and_self]
  | cons a l ih => rw [List.foldl_cons]; simp only [State.OnlyDvt, ih, h, and_self]

abbrev State.OnlyUpd (t s : State) : Prop :=
  t.pending = s.pending ∧ t.answer = s.answer ∧ t.fresh = s.fresh ∧ t.sys = s.sys ∧ t.drw = s.drw ∧ t.stk = s.stk ∧
  t.dvt = s.dvt ∧ t.wke = s.wke ∧ t.jig = s.jig ∧ t.dio = s.dio ∧ t.aio = s.aio ∧ t.lpe = s.lpe ∧ t.rio = s.rio ∧
  t.can = s.can ∧ t.mac = s.mac ∧ t.ptp = s.ptp ∧ t.rtc = s.rtc ∧ t.evr = s.evr ∧ t.cvu = s.cvu ∧ t.key = s.key ∧
  t.hie = s.hie ∧ t.dbg = s.dbg ∧ t.cores = s.cores ∧ t.enabled = s.enabled ∧ t.declared = s.declared ∧ t.mem = s.mem

abbrev State.OnlyStkDvtWkeUpdCores (t s : State) : Prop :=
  t.pending = s.pending ∧ t.answer = s.answer ∧ t.fresh = s.fresh ∧ t.sys = s.sys ∧ t.drw = s.drw ∧ t.jig = s.jig ∧
  t.dio = s.dio ∧ t.aio = s.aio ∧ t.lpe = s.lpe ∧ t.rio = s.rio ∧ t.can = s.can ∧ t.mac = s.mac ∧ t.ptp = s.ptp ∧
  t.rtc = s.rtc ∧ t.evr = s.evr ∧ t.cvu = s.cvu ∧ t.key = s.key ∧ t.hie = s.hie ∧ t.dbg = s.dbg ∧ t.enabled = s.enabled ∧
  t.declared = s.declared ∧ t.mem = s.mem

theorem foldl_OnlyStkDvtWkeUpdCores {α : Type} (f : State → α → State) (h : ∀ s x, (f s x).OnlyStkDvtWkeUpdCores s) (l : List α) (s : State) :
    (l.foldl f s).OnlyStkDvtWkeUpdCores s := by
  induction l generalizing s with
  | nil => simp only [List.foldl_nil, State.OnlyStkDvtWkeUpdCores, and_self]
  | cons a l ih => rw [List.foldl_cons]; simp only [State.OnlyStkDvtWkeUpdCores, ih, h, and_self]

abbrev State.OnlyFreshStkDvtWkeEvrUpdHieCores (t s : State) : Prop :=
  t.pending = s.pending ∧ t.answer = s.answer ∧ t.sys = s.sys ∧ t.drw = s.drw ∧ t.jig = s.jig ∧ t.dio = s.dio ∧
  t.aio = s.aio ∧ t.lpe = s.lpe ∧ t.rio = s.rio ∧ t.can = s.can ∧ t.mac = s.mac ∧ t.ptp = s.ptp ∧ t.rtc = s.rtc ∧
  t.cvu = s.cvu ∧ t.key = s.key ∧ t.dbg = s.dbg ∧ t.enabled = s.enabled ∧ t.declared = s.declared ∧ t.mem = s.mem

abbrev State.OnlyFreshEvrUpdHie (t s : State) : Prop :=
  t.pending = s.pending ∧ t.answer = s.answer ∧ t.sys = s.sys ∧ t.drw = s.drw ∧ t.stk = s.stk ∧ t.dvt = s.dvt ∧
  t.wke = s.wke ∧ t.jig = s.jig ∧ t.dio = s.dio ∧ t.aio = s.aio ∧ t.lpe = s.lpe ∧ t.rio = s.rio ∧ t.can = s.can ∧
  t.mac = s.mac ∧ t.ptp = s.ptp ∧ t.rtc = s.rtc ∧ t.cvu = s.cvu ∧ t.key = s.key ∧ t.dbg = s.dbg ∧ t.cores = s.cores ∧
  t.enabled = s.enabled ∧ t.declared = s.declared ∧ t.mem = s.mem

theorem foldl_OnlyFreshEvrUpdHie {α : Type} (f : State → α → State) (h : ∀ s x, (f s x).OnlyFreshEvrUpdHie s) (l : List α) (s : State) :
    (l.foldl f s).OnlyFreshEvrUpdHie s := by
  induction l generalizing s with
  | nil => simp only [List.foldl_nil, State.OnlyFreshEvrUpdHie, and_self]
  | cons a l ih => rw [List.foldl_cons]; simp only [State.OnlyFreshEvrUpdHie, ih, h, and_self]

abbrev State.OnlyFreshStkEvrUpdHieCores (t s : State) : Prop :=
  t.pending = s.pending ∧ t.answer = s.answer ∧ t.sys = s.sys ∧ t.drw = s.drw ∧ t.dvt = s.dvt ∧ t.wke = s.wke ∧
  t.jig = s.jig ∧ t.dio = s.dio ∧ t.aio = s.aio ∧ t.lpe = s.lpe ∧ t.rio = s.rio ∧ t.can = s.can ∧ t.mac = s.mac ∧
  t.ptp = s.ptp ∧ t.rtc = s.rtc ∧ t.cvu = s.cvu ∧ t.key = s.key ∧ t.dbg = s.dbg ∧ t.enabled = s.enabled ∧
  t.declared = s.declared ∧ t.mem = s.mem

theorem foldl_OnlyFreshStkEvrUpdHieCores {α : Type} (f : State → α → State) (h : ∀ s x, (f s x).OnlyFreshStkEvrUpdHieCores s) (l : List α) (s : State) :
    (l.foldl f s).OnlyFreshStkEvrUpdHieCores s := by
  induction l generalizing s with
  | nil => simp only [List.foldl_nil, State.OnlyFreshStkEvrUpdHieCores, and_self]
  | cons a l ih => rw [List.foldl_cons]; simp only [State.OnlyFreshStkEvrUpdHieCores, ih, h, and_self]

abbrev State.OnlyFreshStkDvtEvrUpdHieCores (t s : State) : Prop :=
  t.pending = s.pending ∧ t.answer = s.answer ∧ t.sys = s.sys ∧ t.drw = s.drw ∧ t.wke = s.wke ∧ t.jig = s.jig ∧
  t.dio = s.dio ∧ t.aio = s.aio ∧ t.lpe = s.lpe ∧ t.rio = s.rio ∧ t.can = s.can ∧ t.mac = s.mac ∧ t.ptp = s.ptp ∧
  t.rtc = s.rtc ∧ t.cvu = s.cvu ∧ t.key = s.key ∧ t.dbg = s.dbg ∧ t.enabled = s.enabled ∧ t.declared = s.declared ∧
  t.mem = s.mem

abbrev State.OnlyKey (t s : State) : Prop :=
  t.pending = s.pending ∧ t.answer = s.answer ∧ t.fresh = s.fresh ∧ t.sys = s.sys ∧ t.drw = s.drw ∧ t.stk = s.stk ∧
  t.dvt = s.dvt ∧ t.wke = s.wke ∧ t.jig = s.jig ∧ t.dio = s.dio ∧ t.aio = s.aio ∧ t.lpe = s.lpe ∧ t.rio = s.rio ∧
  t.can = s.can ∧ t.mac = s.mac ∧ t.ptp = s.ptp ∧ t.rtc = s.rtc ∧ t.evr = s.evr ∧ t.cvu = s.cvu ∧ t.upd = s.upd ∧
  t.hie = s.hie ∧ t.dbg = s.dbg ∧ t.cores = s.cores ∧ t.enabled = s.enabled ∧ t.declared = s.declared ∧ t.mem = s.mem

abbrev State.OnlyCanKey (t s : State) : Prop :=
  t.pending = s.pending ∧ t.answer = s.answer ∧ t.fresh = s.fresh ∧ t.sys = s.sys ∧ t.drw = s.drw ∧ t.stk = s.stk ∧
  t.dvt = s.dvt ∧ t.wke = s.wke ∧ t.jig = s.jig ∧ t.dio = s.dio ∧ t.aio = s.aio ∧ t.lpe = s.lpe ∧ t.rio = s.rio ∧
  t.mac = s.mac ∧ t.ptp = s.ptp ∧ t.rtc = s.rtc ∧ t.evr = s.evr ∧ t.cvu = s.cvu ∧ t.upd = s.upd ∧ t.hie = s.hie ∧
  t.dbg = s.dbg ∧ t.cores = s.cores ∧ t.enabled = s.enabled ∧ t.declared = s.declared ∧ t.mem = s.mem

abbrev State.OnlyFreshDvtEvrHie (t s : State) : Prop :=
  t.pending = s.pending ∧ t.answer = s.answer ∧ t.sys = s.sys ∧ t.drw = s.drw ∧ t.stk = s.stk ∧ t.wke = s.wke ∧
  t.jig = s.jig ∧ t.dio = s.dio ∧ t.aio = s.aio ∧ t.lpe = s.lpe ∧ t.rio = s.rio ∧ t.can = s.can ∧ t.mac = s.mac ∧
  t.ptp = s.ptp ∧ t.rtc = s.rtc ∧ t.cvu = s.cvu ∧ t.key = s.key ∧ t.upd = s.upd ∧ t.dbg = s.dbg ∧ t.cores = s.cores ∧
  t.enabled = s.enabled ∧ t.declared = s.declared ∧ t.mem = s.mem

theorem foldl_Only_31 {α : Type} (f : State → α → State) (h : ∀ s x, (f s x).pending = s.pending ∧ (f s x).answer = s.answer ∧ (f s x).sys = s.sys ∧ (f s x).drw = s.drw ∧ (f s x).jig = s.jig ∧ (f s x).dio = s.dio ∧ (f s x).aio = s.aio ∧ (f s x).lpe = s.lpe ∧ (f s x).rio = s.rio ∧ (f s x).mac = s.mac ∧ (f s x).ptp = s.ptp ∧ (f s x).rtc = s.rtc ∧ (f s x).cvu = s.cvu ∧ (f s x).dbg = s.dbg ∧ (f s x).enabled = s.enabled ∧ (f s x).declared = s.declared ∧ (f s x).mem = s.mem) (l : List α) (s : State) :
    (l.foldl f s).pending = s.pending ∧ (l.foldl f s).answer = s.answer ∧ (l.foldl f s).sys = s.sys ∧ (l.foldl f s).drw = s.drw ∧ (l.foldl f s).jig = s.jig ∧ (l.foldl f s).dio = s.dio ∧ (l.foldl f s).aio = s.aio ∧ (l.foldl f s).lpe = s.lpe ∧ (l.foldl f s).rio = s.rio ∧ (l.foldl f s).mac = s.mac ∧ (l.foldl f s).ptp = s.ptp ∧ (l.foldl f s).rtc = s.rtc ∧ (l.foldl f s).cvu = s.cvu ∧ (l.foldl f s).dbg = s.dbg ∧ (l.foldl f s).enabled = s.enabled ∧ (l.foldl f s).declared = s.declared ∧ (l.foldl f s).mem = s.mem := by
  induction l generalizing s with
  | nil => simp only [List.foldl_nil, and_self]
  | cons a l ih => rw [List.foldl_cons]; simp only [ih, h, and_self]

abbrev State.OnlyFreshDrwEvrHie (t s : State) : Prop :=
  t.pending = s.pending ∧ t.answer = s.answer ∧ t.sys = s.sys ∧ t.stk = s.stk ∧ t.dvt = s.dvt ∧ t.wke = s.wke ∧
  t.jig = s.jig ∧ t.dio = s.dio ∧ t.aio = s.aio ∧ t.lpe = s.lpe ∧ t.rio = s.rio ∧ t.can = s.can ∧ t.mac = s.mac ∧
  t.ptp = s.ptp ∧ t.rtc = s.rtc ∧ t.cvu = s.cvu ∧ t.key = s.key ∧ t.upd = s.upd ∧ t.dbg = s.dbg ∧ t.cores = s.cores ∧
  t.enabled = s.enabled ∧ t.declared = s.declared ∧ t.mem = s.mem

abbrev State.OnlyWkeMem (t s : State) : Prop :=
  t.pending = s.pending ∧ t.answer = s.answer ∧ t.fresh = s.fresh ∧ t.sys = s.sys ∧ t.drw = s.drw ∧ t.stk = s.stk ∧
  t.dvt = s.dvt ∧ t.jig = s.jig ∧ t.dio = s.dio ∧ t.aio = s.aio ∧ t.lpe = s.lpe ∧ t.rio = s.rio ∧ t.can = s.can ∧
  t.mac = s.mac ∧ t.ptp = s.ptp ∧ t.rtc = s.rtc ∧ t.evr = s.evr ∧ t.cvu = s.cvu ∧ t.key = s.key ∧ t.upd = s.upd ∧
  t.hie = s.hie ∧ t.dbg = s.dbg ∧ t.cores = s.cores ∧ t.enabled = s.enabled ∧ t.declared = s.declared

abbrev State.OnlyWkeEvrMem (t s : State) : Prop :=
  t.pending = s.pending ∧ t.answer = s.answer ∧ t.fresh = s.fresh ∧ t.sys = s.sys ∧ t.drw = s.drw ∧ t.stk = s.stk ∧
  t.dvt = s.dvt ∧ t.jig = s.jig ∧ t.dio = s.dio ∧ t.aio = s.aio ∧ t.lpe = s.lpe ∧ t.rio = s.rio ∧ t.can = s.can ∧
  t.mac = s.mac ∧ t.ptp = s.ptp ∧ t.rtc = s.rtc ∧ t.cvu = s.cvu ∧ t.key = s.key ∧ t.upd = s.upd ∧ t.hie = s.hie ∧
  t.dbg = s.dbg ∧ t.cores = s.cores ∧ t.enabled = s.enabled ∧ t.declared = s.declared

theorem foldl_OnlyWkeEvrMem {α : Type} (f : State → α → State) (h : ∀ s x, (f s x).OnlyWkeEvrMem s) (l : List α) (s : State) :
    (l.foldl f s).OnlyWkeEvrMem s := by
  induction l generalizing s with
  | nil => simp only [List.foldl_nil, State.OnlyWkeEvrMem, and_self]
  | cons a l ih => rw [List.foldl_cons]; simp only [State.OnlyWkeEvrMem, ih, h, and_self]

abbrev State.OnlyFreshWkeEvrHieMem (t s : State) : Prop :=
  t.pending = s.pending ∧ t.answer = s.answer ∧ t.sys = s.sys ∧ t.drw = s.drw ∧ t.stk = s.stk ∧ t.dvt = s.dvt ∧
  t.jig = s.jig ∧ t.dio = s.dio ∧ t.aio = s.aio ∧ t.lpe = s.lpe ∧ t.rio = s.rio ∧ t.can = s.can ∧ t.mac = s.mac ∧
  t.ptp = s.ptp ∧ t.rtc = s.rtc ∧ t.cvu = s.cvu ∧ t.key = s.key ∧ t.upd = s.upd ∧ t.dbg = s.dbg ∧ t.cores = s.cores ∧
  t.enabled = s.enabled ∧ t.declared = s.declared

abbrev State.OnlyWke (t s : State) : Prop :=
  t.pending = s.pending ∧ t.answer = s.answer ∧ t.fresh = s.fresh ∧ t.sys = s.sys ∧ t.drw = s.drw ∧ t.stk = s.stk ∧
  t.dvt = s.dvt ∧ t.jig = s.jig ∧ t.dio = s.dio ∧ t.aio = s.aio ∧ t.lpe = s.lpe ∧ t.rio = s.rio ∧ t.can = s.can ∧
  t.mac = s.mac ∧ t.ptp = s.ptp ∧ t.rtc = s.rtc ∧ t.evr = s.evr ∧ t.cvu = s.cvu ∧ t.key = s.key ∧ t.upd = s.upd ∧
  t.hie = s.hie ∧ t.dbg = s.dbg ∧ t.cores = s.cores ∧ t.enabled = s.enabled ∧ t.declared = s.declared ∧ t.mem = s.mem

abbrev State.OnlyFreshWkeEvrHie (t s : State) : Prop :=
  t.pending = s.pending ∧ t.answer = s.answer ∧ t.sys = s.sys ∧ t.drw = s.drw ∧ t.stk = s.stk ∧ t.dvt = s.dvt ∧
  t.jig = s.jig ∧ t.dio = s.dio ∧ t.aio = s.aio ∧ t.lpe = s.lpe ∧ t.rio = s.rio ∧ t.can = s.can ∧ t.mac = s.mac ∧
  t.ptp = s.ptp ∧ t.rtc = s.rtc ∧ t.cvu = s.cvu ∧ t.key = s.key ∧ t.upd = s.upd ∧ t.dbg = s.dbg ∧ t.cores = s.cores ∧
  t.enabled = s.enabled ∧ t.declared = s.declared ∧ t.mem = s.mem

theorem foldl_OnlyFreshWkeEvrHie {α : Type} (f : State → α → State) (h : ∀ s x, (f s x).OnlyFreshWkeEvrHie s) (l : List α) (s : State) :
    (l.foldl f s).OnlyFreshWkeEvrHie s := by
  induction l generalizing s with
  | nil => simp only [List.foldl_nil, State.OnlyFreshWkeEvrHie, and_self]
  | cons a l ih => rw [List.foldl_cons]; simp only [State.OnlyFreshWkeEvrHie, ih, h, and_self]

abbrev State.OnlyFreshWke (t s : State) : Prop :=
  t.pending = s.pending ∧ t.answer = s.answer ∧ t.sys = s.sys ∧ t.drw = s.drw ∧ t.stk = s.stk ∧ t.dvt = s.dvt ∧
  t.jig = s.jig ∧ t.dio = s.dio ∧ t.aio = s.aio ∧ t.lpe = s.lpe ∧ t.rio = s.rio ∧ t.can = s.can ∧ t.mac = s.mac ∧
  t.ptp = s.ptp ∧ t.rtc = s.rtc ∧ t.evr = s.evr ∧ t.cvu = s.cvu ∧ t.key = s.key ∧ t.upd = s.upd ∧ t.hie = s.hie ∧
  t.dbg = s.dbg ∧ t.cores = s.cores ∧ t.enabled = s.enabled ∧ t.declared = s.declared ∧ t.mem = s.mem

abbrev State.OnlyFreshStkWkeEvrHie (t s : State) : Prop :=
  t.pending = s.pending ∧ t.answer = s.answer ∧ t.sys = s.sys ∧ t.drw = s.drw ∧ t.dvt = s.dvt ∧ t.jig = s.jig ∧
  t.dio = s.dio ∧ t.aio = s.aio ∧ t.lpe = s.lpe ∧ t.rio = s.rio ∧ t.can = s.can ∧ t.mac = s.mac ∧ t.ptp = s.ptp ∧
  t.rtc = s.rtc ∧ t.cvu = s.cvu ∧ t.key = s.key ∧ t.upd = s.upd ∧ t.dbg = s.dbg ∧ t.cores = s.cores ∧
  t.enabled = s.enabled ∧ t.declared = s.declared ∧ t.mem = s.mem

abbrev State.OnlyWkeCores (t s : State) : Prop :=
  t.pending = s.pending ∧ t.answer = s.answer ∧ t.fresh = s.fresh ∧ t.sys = s.sys ∧ t.drw = s.drw ∧ t.stk = s.stk ∧
  t.dvt = s.dvt ∧ t.jig = s.jig ∧ t.dio = s.dio ∧ t.aio = s.aio ∧ t.lpe = s.lpe ∧ t.rio = s.rio ∧ t.can = s.can ∧
  t.mac = s.mac ∧ t.ptp = s.ptp ∧ t.rtc = s.rtc ∧ t.evr = s.evr ∧ t.cvu = s.cvu ∧ t.key = s.key ∧ t.upd = s.upd ∧
  t.hie = s.hie ∧ t.dbg = s.dbg ∧ t.enabled = s.enabled ∧ t.declared = s.declared ∧ t.mem = s.mem

abbrev State.OnlyUpdCores (t s : State) : Prop :=
  t.pending = s.pending ∧ t.answer = s.answer ∧ t.fresh = s.fresh ∧ t.sys = s.sys ∧ t.drw = s.drw ∧ t.stk = s.stk ∧
  t.dvt = s.dvt ∧ t.wke = s.wke ∧ t.jig = s.jig ∧ t.dio = s.dio ∧ t.aio = s.aio ∧ t.lpe = s.lpe ∧ t.rio = s.rio ∧
  t.can = s.can ∧ t.mac = s.mac ∧ t.ptp = s.ptp ∧ t.rtc = s.rtc ∧ t.evr = s.evr ∧ t.cvu = s.cvu ∧ t.key = s.key ∧
  t.hie = s.hie ∧ t.dbg = s.dbg ∧ t.enabled = s.enabled ∧ t.declared = s.declared ∧ t.mem = s.mem

theorem foldl_OnlyUpdCores {α : Type} (f : State → α → State) (h : ∀ s x, (f s x).OnlyUpdCores s) (l : List α) (s : State) :
    (l.foldl f s).OnlyUpdCores s := by
  induction l generalizing s with
  | nil => simp only [List.foldl_nil, State.OnlyUpdCores, and_self]
  | cons a l ih => rw [List.foldl_cons]; simp only [State.OnlyUpdCores, ih, h, and_self]

abbrev State.OnlyStkCanKeyUpdCores (t s : State) : Prop :=
  t.pending = s.pending ∧ t.answer = s.answer ∧ t.fresh = s.fresh ∧ t.sys = s.sys ∧ t.drw = s.drw ∧ t.dvt = s.dvt ∧
  t.wke = s.wke ∧ t.jig = s.jig ∧ t.dio = s.dio ∧ t.aio = s.aio ∧ t.lpe = s.lpe ∧ t.rio = s.rio ∧ t.mac = s.mac ∧
  t.ptp = s.ptp ∧ t.rtc = s.rtc ∧ t.evr = s.evr ∧ t.cvu = s.cvu ∧ t.hie = s.hie ∧ t.dbg = s.dbg ∧ t.enabled = s.enabled ∧
  t.declared = s.declared ∧ t.mem = s.mem

abbrev State.OnlyFreshStkCanEvrKeyUpdHieCores (t s : State) : Prop :=
  t.pending = s.pending ∧ t.answer = s.answer ∧ t.sys = s.sys ∧ t.drw = s.drw ∧ t.dvt = s.dvt ∧ t.wke = s.wke ∧
  t.jig = s.jig ∧ t.dio = s.dio ∧ t.aio = s.aio ∧ t.lpe = s.lpe ∧ t.rio = s.rio ∧ t.mac = s.mac ∧ t.ptp = s.ptp ∧
  t.rtc = s.rtc ∧ t.cvu = s.cvu ∧ t.dbg = s.dbg ∧ t.enabled = s.enabled ∧ t.declared = s.declared ∧ t.mem = s.mem

abbrev State.OnlyFreshWkeEvrHieCoresMem (t s : State) : Prop :=
  t.pending = s.pending ∧ t.answer = s.answer ∧ t.sys = s.sys ∧ t.drw = s.drw ∧ t.stk = s.stk ∧ t.dvt = s.dvt ∧
  t.jig = s.jig ∧ t.dio = s.dio ∧ t.aio = s.aio ∧ t.lpe = s.lpe ∧ t.rio = s.rio ∧ t.can = s.can ∧ t.mac = s.mac ∧
  t.ptp = s.ptp ∧ t.rtc = s.rtc ∧ t.cvu = s.cvu ∧ t.key = s.key ∧ t.upd = s.upd ∧ t.dbg = s.dbg ∧ t.enabled = s.enabled ∧
  t.declared = s.declared

abbrev State.OnlyFreshSysWkeEvrHie (t s : State) : Prop :=
  t.pending = s.pending ∧ t.answer = s.answer ∧ t.drw = s.drw ∧ t.stk = s.stk ∧ t.dvt = s.dvt ∧ t.jig = s.jig ∧
  t.dio = s.dio ∧ t.aio = s.aio ∧ t.lpe = s.lpe ∧ t.rio = s.rio ∧ t.can = s.can ∧ t.mac = s.mac ∧ t.ptp = s.ptp ∧
  t.rtc = s.rtc ∧ t.cvu = s.cvu ∧ t.key = s.key ∧ t.upd = s.upd ∧ t.dbg = s.dbg ∧ t.cores = s.cores ∧
  t.enabled = s.enabled ∧ t.declared = s.declared ∧ t.mem = s.mem

abbrev State.OnlyFreshStkWkeCanEvrKeyUpdHieCores (t s : State) : Prop :=
  t.pending = s.pending ∧ t.answer = s.answer ∧ t.sys = s.sys ∧ t.drw = s.drw ∧ t.dvt = s.dvt ∧ t.jig = s.jig ∧
  t.dio = s.dio ∧ t.aio = s.aio ∧ t.lpe = s.lpe ∧ t.rio = s.rio ∧ t.mac = s.mac ∧ t.ptp = s.ptp ∧ t.rtc = s.rtc ∧
  t.cvu = s.cvu ∧ t.dbg = s.dbg ∧ t.enabled = s.enabled ∧ t.declared = s.declared ∧ t.mem = s.mem

theorem foldl_OnlyFreshStkWkeCanEvrKeyUpdHieCores {α : Type} (f : State → α → State) (h : ∀ s x, (f s x).OnlyFreshStkWkeCanEvrKeyUpdHieCores s) (l : List α) (s : State) :
    (l.foldl f s).OnlyFreshStkWkeCanEvrKeyUpdHieCores s := by
  induction l generalizing s with
  | nil => simp only [List.foldl_nil, State.OnlyFreshStkWkeCanEvrKeyUpdHieCores, and_self]
  | cons a l ih => rw [List.foldl_cons]; simp only [State.OnlyFreshStkWkeCanEvrKeyUpdHieCores, ih, h, and_self]

theorem foldl_Only_49 {α : Type} (f : State → α → State) (h : ∀ s x, (f s x).pending = s.pending ∧ (f s x).answer = s.answer ∧ (f s x).drw = s.drw ∧ (f s x).jig = s.jig ∧ (f s x).dio = s.dio ∧ (f s x).aio = s.aio ∧ (f s x).lpe = s.lpe ∧ (f s x).rio = s.rio ∧ (f s x).mac = s.mac ∧ (f s x).ptp = s.ptp ∧ (f s x).rtc = s.rtc ∧ (f s x).cvu = s.cvu ∧ (f s x).dbg = s.dbg ∧ (f s x).enabled = s.enabled ∧ (f s x).declared = s.declared ∧ (f s x).mem = s.mem) (l : List α) (s : State) :
    (l.foldl f s).pending = s.pending ∧ (l.foldl f s).answer = s.answer ∧ (l.foldl f s).drw = s.drw ∧ (l.foldl f s).jig = s.jig ∧ (l.foldl f s).dio = s.dio ∧ (l.foldl f s).aio = s.aio ∧ (l.foldl f s).lpe = s.lpe ∧ (l.foldl f s).rio = s.rio ∧ (l.foldl f s).mac = s.mac ∧ (l.foldl f s).ptp = s.ptp ∧ (l.foldl f s).rtc = s.rtc ∧ (l.foldl f s).cvu = s.cvu ∧ (l.foldl f s).dbg = s.dbg ∧ (l.foldl f s).enabled = s.enabled ∧ (l.foldl f s).declared = s.declared ∧ (l.foldl f s).mem = s.mem := by
  induction l generalizing s with
  | nil => simp only [List.foldl_nil, and_self]
  | cons a l ih => rw [List.foldl_cons]; simp only [ih, h, and_self]

abbrev State.OnlyDbg (t s : State) : Prop :=
  t.pending = s.pending ∧ t.answer = s.answer ∧ t.fresh = s.fresh ∧ t.sys = s.sys ∧ t.drw = s.drw ∧ t.stk = s.stk ∧
  t.dvt = s.dvt ∧ t.wke = s.wke ∧ t.jig = s.jig ∧ t.dio = s.dio ∧ t.aio = s.aio ∧ t.lpe = s.lpe ∧ t.rio = s.rio ∧
  t.can = s.can ∧ t.mac = s.mac ∧ t.ptp = s.ptp ∧ t.rtc = s.rtc ∧ t.evr = s.evr ∧ t.cvu = s.cvu ∧ t.key = s.key ∧
  t.upd = s.upd ∧ t.hie = s.hie ∧ t.cores = s.cores ∧ t.enabled = s.enabled ∧ t.declared = s.declared ∧ t.mem = s.mem

abbrev State.OnlyDvtDbg (t s : State) : Prop :=
  t.pending = s.pending ∧ t.answer = s.answer ∧ t.fresh = s.fresh ∧ t.sys = s.sys ∧ t.drw = s.drw ∧ t.stk = s.stk ∧
  t.wke = s.wke ∧ t.jig = s.jig ∧ t.dio = s.dio ∧ t.aio = s.aio ∧ t.lpe = s.lpe ∧ t.rio = s.rio ∧ t.can = s.can ∧
  t.mac = s.mac ∧ t.ptp = s.ptp ∧ t.rtc = s.rtc ∧ t.evr = s.evr ∧ t.cvu = s.cvu ∧ t.key = s.key ∧ t.upd = s.upd ∧
  t.hie = s.hie ∧ t.cores = s.cores ∧ t.enabled = s.enabled ∧ t.declared = s.declared ∧ t.mem = s.mem

theorem foldl_OnlyDvtDbg {α : Type} (f : State → α → State) (h : ∀ s x, (f s x).OnlyDvtDbg s) (l : List α) (s : State) :
    (l.foldl f s).OnlyDvtDbg s := by
  induction l generalizing s with
  | nil => simp only [List.foldl_nil, State.OnlyDvtDbg, and_self]
  | cons a l ih => rw [List.foldl_cons]; simp only [State.OnlyDvtDbg, ih, h, and_self]

abbrev State.OnlyFreshStkDvtWkeEvrHie (t s : State) : Prop :=
  t.pending = s.pending ∧ t.answer = s.answer ∧ t.sys = s.sys ∧ t.drw = s.drw ∧ t.jig = s.jig ∧ t.dio = s.dio ∧
  t.aio = s.aio ∧ t.lpe = s.lpe ∧ t.rio = s.rio ∧ t.can = s.can ∧ t.mac = s.mac ∧ t.ptp = s.ptp ∧ t.rtc = s.rtc ∧
  t.cvu = s.cvu ∧ t.key = s.key ∧ t.upd = s.upd ∧ t.dbg = s.dbg ∧ t.cores = s.cores ∧ t.enabled = s.enabled ∧
  t.declared = s.declared ∧ t.mem = s.mem

abbrev State.OnlyFreshStkDvtEvrHie (t s : State) : Prop :=
  t.pending = s.pending ∧ t.answer = s.answer ∧ t.sys = s.sys ∧ t.drw = s.drw ∧ t.wke = s.wke ∧ t.jig = s.jig ∧
  t.dio = s.dio ∧ t.aio = s.aio ∧ t.lpe = s.lpe ∧ t.rio = s.rio ∧ t.can = s.can ∧ t.mac = s.mac ∧ t.ptp = s.ptp ∧
  t.rtc = s.rtc ∧ t.cvu = s.cvu ∧ t.key = s.key ∧ t.upd = s.upd ∧ t.dbg = s.dbg ∧ t.cores = s.cores ∧
  t.enabled = s.enabled ∧ t.declared = s.declared ∧ t.mem = s.mem

theorem foldl_OnlyFreshStkDvtEvrHie {α : Type} (f : State → α → State) (h : ∀ s x, (f s x).OnlyFreshStkDvtEvrHie s) (l : List α) (s : State) :
    (l.foldl f s).OnlyFreshStkDvtEvrHie s := by
  induction l generalizing s with
  | nil => simp only [List.foldl_nil, State.OnlyFreshStkDvtEvrHie, and_self]
  | cons a l ih => rw [List.foldl_cons]; simp only [State.OnlyFreshStkDvtEvrHie, ih, h, and_self]

abbrev State.OnlyFreshStkDvtWkeEvrHieDbgMem (t s : State) : Prop :=
  t.pending = s.pending ∧ t.answer = s.answer ∧ t.sys = s.sys ∧ t.drw = s.drw ∧ t.jig = s.jig ∧ t.dio = s.dio ∧
  t.aio = s.aio ∧ t.lpe = s.lpe ∧ t.rio = s.rio ∧ t.can = s.can ∧ t.mac = s.mac ∧ t.ptp = s.ptp ∧ t.rtc = s.rtc ∧
  t.cvu = s.cvu ∧ t.key = s.key ∧ t.upd = s.upd ∧ t.cores = s.cores ∧ t.enabled = s.enabled ∧ t.declared = s.declared

theorem foldl_OnlyFreshStkDvtWkeEvrHieDbgMem {α : Type} (f : State → α → State) (h : ∀ s x, (f s x).OnlyFreshStkDvtWkeEvrHieDbgMem s) (l : List α) (s : State) :
    (l.foldl f s).OnlyFreshStkDvtWkeEvrHieDbgMem s := by
  induction l generalizing s with
  | nil => simp only [List.foldl_nil, State.OnlyFreshStkDvtWkeEvrHieDbgMem, and_self]
  | cons a l ih => rw [List.foldl_cons]; simp only [State.OnlyFreshStkDvtWkeEvrHieDbgMem, ih, h, and_self]

abbrev State.OnlyFreshStkDvtWkeEvrUpdHie (t s : State) : Prop :=
  t.pending = s.pending ∧ t.answer = s.answer ∧ t.sys = s.sys ∧ t.drw = s.drw ∧ t.jig = s.jig ∧ t.dio = s.dio ∧
  t.aio = s.aio ∧ t.lpe = s.lpe ∧ t.rio = s.rio ∧ t.can = s.can ∧ t.mac = s.mac ∧ t.ptp = s.ptp ∧ t.rtc = s.rtc ∧
  t.cvu = s.cvu ∧ t.key = s.key ∧ t.dbg = s.dbg ∧ t.cores = s.cores ∧ t.enabled = s.enabled ∧ t.declared = s.declared ∧
  t.mem = s.mem

abbrev State.OnlyCanKeyCores (t s : State) : Prop :=
  t.pending = s.pending ∧ t.answer = s.answer ∧ t.fresh = s.fresh ∧ t.sys = s.sys ∧ t.drw = s.drw ∧ t.stk = s.stk ∧
  t.dvt = s.dvt ∧ t.wke = s.wke ∧ t.jig = s.jig ∧ t.dio = s.dio ∧ t.aio = s.aio ∧ t.lpe = s.lpe ∧ t.rio = s.rio ∧
  t.mac = s.mac ∧ t.ptp = s.ptp ∧ t.rtc = s.rtc ∧ t.evr = s.evr ∧ t.cvu = s.cvu ∧ t.upd = s.upd ∧ t.hie = s.hie ∧
  t.dbg = s.dbg ∧ t.enabled = s.enabled ∧ t.declared = s.declared ∧ t.mem = s.mem

abbrev State.OnlyStkCanKeyCores (t s : State) : Prop :=
  t.pending = s.pending ∧ t.answer = s.answer ∧ t.fresh = s.fresh ∧ t.sys = s.sys ∧ t.drw = s.drw ∧ t.dvt = s.dvt ∧
  t.wke = s.wke ∧ t.jig = s.jig ∧ t.dio = s.dio ∧ t.aio = s.aio ∧ t.lpe = s.lpe ∧ t.rio = s.rio ∧ t.mac = s.mac ∧
  t.ptp = s.ptp ∧ t.rtc = s.rtc ∧ t.evr = s.evr ∧ t.cvu = s.cvu ∧ t.upd = s.upd ∧ t.hie = s.hie ∧ t.dbg = s.dbg ∧
  t.enabled = s.enabled ∧ t.declared = s.declared ∧ t.mem = s.mem

theorem foldl_OnlyStkCanKeyCores {α : Type} (f : State → α → State) (h : ∀ s x, (f s x).OnlyStkCanKeyCores s) (l : List α) (s : State) :
    (l.foldl f s).OnlyStkCanKeyCores s := by
  induction l generalizing s with
  | nil => simp only [List.foldl_nil, State.OnlyStkCanKeyCores, and_self]
  | cons a l ih => rw [List.foldl_cons]; simp only [State.OnlyStkCanKeyCores, ih, h, and_self]

abbrev State.OnlyDvtWkeLpeDbg (t s : State) : Prop :=
  t.pending = s.pending ∧ t.answer = s.answer ∧ t.fresh = s.fresh ∧ t.sys = s.sys ∧ t.drw = s.drw ∧ t.stk = s.stk ∧
  t.jig = s.jig ∧ t.dio = s.dio ∧ t.aio = s.aio ∧ t.rio = s.rio ∧ t.can = s.can ∧ t.mac = s.mac ∧ t.ptp = s.ptp ∧
  t.rtc = s.rtc ∧ t.evr = s.evr ∧ t.cvu = s.cvu ∧ t.key = s.key ∧ t.upd = s.upd ∧ t.hie = s.hie ∧ t.cores = s.cores ∧
  t.enabled = s.enabled ∧ t.declared = s.declared ∧ t.mem = s.mem

theorem foldl_OnlyDvtWkeLpeDbg {α : Type} (f : State → α → State) (h : ∀ s x, (f s x).OnlyDvtWkeLpeDbg s) (l : List α) (s : State) :
    (l.foldl f s).OnlyDvtWkeLpeDbg s := by
  induction l generalizing s with
  | nil => simp only [List.foldl_nil, State.OnlyDvtWkeLpeDbg, and_self]
  | cons a l ih => rw [List.foldl_cons]; simp only [State.OnlyDvtWkeLpeDbg, ih, h, and_self]

abbrev State.OnlyDvtWke (t s : State) : Prop :=
  t.pending = s.pending ∧ t.answer = s.answer ∧ t.fresh = s.fresh ∧ t.sys = s.sys ∧ t.drw = s.drw ∧ t.stk = s.stk ∧
  t.jig = s.jig ∧ t.dio = s.dio ∧ t.aio = s.aio ∧ t.lpe = s.lpe ∧ t.rio = s.rio ∧ t.can = s.can ∧ t.mac = s.mac ∧
  t.ptp = s.ptp ∧ t.rtc = s.rtc ∧ t.evr = s.evr ∧ t.cvu = s.cvu ∧ t.key = s.key ∧ t.upd = s.upd ∧ t.hie = s.hie ∧
  t.dbg = s.dbg ∧ t.cores = s.cores ∧ t.enabled = s.enabled ∧ t.declared = s.declared ∧ t.mem = s.mem

abbrev State.OnlyStkUpd (t s : State) : Prop :=
  t.pending = s.pending ∧ t.answer = s.answer ∧ t.fresh = s.fresh ∧ t.sys = s.sys ∧ t.drw = s.drw ∧ t.dvt = s.dvt ∧
  t.wke = s.wke ∧ t.jig = s.jig ∧ t.dio = s.dio ∧ t.aio = s.aio ∧ t.lpe = s.lpe ∧ t.rio = s.rio ∧ t.can = s.can ∧
  t.mac = s.mac ∧ t.ptp = s.ptp ∧ t.rtc = s.rtc ∧ t.evr = s.evr ∧ t.cvu = s.cvu ∧ t.key = s.key ∧ t.hie = s.hie ∧
  t.dbg = s.dbg ∧ t.cores = s.cores ∧ t.enabled = s.enabled ∧ t.declared = s.declared ∧ t.mem = s.mem

abbrev State.OnlyRio (t s : State) : Prop :=
  t.pending = s.pending ∧ t.answer = s.answer ∧ t.fresh = s.fresh ∧ t.sys = s.sys ∧ t.drw = s.drw ∧ t.stk = s.stk ∧
  t.dvt = s.dvt ∧ t.wke = s.wke ∧ t.jig = s.jig ∧ t.dio = s.dio ∧ t.aio = s.aio ∧ t.lpe = s.lpe ∧ t.can = s.can ∧
  t.mac = s.mac ∧ t.ptp = s.ptp ∧ t.rtc = s.rtc ∧ t.evr = s.evr ∧ t.cvu = s.cvu ∧ t.key = s.key ∧ t.upd = s.upd ∧
  t.hie = s.hie ∧ t.dbg = s.dbg ∧ t.cores = s.cores ∧ t.enabled = s.enabled ∧ t.declared = s.declared ∧ t.mem = s.mem

theorem foldl_OnlyRio {α : Type} (f : State → α → State) (h : ∀ s x, (f s x).OnlyRio s) (l : List α) (s : State) :
    (l.foldl f s).OnlyRio s := by
  induction l generalizing s with
  | nil => simp only [List.foldl_nil, State.OnlyRio, and_self]
  | cons a l ih => rw [List.foldl_cons]; simp only [State.OnlyRio, ih, h, and_self]

abbrev State.OnlyFreshRioEvrHie (t s : State) : Prop :=
  t.pending = s.pending ∧ t.answer = s.answer ∧ t.sys = s.sys ∧ t.drw = s.drw ∧ t.stk = s.stk ∧ t.dvt = s.dvt ∧
  t.wke = s.wke ∧ t.jig = s.jig ∧ t.dio = s.dio ∧ t.aio = s.aio ∧ t.lpe = s.lpe ∧ t.can = s.can ∧ t.mac = s.mac ∧
  t.ptp = s.ptp ∧ t.rtc = s.rtc ∧ t.cvu = s.cvu ∧ t.key = s.key ∧ t.upd = s.upd ∧ t.dbg = s.dbg ∧ t.cores = s.cores ∧
  t.enabled = s.enabled ∧ t.declared = s.declared ∧ t.mem = s.mem

theorem foldl_OnlyFreshRioEvrHie {α : Type} (f : State → α → State) (h : ∀ s x, (f s x).OnlyFreshRioEvrHie s) (l : List α) (s : State) :
    (l.foldl f s).OnlyFreshRioEvrHie s := by
  induction l generalizing s with
  | nil => simp only [List.foldl_nil, State.OnlyFreshRioEvrHie, and_self]
  | cons a l ih => rw [List.foldl_cons]; simp only [State.OnlyFreshRioEvrHie, ih, h, and_self]

abbrev State.OnlyFreshRioCanEvrHie (t s : State) : Prop :=
  t.pending = s.pending ∧ t.answer = s.answer ∧ t.sys = s.sys ∧ t.drw = s.drw ∧ t.stk = s.stk ∧ t.dvt = s.dvt ∧
  t.wke = s.wke ∧ t.jig = s.jig ∧ t.dio = s.dio ∧ t.aio = s.aio ∧ t.lpe = s.lpe ∧ t.mac = s.mac ∧ t.ptp = s.ptp ∧
  t.rtc = s.rtc ∧ t.cvu = s.cvu ∧ t.key = s.key ∧ t.upd = s.upd ∧ t.dbg = s.dbg ∧ t.cores = s.cores ∧
  t.enabled = s.enabled ∧ t.declared = s.declared ∧ t.mem = s.mem

theorem foldl_OnlyFreshRioCanEvrHie {α : Type} (f : State → α → State) (h : ∀ s x, (f s x).OnlyFreshRioCanEvrHie s) (l : List α) (s : State) :
    (l.foldl f s).OnlyFreshRioCanEvrHie s := by
  induction l generalizing s with
  | nil => simp only [List.foldl_nil, State.OnlyFreshRioCanEvrHie, and_self]
  | cons a l ih => rw [List.foldl_cons]; simp only [State.OnlyFreshRioCanEvrHie, ih, h, and_self]

abbrev State.OnlyDvtRioDbg (t s : State) : Prop :=
  t.pending = s.pending ∧ t.answer = s.answer ∧ t.fresh = s.fresh ∧ t.sys = s.sys ∧ t.drw = s.drw ∧ t.stk = s.stk ∧
  t.wke = s.wke ∧ t.jig = s.jig ∧ t.dio = s.dio ∧ t.aio = s.aio ∧ t.lpe = s.lpe ∧ t.can = s.can ∧ t.mac = s.mac ∧
  t.ptp = s.ptp ∧ t.rtc = s.rtc ∧ t.evr = s.evr ∧ t.cvu = s.cvu ∧ t.key = s.key ∧ t.upd = s.upd ∧ t.hie = s.hie ∧
  t.cores = s.cores ∧ t.enabled = s.enabled ∧ t.declared = s.declared ∧ t.mem = s.mem

theorem foldl_OnlyDvtRioDbg {α : Type} (f : State → α → State) (h : ∀ s x, (f s x).OnlyDvtRioDbg s) (l : List α) (s : State) :
    (l.foldl f s).OnlyDvtRioDbg s := by
  induction l generalizing s with
  | nil => simp only [List.foldl_nil, State.OnlyDvtRioDbg, and_self]
  | cons a l ih => rw [List.foldl_cons]; simp only [State.OnlyDvtRioDbg, ih, h, and_self]

abbrev State.OnlyFreshRioMacEvrHie (t s : State) : Prop :=
  t.pending = s.pending ∧ t.answer = s.answer ∧ t.sys = s.sys ∧ t.drw = s.drw ∧ t.stk = s.stk ∧ t.dvt = s.dvt ∧
  t.wke = s.wke ∧ t.jig = s.jig ∧ t.dio = s.dio ∧ t.aio = s.aio ∧ t.lpe = s.lpe ∧ t.can = s.can ∧ t.ptp = s.ptp ∧
  t.rtc = s.rtc ∧ t.cvu = s.cvu ∧ t.key = s.key ∧ t.upd = s.upd ∧ t.dbg = s.dbg ∧ t.cores = s.cores ∧
  t.enabled = s.enabled ∧ t.declared = s.declared ∧ t.mem = s.mem

theorem foldl_OnlyFreshRioMacEvrHie {α : Type} (f : State → α → State) (h : ∀ s x, (f s x).OnlyFreshRioMacEvrHie s) (l : List α) (s : State) :
    (l.foldl f s).OnlyFreshRioMacEvrHie s := by
  induction l generalizing s with
  | nil => simp only [List.foldl_nil, State.OnlyFreshRioMacEvrHie, and_self]
  | cons a l ih => rw [List.foldl_cons]; simp only [State.OnlyFreshRioMacEvrHie, ih, h, and_self]

abbrev State.OnlyCan (t s : State) : Prop :=
  t.pending = s.pending ∧ t.answer = s.answer ∧ t.fresh = s.fresh ∧ t.sys = s.sys ∧ t.drw = s.drw ∧ t.stk = s.stk ∧
  t.dvt = s.dvt ∧ t.wke = s.wke ∧ t.jig = s.jig ∧ t.dio = s.dio ∧ t.aio = s.aio ∧ t.lpe = s.lpe ∧ t.rio = s.rio ∧
  t.mac = s.mac ∧ t.ptp = s.ptp ∧ t.rtc = s.rtc ∧ t.evr = s.evr ∧ t.cvu = s.cvu ∧ t.key = s.key ∧ t.upd = s.upd ∧
  t.hie = s.hie ∧ t.dbg = s.dbg ∧ t.cores = s.cores ∧ t.enabled = s.enabled ∧ t.declared = s.declared ∧ t.mem = s.mem

theorem foldl_OnlyCan {α : Type} (f : State → α → State) (h : ∀ s x, (f s x).OnlyCan s) (l : List α) (s : State) :
    (l.foldl f s).OnlyCan s := by
  induction l generalizing s with
  | nil => simp only [List.foldl_nil, State.OnlyCan, and_self]
  | cons a l ih => rw [List.foldl_cons]; simp only [State.OnlyCan, ih, h, and_self]

abbrev State.OnlyFreshCanEvrHie (t s : State) : Prop :=
  t.pending = s.pending ∧ t.answer = s.answer ∧ t.sys = s.sys ∧ t.drw = s.drw ∧ t.stk = s.stk ∧ t.dvt = s.dvt ∧
  t.wke = s.wke ∧ t.jig = s.jig ∧ t.dio = s.dio ∧ t.aio = s.aio ∧ t.lpe = s.lpe ∧ t.rio = s.rio ∧ t.mac = s.mac ∧
  t.ptp = s.ptp ∧ t.rtc = s.rtc ∧ t.cvu = s.cvu ∧ t.key = s.key ∧ t.upd = s.upd ∧ t.dbg = s.dbg ∧ t.cores = s.cores ∧
  t.enabled = s.enabled ∧ t.declared = s.declared ∧ t.mem = s.mem

theorem foldl_OnlyFreshCanEvrHie {α : Type} (f : State → α → State) (h : ∀ s x, (f s x).OnlyFreshCanEvrHie s) (l : List α) (s : State) :
    (l.foldl f s).OnlyFreshCanEvrHie s := by
  induction l generalizing s with
  | nil => simp only [List.foldl_nil, State.OnlyFreshCanEvrHie, and_self]
  | cons a l ih => rw [List.foldl_cons]; simp only [State.OnlyFreshCanEvrHie, ih, h, and_self]

abbrev State.OnlyFreshCan (t s : State) : Prop :=
  t.pending = s.pending ∧ t.answer = s.answer ∧ t.sys = s.sys ∧ t.drw = s.drw ∧ t.stk = s.stk ∧ t.dvt = s.dvt ∧
  t.wke = s.wke ∧ t.jig = s.jig ∧ t.dio = s.dio ∧ t.aio = s.aio ∧ t.lpe = s.lpe ∧ t.rio = s.rio ∧ t.mac = s.mac ∧
  t.ptp = s.ptp ∧ t.rtc = s.rtc ∧ t.evr = s.evr ∧ t.cvu = s.cvu ∧ t.key = s.key ∧ t.upd = s.upd ∧ t.hie = s.hie ∧
  t.dbg = s.dbg ∧ t.cores = s.cores ∧ t.enabled = s.enabled ∧ t.declared = s.declared ∧ t.mem = s.mem

abbrev State.OnlyRtc (t s : State) : Prop :=
  t.pending = s.pending ∧ t.answer = s.answer ∧ t.fresh = s.fresh ∧ t.sys = s.sys ∧ t.drw = s.drw ∧ t.stk = s.stk ∧
  t.dvt = s.dvt ∧ t.wke = s.wke ∧ t.jig = s.jig ∧ t.dio = s.dio ∧ t.aio = s.aio ∧ t.lpe = s.lpe ∧ t.rio = s.rio ∧
  t.can = s.can ∧ t.mac = s.mac ∧ t.ptp = s.ptp ∧ t.evr = s.evr ∧ t.cvu = s.cvu ∧ t.key = s.key ∧ t.upd = s.upd ∧
  t.hie = s.hie ∧ t.dbg = s.dbg ∧ t.cores = s.cores ∧ t.enabled = s.enabled ∧ t.declared = s.declared ∧ t.mem = s.mem

abbrev State.OnlyFreshRtcEvrHie (t s : State) : Prop :=
  t.pending = s.pending ∧ t.answer = s.answer ∧ t.sys = s.sys ∧ t.drw = s.drw ∧ t.stk = s.stk ∧ t.dvt = s.dvt ∧
  t.wke = s.wke ∧ t.jig = s.jig ∧ t.dio = s.dio ∧ t.aio = s.aio ∧ t.lpe = s.lpe ∧ t.rio = s.rio ∧ t.can = s.can ∧
  t.mac = s.mac ∧ t.ptp = s.ptp ∧ t.cvu = s.cvu ∧ t.key = s.key ∧ t.upd = s.upd ∧ t.dbg = s.dbg ∧ t.cores = s.cores ∧
  t.enabled = s.enabled ∧ t.declared = s.declared ∧ t.mem = s.mem

abbrev State.OnlyFreshSysRtcEvrKeyHie (t s : State) : Prop :=
  t.pending = s.pending ∧ t.answer = s.answer ∧ t.drw = s.drw ∧ t.stk = s.stk ∧ t.dvt = s.dvt ∧ t.wke = s.wke ∧
  t.jig = s.jig ∧ t.dio = s.dio ∧ t.aio = s.aio ∧ t.lpe = s.lpe ∧ t.rio = s.rio ∧ t.can = s.can ∧ t.mac = s.mac ∧
  t.ptp = s.ptp ∧ t.cvu = s.cvu ∧ t.upd = s.upd ∧ t.dbg = s.dbg ∧ t.cores = s.cores ∧ t.enabled = s.enabled ∧
  t.declared = s.declared ∧ t.mem = s.mem

abbrev State.OnlyFreshRtc (t s : State) : Prop :=
  t.pending = s.pending ∧ t.answer = s.answer ∧ t.sys = s.sys ∧ t.drw = s.drw ∧ t.stk = s.stk ∧ t.dvt = s.dvt ∧
  t.wke = s.wke ∧ t.jig = s.jig ∧ t.dio = s.dio ∧ t.aio = s.aio ∧ t.lpe = s.lpe ∧ t.rio = s.rio ∧ t.can = s.can ∧
  t.mac = s.mac ∧ t.ptp = s.ptp ∧ t.evr = s.evr ∧ t.cvu = s.cvu ∧ t.key = s.key ∧ t.upd = s.upd ∧ t.hie = s.hie ∧
  t.dbg = s.dbg ∧ t.cores = s.cores ∧ t.enabled = s.enabled ∧ t.declared = s.declared ∧ t.mem = s.mem

abbrev State.OnlyPtp (t s : State) : Prop :=
  t.pending = s.pending ∧ t.answer = s.answer ∧ t.fresh = s.fresh ∧ t.sys = s.sys ∧ t.drw = s.drw ∧ t.stk = s.stk ∧
  t.dvt = s.dvt ∧ t.wke = s.wke ∧ t.jig = s.jig ∧ t.dio = s.dio ∧ t.aio = s.aio ∧ t.lpe = s.lpe ∧ t.rio = s.rio ∧
  t.can = s.can ∧ t.mac = s.mac ∧ t.rtc = s.rtc ∧ t.evr = s.evr ∧ t.cvu = s.cvu ∧ t.key = s.key ∧ t.upd = s.upd ∧
  t.hie = s.hie ∧ t.dbg = s.dbg ∧ t.cores = s.cores ∧ t.enabled = s.enabled ∧ t.declared = s.declared ∧ t.mem = s.mem

abbrev State.OnlyFreshPtpEvrHie (t s : State) : Prop :=
  t.pending = s.pending ∧ t.answer = s.answer ∧ t.sys = s.sys ∧ t.drw = s.drw ∧ t.stk = s.stk ∧ t.dvt = s.dvt ∧
  t.wke = s.wke ∧ t.jig = s.jig ∧ t.dio = s.dio ∧ t.aio = s.aio ∧ t.lpe = s.lpe ∧ t.rio = s.rio ∧ t.can = s.can ∧
  t.mac = s.mac ∧ t.rtc = s.rtc ∧ t.cvu = s.cvu ∧ t.key = s.key ∧ t.upd = s.upd ∧ t.dbg = s.dbg ∧ t.cores = s.cores ∧
  t.enabled = s.enabled ∧ t.declared = s.declared ∧ t.mem = s.mem

abbrev State.OnlyStkPtp (t s : State) : Prop :=
  t.pending = s.pending ∧ t.answer = s.answer ∧ t.fresh = s.fresh ∧ t.sys = s.sys ∧ t.drw = s.drw ∧ t.dvt = s.dvt ∧
  t.wke = s.wke ∧ t.jig = s.jig ∧ t.dio = s.dio ∧ t.aio = s.aio ∧ t.lpe = s.lpe ∧ t.rio = s.rio ∧ t.can = s.can ∧
  t.mac = s.mac ∧ t.rtc = s.rtc ∧ t.evr = s.evr ∧ t.cvu = s.cvu ∧ t.key = s.key ∧ t.upd = s.upd ∧ t.hie = s.hie ∧
  t.dbg = s.dbg ∧ t.cores = s.cores ∧ t.enabled = s.enabled ∧ t.declared = s.declared ∧ t.mem = s.mem

abbrev State.OnlyFreshStkAioPtpEvrHie (t s : State) : Prop :=
  t.pending = s.pending ∧ t.answer = s.answer ∧ t.sys = s.sys ∧ t.drw = s.drw ∧ t.dvt = s.dvt ∧ t.wke = s.wke ∧
  t.jig = s.jig ∧ t.dio = s.dio ∧ t.lpe = s.lpe ∧ t.rio = s.rio ∧ t.can = s.can ∧ t.mac = s.mac ∧ t.rtc = s.rtc ∧
  t.cvu = s.cvu ∧ t.key = s.key ∧ t.upd = s.upd ∧ t.dbg = s.dbg ∧ t.cores = s.cores ∧ t.enabled = s.enabled ∧
  t.declared = s.declared ∧ t.mem = s.mem

abbrev State.OnlyFreshStkPtpEvrHie (t s : State) : Prop :=
  t.pending = s.pending ∧ t.answer = s.answer ∧ t.sys = s.sys ∧ t.drw = s.drw ∧ t.dvt = s.dvt ∧ t.wke = s.wke ∧
  t.jig = s.jig ∧ t.dio = s.dio ∧ t.aio = s.aio ∧ t.lpe = s.lpe ∧ t.rio = s.rio ∧ t.can = s.can ∧ t.mac = s.mac ∧
  t.rtc = s.rtc ∧ t.cvu = s.cvu ∧ t.key = s.key ∧ t.upd = s.upd ∧ t.dbg = s.dbg ∧ t.cores = s.cores ∧
  t.enabled = s.enabled ∧ t.declared = s.declared ∧ t.mem = s.mem

abbrev State.OnlyPtpRtc (t s : State) : Prop :=
  t.pending = s.pending ∧ t.answer = s.answer ∧ t.fresh = s.fresh ∧ t.sys = s.sys ∧ t.drw = s.drw ∧ t.stk = s.stk ∧
  t.dvt = s.dvt ∧ t.wke = s.wke ∧ t.jig = s.jig ∧ t.dio = s.dio ∧ t.aio = s.aio ∧ t.lpe = s.lpe ∧ t.rio = s.rio ∧
  t.can = s.can ∧ t.mac = s.mac ∧ t.evr = s.evr ∧ t.cvu = s.cvu ∧ t.key = s.key ∧ t.upd = s.upd ∧ t.hie = s.hie ∧
  t.dbg = s.dbg ∧ t.cores = s.cores ∧ t.enabled = s.enabled ∧ t.declared = s.declared ∧ t.mem = s.mem

abbrev State.OnlyMac (t s : State) : Prop :=
  t.pending = s.pending ∧ t.answer = s.answer ∧ t.fresh = s.fresh ∧ t.sys = s.sys ∧ t.drw = s.drw ∧ t.stk = s.stk ∧
  t.dvt = s.dvt ∧ t.wke = s.wke ∧ t.jig = s.jig ∧ t.dio = s.dio ∧ t.aio = s.aio ∧ t.lpe = s.lpe ∧ t.rio = s.rio ∧
  t.can = s.can ∧ t.ptp = s.ptp ∧ t.rtc = s.rtc ∧ t.evr = s.evr ∧ t.cvu = s.cvu ∧ t.key = s.key ∧ t.upd = s.upd ∧
  t.hie = s.hie ∧ t.dbg = s.dbg ∧ t.cores = s.cores ∧ t.enabled = s.enabled ∧ t.declared = s.declared ∧ t.mem = s.mem

abbrev State.OnlyFreshMacEvrHie (t s : State) : Prop :=
  t.pending = s.pending ∧ t.answer = s.answer ∧ t.sys = s.sys ∧ t.drw = s.drw ∧ t.stk = s.stk ∧ t.dvt = s.dvt ∧
  t.wke = s.wke ∧ t.jig = s.jig ∧ t.dio = s.dio ∧ t.aio = s.aio ∧ t.lpe = s.lpe ∧ t.rio = s.rio ∧ t.can = s.can ∧
  t.ptp = s.ptp ∧ t.rtc = s.rtc ∧ t.cvu = s.cvu ∧ t.key = s.key ∧ t.upd = s.upd ∧ t.dbg = s.dbg ∧ t.cores = s.cores ∧
  t.enabled = s.enabled ∧ t.declared = s.declared ∧ t.mem = s.mem

abbrev State.OnlyFreshDrwWkeMacEvrHieMem (t s : State) : Prop :=
  t.pending = s.pending ∧ t.answer = s.answer ∧ t.sys = s.sys ∧ t.stk = s.stk ∧ t.dvt = s.dvt ∧ t.jig = s.jig ∧
  t.dio = s.dio ∧ t.aio = s.aio ∧ t.lpe = s.lpe ∧ t.rio = s.rio ∧ t.can = s.can ∧ t.ptp = s.ptp ∧ t.rtc = s.rtc ∧
  t.cvu = s.cvu ∧ t.key = s.key ∧ t.upd = s.upd ∧ t.dbg = s.dbg ∧ t.cores = s.cores ∧ t.enabled = s.enabled ∧
  t.declared = s.declared

theorem foldl_OnlyFreshDrwWkeMacEvrHieMem {α : Type} (f : State → α → State) (h : ∀ s x, (f s x).OnlyFreshDrwWkeMacEvrHieMem s) (l : List α) (s : State) :
    (l.foldl f s).OnlyFreshDrwWkeMacEvrHieMem s := by
  induction l generalizing s with
  | nil => simp only [List.foldl_nil, State.OnlyFreshDrwWkeMacEvrHieMem, and_self]
  | cons a l ih => rw [List.foldl_cons]; simp only [State.OnlyFreshDrwWkeMacEvrHieMem, ih, h, and_self]

abbrev State.OnlyFreshDrwWkeMacPtpEvrHieMem (t s : State) : Prop :=
  t.pending = s.pending ∧ t.answer = s.answer ∧ t.sys = s.sys ∧ t.stk = s.stk ∧ t.dvt = s.dvt ∧ t.jig = s.jig ∧
  t.dio = s.dio ∧ t.aio = s.aio ∧ t.lpe = s.lpe ∧ t.rio = s.rio ∧ t.can = s.can ∧ t.rtc = s.rtc ∧ t.cvu = s.cvu ∧
  t.key = s.key ∧ t.upd = s.upd ∧ t.dbg = s.dbg ∧ t.cores = s.cores ∧ t.enabled = s.enabled ∧ t.declared = s.declared

abbrev State.OnlyFreshDrwWkeRioMacEvrHieMem (t s : State) : Prop :=
  t.pending = s.pending ∧ t.answer = s.answer ∧ t.sys = s.sys ∧ t.stk = s.stk ∧ t.dvt = s.dvt ∧ t.jig = s.jig ∧
  t.dio = s.dio ∧ t.aio = s.aio ∧ t.lpe = s.lpe ∧ t.can = s.can ∧ t.ptp = s.ptp ∧ t.rtc = s.rtc ∧ t.cvu = s.cvu ∧
  t.key = s.key ∧ t.upd = s.upd ∧ t.dbg = s.dbg ∧ t.cores = s.cores ∧ t.enabled = s.enabled ∧ t.declared = s.declared

abbrev State.OnlyCvu (t s : State) : Prop :=
  t.pending = s.pending ∧ t.answer = s.answer ∧ t.fresh = s.fresh ∧ t.sys = s.sys ∧ t.drw = s.drw ∧ t.stk = s.stk ∧
  t.dvt = s.dvt ∧ t.wke = s.wke ∧ t.jig = s.jig ∧ t.dio = s.dio ∧ t.aio = s.aio ∧ t.lpe = s.lpe ∧ t.rio = s.rio ∧
  t.can = s.can ∧ t.mac = s.mac ∧ t.ptp = s.ptp ∧ t.rtc = s.rtc ∧ t.evr = s.evr ∧ t.key = s.key ∧ t.upd = s.upd ∧
  t.hie = s.hie ∧ t.dbg = s.dbg ∧ t.cores = s.cores ∧ t.enabled = s.enabled ∧ t.declared = s.declared ∧ t.mem = s.mem

abbrev State.OnlyFreshDrwWkeEvrCvuHieMem (t s : State) : Prop :=
  t.pending = s.pending ∧ t.answer = s.answer ∧ t.sys = s.sys ∧ t.stk = s.stk ∧ t.dvt = s.dvt ∧ t.jig = s.jig ∧
  t.dio = s.dio ∧ t.aio = s.aio ∧ t.lpe = s.lpe ∧ t.rio = s.rio ∧ t.can = s.can ∧ t.mac = s.mac ∧ t.ptp = s.ptp ∧
  t.rtc = s.rtc ∧ t.key = s.key ∧ t.upd = s.upd ∧ t.dbg = s.dbg ∧ t.cores = s.cores ∧ t.enabled = s.enabled ∧
  t.declared = s.declared

abbrev State.OnlyFresh (t s : State) : Prop :=
  t.pending = s.pending ∧ t.answer = s.answer ∧ t.sys = s.sys ∧ t.drw = s.drw ∧ t.stk = s.stk ∧ t.dvt = s.dvt ∧
  t.wke = s.wke ∧ t.jig = s.jig ∧ t.dio = s.dio ∧ t.aio = s.aio ∧ t.lpe = s.lpe ∧ t.rio = s.rio ∧ t.can = s.can ∧
  t.mac = s.mac ∧ t.ptp = s.ptp ∧ t.rtc = s.rtc ∧ t.evr = s.evr ∧ t.cvu = s.cvu ∧ t.key = s.key ∧ t.upd = s.upd ∧
  t.hie = s.hie ∧ t.dbg = s.dbg ∧ t.cores = s.cores ∧ t.enabled = s.enabled ∧ t.declared = s.declared ∧ t.mem = s.mem

abbrev State.OnlyFreshKey (t s : State) : Prop :=
  t.pending = s.pending ∧ t.answer = s.answer ∧ t.sys = s.sys ∧ t.drw = s.drw ∧ t.stk = s.stk ∧ t.dvt = s.dvt ∧
  t.wke = s.wke ∧ t.jig = s.jig ∧ t.dio = s.dio ∧ t.aio = s.aio ∧ t.lpe = s.lpe ∧ t.rio = s.rio ∧ t.can = s.can ∧
  t.mac = s.mac ∧ t.ptp = s.ptp ∧ t.rtc = s.rtc ∧ t.evr = s.evr ∧ t.cvu = s.cvu ∧ t.upd = s.upd ∧ t.hie = s.hie ∧
  t.dbg = s.dbg ∧ t.cores = s.cores ∧ t.enabled = s.enabled ∧ t.declared = s.declared ∧ t.mem = s.mem

theorem foldl_OnlyFreshKey {α : Type} (f : State → α → State) (h : ∀ s x, (f s x).OnlyFreshKey s) (l : List α) (s : State) :
    (l.foldl f s).OnlyFreshKey s := by
  induction l generalizing s with
  | nil => simp only [List.foldl_nil, State.OnlyFreshKey, and_self]
  | cons a l ih => rw [List.foldl_cons]; simp only [State.OnlyFreshKey, ih, h, and_self]

abbrev State.OnlyFreshEvrKeyHie (t s : State) : Prop :=
  t.pending = s.pending ∧ t.answer = s.answer ∧ t.sys = s.sys ∧ t.drw = s.drw ∧ t.stk = s.stk ∧ t.dvt = s.dvt ∧
  t.wke = s.wke ∧ t.jig = s.jig ∧ t.dio = s.dio ∧ t.aio = s.aio ∧ t.lpe = s.lpe ∧ t.rio = s.rio ∧ t.can = s.can ∧
  t.mac = s.mac ∧ t.ptp = s.ptp ∧ t.rtc = s.rtc ∧ t.cvu = s.cvu ∧ t.upd = s.upd ∧ t.dbg = s.dbg ∧ t.cores = s.cores ∧
  t.enabled = s.enabled ∧ t.declared = s.declared ∧ t.mem = s.mem

theorem foldl_OnlyFreshEvrKeyHie {α : Type} (f : State → α → State) (h : ∀ s x, (f s x).OnlyFreshEvrKeyHie s) (l : List α) (s : State) :
    (l.foldl f s).OnlyFreshEvrKeyHie s := by
  induction l generalizing s with
  | nil => simp only [List.foldl_nil, State.OnlyFreshEvrKeyHie, and_self]
  | cons a l ih => rw [List.foldl_cons]; simp only [State.OnlyFreshEvrKeyHie, ih, h, and_self]

abbrev State.OnlyFreshEvrKeyHieDbgEnabled (t s : State) : Prop :=
  t.pending = s.pending ∧ t.answer = s.answer ∧ t.sys = s.sys ∧ t.drw = s.drw ∧ t.stk = s.stk ∧ t.dvt = s.dvt ∧
  t.wke = s.wke ∧ t.jig = s.jig ∧ t.dio = s.dio ∧ t.aio = s.aio ∧ t.lpe = s.lpe ∧ t.rio = s.rio ∧ t.can = s.can ∧
  t.mac = s.mac ∧ t.ptp = s.ptp ∧ t.rtc = s.rtc ∧ t.cvu = s.cvu ∧ t.upd = s.upd ∧ t.cores = s.cores ∧
  t.declared = s.declared ∧ t.mem = s.mem

abbrev State.OnlyAnswerFreshKey (t s : State) : Prop :=
  t.pending = s.pending ∧ t.sys = s.sys ∧ t.drw = s.drw ∧ t.stk = s.stk ∧ t.dvt = s.dvt ∧ t.wke = s.wke ∧ t.jig = s.jig ∧
  t.dio = s.dio ∧ t.aio = s.aio ∧ t.lpe = s.lpe ∧ t.rio = s.rio ∧ t.can = s.can ∧ t.mac = s.mac ∧ t.ptp = s.ptp ∧
  t.rtc = s.rtc ∧ t.evr = s.evr ∧ t.cvu = s.cvu ∧ t.upd = s.upd ∧ t.hie = s.hie ∧ t.dbg = s.dbg ∧ t.cores = s.cores ∧
  t.enabled = s.enabled ∧ t.declared = s.declared ∧ t.mem = s.mem

abbrev State.OnlyFreshRtcEvrKeyHie (t s : State) : Prop :=
  t.pending = s.pending ∧ t.answer = s.answer ∧ t.sys = s.sys ∧ t.drw = s.drw ∧ t.stk = s.stk ∧ t.dvt = s.dvt ∧
  t.wke = s.wke ∧ t.jig = s.jig ∧ t.dio = s.dio ∧ t.aio = s.aio ∧ t.lpe = s.lpe ∧ t.rio = s.rio ∧ t.can = s.can ∧
  t.mac = s.mac ∧ t.ptp = s.ptp ∧ t.cvu = s.cvu ∧ t.upd = s.upd ∧ t.dbg = s.dbg ∧ t.cores = s.cores ∧
  t.enabled = s.enabled ∧ t.declared = s.declared ∧ t.mem = s.mem

abbrev State.OnlyFreshDrwWkeRtcEvrKeyHieMem (t s : State) : Prop :=
  t.pending = s.pending ∧ t.answer = s.answer ∧ t.sys = s.sys ∧ t.stk = s.stk ∧ t.dvt = s.dvt ∧ t.jig = s.jig ∧
  t.dio = s.dio ∧ t.aio = s.aio ∧ t.lpe = s.lpe ∧ t.rio = s.rio ∧ t.can = s.can ∧ t.mac = s.mac ∧ t.ptp = s.ptp ∧
  t.cvu = s.cvu ∧ t.upd = s.upd ∧ t.dbg = s.dbg ∧ t.cores = s.cores ∧ t.enabled = s.enabled ∧ t.declared = s.declared

abbrev State.OnlyFreshSysEvrKeyHie (t s : State) : Prop :=
  t.pending = s.pending ∧ t.answer = s.answer ∧ t.drw = s.drw ∧ t.stk = s.stk ∧ t.dvt = s.dvt ∧ t.wke = s.wke ∧
  t.jig = s.jig ∧ t.dio = s.dio ∧ t.aio = s.aio ∧ t.lpe = s.lpe ∧ t.rio = s.rio ∧ t.can = s.can ∧ t.mac = s.mac ∧
  t.ptp = s.ptp ∧ t.rtc = s.rtc ∧ t.cvu = s.cvu ∧ t.upd = s.upd ∧ t.dbg = s.dbg ∧ t.cores = s.cores ∧
  t.enabled = s.enabled ∧ t.declared = s.declared ∧ t.mem = s.mem

theorem foldl_OnlyFreshSysEvrKeyHie {α : Type} (f : State → α → State) (h : ∀ s x, (f s x).OnlyFreshSysEvrKeyHie s) (l : List α) (s : State) :
    (l.foldl f s).OnlyFreshSysEvrKeyHie s := by
  induction l generalizing s with
  | nil => simp only [List.foldl_nil, State.OnlyFreshSysEvrKeyHie, and_self]
  | cons a l ih => rw [List.foldl_cons]; simp only [State.OnlyFreshSysEvrKeyHie, ih, h, and_self]

abbrev State.OnlyFreshSysStkDvtWkeEvrUpdHieCores (t s : State) : Prop :=
  t.pending = s.pending ∧ t.answer = s.answer ∧ t.drw = s.drw ∧ t.jig = s.jig ∧ t.dio = s.dio ∧ t.aio = s.aio ∧
  t.lpe = s.lpe ∧ t.rio = s.rio ∧ t.can = s.can ∧ t.mac = s.mac ∧ t.ptp = s.ptp ∧ t.rtc = s.rtc ∧ t.cvu = s.cvu ∧
  t.key = s.key ∧ t.dbg = s.dbg ∧ t.enabled = s.enabled ∧ t.declared = s.declared ∧ t.mem = s.mem

abbrev State.OnlyFreshDrwEvrUpdHie (t s : State) : Prop :=
  t.pending = s.pending ∧ t.answer = s.answer ∧ t.sys = s.sys ∧ t.stk = s.stk ∧ t.dvt = s.dvt ∧ t.wke = s.wke ∧
  t.jig = s.jig ∧ t.dio = s.dio ∧ t.aio = s.aio ∧ t.lpe = s.lpe ∧ t.rio = s.rio ∧ t.can = s.can ∧ t.mac = s.mac ∧
  t.ptp = s.ptp ∧ t.rtc = s.rtc ∧ t.cvu = s.cvu ∧ t.key = s.key ∧ t.dbg = s.dbg ∧ t.cores = s.cores ∧
  t.enabled = s.enabled ∧ t.declared = s.declared ∧ t.mem = s.mem

abbrev State.OnlyDrw (t s : State) : Prop :=
  t.pending = s.pending ∧ t.answer = s.answer ∧ t.fresh = s.fresh ∧ t.sys = s.sys ∧ t.stk = s.stk ∧ t.dvt = s.dvt ∧
  t.wke = s.wke ∧ t.jig = s.jig ∧ t.dio = s.dio ∧ t.aio = s.aio ∧ t.lpe = s.lpe ∧ t.rio = s.rio ∧ t.can = s.can ∧
  t.mac = s.mac ∧ t.ptp = s.ptp ∧ t.rtc = s.rtc ∧ t.evr = s.evr ∧ t.cvu = s.cvu ∧ t.key = s.key ∧ t.upd = s.upd ∧
  t.hie = s.hie ∧ t.dbg = s.dbg ∧ t.cores = s.cores ∧ t.enabled = s.enabled ∧ t.declared = s.declared ∧ t.mem = s.mem

abbrev State.OnlyUpdMem (t s : State) : Prop :=
  t.pending = s.pending ∧ t.answer = s.answer ∧ t.fresh = s.fresh ∧ t.sys = s.sys ∧ t.drw = s.drw ∧ t.stk = s.stk ∧
  t.dvt = s.dvt ∧ t.wke = s.wke ∧ t.jig = s.jig ∧ t.dio = s.dio ∧ t.aio = s.aio ∧ t.lpe = s.lpe ∧ t.rio = s.rio ∧
  t.can = s.can ∧ t.mac = s.mac ∧ t.ptp = s.ptp ∧ t.rtc = s.rtc ∧ t.evr = s.evr ∧ t.cvu = s.cvu ∧ t.key = s.key ∧
  t.hie = s.hie ∧ t.dbg = s.dbg ∧ t.cores = s.cores ∧ t.enabled = s.enabled ∧ t.declared = s.declared

abbrev State.OnlyFreshDrwStkDvtWkeEvrUpdHieCores (t s : State) : Prop :=
  t.pending = s.pending ∧ t.answer = s.answer ∧ t.sys = s.sys ∧ t.jig = s.jig ∧ t.dio = s.dio ∧ t.aio = s.aio ∧
  t.lpe = s.lpe ∧ t.rio = s.rio ∧ t.can = s.can ∧ t.mac = s.mac ∧ t.ptp = s.ptp ∧ t.rtc = s.rtc ∧ t.cvu = s.cvu ∧
  t.key = s.key ∧ t.dbg = s.dbg ∧ t.enabled = s.enabled ∧ t.declared = s.declared ∧ t.mem = s.mem

abbrev State.OnlyDrwUpdMem (t s : State) : Prop :=
  t.pending = s.pending ∧ t.answer = s.answer ∧ t.fresh = s.fresh ∧ t.sys = s.sys ∧ t.stk = s.stk ∧ t.dvt = s.dvt ∧
  t.wke = s.wke ∧ t.jig = s.jig ∧ t.dio = s.dio ∧ t.aio = s.aio ∧ t.lpe = s.lpe ∧ t.rio = s.rio ∧ t.can = s.can ∧
  t.mac = s.mac ∧ t.ptp = s.ptp ∧ t.rtc = s.rtc ∧ t.evr = s.evr ∧ t.cvu = s.cvu ∧ t.key = s.key ∧ t.hie = s.hie ∧
  t.dbg = s.dbg ∧ t.cores = s.cores ∧ t.enabled = s.enabled ∧ t.declared = s.declared

theorem foldl_Only_106 {α : Type} (f : State → α → State) (h : ∀ s x, (f s x).pending = s.pending ∧ (f s x).answer = s.answer) (l : List α) (s : State) :
    (l.foldl f s).pending = s.pending ∧ (l.foldl f s).answer = s.answer := by
  induction l generalizing s with
  | nil => simp only [List.foldl_nil, and_self]
  | cons a l ih => rw [List.foldl_cons]; simp only [ih, h, and_self]

abbrev State.OnlyAnswerDbg (t s : State) : Prop :=
  t.pending = s.pending ∧ t.fresh = s.fresh ∧ t.sys = s.sys ∧ t.drw = s.drw ∧ t.stk = s.stk ∧ t.dvt = s.dvt ∧
  t.wke = s.wke ∧ t.jig = s.jig ∧ t.dio = s.dio ∧ t.aio = s.aio ∧ t.lpe = s.lpe ∧ t.rio = s.rio ∧ t.can = s.can ∧
  t.mac = s.mac ∧ t.ptp = s.ptp ∧ t.rtc = s.rtc ∧ t.evr = s.evr ∧ t.cvu = s.cvu ∧ t.key = s.key ∧ t.upd = s.upd ∧
  t.hie = s.hie ∧ t.cores = s.cores ∧ t.enabled = s.enabled ∧ t.declared = s.declared ∧ t.mem = s.mem

abbrev State.OnlyDbgCores (t s : State) : Prop :=
  t.pending = s.pending ∧ t.answer = s.answer ∧ t.fresh = s.fresh ∧ t.sys = s.sys ∧ t.drw = s.drw ∧ t.stk = s.stk ∧
  t.dvt = s.dvt ∧ t.wke = s.wke ∧ t.jig = s.jig ∧ t.dio = s.dio ∧ t.aio = s.aio ∧ t.lpe = s.lpe ∧ t.rio = s.rio ∧
  t.can = s.can ∧ t.mac = s.mac ∧ t.ptp = s.ptp ∧ t.rtc = s.rtc ∧ t.evr = s.evr ∧ t.cvu = s.cvu ∧ t.key = s.key ∧
  t.upd = s.upd ∧ t.hie = s.hie ∧ t.enabled = s.enabled ∧ t.declared = s.declared ∧ t.mem = s.mem

theorem foldl_OnlyDbgCores {α : Type} (f : State → α → State) (h : ∀ s x, (f s x).OnlyDbgCores s) (l : List α) (s : State) :
    (l.foldl f s).OnlyDbgCores s := by
  induction l generalizing s with
  | nil => simp only [List.foldl_nil, State.OnlyDbgCores, and_self]
  | cons a l ih => rw [List.foldl_cons]; simp only [State.OnlyDbgCores, ih, h, and_self]

abbrev State.OnlyFreshDbgCores (t s : State) : Prop :=
  t.pending = s.pending ∧ t.answer = s.answer ∧ t.sys = s.sys ∧ t.drw = s.drw ∧ t.stk = s.stk ∧ t.dvt = s.dvt ∧
  t.wke = s.wke ∧ t.jig = s.jig ∧ t.dio = s.dio ∧ t.aio = s.aio ∧ t.lpe = s.lpe ∧ t.rio = s.rio ∧ t.can = s.can ∧
  t.mac = s.mac ∧ t.ptp = s.ptp ∧ t.rtc = s.rtc ∧ t.evr = s.evr ∧ t.cvu = s.cvu ∧ t.key = s.key ∧ t.upd = s.upd ∧
  t.hie = s.hie ∧ t.enabled = s.enabled ∧ t.declared = s.declared ∧ t.mem = s.mem

abbrev State.OnlyFreshStkEvrUpdHieDbgCores (t s : State) : Prop :=
  t.pending = s.pending ∧ t.answer = s.answer ∧ t.sys = s.sys ∧ t.drw = s.drw ∧ t.dvt = s.dvt ∧ t.wke = s.wke ∧
  t.jig = s.jig ∧ t.dio = s.dio ∧ t.aio = s.aio ∧ t.lpe = s.lpe ∧ t.rio = s.rio ∧ t.can = s.can ∧ t.mac = s.mac ∧
  t.ptp = s.ptp ∧ t.rtc = s.rtc ∧ t.cvu = s.cvu ∧ t.key = s.key ∧ t.enabled = s.enabled ∧ t.declared = s.declared ∧
  t.mem = s.mem

abbrev State.OnlyFreshEvrHieDbg (t s : State) : Prop :=
  t.pending = s.pending ∧ t.answer = s.answer ∧ t.sys = s.sys ∧ t.drw = s.drw ∧ t.stk = s.stk ∧ t.dvt = s.dvt ∧
  t.wke = s.wke ∧ t.jig = s.jig ∧ t.dio = s.dio ∧ t.aio = s.aio ∧ t.lpe = s.lpe ∧ t.rio = s.rio ∧ t.can = s.can ∧
  t.mac = s.mac ∧ t.ptp = s.ptp ∧ t.rtc = s.rtc ∧ t.cvu = s.cvu ∧ t.key = s.key ∧ t.upd = s.upd ∧ t.cores = s.cores ∧
  t.enabled = s.enabled ∧ t.declared = s.declared ∧ t.mem = s.mem

abbrev State.OnlyFreshEvrHieEnabled (t s : State) : Prop :=
  t.pending = s.pending ∧ t.answer = s.answer ∧ t.sys = s.sys ∧ t.drw = s.drw ∧ t.stk = s.stk ∧ t.dvt = s.dvt ∧
  t.wke = s.wke ∧ t.jig = s.jig ∧ t.dio = s.dio ∧ t.aio = s.aio ∧ t.lpe = s.lpe ∧ t.rio = s.rio ∧ t.can = s.can ∧
  t.mac = s.mac ∧ t.ptp = s.ptp ∧ t.rtc = s.rtc ∧ t.cvu = s.cvu ∧ t.key = s.key ∧ t.upd = s.upd ∧ t.dbg = s.dbg ∧
  t.cores = s.cores ∧ t.declared = s.declared ∧ t.mem = s.mem

abbrev State.OnlyStkRtc (t s : State) : Prop :=
  t.pending = s.pending ∧ t.answer = s.answer ∧ t.fresh = s.fresh ∧ t.sys = s.sys ∧ t.drw = s.drw ∧ t.dvt = s.dvt ∧
  t.wke = s.wke ∧ t.jig = s.jig ∧ t.dio = s.dio ∧ t.aio = s.aio ∧ t.lpe = s.lpe ∧ t.rio = s.rio ∧ t.can = s.can ∧
  t.mac = s.mac ∧ t.ptp = s.ptp ∧ t.evr = s.evr ∧ t.cvu = s.cvu ∧ t.key = s.key ∧ t.upd = s.upd ∧ t.hie = s.hie ∧
  t.dbg = s.dbg ∧ t.cores = s.cores ∧ t.enabled = s.enabled ∧ t.declared = s.declared ∧ t.mem = s.mem

abbrev State.OnlyFreshDioAioLpeEvrHie (t s : State) : Prop :=
  t.pending = s.pending ∧ t.answer = s.answer ∧ t.sys = s.sys ∧ t.drw = s.drw ∧ t.stk = s.stk ∧ t.dvt = s.dvt ∧
  t.wke = s.wke ∧ t.jig = s.jig ∧ t.rio = s.rio ∧ t.can = s.can ∧ t.mac = s.mac ∧ t.ptp = s.ptp ∧ t.rtc = s.rtc ∧
  t.cvu = s.cvu ∧ t.key = s.key ∧ t.upd = s.upd ∧ t.dbg = s.dbg ∧ t.cores = s.cores ∧ t.enabled = s.enabled ∧
  t.declared = s.declared ∧ t.mem = s.mem

theorem foldl_OnlyFreshDioAioLpeEvrHie {α : Type} (f : State → α → State) (h : ∀ s x, (f s x).OnlyFreshDioAioLpeEvrHie s) (l : List α) (s : State) :
    (l.foldl f s).OnlyFreshDioAioLpeEvrHie s := by
  induction l generalizing s with
  | nil => simp only [List.foldl_nil, State.OnlyFreshDioAioLpeEvrHie, and_self]
  | cons a l ih => rw [List.foldl_cons]; simp only [State.OnlyFreshDioAioLpeEvrHie, ih, h, and_self]

abbrev State.OnlyFreshDrwEvrKeyHie (t s : State) : Prop :=
  t.pending = s.pending ∧ t.answer = s.answer ∧ t.sys = s.sys ∧ t.stk = s.stk ∧ t.dvt = s.dvt ∧ t.wke = s.wke ∧
  t.jig = s.jig ∧ t.dio = s.dio ∧ t.aio = s.aio ∧ t.lpe = s.lpe ∧ t.rio = s.rio ∧ t.can = s.can ∧ t.mac = s.mac ∧
  t.ptp = s.ptp ∧ t.rtc = s.rtc ∧ t.cvu = s.cvu ∧ t.upd = s.upd ∧ t.dbg = s.dbg ∧ t.cores = s.cores ∧
  t.enabled = s.enabled ∧ t.declared = s.declared ∧ t.mem = s.mem

abbrev State.OnlyFreshStkDvtCanPtpRtcEvr (t s : State) : Prop :=
  t.pending = s.pending ∧ t.answer = s.answer ∧ t.sys = s.sys ∧ t.drw = s.drw ∧ t.wke = s.wke ∧ t.jig = s.jig ∧
  t.dio = s.dio ∧ t.aio = s.aio ∧ t.lpe = s.lpe ∧ t.rio = s.rio ∧ t.mac = s.mac ∧ t.cvu = s.cvu ∧ t.key = s.key ∧
  t.upd = s.upd ∧ t.hie = s.hie ∧ t.dbg = s.dbg ∧ t.cores = s.cores ∧ t.enabled = s.enabled ∧ t.declared = s.declared ∧
  t.mem = s.mem

abbrev State.OnlyCanMacPtp (t s : State) : Prop :=
  t.pending = s.pending ∧ t.answer = s.answer ∧ t.fresh = s.fresh ∧ t.sys = s.sys ∧ t.drw = s.drw ∧ t.stk = s.stk ∧
  t.dvt = s.dvt ∧ t.wke = s.wke ∧ t.jig = s.jig ∧ t.dio = s.dio ∧ t.aio = s.aio ∧ t.lpe = s.lpe ∧ t.rio = s.rio ∧
  t.rtc = s.rtc ∧ t.evr = s.evr ∧ t.cvu = s.cvu ∧ t.key = s.key ∧ t.upd = s.upd ∧ t.hie = s.hie ∧ t.dbg = s.dbg ∧
  t.cores = s.cores ∧ t.enabled = s.enabled ∧ t.declared = s.declared ∧ t.mem = s.mem

abbrev State.OnlyFreshCanMacPtpEvrHieEnabled (t s : State) : Prop :=
  t.pending = s.pending ∧ t.answer = s.answer ∧ t.sys = s.sys ∧ t.drw = s.drw ∧ t.stk = s.stk ∧ t.dvt = s.dvt ∧
  t.wke = s.wke ∧ t.jig = s.jig ∧ t.dio = s.dio ∧ t.aio = s.aio ∧ t.lpe = s.lpe ∧ t.rio = s.rio ∧ t.rtc = s.rtc ∧
  t.cvu = s.cvu ∧ t.key = s.key ∧ t.upd = s.upd ∧ t.dbg = s.dbg ∧ t.cores = s.cores ∧ t.declared = s.declared ∧ t.mem = s.mem

abbrev State.OnlyFreshDvtJigDioAioLpeEvrHie (t s : State) : Prop :=
  t.pending = s.pending ∧ t.answer = s.answer ∧ t.sys = s.sys ∧ t.drw = s.drw ∧ t.stk = s.stk ∧ t.wke = s.wke ∧
  t.rio = s.rio ∧ t.can = s.can ∧ t.mac = s.mac ∧ t.ptp = s.ptp ∧ t.rtc = s.rtc ∧ t.cvu = s.cvu ∧ t.key = s.key ∧
  t.upd = s.upd ∧ t.dbg = s.dbg ∧ t.cores = s.cores ∧ t.enabled = s.enabled ∧ t.declared = s.declared ∧ t.mem = s.mem

abbrev State.OnlyFreshHie (t s : State) : Prop :=
  t.pending = s.pending ∧ t.answer = s.answer ∧ t.sys = s.sys ∧ t.drw = s.drw ∧ t.stk = s.stk ∧ t.dvt = s.dvt ∧
  t.wke = s.wke ∧ t.jig = s.jig ∧ t.dio = s.dio ∧ t.aio = s.aio ∧ t.lpe = s.lpe ∧ t.rio = s.rio ∧ t.can = s.can ∧
  t.mac = s.mac ∧ t.ptp = s.ptp ∧ t.rtc = s.rtc ∧ t.evr = s.evr ∧ t.cvu = s.cvu ∧ t.key = s.key ∧ t.upd = s.upd ∧
  t.dbg = s.dbg ∧ t.cores = s.cores ∧ t.enabled = s.enabled ∧ t.declared = s.declared ∧ t.mem = s.mem

theorem foldl_OnlyFreshHie {α : Type} (f : State → α → State) (h : ∀ s x, (f s x).OnlyFreshHie s) (l : List α) (s : State) :
    (l.foldl f s).OnlyFreshHie s := by
  induction l generalizing s with
  | nil => simp only [List.foldl_nil, State.OnlyFreshHie, and_self]
  | cons a l ih => rw [List.foldl_cons]; simp only [State.OnlyFreshHie, ih, h, and_self]

abbrev State.OnlyAnswerHie (t s : State) : Prop :=
  t.pending = s.pending ∧ t.fresh = s.fresh ∧ t.sys = s.sys ∧ t.drw = s.drw ∧ t.stk = s.stk ∧ t.dvt = s.dvt ∧
  t.wke = s.wke ∧ t.jig = s.jig ∧ t.dio = s.dio ∧ t.aio = s.aio ∧ t.lpe = s.lpe ∧ t.rio = s.rio ∧ t.can = s.can ∧
  t.mac = s.mac ∧ t.ptp = s.ptp ∧ t.rtc = s.rtc ∧ t.evr = s.evr ∧ t.cvu = s.cvu ∧ t.key = s.key ∧ t.upd = s.upd ∧
  t.dbg = s.dbg ∧ t.cores = s.cores ∧ t.enabled = s.enabled ∧ t.declared = s.declared ∧ t.mem = s.mem

abbrev State.OnlyAnswerFreshHie (t s : State) : Prop :=
  t.pending = s.pending ∧ t.sys = s.sys ∧ t.drw = s.drw ∧ t.stk = s.stk ∧ t.dvt = s.dvt ∧ t.wke = s.wke ∧ t.jig = s.jig ∧
  t.dio = s.dio ∧ t.aio = s.aio ∧ t.lpe = s.lpe ∧ t.rio = s.rio ∧ t.can = s.can ∧ t.mac = s.mac ∧ t.ptp = s.ptp ∧
  t.rtc = s.rtc ∧ t.evr = s.evr ∧ t.cvu = s.cvu ∧ t.key = s.key ∧ t.upd = s.upd ∧ t.dbg = s.dbg ∧ t.cores = s.cores ∧
  t.enabled = s.enabled ∧ t.declared = s.declared ∧ t.mem = s.mem

abbrev State.OnlyDvtHieDbg (t s : State) : Prop :=
  t.pending = s.pending ∧ t.answer = s.answer ∧ t.fresh = s.fresh ∧ t.sys = s.sys ∧ t.drw = s.drw ∧ t.stk = s.stk ∧
  t.wke = s.wke ∧ t.jig = s.jig ∧ t.dio = s.dio ∧ t.aio = s.aio ∧ t.lpe = s.lpe ∧ t.rio = s.rio ∧ t.can = s.can ∧
  t.mac = s.mac ∧ t.ptp = s.ptp ∧ t.rtc = s.rtc ∧ t.evr = s.evr ∧ t.cvu = s.cvu ∧ t.key = s.key ∧ t.upd = s.upd ∧
  t.cores = s.cores ∧ t.enabled = s.enabled ∧ t.declared = s.declared ∧ t.mem = s.mem

abbrev State.OnlyFreshDvtEvrHieDbg (t s : State) : Prop :=
  t.pending = s.pending ∧ t.answer = s.answer ∧ t.sys = s.sys ∧ t.drw = s.drw ∧ t.stk = s.stk ∧ t.wke = s.wke ∧
  t.jig = s.jig ∧ t.dio = s.dio ∧ t.aio = s.aio ∧ t.lpe = s.lpe ∧ t.rio = s.rio ∧ t.can = s.can ∧ t.mac = s.mac ∧
  t.ptp = s.ptp ∧ t.rtc = s.rtc ∧ t.cvu = s.cvu ∧ t.key = s.key ∧ t.upd = s.upd ∧ t.cores = s.cores ∧
  t.enabled = s.enabled ∧ t.declared = s.declared ∧ t.mem = s.mem

theorem foldl_OnlyFreshDvtEvrHieDbg {α : Type} (f : State → α → State) (h : ∀ s x, (f s x).OnlyFreshDvtEvrHieDbg s) (l : List α) (s : State) :
    (l.foldl f s).OnlyFreshDvtEvrHieDbg s := by
  induction l generalizing s with
  | nil => simp only [List.foldl_nil, State.OnlyFreshDvtEvrHieDbg, and_self]
  | cons a l ih => rw [List.foldl_cons]; simp only [State.OnlyFreshDvtEvrHieDbg, ih, h, and_self]

abbrev State.OnlyFreshStkDvtLpeEvrHie (t s : State) : Prop :=
  t.pending = s.pending ∧ t.answer = s.answer ∧ t.sys = s.sys ∧ t.drw = s.drw ∧ t.wke = s.wke ∧ t.jig = s.jig ∧
  t.dio = s.dio ∧ t.aio = s.aio ∧ t.rio = s.rio ∧ t.can = s.can ∧ t.mac = s.mac ∧ t.ptp = s.ptp ∧ t.rtc = s.rtc ∧
  t.cvu = s.cvu ∧ t.key = s.key ∧ t.upd = s.upd ∧ t.dbg = s.dbg ∧ t.cores = s.cores ∧ t.enabled = s.enabled ∧
  t.declared = s.declared ∧ t.mem = s.mem

theorem foldl_OnlyFreshStkDvtLpeEvrHie {α : Type} (f : State → α → State) (h : ∀ s x, (f s x).OnlyFreshStkDvtLpeEvrHie s) (l : List α) (s : State) :
    (l.foldl f s).OnlyFreshStkDvtLpeEvrHie s := by
  induction l generalizing s with
  | nil => simp only [List.foldl_nil, State.OnlyFreshStkDvtLpeEvrHie, and_self]
  | cons a l ih => rw [List.foldl_cons]; simp only [State.OnlyFreshStkDvtLpeEvrHie, ih, h, and_self]

theorem foldl_Only_128 {α : Type} (f : State → α → State) (h : ∀ s x, (f s x).pending = s.pending ∧ (f s x).answer = s.answer ∧ (f s x).sys = s.sys ∧ (f s x).drw = s.drw ∧ (f s x).jig = s.jig ∧ (f s x).rio = s.rio ∧ (f s x).can = s.can ∧ (f s x).mac = s.mac ∧ (f s x).ptp = s.ptp ∧ (f s x).rtc = s.rtc ∧ (f s x).cvu = s.cvu ∧ (f s x).key = s.key ∧ (f s x).upd = s.upd ∧ (f s x).cores = s.cores ∧ (f s x).enabled = s.enabled ∧ (f s x).declared = s.declared) (l : List α) (s : State) :
    (l.foldl f s).pending = s.pending ∧ (l.foldl f s).answer = s.answer ∧ (l.foldl f s).sys = s.sys ∧ (l.foldl f s).drw = s.drw ∧ (l.foldl f s).jig = s.jig ∧ (l.foldl f s).rio = s.rio ∧ (l.foldl f s).can = s.can ∧ (l.foldl f s).mac = s.mac ∧ (l.foldl f s).ptp = s.ptp ∧ (l.foldl f s).rtc = s.rtc ∧ (l.foldl f s).cvu = s.cvu ∧ (l.foldl f s).key = s.key ∧ (l.foldl f s).upd = s.upd ∧ (l.foldl f s).cores = s.cores ∧ (l.foldl f s).enabled = s.enabled ∧ (l.foldl f s).declared = s.declared := by
  induction l generalizing s with
  | nil => simp only [List.foldl_nil, and_self]
  | cons a l ih => rw [List.foldl_cons]; simp only [ih, h, and_self]

abbrev State.OnlyEnabledDeclared (t s : State) : Prop :=
  t.pending = s.pending ∧ t.answer = s.answer ∧ t.fresh = s.fresh ∧ t.sys = s.sys ∧ t.drw = s.drw ∧ t.stk = s.stk ∧
  t.dvt = s.dvt ∧ t.wke = s.wke ∧ t.jig = s.jig ∧ t.dio = s.dio ∧ t.aio = s.aio ∧ t.lpe = s.lpe ∧ t.rio = s.rio ∧
  t.can = s.can ∧ t.mac = s.mac ∧ t.ptp = s.ptp ∧ t.rtc = s.rtc ∧ t.evr = s.evr ∧ t.cvu = s.cvu ∧ t.key = s.key ∧
  t.upd = s.upd ∧ t.hie = s.hie ∧ t.dbg = s.dbg ∧ t.cores = s.cores ∧ t.mem = s.mem

abbrev State.OnlyFreshSysStkWkeEvrHie (t s : State) : Prop :=
  t.pending = s.pending ∧ t.answer = s.answer ∧ t.drw = s.drw ∧ t.dvt = s.dvt ∧ t.jig = s.jig ∧ t.dio = s.dio ∧
  t.aio = s.aio ∧ t.lpe = s.lpe ∧ t.rio = s.rio ∧ t.can = s.can ∧ t.mac = s.mac ∧ t.ptp = s.ptp ∧ t.rtc = s.rtc ∧
  t.cvu = s.cvu ∧ t.key = s.key ∧ t.upd = s.upd ∧ t.dbg = s.dbg ∧ t.cores = s.cores ∧ t.enabled = s.enabled ∧
  t.declared = s.declared ∧ t.mem = s.mem

theorem foldl_OnlyFreshSysStkWkeEvrHie {α : Type} (f : State → α → State) (h : ∀ s x, (f s x).OnlyFreshSysStkWkeEvrHie s) (l : List α) (s : State) :
    (l.foldl f s).OnlyFreshSysStkWkeEvrHie s := by
  induction l generalizing s with
  | nil => simp only [List.foldl_nil, State.OnlyFreshSysStkWkeEvrHie, and_self]
  | cons a l ih => rw [List.foldl_cons]; simp only [State.OnlyFreshSysStkWkeEvrHie, ih, h, and_self]

abbrev State.OnlyStkWke (t s : State) : Prop :=
  t.pending = s.pending ∧ t.answer = s.answer ∧ t.fresh = s.fresh ∧ t.sys = s.sys ∧ t.drw = s.drw ∧ t.dvt = s.dvt ∧
  t.jig = s.jig ∧ t.dio = s.dio ∧ t.aio = s.aio ∧ t.lpe = s.lpe ∧ t.rio = s.rio ∧ t.can = s.can ∧ t.mac = s.mac ∧
  t.ptp = s.ptp ∧ t.rtc = s.rtc ∧ t.evr = s.evr ∧ t.cvu = s.cvu ∧ t.key = s.key ∧ t.upd = s.upd ∧ t.hie = s.hie ∧
  t.dbg = s.dbg ∧ t.cores = s.cores ∧ t.enabled = s.enabled ∧ t.declared = s.declared ∧ t.mem = s.mem

theorem foldl_OnlyStkWke {α : Type} (f : State → α → State) (h : ∀ s x, (f s x).OnlyStkWke s) (l : List α) (s : State) :
    (l.foldl f s).OnlyStkWke s := by
  induction l generalizing s with
  | nil => simp only [List.foldl_nil, State.OnlyStkWke, and_self]
  | cons a l ih => rw [List.foldl_cons]; simp only [State.OnlyStkWke, ih, h, and_self]

abbrev State.OnlySysDvtWkeLpeEvrUpd (t s : State) : Prop :=
  t.pending = s.pending ∧ t.answer = s.answer ∧ t.fresh = s.fresh ∧ t.drw = s.drw ∧ t.stk = s.stk ∧ t.jig = s.jig ∧
  t.dio = s.dio ∧ t.aio = s.aio ∧ t.rio = s.rio ∧ t.can = s.can ∧ t.mac = s.mac ∧ t.ptp = s.ptp ∧ t.rtc = s.rtc ∧
  t.cvu = s.cvu ∧ t.key = s.key ∧ t.hie = s.hie ∧ t.dbg = s.dbg ∧ t.cores = s.cores ∧ t.enabled = s.enabled ∧
  t.declared = s.declared ∧ t.mem = s.mem

theorem foldl_OnlySysDvtWkeLpeEvrUpd {α : Type} (f : State → α → State) (h : ∀ s x, (f s x).OnlySysDvtWkeLpeEvrUpd s) (l : List α) (s : State) :
    (l.foldl f s).OnlySysDvtWkeLpeEvrUpd s := by
  induction l generalizing s with
  | nil => simp only [List.foldl_nil, State.OnlySysDvtWkeLpeEvrUpd, and_self]
  | cons a l ih => rw [List.foldl_cons]; simp only [State.OnlySysDvtWkeLpeEvrUpd, ih, h, and_self]

abbrev State.OnlyFreshDioAioEvrHie (t s : State) : Prop :=
  t.pending = s.pending ∧ t.answer = s.answer ∧ t.sys = s.sys ∧ t.drw = s.drw ∧ t.stk = s.stk ∧ t.dvt = s.dvt ∧
  t.wke = s.wke ∧ t.jig = s.jig ∧ t.lpe = s.lpe ∧ t.rio = s.rio ∧ t.can = s.can ∧ t.mac = s.mac ∧ t.ptp = s.ptp ∧
  t.rtc = s.rtc ∧ t.cvu = s.cvu ∧ t.key = s.key ∧ t.upd = s.upd ∧ t.dbg = s.dbg ∧ t.cores = s.cores ∧
  t.enabled = s.enabled ∧ t.declared = s.declared ∧ t.mem = s.mem

theorem foldl_OnlyFreshDioAioEvrHie {α : Type} (f : State → α → State) (h : ∀ s x, (f s x).OnlyFreshDioAioEvrHie s) (l : List α) (s : State) :
    (l.foldl f s).OnlyFreshDioAioEvrHie s := by
  induction l generalizing s with
  | nil => simp only [List.foldl_nil, State.OnlyFreshDioAioEvrHie, and_self]
  | cons a l ih => rw [List.foldl_cons]; simp only [State.OnlyFreshDioAioEvrHie, ih, h, and_self]

theorem foldl_Only_134 {α : Type} (f : State → α → State) (h : ∀ s x, (f s x).pending = s.pending ∧ (f s x).answer = s.answer ∧ (f s x).sys = s.sys ∧ (f s x).drw = s.drw ∧ (f s x).stk = s.stk ∧ (f s x).dvt = s.dvt ∧ (f s x).wke = s.wke ∧ (f s x).lpe = s.lpe ∧ (f s x).cvu = s.cvu ∧ (f s x).key = s.key ∧ (f s x).upd = s.upd ∧ (f s x).dbg = s.dbg ∧ (f s x).cores = s.cores ∧ (f s x).enabled = s.enabled ∧ (f s x).declared = s.declared ∧ (f s x).mem = s.mem) (l : List α) (s : State) :
    (l.foldl f s).pending = s.pending ∧ (l.foldl f s).answer = s.answer ∧ (l.foldl f s).sys = s.sys ∧ (l.foldl f s).drw = s.drw ∧ (l.foldl f s).stk = s.stk ∧ (l.foldl f s).dvt = s.dvt ∧ (l.foldl f s).wke = s.wke ∧ (l.foldl f s).lpe = s.lpe ∧ (l.foldl f s).cvu = s.cvu ∧ (l.foldl f s).key = s.key ∧ (l.foldl f s).upd = s.upd ∧ (l.foldl f s).dbg = s.dbg ∧ (l.foldl f s).cores = s.cores ∧ (l.foldl f s).enabled = s.enabled ∧ (l.foldl f s).declared = s.declared ∧ (l.foldl f s).mem = s.mem := by
  induction l generalizing s with
  | nil => simp only [List.foldl_nil, and_self]
  | cons a l ih => rw [List.foldl_cons]; simp only [ih, h, and_self]

abbrev State.OnlyDrwDvt (t s : State) : Prop :=
  t.pending = s.pending ∧ t.answer = s.answer ∧ t.fresh = s.fresh ∧ t.sys = s.sys ∧ t.stk = s.stk ∧ t.wke = s.wke ∧
  t.jig = s.jig ∧ t.dio = s.dio ∧ t.aio = s.aio ∧ t.lpe = s.lpe ∧ t.rio = s.rio ∧ t.can = s.can ∧ t.mac = s.mac ∧
  t.ptp = s.ptp ∧ t.rtc = s.rtc ∧ t.evr = s.evr ∧ t.cvu = s.cvu ∧ t.key = s.key ∧ t.upd = s.upd ∧ t.hie = s.hie ∧
  t.dbg = s.dbg ∧ t.cores = s.cores ∧ t.enabled = s.enabled ∧ t.declared = s.declared ∧ t.mem = s.mem

theorem foldl_OnlyDrwDvt {α : Type} (f : State → α → State) (h : ∀ s x, (f s x).OnlyDrwDvt s) (l : List α) (s : State) :
    (l.foldl f s).OnlyDrwDvt s := by
  induction l generalizing s with
  | nil => simp only [List.foldl_nil, State.OnlyDrwDvt, and_self]
  | cons a l ih => rw [List.foldl_cons]; simp only [State.OnlyDrwDvt, ih, h, and_self]

abbrev State.OnlyFreshStkEvrHieMem (t s : State) : Prop :=
  t.pending = s.pending ∧ t.answer = s.answer ∧ t.sys = s.sys ∧ t.drw = s.drw ∧ t.dvt = s.dvt ∧ t.wke = s.wke ∧
  t.jig = s.jig ∧ t.dio = s.dio ∧ t.aio = s.aio ∧ t.lpe = s.lpe ∧ t.rio = s.rio ∧ t.can = s.can ∧ t.mac = s.mac ∧
  t.ptp = s.ptp ∧ t.rtc = s.rtc ∧ t.cvu = s.cvu ∧ t.key = s.key ∧ t.upd = s.upd ∧ t.dbg = s.dbg ∧ t.cores = s.cores ∧
  t.enabled = s.enabled ∧ t.declared = s.declared

abbrev State.OnlyFreshEvrUpdHieMem (t s : State) : Prop :=
  t.pending = s.pending ∧ t.answer = s.answer ∧ t.sys = s.sys ∧ t.drw = s.drw ∧ t.stk = s.stk ∧ t.dvt = s.dvt ∧
  t.wke = s.wke ∧ t.jig = s.jig ∧ t.dio = s.dio ∧ t.aio = s.aio ∧ t.lpe = s.lpe ∧ t.rio = s.rio ∧ t.can = s.can ∧
  t.mac = s.mac ∧ t.ptp = s.ptp ∧ t.rtc = s.rtc ∧ t.cvu = s.cvu ∧ t.key = s.key ∧ t.dbg = s.dbg ∧ t.cores = s.cores ∧
  t.enabled = s.enabled ∧ t.declared = s.declared

theorem foldl_OnlyFreshEvrUpdHieMem {α : Type} (f : State → α → State) (h : ∀ s x, (f s x).OnlyFreshEvrUpdHieMem s) (l : List α) (s : State) :
    (l.foldl f s).OnlyFreshEvrUpdHieMem s := by
  induction l generalizing s with
  | nil => simp only [List.foldl_nil, State.OnlyFreshEvrUpdHieMem, and_self]
  | cons a l ih => rw [List.foldl_cons]; simp only [State.OnlyFreshEvrUpdHieMem, ih, h, and_self]

theorem foldl_Only_138 {α : Type} (f : State → α → State) (h : ∀ s x, (f s x).pending = s.pending ∧ (f s x).answer = s.answer ∧ (f s x).sys = s.sys ∧ (f s x).jig = s.jig ∧ (f s x).rio = s.rio ∧ (f s x).can = s.can ∧ (f s x).mac = s.mac ∧ (f s x).ptp = s.ptp ∧ (f s x).cvu = s.cvu ∧ (f s x).key = s.key ∧ (f s x).cores = s.cores ∧ (f s x).enabled = s.enabled ∧ (f s x).declared = s.declared) (l : List α) (s : State) :
    (l.foldl f s).pending = s.pending ∧ (l.foldl f s).answer = s.answer ∧ (l.foldl f s).sys = s.sys ∧ (l.foldl f s).jig = s.jig ∧ (l.foldl f s).rio = s.rio ∧ (l.foldl f s).can = s.can ∧ (l.foldl f s).mac = s.mac ∧ (l.foldl f s).ptp = s.ptp ∧ (l.foldl f s).cvu = s.cvu ∧ (l.foldl f s).key = s.key ∧ (l.foldl f s).cores = s.cores ∧ (l.foldl f s).enabled = s.enabled ∧ (l.foldl f s).declared = s.declared := by
  induction l generalizing s with
  | nil => simp only [List.foldl_nil, and_self]
  | cons a l ih => rw [List.foldl_cons]; simp only [ih, h, and_self]

abbrev State.OnlyFreshSysDrwJigEvrUpdHieEnabledDeclared (t s : State) : Prop :=
  t.pending = s.pending ∧ t.answer = s.answer ∧ t.stk = s.stk ∧ t.dvt = s.dvt ∧ t.wke = s.wke ∧ t.dio = s.dio ∧
  t.aio = s.aio ∧ t.lpe = s.lpe ∧ t.rio = s.rio ∧ t.can = s.can ∧ t.mac = s.mac ∧ t.ptp = s.ptp ∧ t.rtc = s.rtc ∧
  t.cvu = s.cvu ∧ t.key = s.key ∧ t.dbg = s.dbg ∧ t.cores = s.cores ∧ t.mem = s.mem

abbrev State.OnlyFreshSysDrwJigRtcEvrHie (t s : State) : Prop :=
  t.pending = s.pending ∧ t.answer = s.answer ∧ t.stk = s.stk ∧ t.dvt = s.dvt ∧ t.wke = s.wke ∧ t.dio = s.dio ∧
  t.aio = s.aio ∧ t.lpe = s.lpe ∧ t.rio = s.rio ∧ t.can = s.can ∧ t.mac = s.mac ∧ t.ptp = s.ptp ∧ t.cvu = s.cvu ∧
  t.key = s.key ∧ t.upd = s.upd ∧ t.dbg = s.dbg ∧ t.cores = s.cores ∧ t.enabled = s.enabled ∧ t.declared = s.declared ∧
  t.mem = s.mem

abbrev State.OnlyFreshStkWkeAioPtpEvrHie (t s : State) : Prop :=
  t.pending = s.pending ∧ t.answer = s.answer ∧ t.sys = s.sys ∧ t.drw = s.drw ∧ t.dvt = s.dvt ∧ t.jig = s.jig ∧
  t.dio = s.dio ∧ t.lpe = s.lpe ∧ t.rio = s.rio ∧ t.can = s.can ∧ t.mac = s.mac ∧ t.rtc = s.rtc ∧ t.cvu = s.cvu ∧
  t.key = s.key ∧ t.upd = s.upd ∧ t.dbg = s.dbg ∧ t.cores = s.cores ∧ t.enabled = s.enabled ∧ t.declared = s.declared ∧
  t.mem = s.mem

abbrev State.OnlyFreshSysDioEvrHie (t s : State) : Prop :=
  t.pending = s.pending ∧ t.answer = s.answer ∧ t.drw = s.drw ∧ t.stk = s.stk ∧ t.dvt = s.dvt ∧ t.wke = s.wke ∧
  t.jig = s.jig ∧ t.aio = s.aio ∧ t.lpe = s.lpe ∧ t.rio = s.rio ∧ t.can = s.can ∧ t.mac = s.mac ∧ t.ptp = s.ptp ∧
  t.rtc = s.rtc ∧ t.cvu = s.cvu ∧ t.key = s.key ∧ t.upd = s.upd ∧ t.dbg = s.dbg ∧ t.cores = s.cores ∧
  t.enabled = s.enabled ∧ t.declared = s.declared ∧ t.mem = s.mem

abbrev State.OnlyDvtAioDbg (t s : State) : Prop :=
  t.pending = s.pending ∧ t.answer = s.answer ∧ t.fresh = s.fresh ∧ t.sys = s.sys ∧ t.drw = s.drw ∧ t.stk = s.stk ∧
  t.wke = s.wke ∧ t.jig = s.jig ∧ t.dio = s.dio ∧ t.lpe = s.lpe ∧ t.rio = s.rio ∧ t.can = s.can ∧ t.mac = s.mac ∧
  t.ptp = s.ptp ∧ t.rtc = s.rtc ∧ t.evr = s.evr ∧ t.cvu = s.cvu ∧ t.key = s.key ∧ t.upd = s.upd ∧ t.hie = s.hie ∧
  t.cores = s.cores ∧ t.enabled = s.enabled ∧ t.declared = s.declared ∧ t.mem = s.mem

abbrev State.OnlyFreshDvtAioRioEvrHieDbg (t s : State) : Prop :=
  t.pending = s.pending ∧ t.answer = s.answer ∧ t.sys = s.sys ∧ t.drw = s.drw ∧ t.stk = s.stk ∧ t.wke = s.wke ∧
  t.jig = s.jig ∧ t.dio = s.dio ∧ t.lpe = s.lpe ∧ t.can = s.can ∧ t.mac = s.mac ∧ t.ptp = s.ptp ∧ t.rtc = s.rtc ∧
  t.cvu = s.cvu ∧ t.key = s.key ∧ t.upd = s.upd ∧ t.cores = s.cores ∧ t.enabled = s.enabled ∧ t.declared = s.declared ∧
  t.mem = s.mem

theorem foldl_OnlyFreshDvtAioRioEvrHieDbg {α : Type} (f : State → α → State) (h : ∀ s x, (f s x).OnlyFreshDvtAioRioEvrHieDbg s) (l : List α) (s : State) :
    (l.foldl f s).OnlyFreshDvtAioRioEvrHieDbg s := by
  induction l generalizing s with
  | nil => simp only [List.foldl_nil, State.OnlyFreshDvtAioRioEvrHieDbg, and_self]
  | cons a l ih => rw [List.foldl_cons]; simp only [State.OnlyFreshDvtAioRioEvrHieDbg, ih, h, and_self]

theorem foldl_Only_146 {α : Type} (f : State → α → State) (h : ∀ s x, (f s x).pending = s.pending ∧ (f s x).answer = s.answer ∧ (f s x).sys = s.sys ∧ (f s x).drw = s.drw ∧ (f s x).stk = s.stk ∧ (f s x).dvt = s.dvt ∧ (f s x).wke = s.wke ∧ (f s x).ptp = s.ptp ∧ (f s x).rtc = s.rtc ∧ (f s x).cvu = s.cvu ∧ (f s x).key = s.key ∧ (f s x).upd = s.upd ∧ (f s x).dbg = s.dbg ∧ (f s x).cores = s.cores ∧ (f s x).enabled = s.enabled ∧ (f s x).declared = s.declared ∧ (f s x).mem = s.mem) (l : List α) (s : State) :
    (l.foldl f s).pending = s.pending ∧ (l.foldl f s).answer = s.answer ∧ (l.foldl f s).sys = s.sys ∧ (l.foldl f s).drw = s.drw ∧ (l.foldl f s).stk = s.stk ∧ (l.foldl f s).dvt = s.dvt ∧ (l.foldl f s).wke = s.wke ∧ (l.foldl f s).ptp = s.ptp ∧ (l.foldl f s).rtc = s.rtc ∧ (l.foldl f s).cvu = s.cvu ∧ (l.foldl f s).key = s.key ∧ (l.foldl f s).upd = s.upd ∧ (l.foldl f s).dbg = s.dbg ∧ (l.foldl f s).cores = s.cores ∧ (l.foldl f s).enabled = s.enabled ∧ (l.foldl f s).declared = s.declared ∧ (l.foldl f s).mem = s.mem := by
  induction l generalizing s with
  | nil => simp only [List.foldl_nil, and_self]
  | cons a l ih => rw [List.foldl_cons]; simp only [ih, h, and_self]

theorem foldl_Only_147 {α : Type} (f : State → α → State) (h : ∀ s x, (f s x).pending = s.pending ∧ (f s x).answer = s.answer ∧ (f s x).drw = s.drw ∧ (f s x).dvt = s.dvt ∧ (f s x).jig = s.jig ∧ (f s x).dio = s.dio ∧ (f s x).aio = s.aio ∧ (f s x).mac = s.mac ∧ (f s x).ptp = s.ptp ∧ (f s x).rtc = s.rtc ∧ (f s x).cvu = s.cvu ∧ (f s x).dbg = s.dbg ∧ (f s x).enabled = s.enabled ∧ (f s x).declared = s.declared ∧ (f s x).mem = s.mem) (l : List α) (s : State) :
    (l.foldl f s).pending = s.pending ∧ (l.foldl f s).answer = s.answer ∧ (l.foldl f s).drw = s.drw ∧ (l.foldl f s).dvt = s.dvt ∧ (l.foldl f s).jig = s.jig ∧ (l.foldl f s).dio = s.dio ∧ (l.foldl f s).aio = s.aio ∧ (l.foldl f s).mac = s.mac ∧ (l.foldl f s).ptp = s.ptp ∧ (l.foldl f s).rtc = s.rtc ∧ (l.foldl f s).cvu = s.cvu ∧ (l.foldl f s).dbg = s.dbg ∧ (l.foldl f s).enabled = s.enabled ∧ (l.foldl f s).declared = s.declared ∧ (l.foldl f s).mem = s.mem := by
  induction l generalizing s with
  | nil => simp only [List.foldl_nil, and_self]
  | cons a l ih => rw [List.foldl_cons]; simp only [ih, h, and_self]

abbrev State.OnlyStkLpe (t s : State) : Prop :=
  t.pending = s.pending ∧ t.answer = s.answer ∧ t.fresh = s.fresh ∧ t.sys = s.sys ∧ t.drw = s.drw ∧ t.dvt = s.dvt ∧
  t.wke = s.wke ∧ t.jig = s.jig ∧ t.dio = s.dio ∧ t.aio = s.aio ∧ t.rio = s.rio ∧ t.can = s.can ∧ t.mac = s.mac ∧
  t.ptp = s.ptp ∧ t.rtc = s.rtc ∧ t.evr = s.evr ∧ t.cvu = s.cvu ∧ t.key = s.key ∧ t.upd = s.upd ∧ t.hie = s.hie ∧
  t.dbg = s.dbg ∧ t.cores = s.cores ∧ t.enabled = s.enabled ∧ t.declared = s.declared ∧ t.mem = s.mem

abbrev State.OnlyFreshSysStkLpeCanEvrKeyHieCores (t s : State) : Prop :=
  t.pending = s.pending ∧ t.answer = s.answer ∧ t.drw = s.drw ∧ t.dvt = s.dvt ∧ t.wke = s.wke ∧ t.jig = s.jig ∧
  t.dio = s.dio ∧ t.aio = s.aio ∧ t.rio = s.rio ∧ t.mac = s.mac ∧ t.ptp = s.ptp ∧ t.rtc = s.rtc ∧ t.cvu = s.cvu ∧
  t.upd = s.upd ∧ t.dbg = s.dbg ∧ t.enabled = s.enabled ∧ t.declared = s.declared ∧ t.mem = s.mem

theorem foldl_Only_150 {α : Type} (f : State → α → State) (h : ∀ s x, (f s x).pending = s.pending ∧ (f s x).answer = s.answer ∧ (f s x).drw = s.drw ∧ (f s x).jig = s.jig ∧ (f s x).dio = s.dio ∧ (f s x).aio = s.aio ∧ (f s x).rio = s.rio ∧ (f s x).mac = s.mac ∧ (f s x).ptp = s.ptp ∧ (f s x).rtc = s.rtc ∧ (f s x).cvu = s.cvu ∧ (f s x).enabled = s.enabled ∧ (f s x).declared = s.declared ∧ (f s x).mem = s.mem) (l : List α) (s : State) :
    (l.foldl f s).pending = s.pending ∧ (l.foldl f s).answer = s.answer ∧ (l.foldl f s).drw = s.drw ∧ (l.foldl f s).jig = s.jig ∧ (l.foldl f s).dio = s.dio ∧ (l.foldl f s).aio = s.aio ∧ (l.foldl f s).rio = s.rio ∧ (l.foldl f s).mac = s.mac ∧ (l.foldl f s).ptp = s.ptp ∧ (l.foldl f s).rtc = s.rtc ∧ (l.foldl f s).cvu = s.cvu ∧ (l.foldl f s).enabled = s.enabled ∧ (l.foldl f s).declared = s.declared ∧ (l.foldl f s).mem = s.mem := by
  induction l generalizing s with
  | nil => simp only [List.foldl_nil, and_self]
  | cons a l ih => rw [List.foldl_cons]; simp only [ih, h, and_self]

abbrev State.OnlyFreshEvrHieDbgCores (t s : State) : Prop :=
  t.pending = s.pending ∧ t.answer = s.answer ∧ t.sys = s.sys ∧ t.drw = s.drw ∧ t.stk = s.stk ∧ t.dvt = s.dvt ∧
  t.wke = s.wke ∧ t.jig = s.jig ∧ t.dio = s.dio ∧ t.aio = s.aio ∧ t.lpe = s.lpe ∧ t.rio = s.rio ∧ t.can = s.can ∧
  t.mac = s.mac ∧ t.ptp = s.ptp ∧ t.rtc = s.rtc ∧ t.cvu = s.cvu ∧ t.key = s.key ∧ t.upd = s.upd ∧ t.enabled = s.enabled ∧
  t.declared = s.declared ∧ t.mem = s.mem

theorem foldl_OnlyFreshEvrHieDbgCores {α : Type} (f : State → α → State) (h : ∀ s x, (f s x).OnlyFreshEvrHieDbgCores s) (l : List α) (s : State) :
    (l.foldl f s).OnlyFreshEvrHieDbgCores s := by
  induction l generalizing s with
  | nil => simp only [List.foldl_nil, State.OnlyFreshEvrHieDbgCores, and_self]
  | cons a l ih => rw [List.foldl_cons]; simp only [State.OnlyFreshEvrHieDbgCores, ih, h, and_self]

abbrev State.OnlyPendingWkeDbg (t s : State) : Prop :=
  t.answer = s.answer ∧ t.fresh = s.fresh ∧ t.sys = s.sys ∧ t.drw = s.drw ∧ t.stk = s.stk ∧ t.dvt = s.dvt ∧ t.jig = s.jig ∧
  t.dio = s.dio ∧ t.aio = s.aio ∧ t.lpe = s.lpe ∧ t.rio = s.rio ∧ t.can = s.can ∧ t.mac = s.mac ∧ t.ptp = s.ptp ∧
  t.rtc = s.rtc ∧ t.evr = s.evr ∧ t.cvu = s.cvu ∧ t.key = s.key ∧ t.upd = s.upd ∧ t.hie = s.hie ∧ t.cores = s.cores ∧
  t.enabled = s.enabled ∧ t.declared = s.declared ∧ t.mem = s.mem

abbrev State.OnlyFreshSysStkWkeLpeEvrHie (t s : State) : Prop :=
  t.pending = s.pending ∧ t.answer = s.answer ∧ t.drw = s.drw ∧ t.dvt = s.dvt ∧ t.jig = s.jig ∧ t.dio = s.dio ∧
  t.aio = s.aio ∧ t.rio = s.rio ∧ t.can = s.can ∧ t.mac = s.mac ∧ t.ptp = s.ptp ∧ t.rtc = s.rtc ∧ t.cvu = s.cvu ∧
  t.key = s.key ∧ t.upd = s.upd ∧ t.dbg = s.dbg ∧ t.cores = s.cores ∧ t.enabled = s.enabled ∧ t.declared = s.declared ∧
  t.mem = s.mem

theorem foldl_Only_155 {α : Type} (f : State → α → State) (h : ∀ s x, (f s x).pending = s.pending ∧ (f s x).answer = s.answer ∧ (f s x).sys = s.sys ∧ (f s x).drw = s.drw ∧ (f s x).jig = s.jig ∧ (f s x).dio = s.dio ∧ (f s x).aio = s.aio ∧ (f s x).rio = s.rio ∧ (f s x).mac = s.mac ∧ (f s x).ptp = s.ptp ∧ (f s x).rtc = s.rtc ∧ (f s x).cvu = s.cvu ∧ (f s x).enabled = s.enabled ∧ (f s x).declared = s.declared) (l : List α) (s : State) :
    (l.foldl f s).pending = s.pending ∧ (l.foldl f s).answer = s.answer ∧ (l.foldl f s).sys = s.sys ∧ (l.foldl f s).drw = s.drw ∧ (l.foldl f s).jig = s.jig ∧ (l.foldl f s).dio = s.dio ∧ (l.foldl f s).aio = s.aio ∧ (l.foldl f s).rio = s.rio ∧ (l.foldl f s).mac = s.mac ∧ (l.foldl f s).ptp = s.ptp ∧ (l.foldl f s).rtc = s.rtc ∧ (l.foldl f s).cvu = s.cvu ∧ (l.foldl f s).enabled = s.enabled ∧ (l.foldl f s).declared = s.declared := by
  induction l generalizing s with
  | nil => simp only [List.foldl_nil, and_self]
  | cons a l ih => rw [List.foldl_cons]; simp only [ih, h, and_self]

abbrev State.OnlyDrwStkUpdMem (t s : State) : Prop :=
  t.pending = s.pending ∧ t.answer = s.answer ∧ t.fresh = s.fresh ∧ t.sys = s.sys ∧ t.dvt = s.dvt ∧ t.wke = s.wke ∧
  t.jig = s.jig ∧ t.dio = s.dio ∧ t.aio = s.aio ∧ t.lpe = s.lpe ∧ t.rio = s.rio ∧ t.can = s.can ∧ t.mac = s.mac ∧
  t.ptp = s.ptp ∧ t.rtc = s.rtc ∧ t.evr = s.evr ∧ t.cvu = s.cvu ∧ t.key = s.key ∧ t.hie = s.hie ∧ t.dbg = s.dbg ∧
  t.cores = s.cores ∧ t.enabled = s.enabled ∧ t.declared = s.declared

theorem foldl_Only_157 {α : Type} (f : State → α → State) (h : ∀ s x, (f s x).pending = s.pending ∧ (f s x).answer = s.answer ∧ (f s x).jig = s.jig ∧ (f s x).dio = s.dio ∧ (f s x).aio = s.aio ∧ (f s x).rio = s.rio ∧ (f s x).mac = s.mac ∧ (f s x).ptp = s.ptp ∧ (f s x).rtc = s.rtc ∧ (f s x).cvu = s.cvu ∧ (f s x).dbg = s.dbg ∧ (f s x).enabled = s.enabled ∧ (f s x).declared = s.declared) (l : List α) (s : State) :
    (l.foldl f s).pending = s.pending ∧ (l.foldl f s).answer = s.answer ∧ (l.foldl f s).jig = s.jig ∧ (l.foldl f s).dio = s.dio ∧ (l.foldl f s).aio = s.aio ∧ (l.foldl f s).rio = s.rio ∧ (l.foldl f s).mac = s.mac ∧ (l.foldl f s).ptp = s.ptp ∧ (l.foldl f s).rtc = s.rtc ∧ (l.foldl f s).cvu = s.cvu ∧ (l.foldl f s).dbg = s.dbg ∧ (l.foldl f s).enabled = s.enabled ∧ (l.foldl f s).declared = s.declared := by
  induction l generalizing s with
  | nil => simp only [List.foldl_nil, and_self]
  | cons a l ih => rw [List.foldl_cons]; simp only [ih, h, and_self]

abbrev State.OnlyFreshDioAioRioEvrHie (t s : State) : Prop :=
  t.pending = s.pending ∧ t.answer = s.answer ∧ t.sys = s.sys ∧ t.drw = s.drw ∧ t.stk = s.stk ∧ t.dvt = s.dvt ∧
  t.wke = s.wke ∧ t.jig = s.jig ∧ t.lpe = s.lpe ∧ t.can = s.can ∧ t.mac = s.mac ∧ t.ptp = s.ptp ∧ t.rtc = s.rtc ∧
  t.cvu = s.cvu ∧ t.key = s.key ∧ t.upd = s.upd ∧ t.dbg = s.dbg ∧ t.cores = s.cores ∧ t.enabled = s.enabled ∧
  t.declared = s.declared ∧ t.mem = s.mem

end Sys2Proof.Machine
end

