-- ==== Sys2Proof/Laws/KeepsBlocks.lean ====
section
/-! SUPPORT. What each operation keeps of the commands that wait, memory, the fuses and the least serial: the recorder, the arbiter of events, the I/O blocks, strokes and the writer. -/
namespace Sys2Proof.Machine

/-! ### Recorder -/

@[simp] theorem record__keeps (o : Occ) (s : State) :
    (record_ o s).Keeps s := by
  unfold record_; simp only [State.Keeps, ↓(ite_keeps ..), ite_self, and_self]

/-! ### Arbiter -/

/-- A reading of the state that raising, the cycle's list and a function all keep is kept by the function run as one
cycle. -/
theorem sameCycle_keep {β : Type} (g : State → β) (hr : ∀ o s, g (raise o s) = g s)
    (hc : ∀ (s : State) c, g { s with evr := { s.evr with cycle := c } } = g s) {f : State → State} (hf : ∀ s, g (f s) = g s)
    (s : State) : g (sameCycle f s) = g s := by
  unfold sameCycle
  split
  · exact hf s
  · dsimp only
    split
    · rw [hf, hc]
    · rw [foldl_keep g _ (fun s x => hr _ _), hc, hf, hc]

@[simp] theorem modHie_keeps (f : Hie → Hie) (s : State) :
    (modHie f s).Keeps s := by
  unfold modHie; simp only [State.Keeps, and_self]

@[simp] theorem hieSend_keeps (peer : Nat) (m : Marzin) (s : State) :
    (hieSend peer m s).Keeps s := by
  unfold hieSend; simp only [State.Keeps, (modHie_keeps ..), and_self]

theorem noteArbBy_keeps (note : Occ → State → State) (m : Marzin) (dropped full : Bool) (s : State) (hnote : ∀ a0 (s : State), (note a0 s).Keeps s) :
    (noteArbBy note m dropped full s).Keeps s := by
  unfold noteArbBy; simp only [State.Keeps, (modHie_keeps ..), hnote, ↓(ite_keeps ..), ↓ite_fuses, ↓ite_floor, ite_self, and_self]

theorem sendUpBy_keeps (note : Occ → State → State) (m : Marzin) (s : State) (hnote : ∀ a0 (s : State), (note a0 s).Keeps s) :
    (sendUpBy note m s).Keeps s := by
  unfold sendUpBy; simp only [State.Keeps, (modHie_keeps ..), (noteArbBy_keeps ..), hnote, implies_true, and_self]

theorem ownUpBy_keeps (note : Occ → State → State) (drawer : Nat) (ackReq : Bool) (body : MarzinBody) (s : State) (hnote : ∀ a0 (s : State), (note a0 s).Keeps s) :
    (ownUpBy note drawer ackReq body s).Keeps s := by
  unfold ownUpBy; simp only [State.Keeps, (sendUpBy_keeps ..), hnote, ↓(ite_keeps ..), ↓ite_fuses, ↓ite_floor, ite_self, implies_true, and_self]

theorem forwardBy_keeps (note : Occ → State → State) (before : Nat) (s : State) (hnote : ∀ a0 (s : State), (note a0 s).Keeps s) :
    (forwardBy note before s).Keeps s := by
  unfold forwardBy; simp only [State.Keeps, (ownUpBy_keeps ..), hnote, ↓(ite_keeps ..), ↓ite_fuses, ↓ite_floor, ite_self, (foldl_keeps ..), implies_true, and_self]

@[simp] theorem raiseBy_keeps (fuel : Nat) (o : Occ) (s : State) :
    (raiseBy fuel o s).Keeps s := by
  induction fuel generalizing o s with
  | zero => simp only [raiseBy, State.Keeps, (record__keeps ..), and_self]
  | succ n ih =>
    rw [raiseBy]
    split
    · exact ⟨rfl, rfl, rfl, rfl⟩
    · simp only [forwardBy_keeps _ _ _ ih, State.Keeps, (record__keeps ..), and_self]

@[simp] theorem raise_keeps (o : Occ) (s : State) :
    (raise o s).Keeps s := by
  unfold raise; (repeat' split) <;> simp only [State.Keeps, (raiseBy_keeps ..), and_self]

@[simp] theorem noteArb_keeps (m : Marzin) (dropped full : Bool) (s : State) :
    (noteArb m dropped full s).Keeps s := by
  unfold noteArb; simp [State.Keeps, (noteArbBy_keeps ..), (raise_keeps ..), and_self]

@[simp] theorem sendUp_keeps (m : Marzin) (s : State) :
    (sendUp m s).Keeps s := by
  unfold sendUp; simp [State.Keeps, (sendUpBy_keeps ..), (raise_keeps ..), and_self]

@[simp] theorem ownUp_keeps (drawer : Nat) (ackReq : Bool) (body : MarzinBody) (s : State) :
    (ownUp drawer ackReq body s).Keeps s := by
  unfold ownUp; simp [State.Keeps, (ownUpBy_keeps ..), (raise_keeps ..), and_self]

@[simp] theorem notice_keeps (kind value : Nat) (s : State) :
    (notice kind value s).Keeps s := by
  unfold notice; simp only [State.Keeps, (ownUp_keeps ..), and_self]

theorem sameCycle_keeps (f : State → State) (s : State) (hf : ∀ (s : State), (f s).Keeps s) :
    (sameCycle f s).Keeps s := by
  unfold sameCycle; simp only [State.Keeps, (raise_keeps ..), hf, ↓(ite_keeps ..), ↓ite_fuses, ↓ite_floor, ite_self, (foldl_keeps ..), implies_true, and_self]; repeat' (first | (simp only [State.Keeps, (raise_keeps ..), hf, ↓(ite_keeps ..), ↓ite_fuses, ↓ite_floor, ite_self, (foldl_keeps ..), implies_true, and_self]; done) | split)

@[simp] theorem raiseIgnored_keeps (block addr : Nat) (s : State) :
    (raiseIgnored block addr s).Keeps s := by
  unfold raiseIgnored; simp only [State.Keeps, (raise_keeps ..), and_self]

@[simp] theorem drainBuffer_keeps (s : State) :
    (drainBuffer s).Keeps s := by
  unfold drainBuffer; simp only [State.Keeps, (raise_keeps ..), ↓(ite_keeps ..), ↓ite_fuses, ↓ite_floor, ite_self, and_self]

@[simp] theorem enterMode_keeps (m : Mode) (s : State) :
    (enterMode m s).Keeps s := by
  unfold enterMode; simp only [State.Keeps, (raise_keeps ..), (notice_keeps ..), and_self]

@[simp] theorem recorderStart_keeps (s : State) :
    (recorderStart s).Keeps s := by
  unfold recorderStart; simp only [State.Keeps, (raise_keeps ..), ↓(ite_keeps ..), ↓ite_fuses, ↓ite_floor, ite_self, (foldl_keeps ..), implies_true, and_self]

/-! ### Jig -/

@[simp] theorem evalMatrix_keeps (s : State) :
    (evalMatrix s).Keeps s := by
  unfold evalMatrix; simp only [State.Keeps, ↓(ite_keeps ..), ite_self, and_self]

theorem followPins_keeps (f : State → State) (s : State) (hf : ∀ (s : State), (f s).Keeps s) :
    (followPins f s).Keeps s := by
  unfold followPins; simp only [State.Keeps, hf, and_self]

@[simp] theorem closeCooled_keeps (s : State) :
    (closeCooled s).Keeps s := by
  unfold closeCooled; simp only [State.Keeps, and_self]

@[simp] theorem takeMerge_keeps (s : State) :
    (takeMerge s).Keeps s := by
  unfold takeMerge; simp only [State.Keeps, (closeCooled_keeps ..), and_self]

@[simp] theorem driveOutputs_keeps (s : State) :
    (driveOutputs s).Keeps s := by
  unfold driveOutputs; simp [State.Keeps, (followPins_keeps ..), (takeMerge_keeps ..), and_self]

@[simp] theorem settleOutputs_keeps (s : State) :
    (settleOutputs s).Keeps s := by
  unfold settleOutputs; simp only [State.Keeps, (evalMatrix_keeps ..), (driveOutputs_keeps ..), and_self]

@[simp] theorem setCause_keeps (i : Nat) (s : State) :
    (setCause i s).Keeps s := by
  unfold setCause; simp only [State.Keeps, (raise_keeps ..), (notice_keeps ..), ↓(ite_keeps ..), ↓ite_fuses, ↓ite_floor, ite_self, and_self]

@[simp] theorem clearCause_keeps (i : Nat) (s : State) :
    (clearCause i s).Keeps s := by
  unfold clearCause; simp only [State.Keeps, and_self]

@[simp] theorem reportScrub_keeps (detail : Nat) (s : State) :
    (reportScrub detail s).Keeps s := by
  unfold reportScrub; simp only [State.Keeps, (raise_keeps ..), (setCause_keeps ..), and_self]

@[simp] theorem scrubMismatch_keeps (whr off : Nat) (s : State) :
    (scrubMismatch whr off s).Keeps s := by
  unfold scrubMismatch; simp only [State.Keeps, (settleOutputs_keeps ..), (reportScrub_keeps ..), and_self]

@[simp] theorem reportRead_keeps (s : State) :
    (reportRead s).Keeps s := by
  unfold reportRead; simp only [State.Keeps, (reportScrub_keeps ..), ↓(ite_keeps ..), ↓ite_fuses, ↓ite_floor, ite_self, and_self]

@[simp] theorem noteAdopted_keeps (s : State) :
    (noteAdopted s).Keeps s := by
  unfold noteAdopted; simp only [State.Keeps, (raise_keeps ..), and_self]

@[simp] theorem clearLatches_keeps (all : Bool) (rule : Nat) (s : State) :
    (clearLatches all rule s).Keeps s := by
  unfold clearLatches; simp only [State.Keeps, (settleOutputs_keeps ..), and_self]

@[simp] theorem latchClr_keeps (v : Nat) (s : State) :
    (latchClr v s).Keeps s := by
  unfold latchClr; simp only [State.Keeps, (raise_keeps ..), (raiseIgnored_keeps ..), (clearLatches_keeps ..), ↓(ite_keeps ..), ↓ite_fuses, ↓ite_floor, ite_self, and_self]

@[simp] theorem jigSample_keeps (s : State) :
    (jigSample s).Keeps s := by
  unfold jigSample; simp only [State.Keeps, (raise_keeps ..), (foldl_keeps ..), implies_true, and_self]

/-! ### Dio -/

@[simp] theorem modDi_keeps (n : Nat) (f : DiCh → DiCh) (s : State) :
    (modDi n f s).Keeps s := by
  unfold modDi; simp only [State.Keeps, and_self]

@[simp] theorem modDo_keeps (n : Nat) (f : DoCh → DoCh) (s : State) :
    (modDo n f s).Keeps s := by
  unfold modDo; simp only [State.Keeps, and_self]

@[simp] theorem modGrp_keeps (g : Nat) (f : Group → Group) (s : State) :
    (modGrp g f s).Keeps s := by
  unfold modGrp; simp only [State.Keeps, and_self]

@[simp] theorem dioEvent_keeps (code kind chan detail : Nat) (s : State) :
    (dioEvent code kind chan detail s).Keeps s := by
  unfold dioEvent; simp only [State.Keeps, (raise_keeps ..), and_self]

@[simp] theorem grpEvent_keeps (code g detail : Nat) (s : State) :
    (grpEvent code g detail s).Keeps s := by
  unfold grpEvent; simp only [State.Keeps, (raise_keeps ..), and_self]

@[simp] theorem diLatch_keeps (s : State) :
    (diLatch s).Keeps s := by
  unfold diLatch; simp only [State.Keeps, and_self]

@[simp] theorem setPin_keeps (n : Nat) (on : Bool) (s : State) :
    (setPin n on s).Keeps s := by
  unfold setPin; simp only [State.Keeps, and_self]

@[simp] theorem blankGroup_keeps (g : Nat) (s : State) :
    (blankGroup g s).Keeps s := by
  unfold blankGroup; simp only [State.Keeps, and_self]

@[simp] theorem clearChannel_keeps (n : Nat) (cooled : Bool) (s : State) :
    (clearChannel n cooled s).Keeps s := by
  unfold clearChannel; simp [State.Keeps, (followPins_keeps ..), (modDo_keeps ..), (dioEvent_keeps ..), and_self]

@[simp] theorem channelClr_keeps (n v : Nat) (cooled : Bool) (s : State) :
    (channelClr n v cooled s).Keeps s := by
  unfold channelClr; simp only [State.Keeps, (raiseIgnored_keeps ..), (clearChannel_keeps ..), ↓(ite_keeps ..), ↓ite_fuses, ↓ite_floor, ite_self, and_self]

@[simp] theorem groupClr_keeps (v : Nat) (s : State) :
    (groupClr v s).Keeps s := by
  unfold groupClr; simp [State.Keeps, (raise_keeps ..), (raiseIgnored_keeps ..), (followPins_keeps ..), (closeCooled_keeps ..), ↓(ite_keeps ..), ↓ite_fuses, ↓ite_floor, ite_self, and_self]

@[simp] theorem applyDioCfg_keeps (n v addr : Nat) (s : State) :
    (applyDioCfg n v addr s).Keeps s := by
  unfold applyDioCfg; simp only [State.Keeps, (raiseIgnored_keeps ..), (modDi_keeps ..), (modDo_keeps ..), (dioEvent_keeps ..), ↓(ite_keeps ..), ↓ite_fuses, ↓ite_floor, ite_self, and_self]

/-! ### Aio -/

@[simp] theorem modAio_keeps (n : Nat) (f : AioCh → AioCh) (s : State) :
    (modAio n f s).Keeps s := by
  unfold modAio; simp only [State.Keeps, and_self]

@[simp] theorem aioEvent_keeps (code n detail : Nat) (s : State) :
    (aioEvent code n detail s).Keeps s := by
  unfold aioEvent; simp only [State.Keeps, (raise_keeps ..), and_self]

@[simp] theorem aioStore_keeps (n : Nat) (v : Int) (q : Byte) (tick : Nat) (s : State) :
    (aioStore n v q tick s).Keeps s := by
  unfold aioStore; simp only [State.Keeps, (modAio_keeps ..), (aioEvent_keeps ..), ↓(ite_keeps ..), ↓ite_fuses, ↓ite_floor, ite_self, and_self]

@[simp] theorem aioConvert_keeps (n tn : Nat) (result : Option Int) (s : State) :
    (aioConvert n tn result s).Keeps s := by
  unfold aioConvert; simp only [State.Keeps, (modAio_keeps ..), (aioEvent_keeps ..), (aioStore_keeps ..), ↓(ite_keeps ..), ↓ite_fuses, ↓ite_floor, ite_self, (foldl_keeps ..), implies_true, and_self]; repeat' (first | (simp only [State.Keeps, (modAio_keeps ..), (aioEvent_keeps ..), (aioStore_keeps ..), ↓(ite_keeps ..), ↓ite_fuses, ↓ite_floor, ite_self, (foldl_keeps ..), implies_true, and_self]; done) | split)

@[simp] theorem aioSettleRate_keeps (e : Nat) (s : State) :
    (aioSettleRate e s).Keeps s := by
  unfold aioSettleRate; simp only [State.Keeps, and_self]

@[simp] theorem aioRebase_keeps (e : Nat) (s : State) :
    (aioRebase e s).Keeps s := by
  unfold aioRebase; simp only [State.Keeps, and_self]

@[simp] theorem aioLatch_keeps (tn e : Nat) (conv : List (Nat × Int)) (s : State) :
    (aioLatch tn e conv s).Keeps s := by
  unfold aioLatch; simp only [State.Keeps, (aioConvert_keeps ..), (aioSettleRate_keeps ..), (foldl_keeps ..), implies_true, and_self]

@[simp] theorem aioApply_keeps (n : Nat) (v : Int) (s : State) :
    (aioApply n v s).Keeps s := by
  unfold aioApply; simp only [State.Keeps, (modAio_keeps ..), and_self]

@[simp] theorem applyAioCfg_keeps (n v : Nat) (s : State) :
    (applyAioCfg n v s).Keeps s := by
  unfold applyAioCfg; simp only [State.Keeps, (modAio_keeps ..), and_self]

/-! ### Lpe -/

@[simp] theorem modLoop_keeps (n : Nat) (f : LoopSlot → LoopSlot) (s : State) :
    (modLoop n f s).Keeps s := by
  unfold modLoop; (repeat' split) <;> simp only [State.Keeps, and_self]

@[simp] theorem loopEvent_keeps (code : Nat) (r : Rec) (detail : Nat) (s : State) :
    (loopEvent code r detail s).Keeps s := by
  unfold loopEvent; simp only [State.Keeps, (raise_keeps ..), and_self]

@[simp] theorem evalSlot_keeps (im : Image) (tn e : Nat) (r : Rec) (s : State) :
    (evalSlot im tn e r s).Keeps s := by
  unfold evalSlot; (repeat' split) <;> simp only [State.Keeps, (modLoop_keeps ..), (loopEvent_keeps ..), ↓(ite_keeps ..), ↓ite_fuses, ↓ite_floor, ite_self, and_self]

@[simp] theorem evalLoops_keeps (im : Image) (tn e : Nat) (s : State) :
    (evalLoops im tn e s).Keeps s := by
  unfold evalLoops; simp only [State.Keeps, (evalSlot_keeps ..), (foldl_keeps ..), implies_true, and_self]

@[simp] theorem holdLoops_keeps (s : State) :
    (holdLoops s).Keeps s := by
  unfold holdLoops; simp only [State.Keeps, and_self]

@[simp] theorem debugLoops_keeps (s : State) :
    (debugLoops s).Keeps s := by
  unfold debugLoops; simp only [State.Keeps, and_self]

@[simp] theorem idleLoops_keeps (s : State) :
    (idleLoops s).Keeps s := by
  unfold idleLoops; simp only [State.Keeps, and_self]

@[simp] theorem restartLoops_keeps (e : Nat) (s : State) :
    (restartLoops e s).Keeps s := by
  unfold restartLoops; simp only [State.Keeps, and_self]

@[simp] theorem applyLpe_keeps (n off v addr : Nat) (s : State) :
    (applyLpe n off v addr s).Keeps s := by
  unfold applyLpe; (repeat' split) <;> simp only [State.Keeps, (raiseIgnored_keeps ..), (modLoop_keeps ..), (loopEvent_keeps ..), ↓(ite_keeps ..), ↓ite_fuses, ↓ite_floor, ite_self, and_self]

/-! ### Tasks -/

@[simp] theorem modTask_keeps (n : Nat) (f : Task → Task) (s : State) :
    (modTask n f s).Keeps s := by
  unfold modTask; simp only [State.Keeps, and_self]

@[simp] theorem modCore_keeps (c : Nat) (f : Core → Core) (s : State) :
    (modCore c f s).Keeps s := by
  unfold modCore; simp only [State.Keeps, and_self]

@[simp] theorem modCopy_keeps (n c : Nat) (f : Copy → Copy) (s : State) :
    (modCopy n c f s).Keeps s := by
  unfold modCopy; simp only [State.Keeps, (modTask_keeps ..), and_self]

@[simp] theorem modWs_keeps (n c : Nat) (f : WriteSet → WriteSet) (s : State) :
    (modWs n c f s).Keeps s := by
  unfold modWs; simp only [State.Keeps, (modCopy_keeps ..), and_self]

@[simp] theorem putState_keeps (n : Nat) (l : List (Nat × Byte)) (s : State) :
    (putState n l s).pending = s.pending ∧ (putState n l s).key.fuses = s.key.fuses ∧ (putState n l s).drw.serialFloor = s.drw.serialFloor := by
  unfold putState; simp only [and_self]

@[simp] theorem restoreCopy_keeps (n : Nat) (c : Memory) (s : State) :
    (restoreCopy n c s).pending = s.pending ∧ (restoreCopy n c s).key.fuses = s.key.fuses ∧ (restoreCopy n c s).drw.serialFloor = s.drw.serialFloor := by
  unfold restoreCopy; simp only [(putState_keeps ..), and_self]

@[simp] theorem commitState_keeps (n : Nat) (work : List (Nat × Byte)) (s : State) :
    (commitState n work s).pending = s.pending ∧ (commitState n work s).key.fuses = s.key.fuses ∧ (commitState n work s).drw.serialFloor = s.drw.serialFloor := by
  unfold commitState; simp only [(modTask_keeps ..), (putState_keeps ..), ↓(ite_keeps ..), ↓ite_fuses, ↓ite_floor, ite_self, and_self]

@[simp] theorem gateIdle_keeps (c : Nat) (s : State) :
    (gateIdle c s).Keeps s := by
  unfold gateIdle; simp only [State.Keeps, (modCore_keeps ..), ↓(ite_keeps ..), ↓ite_fuses, ↓ite_floor, ite_self, and_self]

@[simp] theorem noteVstore_keeps (s : State) :
    (noteVstore s).Keeps s := by
  unfold noteVstore; simp only [State.Keeps, and_self]

/-! ### UpdCore -/

@[simp] theorem modUpd_keeps (f : Upd → Upd) (s : State) :
    (modUpd f s).Keeps s := by
  unfold modUpd; simp only [State.Keeps, and_self]

@[simp] theorem updEvent_keeps (code detail : Nat) (s : State) :
    (updEvent code detail s).Keeps s := by
  unfold updEvent; simp only [State.Keeps, (raise_keeps ..), and_self]

@[simp] theorem endShadow_keeps (s : State) :
    (endShadow s).Keeps s := by
  unfold endShadow
  dsimp only
  simp only [State.Keeps, (noteVstore_keeps ..)]
  exact foldl_keeps _ (fun s c => gateIdle_keeps c s) _ _

@[simp] theorem abandonUpdate_keeps (reason : Nat) (s : State) :
    (abandonUpdate reason s).Keeps s := by
  unfold abandonUpdate; simp only [State.Keeps, (modUpd_keeps ..), (updEvent_keeps ..), (endShadow_keeps ..), ↓(ite_keeps ..), ↓ite_fuses, ↓ite_floor, ite_self, and_self]

@[simp] theorem failShadow_keeps (reason slot : Nat) (s : State) :
    (failShadow reason slot s).Keeps s := by
  unfold failShadow; simp only [State.Keeps, (updEvent_keeps ..), (abandonUpdate_keeps ..), ↓(ite_keeps ..), ↓ite_fuses, ↓ite_floor, ite_self, and_self]

@[simp] theorem trigger_keeps (t slot : Nat) (s : State) :
    (trigger t slot s).Keeps s := by
  unfold trigger; simp only [State.Keeps, (modUpd_keeps ..), ↓(ite_keeps ..), ↓ite_fuses, ↓ite_floor, ite_self, and_self]

@[simp] theorem strokeTrouble_keeps (t n c : Nat) (s : State) :
    (strokeTrouble t n c s).Keeps s := by
  unfold strokeTrouble; simp only [State.Keeps, (failShadow_keeps ..), (trigger_keeps ..), ↓(ite_keeps ..), ↓ite_fuses, ↓ite_floor, ite_self, and_self]

@[simp] theorem mapState_keeps (n : Nat) (s : State) :
    (mapState n s).Keeps s := by
  unfold mapState; (repeat' split) <;> simp only [State.Keeps, (modUpd_keeps ..), (updEvent_keeps ..), (foldl_keeps ..), implies_true, and_self]

/-! ### Strokes -/

@[simp] theorem startDrive_keeps (n c : Nat) (s : State) :
    (startDrive n c s).Keeps s := by
  unfold startDrive; simp only [State.Keeps, (modCore_keeps ..), (modCopy_keeps ..), (mapState_keeps ..), and_self]

@[simp] theorem dispatchCore_keeps (s : State) (c : Nat) :
    (dispatchCore s c).Keeps s := by
  unfold dispatchCore; (repeat' split) <;> simp only [State.Keeps, (modCopy_keeps ..), (startDrive_keeps ..), and_self]

@[simp] theorem dispatchAll_keeps (s : State) :
    (dispatchAll s).Keeps s := by
  unfold dispatchAll; simp only [State.Keeps, (dispatchCore_keeps ..), (foldl_keeps ..), implies_true, and_self]

@[simp] theorem wakeCore_keeps (c : Nat) (s : State) :
    (wakeCore c s).Keeps s := by
  unfold wakeCore; simp only [State.Keeps, (modCore_keeps ..), and_self]

@[simp] theorem endDrive_keeps (c : Nat) (s : State) :
    (endDrive c s).Keeps s := by
  unfold endDrive; simp only [State.Keeps, (modCore_keeps ..), (gateIdle_keeps ..), (noteVstore_keeps ..), (dispatchCore_keeps ..), and_self]

@[simp] theorem withdrawKeys_keeps (n : Nat) (core : Option Nat) (s : State) :
    (withdrawKeys n core s).Keeps s := by
  unfold withdrawKeys; simp only [State.Keeps, and_self]

@[simp] theorem releaseLocks_keeps (n : Nat) (core : Option Nat) (s : State) :
    (releaseLocks n core s).Keeps s := by
  unfold releaseLocks; simp only [State.Keeps, (withdrawKeys_keeps ..), and_self]

@[simp] theorem dvtFault_keeps (k slot detail addr : Nat) (s : State) :
    (dvtFault k slot detail addr s).Keeps s := by
  unfold dvtFault; simp only [State.Keeps, (raise_keeps ..), and_self]

@[simp] theorem strokeFault_keeps (k n c detail addr : Nat) (s : State) :
    (strokeFault k n c detail addr s).Keeps s := by
  unfold strokeFault; simp only [State.Keeps, (strokeTrouble_keeps ..), (dvtFault_keeps ..), and_self]

@[simp] theorem stopDrive_keeps (n c : Nat) (k : SkipKind) (s : State) :
    (stopDrive n c k s).Keeps s := by
  unfold stopDrive; simp only [State.Keeps, (modCopy_keeps ..), (failShadow_keeps ..), (endDrive_keeps ..), (releaseLocks_keeps ..), ↓(ite_keeps ..), ↓ite_fuses, ↓ite_floor, ite_self, and_self]

@[simp] theorem noteRefused_keeps (kind tag target addr drawer : Nat) (s : State) :
    (noteRefused kind tag target addr drawer s).Keeps s := by
  unfold noteRefused; simp only [State.Keeps, (raise_keeps ..), ↓ite_floor, ite_self, and_self]

@[simp] theorem accessFault_keeps (c : Nat) (s : State) :
    (accessFault c s).Keeps s := by
  unfold accessFault; (repeat' split) <;> simp only [State.Keeps, (trigger_keeps ..), (stopDrive_keeps ..), and_self]

@[simp] theorem coreRefused_keeps (c kind target addr : Nat) (s : State) :
    (coreRefused c kind target addr s).Keeps s := by
  unfold coreRefused; simp only [State.Keeps, (noteRefused_keeps ..), (accessFault_keeps ..), and_self]

@[simp] theorem noteOutOfRange_keeps (drawer addr : Nat) (s : State) :
    (noteOutOfRange drawer addr s).Keeps s := by
  unfold noteOutOfRange; simp only [State.Keeps, (raise_keeps ..), and_self]

theorem grpAccess_keeps (c off : Nat) (f : Nat → Copy → Nat → State → State) (s : State) (hf : ∀ a0 a1 a2 (s : State), (f a0 a1 a2 s).Keeps s) :
    (grpAccess c off f s).Keeps s := by
  unfold grpAccess; (repeat' split) <;> simp only [State.Keeps, (coreRefused_keeps ..), hf, and_self]

@[simp] theorem grpOpen_keeps (c v : Nat) (s : State) :
    (grpOpen c v s).Keeps s := by
  unfold grpOpen; simp only [State.Keeps, (modWs_keeps ..), (strokeFault_keeps ..), (grpAccess_keeps ..), ↓(ite_keeps ..), ↓ite_fuses, ↓ite_floor, ite_self, implies_true, and_self]

@[simp] theorem grpCommit_keeps (c v : Nat) (s : State) :
    (grpCommit c v s).Keeps s := by
  unfold grpCommit; simp only [State.Keeps, (modWs_keeps ..), (strokeFault_keeps ..), (grpAccess_keeps ..), ↓(ite_keeps ..), ↓ite_fuses, ↓ite_floor, ite_self, implies_true, and_self]

@[simp] theorem grpAbort_keeps (c v : Nat) (s : State) :
    (grpAbort c v s).Keeps s := by
  unfold grpAbort; simp only [State.Keeps, (modTask_keeps ..), (modWs_keeps ..), (strokeFault_keeps ..), (grpAccess_keeps ..), ↓(ite_keeps ..), ↓ite_fuses, ↓ite_floor, ite_self, implies_true, and_self]

@[simp] theorem stageWrite_keeps (c addr v : Nat) (s : State) :
    (stageWrite c addr v s).Keeps s := by
  unfold stageWrite; (repeat' split) <;> simp only [State.Keeps, (modWs_keeps ..), (strokeFault_keeps ..), and_self]

/-! ### Access -/

theorem service_keeps (c item target addr : Nat) (f : State → State) (s : State) (hf : ∀ (s : State), (f s).Keeps s) :
    (service c item target addr f s).Keeps s := by
  unfold service; (repeat' split) <;> simp only [State.Keeps, (coreRefused_keeps ..), hf, and_self]

@[simp] theorem dmaAccess_keeps (owner : Option Nat) (write : Bool) (a len : Nat) (s : State) :
    (dmaAccess owner write a len s).2.Keeps s := by
  unfold dmaAccess; simp only [State.Keeps, (noteRefused_keeps ..), (noteOutOfRange_keeps ..), and_self]; repeat' (first | (simp only [State.Keeps, (noteRefused_keeps ..), (noteOutOfRange_keeps ..), and_self]; done) | split)

@[simp] theorem tornBank_keeps (b : Bool) (s : State) :
    (tornBank b s).pending = s.pending ∧ (tornBank b s).key.fuses = s.key.fuses ∧ (tornBank b s).drw.serialFloor = s.drw.serialFloor := by
  unfold tornBank; simp only [↓(ite_keeps ..), ite_self, and_self]

@[simp] theorem overwriteByte_keeps (a : Nat) (b : Byte) (s : State) :
    (overwriteByte a b s).pending = s.pending ∧ (overwriteByte a b s).key.fuses = s.key.fuses ∧ (overwriteByte a b s).drw.serialFloor = s.drw.serialFloor := by
  unfold overwriteByte; (repeat' split) <;> simp only [(tornBank_keeps ..), and_self]

@[simp] theorem overwrite_keeps (a : Nat) (l : List Byte) (s : State) :
    (overwrite a l s).pending = s.pending ∧ (overwrite a l s).key.fuses = s.key.fuses ∧ (overwrite a l s).drw.serialFloor = s.drw.serialFloor := by
  unfold overwrite; simp only [(overwriteByte_keeps ..), ↓(ite_keeps ..), ↓ite_fuses, ↓ite_floor, ite_self, (foldl_pending ..), (foldl_fuses ..), (foldl_floor ..), implies_true, and_self]

@[simp] theorem noteTagWrite_keeps (s : State) :
    (noteTagWrite s).Keeps s := by
  unfold noteTagWrite; simp only [State.Keeps, (raise_keeps ..), and_self]

@[simp] theorem putBytes_keeps (a : Nat) (l : List Byte) (s : State) :
    (putBytes a l s).pending = s.pending ∧ (putBytes a l s).key.fuses = s.key.fuses ∧ (putBytes a l s).drw.serialFloor = s.drw.serialFloor := by
  unfold putBytes; simp only [(overwrite_keeps ..), (noteTagWrite_keeps ..), ↓(ite_keeps ..), ↓ite_fuses, ↓ite_floor, ite_self, and_self]

/-! ### WkeCore -/

@[simp] theorem jAdd_keeps (l : List JEntry) (s : State) :
    (jAdd l s).Keeps s := by
  unfold jAdd; simp only [State.Keeps, and_self]

@[simp] theorem jMark_keeps (kind arg : Nat) (s : State) :
    (jMark kind arg s).Keeps s := by
  unfold jMark; simp only [State.Keeps, and_self]

@[simp] theorem patchJournal_keeps (edge slot flags tn : Nat) (s : State) :
    (patchJournal edge slot flags tn s).Keeps s := by
  unfold patchJournal; simp only [State.Keeps, and_self]

@[simp] theorem ringWrite_keeps (s : State) :
    (ringWrite s).Keeps s := by
  unfold ringWrite; (repeat' split) <;> simp only [State.Keeps, (raise_keeps ..), and_self]

@[simp] theorem ringFlush_keeps (s : State) :
    (ringFlush s).Keeps s := by
  unfold ringFlush; simp only [State.Keeps, (ringWrite_keeps ..), (foldl_keeps ..), implies_true, and_self]

@[simp] theorem ckptStart_keeps (s : State) :
    (ckptStart s).Keeps s := by
  unfold ckptStart; simp only [State.Keeps, and_self]

@[simp] theorem ckptDone_keeps (duration : Nat) (s : State) :
    (ckptDone duration s).Keeps s := by
  unfold ckptDone; (repeat' split) <;> simp only [State.Keeps, (raise_keeps ..), (jMark_keeps ..), ↓(ite_keeps ..), ↓ite_fuses, ↓ite_floor, ite_self, and_self]

@[simp] theorem ckptFailed_keeps (passed : Nat) (s : State) :
    (ckptFailed passed s).Keeps s := by
  unfold ckptFailed; (repeat' split) <;> simp only [State.Keeps, (raise_keeps ..), and_self]

@[simp] theorem takeSeat_keeps (c : Nat) (u : SeatUse) (s : State) :
    (takeSeat c u s).Keeps s := by
  unfold takeSeat; simp only [State.Keeps, (abandonUpdate_keeps ..), (wakeCore_keeps ..), ↓(ite_keeps ..), ↓ite_fuses, ↓ite_floor, ite_self, and_self]

@[simp] theorem freeSeat_keeps (c : Nat) (s : State) :
    (freeSeat c s).Keeps s := by
  unfold freeSeat; simp only [State.Keeps, (gateIdle_keeps ..), and_self]

@[simp] theorem sparesOut_keeps (s : State) :
    (sparesOut s).Keeps s := by
  unfold sparesOut; simp only [State.Keeps, (setCause_keeps ..), ↓(ite_keeps ..), ↓ite_fuses, ↓ite_floor, ite_self, and_self]

@[simp] theorem dropShadow_keeps (n : Nat) (s : State) :
    (dropShadow n s).Keeps s := by
  unfold dropShadow; simp only [State.Keeps, (modCore_keeps ..), (gateIdle_keeps ..), (modUpd_keeps ..), ↓(ite_keeps ..), ↓ite_fuses, ↓ite_floor, ite_self, (foldl_keeps ..), implies_true, and_self]

@[simp] theorem enterReplay_keeps (n : Nat) (s : State) :
    (enterReplay n s).Keeps s := by
  unfold enterReplay; simp only [State.Keeps, (modTask_keeps ..), (releaseLocks_keeps ..), (dropShadow_keeps ..), ↓(ite_keeps ..), ↓ite_fuses, ↓ite_floor, ite_self, and_self]

@[simp] theorem stopTask_keeps (n : Nat) (s : State) :
    (stopTask n s).Keeps s := by
  unfold stopTask; simp only [State.Keeps, (raise_keeps ..), (modTask_keeps ..), (releaseLocks_keeps ..), (dropShadow_keeps ..), ↓(ite_keeps ..), ↓ite_fuses, ↓ite_floor, ite_self, and_self]

@[simp] theorem startTakeover_keeps (core seat : Nat) (slots : List Nat) (bankB rebuild : Bool) (s : State) :
    (startTakeover core seat slots bankB rebuild s).Keeps s := by
  unfold startTakeover; simp only [State.Keeps, (wakeCore_keeps ..), ↓(ite_keeps ..), ↓ite_fuses, ↓ite_floor, ite_self, and_self]

@[simp] theorem restoreBuilt_keeps (t : Takeover) (s : State) :
    (restoreBuilt t s).pending = s.pending ∧ (restoreBuilt t s).key.fuses = s.key.fuses ∧ (restoreBuilt t s).drw.serialFloor = s.drw.serialFloor := by
  unfold restoreBuilt; simp only [(restoreCopy_keeps ..), ↓(ite_keeps ..), ↓ite_fuses, ↓ite_floor, ite_self, (foldl_pending ..), (foldl_fuses ..), (foldl_floor ..), implies_true, and_self]

@[simp] theorem takeoverDone_keeps (t : Takeover) (us : Nat) (s : State) :
    (takeoverDone t us s).pending = s.pending ∧ (takeoverDone t us s).key.fuses = s.key.fuses ∧ (takeoverDone t us s).drw.serialFloor = s.drw.serialFloor := by
  unfold takeoverDone; simp only [(raise_keeps ..), (gateIdle_keeps ..), (jMark_keeps ..), (restoreBuilt_keeps ..), and_self]

@[simp] theorem rebind_keeps (c seat : Nat) (s : State) :
    (rebind c seat s).Keeps s := by
  unfold rebind; simp only [State.Keeps, (modTask_keeps ..), (foldl_keeps ..), implies_true, and_self]

@[simp] theorem unsettle_keeps (reason slot relEdge : Nat) (s : State) :
    (unsettle reason slot relEdge s).Keeps s := by
  unfold unsettle; simp only [State.Keeps, (raise_keeps ..), (modTask_keeps ..), (patchJournal_keeps ..), and_self]

@[simp] theorem failSeat_keeps (c kind : Nat) (s : State) :
    (failSeat c kind s).Keeps s := by
  unfold failSeat; simp only [State.Keeps, (raise_keeps ..), (sparesOut_keeps ..), ↓(ite_keeps ..), ↓ite_fuses, ↓ite_floor, ite_self, and_self]

@[simp] theorem moveTasks_keeps (c kind seat : Nat) (mv : List Nat) (old : Option Takeover) (s : State) :
    (moveTasks c kind seat mv old s).Keeps s := by
  unfold moveTasks; simp only [State.Keeps, (gateIdle_keeps ..), (takeSeat_keeps ..), (enterReplay_keeps ..), (startTakeover_keeps ..), (rebind_keeps ..), (foldl_keeps ..), implies_true, and_self]

@[simp] theorem strandTasks_keeps (mv hv : List Nat) (s : State) :
    (strandTasks mv hv s).Keeps s := by
  unfold strandTasks; simp only [State.Keeps, (stopTask_keeps ..), (foldl_keeps ..), implies_true, and_self]

@[simp] theorem moveSettle_keeps (c : Nat) (s : State) (x : Settle) :
    (moveSettle c s x).Keeps s := by
  unfold moveSettle; (repeat' split) <;> simp only [State.Keeps, (takeSeat_keeps ..), (unsettle_keeps ..), and_self]

@[simp] theorem passSeat_keeps (x y : Nat) (s : State) :
    (passSeat x y s).Keeps s := by
  unfold passSeat; simp only [State.Keeps, (takeSeat_keeps ..), (freeSeat_keeps ..), (rebind_keeps ..), and_self]

@[simp] theorem noteReseat_keeps (c : Nat) (seat : Option Nat) (s : State) :
    (noteReseat c seat s).Keeps s := by
  unfold noteReseat; simp only [State.Keeps, and_self]

@[simp] theorem giveUpSeat_keeps (c x : Nat) (s : State) :
    (giveUpSeat c x s).Keeps s := by
  unfold giveUpSeat; simp only [State.Keeps, (freeSeat_keeps ..), (stopTask_keeps ..), (rebind_keeps ..), (foldl_keeps ..), implies_true, and_self]

@[simp] theorem reseat_keeps (c : Nat) (s : State) :
    (reseat c s).Keeps s := by
  unfold reseat
  dsimp only
  exact foldl_keeps _ (fun s p => by repeat' (first | (simp only [State.Keeps, (passSeat_keeps ..), (noteReseat_keeps ..), (giveUpSeat_keeps ..), ↓(ite_keeps ..), ↓ite_fuses, ↓ite_floor, ite_self, and_self]; done) | split)) _ _

@[simp] theorem failWorker_keeps (c kind : Nat) (want : Option Nat) (old : Option Takeover) (s : State) :
    (failWorker c kind want old s).Keeps s := by
  unfold failWorker; simp only [State.Keeps, (raise_keeps ..), (modCopy_keeps ..), (dispatchAll_keeps ..), (sparesOut_keeps ..), (moveTasks_keeps ..), (strandTasks_keeps ..), (moveSettle_keeps ..), (reseat_keeps ..), ↓(ite_keeps ..), ↓ite_fuses, ↓ite_floor, ite_self, (foldl_keeps ..), implies_true, and_self]; repeat' (first | (simp only [State.Keeps, (raise_keeps ..), (modCopy_keeps ..), (dispatchAll_keeps ..), (sparesOut_keeps ..), (moveTasks_keeps ..), (strandTasks_keeps ..), (moveSettle_keeps ..), (reseat_keeps ..), ↓(ite_keeps ..), ↓ite_fuses, ↓ite_floor, ite_self, (foldl_keeps ..), implies_true, and_self]; done) | split)

@[simp] theorem failNow_keeps (want : Option Nat) (c kind : Nat) (s : State) :
    (failNow want c kind s).Keeps s := by
  unfold failNow; simp only [State.Keeps, (modCore_keeps ..), (noteVstore_keeps ..), (abandonUpdate_keeps ..), (trigger_keeps ..), (failSeat_keeps ..), (failWorker_keeps ..), ↓(ite_keeps ..), ↓ite_fuses, ↓ite_floor, ite_self, (foldl_keeps ..), implies_true, and_self]

@[simp] theorem failCoreTo_keeps (want : Option Nat) (c kind : Nat) (s : State) :
    (failCoreTo want c kind s).Keeps s := by
  unfold failCoreTo; simp only [State.Keeps, (sameCycle_keeps ..), (failNow_keeps ..), implies_true, and_self]

@[simp] theorem failCore_keeps (c kind : Nat) (s : State) :
    (failCore c kind s).Keeps s := by
  unfold failCore; simp only [State.Keeps, (failCoreTo_keeps ..), and_self]

end Sys2Proof.Machine
end

