-- ==== Sys2Proof/Laws/FramesBlocks.lean ====
section
/-! SUPPORT. The frame of each operation, the blocks of the state it leaves as they were: the recorder, the arbiter of events, the I/O blocks, strokes and the writer. -/
set_option linter.unusedSimpArgs false
namespace Sys2Proof.Machine

/-! ### Recorder -/

@[simp] theorem record__frame (o : Occ) (s : State) :
    (record_ o s).OnlyEvr s := by
  unfold record_; simp only [State.OnlyEvr, ↓(ite_fields ..), ite_self, implies_true, and_self]

/-! ### Arbiter -/

@[simp] theorem modHie_frame (f : Hie → Hie) (s : State) :
    (modHie f s).OnlyHie s := by
  unfold modHie; simp only [State.OnlyHie, ↓(ite_fields ..), ite_self, implies_true, and_self]

@[simp] theorem hieSend_frame (peer : Nat) (m : Marzin) (s : State) :
    (hieSend peer m s).OnlyHie s := by
  unfold hieSend; simp only [State.OnlyHie, (modHie_frame ..), ↓(ite_fields ..), ite_self, implies_true, and_self]

theorem noteArbBy_frame (note : Occ → State → State) (m : Marzin) (dropped full : Bool) (s : State) (hnote : ∀ a0 (s : State), (note a0 s).OnlyFreshEvrHie s) :
    (noteArbBy note m dropped full s).OnlyFreshEvrHie s := by
  unfold noteArbBy; simp only [State.OnlyFreshEvrHie, (modHie_frame ..), hnote, ↓(ite_fields ..), ite_self, implies_true, and_self]

theorem sendUpBy_frame (note : Occ → State → State) (m : Marzin) (s : State) (hnote : ∀ a0 (s : State), (note a0 s).OnlyFreshEvrHie s) :
    (sendUpBy note m s).OnlyFreshEvrHie s := by
  unfold sendUpBy; simp only [State.OnlyFreshEvrHie, (modHie_frame ..), (noteArbBy_frame ..), hnote, ↓(ite_fields ..), ite_self, implies_true, and_self]

theorem ownUpBy_frame (note : Occ → State → State) (drawer : Nat) (ackReq : Bool) (body : MarzinBody) (s : State) (hnote : ∀ a0 (s : State), (note a0 s).OnlyFreshEvrHie s) :
    (ownUpBy note drawer ackReq body s).OnlyFreshEvrHie s := by
  unfold ownUpBy; simp only [State.OnlyFreshEvrHie, (sendUpBy_frame ..), hnote, ↓(ite_fields ..), ite_self, implies_true, and_self]

theorem forwardBy_frame (note : Occ → State → State) (before : Nat) (s : State) (hnote : ∀ a0 (s : State), (note a0 s).OnlyFreshEvrHie s) :
    (forwardBy note before s).OnlyFreshEvrHie s := by
  unfold forwardBy; simp only [State.OnlyFreshEvrHie, (ownUpBy_frame ..), hnote, ↓(ite_fields ..), ite_self, (foldl_OnlyFreshEvrHie ..), implies_true, and_self]

@[simp] theorem raiseBy_frame (fuel : Nat) (o : Occ) (s : State) :
    (raiseBy fuel o s).OnlyFreshEvrHie s := by
  induction fuel generalizing o s with
  | zero => simp only [raiseBy, State.OnlyFreshEvrHie, (record__frame ..), (forwardBy_frame ..), ↓(ite_fields ..), ite_self, implies_true, and_self]
  | succ n ih =>
    rw [raiseBy]
    split
    · simp only [State.OnlyFreshEvrHie, (record__frame ..), (forwardBy_frame ..), ↓(ite_fields ..), ite_self, implies_true, and_self]
    · simp only [forwardBy_frame _ _ _ ih, State.OnlyFreshEvrHie, (record__frame ..), (forwardBy_frame ..), ↓(ite_fields ..), ite_self, implies_true, and_self]

@[simp] theorem raise_frame (o : Occ) (s : State) :
    (raise o s).OnlyFreshEvrHie s := by
  unfold raise; (repeat' split) <;> simp only [State.OnlyFreshEvrHie, (raiseBy_frame ..), ↓(ite_fields ..), ite_self, implies_true, and_self]

@[simp] theorem noteArb_frame (m : Marzin) (dropped full : Bool) (s : State) :
    (noteArb m dropped full s).OnlyFreshEvrHie s := by
  unfold noteArb; simp only [State.OnlyFreshEvrHie, (noteArbBy_frame ..), (raise_frame ..), ↓(ite_fields ..), ite_self, implies_true, and_self]

@[simp] theorem sendUp_frame (m : Marzin) (s : State) :
    (sendUp m s).OnlyFreshEvrHie s := by
  unfold sendUp; simp only [State.OnlyFreshEvrHie, (sendUpBy_frame ..), (raise_frame ..), ↓(ite_fields ..), ite_self, implies_true, and_self]

@[simp] theorem ownUp_frame (drawer : Nat) (ackReq : Bool) (body : MarzinBody) (s : State) :
    (ownUp drawer ackReq body s).OnlyFreshEvrHie s := by
  unfold ownUp; simp only [State.OnlyFreshEvrHie, (ownUpBy_frame ..), (raise_frame ..), ↓(ite_fields ..), ite_self, implies_true, and_self]

@[simp] theorem notice_frame (kind value : Nat) (s : State) :
    (notice kind value s).OnlyFreshEvrHie s := by
  unfold notice; simp only [State.OnlyFreshEvrHie, (ownUp_frame ..), ↓(ite_fields ..), ite_self, implies_true, and_self]

theorem sameCycle_frame (f : State → State) (s : State) (hf : ∀ (s : State), (f s).OnlyFreshEvrHie s) :
    (sameCycle f s).OnlyFreshEvrHie s := by
  unfold sameCycle; simp only [State.OnlyFreshEvrHie, (raise_frame ..), hf, ↓(ite_fields ..), ite_self, (foldl_OnlyFreshEvrHie ..), implies_true, and_self]; repeat' (first | (simp only [State.OnlyFreshEvrHie, (raise_frame ..), hf, ↓(ite_fields ..), ite_self, (foldl_OnlyFreshEvrHie ..), implies_true, and_self]; done) | split)

@[simp] theorem raiseIgnored_frame (block addr : Nat) (s : State) :
    (raiseIgnored block addr s).OnlyFreshEvrHie s := by
  unfold raiseIgnored; simp only [State.OnlyFreshEvrHie, (raise_frame ..), ↓(ite_fields ..), ite_self, implies_true, and_self]

@[simp] theorem drainBuffer_frame (s : State) :
    (drainBuffer s).OnlyFreshEvrHie s := by
  unfold drainBuffer; simp only [State.OnlyFreshEvrHie, (raise_frame ..), ↓(ite_fields ..), ite_self, implies_true, and_self]

@[simp] theorem enterMode_frame (m : Mode) (s : State) :
    (enterMode m s).OnlyFreshSysEvrHie s := by
  unfold enterMode; simp only [State.OnlyFreshSysEvrHie, (raise_frame ..), (notice_frame ..), ↓(ite_fields ..), ite_self, implies_true, and_self]

@[simp] theorem recorderStart_frame (s : State) :
    (recorderStart s).OnlyFreshEvrHie s := by
  unfold recorderStart; simp only [State.OnlyFreshEvrHie, (raise_frame ..), ↓(ite_fields ..), ite_self, (foldl_OnlyFreshEvrHie ..), implies_true, and_self]

/-! ### Jig -/

@[simp] theorem evalMatrix_frame (s : State) :
    (evalMatrix s).OnlyJig s := by
  unfold evalMatrix; simp only [State.OnlyJig, ↓(ite_fields ..), ite_self, implies_true, and_self]

theorem followPins_frame (f : State → State) (s : State) (hf : ∀ (s : State), (f s).OnlyDio s) :
    (followPins f s).OnlyDio s := by
  unfold followPins; simp only [State.OnlyDio, hf, ↓(ite_fields ..), ite_self, implies_true, and_self]

@[simp] theorem closeCooled_frame (s : State) :
    (closeCooled s).OnlyDio s := by
  unfold closeCooled; simp only [State.OnlyDio, ↓(ite_fields ..), ite_self, implies_true, and_self]

@[simp] theorem takeMerge_frame (s : State) :
    (takeMerge s).OnlyDio s := by
  unfold takeMerge; simp only [State.OnlyDio, (closeCooled_frame ..), ↓(ite_fields ..), ite_self, implies_true, and_self]

@[simp] theorem driveOutputs_frame (s : State) :
    (driveOutputs s).OnlyDio s := by
  unfold driveOutputs; simp only [State.OnlyDio, (followPins_frame ..), (takeMerge_frame ..), ↓(ite_fields ..), ite_self, implies_true, and_self]

@[simp] theorem settleOutputs_frame (s : State) :
    (settleOutputs s).OnlyJigDio s := by
  unfold settleOutputs; simp only [State.OnlyJigDio, (evalMatrix_frame ..), (driveOutputs_frame ..), ↓(ite_fields ..), ite_self, implies_true, and_self]

@[simp] theorem setCause_frame (i : Nat) (s : State) :
    (setCause i s).OnlyFreshSysEvrHie s := by
  unfold setCause; simp only [State.OnlyFreshSysEvrHie, (raise_frame ..), (notice_frame ..), ↓(ite_fields ..), ite_self, implies_true, and_self]

@[simp] theorem clearCause_frame (i : Nat) (s : State) :
    (clearCause i s).OnlySys s := by
  unfold clearCause; simp only [State.OnlySys, ↓(ite_fields ..), ite_self, implies_true, and_self]

@[simp] theorem reportScrub_frame (detail : Nat) (s : State) :
    (reportScrub detail s).OnlyFreshSysEvrHie s := by
  unfold reportScrub; simp only [State.OnlyFreshSysEvrHie, (raise_frame ..), (setCause_frame ..), ↓(ite_fields ..), ite_self, implies_true, and_self]

@[simp] theorem scrubMismatch_frame (whr off : Nat) (s : State) :
    (scrubMismatch whr off s).OnlyFreshSysJigDioEvrHie s := by
  unfold scrubMismatch; simp only [State.OnlyFreshSysJigDioEvrHie, (settleOutputs_frame ..), (reportScrub_frame ..), ↓(ite_fields ..), ite_self, implies_true, and_self]

@[simp] theorem reportRead_frame (s : State) :
    (reportRead s).OnlyFreshSysJigEvrHie s := by
  unfold reportRead; simp only [State.OnlyFreshSysJigEvrHie, (reportScrub_frame ..), ↓(ite_fields ..), ite_self, implies_true, and_self]

@[simp] theorem noteAdopted_frame (s : State) :
    (noteAdopted s).OnlyFreshEvrHie s := by
  unfold noteAdopted; simp only [State.OnlyFreshEvrHie, (raise_frame ..), ↓(ite_fields ..), ite_self, implies_true, and_self]

@[simp] theorem clearLatches_frame (all : Bool) (rule : Nat) (s : State) :
    (clearLatches all rule s).OnlyJigDio s := by
  unfold clearLatches; simp only [State.OnlyJigDio, (settleOutputs_frame ..), ↓(ite_fields ..), ite_self, implies_true, and_self]

@[simp] theorem latchClr_frame (v : Nat) (s : State) :
    (latchClr v s).OnlyFreshJigDioEvrHie s := by
  unfold latchClr; simp only [State.OnlyFreshJigDioEvrHie, (raise_frame ..), (raiseIgnored_frame ..), (clearLatches_frame ..), ↓(ite_fields ..), ite_self, implies_true, and_self]

@[simp] theorem jigSample_frame (s : State) :
    (jigSample s).OnlyFreshJigEvrHie s := by
  unfold jigSample; simp only [State.OnlyFreshJigEvrHie, (raise_frame ..), ↓(ite_fields ..), ite_self, (foldl_OnlyFreshJigEvrHie ..), implies_true, and_self]

/-! ### Dio -/

@[simp] theorem modDi_frame (n : Nat) (f : DiCh → DiCh) (s : State) :
    (modDi n f s).OnlyDio s := by
  unfold modDi; simp only [State.OnlyDio, ↓(ite_fields ..), ite_self, implies_true, and_self]

@[simp] theorem modDo_frame (n : Nat) (f : DoCh → DoCh) (s : State) :
    (modDo n f s).OnlyDio s := by
  unfold modDo; simp only [State.OnlyDio, ↓(ite_fields ..), ite_self, implies_true, and_self]

@[simp] theorem modGrp_frame (g : Nat) (f : Group → Group) (s : State) :
    (modGrp g f s).OnlyDio s := by
  unfold modGrp; simp only [State.OnlyDio, ↓(ite_fields ..), ite_self, implies_true, and_self]

@[simp] theorem dioEvent_frame (code kind chan detail : Nat) (s : State) :
    (dioEvent code kind chan detail s).OnlyFreshEvrHie s := by
  unfold dioEvent; simp only [State.OnlyFreshEvrHie, (raise_frame ..), ↓(ite_fields ..), ite_self, implies_true, and_self]

@[simp] theorem grpEvent_frame (code g detail : Nat) (s : State) :
    (grpEvent code g detail s).OnlyFreshEvrHie s := by
  unfold grpEvent; simp only [State.OnlyFreshEvrHie, (raise_frame ..), ↓(ite_fields ..), ite_self, implies_true, and_self]

@[simp] theorem diLatch_frame (s : State) :
    (diLatch s).OnlyDio s := by
  unfold diLatch; simp only [State.OnlyDio, ↓(ite_fields ..), ite_self, implies_true, and_self]

@[simp] theorem setPin_frame (n : Nat) (on : Bool) (s : State) :
    (setPin n on s).OnlyDio s := by
  unfold setPin; simp only [State.OnlyDio, ↓(ite_fields ..), ite_self, implies_true, and_self]

@[simp] theorem blankGroup_frame (g : Nat) (s : State) :
    (blankGroup g s).OnlyDio s := by
  unfold blankGroup; simp only [State.OnlyDio, ↓(ite_fields ..), ite_self, implies_true, and_self]

@[simp] theorem clearChannel_frame (n : Nat) (cooled : Bool) (s : State) :
    (clearChannel n cooled s).OnlyFreshDioEvrHie s := by
  unfold clearChannel followPins; simp only [State.OnlyFreshDioEvrHie, (followPins_frame ..), (modDo_frame ..), (dioEvent_frame ..), ↓(ite_fields ..), ite_self, implies_true, and_self]

@[simp] theorem channelClr_frame (n v : Nat) (cooled : Bool) (s : State) :
    (channelClr n v cooled s).OnlyFreshDioEvrHie s := by
  unfold channelClr; simp only [State.OnlyFreshDioEvrHie, (raiseIgnored_frame ..), (clearChannel_frame ..), ↓(ite_fields ..), ite_self, implies_true, and_self]

@[simp] theorem groupClr_frame (v : Nat) (s : State) :
    (groupClr v s).OnlyFreshDioEvrHie s := by
  unfold groupClr followPins; repeat' (first | (simp only [State.OnlyFreshDioEvrHie, (raise_frame ..), (raiseIgnored_frame ..), (followPins_frame ..), (closeCooled_frame ..), ↓(ite_fields ..), ite_self, implies_true, and_self]; done) | split)

@[simp] theorem applyDioCfg_frame (n v addr : Nat) (s : State) :
    (applyDioCfg n v addr s).OnlyFreshDioEvrHie s := by
  unfold applyDioCfg; simp only [State.OnlyFreshDioEvrHie, (raiseIgnored_frame ..), (modDi_frame ..), (modDo_frame ..), (dioEvent_frame ..), ↓(ite_fields ..), ite_self, implies_true, and_self]

/-! ### Aio -/

@[simp] theorem modAio_frame (n : Nat) (f : AioCh → AioCh) (s : State) :
    (modAio n f s).OnlyAio s := by
  unfold modAio; simp only [State.OnlyAio, ↓(ite_fields ..), ite_self, implies_true, and_self]

@[simp] theorem aioEvent_frame (code n detail : Nat) (s : State) :
    (aioEvent code n detail s).OnlyFreshEvrHie s := by
  unfold aioEvent; simp only [State.OnlyFreshEvrHie, (raise_frame ..), ↓(ite_fields ..), ite_self, implies_true, and_self]

@[simp] theorem aioStore_frame (n : Nat) (v : Int) (q : Byte) (tick : Nat) (s : State) :
    (aioStore n v q tick s).OnlyFreshAioEvrHie s := by
  unfold aioStore; simp only [State.OnlyFreshAioEvrHie, (modAio_frame ..), (aioEvent_frame ..), ↓(ite_fields ..), ite_self, implies_true, and_self]

@[simp] theorem aioConvert_frame (n tn : Nat) (result : Option Int) (s : State) :
    (aioConvert n tn result s).OnlyFreshAioEvrHie s := by
  unfold aioConvert; simp only [State.OnlyFreshAioEvrHie, (modAio_frame ..), (aioEvent_frame ..), (aioStore_frame ..), ↓(ite_fields ..), ite_self, implies_true, and_self]; repeat' (first | (simp only [State.OnlyFreshAioEvrHie, (modAio_frame ..), (aioEvent_frame ..), (aioStore_frame ..), ↓(ite_fields ..), ite_self, implies_true, and_self]; done) | split)

@[simp] theorem aioSettleRate_frame (e : Nat) (s : State) :
    (aioSettleRate e s).OnlyAio s := by
  unfold aioSettleRate; simp only [State.OnlyAio, ↓(ite_fields ..), ite_self, implies_true, and_self]

@[simp] theorem aioRebase_frame (e : Nat) (s : State) :
    (aioRebase e s).OnlyAio s := by
  unfold aioRebase; simp only [State.OnlyAio, ↓(ite_fields ..), ite_self, implies_true, and_self]

@[simp] theorem aioLatch_frame (tn e : Nat) (conv : List (Nat × Int)) (s : State) :
    (aioLatch tn e conv s).OnlyFreshAioEvrHie s := by
  unfold aioLatch; simp only [State.OnlyFreshAioEvrHie, (aioConvert_frame ..), (aioSettleRate_frame ..), ↓(ite_fields ..), ite_self, (foldl_OnlyFreshAioEvrHie ..), implies_true, and_self]

@[simp] theorem aioApply_frame (n : Nat) (v : Int) (s : State) :
    (aioApply n v s).OnlyAio s := by
  unfold aioApply; simp only [State.OnlyAio, (modAio_frame ..), ↓(ite_fields ..), ite_self, implies_true, and_self]

@[simp] theorem applyAioCfg_frame (n v : Nat) (s : State) :
    (applyAioCfg n v s).OnlyAio s := by
  unfold applyAioCfg; simp only [State.OnlyAio, (modAio_frame ..), ↓(ite_fields ..), ite_self, implies_true, and_self]

/-! ### Lpe -/

@[simp] theorem modLoop_frame (n : Nat) (f : LoopSlot → LoopSlot) (s : State) :
    (modLoop n f s).OnlyLpe s := by
  unfold modLoop; (repeat' split) <;> simp only [State.OnlyLpe, ↓(ite_fields ..), ite_self, implies_true, and_self]

@[simp] theorem loopEvent_frame (code : Nat) (r : Rec) (detail : Nat) (s : State) :
    (loopEvent code r detail s).OnlyFreshEvrHie s := by
  unfold loopEvent; simp only [State.OnlyFreshEvrHie, (raise_frame ..), ↓(ite_fields ..), ite_self, implies_true, and_self]

@[simp] theorem evalSlot_frame (im : Image) (tn e : Nat) (r : Rec) (s : State) :
    (evalSlot im tn e r s).OnlyFreshLpeEvrHie s := by
  unfold evalSlot; (repeat' split) <;> simp only [State.OnlyFreshLpeEvrHie, (modLoop_frame ..), (loopEvent_frame ..), ↓(ite_fields ..), ite_self, implies_true, and_self]

@[simp] theorem evalLoops_frame (im : Image) (tn e : Nat) (s : State) :
    (evalLoops im tn e s).OnlyFreshLpeEvrHie s := by
  unfold evalLoops; simp only [State.OnlyFreshLpeEvrHie, (evalSlot_frame ..), ↓(ite_fields ..), ite_self, (foldl_OnlyFreshLpeEvrHie ..), implies_true, and_self]

@[simp] theorem holdLoops_frame (s : State) :
    (holdLoops s).OnlyLpe s := by
  unfold holdLoops; simp only [State.OnlyLpe, ↓(ite_fields ..), ite_self, implies_true, and_self]

@[simp] theorem debugLoops_frame (s : State) :
    (debugLoops s).OnlyLpe s := by
  unfold debugLoops; simp only [State.OnlyLpe, ↓(ite_fields ..), ite_self, implies_true, and_self]

@[simp] theorem idleLoops_frame (s : State) :
    (idleLoops s).OnlyLpe s := by
  unfold idleLoops; simp only [State.OnlyLpe, ↓(ite_fields ..), ite_self, implies_true, and_self]

@[simp] theorem restartLoops_frame (e : Nat) (s : State) :
    (restartLoops e s).OnlyLpe s := by
  unfold restartLoops; simp only [State.OnlyLpe, ↓(ite_fields ..), ite_self, implies_true, and_self]

@[simp] theorem applyLpe_frame (n off v addr : Nat) (s : State) :
    (applyLpe n off v addr s).OnlyFreshLpeEvrHie s := by
  unfold applyLpe; (repeat' split) <;> simp only [State.OnlyFreshLpeEvrHie, (raiseIgnored_frame ..), (modLoop_frame ..), (loopEvent_frame ..), ↓(ite_fields ..), ite_self, implies_true, and_self]

/-! ### Tasks -/

@[simp] theorem modTask_frame (n : Nat) (f : Task → Task) (s : State) :
    (modTask n f s).OnlyStk s := by
  unfold modTask; simp only [State.OnlyStk, ↓(ite_fields ..), ite_self, implies_true, and_self]

@[simp] theorem modCore_frame (c : Nat) (f : Core → Core) (s : State) :
    (modCore c f s).OnlyCores s := by
  unfold modCore; simp only [State.OnlyCores, ↓(ite_fields ..), ite_self, implies_true, and_self]

@[simp] theorem modCopy_frame (n c : Nat) (f : Copy → Copy) (s : State) :
    (modCopy n c f s).OnlyStk s := by
  unfold modCopy; simp only [State.OnlyStk, (modTask_frame ..), ↓(ite_fields ..), ite_self, implies_true, and_self]

@[simp] theorem modWs_frame (n c : Nat) (f : WriteSet → WriteSet) (s : State) :
    (modWs n c f s).OnlyStk s := by
  unfold modWs; simp only [State.OnlyStk, (modCopy_frame ..), ↓(ite_fields ..), ite_self, implies_true, and_self]

@[simp] theorem putState_frame (n : Nat) (l : List (Nat × Byte)) (s : State) :
    (putState n l s).OnlyMem s := by
  unfold putState; simp only [State.OnlyMem, ↓(ite_fields ..), ite_self, implies_true, and_self]

@[simp] theorem restoreCopy_frame (n : Nat) (c : Memory) (s : State) :
    (restoreCopy n c s).OnlyMem s := by
  unfold restoreCopy; simp only [State.OnlyMem, (putState_frame ..), ↓(ite_fields ..), ite_self, implies_true, and_self]

@[simp] theorem commitState_frame (n : Nat) (work : List (Nat × Byte)) (s : State) :
    (commitState n work s).OnlyStkMem s := by
  unfold commitState; simp only [State.OnlyStkMem, (modTask_frame ..), (putState_frame ..), ↓(ite_fields ..), ite_self, implies_true, and_self]

@[simp] theorem gateIdle_frame (c : Nat) (s : State) :
    (gateIdle c s).OnlyCores s := by
  unfold gateIdle; simp only [State.OnlyCores, (modCore_frame ..), ↓(ite_fields ..), ite_self, implies_true, and_self]

@[simp] theorem noteVstore_frame (s : State) :
    (noteVstore s).OnlyDvt s := by
  unfold noteVstore; simp only [State.OnlyDvt, ↓(ite_fields ..), ite_self, implies_true, and_self]

/-! ### UpdCore -/

@[simp] theorem modUpd_frame (f : Upd → Upd) (s : State) :
    (modUpd f s).OnlyUpd s := by
  unfold modUpd; simp only [State.OnlyUpd, ↓(ite_fields ..), ite_self, implies_true, and_self]

@[simp] theorem updEvent_frame (code detail : Nat) (s : State) :
    (updEvent code detail s).OnlyFreshEvrHie s := by
  unfold updEvent; simp only [State.OnlyFreshEvrHie, (raise_frame ..), ↓(ite_fields ..), ite_self, implies_true, and_self]

@[simp] theorem endShadow_frame (s : State) :
    (endShadow s).OnlyStkDvtWkeUpdCores s := by
  unfold endShadow
  dsimp only
  simp only [State.OnlyStkDvtWkeUpdCores, (noteVstore_frame ..), foldl_OnlyCores _ (fun (s : State) c => gateIdle_frame c s), and_self]

@[simp] theorem abandonUpdate_frame (reason : Nat) (s : State) :
    (abandonUpdate reason s).OnlyFreshStkDvtWkeEvrUpdHieCores s := by
  unfold abandonUpdate; simp only [State.OnlyFreshStkDvtWkeEvrUpdHieCores, (modUpd_frame ..), (updEvent_frame ..), (endShadow_frame ..), ↓(ite_fields ..), ite_self, implies_true, and_self]

@[simp] theorem failShadow_frame (reason slot : Nat) (s : State) :
    (failShadow reason slot s).OnlyFreshStkDvtWkeEvrUpdHieCores s := by
  unfold failShadow; simp only [State.OnlyFreshStkDvtWkeEvrUpdHieCores, (updEvent_frame ..), (abandonUpdate_frame ..), ↓(ite_fields ..), ite_self, implies_true, and_self]

@[simp] theorem trigger_frame (t slot : Nat) (s : State) :
    (trigger t slot s).OnlyUpd s := by
  unfold trigger; simp only [State.OnlyUpd, (modUpd_frame ..), ↓(ite_fields ..), ite_self, implies_true, and_self]

@[simp] theorem strokeTrouble_frame (t n c : Nat) (s : State) :
    (strokeTrouble t n c s).OnlyFreshStkDvtWkeEvrUpdHieCores s := by
  unfold strokeTrouble; simp only [State.OnlyFreshStkDvtWkeEvrUpdHieCores, (failShadow_frame ..), (trigger_frame ..), ↓(ite_fields ..), ite_self, implies_true, and_self]

@[simp] theorem mapState_frame (n : Nat) (s : State) :
    (mapState n s).OnlyFreshEvrUpdHie s := by
  unfold mapState; (repeat' split) <;> simp only [State.OnlyFreshEvrUpdHie, (modUpd_frame ..), (updEvent_frame ..), ↓(ite_fields ..), ite_self, (foldl_OnlyFreshEvrUpdHie ..), implies_true, and_self]

/-! ### Strokes -/

@[simp] theorem startDrive_frame (n c : Nat) (s : State) :
    (startDrive n c s).OnlyFreshStkEvrUpdHieCores s := by
  unfold startDrive; simp only [State.OnlyFreshStkEvrUpdHieCores, (modCore_frame ..), (modCopy_frame ..), (mapState_frame ..), ↓(ite_fields ..), ite_self, implies_true, and_self]

@[simp] theorem dispatchCore_frame (s : State) (c : Nat) :
    (dispatchCore s c).OnlyFreshStkEvrUpdHieCores s := by
  unfold dispatchCore; (repeat' split) <;> simp only [State.OnlyFreshStkEvrUpdHieCores, (modCopy_frame ..), (startDrive_frame ..), ↓(ite_fields ..), ite_self, implies_true, and_self]

@[simp] theorem dispatchAll_frame (s : State) :
    (dispatchAll s).OnlyFreshStkEvrUpdHieCores s := by
  unfold dispatchAll; simp only [State.OnlyFreshStkEvrUpdHieCores, (dispatchCore_frame ..), ↓(ite_fields ..), ite_self, (foldl_OnlyFreshStkEvrUpdHieCores ..), implies_true, and_self]

@[simp] theorem wakeCore_frame (c : Nat) (s : State) :
    (wakeCore c s).OnlyCores s := by
  unfold wakeCore; simp only [State.OnlyCores, (modCore_frame ..), ↓(ite_fields ..), ite_self, implies_true, and_self]

@[simp] theorem endDrive_frame (c : Nat) (s : State) :
    (endDrive c s).OnlyFreshStkDvtEvrUpdHieCores s := by
  unfold endDrive; simp only [State.OnlyFreshStkDvtEvrUpdHieCores, (modCore_frame ..), (gateIdle_frame ..), (noteVstore_frame ..), (dispatchCore_frame ..), ↓(ite_fields ..), ite_self, implies_true, and_self]

@[simp] theorem withdrawKeys_frame (n : Nat) (core : Option Nat) (s : State) :
    (withdrawKeys n core s).OnlyKey s := by
  unfold withdrawKeys; simp only [State.OnlyKey, ↓(ite_fields ..), ite_self, implies_true, and_self]

@[simp] theorem releaseLocks_frame (n : Nat) (core : Option Nat) (s : State) :
    (releaseLocks n core s).OnlyCanKey s := by
  unfold releaseLocks; simp only [State.OnlyCanKey, (withdrawKeys_frame ..), ↓(ite_fields ..), ite_self, implies_true, and_self]

@[simp] theorem dvtFault_frame (k slot detail addr : Nat) (s : State) :
    (dvtFault k slot detail addr s).OnlyFreshDvtEvrHie s := by
  unfold dvtFault; simp only [State.OnlyFreshDvtEvrHie, (raise_frame ..), ↓(ite_fields ..), ite_self, implies_true, and_self]

@[simp] theorem strokeFault_frame (k n c detail addr : Nat) (s : State) :
    (strokeFault k n c detail addr s).OnlyFreshStkDvtWkeEvrUpdHieCores s := by
  unfold strokeFault; simp only [State.OnlyFreshStkDvtWkeEvrUpdHieCores, (strokeTrouble_frame ..), (dvtFault_frame ..), ↓(ite_fields ..), ite_self, implies_true, and_self]

@[simp] theorem stopDrive_frame (n c : Nat) (k : SkipKind) (s : State) :
    (stopDrive n c k s).pending = s.pending ∧ (stopDrive n c k s).answer = s.answer ∧ (stopDrive n c k s).sys = s.sys ∧ (stopDrive n c k s).drw = s.drw ∧ (stopDrive n c k s).jig = s.jig ∧ (stopDrive n c k s).dio = s.dio ∧ (stopDrive n c k s).aio = s.aio ∧ (stopDrive n c k s).lpe = s.lpe ∧ (stopDrive n c k s).rio = s.rio ∧ (stopDrive n c k s).mac = s.mac ∧ (stopDrive n c k s).ptp = s.ptp ∧ (stopDrive n c k s).rtc = s.rtc ∧ (stopDrive n c k s).cvu = s.cvu ∧ (stopDrive n c k s).dbg = s.dbg ∧ (stopDrive n c k s).enabled = s.enabled ∧ (stopDrive n c k s).declared = s.declared ∧ (stopDrive n c k s).mem = s.mem := by
  unfold stopDrive; simp only [(modCopy_frame ..), (failShadow_frame ..), (endDrive_frame ..), (releaseLocks_frame ..), ↓(ite_fields ..), ite_self, implies_true, and_self]

@[simp] theorem noteRefused_frame (kind tag target addr drawer : Nat) (s : State) :
    (noteRefused kind tag target addr drawer s).OnlyFreshDrwEvrHie s := by
  unfold noteRefused; simp only [State.OnlyFreshDrwEvrHie, (raise_frame ..), ↓(ite_fields ..), ite_self, implies_true, and_self]

@[simp] theorem accessFault_frame (c : Nat) (s : State) :
    (accessFault c s).pending = s.pending ∧ (accessFault c s).answer = s.answer ∧ (accessFault c s).sys = s.sys ∧ (accessFault c s).drw = s.drw ∧ (accessFault c s).jig = s.jig ∧ (accessFault c s).dio = s.dio ∧ (accessFault c s).aio = s.aio ∧ (accessFault c s).lpe = s.lpe ∧ (accessFault c s).rio = s.rio ∧ (accessFault c s).mac = s.mac ∧ (accessFault c s).ptp = s.ptp ∧ (accessFault c s).rtc = s.rtc ∧ (accessFault c s).cvu = s.cvu ∧ (accessFault c s).dbg = s.dbg ∧ (accessFault c s).enabled = s.enabled ∧ (accessFault c s).declared = s.declared ∧ (accessFault c s).mem = s.mem := by
  unfold accessFault; (repeat' split) <;> simp only [(trigger_frame ..), (stopDrive_frame ..), ↓(ite_fields ..), ite_self, implies_true, and_self]

@[simp] theorem coreRefused_frame (c kind target addr : Nat) (s : State) :
    (coreRefused c kind target addr s).pending = s.pending ∧ (coreRefused c kind target addr s).answer = s.answer ∧ (coreRefused c kind target addr s).sys = s.sys ∧ (coreRefused c kind target addr s).jig = s.jig ∧ (coreRefused c kind target addr s).dio = s.dio ∧ (coreRefused c kind target addr s).aio = s.aio ∧ (coreRefused c kind target addr s).lpe = s.lpe ∧ (coreRefused c kind target addr s).rio = s.rio ∧ (coreRefused c kind target addr s).mac = s.mac ∧ (coreRefused c kind target addr s).ptp = s.ptp ∧ (coreRefused c kind target addr s).rtc = s.rtc ∧ (coreRefused c kind target addr s).cvu = s.cvu ∧ (coreRefused c kind target addr s).dbg = s.dbg ∧ (coreRefused c kind target addr s).enabled = s.enabled ∧ (coreRefused c kind target addr s).declared = s.declared ∧ (coreRefused c kind target addr s).mem = s.mem := by
  unfold coreRefused; simp only [(noteRefused_frame ..), (accessFault_frame ..), ↓(ite_fields ..), ite_self, implies_true, and_self]

@[simp] theorem noteOutOfRange_frame (drawer addr : Nat) (s : State) :
    (noteOutOfRange drawer addr s).OnlyFreshEvrHie s := by
  unfold noteOutOfRange; simp only [State.OnlyFreshEvrHie, (raise_frame ..), ↓(ite_fields ..), ite_self, implies_true, and_self]

theorem grpAccess_frame (c off : Nat) (f : Nat → Copy → Nat → State → State) (s : State) (hf : ∀ a0 a1 a2 (s : State), (f a0 a1 a2 s).pending = s.pending ∧ (f a0 a1 a2 s).answer = s.answer ∧ (f a0 a1 a2 s).sys = s.sys ∧ (f a0 a1 a2 s).jig = s.jig ∧ (f a0 a1 a2 s).dio = s.dio ∧ (f a0 a1 a2 s).aio = s.aio ∧ (f a0 a1 a2 s).lpe = s.lpe ∧ (f a0 a1 a2 s).rio = s.rio ∧ (f a0 a1 a2 s).mac = s.mac ∧ (f a0 a1 a2 s).ptp = s.ptp ∧ (f a0 a1 a2 s).rtc = s.rtc ∧ (f a0 a1 a2 s).cvu = s.cvu ∧ (f a0 a1 a2 s).dbg = s.dbg ∧ (f a0 a1 a2 s).enabled = s.enabled ∧ (f a0 a1 a2 s).declared = s.declared ∧ (f a0 a1 a2 s).mem = s.mem) :
    (grpAccess c off f s).pending = s.pending ∧ (grpAccess c off f s).answer = s.answer ∧ (grpAccess c off f s).sys = s.sys ∧ (grpAccess c off f s).jig = s.jig ∧ (grpAccess c off f s).dio = s.dio ∧ (grpAccess c off f s).aio = s.aio ∧ (grpAccess c off f s).lpe = s.lpe ∧ (grpAccess c off f s).rio = s.rio ∧ (grpAccess c off f s).mac = s.mac ∧ (grpAccess c off f s).ptp = s.ptp ∧ (grpAccess c off f s).rtc = s.rtc ∧ (grpAccess c off f s).cvu = s.cvu ∧ (grpAccess c off f s).dbg = s.dbg ∧ (grpAccess c off f s).enabled = s.enabled ∧ (grpAccess c off f s).declared = s.declared ∧ (grpAccess c off f s).mem = s.mem := by
  unfold grpAccess; (repeat' split) <;> simp only [(coreRefused_frame ..), hf, ↓(ite_fields ..), ite_self, implies_true, and_self]

@[simp] theorem grpOpen_frame (c v : Nat) (s : State) :
    (grpOpen c v s).pending = s.pending ∧ (grpOpen c v s).answer = s.answer ∧ (grpOpen c v s).sys = s.sys ∧ (grpOpen c v s).jig = s.jig ∧ (grpOpen c v s).dio = s.dio ∧ (grpOpen c v s).aio = s.aio ∧ (grpOpen c v s).lpe = s.lpe ∧ (grpOpen c v s).rio = s.rio ∧ (grpOpen c v s).mac = s.mac ∧ (grpOpen c v s).ptp = s.ptp ∧ (grpOpen c v s).rtc = s.rtc ∧ (grpOpen c v s).cvu = s.cvu ∧ (grpOpen c v s).dbg = s.dbg ∧ (grpOpen c v s).enabled = s.enabled ∧ (grpOpen c v s).declared = s.declared ∧ (grpOpen c v s).mem = s.mem := by
  unfold grpOpen; simp only [(modWs_frame ..), (strokeFault_frame ..), grpAccess, (coreRefused_frame ..), ↓(ite_fields ..), ite_self, implies_true, and_self]; repeat' (first | (simp only [(modWs_frame ..), (strokeFault_frame ..), grpAccess, (coreRefused_frame ..), ↓(ite_fields ..), ite_self, implies_true, and_self]; done) | split)

@[simp] theorem grpCommit_frame (c v : Nat) (s : State) :
    (grpCommit c v s).pending = s.pending ∧ (grpCommit c v s).answer = s.answer ∧ (grpCommit c v s).sys = s.sys ∧ (grpCommit c v s).jig = s.jig ∧ (grpCommit c v s).dio = s.dio ∧ (grpCommit c v s).aio = s.aio ∧ (grpCommit c v s).lpe = s.lpe ∧ (grpCommit c v s).rio = s.rio ∧ (grpCommit c v s).mac = s.mac ∧ (grpCommit c v s).ptp = s.ptp ∧ (grpCommit c v s).rtc = s.rtc ∧ (grpCommit c v s).cvu = s.cvu ∧ (grpCommit c v s).dbg = s.dbg ∧ (grpCommit c v s).enabled = s.enabled ∧ (grpCommit c v s).declared = s.declared ∧ (grpCommit c v s).mem = s.mem := by
  unfold grpCommit; simp only [(modWs_frame ..), (strokeFault_frame ..), grpAccess, (coreRefused_frame ..), ↓(ite_fields ..), ite_self, implies_true, and_self]; repeat' (first | (simp only [(modWs_frame ..), (strokeFault_frame ..), grpAccess, (coreRefused_frame ..), ↓(ite_fields ..), ite_self, implies_true, and_self]; done) | split)

@[simp] theorem grpAbort_frame (c v : Nat) (s : State) :
    (grpAbort c v s).pending = s.pending ∧ (grpAbort c v s).answer = s.answer ∧ (grpAbort c v s).sys = s.sys ∧ (grpAbort c v s).jig = s.jig ∧ (grpAbort c v s).dio = s.dio ∧ (grpAbort c v s).aio = s.aio ∧ (grpAbort c v s).lpe = s.lpe ∧ (grpAbort c v s).rio = s.rio ∧ (grpAbort c v s).mac = s.mac ∧ (grpAbort c v s).ptp = s.ptp ∧ (grpAbort c v s).rtc = s.rtc ∧ (grpAbort c v s).cvu = s.cvu ∧ (grpAbort c v s).dbg = s.dbg ∧ (grpAbort c v s).enabled = s.enabled ∧ (grpAbort c v s).declared = s.declared ∧ (grpAbort c v s).mem = s.mem := by
  unfold grpAbort; simp only [(modTask_frame ..), (modWs_frame ..), (strokeFault_frame ..), grpAccess, (coreRefused_frame ..), ↓(ite_fields ..), ite_self, implies_true, and_self]; repeat' (first | (simp only [(modTask_frame ..), (modWs_frame ..), (strokeFault_frame ..), grpAccess, (coreRefused_frame ..), ↓(ite_fields ..), ite_self, implies_true, and_self]; done) | split)

@[simp] theorem stageWrite_frame (c addr v : Nat) (s : State) :
    (stageWrite c addr v s).OnlyFreshStkDvtWkeEvrUpdHieCores s := by
  unfold stageWrite; (repeat' split) <;> simp only [State.OnlyFreshStkDvtWkeEvrUpdHieCores, (modWs_frame ..), (strokeFault_frame ..), ↓(ite_fields ..), ite_self, implies_true, and_self]

/-! ### Access -/

theorem service_frame (c item target addr : Nat) (f : State → State) (s : State) (hf : ∀ (s : State), (f s).pending = s.pending ∧ (f s).sys = s.sys ∧ (f s).jig = s.jig ∧ (f s).dio = s.dio ∧ (f s).aio = s.aio ∧ (f s).lpe = s.lpe ∧ (f s).rio = s.rio ∧ (f s).mac = s.mac ∧ (f s).ptp = s.ptp ∧ (f s).rtc = s.rtc ∧ (f s).cvu = s.cvu ∧ (f s).dbg = s.dbg ∧ (f s).enabled = s.enabled ∧ (f s).declared = s.declared ∧ (f s).mem = s.mem) :
    (service c item target addr f s).pending = s.pending ∧ (service c item target addr f s).sys = s.sys ∧ (service c item target addr f s).jig = s.jig ∧ (service c item target addr f s).dio = s.dio ∧ (service c item target addr f s).aio = s.aio ∧ (service c item target addr f s).lpe = s.lpe ∧ (service c item target addr f s).rio = s.rio ∧ (service c item target addr f s).mac = s.mac ∧ (service c item target addr f s).ptp = s.ptp ∧ (service c item target addr f s).rtc = s.rtc ∧ (service c item target addr f s).cvu = s.cvu ∧ (service c item target addr f s).dbg = s.dbg ∧ (service c item target addr f s).enabled = s.enabled ∧ (service c item target addr f s).declared = s.declared ∧ (service c item target addr f s).mem = s.mem := by
  unfold service; (repeat' split) <;> simp only [(coreRefused_frame ..), hf, ↓(ite_fields ..), ite_self, implies_true, and_self]

@[simp] theorem dmaAccess_frame (owner : Option Nat) (write : Bool) (a len : Nat) (s : State) :
    (dmaAccess owner write a len s).2.OnlyFreshDrwEvrHie s := by
  unfold dmaAccess; (repeat' split) <;> simp only [State.OnlyFreshDrwEvrHie, (noteRefused_frame ..), (noteOutOfRange_frame ..), ↓(ite_fields ..), ite_self, implies_true, and_self]

@[simp] theorem tornBank_frame (b : Bool) (s : State) :
    (tornBank b s).OnlyWkeMem s := by
  unfold tornBank; simp only [State.OnlyWkeMem, ↓(ite_fields ..), ite_self, implies_true, and_self]

@[simp] theorem overwriteByte_frame (a : Nat) (b : Byte) (s : State) :
    (overwriteByte a b s).OnlyWkeEvrMem s := by
  unfold overwriteByte; (repeat' split) <;> simp only [State.OnlyWkeEvrMem, (tornBank_frame ..), ↓(ite_fields ..), ite_self, implies_true, and_self]

@[simp] theorem overwrite_frame (a : Nat) (l : List Byte) (s : State) :
    (overwrite a l s).OnlyWkeEvrMem s := by
  unfold overwrite; simp only [State.OnlyWkeEvrMem, (overwriteByte_frame ..), ↓(ite_fields ..), ite_self, (foldl_OnlyWkeEvrMem ..), implies_true, and_self]

@[simp] theorem noteTagWrite_frame (s : State) :
    (noteTagWrite s).OnlyFreshEvrHie s := by
  unfold noteTagWrite; simp only [State.OnlyFreshEvrHie, (raise_frame ..), ↓(ite_fields ..), ite_self, implies_true, and_self]

@[simp] theorem putBytes_frame (a : Nat) (l : List Byte) (s : State) :
    (putBytes a l s).OnlyFreshWkeEvrHieMem s := by
  unfold putBytes; simp only [State.OnlyFreshWkeEvrHieMem, (overwrite_frame ..), (noteTagWrite_frame ..), ↓(ite_fields ..), ite_self, implies_true, and_self]

/-! ### WkeCore -/

@[simp] theorem jAdd_frame (l : List JEntry) (s : State) :
    (jAdd l s).OnlyWke s := by
  unfold jAdd; simp only [State.OnlyWke, ↓(ite_fields ..), ite_self, implies_true, and_self]

@[simp] theorem jMark_frame (kind arg : Nat) (s : State) :
    (jMark kind arg s).OnlyWke s := by
  unfold jMark; simp only [State.OnlyWke, ↓(ite_fields ..), ite_self, implies_true, and_self]

@[simp] theorem patchJournal_frame (edge slot flags tn : Nat) (s : State) :
    (patchJournal edge slot flags tn s).OnlyWke s := by
  unfold patchJournal; simp only [State.OnlyWke, ↓(ite_fields ..), ite_self, implies_true, and_self]

@[simp] theorem ringWrite_frame (s : State) :
    (ringWrite s).OnlyFreshWkeEvrHie s := by
  unfold ringWrite; (repeat' split) <;> simp only [State.OnlyFreshWkeEvrHie, (raise_frame ..), ↓(ite_fields ..), ite_self, implies_true, and_self]

@[simp] theorem ringFlush_frame (s : State) :
    (ringFlush s).OnlyFreshWkeEvrHie s := by
  unfold ringFlush; simp only [State.OnlyFreshWkeEvrHie, (ringWrite_frame ..), ↓(ite_fields ..), ite_self, (foldl_OnlyFreshWkeEvrHie ..), implies_true, and_self]

@[simp] theorem ckptStart_frame (s : State) :
    (ckptStart s).OnlyFreshWke s := by
  unfold ckptStart; simp only [State.OnlyFreshWke, ↓(ite_fields ..), ite_self, implies_true, and_self]

@[simp] theorem ckptDone_frame (duration : Nat) (s : State) :
    (ckptDone duration s).OnlyFreshStkWkeEvrHie s := by
  unfold ckptDone; (repeat' split) <;> simp only [State.OnlyFreshStkWkeEvrHie, (raise_frame ..), (jMark_frame ..), ↓(ite_fields ..), ite_self, implies_true, and_self]

@[simp] theorem ckptFailed_frame (passed : Nat) (s : State) :
    (ckptFailed passed s).OnlyFreshWkeEvrHie s := by
  unfold ckptFailed; (repeat' split) <;> simp only [State.OnlyFreshWkeEvrHie, (raise_frame ..), ↓(ite_fields ..), ite_self, implies_true, and_self]

@[simp] theorem takeSeat_frame (c : Nat) (u : SeatUse) (s : State) :
    (takeSeat c u s).OnlyFreshStkDvtWkeEvrUpdHieCores s := by
  unfold takeSeat; simp only [State.OnlyFreshStkDvtWkeEvrUpdHieCores, (abandonUpdate_frame ..), (wakeCore_frame ..), ↓(ite_fields ..), ite_self, implies_true, and_self]

@[simp] theorem freeSeat_frame (c : Nat) (s : State) :
    (freeSeat c s).OnlyWkeCores s := by
  unfold freeSeat; simp only [State.OnlyWkeCores, (gateIdle_frame ..), ↓(ite_fields ..), ite_self, implies_true, and_self]

@[simp] theorem sparesOut_frame (s : State) :
    (sparesOut s).OnlyFreshSysEvrHie s := by
  unfold sparesOut; simp only [State.OnlyFreshSysEvrHie, (setCause_frame ..), ↓(ite_fields ..), ite_self, implies_true, and_self]

@[simp] theorem dropShadow_frame (n : Nat) (s : State) :
    (dropShadow n s).OnlyUpdCores s := by
  unfold dropShadow; simp only [State.OnlyUpdCores, (modCore_frame ..), (gateIdle_frame ..), (modUpd_frame ..), ↓(ite_fields ..), ite_self, (foldl_OnlyUpdCores ..), implies_true, and_self]

@[simp] theorem enterReplay_frame (n : Nat) (s : State) :
    (enterReplay n s).OnlyStkCanKeyUpdCores s := by
  unfold enterReplay; simp only [State.OnlyStkCanKeyUpdCores, (modTask_frame ..), (releaseLocks_frame ..), (dropShadow_frame ..), ↓(ite_fields ..), ite_self, implies_true, and_self]

@[simp] theorem stopTask_frame (n : Nat) (s : State) :
    (stopTask n s).OnlyFreshStkCanEvrKeyUpdHieCores s := by
  unfold stopTask; simp only [State.OnlyFreshStkCanEvrKeyUpdHieCores, (raise_frame ..), (modTask_frame ..), (releaseLocks_frame ..), (dropShadow_frame ..), ↓(ite_fields ..), ite_self, implies_true, and_self]

@[simp] theorem startTakeover_frame (core seat : Nat) (slots : List Nat) (bankB rebuild : Bool) (s : State) :
    (startTakeover core seat slots bankB rebuild s).OnlyWkeCores s := by
  unfold startTakeover; simp only [State.OnlyWkeCores, (wakeCore_frame ..), ↓(ite_fields ..), ite_self, implies_true, and_self]

@[simp] theorem restoreBuilt_frame (t : Takeover) (s : State) :
    (restoreBuilt t s).OnlyMem s := by
  unfold restoreBuilt; simp only [State.OnlyMem, (restoreCopy_frame ..), ↓(ite_fields ..), ite_self, (foldl_OnlyMem ..), implies_true, and_self]

@[simp] theorem takeoverDone_frame (t : Takeover) (us : Nat) (s : State) :
    (takeoverDone t us s).OnlyFreshWkeEvrHieCoresMem s := by
  unfold takeoverDone; simp only [State.OnlyFreshWkeEvrHieCoresMem, (raise_frame ..), (gateIdle_frame ..), (jMark_frame ..), (restoreBuilt_frame ..), ↓(ite_fields ..), ite_self, implies_true, and_self]

@[simp] theorem rebind_frame (c seat : Nat) (s : State) :
    (rebind c seat s).OnlyStk s := by
  unfold rebind; simp only [State.OnlyStk, (modTask_frame ..), ↓(ite_fields ..), ite_self, (foldl_OnlyStk ..), implies_true, and_self]

@[simp] theorem unsettle_frame (reason slot relEdge : Nat) (s : State) :
    (unsettle reason slot relEdge s).OnlyFreshStkWkeEvrHie s := by
  unfold unsettle; simp only [State.OnlyFreshStkWkeEvrHie, (raise_frame ..), (modTask_frame ..), (patchJournal_frame ..), ↓(ite_fields ..), ite_self, implies_true, and_self]

@[simp] theorem failSeat_frame (c kind : Nat) (s : State) :
    (failSeat c kind s).OnlyFreshSysWkeEvrHie s := by
  unfold failSeat; simp only [State.OnlyFreshSysWkeEvrHie, (raise_frame ..), (sparesOut_frame ..), ↓(ite_fields ..), ite_self, implies_true, and_self]

@[simp] theorem moveTasks_frame (c kind seat : Nat) (mv : List Nat) (old : Option Takeover) (s : State) :
    (moveTasks c kind seat mv old s).pending = s.pending ∧ (moveTasks c kind seat mv old s).answer = s.answer ∧ (moveTasks c kind seat mv old s).sys = s.sys ∧ (moveTasks c kind seat mv old s).drw = s.drw ∧ (moveTasks c kind seat mv old s).jig = s.jig ∧ (moveTasks c kind seat mv old s).dio = s.dio ∧ (moveTasks c kind seat mv old s).aio = s.aio ∧ (moveTasks c kind seat mv old s).lpe = s.lpe ∧ (moveTasks c kind seat mv old s).rio = s.rio ∧ (moveTasks c kind seat mv old s).mac = s.mac ∧ (moveTasks c kind seat mv old s).ptp = s.ptp ∧ (moveTasks c kind seat mv old s).rtc = s.rtc ∧ (moveTasks c kind seat mv old s).cvu = s.cvu ∧ (moveTasks c kind seat mv old s).dbg = s.dbg ∧ (moveTasks c kind seat mv old s).enabled = s.enabled ∧ (moveTasks c kind seat mv old s).declared = s.declared ∧ (moveTasks c kind seat mv old s).mem = s.mem := by
  unfold moveTasks; simp only [(gateIdle_frame ..), (takeSeat_frame ..), (enterReplay_frame ..), (startTakeover_frame ..), (rebind_frame ..), ↓(ite_fields ..), ite_self, (foldl_Only_31 ..), implies_true, and_self]

@[simp] theorem strandTasks_frame (mv hv : List Nat) (s : State) :
    (strandTasks mv hv s).OnlyFreshStkWkeCanEvrKeyUpdHieCores s := by
  unfold strandTasks; simp only [State.OnlyFreshStkWkeCanEvrKeyUpdHieCores, (stopTask_frame ..), ↓(ite_fields ..), ite_self, (foldl_OnlyFreshStkWkeCanEvrKeyUpdHieCores ..), implies_true, and_self]

@[simp] theorem moveSettle_frame (c : Nat) (s : State) (x : Settle) :
    (moveSettle c s x).OnlyFreshStkDvtWkeEvrUpdHieCores s := by
  unfold moveSettle; (repeat' split) <;> simp only [State.OnlyFreshStkDvtWkeEvrUpdHieCores, (takeSeat_frame ..), (unsettle_frame ..), ↓(ite_fields ..), ite_self, implies_true, and_self]

@[simp] theorem passSeat_frame (x y : Nat) (s : State) :
    (passSeat x y s).OnlyFreshStkDvtWkeEvrUpdHieCores s := by
  unfold passSeat; simp only [State.OnlyFreshStkDvtWkeEvrUpdHieCores, (takeSeat_frame ..), (freeSeat_frame ..), (rebind_frame ..), ↓(ite_fields ..), ite_self, implies_true, and_self]

@[simp] theorem noteReseat_frame (c : Nat) (seat : Option Nat) (s : State) :
    (noteReseat c seat s).OnlyWke s := by
  unfold noteReseat; simp only [State.OnlyWke, ↓(ite_fields ..), ite_self, implies_true, and_self]

@[simp] theorem giveUpSeat_frame (c x : Nat) (s : State) :
    (giveUpSeat c x s).OnlyFreshStkWkeCanEvrKeyUpdHieCores s := by
  unfold giveUpSeat; simp only [State.OnlyFreshStkWkeCanEvrKeyUpdHieCores, (freeSeat_frame ..), (stopTask_frame ..), (rebind_frame ..), ↓(ite_fields ..), ite_self, (foldl_OnlyFreshStkWkeCanEvrKeyUpdHieCores ..), implies_true, and_self]

@[simp] theorem reseat_frame (c : Nat) (s : State) :
    (reseat c s).pending = s.pending ∧ (reseat c s).answer = s.answer ∧ (reseat c s).sys = s.sys ∧ (reseat c s).drw = s.drw ∧ (reseat c s).jig = s.jig ∧ (reseat c s).dio = s.dio ∧ (reseat c s).aio = s.aio ∧ (reseat c s).lpe = s.lpe ∧ (reseat c s).rio = s.rio ∧ (reseat c s).mac = s.mac ∧ (reseat c s).ptp = s.ptp ∧ (reseat c s).rtc = s.rtc ∧ (reseat c s).cvu = s.cvu ∧ (reseat c s).dbg = s.dbg ∧ (reseat c s).enabled = s.enabled ∧ (reseat c s).declared = s.declared ∧ (reseat c s).mem = s.mem := by
  unfold reseat
  dsimp only
  exact foldl_Only_31 _ (fun s p => by repeat' (first | (simp only [(passSeat_frame ..), (noteReseat_frame ..), (giveUpSeat_frame ..), ↓(ite_fields ..), ite_self, (foldl_Only_31 ..), implies_true, and_self]; done) | split)) _ _

@[simp] theorem failWorker_frame (c kind : Nat) (want : Option Nat) (old : Option Takeover) (s : State) :
    (failWorker c kind want old s).pending = s.pending ∧ (failWorker c kind want old s).answer = s.answer ∧ (failWorker c kind want old s).drw = s.drw ∧ (failWorker c kind want old s).jig = s.jig ∧ (failWorker c kind want old s).dio = s.dio ∧ (failWorker c kind want old s).aio = s.aio ∧ (failWorker c kind want old s).lpe = s.lpe ∧ (failWorker c kind want old s).rio = s.rio ∧ (failWorker c kind want old s).mac = s.mac ∧ (failWorker c kind want old s).ptp = s.ptp ∧ (failWorker c kind want old s).rtc = s.rtc ∧ (failWorker c kind want old s).cvu = s.cvu ∧ (failWorker c kind want old s).dbg = s.dbg ∧ (failWorker c kind want old s).enabled = s.enabled ∧ (failWorker c kind want old s).declared = s.declared ∧ (failWorker c kind want old s).mem = s.mem := by
  unfold failWorker; simp only [(raise_frame ..), (modCopy_frame ..), (dispatchAll_frame ..), (sparesOut_frame ..), (moveTasks_frame ..), (strandTasks_frame ..), (moveSettle_frame ..), (reseat_frame ..), ↓(ite_fields ..), ite_self, (foldl_Only_49 ..), implies_true, and_self]; repeat' (first | (simp only [(raise_frame ..), (modCopy_frame ..), (dispatchAll_frame ..), (sparesOut_frame ..), (moveTasks_frame ..), (strandTasks_frame ..), (moveSettle_frame ..), (reseat_frame ..), ↓(ite_fields ..), ite_self, (foldl_Only_49 ..), implies_true, and_self]; done) | split)

@[simp] theorem failNow_frame (want : Option Nat) (c kind : Nat) (s : State) :
    (failNow want c kind s).pending = s.pending ∧ (failNow want c kind s).answer = s.answer ∧ (failNow want c kind s).drw = s.drw ∧ (failNow want c kind s).jig = s.jig ∧ (failNow want c kind s).dio = s.dio ∧ (failNow want c kind s).aio = s.aio ∧ (failNow want c kind s).lpe = s.lpe ∧ (failNow want c kind s).rio = s.rio ∧ (failNow want c kind s).mac = s.mac ∧ (failNow want c kind s).ptp = s.ptp ∧ (failNow want c kind s).rtc = s.rtc ∧ (failNow want c kind s).cvu = s.cvu ∧ (failNow want c kind s).dbg = s.dbg ∧ (failNow want c kind s).enabled = s.enabled ∧ (failNow want c kind s).declared = s.declared ∧ (failNow want c kind s).mem = s.mem := by
  unfold failNow; simp only [(modCore_frame ..), (noteVstore_frame ..), (abandonUpdate_frame ..), (trigger_frame ..), (failSeat_frame ..), (failWorker_frame ..), ↓(ite_fields ..), ite_self, (foldl_Only_49 ..), implies_true, and_self]

@[simp] theorem failCoreTo_frame (want : Option Nat) (c kind : Nat) (s : State) :
    (failCoreTo want c kind s).pending = s.pending ∧ (failCoreTo want c kind s).answer = s.answer ∧ (failCoreTo want c kind s).drw = s.drw ∧ (failCoreTo want c kind s).jig = s.jig ∧ (failCoreTo want c kind s).dio = s.dio ∧ (failCoreTo want c kind s).aio = s.aio ∧ (failCoreTo want c kind s).lpe = s.lpe ∧ (failCoreTo want c kind s).rio = s.rio ∧ (failCoreTo want c kind s).mac = s.mac ∧ (failCoreTo want c kind s).ptp = s.ptp ∧ (failCoreTo want c kind s).rtc = s.rtc ∧ (failCoreTo want c kind s).cvu = s.cvu ∧ (failCoreTo want c kind s).dbg = s.dbg ∧ (failCoreTo want c kind s).enabled = s.enabled ∧ (failCoreTo want c kind s).declared = s.declared ∧ (failCoreTo want c kind s).mem = s.mem := by
  unfold failCoreTo; exact ⟨sameCycle_keep (fun s => s.pending) (fun _ _ => by simp only [(raise_frame ..)]) (fun _ _ => rfl) (fun _ => by simp only [(failNow_frame ..)]) _, sameCycle_keep (fun s => s.answer) (fun _ _ => by simp only [(raise_frame ..)]) (fun _ _ => rfl) (fun _ => by simp only [(failNow_frame ..)]) _, sameCycle_keep (fun s => s.drw) (fun _ _ => by simp only [(raise_frame ..)]) (fun _ _ => rfl) (fun _ => by simp only [(failNow_frame ..)]) _, sameCycle_keep (fun s => s.jig) (fun _ _ => by simp only [(raise_frame ..)]) (fun _ _ => rfl) (fun _ => by simp only [(failNow_frame ..)]) _, sameCycle_keep (fun s => s.dio) (fun _ _ => by simp only [(raise_frame ..)]) (fun _ _ => rfl) (fun _ => by simp only [(failNow_frame ..)]) _, sameCycle_keep (fun s => s.aio) (fun _ _ => by simp only [(raise_frame ..)]) (fun _ _ => rfl) (fun _ => by simp only [(failNow_frame ..)]) _, sameCycle_keep (fun s => s.lpe) (fun _ _ => by simp only [(raise_frame ..)]) (fun _ _ => rfl) (fun _ => by simp only [(failNow_frame ..)]) _, sameCycle_keep (fun s => s.rio) (fun _ _ => by simp only [(raise_frame ..)]) (fun _ _ => rfl) (fun _ => by simp only [(failNow_frame ..)]) _, sameCycle_keep (fun s => s.mac) (fun _ _ => by simp only [(raise_frame ..)]) (fun _ _ => rfl) (fun _ => by simp only [(failNow_frame ..)]) _, sameCycle_keep (fun s => s.ptp) (fun _ _ => by simp only [(raise_frame ..)]) (fun _ _ => rfl) (fun _ => by simp only [(failNow_frame ..)]) _, sameCycle_keep (fun s => s.rtc) (fun _ _ => by simp only [(raise_frame ..)]) (fun _ _ => rfl) (fun _ => by simp only [(failNow_frame ..)]) _, sameCycle_keep (fun s => s.cvu) (fun _ _ => by simp only [(raise_frame ..)]) (fun _ _ => rfl) (fun _ => by simp only [(failNow_frame ..)]) _, sameCycle_keep (fun s => s.dbg) (fun _ _ => by simp only [(raise_frame ..)]) (fun _ _ => rfl) (fun _ => by simp only [(failNow_frame ..)]) _, sameCycle_keep (fun s => s.enabled) (fun _ _ => by simp only [(raise_frame ..)]) (fun _ _ => rfl) (fun _ => by simp only [(failNow_frame ..)]) _, sameCycle_keep (fun s => s.declared) (fun _ _ => by simp only [(raise_frame ..)]) (fun _ _ => rfl) (fun _ => by simp only [(failNow_frame ..)]) _, sameCycle_keep (fun s => s.mem) (fun _ _ => by simp only [(raise_frame ..)]) (fun _ _ => rfl) (fun _ => by simp only [(failNow_frame ..)]) _⟩

@[simp] theorem failCore_frame (c kind : Nat) (s : State) :
    (failCore c kind s).pending = s.pending ∧ (failCore c kind s).answer = s.answer ∧ (failCore c kind s).drw = s.drw ∧ (failCore c kind s).jig = s.jig ∧ (failCore c kind s).dio = s.dio ∧ (failCore c kind s).aio = s.aio ∧ (failCore c kind s).lpe = s.lpe ∧ (failCore c kind s).rio = s.rio ∧ (failCore c kind s).mac = s.mac ∧ (failCore c kind s).ptp = s.ptp ∧ (failCore c kind s).rtc = s.rtc ∧ (failCore c kind s).cvu = s.cvu ∧ (failCore c kind s).dbg = s.dbg ∧ (failCore c kind s).enabled = s.enabled ∧ (failCore c kind s).declared = s.declared ∧ (failCore c kind s).mem = s.mem := by
  unfold failCore; simp only [(failCoreTo_frame ..), ↓(ite_fields ..), ite_self, implies_true, and_self]

end Sys2Proof.Machine
end

