-- ==== Sys2Proof/Laws/KeepsCommit.lean ====
section
/-! SUPPORT. What each operation keeps of the commands that wait, memory, the fuses and the least serial: the commit, remote I/O and CAN. -/
namespace Sys2Proof.Machine

/-! ### Commit -/

@[simp] theorem noteUnder_keeps (i : Nat) (v : BitVec 64) (q : Byte) (s : State) :
    (noteUnder i v q s).Keeps s := by
  unfold noteUnder; simp only [State.Keeps, and_self]

@[simp] theorem putEntry_keeps (i : Nat) (e : Entry) (s : State) :
    (putEntry i e s).Keeps s := by
  unfold putEntry; simp only [State.Keeps, and_self]

@[simp] theorem commitPoint_keeps (i : Nat) (v : BitVec 64) (q : Byte) (tick : Nat) (s : State) :
    (commitPoint i v q tick s).Keeps s := by
  unfold commitPoint; simp only [State.Keeps, (noteUnder_keeps ..), (putEntry_keeps ..), and_self]

@[simp] theorem writeInput_keeps (i : Nat) (v : BitVec 64) (q : Byte) (tick : Nat) (s : State) :
    (writeInput i v q tick s).Keeps s := by
  unfold writeInput; simp only [State.Keeps, (noteUnder_keeps ..), (putEntry_keeps ..), and_self]

@[simp] theorem showForce_keeps (s : State) (t : State) (i : Nat) :
    (showForce s t i).Keeps t := by
  unfold showForce; (repeat' split) <;> simp only [State.Keeps, (putEntry_keeps ..), and_self]

@[simp] theorem applyForces_keeps (s : State) :
    (applyForces s).Keeps s := by
  unfold applyForces; simp only [State.Keeps, (showForce_keeps ..), (foldl_keeps ..), implies_true, and_self]

@[simp] theorem openVersion_keeps (s : State) :
    (openVersion s).Keeps s := by
  unfold openVersion; simp only [State.Keeps, and_self]

@[simp] theorem setSkipped_keeps (n : Nat) (b : Bool) (s : State) :
    (setSkipped n b s).Keeps s := by
  unfold setSkipped; simp only [State.Keeps, and_self]

@[simp] theorem addStream_keeps (l : List Byte) (s : State) :
    (addStream l s).Keeps s := by
  unfold addStream; simp only [State.Keeps, and_self]

@[simp] theorem deliver_keeps (tn : Nat) (s : State) (m : Msg) :
    (deliver tn s m).Keeps s := by
  unfold deliver; simp only [State.Keeps, (modTask_keeps ..), (dvtFault_keeps ..), (jAdd_keeps ..), ↓(ite_keeps ..), ↓ite_fuses, ↓ite_floor, ite_self, and_self]

@[simp] theorem writeRetained_keeps (slot : Nat) (s : State) (p : Nat × BitVec 64) :
    (writeRetained slot s p).pending = s.pending ∧ (writeRetained slot s p).key.fuses = s.key.fuses ∧ (writeRetained slot s p).drw.serialFloor = s.drw.serialFloor := by
  unfold writeRetained; (repeat' split) <;> simp only [and_self]

@[simp] theorem applyGroup_keeps (slot : Nat) (w : WriteSet) (s : State) :
    (applyGroup slot w s).Keeps s := by
  unfold applyGroup; simp only [State.Keeps, (raise_keeps ..), (modTask_keeps ..), ↓(ite_keeps ..), ↓ite_fuses, ↓ite_floor, ite_self, (foldl_keeps ..), implies_true, and_self]

@[simp] theorem applyWs_keeps (slot catchTn tn : Nat) (w : WriteSet) (s : State) :
    (applyWs slot catchTn tn w s).pending = s.pending ∧ (applyWs slot catchTn tn w s).key.fuses = s.key.fuses ∧ (applyWs slot catchTn tn w s).drw.serialFloor = s.drw.serialFloor := by
  unfold applyWs; simp only [(modTask_keeps ..), (commitState_keeps ..), (jAdd_keeps ..), (commitPoint_keeps ..), (setSkipped_keeps ..), (addStream_keeps ..), (deliver_keeps ..), (writeRetained_keeps ..), (applyGroup_keeps ..), (foldl_pending ..), (foldl_fuses ..), (foldl_floor ..), implies_true, and_self]

@[simp] theorem skipTask_keeps (slot : Nat) (k : SkipKind) (flags catchTn : Nat) (s : State) :
    (skipTask slot k flags catchTn s).Keeps s := by
  unfold skipTask; simp only [State.Keeps, (raise_keeps ..), (modTask_keeps ..), (trigger_keeps ..), (jAdd_keeps ..), (setSkipped_keeps ..), (addStream_keeps ..), ↓(ite_keeps ..), ↓ite_fuses, ↓ite_floor, ite_self, and_self]

@[simp] theorem freeCores_keeps (slot : Nat) (s : State) :
    (freeCores slot s).Keeps s := by
  unfold freeCores; simp only [State.Keeps, (releaseLocks_keeps ..), and_self]

@[simp] theorem afterRelease_keeps (slot e : Nat) (skipped : Bool) (s : State) :
    (afterRelease slot e skipped s).Keeps s := by
  unfold afterRelease; simp only [State.Keeps, (modTask_keeps ..), (freeCores_keeps ..), and_self]

@[simp] theorem startSettle_keeps (slot : Nat) (k : Stroke) (s : State) :
    (startSettle slot k s).Keeps s := by
  unfold startSettle; simp only [State.Keeps, (raise_keeps ..), (trigger_keeps ..), (dvtFault_keeps ..), (takeSeat_keeps ..), (skipTask_keeps ..), ↓(ite_keeps ..), ↓ite_fuses, ↓ite_floor, ite_self, (foldl_keeps ..), implies_true, and_self]; repeat' (first | (simp only [State.Keeps, (raise_keeps ..), (trigger_keeps ..), (dvtFault_keeps ..), (takeSeat_keeps ..), (skipTask_keeps ..), ↓(ite_keeps ..), ↓ite_fuses, ↓ite_floor, ite_self, (foldl_keeps ..), implies_true, and_self]; done) | split)

@[simp] theorem shadowRelease_keeps (slot : Nat) (k : Stroke) (o : Outcome) (s : State) :
    (shadowRelease slot k o s).Keeps s := by
  unfold shadowRelease; simp only [State.Keeps, (modUpd_keeps ..), (failShadow_keeps ..), ↓(ite_keeps ..), ↓ite_fuses, ↓ite_floor, ite_self, (foldl_keeps ..), implies_true, and_self]; repeat' (first | (simp only [State.Keeps, (modUpd_keeps ..), (failShadow_keeps ..), ↓(ite_keeps ..), ↓ite_fuses, ↓ite_floor, ite_self, (foldl_keeps ..), implies_true, and_self]; done) | split)

@[simp] theorem releaseStroke_keeps (slot : Nat) (k : Stroke) (s : State) :
    (releaseStroke slot k s).pending = s.pending ∧ (releaseStroke slot k s).key.fuses = s.key.fuses ∧ (releaseStroke slot k s).drw.serialFloor = s.drw.serialFloor := by
  unfold releaseStroke; simp only [State.Keeps, (raise_keeps ..), (trigger_keeps ..), (dvtFault_keeps ..), (applyWs_keeps ..), (skipTask_keeps ..), (afterRelease_keeps ..), (startSettle_keeps ..), (shadowRelease_keeps ..), ↓(ite_keeps ..), ↓ite_fuses, ↓ite_floor, ite_self, (foldl_pending ..), (foldl_mem ..), (foldl_fuses ..), (foldl_floor ..), implies_true, and_self]; repeat' (first | (simp only [State.Keeps, (raise_keeps ..), (trigger_keeps ..), (dvtFault_keeps ..), (applyWs_keeps ..), (skipTask_keeps ..), (afterRelease_keeps ..), (startSettle_keeps ..), (shadowRelease_keeps ..), ↓(ite_keeps ..), ↓ite_fuses, ↓ite_floor, ite_self, (foldl_pending ..), (foldl_mem ..), (foldl_fuses ..), (foldl_floor ..), implies_true, and_self]; done) | split)

@[simp] theorem applySettled_keeps (slot : Nat) (s : State) :
    (applySettled slot s).pending = s.pending ∧ (applySettled slot s).key.fuses = s.key.fuses ∧ (applySettled slot s).drw.serialFloor = s.drw.serialFloor := by
  unfold applySettled; exact ⟨foldl_pending _ (fun s x => by repeat' (first | (simp only [(patchJournal_keeps ..), (applyWs_keeps ..)]; done) | split)) _ _, foldl_fuses _ (fun s x => by repeat' (first | (simp only [(patchJournal_keeps ..), (applyWs_keeps ..)]; done) | split)) _ _, foldl_floor _ (fun s x => by repeat' (first | (simp only [(patchJournal_keeps ..), (applyWs_keeps ..)]; done) | split)) _ _⟩

@[simp] theorem commitSlot_keeps (s : State) (slot : Nat) :
    (commitSlot s slot).pending = s.pending ∧ (commitSlot s slot).key.fuses = s.key.fuses ∧ (commitSlot s slot).drw.serialFloor = s.drw.serialFloor := by
  unfold commitSlot; simp only [State.Keeps, (modTask_keeps ..), (skipTask_keeps ..), (releaseStroke_keeps ..), (applySettled_keeps ..), ↓(ite_keeps ..), ↓ite_fuses, ↓ite_floor, ite_self, (foldl_pending ..), (foldl_mem ..), (foldl_fuses ..), (foldl_floor ..), implies_true, and_self]; repeat' (first | (simp only [State.Keeps, (modTask_keeps ..), (skipTask_keeps ..), (releaseStroke_keeps ..), (applySettled_keeps ..), ↓(ite_keeps ..), ↓ite_fuses, ↓ite_floor, ite_self, (foldl_pending ..), (foldl_mem ..), (foldl_fuses ..), (foldl_floor ..), implies_true, and_self]; done) | split)

@[simp] theorem commitLoops_keeps (s : State) :
    (commitLoops s).Keeps s := by
  unfold commitLoops; exact ⟨foldl_pending _ (fun s x => by repeat' (first | (simp only [(modLoop_keeps ..), (jAdd_keeps ..), (commitPoint_keeps ..), (addStream_keeps ..), ↓(ite_keeps ..), ↓ite_fuses, ↓ite_floor, ite_self]; done) | split)) _ _, foldl_mem _ (fun s x => by repeat' (first | (simp only [(modLoop_keeps ..), (jAdd_keeps ..), (commitPoint_keeps ..), (addStream_keeps ..), ↓(ite_keeps ..), ↓ite_fuses, ↓ite_floor, ite_self]; done) | split)) _ _, foldl_fuses _ (fun s x => by repeat' (first | (simp only [(modLoop_keeps ..), (jAdd_keeps ..), (commitPoint_keeps ..), (addStream_keeps ..), ↓(ite_keeps ..), ↓ite_fuses, ↓ite_floor, ite_self]; done) | split)) _ _, foldl_floor _ (fun s x => by repeat' (first | (simp only [(modLoop_keeps ..), (jAdd_keeps ..), (commitPoint_keeps ..), (addStream_keeps ..), ↓(ite_keeps ..), ↓ite_fuses, ↓ite_floor, ite_self]; done) | split)) _ _⟩

@[simp] theorem openRecord_keeps (free : Bool) (s : State) :
    (openRecord free s).Keeps s := by
  unfold openRecord; simp only [State.Keeps, and_self]

@[simp] theorem closeRecord_keeps (s : State) :
    (closeRecord s).Keeps s := by
  unfold closeRecord; simp only [State.Keeps, ↓(ite_keeps ..), ite_self, and_self]

@[simp] theorem sealVersion_keeps (s : State) :
    (sealVersion s).Keeps s := by
  unfold sealVersion; simp only [State.Keeps, and_self]

@[simp] theorem observe_keeps (old : Image) (s : State) (slot : Nat) :
    (observe old s slot).Keeps s := by
  unfold observe; (repeat' split) <;> simp only [State.Keeps, (modTask_keeps ..), ↓(ite_keeps ..), ↓ite_fuses, ↓ite_floor, ite_self, and_self]

@[simp] theorem shadowState_keeps (slot : Nat) (s : State) :
    (shadowState slot s).Keeps s := by
  unfold shadowState; simp only [State.Keeps, (modUpd_keeps ..), ↓(ite_keeps ..), ↓ite_fuses, ↓ite_floor, ite_self, and_self]

@[simp] theorem catchTask_keeps (slot : Nat) (s : State) :
    (catchTask slot s).Keeps s := by
  unfold catchTask; simp only [State.Keeps, (modTask_keeps ..), (shadowState_keeps ..), and_self]

@[simp] theorem leaveReplay_keeps (s : State) (slot : Nat) :
    (leaveReplay s slot).Keeps s := by
  unfold leaveReplay; simp only [State.Keeps, (modTask_keeps ..), ↓(ite_keeps ..), ↓ite_fuses, ↓ite_floor, ite_self, and_self]

@[simp] theorem catchDue_keeps (s : State) (slot : Nat) :
    (catchDue s slot).Keeps s := by
  unfold catchDue; simp only [State.Keeps, (catchTask_keeps ..), ↓(ite_keeps ..), ↓ite_fuses, ↓ite_floor, ite_self, and_self]

/-! ### Rio -/

@[simp] theorem modSta_keeps (k : Nat) (f : Station → Station) (s : State) :
    (modSta k f s).Keeps s := by
  unfold modSta; (repeat' split) <;> simp only [State.Keeps, and_self]

@[simp] theorem rioEvent_keeps (code k drawer detail : Nat) (s : State) :
    (rioEvent code k drawer detail s).Keeps s := by
  unfold rioEvent; simp only [State.Keeps, (raise_keeps ..), and_self]

@[simp] theorem acceptReply_keeps (k stamp status : Nat) (vals : List (Nat × Byte)) (r : Rec) (s : State) :
    (acceptReply k stamp status vals r s).Keeps s := by
  unfold acceptReply; (repeat' split) <;> simp only [State.Keeps, (modSta_keeps ..), (rioEvent_keeps ..), and_self]

@[simp] theorem discardReply_keeps (k reason : Nat) (r : Rec) (s : State) :
    (discardReply k reason r s).Keeps s := by
  unfold discardReply; simp only [State.Keeps, (modSta_keeps ..), (rioEvent_keeps ..), and_self]

@[simp] theorem replyFrame_keeps (m id : Nat) (p : List Byte) (stamp : Nat) (s : State) :
    (replyFrame m id p stamp s).Keeps s := by
  unfold replyFrame; simp only [State.Keeps, (rioEvent_keeps ..), (acceptReply_keeps ..), (discardReply_keeps ..), ↓(ite_keeps ..), ↓ite_fuses, ↓ite_floor, ite_self, (foldl_keeps ..), implies_true, and_self]; repeat' (first | (simp only [State.Keeps, (rioEvent_keeps ..), (acceptReply_keeps ..), (discardReply_keeps ..), ↓(ite_keeps ..), ↓ite_fuses, ↓ite_floor, ite_self, (foldl_keeps ..), implies_true, and_self]; done) | split)

@[simp] theorem canReply_keeps (m id : Nat) (p : List Byte) (stamp : Nat) (s : State) :
    (canReply m id p stamp s).Keeps s := by
  unfold canReply; simp only [State.Keeps, (replyFrame_keeps ..), ↓(ite_keeps ..), ↓ite_fuses, ↓ite_floor, ite_self, and_self]

@[simp] theorem seqTake_keeps (m id : Nat) (p : List Byte) (stamp : Nat) (s : State) :
    (seqTake m id p stamp s).Keeps s := by
  unfold seqTake; simp only [State.Keeps, (canReply_keeps ..), and_self]

@[simp] theorem missStation_keeps (k : Nat) (r : Rec) (s : State) :
    (missStation k r s).Keeps s := by
  unfold missStation; (repeat' split) <;> simp only [State.Keeps, (modSta_keeps ..), (rioEvent_keeps ..), ↓(ite_keeps ..), ↓ite_fuses, ↓ite_floor, ite_self, and_self]

@[simp] theorem rioDeadlines_keeps (e : Nat) (s : State) :
    (rioDeadlines e s).Keeps s := by
  unfold rioDeadlines; simp only [State.Keeps, (missStation_keeps ..), ↓(ite_keeps ..), ↓ite_fuses, ↓ite_floor, ite_self, (foldl_keeps ..), implies_true, and_self]

@[simp] theorem abandonMarker_keeps (m : Nat) (s : State) :
    (abandonMarker m s).Keeps s := by
  unfold abandonMarker; simp only [State.Keeps, (raise_keeps ..), and_self]

@[simp] theorem writeReply_keeps (k : Nat) (vals : List (Nat × Byte)) (tn : Nat) (s : State) :
    (writeReply k vals tn s).Keeps s := by
  unfold writeReply; exact ⟨foldl_pending _ (fun s x => by repeat' (first | (simp only [(writeInput_keeps ..)]; done) | split)) _ _, foldl_mem _ (fun s x => by repeat' (first | (simp only [(writeInput_keeps ..)]; done) | split)) _ _, foldl_fuses _ (fun s x => by repeat' (first | (simp only [(writeInput_keeps ..)]; done) | split)) _ _, foldl_floor _ (fun s x => by repeat' (first | (simp only [(writeInput_keeps ..)]; done) | split)) _ _⟩

@[simp] theorem writeStale_keeps (k : Nat) (lost : Bool) (s : State) :
    (writeStale k lost s).Keeps s := by
  unfold writeStale; exact ⟨foldl_pending _ (fun s x => by repeat' (first | (simp only [(writeInput_keeps ..)]; done) | split)) _ _, foldl_mem _ (fun s x => by repeat' (first | (simp only [(writeInput_keeps ..)]; done) | split)) _ _, foldl_fuses _ (fun s x => by repeat' (first | (simp only [(writeInput_keeps ..)]; done) | split)) _ _, foldl_floor _ (fun s x => by repeat' (first | (simp only [(writeInput_keeps ..)]; done) | split)) _ _⟩

@[simp] theorem stationInputs_keeps (first : Bool) (s : State) (r : Rec) :
    (stationInputs first s r).Keeps s := by
  unfold stationInputs
  dsimp only
  repeat' split
  all_goals first
    | (simp only [State.Keeps, (writeInput_keeps ..), (modSta_keeps ..), (writeReply_keeps ..), (writeStale_keeps ..), and_self]; done)
    | (simp only [State.Keeps, (modSta_keeps ..)]
       refine ⟨(foldl_pending _ (fun s x => ?_) _ _).trans ?_, (foldl_mem _ (fun s x => ?_) _ _).trans ?_,
         (foldl_fuses _ (fun s x => ?_) _ _).trans ?_, (foldl_floor _ (fun s x => ?_) _ _).trans ?_⟩ <;> (repeat' split) <;> simp only [State.Keeps, (writeInput_keeps ..), (modSta_keeps ..), (writeReply_keeps ..), (writeStale_keeps ..), and_self])

@[simp] theorem rioInputs_keeps (first : Bool) (s : State) :
    (rioInputs first s).Keeps s := by
  unfold rioInputs; simp only [State.Keeps, (stationInputs_keeps ..), (foldl_keeps ..), implies_true, and_self]

@[simp] theorem dropMarker_keeps (m : Nat) (s : State) :
    (dropMarker m s).Keeps s := by
  unfold dropMarker; simp only [State.Keeps, (abandonMarker_keeps ..), ↓(ite_keeps ..), ↓ite_fuses, ↓ite_floor, ite_self, and_self]

@[simp] theorem sendMarker_keeps (delays : List (Nat × Nat)) (s : State) (p : Nat × Medium) :
    (sendMarker delays s p).Keeps s := by
  unfold sendMarker; simp only [State.Keeps, (raise_keeps ..), (modSta_keeps ..), (dropMarker_keeps ..), ↓(ite_keeps ..), ↓ite_fuses, ↓ite_floor, ite_self, (foldl_keeps ..), implies_true, and_self]

@[simp] theorem rioMarkers_keeps (delays : List (Nat × Nat)) (s : State) :
    (rioMarkers delays s).Keeps s := by
  unfold rioMarkers; simp only [State.Keeps, (sendMarker_keeps ..), ↓(ite_keeps ..), ↓ite_fuses, ↓ite_floor, ite_self, (foldl_keeps ..), implies_true, and_self]

@[simp] theorem armStation_keeps (s : State) (r : Rec) :
    (armStation s r).Keeps s := by
  unfold armStation; simp only [State.Keeps, (modSta_keeps ..), and_self]

@[simp] theorem rioLoad_keeps (bound : Nat → Nat) (drawn : Nat) (s : State) :
    (rioLoad bound drawn s).Keeps s := by
  unfold rioLoad; simp only [State.Keeps, and_self]

/-! ### Can -/

@[simp] theorem modCan_keeps (n : Nat) (f : Can → Can) (s : State) :
    (modCan n f s).Keeps s := by
  unfold modCan; simp only [State.Keeps, and_self]

@[simp] theorem modBuf_keeps (n b : Nat) (f : CanBuf → CanBuf) (s : State) :
    (modBuf n b f s).Keeps s := by
  unfold modBuf; simp only [State.Keeps, (modCan_keeps ..), and_self]

@[simp] theorem modQueue_keeps (n q : Nat) (f : CanQueue → CanQueue) (s : State) :
    (modQueue n q f s).Keeps s := by
  unfold modQueue; simp only [State.Keeps, (modCan_keeps ..), and_self]

@[simp] theorem canEvent_keeps (code n detail : Nat) (s : State) :
    (canEvent code n detail s).Keeps s := by
  unfold canEvent; simp only [State.Keeps, (raise_keeps ..), and_self]

@[simp] theorem canFlag_keeps (n i : Nat) (s : State) :
    (canFlag n i s).Keeps s := by
  unfold canFlag; simp only [State.Keeps, (modCan_keeps ..), and_self]

@[simp] theorem requestBuf_keeps (n : Nat) (s : State) (b : Nat) :
    (requestBuf n s b).Keeps s := by
  unfold requestBuf; simp only [State.Keeps, (modBuf_keeps ..), (canEvent_keeps ..), (canFlag_keeps ..), ↓(ite_keeps ..), ↓ite_fuses, ↓ite_floor, ite_self, and_self]

@[simp] theorem cancelBuf_keeps (n : Nat) (s : State) (b : Nat) :
    (cancelBuf n s b).Keeps s := by
  unfold cancelBuf; simp only [State.Keeps, (modBuf_keeps ..), and_self]

@[simp] theorem requestBufs_keeps (n v : Nat) (s : State) :
    (requestBufs n v s).Keeps s := by
  unfold requestBufs; simp only [State.Keeps, (requestBuf_keeps ..), ↓(ite_keeps ..), ↓ite_fuses, ↓ite_floor, ite_self, (foldl_keeps ..), implies_true, and_self]

@[simp] theorem cancelBufs_keeps (n v : Nat) (s : State) :
    (cancelBufs n v s).Keeps s := by
  unfold cancelBufs; simp only [State.Keeps, (cancelBuf_keeps ..), ↓(ite_keeps ..), ↓ite_fuses, ↓ite_floor, ite_self, (foldl_keeps ..), implies_true, and_self]

@[simp] theorem writeBuf_keeps (n b : Nat) (f : CanBuf → CanBuf) (s : State) :
    (writeBuf n b f s).Keeps s := by
  unfold writeBuf; simp only [State.Keeps, (modBuf_keeps ..), (canFlag_keeps ..), ↓(ite_keeps ..), ↓ite_fuses, ↓ite_floor, ite_self, and_self]

@[simp] theorem canBegin_keeps (n b : Nat) (f : CanFrame) (s : State) :
    (canBegin n b f s).Keeps s := by
  unfold canBegin; simp only [State.Keeps, (modCan_keeps ..), ↓(ite_keeps ..), ↓ite_fuses, ↓ite_floor, ite_self, and_self]

@[simp] theorem failActive_keeps (n : Nat) (s : State) :
    (failActive n s).Keeps s := by
  unfold failActive; simp only [State.Keeps, (abandonMarker_keeps ..), (modCan_keeps ..), (modBuf_keeps ..), ↓(ite_keeps ..), ↓ite_fuses, ↓ite_floor, ite_self, (foldl_keeps ..), implies_true, and_self]; repeat' (first | (simp only [State.Keeps, (abandonMarker_keeps ..), (modCan_keeps ..), (modBuf_keeps ..), ↓(ite_keeps ..), ↓ite_fuses, ↓ite_floor, ite_self, (foldl_keeps ..), implies_true, and_self]; done) | split)

@[simp] theorem errorState_keeps (n : Nat) (old : Can) (s : State) :
    (errorState n old s).Keeps s := by
  unfold errorState; simp only [State.Keeps, (modCan_keeps ..), (canEvent_keeps ..), (canFlag_keeps ..), (failActive_keeps ..), ↓(ite_keeps ..), ↓ite_fuses, ↓ite_floor, ite_self, and_self]

@[simp] theorem ackError_keeps (n b : Nat) (s : State) :
    (ackError n b s).Keeps s := by
  unfold ackError; simp only [State.Keeps, (modCan_keeps ..), (canEvent_keeps ..), (canFlag_keeps ..), ↓(ite_keeps ..), ↓ite_fuses, ↓ite_floor, ite_self, and_self]

@[simp] theorem txDone_keeps (n b stamp : Nat) (s : State) :
    (txDone n b stamp s).Keeps s := by
  unfold txDone; simp only [State.Keeps, (modCan_keeps ..), (modBuf_keeps ..), (errorState_keeps ..), ↓(ite_keeps ..), ↓ite_fuses, ↓ite_floor, ite_self, and_self]

@[simp] theorem recoverWrite_keeps (n v : Nat) (s : State) :
    (recoverWrite n v s).Keeps s := by
  unfold recoverWrite; simp only [State.Keeps, (raiseIgnored_keeps ..), (modCan_keeps ..), ↓(ite_keeps ..), ↓ite_fuses, ↓ite_floor, ite_self, and_self]

@[simp] theorem queueDrop_keeps (n q : Nat) (s : State) :
    (queueDrop n q s).Keeps s := by
  unfold queueDrop; simp only [State.Keeps, (modQueue_keeps ..), (canEvent_keeps ..), and_self]

@[simp] theorem queueAppend_keeps (n q : Nat) (e : CanEntry) (s : State) :
    (queueAppend n q e s).Keeps s := by
  unfold queueAppend; simp only [State.Keeps, (modCan_keeps ..), and_self]

@[simp] theorem queueFrame_keeps (n q : Nat) (e : CanEntry) (s : State) :
    (queueFrame n q e s).Keeps s := by
  unfold queueFrame; simp only [State.Keeps, (modQueue_keeps ..), (queueDrop_keeps ..), (queueAppend_keeps ..), ↓(ite_keeps ..), ↓ite_fuses, ↓ite_floor, ite_self, and_self]

@[simp] theorem duplicateId_keeps (n : Nat) (f : CanFrame) (s : State) :
    (duplicateId n f s).Keeps s := by
  unfold duplicateId; simp only [State.Keeps, (modCan_keeps ..), (canEvent_keeps ..), (canFlag_keeps ..), ↓(ite_keeps ..), ↓ite_fuses, ↓ite_floor, ite_self, and_self]

@[simp] theorem queueLock_keeps (n q : Nat) (holder : Option (Nat × Nat)) (s : State) :
    (queueLock n q holder s).Keeps s := by
  unfold queueLock; simp only [State.Keeps, (modQueue_keeps ..), ↓(ite_keeps ..), ↓ite_fuses, ↓ite_floor, ite_self, and_self]

@[simp] theorem queuePop_keeps (n q : Nat) (s : State) :
    (queuePop n q s).Keeps s := by
  unfold queuePop; simp only [State.Keeps, (modQueue_keeps ..), (canFlag_keeps ..), (queueAppend_keeps ..), ↓(ite_keeps ..), ↓ite_fuses, ↓ite_floor, ite_self, (foldl_keeps ..), implies_true, and_self]; repeat' (first | (simp only [State.Keeps, (modQueue_keeps ..), (canFlag_keeps ..), (queueAppend_keeps ..), ↓(ite_keeps ..), ↓ite_fuses, ↓ite_floor, ite_self, (foldl_keeps ..), implies_true, and_self]; done) | split)

@[simp] theorem queueRelease_keeps (n q : Nat) (s : State) :
    (queueRelease n q s).Keeps s := by
  unfold queueRelease; simp only [State.Keeps, (modQueue_keeps ..), (canFlag_keeps ..), ↓(ite_keeps ..), ↓ite_fuses, ↓ite_floor, ite_self, and_self]

@[simp] theorem canMarkers_keeps (s : State) :
    (canMarkers s).Keeps s := by
  unfold canMarkers; exact ⟨foldl_pending _ (fun s x => by repeat' (first | (simp only [(abandonMarker_keeps ..), (modCan_keeps ..), ↓(ite_keeps ..), ↓ite_fuses, ↓ite_floor, ite_self]; done) | split)) _ _, foldl_mem _ (fun s x => by repeat' (first | (simp only [(abandonMarker_keeps ..), (modCan_keeps ..), ↓(ite_keeps ..), ↓ite_fuses, ↓ite_floor, ite_self]; done) | split)) _ _, foldl_fuses _ (fun s x => by repeat' (first | (simp only [(abandonMarker_keeps ..), (modCan_keeps ..), ↓(ite_keeps ..), ↓ite_fuses, ↓ite_floor, ite_self]; done) | split)) _ _, foldl_floor _ (fun s x => by repeat' (first | (simp only [(abandonMarker_keeps ..), (modCan_keeps ..), ↓(ite_keeps ..), ↓ite_fuses, ↓ite_floor, ite_self]; done) | split)) _ _⟩

end Sys2Proof.Machine
end

