-- ==== Sys2Proof/Laws/FramesCommit.lean ====
section
/-! SUPPORT. The frame of each operation, the blocks of the state it leaves as they were: the commit, remote I/O and CAN. -/
set_option linter.unusedSimpArgs false
namespace Sys2Proof.Machine

/-! ### Commit -/

@[simp] theorem noteUnder_frame (i : Nat) (v : BitVec 64) (q : Byte) (s : State) :
    (noteUnder i v q s).OnlyDbg s := by
  unfold noteUnder; simp only [State.OnlyDbg, ↓(ite_fields ..), ite_self, implies_true, and_self]

@[simp] theorem putEntry_frame (i : Nat) (e : Entry) (s : State) :
    (putEntry i e s).OnlyDvt s := by
  unfold putEntry; simp only [State.OnlyDvt, ↓(ite_fields ..), ite_self, implies_true, and_self]

@[simp] theorem commitPoint_frame (i : Nat) (v : BitVec 64) (q : Byte) (tick : Nat) (s : State) :
    (commitPoint i v q tick s).OnlyDvtDbg s := by
  unfold commitPoint; simp only [State.OnlyDvtDbg, (noteUnder_frame ..), (putEntry_frame ..), ↓(ite_fields ..), ite_self, implies_true, and_self]

@[simp] theorem writeInput_frame (i : Nat) (v : BitVec 64) (q : Byte) (tick : Nat) (s : State) :
    (writeInput i v q tick s).OnlyDvtDbg s := by
  unfold writeInput; simp only [State.OnlyDvtDbg, (noteUnder_frame ..), (putEntry_frame ..), ↓(ite_fields ..), ite_self, implies_true, and_self]

@[simp] theorem showForce_frame (s : State) (t : State) (i : Nat) :
    (showForce s t i).OnlyDvt t := by
  unfold showForce; (repeat' split) <;> simp only [State.OnlyDvt, (putEntry_frame ..), ↓(ite_fields ..), ite_self, implies_true, and_self]

@[simp] theorem applyForces_frame (s : State) :
    (applyForces s).OnlyDvtDbg s := by
  unfold applyForces; simp only [State.OnlyDvtDbg, (showForce_frame ..), ↓(ite_fields ..), ite_self, (foldl_OnlyDvtDbg ..), implies_true, and_self]

@[simp] theorem openVersion_frame (s : State) :
    (openVersion s).OnlyDvt s := by
  unfold openVersion; simp only [State.OnlyDvt, ↓(ite_fields ..), ite_self, implies_true, and_self]

@[simp] theorem setSkipped_frame (n : Nat) (b : Bool) (s : State) :
    (setSkipped n b s).OnlyDvt s := by
  unfold setSkipped; simp only [State.OnlyDvt, ↓(ite_fields ..), ite_self, implies_true, and_self]

@[simp] theorem addStream_frame (l : List Byte) (s : State) :
    (addStream l s).OnlyDvt s := by
  unfold addStream; simp only [State.OnlyDvt, ↓(ite_fields ..), ite_self, implies_true, and_self]

@[simp] theorem deliver_frame (tn : Nat) (s : State) (m : Msg) :
    (deliver tn s m).OnlyFreshStkDvtWkeEvrHie s := by
  unfold deliver; simp only [State.OnlyFreshStkDvtWkeEvrHie, (modTask_frame ..), (dvtFault_frame ..), (jAdd_frame ..), ↓(ite_fields ..), ite_self, implies_true, and_self]

@[simp] theorem writeRetained_frame (slot : Nat) (s : State) (p : Nat × BitVec 64) :
    (writeRetained slot s p).OnlyMem s := by
  unfold writeRetained; (repeat' split) <;> simp only [State.OnlyMem, ↓(ite_fields ..), ite_self, implies_true, and_self]

@[simp] theorem applyGroup_frame (slot : Nat) (w : WriteSet) (s : State) :
    (applyGroup slot w s).OnlyFreshStkDvtEvrHie s := by
  unfold applyGroup; simp only [State.OnlyFreshStkDvtEvrHie, (raise_frame ..), (modTask_frame ..), ↓(ite_fields ..), ite_self, (foldl_OnlyFreshStkDvtEvrHie ..), implies_true, and_self]

@[simp] theorem applyWs_frame (slot catchTn tn : Nat) (w : WriteSet) (s : State) :
    (applyWs slot catchTn tn w s).OnlyFreshStkDvtWkeEvrHieDbgMem s := by
  unfold applyWs; simp only [State.OnlyFreshStkDvtWkeEvrHieDbgMem, (modTask_frame ..), (commitState_frame ..), (jAdd_frame ..), (commitPoint_frame ..), (setSkipped_frame ..), (addStream_frame ..), (deliver_frame ..), (writeRetained_frame ..), (applyGroup_frame ..), ↓(ite_fields ..), ite_self, (foldl_OnlyFreshStkDvtWkeEvrHieDbgMem ..), implies_true, and_self]

@[simp] theorem skipTask_frame (slot : Nat) (k : SkipKind) (flags catchTn : Nat) (s : State) :
    (skipTask slot k flags catchTn s).OnlyFreshStkDvtWkeEvrUpdHie s := by
  unfold skipTask; simp only [State.OnlyFreshStkDvtWkeEvrUpdHie, (raise_frame ..), (modTask_frame ..), (trigger_frame ..), (jAdd_frame ..), (setSkipped_frame ..), (addStream_frame ..), ↓(ite_fields ..), ite_self, implies_true, and_self]

@[simp] theorem freeCores_frame (slot : Nat) (s : State) :
    (freeCores slot s).OnlyCanKeyCores s := by
  unfold freeCores; simp only [State.OnlyCanKeyCores, (releaseLocks_frame ..), ↓(ite_fields ..), ite_self, implies_true, and_self]

@[simp] theorem afterRelease_frame (slot e : Nat) (skipped : Bool) (s : State) :
    (afterRelease slot e skipped s).OnlyStkCanKeyCores s := by
  unfold afterRelease; simp only [State.OnlyStkCanKeyCores, (modTask_frame ..), (freeCores_frame ..), ↓(ite_fields ..), ite_self, implies_true, and_self]

@[simp] theorem startSettle_frame (slot : Nat) (k : Stroke) (s : State) :
    (startSettle slot k s).OnlyFreshStkDvtWkeEvrUpdHieCores s := by
  unfold startSettle; simp only [State.OnlyFreshStkDvtWkeEvrUpdHieCores, (raise_frame ..), (trigger_frame ..), (dvtFault_frame ..), (takeSeat_frame ..), (skipTask_frame ..), ↓(ite_fields ..), ite_self, implies_true, and_self]; repeat' (first | (simp only [State.OnlyFreshStkDvtWkeEvrUpdHieCores, (raise_frame ..), (trigger_frame ..), (dvtFault_frame ..), (takeSeat_frame ..), (skipTask_frame ..), ↓(ite_fields ..), ite_self, implies_true, and_self]; done) | split)

@[simp] theorem shadowRelease_frame (slot : Nat) (k : Stroke) (o : Outcome) (s : State) :
    (shadowRelease slot k o s).OnlyFreshStkDvtWkeEvrUpdHieCores s := by
  unfold shadowRelease; simp only [State.OnlyFreshStkDvtWkeEvrUpdHieCores, (modUpd_frame ..), (failShadow_frame ..), ↓(ite_fields ..), ite_self, implies_true, and_self]; repeat' (first | (simp only [State.OnlyFreshStkDvtWkeEvrUpdHieCores, (modUpd_frame ..), (failShadow_frame ..), ↓(ite_fields ..), ite_self, implies_true, and_self]; done) | split)

@[simp] theorem releaseStroke_frame (slot : Nat) (k : Stroke) (s : State) :
    (releaseStroke slot k s).pending = s.pending ∧ (releaseStroke slot k s).answer = s.answer ∧ (releaseStroke slot k s).sys = s.sys ∧ (releaseStroke slot k s).drw = s.drw ∧ (releaseStroke slot k s).jig = s.jig ∧ (releaseStroke slot k s).dio = s.dio ∧ (releaseStroke slot k s).aio = s.aio ∧ (releaseStroke slot k s).lpe = s.lpe ∧ (releaseStroke slot k s).rio = s.rio ∧ (releaseStroke slot k s).mac = s.mac ∧ (releaseStroke slot k s).ptp = s.ptp ∧ (releaseStroke slot k s).rtc = s.rtc ∧ (releaseStroke slot k s).cvu = s.cvu ∧ (releaseStroke slot k s).enabled = s.enabled ∧ (releaseStroke slot k s).declared = s.declared := by
  unfold releaseStroke; simp only [(raise_frame ..), (trigger_frame ..), (dvtFault_frame ..), (applyWs_frame ..), (skipTask_frame ..), (afterRelease_frame ..), (startSettle_frame ..), (shadowRelease_frame ..), ↓(ite_fields ..), ite_self, implies_true, and_self]; repeat' (first | (simp only [(raise_frame ..), (trigger_frame ..), (dvtFault_frame ..), (applyWs_frame ..), (skipTask_frame ..), (afterRelease_frame ..), (startSettle_frame ..), (shadowRelease_frame ..), ↓(ite_fields ..), ite_self, implies_true, and_self]; done) | split)

@[simp] theorem applySettled_frame (slot : Nat) (s : State) :
    (applySettled slot s).OnlyFreshStkDvtWkeEvrHieDbgMem s := by
  unfold applySettled; exact foldl_OnlyFreshStkDvtWkeEvrHieDbgMem _ (fun s x => by repeat' (first | (simp only [State.OnlyFreshStkDvtWkeEvrHieDbgMem, (patchJournal_frame ..), (applyWs_frame ..), ↓(ite_fields ..), ite_self, (foldl_OnlyFreshStkDvtWkeEvrHieDbgMem ..), implies_true, and_self]; done) | split)) _ _

@[simp] theorem commitSlot_frame (s : State) (slot : Nat) :
    (commitSlot s slot).pending = s.pending ∧ (commitSlot s slot).answer = s.answer ∧ (commitSlot s slot).sys = s.sys ∧ (commitSlot s slot).drw = s.drw ∧ (commitSlot s slot).jig = s.jig ∧ (commitSlot s slot).dio = s.dio ∧ (commitSlot s slot).aio = s.aio ∧ (commitSlot s slot).lpe = s.lpe ∧ (commitSlot s slot).rio = s.rio ∧ (commitSlot s slot).mac = s.mac ∧ (commitSlot s slot).ptp = s.ptp ∧ (commitSlot s slot).rtc = s.rtc ∧ (commitSlot s slot).cvu = s.cvu ∧ (commitSlot s slot).enabled = s.enabled ∧ (commitSlot s slot).declared = s.declared := by
  unfold commitSlot; simp only [(modTask_frame ..), (skipTask_frame ..), (releaseStroke_frame ..), (applySettled_frame ..), ↓(ite_fields ..), ite_self, implies_true, and_self]; repeat' (first | (simp only [(modTask_frame ..), (skipTask_frame ..), (releaseStroke_frame ..), (applySettled_frame ..), ↓(ite_fields ..), ite_self, implies_true, and_self]; done) | split)

@[simp] theorem commitLoops_frame (s : State) :
    (commitLoops s).OnlyDvtWkeLpeDbg s := by
  unfold commitLoops; exact foldl_OnlyDvtWkeLpeDbg _ (fun s x => by repeat' (first | (simp only [State.OnlyDvtWkeLpeDbg, (modLoop_frame ..), (jAdd_frame ..), (commitPoint_frame ..), (addStream_frame ..), ↓(ite_fields ..), ite_self, (foldl_OnlyDvtWkeLpeDbg ..), implies_true, and_self]; done) | split)) _ _

@[simp] theorem openRecord_frame (free : Bool) (s : State) :
    (openRecord free s).OnlyWke s := by
  unfold openRecord; simp only [State.OnlyWke, ↓(ite_fields ..), ite_self, implies_true, and_self]

@[simp] theorem closeRecord_frame (s : State) :
    (closeRecord s).OnlyDvtWke s := by
  unfold closeRecord; simp only [State.OnlyDvtWke, ↓(ite_fields ..), ite_self, implies_true, and_self]

@[simp] theorem sealVersion_frame (s : State) :
    (sealVersion s).OnlyDvt s := by
  unfold sealVersion; simp only [State.OnlyDvt, ↓(ite_fields ..), ite_self, implies_true, and_self]

@[simp] theorem observe_frame (old : Image) (s : State) (slot : Nat) :
    (observe old s slot).OnlyStk s := by
  unfold observe; (repeat' split) <;> simp only [State.OnlyStk, (modTask_frame ..), ↓(ite_fields ..), ite_self, (foldl_OnlyStk ..), implies_true, and_self]

@[simp] theorem shadowState_frame (slot : Nat) (s : State) :
    (shadowState slot s).OnlyUpd s := by
  unfold shadowState; simp only [State.OnlyUpd, (modUpd_frame ..), ↓(ite_fields ..), ite_self, implies_true, and_self]

@[simp] theorem catchTask_frame (slot : Nat) (s : State) :
    (catchTask slot s).OnlyStkUpd s := by
  unfold catchTask; simp only [State.OnlyStkUpd, (modTask_frame ..), (shadowState_frame ..), ↓(ite_fields ..), ite_self, implies_true, and_self]

@[simp] theorem leaveReplay_frame (s : State) (slot : Nat) :
    (leaveReplay s slot).OnlyStk s := by
  unfold leaveReplay; simp only [State.OnlyStk, (modTask_frame ..), ↓(ite_fields ..), ite_self, implies_true, and_self]

@[simp] theorem catchDue_frame (s : State) (slot : Nat) :
    (catchDue s slot).OnlyStkUpd s := by
  unfold catchDue; simp only [State.OnlyStkUpd, (catchTask_frame ..), ↓(ite_fields ..), ite_self, implies_true, and_self]

/-! ### Rio -/

@[simp] theorem modSta_frame (k : Nat) (f : Station → Station) (s : State) :
    (modSta k f s).OnlyRio s := by
  unfold modSta; (repeat' split) <;> simp only [State.OnlyRio, ↓(ite_fields ..), ite_self, implies_true, and_self]

@[simp] theorem rioEvent_frame (code k drawer detail : Nat) (s : State) :
    (rioEvent code k drawer detail s).OnlyFreshEvrHie s := by
  unfold rioEvent; simp only [State.OnlyFreshEvrHie, (raise_frame ..), ↓(ite_fields ..), ite_self, implies_true, and_self]

@[simp] theorem acceptReply_frame (k stamp status : Nat) (vals : List (Nat × Byte)) (r : Rec) (s : State) :
    (acceptReply k stamp status vals r s).OnlyFreshRioEvrHie s := by
  unfold acceptReply; (repeat' split) <;> simp only [State.OnlyFreshRioEvrHie, (modSta_frame ..), (rioEvent_frame ..), ↓(ite_fields ..), ite_self, implies_true, and_self]

@[simp] theorem discardReply_frame (k reason : Nat) (r : Rec) (s : State) :
    (discardReply k reason r s).OnlyFreshRioEvrHie s := by
  unfold discardReply; simp only [State.OnlyFreshRioEvrHie, (modSta_frame ..), (rioEvent_frame ..), ↓(ite_fields ..), ite_self, implies_true, and_self]

@[simp] theorem replyFrame_frame (m id : Nat) (p : List Byte) (stamp : Nat) (s : State) :
    (replyFrame m id p stamp s).OnlyFreshRioEvrHie s := by
  unfold replyFrame; simp only [State.OnlyFreshRioEvrHie, (rioEvent_frame ..), (acceptReply_frame ..), (discardReply_frame ..), ↓(ite_fields ..), ite_self, implies_true, and_self]; repeat' (first | (simp only [State.OnlyFreshRioEvrHie, (rioEvent_frame ..), (acceptReply_frame ..), (discardReply_frame ..), ↓(ite_fields ..), ite_self, implies_true, and_self]; done) | split)

@[simp] theorem canReply_frame (m id : Nat) (p : List Byte) (stamp : Nat) (s : State) :
    (canReply m id p stamp s).OnlyFreshRioEvrHie s := by
  unfold canReply; simp only [State.OnlyFreshRioEvrHie, (replyFrame_frame ..), ↓(ite_fields ..), ite_self, implies_true, and_self]

@[simp] theorem seqTake_frame (m id : Nat) (p : List Byte) (stamp : Nat) (s : State) :
    (seqTake m id p stamp s).OnlyFreshRioCanEvrHie s := by
  unfold seqTake; simp only [State.OnlyFreshRioCanEvrHie, (canReply_frame ..), ↓(ite_fields ..), ite_self, implies_true, and_self]

@[simp] theorem missStation_frame (k : Nat) (r : Rec) (s : State) :
    (missStation k r s).OnlyFreshRioEvrHie s := by
  unfold missStation; (repeat' split) <;> simp only [State.OnlyFreshRioEvrHie, (modSta_frame ..), (rioEvent_frame ..), ↓(ite_fields ..), ite_self, implies_true, and_self]

@[simp] theorem rioDeadlines_frame (e : Nat) (s : State) :
    (rioDeadlines e s).OnlyFreshRioEvrHie s := by
  unfold rioDeadlines; simp only [State.OnlyFreshRioEvrHie, (missStation_frame ..), ↓(ite_fields ..), ite_self, (foldl_OnlyFreshRioEvrHie ..), implies_true, and_self]

@[simp] theorem abandonMarker_frame (m : Nat) (s : State) :
    (abandonMarker m s).OnlyFreshRioEvrHie s := by
  unfold abandonMarker; simp only [State.OnlyFreshRioEvrHie, (raise_frame ..), ↓(ite_fields ..), ite_self, implies_true, and_self]

@[simp] theorem writeReply_frame (k : Nat) (vals : List (Nat × Byte)) (tn : Nat) (s : State) :
    (writeReply k vals tn s).OnlyDvtDbg s := by
  unfold writeReply; exact foldl_OnlyDvtDbg _ (fun s x => by repeat' (first | (simp only [State.OnlyDvtDbg, (writeInput_frame ..), ↓(ite_fields ..), ite_self, (foldl_OnlyDvtDbg ..), implies_true, and_self]; done) | split)) _ _

@[simp] theorem writeStale_frame (k : Nat) (lost : Bool) (s : State) :
    (writeStale k lost s).OnlyDvtDbg s := by
  unfold writeStale; exact foldl_OnlyDvtDbg _ (fun s x => by repeat' (first | (simp only [State.OnlyDvtDbg, (writeInput_frame ..), ↓(ite_fields ..), ite_self, (foldl_OnlyDvtDbg ..), implies_true, and_self]; done) | split)) _ _

@[simp] theorem stationInputs_frame (first : Bool) (s : State) (r : Rec) :
    (stationInputs first s r).OnlyDvtRioDbg s := by
  unfold stationInputs
  dsimp only
  repeat' split
  all_goals first
    | (simp only [State.OnlyDvtRioDbg, (writeInput_frame ..), (modSta_frame ..), (writeReply_frame ..), (writeStale_frame ..), ↓(ite_fields ..), ite_self, (foldl_OnlyDvtRioDbg ..), implies_true, and_self]; done)
    | (simp only [State.OnlyDvtRioDbg, (modSta_frame ..)]
       refine ⟨(foldl_keep (fun s => s.pending) _ (fun s x => ?_) _ _).trans ?_, (foldl_keep (fun s => s.answer) _ (fun s x => ?_) _ _).trans ?_, (foldl_keep (fun s => s.fresh) _ (fun s x => ?_) _ _).trans ?_, (foldl_keep (fun s => s.sys) _ (fun s x => ?_) _ _).trans ?_, (foldl_keep (fun s => s.drw) _ (fun s x => ?_) _ _).trans ?_, (foldl_keep (fun s => s.stk) _ (fun s x => ?_) _ _).trans ?_, (foldl_keep (fun s => s.wke) _ (fun s x => ?_) _ _).trans ?_, (foldl_keep (fun s => s.jig) _ (fun s x => ?_) _ _).trans ?_, (foldl_keep (fun s => s.dio) _ (fun s x => ?_) _ _).trans ?_, (foldl_keep (fun s => s.aio) _ (fun s x => ?_) _ _).trans ?_, (foldl_keep (fun s => s.lpe) _ (fun s x => ?_) _ _).trans ?_, (foldl_keep (fun s => s.can) _ (fun s x => ?_) _ _).trans ?_, (foldl_keep (fun s => s.mac) _ (fun s x => ?_) _ _).trans ?_, (foldl_keep (fun s => s.ptp) _ (fun s x => ?_) _ _).trans ?_, (foldl_keep (fun s => s.rtc) _ (fun s x => ?_) _ _).trans ?_, (foldl_keep (fun s => s.evr) _ (fun s x => ?_) _ _).trans ?_, (foldl_keep (fun s => s.cvu) _ (fun s x => ?_) _ _).trans ?_, (foldl_keep (fun s => s.key) _ (fun s x => ?_) _ _).trans ?_, (foldl_keep (fun s => s.upd) _ (fun s x => ?_) _ _).trans ?_, (foldl_keep (fun s => s.hie) _ (fun s x => ?_) _ _).trans ?_, (foldl_keep (fun s => s.cores) _ (fun s x => ?_) _ _).trans ?_, (foldl_keep (fun s => s.enabled) _ (fun s x => ?_) _ _).trans ?_, (foldl_keep (fun s => s.declared) _ (fun s x => ?_) _ _).trans ?_, (foldl_keep (fun s => s.mem) _ (fun s x => ?_) _ _).trans ?_⟩ <;> (repeat' split) <;> simp only [State.OnlyDvtRioDbg, (writeInput_frame ..), (modSta_frame ..), (writeReply_frame ..), (writeStale_frame ..), ↓(ite_fields ..), ite_self, (foldl_OnlyDvtRioDbg ..), implies_true, and_self])

@[simp] theorem rioInputs_frame (first : Bool) (s : State) :
    (rioInputs first s).OnlyDvtRioDbg s := by
  unfold rioInputs; simp only [State.OnlyDvtRioDbg, (stationInputs_frame ..), ↓(ite_fields ..), ite_self, (foldl_OnlyDvtRioDbg ..), implies_true, and_self]

@[simp] theorem dropMarker_frame (m : Nat) (s : State) :
    (dropMarker m s).OnlyFreshRioMacEvrHie s := by
  unfold dropMarker; simp only [State.OnlyFreshRioMacEvrHie, (abandonMarker_frame ..), ↓(ite_fields ..), ite_self, implies_true, and_self]

@[simp] theorem sendMarker_frame (delays : List (Nat × Nat)) (s : State) (p : Nat × Medium) :
    (sendMarker delays s p).OnlyFreshRioMacEvrHie s := by
  unfold sendMarker; simp only [State.OnlyFreshRioMacEvrHie, (raise_frame ..), (modSta_frame ..), (dropMarker_frame ..), ↓(ite_fields ..), ite_self, (foldl_OnlyFreshRioMacEvrHie ..), implies_true, and_self]

@[simp] theorem rioMarkers_frame (delays : List (Nat × Nat)) (s : State) :
    (rioMarkers delays s).OnlyFreshRioMacEvrHie s := by
  unfold rioMarkers; simp only [State.OnlyFreshRioMacEvrHie, (sendMarker_frame ..), ↓(ite_fields ..), ite_self, (foldl_OnlyFreshRioMacEvrHie ..), implies_true, and_self]

@[simp] theorem armStation_frame (s : State) (r : Rec) :
    (armStation s r).OnlyRio s := by
  unfold armStation; simp only [State.OnlyRio, (modSta_frame ..), ↓(ite_fields ..), ite_self, implies_true, and_self]

@[simp] theorem rioLoad_frame (bound : Nat → Nat) (drawn : Nat) (s : State) :
    (rioLoad bound drawn s).OnlyRio s := by
  unfold rioLoad; simp only [State.OnlyRio, ↓(ite_fields ..), ite_self, (foldl_OnlyRio ..), implies_true, and_self]

/-! ### Can -/

@[simp] theorem modCan_frame (n : Nat) (f : Can → Can) (s : State) :
    (modCan n f s).OnlyCan s := by
  unfold modCan; simp only [State.OnlyCan, ↓(ite_fields ..), ite_self, implies_true, and_self]

@[simp] theorem modBuf_frame (n b : Nat) (f : CanBuf → CanBuf) (s : State) :
    (modBuf n b f s).OnlyCan s := by
  unfold modBuf; simp only [State.OnlyCan, (modCan_frame ..), ↓(ite_fields ..), ite_self, implies_true, and_self]

@[simp] theorem modQueue_frame (n q : Nat) (f : CanQueue → CanQueue) (s : State) :
    (modQueue n q f s).OnlyCan s := by
  unfold modQueue; simp only [State.OnlyCan, (modCan_frame ..), ↓(ite_fields ..), ite_self, implies_true, and_self]

@[simp] theorem canEvent_frame (code n detail : Nat) (s : State) :
    (canEvent code n detail s).OnlyFreshEvrHie s := by
  unfold canEvent; simp only [State.OnlyFreshEvrHie, (raise_frame ..), ↓(ite_fields ..), ite_self, implies_true, and_self]

@[simp] theorem canFlag_frame (n i : Nat) (s : State) :
    (canFlag n i s).OnlyCan s := by
  unfold canFlag; simp only [State.OnlyCan, (modCan_frame ..), ↓(ite_fields ..), ite_self, implies_true, and_self]

@[simp] theorem requestBuf_frame (n : Nat) (s : State) (b : Nat) :
    (requestBuf n s b).OnlyFreshCanEvrHie s := by
  unfold requestBuf; simp only [State.OnlyFreshCanEvrHie, (modBuf_frame ..), (canEvent_frame ..), (canFlag_frame ..), ↓(ite_fields ..), ite_self, implies_true, and_self]

@[simp] theorem cancelBuf_frame (n : Nat) (s : State) (b : Nat) :
    (cancelBuf n s b).OnlyCan s := by
  unfold cancelBuf; simp only [State.OnlyCan, (modBuf_frame ..), ↓(ite_fields ..), ite_self, implies_true, and_self]

@[simp] theorem requestBufs_frame (n v : Nat) (s : State) :
    (requestBufs n v s).OnlyFreshCanEvrHie s := by
  unfold requestBufs; simp only [State.OnlyFreshCanEvrHie, (requestBuf_frame ..), ↓(ite_fields ..), ite_self, (foldl_OnlyFreshCanEvrHie ..), implies_true, and_self]

@[simp] theorem cancelBufs_frame (n v : Nat) (s : State) :
    (cancelBufs n v s).OnlyCan s := by
  unfold cancelBufs; simp only [State.OnlyCan, (cancelBuf_frame ..), ↓(ite_fields ..), ite_self, (foldl_OnlyCan ..), implies_true, and_self]

@[simp] theorem writeBuf_frame (n b : Nat) (f : CanBuf → CanBuf) (s : State) :
    (writeBuf n b f s).OnlyCan s := by
  unfold writeBuf; simp only [State.OnlyCan, (modBuf_frame ..), (canFlag_frame ..), ↓(ite_fields ..), ite_self, implies_true, and_self]

@[simp] theorem canBegin_frame (n b : Nat) (f : CanFrame) (s : State) :
    (canBegin n b f s).OnlyFreshCan s := by
  unfold canBegin; simp only [State.OnlyFreshCan, (modCan_frame ..), ↓(ite_fields ..), ite_self, implies_true, and_self]

@[simp] theorem failActive_frame (n : Nat) (s : State) :
    (failActive n s).OnlyFreshRioCanEvrHie s := by
  unfold failActive; simp only [State.OnlyFreshRioCanEvrHie, (abandonMarker_frame ..), (modCan_frame ..), (modBuf_frame ..), ↓(ite_fields ..), ite_self, implies_true, and_self]; repeat' (first | (simp only [State.OnlyFreshRioCanEvrHie, (abandonMarker_frame ..), (modCan_frame ..), (modBuf_frame ..), ↓(ite_fields ..), ite_self, implies_true, and_self]; done) | split)

@[simp] theorem errorState_frame (n : Nat) (old : Can) (s : State) :
    (errorState n old s).OnlyFreshRioCanEvrHie s := by
  unfold errorState; simp only [State.OnlyFreshRioCanEvrHie, (modCan_frame ..), (canEvent_frame ..), (canFlag_frame ..), (failActive_frame ..), ↓(ite_fields ..), ite_self, implies_true, and_self]

@[simp] theorem ackError_frame (n b : Nat) (s : State) :
    (ackError n b s).OnlyFreshCanEvrHie s := by
  unfold ackError; simp only [State.OnlyFreshCanEvrHie, (modCan_frame ..), (canEvent_frame ..), (canFlag_frame ..), ↓(ite_fields ..), ite_self, implies_true, and_self]

@[simp] theorem txDone_frame (n b stamp : Nat) (s : State) :
    (txDone n b stamp s).OnlyFreshRioCanEvrHie s := by
  unfold txDone; simp only [State.OnlyFreshRioCanEvrHie, (modCan_frame ..), (modBuf_frame ..), (errorState_frame ..), ↓(ite_fields ..), ite_self, implies_true, and_self]

@[simp] theorem recoverWrite_frame (n v : Nat) (s : State) :
    (recoverWrite n v s).OnlyFreshCanEvrHie s := by
  unfold recoverWrite; simp only [State.OnlyFreshCanEvrHie, (raiseIgnored_frame ..), (modCan_frame ..), ↓(ite_fields ..), ite_self, implies_true, and_self]

@[simp] theorem queueDrop_frame (n q : Nat) (s : State) :
    (queueDrop n q s).OnlyFreshCanEvrHie s := by
  unfold queueDrop; simp only [State.OnlyFreshCanEvrHie, (modQueue_frame ..), (canEvent_frame ..), ↓(ite_fields ..), ite_self, implies_true, and_self]

@[simp] theorem queueAppend_frame (n q : Nat) (e : CanEntry) (s : State) :
    (queueAppend n q e s).OnlyCan s := by
  unfold queueAppend; simp only [State.OnlyCan, (modCan_frame ..), ↓(ite_fields ..), ite_self, implies_true, and_self]

@[simp] theorem queueFrame_frame (n q : Nat) (e : CanEntry) (s : State) :
    (queueFrame n q e s).OnlyFreshCanEvrHie s := by
  unfold queueFrame; simp only [State.OnlyFreshCanEvrHie, (modQueue_frame ..), (queueDrop_frame ..), (queueAppend_frame ..), ↓(ite_fields ..), ite_self, implies_true, and_self]

@[simp] theorem duplicateId_frame (n : Nat) (f : CanFrame) (s : State) :
    (duplicateId n f s).OnlyFreshCanEvrHie s := by
  unfold duplicateId; simp only [State.OnlyFreshCanEvrHie, (modCan_frame ..), (canEvent_frame ..), (canFlag_frame ..), ↓(ite_fields ..), ite_self, implies_true, and_self]

@[simp] theorem queueLock_frame (n q : Nat) (holder : Option (Nat × Nat)) (s : State) :
    (queueLock n q holder s).OnlyCan s := by
  unfold queueLock; simp only [State.OnlyCan, (modQueue_frame ..), ↓(ite_fields ..), ite_self, implies_true, and_self]

@[simp] theorem queuePop_frame (n q : Nat) (s : State) :
    (queuePop n q s).OnlyCan s := by
  unfold queuePop; simp only [State.OnlyCan, (modQueue_frame ..), (canFlag_frame ..), (queueAppend_frame ..), ↓(ite_fields ..), ite_self, implies_true, and_self]; repeat' (first | (simp only [State.OnlyCan, (modQueue_frame ..), (canFlag_frame ..), (queueAppend_frame ..), ↓(ite_fields ..), ite_self, implies_true, and_self]; done) | split)

@[simp] theorem queueRelease_frame (n q : Nat) (s : State) :
    (queueRelease n q s).OnlyCan s := by
  unfold queueRelease; simp only [State.OnlyCan, (modQueue_frame ..), (canFlag_frame ..), ↓(ite_fields ..), ite_self, implies_true, and_self]

@[simp] theorem canMarkers_frame (s : State) :
    (canMarkers s).OnlyFreshRioCanEvrHie s := by
  unfold canMarkers; exact foldl_OnlyFreshRioCanEvrHie _ (fun s x => by repeat' (first | (simp only [State.OnlyFreshRioCanEvrHie, (abandonMarker_frame ..), (modCan_frame ..), ↓(ite_fields ..), ite_self, (foldl_OnlyFreshRioCanEvrHie ..), implies_true, and_self]; done) | split)) _ _

end Sys2Proof.Machine
end

