-- ==== Sys2Proof/Laws/KeepsNet.lean ====
section
/-! SUPPORT. What each operation keeps of the commands that wait, memory, the fuses and the least serial: time, Ethernet, the recorder's registers and conversion. -/
namespace Sys2Proof.Machine

/-! ### Time -/

@[simp] theorem modRtc_keeps (f : Rtc → Rtc) (s : State) :
    (modRtc f s).Keeps s := by
  unfold modRtc; simp only [State.Keeps, and_self]

@[simp] theorem applySet_keeps (source new sub was : Nat) (s : State) :
    (applySet source new sub was s).Keeps s := by
  unfold applySet; simp only [State.Keeps, (raise_keeps ..), (modRtc_keeps ..), and_self]

theorem rtcKey_keeps (key : Nat) (f : State → State) (s : State) (hf : ∀ (s : State), (f s).Keeps s) :
    (rtcKey key f s).Keeps s := by
  unfold rtcKey; simp only [State.Keeps, (raiseIgnored_keeps ..), hf, ↓(ite_keeps ..), ↓ite_fuses, ↓ite_floor, ite_self, and_self]

theorem rtcSet_keeps (cmd : Nat) (f : Nat → State → State) (s : State) (hf : ∀ a0 (s : State), (f a0 s).Keeps s) :
    (rtcSet cmd f s).Keeps s := by
  unfold rtcSet; (repeat' split) <;> simp only [State.Keeps, (raise_keeps ..), (modRtc_keeps ..), hf, and_self]

@[simp] theorem setNextEdge_keeps (s : State) :
    (setNextEdge s).Keeps s := by
  unfold setNextEdge; simp only [State.Keeps, (modRtc_keeps ..), (rtcSet_keeps ..), implies_true, and_self]

@[simp] theorem setNow_keeps (s : State) :
    (setNow s).Keeps s := by
  unfold setNow; simp only [State.Keeps, (applySet_keeps ..), (rtcSet_keeps ..), implies_true, and_self]

@[simp] theorem setCancel_keeps (s : State) :
    (setCancel s).Keeps s := by
  unfold setCancel; simp only [State.Keeps, (modRtc_keeps ..), and_self]

@[simp] theorem latchTime_keeps (sub : Nat) (s : State) :
    (latchTime sub s).2.Keeps s := by
  unfold latchTime; simp only [State.Keeps, (modRtc_keeps ..), and_self]

@[simp] theorem clearTamperBak_keeps (s : State) :
    (clearTamperBak s).Keeps s := by
  unfold clearTamperBak; simp only [State.Keeps, and_self]

@[simp] theorem canaryCheck_keeps (s : State) :
    (canaryCheck s).Keeps s := by
  unfold canaryCheck; simp only [State.Keeps, (raise_keeps ..), (modRtc_keeps ..), (clearTamperBak_keeps ..), ↓(ite_keeps ..), ↓ite_fuses, ↓ite_floor, ite_self, and_self]

@[simp] theorem canaryTry_keeps (s : State) :
    (canaryTry s).Keeps s := by
  unfold canaryTry; simp only [State.Keeps, (canaryCheck_keeps ..), ↓(ite_keeps ..), ↓ite_fuses, ↓ite_floor, ite_self, and_self]

@[simp] theorem captureRtc_keeps (s : State) :
    (captureRtc s).Keeps s := by
  unfold captureRtc; simp only [State.Keeps, (modRtc_keeps ..), ↓(ite_keeps ..), ↓ite_fuses, ↓ite_floor, ite_self, and_self]

@[simp] theorem modPtp_keeps (f : Ptp → Ptp) (s : State) :
    (modPtp f s).Keeps s := by
  unfold modPtp; simp only [State.Keeps, and_self]

@[simp] theorem leaveLocked_keeps (t : TickSt) (s : State) :
    (leaveLocked t s).Keeps s := by
  unfold leaveLocked; simp only [State.Keeps, (raise_keeps ..), (notice_keeps ..), (modPtp_keeps ..), and_self]

@[simp] theorem startJoin_keeps (ns since : Nat) (s : State) :
    (startJoin ns since s).Keeps s := by
  unfold startJoin; simp only [State.Keeps, ↓(ite_keeps ..), ite_self, and_self]

@[simp] theorem joinEdge_keeps (s : State) :
    (joinEdge s).Keeps s := by
  unfold joinEdge; (repeat' split) <;> simp only [State.Keeps, (raise_keeps ..), (notice_keeps ..), (aioRebase_keeps ..), (modPtp_keeps ..), and_self]

@[simp] theorem ptpOffset_keeps (off : Int) (freq : Int) (s : State) :
    (ptpOffset off freq s).Keeps s := by
  unfold ptpOffset; simp only [State.Keeps, (raise_keeps ..), (notice_keeps ..), (modPtp_keeps ..), (leaveLocked_keeps ..), ↓(ite_keeps ..), ↓ite_fuses, ↓ite_floor, ite_self, (foldl_keeps ..), implies_true, and_self]; repeat' (first | (simp only [State.Keeps, (raise_keeps ..), (notice_keeps ..), (modPtp_keeps ..), (leaveLocked_keeps ..), ↓(ite_keeps ..), ↓ite_fuses, ↓ite_floor, ite_self, (foldl_keeps ..), implies_true, and_self]; done) | split)

@[simp] theorem slaveAligns_keeps (ns since : Nat) (s : State) :
    (slaveAligns ns since s).Keeps s := by
  unfold slaveAligns; simp only [State.Keeps, (startJoin_keeps ..), ↓(ite_keeps ..), ↓ite_fuses, ↓ite_floor, ite_self, and_self]

@[simp] theorem setRoles_keeps (r : PtpRoles) (ns since : Nat) (s : State) :
    (setRoles r ns since s).Keeps s := by
  unfold setRoles; simp only [State.Keeps, (raise_keeps ..), (modPtp_keeps ..), (leaveLocked_keeps ..), (startJoin_keeps ..), (slaveAligns_keeps ..), ↓(ite_keeps ..), ↓ite_fuses, ↓ite_floor, ite_self, and_self]

@[simp] theorem modPort_keeps (m : Nat) (f : PtpPort → PtpPort) (s : State) :
    (modPort m f s).Keeps s := by
  unfold modPort; simp only [State.Keeps, (modPtp_keeps ..), and_self]

@[simp] theorem ptpMessage_keeps (m : Nat) (g : PtpMessage) (s : State) :
    (ptpMessage m g s).Keeps s := by
  unfold ptpMessage; cases g.roles <;> cases g.delay <;> dsimp only [Option.elim] <;> (repeat' (first | (simp only [State.Keeps, (ptpOffset_keeps ..), (slaveAligns_keeps ..), (setRoles_keeps ..), (modPort_keeps ..), ↓(ite_keeps ..), ↓ite_fuses, ↓ite_floor, ite_self, and_self]; done) | split))

@[simp] theorem modTsq_keeps (m : Nat) (f : Tsq → Tsq) (s : State) :
    (modTsq m f s).Keeps s := by
  unfold modTsq; simp only [State.Keeps, (modPtp_keeps ..), and_self]

@[simp] theorem offerStamp_keeps (m ring idx stamp : Nat) (s : State) :
    (offerStamp m ring idx stamp s).2.Keeps s := by
  unfold offerStamp; (repeat' split) <;> simp only [State.Keeps, (modTsq_keeps ..), and_self]

@[simp] theorem tsqTake_keeps (m : Nat) (s : State) :
    (tsqTake m s).2.Keeps s := by
  unfold tsqTake; (repeat' split) <;> simp only [State.Keeps, (modTsq_keeps ..), and_self]

@[simp] theorem ptpLoad_keeps (s : State) :
    (ptpLoad s).Keeps s := by
  unfold ptpLoad; (repeat' split) <;> simp only [State.Keeps, (modRtc_keeps ..), (modPtp_keeps ..), and_self]

/-! ### Mac -/

@[simp] theorem modMac_keeps (m : Nat) (f : Mac → Mac) (s : State) :
    (modMac m f s).Keeps s := by
  unfold modMac; simp only [State.Keeps, and_self]

@[simp] theorem modRing_keeps (m : Nat) (queue : Bool) (i : Nat) (f : Ring → Ring) (s : State) :
    (modRing m queue i f s).Keeps s := by
  unfold modRing; simp only [State.Keeps, (modMac_keeps ..), and_self]

@[simp] theorem macCount_keeps (m c n : Nat) (s : State) :
    (macCount m c n s).Keeps s := by
  unfold macCount; simp only [State.Keeps, (modMac_keeps ..), and_self]

@[simp] theorem macFlag_keeps (m i : Nat) (s : State) :
    (macFlag m i s).Keeps s := by
  unfold macFlag; simp only [State.Keeps, (modMac_keeps ..), and_self]

@[simp] theorem macEvent_keeps (code m drawer detail : Nat) (s : State) :
    (macEvent code m drawer detail s).Keeps s := by
  unfold macEvent; simp only [State.Keeps, (raise_keeps ..), and_self]

@[simp] theorem ringCfg_keeps (m : Nat) (queue : Bool) (i v : Nat) (s : State) :
    (ringCfg m queue i v s).Keeps s := by
  unfold ringCfg; simp only [State.Keeps, (modMac_keeps ..), (modRing_keeps ..), (macFlag_keeps ..), ↓(ite_keeps ..), ↓ite_fuses, ↓ite_floor, ite_self, and_self]

@[simp] theorem ringBase_keeps (m : Nat) (queue : Bool) (i v : Nat) (s : State) :
    (ringBase m queue i v s).Keeps s := by
  unfold ringBase; simp only [State.Keeps, (modRing_keeps ..), (macFlag_keeps ..), ↓(ite_keeps ..), ↓ite_fuses, ↓ite_floor, ite_self, and_self]

@[simp] theorem stopRing_keeps (m : Nat) (queue : Bool) (i : Nat) (s : State) :
    (stopRing m queue i s).Keeps s := by
  unfold stopRing; simp only [State.Keeps, (modRing_keeps ..), (macEvent_keeps ..), and_self]

@[simp] theorem txWriteBack_keeps (m r desc : Nat) (old : Bool) (status segs attempts : Nat) (noTs : Bool) (stamp : Option Nat) (s : State) :
    (txWriteBack m r desc old status segs attempts noTs stamp s).pending = s.pending ∧ (txWriteBack m r desc old status segs attempts noTs stamp s).key.fuses = s.key.fuses ∧ (txWriteBack m r desc old status segs attempts noTs stamp s).drw.serialFloor = s.drw.serialFloor := by
  unfold txWriteBack; simp only [(dmaAccess_keeps ..), (putBytes_keeps ..), (modRing_keeps ..), (stopRing_keeps ..), ↓(ite_keeps ..), ↓ite_fuses, ↓ite_floor, ite_self, and_self]

@[simp] theorem txRefuseAt_keeps (m r desc : Nat) (old : Bool) (status segs : Nat) (s : State) :
    (txRefuseAt m r desc old status segs s).pending = s.pending ∧ (txRefuseAt m r desc old status segs s).key.fuses = s.key.fuses ∧ (txRefuseAt m r desc old status segs s).drw.serialFloor = s.drw.serialFloor := by
  unfold txRefuseAt; simp only [(macCount_keeps ..), (macEvent_keeps ..), (txWriteBack_keeps ..), ↓(ite_keeps ..), ↓ite_fuses, ↓ite_floor, ite_self, and_self]

@[simp] theorem txRefuse_keeps (m r status : Nat) (s : State) :
    (txRefuse m r status s).pending = s.pending ∧ (txRefuse m r status s).key.fuses = s.key.fuses ∧ (txRefuse m r status s).drw.serialFloor = s.drw.serialFloor := by
  unfold txRefuse; simp only [(txRefuseAt_keeps ..), and_self]

@[simp] theorem flushRing_keeps (fuel m r : Nat) (s : State) :
    (flushRing fuel m r s).pending = s.pending ∧ (flushRing fuel m r s).key.fuses = s.key.fuses ∧ (flushRing fuel m r s).drw.serialFloor = s.drw.serialFloor := by
  induction fuel generalizing s with
  | zero => simp only [flushRing, and_self]
  | succ n ih => rw [flushRing]; split <;> simp only [ih, (txRefuse_keeps ..), and_self]

@[simp] theorem flushLink_keeps (m : Nat) (s : State) :
    (flushLink m s).pending = s.pending ∧ (flushLink m s).key.fuses = s.key.fuses ∧ (flushLink m s).drw.serialFloor = s.drw.serialFloor := by
  unfold flushLink; simp only [(flushRing_keeps ..), ↓(ite_keeps ..), ↓ite_fuses, ↓ite_floor, ite_self, (foldl_pending ..), (foldl_fuses ..), (foldl_floor ..), implies_true, and_self]

@[simp] theorem ringTail_keeps (m : Nat) (queue : Bool) (i v : Nat) (s : State) :
    (ringTail m queue i v s).pending = s.pending ∧ (ringTail m queue i v s).key.fuses = s.key.fuses ∧ (ringTail m queue i v s).drw.serialFloor = s.drw.serialFloor := by
  unfold ringTail; simp only [(modRing_keeps ..), (macFlag_keeps ..), (flushLink_keeps ..), ↓(ite_keeps ..), ↓ite_fuses, ↓ite_floor, ite_self, and_self]

@[simp] theorem startRing_keeps (m r total : Nat) (tsReq : Bool) (frame : List Byte) (s : State) :
    (startRing m r total tsReq frame s).Keeps s := by
  unfold startRing; simp only [State.Keeps, (modMac_keeps ..), and_self]

@[simp] theorem startPlain_keeps (m r buf len : Nat) (tsReq : Bool) (s : State) :
    (startPlain m r buf len tsReq s).pending = s.pending ∧ (startPlain m r buf len tsReq s).key.fuses = s.key.fuses ∧ (startPlain m r buf len tsReq s).drw.serialFloor = s.drw.serialFloor := by
  unfold startPlain; (repeat' split) <;> simp only [(dmaAccess_keeps ..), (modRing_keeps ..), (txRefuse_keeps ..), (startRing_keeps ..), ↓(ite_keeps ..), ↓ite_fuses, ↓ite_floor, ite_self, and_self]

@[simp] theorem startTso_keeps (m r buf len w2 : Nat) (tsReq : Bool) (s : State) :
    (startTso m r buf len w2 tsReq s).pending = s.pending ∧ (startTso m r buf len w2 tsReq s).key.fuses = s.key.fuses ∧ (startTso m r buf len w2 tsReq s).drw.serialFloor = s.drw.serialFloor := by
  unfold startTso; simp only [(dmaAccess_keeps ..), (modRing_keeps ..), (txRefuse_keeps ..), (startRing_keeps ..), ↓(ite_keeps ..), ↓ite_fuses, ↓ite_floor, ite_self, and_self]

@[simp] theorem takeRing_keeps (m r : Nat) (s : State) :
    (takeRing m r s).pending = s.pending ∧ (takeRing m r s).key.fuses = s.key.fuses ∧ (takeRing m r s).drw.serialFloor = s.drw.serialFloor := by
  unfold takeRing; simp only [(dmaAccess_keeps ..), (stopRing_keeps ..), (txRefuse_keeps ..), (startPlain_keeps ..), (startTso_keeps ..), ↓(ite_keeps ..), ↓ite_fuses, ↓ite_floor, ite_self, and_self]

@[simp] theorem startFrame_keeps (m : Nat) (s : State) :
    (startFrame m s).pending = s.pending ∧ (startFrame m s).key.fuses = s.key.fuses ∧ (startFrame m s).drw.serialFloor = s.drw.serialFloor := by
  unfold startFrame; simp only [State.Keeps, (modMac_keeps ..), (takeRing_keeps ..), ↓(ite_keeps ..), ↓ite_fuses, ↓ite_floor, ite_self, (foldl_pending ..), (foldl_mem ..), (foldl_fuses ..), (foldl_floor ..), implies_true, and_self]; repeat' (first | (simp only [State.Keeps, (modMac_keeps ..), (takeRing_keeps ..), ↓(ite_keeps ..), ↓ite_fuses, ↓ite_floor, ite_self, (foldl_pending ..), (foldl_mem ..), (foldl_fuses ..), (foldl_floor ..), implies_true, and_self]; done) | split)

@[simp] theorem ringSent_keeps (m r : Nat) (t : MacTx) (stamp : Nat) (s : State) :
    (ringSent m r t stamp s).pending = s.pending ∧ (ringSent m r t stamp s).key.fuses = s.key.fuses ∧ (ringSent m r t stamp s).drw.serialFloor = s.drw.serialFloor := by
  unfold ringSent; simp only [(offerStamp_keeps ..), (modRing_keeps ..), (macCount_keeps ..), (macEvent_keeps ..), (txWriteBack_keeps ..), (txRefuseAt_keeps ..), ↓(ite_keeps ..), ↓ite_fuses, ↓ite_floor, ite_self, and_self]

@[simp] theorem setTx_keeps (m : Nat) (t : MacTx) (new : Option MacTx) (s : State) :
    (setTx m t new s).Keeps s := by
  unfold setTx; simp only [State.Keeps, (modMac_keeps ..), and_self]

@[simp] theorem txFail_keeps (m status attempts : Nat) (t : MacTx) (s : State) :
    (txFail m status attempts t s).pending = s.pending ∧ (txFail m status attempts t s).key.fuses = s.key.fuses ∧ (txFail m status attempts t s).drw.serialFloor = s.drw.serialFloor := by
  unfold txFail; (repeat' split) <;> simp only [(macCount_keeps ..), (macEvent_keeps ..), (txWriteBack_keeps ..), (setTx_keeps ..), and_self]

@[simp] theorem cycleStart_keeps (m leftNs : Nat) (s : State) :
    (cycleStart m leftNs s).Keeps s := by
  unfold cycleStart; simp only [State.Keeps, (modMac_keeps ..), and_self]

@[simp] theorem noDescriptor_keeps (m q : Nat) (s : State) :
    (noDescriptor m q s).Keeps s := by
  unfold noDescriptor; simp only [State.Keeps, (modRing_keeps ..), (macEvent_keeps ..), and_self]

@[simp] theorem dropFrame_keeps (m q : Nat) (s : State) :
    (dropFrame m q s).Keeps s := by
  unfold dropFrame; simp only [State.Keeps, (modRing_keeps ..), and_self]

@[simp] theorem deliverFrame_keeps (m q hit steer : Nat) (f : List Byte) (stamp : Nat) (s : State) :
    (deliverFrame m q hit steer f stamp s).pending = s.pending ∧ (deliverFrame m q hit steer f stamp s).key.fuses = s.key.fuses ∧ (deliverFrame m q hit steer f stamp s).drw.serialFloor = s.drw.serialFloor := by
  unfold deliverFrame; simp only [(dmaAccess_keeps ..), (putBytes_keeps ..), (modRing_keeps ..), (macCount_keeps ..), (stopRing_keeps ..), (noDescriptor_keeps ..), (dropFrame_keeps ..), ↓(ite_keeps ..), ↓ite_fuses, ↓ite_floor, ite_self, and_self]

@[simp] theorem dispatchFrame_keeps (m q hit : Nat) (f : List Byte) (stamp : Nat) (s : State) :
    (dispatchFrame m q hit f stamp s).pending = s.pending ∧ (dispatchFrame m q hit f stamp s).key.fuses = s.key.fuses ∧ (dispatchFrame m q hit f stamp s).drw.serialFloor = s.drw.serialFloor := by
  unfold dispatchFrame; simp only [(deliverFrame_keeps ..), and_self]

@[simp] theorem controlFrame_keeps (m : Nat) (f : List Byte) (s : State) :
    (controlFrame m f s).Keeps s := by
  unfold controlFrame; simp only [State.Keeps, (modMac_keeps ..), (macCount_keeps ..), (macFlag_keeps ..), (macEvent_keeps ..), ↓(ite_keeps ..), ↓ite_fuses, ↓ite_floor, ite_self, and_self]

@[simp] theorem classifyFrame_keeps (m : Nat) (f : List Byte) (stamp : Nat) (s : State) :
    (classifyFrame m f stamp s).pending = s.pending ∧ (classifyFrame m f stamp s).key.fuses = s.key.fuses ∧ (classifyFrame m f stamp s).drw.serialFloor = s.drw.serialFloor := by
  unfold classifyFrame; (repeat' split) <;> simp only [(replyFrame_keeps ..), (macCount_keeps ..), (dispatchFrame_keeps ..), (controlFrame_keeps ..), and_self]

@[simp] theorem receiveFrame_keeps (m : Nat) (f : List Byte) (len : Nat) (fcsOk whole overflow : Bool) (stamp : Nat) (s : State) :
    (receiveFrame m f len fcsOk whole overflow stamp s).pending = s.pending ∧ (receiveFrame m f len fcsOk whole overflow stamp s).key.fuses = s.key.fuses ∧ (receiveFrame m f len fcsOk whole overflow stamp s).drw.serialFloor = s.drw.serialFloor := by
  unfold receiveFrame; simp only [(macCount_keeps ..), (macFlag_keeps ..), (macEvent_keeps ..), (classifyFrame_keeps ..), ↓(ite_keeps ..), ↓ite_fuses, ↓ite_floor, ite_self, and_self]

@[simp] theorem noteFill_keeps (m fill : Nat) (s : State) :
    (noteFill m fill s).Keeps s := by
  unfold noteFill; simp only [State.Keeps, (modMac_keeps ..), and_self]

@[simp] theorem beaconConflict_keeps (m : Nat) (s : State) :
    (beaconConflict m s).Keeps s := by
  unfold beaconConflict; simp only [State.Keeps, (modMac_keeps ..), (macFlag_keeps ..), (macEvent_keeps ..), ↓(ite_keeps ..), ↓ite_fuses, ↓ite_floor, ite_self, and_self]

@[simp] theorem sendPause_keeps (m quanta : Nat) (s : State) :
    (sendPause m quanta s).Keeps s := by
  unfold sendPause; simp only [State.Keeps, (modMac_keeps ..), (macCount_keeps ..), (macFlag_keeps ..), ↓(ite_keeps ..), ↓ite_fuses, ↓ite_floor, ite_self, and_self]

@[simp] theorem dropLine_keeps (m : Nat) (t : Option MacTx) (s : State) :
    (dropLine m t s).pending = s.pending ∧ (dropLine m t s).key.fuses = s.key.fuses ∧ (dropLine m t s).drw.serialFloor = s.drw.serialFloor := by
  unfold dropLine; (repeat' split) <;> simp only [(txRefuseAt_keeps ..), and_self]

/-! ### Evr -/

@[simp] theorem modEvr_keeps (f : Evr → Evr) (s : State) :
    (modEvr f s).Keeps s := by
  unfold modEvr; simp only [State.Keeps, and_self]

@[simp] theorem clearRecords_keeps (s : State) :
    (clearRecords s).Keeps s := by
  unfold clearRecords; simp only [State.Keeps, (raise_keeps ..), (modEvr_keeps ..), ↓(ite_keeps ..), ↓ite_fuses, ↓ite_floor, ite_self, and_self]

@[simp] theorem clearWrite_keeps (v : Nat) (s : State) :
    (clearWrite v s).Keeps s := by
  unfold clearWrite; simp only [State.Keeps, (raiseIgnored_keeps ..), (clearRecords_keeps ..), ↓(ite_keeps ..), ↓ite_fuses, ↓ite_floor, ite_self, and_self]

/-! ### Cvu -/

@[simp] theorem modCvu_keeps (n : Nat) (f : Cvu → Cvu) (s : State) :
    (modCvu n f s).Keeps s := by
  unfold modCvu; simp only [State.Keeps, and_self]

@[simp] theorem cvuWrite_keeps (n : Nat) (f : Cvu → Cvu) (s : State) :
    (cvuWrite n f s).Keeps s := by
  unfold cvuWrite; simp only [State.Keeps, (modCvu_keeps ..), ↓(ite_keeps ..), ↓ite_fuses, ↓ite_floor, ite_self, and_self]

@[simp] theorem startMode_keeps (n mode : Nat) (s : State) :
    (startMode n mode s).Keeps s := by
  unfold startMode; simp only [State.Keeps, (cvuWrite_keeps ..), and_self]

@[simp] theorem jobRefused_keeps (unit : Nat) (owner : Option Nat) (u : Cvu) (data written : List Byte) (bad : Nat) (write : Bool) (s : State) :
    (jobRefused unit owner u data written bad write s).pending = s.pending ∧ (jobRefused unit owner u data written bad write s).key.fuses = s.key.fuses ∧ (jobRefused unit owner u data written bad write s).drw.serialFloor = s.drw.serialFloor := by
  unfold jobRefused; simp only [(dmaAccess_keeps ..), (putBytes_keeps ..), (modCvu_keeps ..), ↓(ite_keeps ..), ↓ite_fuses, ↓ite_floor, ite_self, and_self]

@[simp] theorem finishJob_keeps (n : Nat) (s : State) :
    (finishJob n s).pending = s.pending ∧ (finishJob n s).key.fuses = s.key.fuses ∧ (finishJob n s).drw.serialFloor = s.drw.serialFloor := by
  unfold finishJob; simp only [State.Keeps, (putBytes_keeps ..), (modCvu_keeps ..), (jobRefused_keeps ..), ↓(ite_keeps ..), ↓ite_fuses, ↓ite_floor, ite_self, (foldl_pending ..), (foldl_mem ..), (foldl_fuses ..), (foldl_floor ..), implies_true, and_self]; repeat' (first | (simp only [State.Keeps, (putBytes_keeps ..), (modCvu_keeps ..), (jobRefused_keeps ..), ↓(ite_keeps ..), ↓ite_fuses, ↓ite_floor, ite_self, (foldl_pending ..), (foldl_mem ..), (foldl_fuses ..), (foldl_floor ..), implies_true, and_self]; done) | split)

end Sys2Proof.Machine
end

