-- ==== Sys2Proof/Laws/FramesNet.lean ====
section
/-! SUPPORT. The frame of each operation, the blocks of the state it leaves as they were: time, Ethernet, the recorder's registers and conversion. -/
set_option linter.unusedSimpArgs false
namespace Sys2Proof.Machine

/-! ### Time -/

@[simp] theorem modRtc_frame (f : Rtc → Rtc) (s : State) :
    (modRtc f s).OnlyRtc s := by
  unfold modRtc; simp only [State.OnlyRtc, ↓(ite_fields ..), ite_self, implies_true, and_self]

@[simp] theorem applySet_frame (source new sub was : Nat) (s : State) :
    (applySet source new sub was s).OnlyFreshRtcEvrHie s := by
  unfold applySet; simp only [State.OnlyFreshRtcEvrHie, (raise_frame ..), (modRtc_frame ..), ↓(ite_fields ..), ite_self, implies_true, and_self]

theorem rtcKey_frame (key : Nat) (f : State → State) (s : State) (hf : ∀ (s : State), (f s).OnlyFreshEvrHie s) :
    (rtcKey key f s).OnlyFreshEvrHie s := by
  unfold rtcKey; simp only [State.OnlyFreshEvrHie, (raiseIgnored_frame ..), hf, ↓(ite_fields ..), ite_self, and_self]

theorem rtcSet_frame (cmd : Nat) (f : Nat → State → State) (s : State) (hf : ∀ a0 (s : State), (f a0 s).OnlyFreshRtcEvrHie s) :
    (rtcSet cmd f s).OnlyFreshRtcEvrHie s := by
  unfold rtcSet; (repeat' split) <;> simp only [State.OnlyFreshRtcEvrHie, (raise_frame ..), (modRtc_frame ..), hf, ↓(ite_fields ..), ite_self, implies_true, and_self]

@[simp] theorem setNextEdge_frame (s : State) :
    (setNextEdge s).OnlyFreshRtcEvrHie s := by
  unfold setNextEdge; simp only [State.OnlyFreshRtcEvrHie, (modRtc_frame ..), rtcSet, (raise_frame ..), ↓(ite_fields ..), ite_self, implies_true, and_self]; repeat' (first | (simp only [State.OnlyFreshRtcEvrHie, (modRtc_frame ..), rtcSet, (raise_frame ..), ↓(ite_fields ..), ite_self, implies_true, and_self]; done) | split)

@[simp] theorem setNow_frame (s : State) :
    (setNow s).OnlyFreshRtcEvrHie s := by
  unfold setNow; simp only [State.OnlyFreshRtcEvrHie, (applySet_frame ..), rtcSet, (raise_frame ..), (modRtc_frame ..), ↓(ite_fields ..), ite_self, implies_true, and_self]; repeat' (first | (simp only [State.OnlyFreshRtcEvrHie, (applySet_frame ..), rtcSet, (raise_frame ..), (modRtc_frame ..), ↓(ite_fields ..), ite_self, implies_true, and_self]; done) | split)

@[simp] theorem setCancel_frame (s : State) :
    (setCancel s).OnlyRtc s := by
  unfold setCancel; simp only [State.OnlyRtc, (modRtc_frame ..), ↓(ite_fields ..), ite_self, implies_true, and_self]

@[simp] theorem latchTime_frame (sub : Nat) (s : State) :
    (latchTime sub s).2.OnlyRtc s := by
  unfold latchTime; simp only [State.OnlyRtc, (modRtc_frame ..), ↓(ite_fields ..), ite_self, implies_true, and_self]

@[simp] theorem clearTamperBak_frame (s : State) :
    (clearTamperBak s).OnlyKey s := by
  unfold clearTamperBak; simp only [State.OnlyKey, ↓(ite_fields ..), ite_self, implies_true, and_self]

@[simp] theorem canaryCheck_frame (s : State) :
    (canaryCheck s).OnlyFreshSysRtcEvrKeyHie s := by
  unfold canaryCheck; simp only [State.OnlyFreshSysRtcEvrKeyHie, (raise_frame ..), (modRtc_frame ..), (clearTamperBak_frame ..), ↓(ite_fields ..), ite_self, and_self]

@[simp] theorem canaryTry_frame (s : State) :
    (canaryTry s).OnlyFreshSysRtcEvrKeyHie s := by
  unfold canaryTry; simp only [State.OnlyFreshSysRtcEvrKeyHie, (canaryCheck_frame ..), ↓(ite_fields ..), ite_self, and_self]

@[simp] theorem captureRtc_frame (s : State) :
    (captureRtc s).OnlyFreshRtc s := by
  unfold captureRtc; simp only [State.OnlyFreshRtc, (modRtc_frame ..), ↓(ite_fields ..), ite_self, and_self]

@[simp] theorem modPtp_frame (f : Ptp → Ptp) (s : State) :
    (modPtp f s).OnlyPtp s := by
  unfold modPtp; simp only [State.OnlyPtp, ↓(ite_fields ..), ite_self, implies_true, and_self]

@[simp] theorem leaveLocked_frame (t : TickSt) (s : State) :
    (leaveLocked t s).OnlyFreshPtpEvrHie s := by
  unfold leaveLocked; simp only [State.OnlyFreshPtpEvrHie, (raise_frame ..), (notice_frame ..), (modPtp_frame ..), ↓(ite_fields ..), ite_self, implies_true, and_self]

@[simp] theorem startJoin_frame (ns since : Nat) (s : State) :
    (startJoin ns since s).OnlyStkPtp s := by
  unfold startJoin; simp only [State.OnlyStkPtp, ↓(ite_fields ..), ite_self, and_self]

@[simp] theorem joinEdge_frame (s : State) :
    (joinEdge s).OnlyFreshStkAioPtpEvrHie s := by
  unfold joinEdge; (repeat' split) <;> simp only [State.OnlyFreshStkAioPtpEvrHie, (raise_frame ..), (notice_frame ..), (aioRebase_frame ..), (modPtp_frame ..), ↓(ite_fields ..), ite_self, implies_true, and_self]

@[simp] theorem ptpOffset_frame (off : Int) (freq : Int) (s : State) :
    (ptpOffset off freq s).OnlyFreshPtpEvrHie s := by
  unfold ptpOffset; simp only [State.OnlyFreshPtpEvrHie, (raise_frame ..), (notice_frame ..), (modPtp_frame ..), (leaveLocked_frame ..), ↓(ite_fields ..), ite_self, implies_true, and_self]; repeat' (first | (simp only [State.OnlyFreshPtpEvrHie, (raise_frame ..), (notice_frame ..), (modPtp_frame ..), (leaveLocked_frame ..), ↓(ite_fields ..), ite_self, implies_true, and_self]; done) | split)

@[simp] theorem slaveAligns_frame (ns since : Nat) (s : State) :
    (slaveAligns ns since s).OnlyStkPtp s := by
  unfold slaveAligns; simp only [State.OnlyStkPtp, (startJoin_frame ..), ↓(ite_fields ..), ite_self, and_self]

@[simp] theorem setRoles_frame (r : PtpRoles) (ns since : Nat) (s : State) :
    (setRoles r ns since s).OnlyFreshStkPtpEvrHie s := by
  unfold setRoles; simp only [State.OnlyFreshStkPtpEvrHie, (raise_frame ..), (modPtp_frame ..), (leaveLocked_frame ..), (startJoin_frame ..), (slaveAligns_frame ..), ↓(ite_fields ..), ite_self, and_self]

@[simp] theorem modPort_frame (m : Nat) (f : PtpPort → PtpPort) (s : State) :
    (modPort m f s).OnlyPtp s := by
  unfold modPort; simp only [State.OnlyPtp, (modPtp_frame ..), ↓(ite_fields ..), ite_self, implies_true, and_self]

@[simp] theorem ptpMessage_frame (m : Nat) (g : PtpMessage) (s : State) :
    (ptpMessage m g s).OnlyFreshStkPtpEvrHie s := by
  unfold ptpMessage; cases g.roles <;> cases g.delay <;> dsimp only [Option.elim] <;> (repeat' (first | (simp only [State.OnlyFreshStkPtpEvrHie, (ptpOffset_frame ..), (slaveAligns_frame ..), (setRoles_frame ..), (modPort_frame ..), ↓(ite_fields ..), ite_self, and_self]; done) | split))

@[simp] theorem modTsq_frame (m : Nat) (f : Tsq → Tsq) (s : State) :
    (modTsq m f s).OnlyPtp s := by
  unfold modTsq; simp only [State.OnlyPtp, (modPtp_frame ..), ↓(ite_fields ..), ite_self, implies_true, and_self]

@[simp] theorem offerStamp_frame (m ring idx stamp : Nat) (s : State) :
    (offerStamp m ring idx stamp s).2.OnlyPtp s := by
  unfold offerStamp; (repeat' split) <;> simp only [State.OnlyPtp, (modTsq_frame ..), ↓(ite_fields ..), ite_self, implies_true, and_self]

@[simp] theorem tsqTake_frame (m : Nat) (s : State) :
    (tsqTake m s).2.OnlyPtp s := by
  unfold tsqTake; (repeat' split) <;> simp only [State.OnlyPtp, (modTsq_frame ..), ↓(ite_fields ..), ite_self, implies_true, and_self]

@[simp] theorem ptpLoad_frame (s : State) :
    (ptpLoad s).OnlyPtpRtc s := by
  unfold ptpLoad; (repeat' split) <;> simp only [State.OnlyPtpRtc, (modRtc_frame ..), (modPtp_frame ..), ↓(ite_fields ..), ite_self, implies_true, and_self]

/-! ### Mac -/

@[simp] theorem modMac_frame (m : Nat) (f : Mac → Mac) (s : State) :
    (modMac m f s).OnlyMac s := by
  unfold modMac; simp only [State.OnlyMac, ↓(ite_fields ..), ite_self, implies_true, and_self]

@[simp] theorem modRing_frame (m : Nat) (queue : Bool) (i : Nat) (f : Ring → Ring) (s : State) :
    (modRing m queue i f s).OnlyMac s := by
  unfold modRing; simp only [State.OnlyMac, (modMac_frame ..), ↓(ite_fields ..), ite_self, implies_true, and_self]

@[simp] theorem macCount_frame (m c n : Nat) (s : State) :
    (macCount m c n s).OnlyMac s := by
  unfold macCount; simp only [State.OnlyMac, (modMac_frame ..), ↓(ite_fields ..), ite_self, implies_true, and_self]

@[simp] theorem macFlag_frame (m i : Nat) (s : State) :
    (macFlag m i s).OnlyMac s := by
  unfold macFlag; simp only [State.OnlyMac, (modMac_frame ..), ↓(ite_fields ..), ite_self, implies_true, and_self]

@[simp] theorem macEvent_frame (code m drawer detail : Nat) (s : State) :
    (macEvent code m drawer detail s).OnlyFreshEvrHie s := by
  unfold macEvent; simp only [State.OnlyFreshEvrHie, (raise_frame ..), ↓(ite_fields ..), ite_self, implies_true, and_self]

@[simp] theorem ringCfg_frame (m : Nat) (queue : Bool) (i v : Nat) (s : State) :
    (ringCfg m queue i v s).OnlyMac s := by
  unfold ringCfg; simp only [State.OnlyMac, (modMac_frame ..), (modRing_frame ..), (macFlag_frame ..), ↓(ite_fields ..), ite_self, and_self]

@[simp] theorem ringBase_frame (m : Nat) (queue : Bool) (i v : Nat) (s : State) :
    (ringBase m queue i v s).OnlyMac s := by
  unfold ringBase; simp only [State.OnlyMac, (modRing_frame ..), (macFlag_frame ..), ↓(ite_fields ..), ite_self, and_self]

@[simp] theorem stopRing_frame (m : Nat) (queue : Bool) (i : Nat) (s : State) :
    (stopRing m queue i s).OnlyFreshMacEvrHie s := by
  unfold stopRing; simp only [State.OnlyFreshMacEvrHie, (modRing_frame ..), (macEvent_frame ..), ↓(ite_fields ..), ite_self, implies_true, and_self]

@[simp] theorem txWriteBack_frame (m r desc : Nat) (old : Bool) (status segs attempts : Nat) (noTs : Bool) (stamp : Option Nat) (s : State) :
    (txWriteBack m r desc old status segs attempts noTs stamp s).OnlyFreshDrwWkeMacEvrHieMem s := by
  unfold txWriteBack; simp only [State.OnlyFreshDrwWkeMacEvrHieMem, (dmaAccess_frame ..), (putBytes_frame ..), (modRing_frame ..), (stopRing_frame ..), ↓(ite_fields ..), ite_self, and_self]

@[simp] theorem txRefuseAt_frame (m r desc : Nat) (old : Bool) (status segs : Nat) (s : State) :
    (txRefuseAt m r desc old status segs s).OnlyFreshDrwWkeMacEvrHieMem s := by
  unfold txRefuseAt; simp only [State.OnlyFreshDrwWkeMacEvrHieMem, (macCount_frame ..), (macEvent_frame ..), (txWriteBack_frame ..), ↓(ite_fields ..), ite_self, and_self]

@[simp] theorem txRefuse_frame (m r status : Nat) (s : State) :
    (txRefuse m r status s).OnlyFreshDrwWkeMacEvrHieMem s := by
  unfold txRefuse; simp only [State.OnlyFreshDrwWkeMacEvrHieMem, (txRefuseAt_frame ..), ↓(ite_fields ..), ite_self, implies_true, and_self]

@[simp] theorem flushRing_frame (fuel m r : Nat) (s : State) :
    (flushRing fuel m r s).OnlyFreshDrwWkeMacEvrHieMem s := by
  induction fuel generalizing s with
  | zero => simp only [flushRing, State.OnlyFreshDrwWkeMacEvrHieMem, and_self]
  | succ n ih => rw [flushRing]; split <;> simp only [State.OnlyFreshDrwWkeMacEvrHieMem, ih, (txRefuse_frame ..), and_self]

@[simp] theorem flushLink_frame (m : Nat) (s : State) :
    (flushLink m s).OnlyFreshDrwWkeMacEvrHieMem s := by
  unfold flushLink; simp only [State.OnlyFreshDrwWkeMacEvrHieMem, (flushRing_frame ..), ↓(ite_fields ..), ite_self, (foldl_OnlyFreshDrwWkeMacEvrHieMem ..), implies_true, and_self]

@[simp] theorem ringTail_frame (m : Nat) (queue : Bool) (i v : Nat) (s : State) :
    (ringTail m queue i v s).OnlyFreshDrwWkeMacEvrHieMem s := by
  unfold ringTail; simp only [State.OnlyFreshDrwWkeMacEvrHieMem, (modRing_frame ..), (macFlag_frame ..), (flushLink_frame ..), ↓(ite_fields ..), ite_self, and_self]

@[simp] theorem startRing_frame (m r total : Nat) (tsReq : Bool) (frame : List Byte) (s : State) :
    (startRing m r total tsReq frame s).OnlyMac s := by
  unfold startRing; simp only [State.OnlyMac, (modMac_frame ..), ↓(ite_fields ..), ite_self, implies_true, and_self]

@[simp] theorem startPlain_frame (m r buf len : Nat) (tsReq : Bool) (s : State) :
    (startPlain m r buf len tsReq s).OnlyFreshDrwWkeMacEvrHieMem s := by
  unfold startPlain; (repeat' split) <;> simp only [State.OnlyFreshDrwWkeMacEvrHieMem, (dmaAccess_frame ..), (modRing_frame ..), (txRefuse_frame ..), (startRing_frame ..), ↓(ite_fields ..), ite_self, and_self]

@[simp] theorem startTso_frame (m r buf len w2 : Nat) (tsReq : Bool) (s : State) :
    (startTso m r buf len w2 tsReq s).OnlyFreshDrwWkeMacEvrHieMem s := by
  unfold startTso; simp only [State.OnlyFreshDrwWkeMacEvrHieMem, (dmaAccess_frame ..), (modRing_frame ..), (txRefuse_frame ..), (startRing_frame ..), ↓(ite_fields ..), ite_self, and_self]

@[simp] theorem takeRing_frame (m r : Nat) (s : State) :
    (takeRing m r s).OnlyFreshDrwWkeMacEvrHieMem s := by
  unfold takeRing; simp only [State.OnlyFreshDrwWkeMacEvrHieMem, (dmaAccess_frame ..), (stopRing_frame ..), (txRefuse_frame ..), (startPlain_frame ..), (startTso_frame ..), ↓(ite_fields ..), ite_self, and_self]

@[simp] theorem startFrame_frame (m : Nat) (s : State) :
    (startFrame m s).OnlyFreshDrwWkeMacEvrHieMem s := by
  unfold startFrame; simp only [State.OnlyFreshDrwWkeMacEvrHieMem, (modMac_frame ..), (takeRing_frame ..), ↓(ite_fields ..), ite_self, implies_true, and_self]; repeat' (first | (simp only [State.OnlyFreshDrwWkeMacEvrHieMem, (modMac_frame ..), (takeRing_frame ..), ↓(ite_fields ..), ite_self, implies_true, and_self]; done) | split)

@[simp] theorem ringSent_frame (m r : Nat) (t : MacTx) (stamp : Nat) (s : State) :
    (ringSent m r t stamp s).OnlyFreshDrwWkeMacPtpEvrHieMem s := by
  unfold ringSent; simp only [State.OnlyFreshDrwWkeMacPtpEvrHieMem, (offerStamp_frame ..), (modRing_frame ..), (macCount_frame ..), (macEvent_frame ..), (txWriteBack_frame ..), (txRefuseAt_frame ..), ↓(ite_fields ..), ite_self, and_self]

@[simp] theorem setTx_frame (m : Nat) (t : MacTx) (new : Option MacTx) (s : State) :
    (setTx m t new s).OnlyMac s := by
  unfold setTx; simp only [State.OnlyMac, (modMac_frame ..), ↓(ite_fields ..), ite_self, implies_true, and_self]

@[simp] theorem txFail_frame (m status attempts : Nat) (t : MacTx) (s : State) :
    (txFail m status attempts t s).OnlyFreshDrwWkeMacEvrHieMem s := by
  unfold txFail; (repeat' split) <;> simp only [State.OnlyFreshDrwWkeMacEvrHieMem, (macCount_frame ..), (macEvent_frame ..), (txWriteBack_frame ..), (setTx_frame ..), ↓(ite_fields ..), ite_self, implies_true, and_self]

@[simp] theorem cycleStart_frame (m leftNs : Nat) (s : State) :
    (cycleStart m leftNs s).OnlyMac s := by
  unfold cycleStart; simp only [State.OnlyMac, (modMac_frame ..), ↓(ite_fields ..), ite_self, implies_true, and_self]

@[simp] theorem noDescriptor_frame (m q : Nat) (s : State) :
    (noDescriptor m q s).OnlyFreshMacEvrHie s := by
  unfold noDescriptor; simp only [State.OnlyFreshMacEvrHie, (modRing_frame ..), (macEvent_frame ..), ↓(ite_fields ..), ite_self, implies_true, and_self]

@[simp] theorem dropFrame_frame (m q : Nat) (s : State) :
    (dropFrame m q s).OnlyMac s := by
  unfold dropFrame; simp only [State.OnlyMac, (modRing_frame ..), ↓(ite_fields ..), ite_self, implies_true, and_self]

@[simp] theorem deliverFrame_frame (m q hit steer : Nat) (f : List Byte) (stamp : Nat) (s : State) :
    (deliverFrame m q hit steer f stamp s).OnlyFreshDrwWkeMacEvrHieMem s := by
  unfold deliverFrame; simp only [State.OnlyFreshDrwWkeMacEvrHieMem, (dmaAccess_frame ..), (putBytes_frame ..), (modRing_frame ..), (macCount_frame ..), (stopRing_frame ..), (noDescriptor_frame ..), (dropFrame_frame ..), ↓(ite_fields ..), ite_self, and_self]

@[simp] theorem dispatchFrame_frame (m q hit : Nat) (f : List Byte) (stamp : Nat) (s : State) :
    (dispatchFrame m q hit f stamp s).OnlyFreshDrwWkeMacEvrHieMem s := by
  unfold dispatchFrame; simp only [State.OnlyFreshDrwWkeMacEvrHieMem, (deliverFrame_frame ..), ↓(ite_fields ..), ite_self, implies_true, and_self]

@[simp] theorem controlFrame_frame (m : Nat) (f : List Byte) (s : State) :
    (controlFrame m f s).OnlyFreshMacEvrHie s := by
  unfold controlFrame; simp only [State.OnlyFreshMacEvrHie, (modMac_frame ..), (macCount_frame ..), (macFlag_frame ..), (macEvent_frame ..), ↓(ite_fields ..), ite_self, and_self]

@[simp] theorem classifyFrame_frame (m : Nat) (f : List Byte) (stamp : Nat) (s : State) :
    (classifyFrame m f stamp s).OnlyFreshDrwWkeRioMacEvrHieMem s := by
  unfold classifyFrame; (repeat' split) <;> simp only [State.OnlyFreshDrwWkeRioMacEvrHieMem, (replyFrame_frame ..), (macCount_frame ..), (dispatchFrame_frame ..), (controlFrame_frame ..), ↓(ite_fields ..), ite_self, implies_true, and_self]

@[simp] theorem receiveFrame_frame (m : Nat) (f : List Byte) (len : Nat) (fcsOk whole overflow : Bool) (stamp : Nat) (s : State) :
    (receiveFrame m f len fcsOk whole overflow stamp s).OnlyFreshDrwWkeRioMacEvrHieMem s := by
  unfold receiveFrame; simp only [State.OnlyFreshDrwWkeRioMacEvrHieMem, (macCount_frame ..), (macFlag_frame ..), (macEvent_frame ..), (classifyFrame_frame ..), ↓(ite_fields ..), ite_self, and_self]

@[simp] theorem noteFill_frame (m fill : Nat) (s : State) :
    (noteFill m fill s).OnlyMac s := by
  unfold noteFill; simp only [State.OnlyMac, (modMac_frame ..), ↓(ite_fields ..), ite_self, implies_true, and_self]

@[simp] theorem beaconConflict_frame (m : Nat) (s : State) :
    (beaconConflict m s).OnlyFreshMacEvrHie s := by
  unfold beaconConflict; simp only [State.OnlyFreshMacEvrHie, (modMac_frame ..), (macFlag_frame ..), (macEvent_frame ..), ↓(ite_fields ..), ite_self, and_self]

@[simp] theorem sendPause_frame (m quanta : Nat) (s : State) :
    (sendPause m quanta s).OnlyMac s := by
  unfold sendPause; simp only [State.OnlyMac, (modMac_frame ..), (macCount_frame ..), (macFlag_frame ..), ↓(ite_fields ..), ite_self, and_self]

@[simp] theorem dropLine_frame (m : Nat) (t : Option MacTx) (s : State) :
    (dropLine m t s).OnlyFreshDrwWkeMacEvrHieMem s := by
  unfold dropLine; (repeat' split) <;> simp only [State.OnlyFreshDrwWkeMacEvrHieMem, (txRefuseAt_frame ..), ↓(ite_fields ..), ite_self, implies_true, and_self]

/-! ### Evr -/

@[simp] theorem modEvr_frame (f : Evr → Evr) (s : State) :
    (modEvr f s).OnlyEvr s := by
  unfold modEvr; simp only [State.OnlyEvr, ↓(ite_fields ..), ite_self, implies_true, and_self]

@[simp] theorem clearRecords_frame (s : State) :
    (clearRecords s).OnlyFreshEvrHie s := by
  unfold clearRecords; simp only [State.OnlyFreshEvrHie, (raise_frame ..), (modEvr_frame ..), ↓(ite_fields ..), ite_self, and_self]

@[simp] theorem clearWrite_frame (v : Nat) (s : State) :
    (clearWrite v s).OnlyFreshEvrHie s := by
  unfold clearWrite; simp only [State.OnlyFreshEvrHie, (raiseIgnored_frame ..), (clearRecords_frame ..), ↓(ite_fields ..), ite_self, and_self]

/-! ### Cvu -/

@[simp] theorem modCvu_frame (n : Nat) (f : Cvu → Cvu) (s : State) :
    (modCvu n f s).OnlyCvu s := by
  unfold modCvu; simp only [State.OnlyCvu, ↓(ite_fields ..), ite_self, implies_true, and_self]

@[simp] theorem cvuWrite_frame (n : Nat) (f : Cvu → Cvu) (s : State) :
    (cvuWrite n f s).OnlyCvu s := by
  unfold cvuWrite; simp only [State.OnlyCvu, (modCvu_frame ..), ↓(ite_fields ..), ite_self, and_self]

@[simp] theorem startMode_frame (n mode : Nat) (s : State) :
    (startMode n mode s).OnlyCvu s := by
  unfold startMode; simp only [State.OnlyCvu, cvuWrite, (modCvu_frame ..), ↓(ite_fields ..), ite_self, and_self]

@[simp] theorem jobRefused_frame (unit : Nat) (owner : Option Nat) (u : Cvu) (data written : List Byte) (bad : Nat) (write : Bool) (s : State) :
    (jobRefused unit owner u data written bad write s).OnlyFreshDrwWkeEvrCvuHieMem s := by
  unfold jobRefused; simp only [State.OnlyFreshDrwWkeEvrCvuHieMem, (dmaAccess_frame ..), (putBytes_frame ..), (modCvu_frame ..), ↓(ite_fields ..), ite_self, and_self]

@[simp] theorem finishJob_frame (n : Nat) (s : State) :
    (finishJob n s).OnlyFreshDrwWkeEvrCvuHieMem s := by
  unfold finishJob; simp only [State.OnlyFreshDrwWkeEvrCvuHieMem, (putBytes_frame ..), (modCvu_frame ..), (jobRefused_frame ..), ↓(ite_fields ..), ite_self, implies_true, and_self]; repeat' (first | (simp only [State.OnlyFreshDrwWkeEvrCvuHieMem, (putBytes_frame ..), (modCvu_frame ..), (jobRefused_frame ..), ↓(ite_fields ..), ite_self, implies_true, and_self]; done) | split)

end Sys2Proof.Machine
end

