-- ==== Sys2Proof/Laws/KeepsKey.lean ====
section
/-! SUPPORT. What each operation keeps of the commands that wait, memory, the fuses and the least serial: the key core, resets, supply, updates, seats and the probe. -/
namespace Sys2Proof.Machine

/-! ### Key -/

theorem Key.foldl_fuses {α : Type} (f : Key → α → Key) (h : ∀ k x, (f k x).fuses = k.fuses) (l : List α) (k : Key) :
    (l.foldl f k).fuses = k.fuses := by
  induction l generalizing k with
  | nil => rfl
  | cons a l ih => rw [List.foldl_cons, ih, h]

@[simp] theorem modCell_fuses (i : Nat) (f : Cell → Cell) (k : Key) : (modCell i f k).fuses = k.fuses := rfl

@[simp] theorem wipeCell_fuses (i : Nat) (k : Key) : (wipeCell i k).fuses = k.fuses := rfl

@[simp] theorem freeKeyCell_fuses (i : Nat) (k : Key) : (freeKeyCell i k).fuses = k.fuses := rfl

@[simp] theorem wipeWorking_fuses (k : Key) : (wipeWorking k).fuses = k.fuses := rfl

@[simp] theorem writeTable_fuses (g : List Nat) (k : Key) : (writeTable g k).fuses = k.fuses := by
  unfold writeTable
  dsimp only
  split <;> rfl

@[simp] theorem invalidateCell_fuses (i : Nat) (k : Key) : (invalidateCell i k).fuses = k.fuses :=
  Key.foldl_fuses (fun k j => freeKeyCell j k) (fun _ _ => rfl) _ _

@[simp] theorem foldl_freeKeyCell_fuses (l : List Nat) (k : Key) : (l.foldl (fun k j => freeKeyCell j k) k).fuses = k.fuses :=
  Key.foldl_fuses (fun k j => freeKeyCell j k) (fun _ _ => rfl) _ _

@[simp] theorem foldl_wipeCell_fuses (l : List Nat) (k : Key) : (l.foldl (fun k i => wipeCell i k) k).fuses = k.fuses :=
  Key.foldl_fuses (fun k j => wipeCell j k) (fun _ _ => rfl) _ _

@[simp] theorem keyEvent_keeps (code detail : Nat) (s : State) :
    (keyEvent code detail s).Keeps s := by
  unfold keyEvent; simp only [State.Keeps, (raise_keeps ..), and_self]

@[simp] theorem draw_keeps (s : State) :
    (draw s).2.Keeps s := by
  unfold draw; simp only [State.Keeps, and_self]

@[simp] theorem fillCell_keeps (i drawer parent parentGen level : Nat) (label : List Byte) (key : BitVec 512) (s : State) :
    (fillCell i drawer parent parentGen level label key s).Keeps s := by
  unfold fillCell; simp only [draw, modCell_fuses, State.Keeps, modKey, and_self]

@[simp] theorem deriveCell_keeps (i : Nat) (s : State) :
    (deriveCell i s).Keeps s := by
  unfold deriveCell; simp only [State.Keeps, (fillCell_keeps ..), ↓(ite_keeps ..), ↓ite_fuses, ↓ite_floor, ite_self, and_self]

@[simp] theorem refreshCell_keeps (i : Nat) (s : State) :
    (refreshCell i s).Keeps s := by
  unfold refreshCell; simp only [State.Keeps, (deriveCell_keeps ..), ↓(ite_keeps ..), ↓ite_fuses, ↓ite_floor, ite_self, and_self]

@[simp] theorem sealTable_keeps (store : BitVec 512) (s : State) :
    (sealTable store s).Keeps s := by
  exact ⟨rfl, rfl, rfl, rfl⟩

@[simp] theorem loadTable_keeps (s : State) :
    (loadTable s).Keeps s := by
  unfold loadTable
  dsimp only
  repeat' split
  all_goals simp only [useTable, State.Keeps, (keyEvent_keeps ..), (sealTable_keeps ..), modKey, and_self]

@[simp] theorem shipTables_keeps (s : State) :
    (shipTables s).Keeps s := by
  unfold shipTables; simp only [State.Keeps, (sealTable_keeps ..), modKey, ↓(ite_keeps ..), ↓ite_fuses, ↓ite_floor, ite_self, and_self]

@[simp] theorem showTable_keeps (s : State) :
    (showTable s).Keeps s := by
  exact ⟨rfl, rfl, rfl, rfl⟩

@[simp] theorem keyLoad_keeps (s : State) :
    (keyLoad s).Keeps s := by
  unfold keyLoad; simp only [State.Keeps, (deriveCell_keeps ..), (loadTable_keeps ..), (foldl_keeps ..), implies_true, and_self]

@[simp] theorem drawNonce_keeps (s : State) :
    (drawNonce s).Keeps s := by
  unfold drawNonce; simp only [State.Keeps, (draw_keeps ..), modKey, ↓(ite_keeps ..), ↓ite_fuses, ↓ite_floor, ite_self, and_self]

@[simp] theorem keyRelease_keeps (s : State) :
    (keyRelease s).Keeps s := by
  unfold keyRelease; simp only [State.Keeps, (keyEvent_keeps ..), (shipTables_keeps ..), (showTable_keeps ..), (drawNonce_keeps ..), modKey, ↓(ite_keeps ..), ↓ite_fuses, ↓ite_floor, ite_self, and_self]

@[simp] theorem keyReady_keeps (s : State) :
    (keyReady s).Keeps s := by
  unfold keyReady; simp only [State.Keeps, (deriveCell_keeps ..), modKey, ↓(ite_keeps ..), ↓ite_fuses, ↓ite_floor, ite_self, and_self]

@[simp] theorem attestResponse_keeps (stmt : List Byte) (s : State) :
    (attestResponse stmt s).2.Keeps s := by
  unfold attestResponse; simp only [State.Keeps, (draw_keeps ..), and_self]

@[simp] theorem startNext_keeps (s : State) :
    (startNext s).Keeps s := by
  unfold startNext Option.elim; repeat' (first | (simp only [State.Keeps, (refreshCell_keeps ..), modKey, ↓(ite_keeps ..), ↓ite_fuses, ↓ite_floor, and_self]; done) | split)

@[simp] theorem enqueue_keeps (r : KeyReq) (s : State) :
    (enqueue r s).2.Keeps s := by
  unfold enqueue; (repeat' split) <;> simp only [State.Keeps, (startNext_keeps ..), modKey, and_self]

@[simp] theorem askKey_keeps (c : Nat) (op : KeyOp) (s : State) :
    (askKey c op s).Keeps s := by
  unfold askKey; (repeat' split) <;> simp only [State.Keeps, (enqueue_keeps ..), and_self]

@[simp] theorem commandRefused_keeps (op reason : Nat) (s : State) :
    (commandRefused op reason s).Keeps s := by
  unfold commandRefused; simp only [State.Keeps, (keyEvent_keeps ..), modKey, and_self]

@[simp] theorem keyCommand_keeps (op rsp : Nat) (payload sig : List Byte) (s : State) :
    (keyCommand op rsp payload sig s).Keeps s := by
  unfold keyCommand; simp only [State.Keeps, (enqueue_keeps ..), (commandRefused_keeps ..), modKey, ↓(ite_keeps ..), ↓ite_fuses, ↓ite_floor, ite_self, (foldl_keeps ..), implies_true, and_self]; repeat' (first | (simp only [State.Keeps, (enqueue_keeps ..), (commandRefused_keeps ..), modKey, ↓(ite_keeps ..), ↓ite_fuses, ↓ite_floor, ite_self, (foldl_keeps ..), implies_true, and_self]; done) | split)

@[simp] theorem invalidateBranch_keeps (d : Nat) (s : State) :
    (invalidateBranch d s).Keeps s := by
  unfold invalidateBranch
  dsimp only
  split <;> simp only [Key.foldl_fuses, modCell_fuses, freeKeyCell_fuses, (foldl_freeKeyCell_fuses ..), writeTable_fuses, State.Keeps, (keyEvent_keeps ..), (refreshCell_keeps ..), (loadTable_keeps ..), modKey, and_self]

@[simp] theorem setSlot_keeps (n : Nat) (key : List Byte) (enrol : Bool) (s : State) :
    (setSlot n key enrol s).Keeps s := by
  unfold setSlot; simp only [State.Keeps, (keyEvent_keeps ..), modKey, and_self]

@[simp] theorem beginTransition_keeps (target : Nat) (payload : List Byte) (s : State) :
    (beginTransition target payload s).Keeps s := by
  unfold beginTransition; simp only [State.Keeps, (draw_keeps ..), (refreshCell_keeps ..), (setSlot_keeps ..), modKey, ↓(ite_keeps ..), ↓ite_fuses, ↓ite_floor, ite_self, (foldl_keeps ..), implies_true, and_self]

@[simp] theorem clearTamper_keeps (s : State) :
    (clearTamper s).Keeps s := by
  unfold clearTamper; simp only [State.Keeps, (keyEvent_keeps ..), modKey, and_self]

@[simp] theorem commandDone_keeps (len : Nat) (s : State) :
    (commandDone len s).Keeps s := by
  unfold commandDone; simp only [State.Keeps, modKey, and_self]

@[simp] theorem restoreRoot_keeps (s : State) :
    (restoreRoot s).Keeps s := by
  unfold restoreRoot; simp only [State.Keeps, (modRtc_keeps ..), (commandRefused_keeps ..), (commandDone_keeps ..), modKey, ↓(ite_keeps ..), ↓ite_fuses, ↓ite_floor, ite_self, and_self]

@[simp] theorem runCommand_keeps (op rsp : Nat) (payload : List Byte) (r : KeyReq) (s : State) :
    (runCommand op rsp payload r s).pending = s.pending ∧ (runCommand op rsp payload r s).key.fuses = s.key.fuses ∧ (runCommand op rsp payload r s).drw.serialFloor = s.drw.serialFloor := by
  unfold runCommand; repeat' (first | (simp only [(dmaAccess_keeps ..), (putBytes_keeps ..), (attestResponse_keeps ..), (commandRefused_keeps ..), (invalidateBranch_keeps ..), (setSlot_keeps ..), (beginTransition_keeps ..), (clearTamper_keeps ..), (commandDone_keeps ..), (restoreRoot_keeps ..), ↓(ite_keeps ..), ↓ite_fuses, ↓ite_floor, ite_self, and_self]; done) | split)

@[simp] theorem newCell_keeps (parent : Nat) (label : List Byte) (r : KeyReq) (s : State) :
    (newCell parent label r s).Keeps s := by
  unfold newCell; (repeat' split) <;> simp only [State.Keeps, (fillCell_keeps ..), and_self]

@[simp] theorem fillRandom_keeps (c buf n : Nat) (s : State) :
    (fillRandom c buf n s).pending = s.pending ∧ (fillRandom c buf n s).key.fuses = s.key.fuses ∧ (fillRandom c buf n s).drw.serialFloor = s.drw.serialFloor := by
  unfold fillRandom; simp only [(coreRefused_keeps ..), (putBytes_keeps ..), (draw_keeps ..), ↓(ite_keeps ..), ↓ite_fuses, ↓ite_floor, ite_self, and_self]

@[simp] theorem requestResult_keeps (r : KeyReq) (s : State) :
    (requestResult r s).pending = s.pending ∧ (requestResult r s).key.fuses = s.key.fuses ∧ (requestResult r s).drw.serialFloor = s.drw.serialFloor := by
  unfold requestResult; repeat' (first | (simp only [draw, Key.foldl_fuses, modCell_fuses, wipeCell_fuses, freeKeyCell_fuses, (foldl_freeKeyCell_fuses ..), (foldl_wipeCell_fuses ..), wipeWorking_fuses, writeTable_fuses, invalidateCell_fuses, (ownUp_keeps ..), (attestResponse_keeps ..), (invalidateBranch_keeps ..), (runCommand_keeps ..), (newCell_keeps ..), (fillRandom_keeps ..), modKey, ↓(ite_keeps ..), ↓ite_fuses, ↓ite_floor, ite_self, and_self]; done) | split)

@[simp] theorem endRequest_keeps (s : State) :
    (endRequest s).Keeps s := by
  unfold endRequest
  have h (l : List Nat) (s : State) : (l.foldl (fun (s : State) i =>
      modKey (modCell i (fun c => if c.used && !c.wiped then { c with shareA := c.shareA ^^^ BitVec.ofNat 512 (draw s).1, shareB := c.shareB ^^^ BitVec.ofNat 512 (draw s).1 } else c)) (draw s).2) s).key.fuses = s.key.fuses :=
    foldl_fuses _ (fun s x => by simp only [modKey, draw, modCell_fuses]) _ _
  refine ⟨?_, ?_, ?_, ?_⟩
  · simp only [draw, (foldl_pending ..), (startNext_keeps ..), modKey, implies_true]
  · simp only [draw, (foldl_mem ..), (startNext_keeps ..), modKey, implies_true]
  · simp only [(startNext_keeps ..)]; exact h _ _
  · simp only [draw, (foldl_floor ..), (startNext_keeps ..), modKey, implies_true]

@[simp] theorem finishRequest_keeps (s : State) :
    (finishRequest s).pending = s.pending ∧ (finishRequest s).key.fuses = s.key.fuses ∧ (finishRequest s).drw.serialFloor = s.drw.serialFloor := by
  unfold finishRequest; (repeat' split) <;> simp only [(commandRefused_keeps ..), (requestResult_keeps ..), (endRequest_keeps ..), ↓(ite_keeps ..), ↓ite_fuses, ↓ite_floor, ite_self, and_self]

@[simp] theorem abortKey_keeps (report : Bool) (s : State) :
    (abortKey report s).Keeps s := by
  unfold abortKey; dsimp only [modKey, draw]; repeat' (first | (simp only [draw, Key.foldl_fuses, modCell_fuses, wipeCell_fuses, freeKeyCell_fuses, (foldl_freeKeyCell_fuses ..), (foldl_wipeCell_fuses ..), wipeWorking_fuses, writeTable_fuses, invalidateCell_fuses, State.Keeps, (keyEvent_keeps ..), ↓(ite_keeps ..), ↓ite_fuses, ↓ite_floor, ite_self, and_self]; done) | split)

@[simp] theorem detect_keeps (cause : Nat) (s : State) :
    (detect cause s).Keeps s := by
  unfold detect
  have h (k : Key) : ((List.range 256).foldl (fun k i => if (cell k i).used then wipeCell i k else k) k).fuses = k.fuses :=
    Key.foldl_fuses _ (fun k x => by split <;> rfl) _ _
  simp only [h, State.Keeps, (enterMode_keeps ..), (keyEvent_keeps ..), (abortKey_keeps ..), modKey, ↓(ite_keeps ..), ↓ite_fuses, ↓ite_floor, ite_self, and_self]

/-! ### Reset -/

@[simp] theorem resetBlocks_keeps (cause primary : Nat) (s : State) :
    (resetBlocks cause primary s).pending = s.pending ∧ (resetBlocks cause primary s).mem = s.mem ∧ (resetBlocks cause primary s).drw.serialFloor = s.drw.serialFloor := by
  unfold resetBlocks; simp only [and_self]

@[simp] theorem assertReset_keeps (i : Nat) (s : State) :
    (assertReset i s).pending = s.pending ∧ (assertReset i s).mem = s.mem ∧ (assertReset i s).drw.serialFloor = s.drw.serialFloor := by
  unfold assertReset; simp only [(settleOutputs_keeps ..), (updEvent_keeps ..), (captureRtc_keeps ..), (resetBlocks_keeps ..), ↓(ite_keeps ..), ↓ite_floor, ite_self, and_self]

@[simp] theorem serviceReset_keeps (s : State) :
    (serviceReset s).pending = s.pending ∧ (serviceReset s).mem = s.mem ∧ (serviceReset s).drw.serialFloor = s.drw.serialFloor := by
  unfold serviceReset; simp only [(assertReset_keeps ..), ↓(ite_keeps ..), ↓ite_floor, ite_self, and_self]

/-! ### Power -/

@[simp] theorem modSys_keeps (f : Sys → Sys) (s : State) :
    (modSys f s).Keeps s := by
  unfold modSys; simp only [State.Keeps, and_self]

@[simp] theorem sysEvent_keeps (code detail : Nat) (s : State) :
    (sysEvent code detail s).Keeps s := by
  unfold sysEvent; simp only [State.Keeps, (raise_keeps ..), and_self]

@[simp] theorem loadEvent_keeps (code detail : Nat) (s : State) :
    (loadEvent code detail s).Keeps s := by
  unfold loadEvent; simp only [State.Keeps, (raise_keeps ..), and_self]

@[simp] theorem losePower_keeps (s : State) :
    (losePower s).pending = s.pending ∧ (losePower s).mem = s.mem ∧ (losePower s).drw.serialFloor = s.drw.serialFloor := by
  unfold losePower; simp only [(assertReset_keeps ..), ↓(ite_keeps ..), ↓ite_floor, ite_self, and_self]

@[simp] theorem runtimeFailed_keeps (code : Nat) (b : Bool) (s : State) :
    (runtimeFailed code b s).Keeps s := by
  unfold runtimeFailed; simp only [State.Keeps, (loadEvent_keeps ..), and_self]

@[simp] theorem checkRuntime_keeps (s : State) :
    (checkRuntime s).Keeps s := by
  unfold checkRuntime; simp only [State.Keeps, (runtimeFailed_keeps ..), ↓(ite_keeps ..), ↓ite_fuses, ↓ite_floor, ite_self, and_self]

@[simp] theorem tryRun_keeps (s : State) :
    (tryRun s).Keeps s := by
  unfold tryRun; simp only [State.Keeps, (enterMode_keeps ..), ↓(ite_keeps ..), ↓ite_fuses, ↓ite_floor, ite_self, and_self]

@[simp] theorem resetRequest_keeps (v : Nat) (s : State) :
    (resetRequest v s).pending = s.pending ∧ (resetRequest v s).mem = s.mem ∧ (resetRequest v s).drw.serialFloor = s.drw.serialFloor := by
  unfold resetRequest; simp only [(raiseIgnored_keeps ..), (serviceReset_keeps ..), ↓(ite_keeps ..), ↓ite_floor, ite_self, and_self]

@[simp] theorem modeRequest_keeps (v : Nat) (s : State) :
    (modeRequest v s).Keeps s := by
  unfold modeRequest; simp only [State.Keeps, (raiseIgnored_keeps ..), (abandonUpdate_keeps ..), (modSys_keeps ..), ↓(ite_keeps ..), ↓ite_fuses, ↓ite_floor, ite_self, and_self]

@[simp] theorem eccError_keeps (s : State) :
    (eccError s).Keeps s := by
  unfold eccError; simp only [State.Keeps, (setCause_keeps ..), (modSys_keeps ..), ↓(ite_keeps ..), ↓ite_fuses, ↓ite_floor, ite_self, and_self]

@[simp] theorem noteTemp_keeps (t : Int) (s : State) :
    (noteTemp t s).Keeps s := by
  unfold noteTemp; simp only [State.Keeps, (modSys_keeps ..), and_self]

/-! ### Upd -/

@[simp] theorem stageBytes_keeps (bs : List Byte) (s : State) :
    (stageBytes bs s).Keeps s := by
  unfold stageBytes; simp only [State.Keeps, (modUpd_keeps ..), ↓(ite_keeps ..), ↓ite_fuses, ↓ite_floor, ite_self, and_self]

@[simp] theorem stageOpen_keeps (s : State) :
    (stageOpen s).Keeps s := by
  unfold stageOpen; simp only [State.Keeps, (modUpd_keeps ..), and_self]

@[simp] theorem xferStart_keeps (owner : Option Nat) (s : State) :
    (xferStart owner s).Keeps s := by
  unfold xferStart; simp only [State.Keeps, (modUpd_keeps ..), and_self]

@[simp] theorem xferDone_keeps (s : State) :
    (xferDone s).Keeps s := by
  unfold xferDone; simp only [State.Keeps, (modUpd_keeps ..), (dmaAccess_keeps ..), (stageBytes_keeps ..), ↓(ite_keeps ..), ↓ite_fuses, ↓ite_floor, ite_self, and_self]

@[simp] theorem verifyStart_keeps (s : State) :
    (verifyStart s).Keeps s := by
  unfold verifyStart; simp only [State.Keeps, (modUpd_keeps ..), and_self]

@[simp] theorem verifyDone_keeps (s : State) :
    (verifyDone s).Keeps s := by
  unfold verifyDone; (repeat' split) <;> simp only [State.Keeps, (modUpd_keeps ..), (updEvent_keeps ..), and_self]

@[simp] theorem adoptActive_keeps (s : State) :
    (adoptActive s).Keeps s := by
  unfold adoptActive; simp only [State.Keeps, and_self]

@[simp] theorem startUpdate_keeps (s : State) :
    (startUpdate s).pending = s.pending ∧ (startUpdate s).mem = s.mem ∧ (startUpdate s).drw.serialFloor = s.drw.serialFloor := by
  unfold startUpdate; simp only [(modUpd_keeps ..), (updEvent_keeps ..), (serviceReset_keeps ..), ↓(ite_keeps ..), ↓ite_floor, ite_self, and_self]

@[simp] theorem askRollback_keeps (s : State) :
    (askRollback s).Keeps s := by
  unfold askRollback; simp only [State.Keeps, (modUpd_keeps ..), and_self]

@[simp] theorem lockCommand_keeps (owner : Option Nat) (s : State) :
    (lockCommand owner s).Keeps s := by
  unfold lockCommand; simp only [State.Keeps, (modUpd_keeps ..), (updEvent_keeps ..), (dmaAccess_keeps ..), ↓(ite_keeps ..), ↓ite_fuses, ↓ite_floor, ite_self, and_self]

@[simp] theorem updCommand_keeps (v : Nat) (owner : Option Nat) (s : State) :
    (updCommand v owner s).pending = s.pending ∧ (updCommand v owner s).mem = s.mem ∧ (updCommand v owner s).drw.serialFloor = s.drw.serialFloor := by
  unfold updCommand; simp only [State.Keeps, (raiseIgnored_keeps ..), (modUpd_keeps ..), (abandonUpdate_keeps ..), (stageOpen_keeps ..), (xferStart_keeps ..), (verifyStart_keeps ..), (startUpdate_keeps ..), (askRollback_keeps ..), (lockCommand_keeps ..), ↓(ite_keeps ..), ↓ite_fuses, ↓ite_floor, ite_self, (foldl_pending ..), (foldl_mem ..), (foldl_fuses ..), (foldl_floor ..), implies_true, and_self]; repeat' (first | (simp only [State.Keeps, (raiseIgnored_keeps ..), (modUpd_keeps ..), (abandonUpdate_keeps ..), (stageOpen_keeps ..), (xferStart_keeps ..), (verifyStart_keeps ..), (startUpdate_keeps ..), (askRollback_keeps ..), (lockCommand_keeps ..), ↓(ite_keeps ..), ↓ite_fuses, ↓ite_floor, ite_self, (foldl_pending ..), (foldl_mem ..), (foldl_fuses ..), (foldl_floor ..), implies_true, and_self]; done) | split)

@[simp] theorem updService_keeps (by_ : Option (Fin 16)) (cmd : Nat) (s : State) :
    (updService by_ cmd s).pending = s.pending ∧ (updService by_ cmd s).mem = s.mem ∧ (updService by_ cmd s).drw.serialFloor = s.drw.serialFloor := by
  unfold updService
  split
  · simp only [(updCommand_keeps ..), and_self]
  · unfold service
    repeat' (first | (simp only [(updCommand_keeps ..), (coreRefused_keeps ..), and_self]; done) | split)

@[simp] theorem xferData_keeps (v : Nat) (s : State) :
    (xferData v s).Keeps s := by
  unfold xferData; simp only [State.Keeps, (modUpd_keeps ..), (stageBytes_keeps ..), ↓(ite_keeps ..), ↓ite_fuses, ↓ite_floor, ite_self, and_self]

@[simp] theorem shadowStart_keeps (s : State) :
    (shadowStart s).Keeps s := by
  unfold shadowStart; simp only [State.Keeps, (modUpd_keeps ..), (updEvent_keeps ..), (abandonUpdate_keeps ..), ↓(ite_keeps ..), ↓ite_fuses, ↓ite_floor, ite_self, and_self]

@[simp] theorem coverageFail_keeps (s : State) :
    (coverageFail s).Keeps s := by
  unfold coverageFail; (repeat' split) <;> simp only [State.Keeps, (failShadow_keeps ..), and_self]

@[simp] theorem shadowEdge_keeps (s : State) :
    (shadowEdge s).Keeps s := by
  unfold shadowEdge; simp only [State.Keeps, (modUpd_keeps ..), (coverageFail_keeps ..), ↓(ite_keeps ..), ↓ite_fuses, ↓ite_floor, ite_self, and_self]

@[simp] theorem deferFail_keeps (s : State) :
    (deferFail s).Keeps s := by
  unfold deferFail; simp only [State.Keeps, (abandonUpdate_keeps ..), ↓(ite_keeps ..), ↓ite_fuses, ↓ite_floor, ite_self, and_self]

@[simp] theorem mapTask_keeps (n : Nat) (s : State) :
    (mapTask n s).pending = s.pending ∧ (mapTask n s).key.fuses = s.key.fuses ∧ (mapTask n s).drw.serialFloor = s.drw.serialFloor := by
  unfold mapTask; simp only [(modUpd_keeps ..), and_self]

@[simp] theorem doSwitch_keeps (s : State) :
    (doSwitch s).Keeps s := by
  unfold doSwitch; simp only [State.Keeps, (modUpd_keeps ..), (updEvent_keeps ..), (endShadow_keeps ..), (adoptActive_keeps ..), and_self]

@[simp] theorem doRollback_keeps (s : State) :
    (doRollback s).pending = s.pending ∧ (doRollback s).mem = s.mem ∧ (doRollback s).drw.serialFloor = s.drw.serialFloor := by
  unfold doRollback; (repeat' split) <;> simp only [(modUpd_keeps ..), (updEvent_keeps ..), (assertReset_keeps ..), (adoptActive_keeps ..), ↓(ite_keeps ..), ↓ite_floor, ite_self, and_self]

@[simp] theorem noteCatch_keeps (n : Nat) (s : State) :
    (noteCatch n s).pending = s.pending ∧ (noteCatch n s).key.fuses = s.key.fuses ∧ (noteCatch n s).drw.serialFloor = s.drw.serialFloor := by
  unfold noteCatch; simp only [State.Keeps, (modUpd_keeps ..), (mapTask_keeps ..), ↓(ite_keeps ..), ↓ite_fuses, ↓ite_floor, ite_self, (foldl_pending ..), (foldl_mem ..), (foldl_fuses ..), (foldl_floor ..), implies_true, and_self]; repeat' (first | (simp only [State.Keeps, (modUpd_keeps ..), (mapTask_keeps ..), ↓(ite_keeps ..), ↓ite_fuses, ↓ite_floor, ite_self, (foldl_pending ..), (foldl_mem ..), (foldl_fuses ..), (foldl_floor ..), implies_true, and_self]; done) | split)

@[simp] theorem switchEnds_keeps (s : State) :
    (switchEnds s).Keeps s := by
  unfold switchEnds; (repeat' split) <;> simp only [State.Keeps, (modUpd_keeps ..), and_self]

@[simp] theorem watchDone_keeps (s : State) :
    (watchDone s).pending = s.pending ∧ (watchDone s).mem = s.mem ∧ (watchDone s).key.fuses = s.key.fuses := by
  unfold watchDone; simp only [(modUpd_keeps ..), (updEvent_keeps ..), ↓(ite_keeps ..), ↓ite_fuses, ite_self, and_self]

@[simp] theorem watchEdge_keeps (s : State) :
    (watchEdge s).pending = s.pending ∧ (watchEdge s).mem = s.mem ∧ (watchEdge s).key.fuses = s.key.fuses := by
  unfold watchEdge; simp only [(modUpd_keeps ..), (watchDone_keeps ..), ↓(ite_keeps ..), ↓ite_fuses, ite_self, and_self]

@[simp] theorem watchBoot_keeps (s : State) :
    (watchBoot s).Keeps s := by
  unfold watchBoot; simp only [State.Keeps, (modUpd_keeps ..), ↓(ite_keeps ..), ↓ite_fuses, ↓ite_floor, ite_self, and_self]

/-! ### Wke -/

@[simp] theorem modTakeover_keeps (seat : Nat) (slots : List Nat) (f : Takeover → Takeover) (s : State) :
    (modTakeover seat slots f s).Keeps s := by
  unfold modTakeover; simp only [State.Keeps, and_self]

@[simp] theorem copiesLoaded_keeps (t : Takeover) (us : Nat) (s : State) :
    (copiesLoaded t us s).pending = s.pending ∧ (copiesLoaded t us s).key.fuses = s.key.fuses ∧ (copiesLoaded t us s).drw.serialFloor = s.drw.serialFloor := by
  unfold copiesLoaded; simp only [(takeoverDone_keeps ..), (modTakeover_keeps ..), ↓(ite_keeps ..), ↓ite_fuses, ↓ite_floor, ite_self, and_self]

@[simp] theorem replayDone_keeps (t : Takeover) (slot tn : Nat) (d : BitVec 64) (us : Nat) (l : List (Nat × Byte)) (s : State) :
    (replayDone t slot tn d us l s).pending = s.pending ∧ (replayDone t slot tn d us l s).key.fuses = s.key.fuses ∧ (replayDone t slot tn d us l s).drw.serialFloor = s.drw.serialFloor := by
  unfold replayDone; (repeat' split) <;> simp only [(raise_keeps ..), (takeoverDone_keeps ..), (failCore_keeps ..), (modTakeover_keeps ..), and_self]

@[simp] theorem rebuildTask_keeps (n : Nat) (s : State) :
    (rebuildTask n s).Keeps s := by
  unfold rebuildTask
  dsimp only
  split
  · simp only [State.Keeps, (noteVstore_keeps ..), (dispatchAll_keeps ..), (startTakeover_keeps ..), foldl_keeps _ (fun (s : State) c => gateIdle_keeps c s), (freeCores_keeps ..), (enterReplay_keeps ..), and_self]
  · exact ⟨rfl, rfl, rfl, rfl⟩

@[simp] theorem hitEffect_keeps (h : MemHit) (s : State) :
    (hitEffect h s).pending = s.pending ∧ (hitEffect h s).drw.serialFloor = s.drw.serialFloor := by
  unfold hitEffect; (repeat' split) <;> simp only [(queueDrop_keeps ..), (modRing_keeps ..), (stopRing_keeps ..), (txRefuse_keeps ..), (assertReset_keeps ..), (rebuildTask_keeps ..), (foldl_pending ..), (foldl_floor ..), implies_true, and_self]

@[simp] theorem unblock_keeps (n : Nat) (s : State) :
    (unblock n s).Keeps s := by
  unfold unblock; simp only [State.Keeps, (modTask_keeps ..), and_self]

@[simp] theorem passTaken_keeps (n taken : Nat) (s : State) :
    (passTaken n taken s).Keeps s := by
  unfold passTaken; simp only [State.Keeps, (modTask_keeps ..), and_self]

@[simp] theorem settleWon_keeps (x : Settle) (w : WriteSet) (row us : Nat) (s : State) :
    (settleWon x w row us s).Keeps s := by
  unfold settleWon; simp only [State.Keeps, (raise_keeps ..), (passTaken_keeps ..), and_self]

@[simp] theorem settleSeatFree_keeps (x : Settle) (s : State) :
    (settleSeatFree x s).Keeps s := by
  unfold settleSeatFree; simp only [State.Keeps, (freeSeat_keeps ..), ↓(ite_keeps ..), ↓ite_fuses, ↓ite_floor, ite_self, and_self]

@[simp] theorem joinPair_keeps (n c seat : Nat) (s : State) :
    (joinPair n c seat s).Keeps s := by
  unfold joinPair; simp only [State.Keeps, (modTask_keeps ..), and_self]

@[simp] theorem seatReplaces_keeps (x : Settle) (c : Nat) (s : State) :
    (seatReplaces x c s).Keeps s := by
  unfold seatReplaces; simp only [State.Keeps, (takeSeat_keeps ..), (sparesOut_keeps ..), (rebind_keeps ..), (joinPair_keeps ..), and_self]

@[simp] theorem settleEnds_keeps (x : Settle) (matched : Option Nat) (us : Nat) (s : State) :
    (settleEnds x matched us s).Keeps s := by
  unfold settleEnds; simp only [State.Keeps, (unsettle_keeps ..), (failCoreTo_keeps ..), (settleWon_keeps ..), (settleSeatFree_keeps ..), (joinPair_keeps ..), (seatReplaces_keeps ..), and_self]; repeat' (first | (simp only [State.Keeps, (unsettle_keeps ..), (failCoreTo_keeps ..), (settleWon_keeps ..), (settleSeatFree_keeps ..), (joinPair_keeps ..), (seatReplaces_keeps ..), and_self]; done) | split)

/-! ### Dbg -/

@[simp] theorem modDbg_keeps (f : Dbg → Dbg) (s : State) :
    (modDbg f s).Keeps s := by
  unfold modDbg; simp only [State.Keeps, and_self]

@[simp] theorem dbgEvent_keeps (code detail : Nat) (s : State) :
    (dbgEvent code detail s).Keeps s := by
  unfold dbgEvent; simp only [State.Keeps, (raise_keeps ..), and_self]

@[simp] theorem probeWrote_keeps (s : State) :
    (probeWrote s).Keeps s := by
  unfold probeWrote; simp only [State.Keeps, (modDbg_keeps ..), and_self]

@[simp] theorem tap_keeps (f : Dbg → Dbg) (out : Nat) (s : State) :
    (tap f out s).Keeps s := by
  unfold tap; simp only [State.Keeps, (modDbg_keeps ..), ↓(ite_keeps ..), ↓ite_fuses, ↓ite_floor, ite_self, and_self]

@[simp] theorem presentToken_keeps (s : State) :
    (presentToken s).Keeps s := by
  unfold presentToken; simp only [State.Keeps, (keyEvent_keeps ..), (modDbg_keeps ..), modKey, ↓(ite_keeps ..), ↓ite_fuses, ↓ite_floor, ite_self, and_self]

@[simp] theorem tokenWrite_keeps (v : Nat) (s : State) :
    (tokenWrite v s).Keeps s := by
  unfold tokenWrite; simp only [State.Keeps, (modDbg_keeps ..), (probeWrote_keeps ..), and_self]

@[simp] theorem enableDebug_keeps (s : State) :
    (enableDebug s).Keeps s := by
  unfold enableDebug wipeWorking; simp only [State.Keeps, (dbgEvent_keeps ..), modKey, ↓(ite_keeps ..), ↓ite_fuses, ↓ite_floor, ite_self, and_self]

@[simp] theorem askStep_keeps (freeze : Bool) (s : State) :
    (askStep freeze s).Keeps s := by
  unfold askStep; simp only [State.Keeps, (modDbg_keeps ..), ↓(ite_keeps ..), ↓ite_fuses, ↓ite_floor, ite_self, and_self]

@[simp] theorem releaseDebug_keeps (s : State) :
    (releaseDebug s).pending = s.pending ∧ (releaseDebug s).mem = s.mem ∧ (releaseDebug s).drw.serialFloor = s.drw.serialFloor := by
  unfold releaseDebug; simp only [(assertReset_keeps ..), (modSys_keeps ..), (modDbg_keeps ..), ↓(ite_keeps ..), ↓ite_floor, ite_self, and_self]

@[simp] theorem dbgRequest_keeps (v : Nat) (s : State) :
    (dbgRequest v s).pending = s.pending ∧ (dbgRequest v s).mem = s.mem ∧ (dbgRequest v s).drw.serialFloor = s.drw.serialFloor := by
  unfold dbgRequest; simp only [State.Keeps, (raiseIgnored_keeps ..), (modSys_keeps ..), (modDbg_keeps ..), (probeWrote_keeps ..), (presentToken_keeps ..), (enableDebug_keeps ..), (askStep_keeps ..), (releaseDebug_keeps ..), ↓(ite_keeps ..), ↓ite_fuses, ↓ite_floor, ite_self, (foldl_pending ..), (foldl_mem ..), (foldl_fuses ..), (foldl_floor ..), implies_true, and_self]; repeat' (first | (simp only [State.Keeps, (raiseIgnored_keeps ..), (modSys_keeps ..), (modDbg_keeps ..), (probeWrote_keeps ..), (presentToken_keeps ..), (enableDebug_keeps ..), (askStep_keeps ..), (releaseDebug_keeps ..), ↓(ite_keeps ..), ↓ite_fuses, ↓ite_floor, ite_self, (foldl_pending ..), (foldl_mem ..), (foldl_fuses ..), (foldl_floor ..), implies_true, and_self]; done) | split)

@[simp] theorem tagWrite_keeps (v : Nat) (s : State) :
    (tagWrite v s).Keeps s := by
  unfold tagWrite; simp only [State.Keeps, (modDbg_keeps ..), (probeWrote_keeps ..), and_self]

@[simp] theorem modDbgCore_keeps (c : Nat) (f : DbgCore → DbgCore) (s : State) :
    (modDbgCore c f s).Keeps s := by
  unfold modDbgCore; simp only [State.Keeps, (modDbg_keeps ..), and_self]

@[simp] theorem holdCore_keeps (c cause index pc : Nat) (regs : List (Nat × Nat)) (s : State) :
    (holdCore c cause index pc regs s).Keeps s := by
  unfold holdCore; simp only [State.Keeps, (modCore_keeps ..), (modDbgCore_keeps ..), and_self]

@[simp] theorem holdFree_keeps (c cause : Nat) (s : State) :
    (holdFree c cause s).Keeps s := by
  unfold holdFree; simp only [State.Keeps, (holdCore_keeps ..), and_self]

@[simp] theorem stepCheck_keeps (s : State) :
    (stepCheck s).Keeps s := by
  unfold stepCheck; simp only [State.Keeps, (modDbg_keeps ..), ↓(ite_keeps ..), ↓ite_fuses, ↓ite_floor, ite_self, and_self]

@[simp] theorem keepHold_keeps (c : Nat) (s : State) :
    (keepHold c s).Keeps s := by
  unfold keepHold; simp only [State.Keeps, (modDbgCore_keeps ..), and_self]

@[simp] theorem coreRun_keeps (c : Nat) (s : State) :
    (coreRun c s).Keeps s := by
  unfold coreRun; simp only [State.Keeps, (gateIdle_keeps ..), (dispatchCore_keeps ..), (modDbg_keeps ..), (probeWrote_keeps ..), (modDbgCore_keeps ..), (stepCheck_keeps ..), ↓(ite_keeps ..), ↓ite_fuses, ↓ite_floor, ite_self, and_self]

@[simp] theorem forceWrite_keeps (e word v : Nat) (s : State) :
    (forceWrite e word v s).Keeps s := by
  unfold forceWrite; simp only [State.Keeps, (modDbg_keeps ..), (dbgEvent_keeps ..), (probeWrote_keeps ..), ↓(ite_keeps ..), ↓ite_fuses, ↓ite_floor, ite_self, and_self]

end Sys2Proof.Machine
end

