-- ==== Sys2Proof/Laws/FramesKey.lean ====
section
/-! SUPPORT. The frame of each operation, the blocks of the state it leaves as they were: the key core, resets, supply, updates, seats and the probe. -/
set_option linter.unusedSimpArgs false
namespace Sys2Proof.Machine

/-! ### Key -/

@[simp] theorem modKey_frame (f : Key → Key) (s : State) :
    (modKey f s).OnlyKey s := by
  unfold modKey; simp only [State.OnlyKey, ↓(ite_fields ..), ite_self, implies_true, and_self]

@[simp] theorem keyEvent_frame (code detail : Nat) (s : State) :
    (keyEvent code detail s).OnlyFreshEvrHie s := by
  unfold keyEvent; simp only [State.OnlyFreshEvrHie, (raise_frame ..), ↓(ite_fields ..), ite_self, implies_true, and_self]

@[simp] theorem draw_frame (s : State) :
    (draw s).2.OnlyFresh s := by
  unfold draw; simp only [State.OnlyFresh, ↓(ite_fields ..), ite_self, implies_true, and_self]

@[simp] theorem fillCell_frame (i drawer parent parentGen level : Nat) (label : List Byte) (key : BitVec 512) (s : State) :
    (fillCell i drawer parent parentGen level label key s).OnlyFreshKey s := by
  unfold fillCell; simp only [State.OnlyFreshKey, (modKey_frame ..), (draw_frame ..), ↓(ite_fields ..), ite_self, implies_true, and_self]

@[simp] theorem deriveCell_frame (i : Nat) (s : State) :
    (deriveCell i s).OnlyFreshKey s := by
  unfold deriveCell; simp only [State.OnlyFreshKey, (fillCell_frame ..), ↓(ite_fields ..), ite_self, implies_true, and_self]

@[simp] theorem refreshCell_frame (i : Nat) (s : State) :
    (refreshCell i s).OnlyFreshKey s := by
  unfold refreshCell; simp only [State.OnlyFreshKey, (deriveCell_frame ..), ↓(ite_fields ..), ite_self, implies_true, and_self]

@[simp] theorem sealTable_frame (store : BitVec 512) (s : State) :
    (sealTable store s).OnlyFreshKey s := by
  unfold sealTable; simp only [State.OnlyFreshKey, (modKey_frame ..), ↓(ite_fields ..), ite_self, implies_true, and_self]

@[simp] theorem loadTable_frame (s : State) :
    (loadTable s).OnlyFreshEvrKeyHie s := by
  unfold loadTable; simp only [State.OnlyFreshEvrKeyHie, (modKey_frame ..), (keyEvent_frame ..), (sealTable_frame ..), ↓(ite_fields ..), ite_self, implies_true, and_self]; repeat' (first | (simp only [State.OnlyFreshEvrKeyHie, (modKey_frame ..), (keyEvent_frame ..), (sealTable_frame ..), ↓(ite_fields ..), ite_self, implies_true, and_self]; done) | split)

@[simp] theorem shipTables_frame (s : State) :
    (shipTables s).OnlyFreshKey s := by
  unfold shipTables; simp only [State.OnlyFreshKey, (modKey_frame ..), (sealTable_frame ..), ↓(ite_fields ..), ite_self, implies_true, and_self]

@[simp] theorem showTable_frame (s : State) :
    (showTable s).OnlyKey s := by
  unfold showTable; simp only [State.OnlyKey, (modKey_frame ..), ↓(ite_fields ..), ite_self, implies_true, and_self]

@[simp] theorem keyLoad_frame (s : State) :
    (keyLoad s).OnlyFreshEvrKeyHie s := by
  unfold keyLoad; simp only [State.OnlyFreshEvrKeyHie, (deriveCell_frame ..), (loadTable_frame ..), ↓(ite_fields ..), ite_self, (foldl_OnlyFreshEvrKeyHie ..), implies_true, and_self]

@[simp] theorem drawNonce_frame (s : State) :
    (drawNonce s).OnlyFreshKey s := by
  unfold drawNonce; simp only [State.OnlyFreshKey, (modKey_frame ..), (draw_frame ..), ↓(ite_fields ..), ite_self, implies_true, and_self]

@[simp] theorem keyRelease_frame (s : State) :
    (keyRelease s).OnlyFreshEvrKeyHieDbgEnabled s := by
  unfold keyRelease; simp only [State.OnlyFreshEvrKeyHieDbgEnabled, (modKey_frame ..), (keyEvent_frame ..), (shipTables_frame ..), (showTable_frame ..), (drawNonce_frame ..), ↓(ite_fields ..), ite_self, implies_true, and_self]

@[simp] theorem keyReady_frame (s : State) :
    (keyReady s).OnlyFreshKey s := by
  unfold keyReady; simp only [State.OnlyFreshKey, (modKey_frame ..), (deriveCell_frame ..), ↓(ite_fields ..), ite_self, implies_true, and_self]

@[simp] theorem attestResponse_frame (stmt : List Byte) (s : State) :
    (attestResponse stmt s).2.OnlyFresh s := by
  unfold attestResponse; simp only [State.OnlyFresh, (draw_frame ..), ↓(ite_fields ..), ite_self, implies_true, and_self]

@[simp] theorem startNext_frame (s : State) :
    (startNext s).OnlyFreshKey s := by
  unfold startNext Option.elim; repeat' (first | (simp only [State.OnlyFreshKey, (modKey_frame ..), (refreshCell_frame ..), ↓(ite_fields ..), ite_self, implies_true, and_self]; done) | split)

@[simp] theorem enqueue_frame (r : KeyReq) (s : State) :
    (enqueue r s).2.OnlyFreshKey s := by
  unfold enqueue; (repeat' split) <;> simp only [State.OnlyFreshKey, (modKey_frame ..), (startNext_frame ..), ↓(ite_fields ..), ite_self, implies_true, and_self]

@[simp] theorem askKey_frame (c : Nat) (op : KeyOp) (s : State) :
    (askKey c op s).OnlyAnswerFreshKey s := by
  unfold askKey; (repeat' split) <;> simp only [State.OnlyAnswerFreshKey, (enqueue_frame ..), ↓(ite_fields ..), ite_self, implies_true, and_self]

@[simp] theorem commandRefused_frame (op reason : Nat) (s : State) :
    (commandRefused op reason s).OnlyFreshEvrKeyHie s := by
  unfold commandRefused; simp only [State.OnlyFreshEvrKeyHie, (modKey_frame ..), (keyEvent_frame ..), ↓(ite_fields ..), ite_self, implies_true, and_self]

@[simp] theorem keyCommand_frame (op rsp : Nat) (payload sig : List Byte) (s : State) :
    (keyCommand op rsp payload sig s).OnlyFreshEvrKeyHie s := by
  unfold keyCommand; simp only [State.OnlyFreshEvrKeyHie, (modKey_frame ..), (enqueue_frame ..), (commandRefused_frame ..), ↓(ite_fields ..), ite_self, implies_true, and_self]

@[simp] theorem invalidateBranch_frame (d : Nat) (s : State) :
    (invalidateBranch d s).OnlyFreshEvrKeyHie s := by
  unfold invalidateBranch; simp only [State.OnlyFreshEvrKeyHie, (modKey_frame ..), (keyEvent_frame ..), (refreshCell_frame ..), (loadTable_frame ..), ↓(ite_fields ..), ite_self, (foldl_OnlyFreshEvrKeyHie ..), implies_true, and_self]

@[simp] theorem setSlot_frame (n : Nat) (key : List Byte) (enrol : Bool) (s : State) :
    (setSlot n key enrol s).OnlyFreshEvrKeyHie s := by
  unfold setSlot; simp only [State.OnlyFreshEvrKeyHie, (modKey_frame ..), (keyEvent_frame ..), ↓(ite_fields ..), ite_self, implies_true, and_self]

@[simp] theorem beginTransition_frame (target : Nat) (payload : List Byte) (s : State) :
    (beginTransition target payload s).OnlyFreshEvrKeyHie s := by
  unfold beginTransition; simp only [State.OnlyFreshEvrKeyHie, (modKey_frame ..), (draw_frame ..), (refreshCell_frame ..), (setSlot_frame ..), ↓(ite_fields ..), ite_self, (foldl_OnlyFreshEvrKeyHie ..), implies_true, and_self]

@[simp] theorem clearTamper_frame (s : State) :
    (clearTamper s).OnlyFreshEvrKeyHie s := by
  unfold clearTamper; simp only [State.OnlyFreshEvrKeyHie, (modKey_frame ..), (keyEvent_frame ..), ↓(ite_fields ..), ite_self, implies_true, and_self]

@[simp] theorem commandDone_frame (len : Nat) (s : State) :
    (commandDone len s).OnlyKey s := by
  unfold commandDone; simp only [State.OnlyKey, (modKey_frame ..), ↓(ite_fields ..), ite_self, implies_true, and_self]

@[simp] theorem restoreRoot_frame (s : State) :
    (restoreRoot s).OnlyFreshRtcEvrKeyHie s := by
  unfold restoreRoot; simp only [State.OnlyFreshRtcEvrKeyHie, (modRtc_frame ..), (modKey_frame ..), (commandRefused_frame ..), (commandDone_frame ..), ↓(ite_fields ..), ite_self, implies_true, and_self]

@[simp] theorem runCommand_frame (op rsp : Nat) (payload : List Byte) (r : KeyReq) (s : State) :
    (runCommand op rsp payload r s).OnlyFreshDrwWkeRtcEvrKeyHieMem s := by
  unfold runCommand; repeat' (first | (simp only [State.OnlyFreshDrwWkeRtcEvrKeyHieMem, (dmaAccess_frame ..), (putBytes_frame ..), (attestResponse_frame ..), (commandRefused_frame ..), (invalidateBranch_frame ..), (setSlot_frame ..), (beginTransition_frame ..), (clearTamper_frame ..), (commandDone_frame ..), (restoreRoot_frame ..), ↓(ite_fields ..), ite_self, implies_true, and_self]; done) | split)

@[simp] theorem newCell_frame (parent : Nat) (label : List Byte) (r : KeyReq) (s : State) :
    (newCell parent label r s).OnlyAnswerFreshKey s := by
  unfold newCell; (repeat' split) <;> simp only [State.OnlyAnswerFreshKey, (fillCell_frame ..), ↓(ite_fields ..), ite_self, implies_true, and_self]

@[simp] theorem fillRandom_frame (c buf n : Nat) (s : State) :
    (fillRandom c buf n s).pending = s.pending ∧ (fillRandom c buf n s).sys = s.sys ∧ (fillRandom c buf n s).jig = s.jig ∧ (fillRandom c buf n s).dio = s.dio ∧ (fillRandom c buf n s).aio = s.aio ∧ (fillRandom c buf n s).lpe = s.lpe ∧ (fillRandom c buf n s).rio = s.rio ∧ (fillRandom c buf n s).mac = s.mac ∧ (fillRandom c buf n s).ptp = s.ptp ∧ (fillRandom c buf n s).rtc = s.rtc ∧ (fillRandom c buf n s).cvu = s.cvu ∧ (fillRandom c buf n s).dbg = s.dbg ∧ (fillRandom c buf n s).enabled = s.enabled ∧ (fillRandom c buf n s).declared = s.declared := by
  unfold fillRandom; simp only [(coreRefused_frame ..), (putBytes_frame ..), (draw_frame ..), ↓(ite_fields ..), ite_self, implies_true, and_self]

@[simp] theorem requestResult_frame (r : KeyReq) (s : State) :
    (requestResult r s).pending = s.pending ∧ (requestResult r s).sys = s.sys ∧ (requestResult r s).jig = s.jig ∧ (requestResult r s).dio = s.dio ∧ (requestResult r s).aio = s.aio ∧ (requestResult r s).lpe = s.lpe ∧ (requestResult r s).rio = s.rio ∧ (requestResult r s).mac = s.mac ∧ (requestResult r s).ptp = s.ptp ∧ (requestResult r s).cvu = s.cvu ∧ (requestResult r s).dbg = s.dbg ∧ (requestResult r s).enabled = s.enabled ∧ (requestResult r s).declared = s.declared := by
  unfold requestResult; repeat' (first | (simp only [(ownUp_frame ..), (modKey_frame ..), (draw_frame ..), (attestResponse_frame ..), (invalidateBranch_frame ..), (runCommand_frame ..), (newCell_frame ..), (fillRandom_frame ..), ↓(ite_fields ..), ite_self, implies_true, and_self]; done) | split)

@[simp] theorem endRequest_frame (s : State) :
    (endRequest s).OnlyFreshKey s := by
  unfold endRequest; simp only [State.OnlyFreshKey, (modKey_frame ..), (draw_frame ..), (startNext_frame ..), ↓(ite_fields ..), ite_self, (foldl_OnlyFreshKey ..), implies_true, and_self]

@[simp] theorem finishRequest_frame (s : State) :
    (finishRequest s).pending = s.pending ∧ (finishRequest s).sys = s.sys ∧ (finishRequest s).jig = s.jig ∧ (finishRequest s).dio = s.dio ∧ (finishRequest s).aio = s.aio ∧ (finishRequest s).lpe = s.lpe ∧ (finishRequest s).rio = s.rio ∧ (finishRequest s).mac = s.mac ∧ (finishRequest s).ptp = s.ptp ∧ (finishRequest s).cvu = s.cvu ∧ (finishRequest s).dbg = s.dbg ∧ (finishRequest s).enabled = s.enabled ∧ (finishRequest s).declared = s.declared := by
  unfold finishRequest; (repeat' split) <;> simp only [(commandRefused_frame ..), (requestResult_frame ..), (endRequest_frame ..), ↓(ite_fields ..), ite_self, implies_true, and_self]

@[simp] theorem abortKey_frame (report : Bool) (s : State) :
    (abortKey report s).OnlyFreshEvrKeyHie s := by
  unfold abortKey; (repeat' split) <;> simp only [State.OnlyFreshEvrKeyHie, (modKey_frame ..), (keyEvent_frame ..), (draw_frame ..), ↓(ite_fields ..), ite_self, (foldl_OnlyFreshEvrKeyHie ..), implies_true, and_self]

@[simp] theorem detect_frame (cause : Nat) (s : State) :
    (detect cause s).OnlyFreshSysEvrKeyHie s := by
  unfold detect; simp only [State.OnlyFreshSysEvrKeyHie, (enterMode_frame ..), (modKey_frame ..), (keyEvent_frame ..), (abortKey_frame ..), ↓(ite_fields ..), ite_self, (foldl_OnlyFreshSysEvrKeyHie ..), implies_true, and_self]

/-! ### Reset -/

@[simp] theorem resetBlocks_frame (cause primary : Nat) (s : State) :
    (resetBlocks cause primary s).pending = s.pending ∧ (resetBlocks cause primary s).answer = s.answer ∧ (resetBlocks cause primary s).mem = s.mem := by
  unfold resetBlocks; simp only [↓(ite_fields ..), ite_self, implies_true, and_self]

@[simp] theorem assertReset_frame (i : Nat) (s : State) :
    (assertReset i s).pending = s.pending ∧ (assertReset i s).answer = s.answer ∧ (assertReset i s).mem = s.mem := by
  unfold assertReset; simp only [(settleOutputs_frame ..), (updEvent_frame ..), (captureRtc_frame ..), (resetBlocks_frame ..), ↓(ite_fields ..), ite_self, implies_true, and_self]

@[simp] theorem serviceReset_frame (s : State) :
    (serviceReset s).pending = s.pending ∧ (serviceReset s).answer = s.answer ∧ (serviceReset s).mem = s.mem := by
  unfold serviceReset; simp only [(assertReset_frame ..), ↓(ite_fields ..), ite_self, implies_true, and_self]

/-! ### Power -/

@[simp] theorem modSys_frame (f : Sys → Sys) (s : State) :
    (modSys f s).OnlySys s := by
  unfold modSys; simp only [State.OnlySys, ↓(ite_fields ..), ite_self, implies_true, and_self]

@[simp] theorem sysEvent_frame (code detail : Nat) (s : State) :
    (sysEvent code detail s).OnlyFreshEvrHie s := by
  unfold sysEvent; simp only [State.OnlyFreshEvrHie, (raise_frame ..), ↓(ite_fields ..), ite_self, implies_true, and_self]

@[simp] theorem loadEvent_frame (code detail : Nat) (s : State) :
    (loadEvent code detail s).OnlyFreshEvrHie s := by
  unfold loadEvent; simp only [State.OnlyFreshEvrHie, (raise_frame ..), ↓(ite_fields ..), ite_self, implies_true, and_self]

@[simp] theorem losePower_frame (s : State) :
    (losePower s).pending = s.pending ∧ (losePower s).answer = s.answer ∧ (losePower s).mem = s.mem := by
  unfold losePower; simp only [(assertReset_frame ..), ↓(ite_fields ..), ite_self, implies_true, and_self]

@[simp] theorem runtimeFailed_frame (code : Nat) (b : Bool) (s : State) :
    (runtimeFailed code b s).OnlyFreshDrwEvrHie s := by
  unfold runtimeFailed; simp only [State.OnlyFreshDrwEvrHie, (loadEvent_frame ..), ↓(ite_fields ..), ite_self, implies_true, and_self]

@[simp] theorem checkRuntime_frame (s : State) :
    (checkRuntime s).OnlyFreshDrwEvrHie s := by
  unfold checkRuntime; simp only [State.OnlyFreshDrwEvrHie, (runtimeFailed_frame ..), ↓(ite_fields ..), ite_self, implies_true, and_self]

@[simp] theorem tryRun_frame (s : State) :
    (tryRun s).OnlyFreshSysEvrHie s := by
  unfold tryRun; simp only [State.OnlyFreshSysEvrHie, (enterMode_frame ..), ↓(ite_fields ..), ite_self, implies_true, and_self]

@[simp] theorem resetRequest_frame (v : Nat) (s : State) :
    (resetRequest v s).pending = s.pending ∧ (resetRequest v s).answer = s.answer ∧ (resetRequest v s).mem = s.mem := by
  unfold resetRequest; simp only [(raiseIgnored_frame ..), (serviceReset_frame ..), ↓(ite_fields ..), ite_self, implies_true, and_self]

@[simp] theorem modeRequest_frame (v : Nat) (s : State) :
    (modeRequest v s).OnlyFreshSysStkDvtWkeEvrUpdHieCores s := by
  unfold modeRequest; simp only [State.OnlyFreshSysStkDvtWkeEvrUpdHieCores, (raiseIgnored_frame ..), (abandonUpdate_frame ..), (modSys_frame ..), ↓(ite_fields ..), ite_self, implies_true, and_self]

@[simp] theorem eccError_frame (s : State) :
    (eccError s).OnlyFreshSysEvrHie s := by
  unfold eccError; simp only [State.OnlyFreshSysEvrHie, (setCause_frame ..), (modSys_frame ..), ↓(ite_fields ..), ite_self, implies_true, and_self]

@[simp] theorem noteTemp_frame (t : Int) (s : State) :
    (noteTemp t s).OnlySys s := by
  unfold noteTemp; simp only [State.OnlySys, (modSys_frame ..), ↓(ite_fields ..), ite_self, implies_true, and_self]

/-! ### Upd -/

@[simp] theorem stageBytes_frame (bs : List Byte) (s : State) :
    (stageBytes bs s).OnlyUpd s := by
  unfold stageBytes; simp only [State.OnlyUpd, (modUpd_frame ..), ↓(ite_fields ..), ite_self, implies_true, and_self]

@[simp] theorem stageOpen_frame (s : State) :
    (stageOpen s).OnlyUpd s := by
  unfold stageOpen; simp only [State.OnlyUpd, (modUpd_frame ..), ↓(ite_fields ..), ite_self, implies_true, and_self]

@[simp] theorem xferStart_frame (owner : Option Nat) (s : State) :
    (xferStart owner s).OnlyUpd s := by
  unfold xferStart; simp only [State.OnlyUpd, (modUpd_frame ..), ↓(ite_fields ..), ite_self, implies_true, and_self]

@[simp] theorem xferDone_frame (s : State) :
    (xferDone s).OnlyFreshDrwEvrUpdHie s := by
  unfold xferDone; simp only [State.OnlyFreshDrwEvrUpdHie, (modUpd_frame ..), (dmaAccess_frame ..), (stageBytes_frame ..), ↓(ite_fields ..), ite_self, implies_true, and_self]

@[simp] theorem verifyStart_frame (s : State) :
    (verifyStart s).OnlyUpd s := by
  unfold verifyStart; simp only [State.OnlyUpd, (modUpd_frame ..), ↓(ite_fields ..), ite_self, implies_true, and_self]

@[simp] theorem verifyDone_frame (s : State) :
    (verifyDone s).OnlyFreshEvrUpdHie s := by
  unfold verifyDone; (repeat' split) <;> simp only [State.OnlyFreshEvrUpdHie, (modUpd_frame ..), (updEvent_frame ..), ↓(ite_fields ..), ite_self, implies_true, and_self]

@[simp] theorem adoptActive_frame (s : State) :
    (adoptActive s).OnlyDrw s := by
  unfold adoptActive; simp only [State.OnlyDrw, ↓(ite_fields ..), ite_self, implies_true, and_self]

@[simp] theorem startUpdate_frame (s : State) :
    (startUpdate s).pending = s.pending ∧ (startUpdate s).answer = s.answer ∧ (startUpdate s).mem = s.mem := by
  unfold startUpdate; simp only [(modUpd_frame ..), (updEvent_frame ..), (serviceReset_frame ..), ↓(ite_fields ..), ite_self, implies_true, and_self]

@[simp] theorem askRollback_frame (s : State) :
    (askRollback s).OnlyUpd s := by
  unfold askRollback; simp only [State.OnlyUpd, (modUpd_frame ..), ↓(ite_fields ..), ite_self, implies_true, and_self]

@[simp] theorem lockCommand_frame (owner : Option Nat) (s : State) :
    (lockCommand owner s).OnlyFreshDrwEvrUpdHie s := by
  unfold lockCommand; simp only [State.OnlyFreshDrwEvrUpdHie, (modUpd_frame ..), (updEvent_frame ..), (dmaAccess_frame ..), ↓(ite_fields ..), ite_self, implies_true, and_self]

@[simp] theorem updCommand_frame (v : Nat) (owner : Option Nat) (s : State) :
    (updCommand v owner s).pending = s.pending ∧ (updCommand v owner s).answer = s.answer ∧ (updCommand v owner s).mem = s.mem := by
  unfold updCommand; simp only [(raiseIgnored_frame ..), (modUpd_frame ..), (abandonUpdate_frame ..), (stageOpen_frame ..), (xferStart_frame ..), (verifyStart_frame ..), (startUpdate_frame ..), (askRollback_frame ..), (lockCommand_frame ..), ↓(ite_fields ..), ite_self, implies_true, and_self]; repeat' (first | (simp only [(raiseIgnored_frame ..), (modUpd_frame ..), (abandonUpdate_frame ..), (stageOpen_frame ..), (xferStart_frame ..), (verifyStart_frame ..), (startUpdate_frame ..), (askRollback_frame ..), (lockCommand_frame ..), ↓(ite_fields ..), ite_self, implies_true, and_self]; done) | split)

@[simp] theorem updService_frame (by_ : Option (Fin 16)) (cmd : Nat) (s : State) :
    (updService by_ cmd s).pending = s.pending ∧ (updService by_ cmd s).mem = s.mem := by
  unfold updService
  split
  · simp only [(updCommand_frame ..), and_self]
  · unfold service
    repeat' (first | (simp only [(updCommand_frame ..), (coreRefused_frame ..), and_self]; done) | split)

@[simp] theorem xferData_frame (v : Nat) (s : State) :
    (xferData v s).OnlyUpd s := by
  unfold xferData; simp only [State.OnlyUpd, (modUpd_frame ..), (coreRefused_frame ..), (service_frame ..), (stageBytes_frame ..), (verifyDone_frame ..), (updCommand_frame ..), (updService_frame ..), ↓(ite_fields ..), ite_self, implies_true, and_self]

@[simp] theorem shadowStart_frame (s : State) :
    (shadowStart s).OnlyFreshStkDvtWkeEvrUpdHieCores s := by
  unfold shadowStart; simp only [State.OnlyFreshStkDvtWkeEvrUpdHieCores, (modUpd_frame ..), (updEvent_frame ..), (abandonUpdate_frame ..), ↓(ite_fields ..), ite_self, implies_true, and_self]

@[simp] theorem coverageFail_frame (s : State) :
    (coverageFail s).OnlyFreshStkDvtWkeEvrUpdHieCores s := by
  unfold coverageFail; (repeat' split) <;> simp only [State.OnlyFreshStkDvtWkeEvrUpdHieCores, (failShadow_frame ..), ↓(ite_fields ..), ite_self, implies_true, and_self]

@[simp] theorem shadowEdge_frame (s : State) :
    (shadowEdge s).OnlyFreshStkDvtWkeEvrUpdHieCores s := by
  unfold shadowEdge; simp only [State.OnlyFreshStkDvtWkeEvrUpdHieCores, (modUpd_frame ..), (coverageFail_frame ..), ↓(ite_fields ..), ite_self, implies_true, and_self]

@[simp] theorem deferFail_frame (s : State) :
    (deferFail s).OnlyFreshStkDvtWkeEvrUpdHieCores s := by
  unfold deferFail; simp only [State.OnlyFreshStkDvtWkeEvrUpdHieCores, (abandonUpdate_frame ..), ↓(ite_fields ..), ite_self, implies_true, and_self]

@[simp] theorem mapTask_frame (n : Nat) (s : State) :
    (mapTask n s).OnlyUpdMem s := by
  unfold mapTask; simp only [State.OnlyUpdMem, (modUpd_frame ..), ↓(ite_fields ..), ite_self, implies_true, and_self]

@[simp] theorem doSwitch_frame (s : State) :
    (doSwitch s).OnlyFreshDrwStkDvtWkeEvrUpdHieCores s := by
  unfold doSwitch; simp only [State.OnlyFreshDrwStkDvtWkeEvrUpdHieCores, (modUpd_frame ..), (updEvent_frame ..), (endShadow_frame ..), (adoptActive_frame ..), ↓(ite_fields ..), ite_self, implies_true, and_self]

@[simp] theorem doRollback_frame (s : State) :
    (doRollback s).pending = s.pending ∧ (doRollback s).answer = s.answer ∧ (doRollback s).mem = s.mem := by
  unfold doRollback; (repeat' split) <;> simp only [(modUpd_frame ..), (updEvent_frame ..), (assertReset_frame ..), (adoptActive_frame ..), ↓(ite_fields ..), ite_self, implies_true, and_self]

@[simp] theorem noteCatch_frame (n : Nat) (s : State) :
    (noteCatch n s).OnlyDrwUpdMem s := by
  unfold noteCatch; simp only [State.OnlyDrwUpdMem, (modUpd_frame ..), (mapTask_frame ..), ↓(ite_fields ..), ite_self, implies_true, and_self]; repeat' (first | (simp only [State.OnlyDrwUpdMem, (modUpd_frame ..), (mapTask_frame ..), ↓(ite_fields ..), ite_self, implies_true, and_self]; done) | split)

@[simp] theorem switchEnds_frame (s : State) :
    (switchEnds s).OnlyUpd s := by
  unfold switchEnds; (repeat' split) <;> simp only [State.OnlyUpd, (modUpd_frame ..), ↓(ite_fields ..), ite_self, implies_true, and_self]

@[simp] theorem watchDone_frame (s : State) :
    (watchDone s).OnlyFreshDrwEvrUpdHie s := by
  unfold watchDone; simp only [State.OnlyFreshDrwEvrUpdHie, (modUpd_frame ..), (updEvent_frame ..), ↓(ite_fields ..), ite_self, implies_true, and_self]

@[simp] theorem watchEdge_frame (s : State) :
    (watchEdge s).OnlyFreshDrwEvrUpdHie s := by
  unfold watchEdge; simp only [State.OnlyFreshDrwEvrUpdHie, (modUpd_frame ..), (watchDone_frame ..), ↓(ite_fields ..), ite_self, implies_true, and_self]

@[simp] theorem watchBoot_frame (s : State) :
    (watchBoot s).OnlyUpd s := by
  unfold watchBoot; simp only [State.OnlyUpd, (modUpd_frame ..), ↓(ite_fields ..), ite_self, implies_true, and_self]

/-! ### Wke -/

@[simp] theorem modTakeover_frame (seat : Nat) (slots : List Nat) (f : Takeover → Takeover) (s : State) :
    (modTakeover seat slots f s).OnlyWke s := by
  unfold modTakeover; simp only [State.OnlyWke, ↓(ite_fields ..), ite_self, implies_true, and_self]

@[simp] theorem copiesLoaded_frame (t : Takeover) (us : Nat) (s : State) :
    (copiesLoaded t us s).OnlyFreshWkeEvrHieCoresMem s := by
  unfold copiesLoaded; simp only [State.OnlyFreshWkeEvrHieCoresMem, (takeoverDone_frame ..), (modTakeover_frame ..), ↓(ite_fields ..), ite_self, implies_true, and_self]

@[simp] theorem replayDone_frame (t : Takeover) (slot tn : Nat) (d : BitVec 64) (us : Nat) (l : List (Nat × Byte)) (s : State) :
    (replayDone t slot tn d us l s).pending = s.pending ∧ (replayDone t slot tn d us l s).answer = s.answer ∧ (replayDone t slot tn d us l s).drw = s.drw ∧ (replayDone t slot tn d us l s).jig = s.jig ∧ (replayDone t slot tn d us l s).dio = s.dio ∧ (replayDone t slot tn d us l s).aio = s.aio ∧ (replayDone t slot tn d us l s).lpe = s.lpe ∧ (replayDone t slot tn d us l s).rio = s.rio ∧ (replayDone t slot tn d us l s).mac = s.mac ∧ (replayDone t slot tn d us l s).ptp = s.ptp ∧ (replayDone t slot tn d us l s).rtc = s.rtc ∧ (replayDone t slot tn d us l s).cvu = s.cvu ∧ (replayDone t slot tn d us l s).dbg = s.dbg ∧ (replayDone t slot tn d us l s).enabled = s.enabled ∧ (replayDone t slot tn d us l s).declared = s.declared := by
  unfold replayDone; (repeat' split) <;> simp only [(raise_frame ..), (takeoverDone_frame ..), (failCore_frame ..), (modTakeover_frame ..), ↓(ite_fields ..), ite_self, implies_true, and_self]

@[simp] theorem rebuildTask_frame (n : Nat) (s : State) :
    (rebuildTask n s).pending = s.pending ∧ (rebuildTask n s).answer = s.answer ∧ (rebuildTask n s).sys = s.sys ∧ (rebuildTask n s).drw = s.drw ∧ (rebuildTask n s).jig = s.jig ∧ (rebuildTask n s).dio = s.dio ∧ (rebuildTask n s).aio = s.aio ∧ (rebuildTask n s).lpe = s.lpe ∧ (rebuildTask n s).rio = s.rio ∧ (rebuildTask n s).mac = s.mac ∧ (rebuildTask n s).ptp = s.ptp ∧ (rebuildTask n s).rtc = s.rtc ∧ (rebuildTask n s).cvu = s.cvu ∧ (rebuildTask n s).dbg = s.dbg ∧ (rebuildTask n s).enabled = s.enabled ∧ (rebuildTask n s).declared = s.declared ∧ (rebuildTask n s).mem = s.mem := by
  unfold rebuildTask; simp only [(gateIdle_frame ..), (noteVstore_frame ..), (dispatchAll_frame ..), (enterReplay_frame ..), (startTakeover_frame ..), (freeCores_frame ..), ↓(ite_fields ..), ite_self, (foldl_Only_31 ..), implies_true, and_self]

@[simp] theorem hitEffect_frame (h : MemHit) (s : State) :
    (hitEffect h s).pending = s.pending ∧ (hitEffect h s).answer = s.answer := by
  unfold hitEffect; (repeat' split) <;> simp only [(queueDrop_frame ..), (modRing_frame ..), (stopRing_frame ..), (txRefuse_frame ..), (assertReset_frame ..), (rebuildTask_frame ..), ↓(ite_fields ..), ite_self, (foldl_Only_106 ..), implies_true, and_self]

@[simp] theorem unblock_frame (n : Nat) (s : State) :
    (unblock n s).OnlyStk s := by
  unfold unblock; simp only [State.OnlyStk, (modTask_frame ..), ↓(ite_fields ..), ite_self, implies_true, and_self]

@[simp] theorem passTaken_frame (n taken : Nat) (s : State) :
    (passTaken n taken s).OnlyStk s := by
  unfold passTaken; simp only [State.OnlyStk, (modTask_frame ..), ↓(ite_fields ..), ite_self, implies_true, and_self]

@[simp] theorem settleWon_frame (x : Settle) (w : WriteSet) (row us : Nat) (s : State) :
    (settleWon x w row us s).OnlyFreshStkWkeEvrHie s := by
  unfold settleWon; simp only [State.OnlyFreshStkWkeEvrHie, (raise_frame ..), (passTaken_frame ..), ↓(ite_fields ..), ite_self, implies_true, and_self]

@[simp] theorem settleSeatFree_frame (x : Settle) (s : State) :
    (settleSeatFree x s).OnlyWkeCores s := by
  unfold settleSeatFree; simp only [State.OnlyWkeCores, (freeSeat_frame ..), ↓(ite_fields ..), ite_self, implies_true, and_self]

@[simp] theorem joinPair_frame (n c seat : Nat) (s : State) :
    (joinPair n c seat s).OnlyStk s := by
  unfold joinPair; simp only [State.OnlyStk, (modTask_frame ..), ↓(ite_fields ..), ite_self, implies_true, and_self]

@[simp] theorem seatReplaces_frame (x : Settle) (c : Nat) (s : State) :
    (seatReplaces x c s).OnlyFreshSysStkDvtWkeEvrUpdHieCores s := by
  unfold seatReplaces; simp only [State.OnlyFreshSysStkDvtWkeEvrUpdHieCores, (takeSeat_frame ..), (sparesOut_frame ..), (rebind_frame ..), (joinPair_frame ..), ↓(ite_fields ..), ite_self, implies_true, and_self]

@[simp] theorem settleEnds_frame (x : Settle) (matched : Option Nat) (us : Nat) (s : State) :
    (settleEnds x matched us s).pending = s.pending ∧ (settleEnds x matched us s).answer = s.answer ∧ (settleEnds x matched us s).drw = s.drw ∧ (settleEnds x matched us s).jig = s.jig ∧ (settleEnds x matched us s).dio = s.dio ∧ (settleEnds x matched us s).aio = s.aio ∧ (settleEnds x matched us s).lpe = s.lpe ∧ (settleEnds x matched us s).rio = s.rio ∧ (settleEnds x matched us s).mac = s.mac ∧ (settleEnds x matched us s).ptp = s.ptp ∧ (settleEnds x matched us s).rtc = s.rtc ∧ (settleEnds x matched us s).cvu = s.cvu ∧ (settleEnds x matched us s).dbg = s.dbg ∧ (settleEnds x matched us s).enabled = s.enabled ∧ (settleEnds x matched us s).declared = s.declared ∧ (settleEnds x matched us s).mem = s.mem := by
  unfold settleEnds; (repeat' split) <;> simp only [(unsettle_frame ..), (failCoreTo_frame ..), (settleWon_frame ..), (settleSeatFree_frame ..), (joinPair_frame ..), (seatReplaces_frame ..), ↓(ite_fields ..), ite_self, implies_true, and_self]

/-! ### Dbg -/

@[simp] theorem modDbg_frame (f : Dbg → Dbg) (s : State) :
    (modDbg f s).OnlyDbg s := by
  unfold modDbg; simp only [State.OnlyDbg, ↓(ite_fields ..), ite_self, implies_true, and_self]

@[simp] theorem dbgEvent_frame (code detail : Nat) (s : State) :
    (dbgEvent code detail s).OnlyFreshEvrHie s := by
  unfold dbgEvent; simp only [State.OnlyFreshEvrHie, (raise_frame ..), ↓(ite_fields ..), ite_self, implies_true, and_self]

@[simp] theorem probeWrote_frame (s : State) :
    (probeWrote s).OnlyDbg s := by
  unfold probeWrote; simp only [State.OnlyDbg, (modDbg_frame ..), ↓(ite_fields ..), ite_self, implies_true, and_self]

@[simp] theorem tap_frame (f : Dbg → Dbg) (out : Nat) (s : State) :
    (tap f out s).OnlyAnswerDbg s := by
  unfold tap; simp only [State.OnlyAnswerDbg, (modDbg_frame ..), ↓(ite_fields ..), ite_self, implies_true, and_self]

@[simp] theorem presentToken_frame (s : State) :
    (presentToken s).OnlyFreshEvrKeyHieDbgEnabled s := by
  unfold presentToken; simp only [State.OnlyFreshEvrKeyHieDbgEnabled, (modKey_frame ..), (keyEvent_frame ..), (modDbg_frame ..), ↓(ite_fields ..), ite_self, implies_true, and_self]

@[simp] theorem tokenWrite_frame (v : Nat) (s : State) :
    (tokenWrite v s).OnlyDbg s := by
  unfold tokenWrite; simp only [State.OnlyDbg, (modDbg_frame ..), (probeWrote_frame ..), ↓(ite_fields ..), ite_self, implies_true, and_self]

@[simp] theorem enableDebug_frame (s : State) :
    (enableDebug s).OnlyFreshRtcEvrKeyHie s := by
  unfold enableDebug; simp only [State.OnlyFreshRtcEvrKeyHie, (modKey_frame ..), (dbgEvent_frame ..), ↓(ite_fields ..), ite_self, implies_true, and_self]

@[simp] theorem askStep_frame (freeze : Bool) (s : State) :
    (askStep freeze s).OnlyDbg s := by
  unfold askStep; simp only [State.OnlyDbg, (modDbg_frame ..), ↓(ite_fields ..), ite_self, implies_true, and_self]

@[simp] theorem releaseDebug_frame (s : State) :
    (releaseDebug s).pending = s.pending ∧ (releaseDebug s).answer = s.answer ∧ (releaseDebug s).mem = s.mem := by
  unfold releaseDebug; simp only [(assertReset_frame ..), (modSys_frame ..), (modDbg_frame ..), ↓(ite_fields ..), ite_self, implies_true, and_self]

@[simp] theorem dbgRequest_frame (v : Nat) (s : State) :
    (dbgRequest v s).pending = s.pending ∧ (dbgRequest v s).answer = s.answer ∧ (dbgRequest v s).mem = s.mem := by
  unfold dbgRequest; simp only [(raiseIgnored_frame ..), (modSys_frame ..), (modDbg_frame ..), (probeWrote_frame ..), (presentToken_frame ..), (enableDebug_frame ..), (askStep_frame ..), (releaseDebug_frame ..), ↓(ite_fields ..), ite_self, implies_true, and_self]; repeat' (first | (simp only [(raiseIgnored_frame ..), (modSys_frame ..), (modDbg_frame ..), (probeWrote_frame ..), (presentToken_frame ..), (enableDebug_frame ..), (askStep_frame ..), (releaseDebug_frame ..), ↓(ite_fields ..), ite_self, implies_true, and_self]; done) | split)

@[simp] theorem tagWrite_frame (v : Nat) (s : State) :
    (tagWrite v s).OnlyDbg s := by
  unfold tagWrite; simp only [State.OnlyDbg, (modDbg_frame ..), (probeWrote_frame ..), ↓(ite_fields ..), ite_self, implies_true, and_self]

@[simp] theorem modDbgCore_frame (c : Nat) (f : DbgCore → DbgCore) (s : State) :
    (modDbgCore c f s).OnlyDbgCores s := by
  unfold modDbgCore; simp only [State.OnlyDbgCores, (modDbg_frame ..), ↓(ite_fields ..), ite_self, implies_true, and_self]

@[simp] theorem holdCore_frame (c cause index pc : Nat) (regs : List (Nat × Nat)) (s : State) :
    (holdCore c cause index pc regs s).OnlyDbgCores s := by
  unfold holdCore; simp only [State.OnlyDbgCores, (modCore_frame ..), (modDbgCore_frame ..), ↓(ite_fields ..), ite_self, (foldl_OnlyDbgCores ..), implies_true, and_self]

@[simp] theorem holdFree_frame (c cause : Nat) (s : State) :
    (holdFree c cause s).OnlyFreshDbgCores s := by
  unfold holdFree; simp only [State.OnlyFreshDbgCores, (holdCore_frame ..), ↓(ite_fields ..), ite_self, implies_true, and_self]

@[simp] theorem stepCheck_frame (s : State) :
    (stepCheck s).OnlyDbg s := by
  unfold stepCheck; simp only [State.OnlyDbg, (modDbg_frame ..), ↓(ite_fields ..), ite_self, implies_true, and_self]

@[simp] theorem keepHold_frame (c : Nat) (s : State) :
    (keepHold c s).OnlyDbgCores s := by
  unfold keepHold; simp only [State.OnlyDbgCores, (modDbgCore_frame ..), ↓(ite_fields ..), ite_self, implies_true, and_self]

@[simp] theorem coreRun_frame (c : Nat) (s : State) :
    (coreRun c s).OnlyFreshStkEvrUpdHieDbgCores s := by
  unfold coreRun; simp only [State.OnlyFreshStkEvrUpdHieDbgCores, (gateIdle_frame ..), (dispatchCore_frame ..), (modDbg_frame ..), (probeWrote_frame ..), (modDbgCore_frame ..), (stepCheck_frame ..), ↓(ite_fields ..), ite_self, implies_true, and_self]

@[simp] theorem forceWrite_frame (e word v : Nat) (s : State) :
    (forceWrite e word v s).OnlyFreshEvrHieDbg s := by
  unfold forceWrite; simp only [State.OnlyFreshEvrHieDbg, (modDbg_frame ..), (dbgEvent_frame ..), (probeWrote_frame ..), ↓(ite_fields ..), ite_self, implies_true, and_self]

end Sys2Proof.Machine
end

