-- ==== Sys2Proof/Laws/KeepsRegs.lean ====
section
/-! SUPPORT. What each operation keeps of the commands that wait, memory, the fuses and the least serial: register writes and the tree. -/
namespace Sys2Proof.Machine

/-! ### RegsSys -/

theorem rwl_keeps (b : Block) (off : Nat) (f : State → State) (s : State) (hf : ∀ (s : State), (f s).Keeps s) :
    (rwl b off f s).Keeps s := by
  unfold rwl; simp only [State.Keeps, (raiseIgnored_keeps ..), hf, ↓(ite_keeps ..), ↓ite_fuses, ↓ite_floor, ite_self, and_self]

theorem refuseValue_keeps (b : Block) (off : Nat) (bad : Bool) (f : State → State) (s : State) (hf : ∀ (s : State), (f s).Keeps s) :
    (refuseValue b off bad f s).Keeps s := by
  unfold refuseValue; simp only [State.Keeps, (raiseIgnored_keeps ..), hf, ↓(ite_keeps ..), ↓ite_fuses, ↓ite_floor, ite_self, and_self]

@[simp] theorem writeEnable_keeps (b : Block) (v : Nat) (s : State) :
    (writeEnable b v s).Keeps s := by
  unfold writeEnable; simp only [State.Keeps, (rwl_keeps ..), (refuseValue_keeps ..), ↓(ite_keeps ..), ↓ite_fuses, ↓ite_floor, ite_self, implies_true, and_self]

@[simp] theorem writeSys_keeps (off v : Nat) (s : State) :
    (writeSys off v s).pending = s.pending ∧ (writeSys off v s).mem = s.mem ∧ (writeSys off v s).drw.serialFloor = s.drw.serialFloor := by
  unfold writeSys; (repeat' split) <;> simp only [State.Keeps, (modSys_keeps ..), (resetRequest_keeps ..), (modeRequest_keeps ..), (rwl_keeps ..), (refuseValue_keeps ..), implies_true, and_self]

@[simp] theorem writeDrw_keeps (off v : Nat) (s : State) :
    (writeDrw off v s).Keeps s := by
  unfold writeDrw; simp only [State.Keeps, ↓(ite_keeps ..), ↓ite_floor, ite_self, and_self]

@[simp] theorem writeStk_keeps (off v : Nat) (s : State) :
    (writeStk off v s).Keeps s := by
  unfold writeStk; (repeat' split) <;> simp only [State.Keeps, (modTask_keeps ..), and_self]

@[simp] theorem writeDvt_keeps (off v : Nat) (s : State) :
    (writeDvt off v s).Keeps s := by
  unfold writeDvt; (repeat' split) <;> simp only [State.Keeps, and_self]

@[simp] theorem writeWke_keeps (off v : Nat) (s : State) :
    (writeWke off v s).Keeps s := by
  unfold writeWke; (repeat' split) <;> simp only [State.Keeps, (rwl_keeps ..), (refuseValue_keeps ..), implies_true, and_self]

/-! ### RegsIo -/

@[simp] theorem writeJig_keeps (off v : Nat) (s : State) :
    (writeJig off v s).Keeps s := by
  unfold writeJig; simp only [State.Keeps, (latchClr_keeps ..), ↓(ite_keeps ..), ↓ite_fuses, ↓ite_floor, ite_self, and_self]

@[simp] theorem clearDioFlags_keeps (n v : Nat) (s : State) :
    (clearDioFlags n v s).Keeps s := by
  unfold clearDioFlags; simp only [State.Keeps, (modDi_keeps ..), (modDo_keeps ..), ↓(ite_keeps ..), ↓ite_fuses, ↓ite_floor, ite_self, and_self]

@[simp] theorem writeDio_keeps (off v : Nat) (s : State) :
    (writeDio off v s).Keeps s := by
  unfold writeDio; (repeat' split) <;> simp only [State.Keeps, (channelClr_keeps ..), (groupClr_keeps ..), (clearDioFlags_keeps ..), ↓(ite_keeps ..), ↓ite_fuses, ↓ite_floor, ite_self, and_self]

@[simp] theorem writeAio_keeps (off v : Nat) (s : State) :
    (writeAio off v s).Keeps s := by
  unfold writeAio; simp only [State.Keeps, (modAio_keeps ..), ↓(ite_keeps ..), ↓ite_fuses, ↓ite_floor, ite_self, and_self]

@[simp] theorem writeLpe_keeps (off v : Nat) (s : State) :
    (writeLpe off v s).Keeps s := by
  unfold writeLpe; (repeat' split) <;> simp only [State.Keeps, (modLoop_keeps ..), and_self]

@[simp] theorem writeRio_keeps (off v : Nat) (s : State) :
    (writeRio off v s).Keeps s := by
  unfold writeRio; (repeat' split) <;> simp only [State.Keeps, (modSta_keeps ..), and_self]

@[simp] theorem applyStaged_keeps (addr v : Nat) (s : State) :
    (applyStaged addr v s).Keeps s := by
  unfold applyStaged; simp only [State.Keeps, (applyDioCfg_keeps ..), (applyAioCfg_keeps ..), (applyLpe_keeps ..), ↓(ite_keeps ..), ↓ite_fuses, ↓ite_floor, ite_self, (foldl_keeps ..), implies_true, and_self]; repeat' (first | (simp only [State.Keeps, (applyDioCfg_keeps ..), (applyAioCfg_keeps ..), (applyLpe_keeps ..), ↓(ite_keeps ..), ↓ite_fuses, ↓ite_floor, ite_self, (foldl_keeps ..), implies_true, and_self]; done) | split)

/-! ### RegsNet -/

@[simp] theorem writeBufReg_keeps (n b off v : Nat) (s : State) :
    (writeBufReg n b off v s).Keeps s := by
  unfold writeBufReg; (repeat' split) <;> simp only [State.Keeps, (writeBuf_keeps ..), and_self]

@[simp] theorem popWrite_keeps (n q v : Nat) (s : State) :
    (popWrite n q v s).Keeps s := by
  unfold popWrite; (repeat' split) <;> simp only [State.Keeps, (queuePop_keeps ..), (queueRelease_keeps ..), and_self]

@[simp] theorem writeCan_keeps (n off v : Nat) (s : State) :
    (writeCan n off v s).Keeps s := by
  unfold writeCan; (repeat' split) <;> simp only [State.Keeps, (modCan_keeps ..), (requestBufs_keeps ..), (cancelBufs_keeps ..), (recoverWrite_keeps ..), (rwl_keeps ..), (writeBufReg_keeps ..), (popWrite_keeps ..), implies_true, and_self]

@[simp] theorem writeRing_keeps (m : Nat) (queue : Bool) (i off v : Nat) (s : State) :
    (writeRing m queue i off v s).pending = s.pending ∧ (writeRing m queue i off v s).key.fuses = s.key.fuses ∧ (writeRing m queue i off v s).drw.serialFloor = s.drw.serialFloor := by
  unfold writeRing; (repeat' split) <;> simp only [(ringCfg_keeps ..), (ringBase_keeps ..), (ringTail_keeps ..), and_self]

@[simp] theorem writeMac_keeps (m off v : Nat) (s : State) :
    (writeMac m off v s).pending = s.pending ∧ (writeMac m off v s).key.fuses = s.key.fuses ∧ (writeMac m off v s).drw.serialFloor = s.drw.serialFloor := by
  unfold writeMac; (repeat' split) <;> simp only [State.Keeps, (modMac_keeps ..), (rwl_keeps ..), (writeRing_keeps ..), implies_true, and_self]

@[simp] theorem writePtp_keeps (off v : Nat) (s : State) :
    (writePtp off v s).Keeps s := by
  unfold writePtp; (repeat' split) <;> simp only [State.Keeps, (modPtp_keeps ..), (rwl_keeps ..), implies_true, and_self]

@[simp] theorem setCommand_keeps (v : Nat) (s : State) :
    (setCommand v s).Keeps s := by
  unfold setCommand; (repeat' split) <;> simp only [State.Keeps, (rtcKey_keeps ..), (setNextEdge_keeps ..), (setNow_keeps ..), (setCancel_keeps ..), implies_true, and_self]

@[simp] theorem writeRtc_keeps (off v : Nat) (s : State) :
    (writeRtc off v s).Keeps s := by
  unfold writeRtc; (repeat' split) <;> simp only [State.Keeps, (modRtc_keeps ..), (setCommand_keeps ..), ↓(ite_keeps ..), ↓ite_fuses, ↓ite_floor, ite_self, and_self]

@[simp] theorem writeEvr_keeps (off v : Nat) (s : State) :
    (writeEvr off v s).Keeps s := by
  unfold writeEvr; (repeat' split) <;> simp only [State.Keeps, (modEvr_keeps ..), (clearWrite_keeps ..), (rwl_keeps ..), (refuseValue_keeps ..), implies_true, and_self]

@[simp] theorem writeCvu_keeps (n off v : Nat) (s : State) :
    (writeCvu n off v s).Keeps s := by
  unfold writeCvu; (repeat' split) <;> simp only [State.Keeps, (modCvu_keeps ..), (cvuWrite_keeps ..), and_self]

/-! ### RegsTop -/

@[simp] theorem keyGo_keeps (s : State) :
    (keyGo s).Keeps s := by
  unfold keyGo; simp only [State.Keeps, (dmaAccess_keeps ..), (commandRefused_keeps ..), (keyCommand_keeps ..), ↓(ite_keeps ..), ↓ite_fuses, ↓ite_floor, ite_self, (foldl_keeps ..), implies_true, and_self]; repeat' (first | (simp only [State.Keeps, (dmaAccess_keeps ..), (commandRefused_keeps ..), (keyCommand_keeps ..), ↓(ite_keeps ..), ↓ite_fuses, ↓ite_floor, ite_self, (foldl_keeps ..), implies_true, and_self]; done) | split)

@[simp] theorem writeKey_keeps (off v : Nat) (s : State) :
    (writeKey off v s).Keeps s := by
  unfold writeKey; (repeat' split) <;> simp only [State.Keeps, (keyGo_keeps ..), modKey, and_self]

@[simp] theorem writeUpd_keeps (owner : Option Nat) (off v : Nat) (s : State) :
    (writeUpd owner off v s).pending = s.pending ∧ (writeUpd owner off v s).mem = s.mem ∧ (writeUpd owner off v s).drw.serialFloor = s.drw.serialFloor := by
  unfold writeUpd; (repeat' split) <;> simp only [State.Keeps, (modUpd_keeps ..), (updCommand_keeps ..), (xferData_keeps ..), (rwl_keeps ..), implies_true, and_self]

@[simp] theorem writeCoreReg_keeps (c : Nat) (hi : Bool) (v : Nat) (s : State) :
    (writeCoreReg c hi v s).Keeps s := by
  unfold writeCoreReg; simp only [State.Keeps, (modDbgCore_keeps ..), ↓(ite_keeps ..), ↓ite_fuses, ↓ite_floor, ite_self, and_self]

@[simp] theorem coreCmd_keeps (c v : Nat) (s : State) :
    (coreCmd c v s).Keeps s := by
  unfold coreCmd; (repeat' split) <;> simp only [State.Keeps, (holdFree_keeps ..), (keepHold_keeps ..), (coreRun_keeps ..), and_self]

@[simp] theorem writeDbgCore_keeps (c off v : Nat) (s : State) :
    (writeDbgCore c off v s).Keeps s := by
  unfold writeDbgCore; (repeat' split) <;> simp only [State.Keeps, (modDbgCore_keeps ..), (writeCoreReg_keeps ..), (coreCmd_keeps ..), and_self]

@[simp] theorem writeDbg_keeps (off v : Nat) (s : State) :
    (writeDbg off v s).pending = s.pending ∧ (writeDbg off v s).mem = s.mem ∧ (writeDbg off v s).drw.serialFloor = s.drw.serialFloor := by
  unfold writeDbg; (repeat' split) <;> simp only [(probeWrote_keeps ..), (tokenWrite_keeps ..), (dbgRequest_keeps ..), (tagWrite_keeps ..), (forceWrite_keeps ..), (writeDbgCore_keeps ..), and_self]

/-! ### Regs -/

@[simp] theorem readReg_keeps (by_ : Option (Nat × Nat)) (b : Block) (off : Nat) (s : State) :
    (readReg by_ b off s).2.Keeps s := by
  unfold readReg; (repeat' split) <;> simp only [State.Keeps, (modCan_keeps ..), (queueLock_keeps ..), (latchTime_keeps ..), (modPtp_keeps ..), (tsqTake_keeps ..), (modEvr_keeps ..), (draw_keeps ..), and_self]

@[simp] theorem readBy_keeps (by_ : Option (Nat × Stroke × Copy)) (a : Nat) (s : State) :
    (readBy by_ a s).2.Keeps s := by
  unfold readBy; (repeat' split) <;> simp only [State.Keeps, (readReg_keeps ..), and_self]

@[simp] theorem readAt_keeps (a : Nat) (s : State) :
    (readAt a s).2.Keeps s := by
  unfold readAt; (repeat' split) <;> simp only [State.Keeps, (readBy_keeps ..), and_self]

@[simp] theorem coreRead_keeps (c a : Nat) (s : State) :
    (coreRead c a s).2.Keeps s := by
  unfold coreRead; simp only [State.Keeps, (readBy_keeps ..), and_self]

@[simp] theorem setCtrlBits_keeps (b : Block) (v : Nat) (s : State) :
    (setCtrlBits b v s).Keeps s := by
  unfold setCtrlBits; (repeat' split) <;> simp only [State.Keeps, (modCan_keeps ..), (modPtp_keeps ..), (modMac_keeps ..), and_self]

@[simp] theorem writeCtrl_keeps (b : Block) (v : Nat) (s : State) :
    (writeCtrl b v s).Keeps s := by
  unfold writeCtrl; simp only [State.Keeps, (writeEnable_keeps ..), (setCtrlBits_keeps ..), ↓(ite_keeps ..), ↓ite_fuses, ↓ite_floor, ite_self, and_self]

@[simp] theorem writeReg_keeps (owner : Option Nat) (b : Block) (off v : Nat) (s : State) :
    (writeReg owner b off v s).pending = s.pending ∧ (writeReg owner b off v s).drw.serialFloor = s.drw.serialFloor := by
  unfold writeReg; (repeat' split) <;> simp [State.Keeps, (rwl_keeps ..), (writeSys_keeps ..), (writeDrw_keeps ..), (writeStk_keeps ..), (writeDvt_keeps ..), (writeWke_keeps ..), (writeJig_keeps ..), (writeDio_keeps ..), (writeAio_keeps ..), (writeLpe_keeps ..), (writeRio_keeps ..), (writeCan_keeps ..), (writeMac_keeps ..), (writePtp_keeps ..), (writeRtc_keeps ..), (writeEvr_keeps ..), (writeCvu_keeps ..), (writeKey_keeps ..), (writeUpd_keeps ..), (writeDbg_keeps ..), (writeCtrl_keeps ..), implies_true, and_self]

@[simp] theorem stageOutside_keeps (tag : Option Nat) (addr v : Nat) (s : State) :
    (stageOutside tag addr v s).Keeps s := by
  unfold stageOutside; simp only [State.Keeps, (raise_keeps ..), (settleOutputs_keeps ..), (applyStaged_keeps ..), ↓(ite_keeps ..), ↓ite_fuses, ↓ite_floor, ite_self, and_self]

@[simp] theorem writeAt_keeps (tag : Option Nat) (a v : Nat) (s : State) :
    (writeAt tag a v s).pending = s.pending ∧ (writeAt tag a v s).drw.serialFloor = s.drw.serialFloor := by
  unfold writeAt; (repeat' split) <;> simp only [(putBytes_keeps ..), (writeReg_keeps ..), (stageOutside_keeps ..), and_self]

@[simp] theorem coreWrite_keeps (c a v : Nat) (s : State) :
    (coreWrite c a v s).pending = s.pending ∧ (coreWrite c a v s).drw.serialFloor = s.drw.serialFloor := by
  unfold coreWrite; (repeat' split) <;> simp only [(coreRefused_keeps ..), (grpOpen_keeps ..), (grpCommit_keeps ..), (grpAbort_keeps ..), (stageWrite_keeps ..), (writeReg_keeps ..), ↓(ite_keeps ..), ↓ite_floor, ite_self, and_self]

@[simp] theorem tagStore_keeps (by_ : Option (Fin 16)) (a v : Nat) (s : State) :
    (tagStore by_ a v s).pending = s.pending ∧ (tagStore by_ a v s).key.fuses = s.key.fuses ∧ (tagStore by_ a v s).drw.serialFloor = s.drw.serialFloor := by
  unfold tagStore; (repeat' split) <;> simp only [(coreRefused_keeps ..), (putBytes_keeps ..), and_self]

@[simp] theorem registerWrite_keeps (by_ : Option (Fin 16)) (a v : Nat) (s : State) :
    (registerWrite by_ a v s).pending = s.pending ∧ (registerWrite by_ a v s).drw.serialFloor = s.drw.serialFloor := by
  unfold registerWrite; (repeat' split) <;> simp only [(noteRefused_keeps ..), (writeAt_keeps ..), (coreWrite_keeps ..), (tagStore_keeps ..), and_self]

@[simp] theorem noteBypass_keeps (a : Nat) (s : State) :
    (noteBypass a s).Keeps s := by
  unfold noteBypass; simp only [State.Keeps, (dbgEvent_keeps ..), modKey, ↓(ite_keeps ..), ↓ite_fuses, ↓ite_floor, ite_self, and_self]

@[simp] theorem svcEnd_keeps (status data : Nat) (s : State) :
    (svcEnd status data s).Keeps s := by
  unfold svcEnd; simp only [State.Keeps, (modDbg_keeps ..), and_self]

/-! ### Hie -/

@[simp] theorem ownDown_keeps (child : Nat) (ackReq : Bool) (body : MarzinBody) (s : State) :
    (ownDown child ackReq body s).Keeps s := by
  unfold ownDown; simp only [State.Keeps, (hieSend_keeps ..), and_self]

@[simp] theorem toParent_keeps (ackReq : Bool) (body : MarzinBody) (s : State) :
    (toParent ackReq body s).Keeps s := by
  unfold toParent; simp only [State.Keeps, (sendUp_keeps ..), and_self]

@[simp] theorem sendAck_keeps (peer cls seq status : Nat) (s : State) :
    (sendAck peer cls seq status s).Keeps s := by
  unfold sendAck; simp only [State.Keeps, (modHie_keeps ..), (ownDown_keeps ..), (toParent_keeps ..), ↓(ite_keeps ..), ↓ite_fuses, ↓ite_floor, ite_self, and_self]

@[simp] theorem routeDown_keeps (dest : Nat) (m : Marzin) (s : State) :
    (routeDown dest m s).Keeps s := by
  unfold routeDown Option.elim; repeat' (first | (simp only [State.Keeps, (hieSend_keeps ..), and_self]; done) | split)

@[simp] theorem endSession_keeps (peer : Nat) (s : State) :
    (endSession peer s).Keeps s := by
  unfold endSession; simp only [State.Keeps, (modHie_keeps ..), and_self]

@[simp] theorem noteAccepted_keeps (h : MarzinHead) (s : State) :
    (noteAccepted h s).Keeps s := by
  unfold noteAccepted; simp only [State.Keeps, (modHie_keeps ..), and_self]

theorem receive_keeps (h : MarzinHead) (session : Bool) (cls : Nat) (handle : State → Nat × State) (s : State) (hhandle : ∀ (s : State), (handle s).2.Keeps s) :
    (receive h session cls handle s).Keeps s := by
  unfold receive; dsimp only; repeat' (first | (simp only [State.Keeps, (modHie_keeps ..), (sendAck_keeps ..), (noteAccepted_keeps ..), hhandle, ↓(ite_keeps ..), ↓ite_fuses, ↓ite_floor, ite_self, and_self]; done) | split)

@[simp] theorem intoIngress_keeps (m : Marzin) (s : State) :
    (intoIngress m s).Keeps s := by
  unfold intoIngress; simp only [State.Keeps, (modHie_keeps ..), (noteArb_keeps ..), and_self]

theorem fromAbove_keeps (m : Marzin) (own : State → State) (s : State) (hown : ∀ (s : State), (own s).Keeps s) :
    (fromAbove m own s).Keeps s := by
  unfold fromAbove; simp only [State.Keeps, (hieSend_keeps ..), (routeDown_keeps ..), hown, ↓(ite_keeps ..), ↓ite_fuses, ↓ite_floor, ite_self, (foldl_keeps ..), implies_true, and_self]

@[simp] theorem originate_keeps (dest : Nat) (body : MarzinBody) (s : State) :
    (originate dest body s).Keeps s := by
  unfold originate; simp only [State.Keeps, (hieSend_keeps ..), (routeDown_keeps ..), ↓(ite_keeps ..), ↓ite_fuses, ↓ite_floor, ite_self, (foldl_keeps ..), implies_true, and_self]

theorem bothWays_keeps (h : MarzinHead) (body : MarzinBody) (own : State → State) (s : State) (hown : ∀ (s : State), (own s).Keeps s) :
    (bothWays h body own s).Keeps s := by
  unfold bothWays
  split
  · simp only [State.Keeps, (intoIngress_keeps ..), (originate_keeps ..), and_self]
  · refine receive_keeps _ _ _ _ _ ?_
    intro s
    split
    · exact fromAbove_keeps _ _ _ hown
    · simp only [State.Keeps, (intoIngress_keeps ..), (originate_keeps ..), and_self]

@[simp] theorem upOnly_keeps (h : MarzinHead) (body : MarzinBody) (s : State) :
    (upOnly h body s).Keeps s := by
  unfold upOnly; simp only [State.Keeps, (receive_keeps ..), (intoIngress_keeps ..), ↓(ite_keeps ..), ↓ite_fuses, ↓ite_floor, ite_self, implies_true, and_self]

@[simp] theorem hieEvent_keeps (code detail : Nat) (s : State) :
    (hieEvent code detail s).Keeps s := by
  unfold hieEvent; simp only [State.Keeps, (raise_keeps ..), and_self]

@[simp] theorem agreeKey_keeps (peer : Nat) (s : State) :
    (agreeKey peer s).Keeps s := by
  unfold agreeKey; simp only [State.Keeps, and_self]

@[simp] theorem admitChild_keeps (node role : Nat) (ident : List Byte) (s : State) :
    (admitChild node role ident s).Keeps s := by
  unfold admitChild; simp only [State.Keeps, (modHie_keeps ..), (ownDown_keeps ..), (hieEvent_keeps ..), (agreeKey_keeps ..), and_self]

@[simp] theorem joinChild_keeps (node : Nat) (a : AlignMsg) (attested : Bool) (s : State) :
    (joinChild node a attested s).Keeps s := by
  unfold joinChild; simp only [State.Keeps, (ownDown_keeps ..), (hieEvent_keeps ..), (admitChild_keeps ..), ↓(ite_keeps ..), ↓ite_fuses, ↓ite_floor, ite_self, and_self]

@[simp] theorem hearParent_keeps (origin : Nat) (s : State) :
    (hearParent origin s).Keeps s := by
  unfold hearParent; simp only [State.Keeps, (modHie_keeps ..), (hieEvent_keeps ..), ↓(ite_keeps ..), ↓ite_fuses, ↓ite_floor, ite_self, and_self]

@[simp] theorem joined_keeps (level origin : Nat) (s : State) :
    (joined level origin s).Keeps s := by
  unfold joined; simp only [State.Keeps, (modHie_keeps ..), (ownUp_keeps ..), (agreeKey_keeps ..), (hearParent_keeps ..), and_self]

@[simp] theorem handleAlign_keeps (h : MarzinHead) (a : AlignMsg) (s : State) :
    (handleAlign h a s).Keeps s := by
  unfold handleAlign; (repeat' split) <;> simp only [State.Keeps, (modHie_keeps ..), (toParent_keeps ..), (joinChild_keeps ..), (hearParent_keeps ..), (joined_keeps ..), and_self]

@[simp] theorem publishDir_keeps (node : Nat) (l : List PubEntry) (s : State) :
    (publishDir node l s).Keeps s := by
  unfold publishDir; simp only [State.Keeps, (modHie_keeps ..), (hieEvent_keeps ..), ↓(ite_keeps ..), ↓ite_fuses, ↓ite_floor, ite_self, and_self]

@[simp] theorem endWait_keeps (target point : Nat) (e : Option (List Byte)) (s : State) :
    (endWait target point e s).Keeps s := by
  unfold endWait; simp only [State.Keeps, (modHie_keeps ..), ↓(ite_keeps ..), ↓ite_fuses, ↓ite_floor, ite_self, and_self]

@[simp] theorem answerTo_keeps (node target point : Nat) (e : Option (List Byte)) (s : State) :
    (answerTo node target point e s).Keeps s := by
  unfold answerTo Option.elim; repeat' (first | (simp only [State.Keeps, (hieSend_keeps ..), (endWait_keeps ..), ↓(ite_keeps ..), ↓ite_fuses, ↓ite_floor, and_self]; done) | split)

@[simp] theorem decideRead_keeps (node tenant : Nat) (service : Bool) (target point : Nat) (m : Marzin) (s : State) :
    (decideRead node tenant service target point m s).Keeps s := by
  unfold decideRead; simp only [State.Keeps, (routeDown_keeps ..), (answerTo_keeps ..), ↓(ite_keeps ..), ↓ite_fuses, ↓ite_floor, ite_self, and_self]

@[simp] theorem directoryDown_keeps (d : DirMsg) (s : State) :
    (directoryDown d s).Keeps s := by
  unfold directoryDown; (repeat' split) <;> simp only [State.Keeps, (ownUp_keeps ..), (endWait_keeps ..), and_self]

@[simp] theorem askTree_keeps (c d node point : Nat) (s : State) :
    (askTree c d node point s).Keeps s := by
  unfold askTree; simp only [State.Keeps, (modHie_keeps ..), (sendUp_keeps ..), (endWait_keeps ..), (decideRead_keeps ..), ↓(ite_keeps ..), ↓ite_fuses, ↓ite_floor, ite_self, and_self]

@[simp] theorem askStatement_keeps (nonce : List Byte) (peer : Nat) (s : State) :
    (askStatement nonce peer s).Keeps s := by
  unfold askStatement; simp only [State.Keeps, (enqueue_keeps ..), and_self]

@[simp] theorem orchestrate_keeps (o : OrchMsg) (s : State) :
    (orchestrate o s).pending = s.pending ∧ (orchestrate o s).drw.serialFloor = s.drw.serialFloor := by
  unfold orchestrate; (repeat' split) <;> simp only [(ownUp_keeps ..), (writeAt_keeps ..), and_self]

@[simp] theorem acceptCause_keeps (applyTn stamp : Nat) (entries : List (Nat × BitVec 64)) (s : State) :
    (acceptCause applyTn stamp entries s).2.Keeps s := by
  unfold acceptCause; simp only [State.Keeps, (modHie_keeps ..), (hieEvent_keeps ..), ↓(ite_keeps ..), ↓ite_fuses, ↓ite_floor, ite_self, (foldl_keeps ..), implies_true, and_self]; repeat' (first | (simp only [State.Keeps, (modHie_keeps ..), (hieEvent_keeps ..), ↓(ite_keeps ..), ↓ite_fuses, ↓ite_floor, ite_self, (foldl_keeps ..), implies_true, and_self]; done) | split)

@[simp] theorem originateCause_keeps (entries : List (Nat × BitVec 64)) (s : State) :
    (originateCause entries s).Keeps s := by
  unfold originateCause; simp only [State.Keeps, (originate_keeps ..), and_self]

@[simp] theorem causeEvent_keeps (p : CausePend) (s : State) :
    (causeEvent p s).Keeps s := by
  unfold causeEvent; simp only [State.Keeps, (hieEvent_keeps ..), ↓(ite_keeps ..), ↓ite_fuses, ↓ite_floor, ite_self, and_self]

@[simp] theorem writeCause_keeps (later : List CausePend) (p : CausePend) (s : State) :
    (writeCause later p s).Keeps s := by
  unfold writeCause Option.elim; repeat' (first | (simp only [State.Keeps, (modHie_keeps ..), (writeInput_keeps ..), ↓(ite_keeps ..), ↓ite_fuses, ↓ite_floor, and_self]; done) | split)

@[simp] theorem writeCauses_keeps (l : List CausePend) (s : State) :
    (writeCauses l s).Keeps s := by
  induction l generalizing s with
  | nil => simp only [writeCauses, State.Keeps, and_self]
  | cons p r ih => simp only [writeCauses, State.Keeps, ih, (writeCause_keeps ..), and_self]

@[simp] theorem causeApply_keeps (s : State) :
    (causeApply s).Keeps s := by
  unfold causeApply; simp only [State.Keeps, (modHie_keeps ..), (causeEvent_keeps ..), (writeCauses_keeps ..), ↓(ite_keeps ..), ↓ite_fuses, ↓ite_floor, ite_self, (foldl_keeps ..), implies_true, and_self]

@[simp] theorem consume_keeps (m : Marzin) (s : State) :
    (consume m s).Keeps s := by
  unfold consume; (repeat' split) <;> simp only [State.Keeps, (publishDir_keeps ..), (answerTo_keeps ..), (decideRead_keeps ..), and_self]

@[simp] theorem ownEffect_keeps (m : Marzin) (s : State) :
    (ownEffect m s).pending = s.pending ∧ (ownEffect m s).drw.serialFloor = s.drw.serialFloor := by
  unfold ownEffect; (repeat' split) <;> simp only [(directoryDown_keeps ..), (askStatement_keeps ..), (orchestrate_keeps ..), and_self]

end Sys2Proof.Machine
end

