-- ==== Sys2Proof/Laws/FramesRegs.lean ====
section
/-! SUPPORT. The frame of each operation, the blocks of the state it leaves as they were: register writes and the tree. -/
set_option linter.unusedSimpArgs false
namespace Sys2Proof.Machine

/-! ### RegsSys -/

theorem rwl_frame (b : Block) (off : Nat) (f : State → State) (s : State) (hf : ∀ (s : State), (f s).OnlyFreshEvrHie s) :
    (rwl b off f s).OnlyFreshEvrHie s := by
  unfold rwl; simp only [State.OnlyFreshEvrHie, (raiseIgnored_frame ..), hf, ↓(ite_fields ..), ite_self, implies_true, and_self]

theorem refuseValue_frame (b : Block) (off : Nat) (bad : Bool) (f : State → State) (s : State) (hf : ∀ (s : State), (f s).OnlyFreshEvrHie s) :
    (refuseValue b off bad f s).OnlyFreshEvrHie s := by
  unfold refuseValue; simp only [State.OnlyFreshEvrHie, (raiseIgnored_frame ..), hf, ↓(ite_fields ..), ite_self, implies_true, and_self]

@[simp] theorem writeEnable_frame (b : Block) (v : Nat) (s : State) :
    (writeEnable b v s).OnlyFreshEvrHieEnabled s := by
  unfold writeEnable; simp only [State.OnlyFreshEvrHieEnabled, rwl, refuseValue, (raiseIgnored_frame ..), ↓(ite_fields ..), ite_self, implies_true, and_self]

@[simp] theorem writeSys_frame (off v : Nat) (s : State) :
    (writeSys off v s).pending = s.pending ∧ (writeSys off v s).answer = s.answer ∧ (writeSys off v s).mem = s.mem := by
  unfold writeSys; (repeat' split) <;> simp only [(modSys_frame ..), (resetRequest_frame ..), (modeRequest_frame ..), rwl, refuseValue, (raiseIgnored_frame ..), ↓(ite_fields ..), ite_self, implies_true, and_self]

@[simp] theorem writeDrw_frame (off v : Nat) (s : State) :
    (writeDrw off v s).OnlyDrw s := by
  unfold writeDrw; simp only [State.OnlyDrw, ↓(ite_fields ..), ite_self, implies_true, and_self]

@[simp] theorem writeStk_frame (off v : Nat) (s : State) :
    (writeStk off v s).OnlyStkRtc s := by
  unfold writeStk; (repeat' split) <;> simp only [State.OnlyStkRtc, (modTask_frame ..), ↓(ite_fields ..), ite_self, implies_true, and_self]

@[simp] theorem writeDvt_frame (off v : Nat) (s : State) :
    (writeDvt off v s).OnlyDvt s := by
  unfold writeDvt; (repeat' split) <;> simp only [State.OnlyDvt, ↓(ite_fields ..), ite_self, implies_true, and_self]

@[simp] theorem writeWke_frame (off v : Nat) (s : State) :
    (writeWke off v s).OnlyFreshWkeEvrHie s := by
  unfold writeWke; (repeat' split) <;> simp only [State.OnlyFreshWkeEvrHie, rwl, refuseValue, (raiseIgnored_frame ..), ↓(ite_fields ..), ite_self, implies_true, and_self]

/-! ### RegsIo -/

@[simp] theorem writeJig_frame (off v : Nat) (s : State) :
    (writeJig off v s).OnlyFreshJigDioEvrHie s := by
  unfold writeJig; simp only [State.OnlyFreshJigDioEvrHie, (latchClr_frame ..), ↓(ite_fields ..), ite_self, implies_true, and_self]

@[simp] theorem clearDioFlags_frame (n v : Nat) (s : State) :
    (clearDioFlags n v s).OnlyDio s := by
  unfold clearDioFlags; simp only [State.OnlyDio, (modDi_frame ..), (modDo_frame ..), ↓(ite_fields ..), ite_self, implies_true, and_self]

@[simp] theorem writeDio_frame (off v : Nat) (s : State) :
    (writeDio off v s).OnlyFreshDioEvrHie s := by
  unfold writeDio; (repeat' split) <;> simp only [State.OnlyFreshDioEvrHie, (channelClr_frame ..), (groupClr_frame ..), (clearDioFlags_frame ..), ↓(ite_fields ..), ite_self, implies_true, and_self]

@[simp] theorem writeAio_frame (off v : Nat) (s : State) :
    (writeAio off v s).OnlyAio s := by
  unfold writeAio; simp only [State.OnlyAio, (modAio_frame ..), ↓(ite_fields ..), ite_self, implies_true, and_self]

@[simp] theorem writeLpe_frame (off v : Nat) (s : State) :
    (writeLpe off v s).OnlyLpe s := by
  unfold writeLpe; (repeat' split) <;> simp only [State.OnlyLpe, (modLoop_frame ..), ↓(ite_fields ..), ite_self, implies_true, and_self]

@[simp] theorem writeRio_frame (off v : Nat) (s : State) :
    (writeRio off v s).OnlyRio s := by
  unfold writeRio; (repeat' split) <;> simp only [State.OnlyRio, (modSta_frame ..), ↓(ite_fields ..), ite_self, implies_true, and_self]

@[simp] theorem applyStaged_frame (addr v : Nat) (s : State) :
    (applyStaged addr v s).OnlyFreshDioAioLpeEvrHie s := by
  unfold applyStaged; simp only [State.OnlyFreshDioAioLpeEvrHie, (applyDioCfg_frame ..), (applyAioCfg_frame ..), (applyLpe_frame ..), ↓(ite_fields ..), ite_self, implies_true, and_self]; repeat' (first | (simp only [State.OnlyFreshDioAioLpeEvrHie, (applyDioCfg_frame ..), (applyAioCfg_frame ..), (applyLpe_frame ..), ↓(ite_fields ..), ite_self, implies_true, and_self]; done) | split)

/-! ### RegsNet -/

@[simp] theorem writeBufReg_frame (n b off v : Nat) (s : State) :
    (writeBufReg n b off v s).OnlyCan s := by
  unfold writeBufReg; (repeat' split) <;> simp only [State.OnlyCan, (writeBuf_frame ..), ↓(ite_fields ..), ite_self, implies_true, and_self]

@[simp] theorem popWrite_frame (n q v : Nat) (s : State) :
    (popWrite n q v s).OnlyCan s := by
  unfold popWrite; (repeat' split) <;> simp only [State.OnlyCan, (queuePop_frame ..), (queueRelease_frame ..), ↓(ite_fields ..), ite_self, implies_true, and_self]

@[simp] theorem writeCan_frame (n off v : Nat) (s : State) :
    (writeCan n off v s).OnlyFreshCanEvrHie s := by
  unfold writeCan; (repeat' split) <;> simp only [State.OnlyFreshCanEvrHie, (modCan_frame ..), (requestBufs_frame ..), (cancelBufs_frame ..), (recoverWrite_frame ..), rwl, (writeBufReg_frame ..), (popWrite_frame ..), (raiseIgnored_frame ..), ↓(ite_fields ..), ite_self, implies_true, and_self]

@[simp] theorem writeRing_frame (m : Nat) (queue : Bool) (i off v : Nat) (s : State) :
    (writeRing m queue i off v s).OnlyFreshDrwWkeMacEvrHieMem s := by
  unfold writeRing; (repeat' split) <;> simp only [State.OnlyFreshDrwWkeMacEvrHieMem, (ringCfg_frame ..), (ringBase_frame ..), (ringTail_frame ..), ↓(ite_fields ..), ite_self, implies_true, and_self]

@[simp] theorem writeMac_frame (m off v : Nat) (s : State) :
    (writeMac m off v s).OnlyFreshDrwWkeMacEvrHieMem s := by
  unfold writeMac; (repeat' split) <;> simp only [State.OnlyFreshDrwWkeMacEvrHieMem, (modMac_frame ..), rwl, (writeRing_frame ..), (raiseIgnored_frame ..), ↓(ite_fields ..), ite_self, implies_true, and_self]

@[simp] theorem writePtp_frame (off v : Nat) (s : State) :
    (writePtp off v s).OnlyFreshPtpEvrHie s := by
  unfold writePtp; (repeat' split) <;> simp only [State.OnlyFreshPtpEvrHie, (modPtp_frame ..), rwl, (raiseIgnored_frame ..), ↓(ite_fields ..), ite_self, implies_true, and_self]

@[simp] theorem setCommand_frame (v : Nat) (s : State) :
    (setCommand v s).OnlyFreshRtcEvrHie s := by
  unfold setCommand; (repeat' split) <;> simp only [State.OnlyFreshRtcEvrHie, rtcKey, (setNextEdge_frame ..), (setNow_frame ..), (setCancel_frame ..), (raiseIgnored_frame ..), ↓(ite_fields ..), ite_self, implies_true, and_self]

@[simp] theorem writeRtc_frame (off v : Nat) (s : State) :
    (writeRtc off v s).OnlyFreshRtcEvrHie s := by
  unfold writeRtc; (repeat' split) <;> simp only [State.OnlyFreshRtcEvrHie, (modRtc_frame ..), (setCommand_frame ..), ↓(ite_fields ..), ite_self, implies_true, and_self]

@[simp] theorem writeEvr_frame (off v : Nat) (s : State) :
    (writeEvr off v s).OnlyFreshEvrHie s := by
  unfold writeEvr; (repeat' split) <;> simp only [State.OnlyFreshEvrHie, (modEvr_frame ..), (clearWrite_frame ..), rwl, refuseValue, (raiseIgnored_frame ..), ↓(ite_fields ..), ite_self, implies_true, and_self]

@[simp] theorem writeCvu_frame (n off v : Nat) (s : State) :
    (writeCvu n off v s).OnlyCvu s := by
  unfold writeCvu; (repeat' split) <;> simp only [State.OnlyCvu, (modCvu_frame ..), cvuWrite, ↓(ite_fields ..), ite_self, implies_true, and_self]

/-! ### RegsTop -/

@[simp] theorem keyGo_frame (s : State) :
    (keyGo s).OnlyFreshDrwEvrKeyHie s := by
  unfold keyGo; simp only [State.OnlyFreshDrwEvrKeyHie, (dmaAccess_frame ..), (commandRefused_frame ..), (keyCommand_frame ..), ↓(ite_fields ..), ite_self, implies_true, and_self]; repeat' (first | (simp only [State.OnlyFreshDrwEvrKeyHie, (dmaAccess_frame ..), (commandRefused_frame ..), (keyCommand_frame ..), ↓(ite_fields ..), ite_self, implies_true, and_self]; done) | split)

@[simp] theorem writeKey_frame (off v : Nat) (s : State) :
    (writeKey off v s).OnlyFreshDrwEvrKeyHie s := by
  unfold writeKey; (repeat' split) <;> simp only [State.OnlyFreshDrwEvrKeyHie, (modKey_frame ..), (keyGo_frame ..), ↓(ite_fields ..), ite_self, implies_true, and_self]

@[simp] theorem writeUpd_frame (owner : Option Nat) (off v : Nat) (s : State) :
    (writeUpd owner off v s).pending = s.pending ∧ (writeUpd owner off v s).answer = s.answer ∧ (writeUpd owner off v s).mem = s.mem := by
  unfold writeUpd; (repeat' split) <;> simp only [(modUpd_frame ..), (updCommand_frame ..), (xferData_frame ..), rwl, (raiseIgnored_frame ..), ↓(ite_fields ..), ite_self, implies_true, and_self]

@[simp] theorem writeCoreReg_frame (c : Nat) (hi : Bool) (v : Nat) (s : State) :
    (writeCoreReg c hi v s).OnlyDbgCores s := by
  unfold writeCoreReg; simp only [State.OnlyDbgCores, (modDbgCore_frame ..), ↓(ite_fields ..), ite_self, implies_true, and_self]

@[simp] theorem coreCmd_frame (c v : Nat) (s : State) :
    (coreCmd c v s).OnlyFreshStkEvrUpdHieDbgCores s := by
  unfold coreCmd; (repeat' split) <;> simp only [State.OnlyFreshStkEvrUpdHieDbgCores, (holdFree_frame ..), (keepHold_frame ..), (coreRun_frame ..), ↓(ite_fields ..), ite_self, implies_true, and_self]

@[simp] theorem writeDbgCore_frame (c off v : Nat) (s : State) :
    (writeDbgCore c off v s).OnlyFreshStkEvrUpdHieDbgCores s := by
  unfold writeDbgCore; (repeat' split) <;> simp only [State.OnlyFreshStkEvrUpdHieDbgCores, (modDbgCore_frame ..), (writeCoreReg_frame ..), (coreCmd_frame ..), ↓(ite_fields ..), ite_self, implies_true, and_self]

@[simp] theorem writeDbg_frame (off v : Nat) (s : State) :
    (writeDbg off v s).pending = s.pending ∧ (writeDbg off v s).answer = s.answer ∧ (writeDbg off v s).mem = s.mem := by
  unfold writeDbg; (repeat' split) <;> simp only [(probeWrote_frame ..), (tokenWrite_frame ..), (dbgRequest_frame ..), (tagWrite_frame ..), (forceWrite_frame ..), (writeDbgCore_frame ..), ↓(ite_fields ..), ite_self, implies_true, and_self]

/-! ### Regs -/

@[simp] theorem readReg_frame (by_ : Option (Nat × Nat)) (b : Block) (off : Nat) (s : State) :
    (readReg by_ b off s).2.OnlyFreshStkDvtCanPtpRtcEvr s := by
  unfold readReg; (repeat' split) <;> simp only [State.OnlyFreshStkDvtCanPtpRtcEvr, (modCan_frame ..), (queueLock_frame ..), (latchTime_frame ..), (modPtp_frame ..), (tsqTake_frame ..), (modEvr_frame ..), (draw_frame ..), ↓(ite_fields ..), ite_self, implies_true, and_self]

@[simp] theorem readBy_frame (by_ : Option (Nat × Stroke × Copy)) (a : Nat) (s : State) :
    (readBy by_ a s).2.OnlyFreshStkDvtCanPtpRtcEvr s := by
  unfold readBy; (repeat' split) <;> simp only [State.OnlyFreshStkDvtCanPtpRtcEvr, (readReg_frame ..), ↓(ite_fields ..), ite_self, implies_true, and_self]

@[simp] theorem readAt_frame (a : Nat) (s : State) :
    (readAt a s).2.OnlyFreshStkDvtCanPtpRtcEvr s := by
  unfold readAt; (repeat' split) <;> simp only [State.OnlyFreshStkDvtCanPtpRtcEvr, (readBy_frame ..), ↓(ite_fields ..), ite_self, implies_true, and_self]

@[simp] theorem coreRead_frame (c a : Nat) (s : State) :
    (coreRead c a s).2.OnlyFreshStkDvtCanPtpRtcEvr s := by
  unfold coreRead; simp only [State.OnlyFreshStkDvtCanPtpRtcEvr, (readBy_frame ..), ↓(ite_fields ..), ite_self, implies_true, and_self]

@[simp] theorem setCtrlBits_frame (b : Block) (v : Nat) (s : State) :
    (setCtrlBits b v s).OnlyCanMacPtp s := by
  unfold setCtrlBits; (repeat' split) <;> simp only [State.OnlyCanMacPtp, (modCan_frame ..), (modPtp_frame ..), (modMac_frame ..), ↓(ite_fields ..), ite_self, implies_true, and_self]

@[simp] theorem writeCtrl_frame (b : Block) (v : Nat) (s : State) :
    (writeCtrl b v s).OnlyFreshCanMacPtpEvrHieEnabled s := by
  unfold writeCtrl; simp only [State.OnlyFreshCanMacPtpEvrHieEnabled, (writeEnable_frame ..), (setCtrlBits_frame ..), ↓(ite_fields ..), ite_self, implies_true, and_self]

@[simp] theorem writeReg_frame (owner : Option Nat) (b : Block) (off v : Nat) (s : State) :
    (writeReg owner b off v s).pending = s.pending ∧ (writeReg owner b off v s).answer = s.answer := by
  unfold writeReg; (repeat' split) <;> simp [rwl, (writeSys_frame ..), (writeDrw_frame ..), (writeStk_frame ..), (writeDvt_frame ..), (writeWke_frame ..), (writeJig_frame ..), (writeDio_frame ..), (writeAio_frame ..), (writeLpe_frame ..), (writeRio_frame ..), (writeCan_frame ..), (writeMac_frame ..), (writePtp_frame ..), (writeRtc_frame ..), (writeEvr_frame ..), (writeCvu_frame ..), (writeKey_frame ..), (writeUpd_frame ..), (writeDbg_frame ..), (writeCtrl_frame ..), (raiseIgnored_frame ..), ↓(ite_fields ..), ite_self, implies_true, and_self]

@[simp] theorem stageOutside_frame (tag : Option Nat) (addr v : Nat) (s : State) :
    (stageOutside tag addr v s).OnlyFreshDvtJigDioAioLpeEvrHie s := by
  unfold stageOutside; simp only [State.OnlyFreshDvtJigDioAioLpeEvrHie, (raise_frame ..), (settleOutputs_frame ..), (applyStaged_frame ..), ↓(ite_fields ..), ite_self, implies_true, and_self]

@[simp] theorem writeAt_frame (tag : Option Nat) (a v : Nat) (s : State) :
    (writeAt tag a v s).pending = s.pending ∧ (writeAt tag a v s).answer = s.answer := by
  unfold writeAt; (repeat' split) <;> simp only [(putBytes_frame ..), (writeReg_frame ..), (stageOutside_frame ..), ↓(ite_fields ..), ite_self, implies_true, and_self]

@[simp] theorem coreWrite_frame (c a v : Nat) (s : State) :
    (coreWrite c a v s).pending = s.pending ∧ (coreWrite c a v s).answer = s.answer := by
  unfold coreWrite; (repeat' split) <;> simp only [(coreRefused_frame ..), (grpOpen_frame ..), (grpCommit_frame ..), (grpAbort_frame ..), (stageWrite_frame ..), (writeReg_frame ..), ↓(ite_fields ..), ite_self, implies_true, and_self]

@[simp] theorem tagStore_frame (by_ : Option (Fin 16)) (a v : Nat) (s : State) :
    (tagStore by_ a v s).pending = s.pending ∧ (tagStore by_ a v s).answer = s.answer ∧ (tagStore by_ a v s).sys = s.sys ∧ (tagStore by_ a v s).jig = s.jig ∧ (tagStore by_ a v s).dio = s.dio ∧ (tagStore by_ a v s).aio = s.aio ∧ (tagStore by_ a v s).lpe = s.lpe ∧ (tagStore by_ a v s).rio = s.rio ∧ (tagStore by_ a v s).mac = s.mac ∧ (tagStore by_ a v s).ptp = s.ptp ∧ (tagStore by_ a v s).rtc = s.rtc ∧ (tagStore by_ a v s).cvu = s.cvu ∧ (tagStore by_ a v s).dbg = s.dbg ∧ (tagStore by_ a v s).enabled = s.enabled ∧ (tagStore by_ a v s).declared = s.declared := by
  unfold tagStore; (repeat' split) <;> simp only [(coreRefused_frame ..), (putBytes_frame ..), ↓(ite_fields ..), ite_self, implies_true, and_self]

@[simp] theorem registerWrite_frame (by_ : Option (Fin 16)) (a v : Nat) (s : State) :
    (registerWrite by_ a v s).pending = s.pending ∧ (registerWrite by_ a v s).answer = s.answer := by
  unfold registerWrite; (repeat' split) <;> simp only [(noteRefused_frame ..), (writeAt_frame ..), (coreWrite_frame ..), (tagStore_frame ..), ↓(ite_fields ..), ite_self, implies_true, and_self]

@[simp] theorem noteBypass_frame (a : Nat) (s : State) :
    (noteBypass a s).OnlyFreshEvrKeyHie s := by
  unfold noteBypass; simp only [State.OnlyFreshEvrKeyHie, (modKey_frame ..), (dbgEvent_frame ..), ↓(ite_fields ..), ite_self, implies_true, and_self]

@[simp] theorem svcEnd_frame (status data : Nat) (s : State) :
    (svcEnd status data s).OnlyAnswerDbg s := by
  unfold svcEnd; simp only [State.OnlyAnswerDbg, (modDbg_frame ..), ↓(ite_fields ..), ite_self, implies_true, and_self]

/-! ### Hie -/

@[simp] theorem ownDown_frame (child : Nat) (ackReq : Bool) (body : MarzinBody) (s : State) :
    (ownDown child ackReq body s).OnlyFreshHie s := by
  unfold ownDown; simp only [State.OnlyFreshHie, (hieSend_frame ..), ↓(ite_fields ..), ite_self, implies_true, and_self]

@[simp] theorem toParent_frame (ackReq : Bool) (body : MarzinBody) (s : State) :
    (toParent ackReq body s).OnlyFreshEvrHie s := by
  unfold toParent; simp only [State.OnlyFreshEvrHie, (sendUp_frame ..), ↓(ite_fields ..), ite_self, implies_true, and_self]

@[simp] theorem sendAck_frame (peer cls seq status : Nat) (s : State) :
    (sendAck peer cls seq status s).OnlyFreshEvrHie s := by
  unfold sendAck; simp only [State.OnlyFreshEvrHie, (modHie_frame ..), (ownDown_frame ..), (toParent_frame ..), ↓(ite_fields ..), ite_self, implies_true, and_self]

@[simp] theorem routeDown_frame (dest : Nat) (m : Marzin) (s : State) :
    (routeDown dest m s).OnlyHie s := by
  unfold routeDown Option.elim; repeat' (first | (simp only [State.OnlyHie, (hieSend_frame ..), ↓(ite_fields ..), ite_self, implies_true, and_self]; done) | split)

@[simp] theorem endSession_frame (peer : Nat) (s : State) :
    (endSession peer s).OnlyHie s := by
  unfold endSession; simp only [State.OnlyHie, (modHie_frame ..), ↓(ite_fields ..), ite_self, implies_true, and_self]

@[simp] theorem noteAccepted_frame (h : MarzinHead) (s : State) :
    (noteAccepted h s).OnlyHie s := by
  unfold noteAccepted; simp only [State.OnlyHie, (modHie_frame ..), ↓(ite_fields ..), ite_self, implies_true, and_self]

theorem receive_frame (h : MarzinHead) (session : Bool) (cls : Nat) (handle : State → Nat × State) (s : State) (hhandle : ∀ (s : State), (handle s).2.OnlyFreshEvrHie s) :
    (receive h session cls handle s).OnlyFreshEvrHie s := by
  unfold receive; dsimp only; repeat' (first | (simp only [State.OnlyFreshEvrHie, (modHie_frame ..), (sendAck_frame ..), (noteAccepted_frame ..), hhandle, ↓(ite_fields ..), ite_self, implies_true, and_self]; done) | split)

@[simp] theorem intoIngress_frame (m : Marzin) (s : State) :
    (intoIngress m s).OnlyFreshEvrHie s := by
  unfold intoIngress; simp only [State.OnlyFreshEvrHie, (modHie_frame ..), (noteArb_frame ..), ↓(ite_fields ..), ite_self, implies_true, and_self]

theorem fromAbove_frame (m : Marzin) (own : State → State) (s : State) (hown : ∀ (s : State), (own s).OnlyHie s) :
    (fromAbove m own s).OnlyHie s := by
  unfold fromAbove; simp only [State.OnlyHie, (hieSend_frame ..), (routeDown_frame ..), hown, ↓(ite_fields ..), ite_self, (foldl_OnlyHie ..), implies_true, and_self]

@[simp] theorem originate_frame (dest : Nat) (body : MarzinBody) (s : State) :
    (originate dest body s).OnlyFreshHie s := by
  unfold originate; simp only [State.OnlyFreshHie, (hieSend_frame ..), (routeDown_frame ..), ↓(ite_fields ..), ite_self, (foldl_OnlyFreshHie ..), implies_true, and_self]

theorem bothWays_frame (h : MarzinHead) (body : MarzinBody) (own : State → State) (s : State) (hown : ∀ (s : State), (own s).OnlyFreshEvrHie s) :
    (bothWays h body own s).OnlyFreshEvrHie s := by
  unfold bothWays
  split
  · simp only [State.OnlyFreshEvrHie, (receive_frame ..), (intoIngress_frame ..), fromAbove, (originate_frame ..), (hieSend_frame ..), (routeDown_frame ..), hown, ↓(ite_fields ..), ite_self, implies_true, and_self]
  · refine receive_frame _ _ _ _ _ ?_
    intro s
    split
    · unfold fromAbove
      split
      · exact hown s
      · split
        · simp only [State.OnlyFreshEvrHie, foldl_OnlyHie _ (fun (s : State) c => hieSend_frame (Child.node c) _ s), and_self]
        · simp only [State.OnlyFreshEvrHie, (routeDown_frame ..), and_self]
    · simp only [State.OnlyFreshEvrHie, (receive_frame ..), (intoIngress_frame ..), fromAbove, (originate_frame ..), (hieSend_frame ..), (routeDown_frame ..), hown, ↓(ite_fields ..), ite_self, implies_true, and_self]

@[simp] theorem upOnly_frame (h : MarzinHead) (body : MarzinBody) (s : State) :
    (upOnly h body s).OnlyFreshEvrHie s := by
  unfold upOnly; simp only [State.OnlyFreshEvrHie, (receive_frame ..), (intoIngress_frame ..), ↓(ite_fields ..), ite_self, implies_true, and_self]

@[simp] theorem hieEvent_frame (code detail : Nat) (s : State) :
    (hieEvent code detail s).OnlyFreshEvrHie s := by
  unfold hieEvent; simp only [State.OnlyFreshEvrHie, (raise_frame ..), ↓(ite_fields ..), ite_self, implies_true, and_self]

@[simp] theorem agreeKey_frame (peer : Nat) (s : State) :
    (agreeKey peer s).OnlyFreshKey s := by
  unfold agreeKey; simp only [State.OnlyFreshKey, ↓(ite_fields ..), ite_self, implies_true, and_self]

@[simp] theorem admitChild_frame (node role : Nat) (ident : List Byte) (s : State) :
    (admitChild node role ident s).OnlyFreshEvrKeyHie s := by
  unfold admitChild; simp only [State.OnlyFreshEvrKeyHie, (modHie_frame ..), (ownDown_frame ..), (hieEvent_frame ..), (agreeKey_frame ..), ↓(ite_fields ..), ite_self, implies_true, and_self]

@[simp] theorem joinChild_frame (node : Nat) (a : AlignMsg) (attested : Bool) (s : State) :
    (joinChild node a attested s).OnlyFreshEvrKeyHie s := by
  unfold joinChild; simp only [State.OnlyFreshEvrKeyHie, (ownDown_frame ..), (hieEvent_frame ..), (admitChild_frame ..), ↓(ite_fields ..), ite_self, implies_true, and_self]

@[simp] theorem hearParent_frame (origin : Nat) (s : State) :
    (hearParent origin s).OnlyFreshEvrHie s := by
  unfold hearParent; simp only [State.OnlyFreshEvrHie, (modHie_frame ..), (hieEvent_frame ..), ↓(ite_fields ..), ite_self, implies_true, and_self]

@[simp] theorem joined_frame (level origin : Nat) (s : State) :
    (joined level origin s).OnlyFreshEvrKeyHie s := by
  unfold joined; simp only [State.OnlyFreshEvrKeyHie, (modHie_frame ..), (ownUp_frame ..), (agreeKey_frame ..), (hearParent_frame ..), ↓(ite_fields ..), ite_self, implies_true, and_self]

@[simp] theorem handleAlign_frame (h : MarzinHead) (a : AlignMsg) (s : State) :
    (handleAlign h a s).OnlyFreshEvrKeyHie s := by
  unfold handleAlign; (repeat' split) <;> simp only [State.OnlyFreshEvrKeyHie, (modHie_frame ..), (toParent_frame ..), (joinChild_frame ..), (hearParent_frame ..), (joined_frame ..), ↓(ite_fields ..), ite_self, implies_true, and_self]

@[simp] theorem publishDir_frame (node : Nat) (l : List PubEntry) (s : State) :
    (publishDir node l s).OnlyFreshEvrHie s := by
  unfold publishDir; simp only [State.OnlyFreshEvrHie, (modHie_frame ..), (hieEvent_frame ..), ↓(ite_fields ..), ite_self, implies_true, and_self]

@[simp] theorem endWait_frame (target point : Nat) (e : Option (List Byte)) (s : State) :
    (endWait target point e s).OnlyAnswerHie s := by
  unfold endWait; simp only [State.OnlyAnswerHie, (modHie_frame ..), ↓(ite_fields ..), ite_self, implies_true, and_self]

@[simp] theorem answerTo_frame (node target point : Nat) (e : Option (List Byte)) (s : State) :
    (answerTo node target point e s).OnlyAnswerFreshHie s := by
  unfold answerTo Option.elim; repeat' (first | (simp only [State.OnlyAnswerFreshHie, (hieSend_frame ..), (endWait_frame ..), ↓(ite_fields ..), ite_self, implies_true, and_self]; done) | split)

@[simp] theorem decideRead_frame (node tenant : Nat) (service : Bool) (target point : Nat) (m : Marzin) (s : State) :
    (decideRead node tenant service target point m s).pending = s.pending ∧ (decideRead node tenant service target point m s).sys = s.sys ∧ (decideRead node tenant service target point m s).jig = s.jig ∧ (decideRead node tenant service target point m s).dio = s.dio ∧ (decideRead node tenant service target point m s).aio = s.aio ∧ (decideRead node tenant service target point m s).lpe = s.lpe ∧ (decideRead node tenant service target point m s).rio = s.rio ∧ (decideRead node tenant service target point m s).mac = s.mac ∧ (decideRead node tenant service target point m s).ptp = s.ptp ∧ (decideRead node tenant service target point m s).rtc = s.rtc ∧ (decideRead node tenant service target point m s).cvu = s.cvu ∧ (decideRead node tenant service target point m s).dbg = s.dbg ∧ (decideRead node tenant service target point m s).enabled = s.enabled ∧ (decideRead node tenant service target point m s).declared = s.declared ∧ (decideRead node tenant service target point m s).mem = s.mem := by
  unfold decideRead; simp only [(service_frame ..), (routeDown_frame ..), (answerTo_frame ..), ↓(ite_fields ..), ite_self, implies_true, and_self]

@[simp] theorem directoryDown_frame (d : DirMsg) (s : State) :
    (directoryDown d s).pending = s.pending ∧ (directoryDown d s).sys = s.sys ∧ (directoryDown d s).jig = s.jig ∧ (directoryDown d s).dio = s.dio ∧ (directoryDown d s).aio = s.aio ∧ (directoryDown d s).lpe = s.lpe ∧ (directoryDown d s).rio = s.rio ∧ (directoryDown d s).mac = s.mac ∧ (directoryDown d s).ptp = s.ptp ∧ (directoryDown d s).rtc = s.rtc ∧ (directoryDown d s).cvu = s.cvu ∧ (directoryDown d s).dbg = s.dbg ∧ (directoryDown d s).enabled = s.enabled ∧ (directoryDown d s).declared = s.declared ∧ (directoryDown d s).mem = s.mem := by
  unfold directoryDown; (repeat' split) <;> simp only [(ownUp_frame ..), (endWait_frame ..), ↓(ite_fields ..), ite_self, implies_true, and_self]

@[simp] theorem askTree_frame (c d node point : Nat) (s : State) :
    (askTree c d node point s).pending = s.pending ∧ (askTree c d node point s).sys = s.sys ∧ (askTree c d node point s).jig = s.jig ∧ (askTree c d node point s).dio = s.dio ∧ (askTree c d node point s).aio = s.aio ∧ (askTree c d node point s).lpe = s.lpe ∧ (askTree c d node point s).rio = s.rio ∧ (askTree c d node point s).mac = s.mac ∧ (askTree c d node point s).ptp = s.ptp ∧ (askTree c d node point s).rtc = s.rtc ∧ (askTree c d node point s).cvu = s.cvu ∧ (askTree c d node point s).dbg = s.dbg ∧ (askTree c d node point s).enabled = s.enabled ∧ (askTree c d node point s).declared = s.declared ∧ (askTree c d node point s).mem = s.mem := by
  unfold askTree; simp only [(modHie_frame ..), (sendUp_frame ..), (endWait_frame ..), (decideRead_frame ..), ↓(ite_fields ..), ite_self, implies_true, and_self]

@[simp] theorem askStatement_frame (nonce : List Byte) (peer : Nat) (s : State) :
    (askStatement nonce peer s).OnlyFreshKey s := by
  unfold askStatement; simp only [State.OnlyFreshKey, (enqueue_frame ..), ↓(ite_fields ..), ite_self, implies_true, and_self]

@[simp] theorem orchestrate_frame (o : OrchMsg) (s : State) :
    (orchestrate o s).pending = s.pending ∧ (orchestrate o s).answer = s.answer := by
  unfold orchestrate; (repeat' split) <;> simp only [(ownUp_frame ..), (writeAt_frame ..), ↓(ite_fields ..), ite_self, implies_true, and_self]

@[simp] theorem acceptCause_frame (applyTn stamp : Nat) (entries : List (Nat × BitVec 64)) (s : State) :
    (acceptCause applyTn stamp entries s).2.OnlyFreshEvrHie s := by
  unfold acceptCause; simp only [State.OnlyFreshEvrHie, (modHie_frame ..), (hieEvent_frame ..), ↓(ite_fields ..), ite_self, implies_true, and_self]; repeat' (first | (simp only [State.OnlyFreshEvrHie, (modHie_frame ..), (hieEvent_frame ..), ↓(ite_fields ..), ite_self, implies_true, and_self]; done) | split)

@[simp] theorem originateCause_frame (entries : List (Nat × BitVec 64)) (s : State) :
    (originateCause entries s).OnlyFreshHie s := by
  unfold originateCause; simp only [State.OnlyFreshHie, (originate_frame ..), ↓(ite_fields ..), ite_self, implies_true, and_self]

@[simp] theorem causeEvent_frame (p : CausePend) (s : State) :
    (causeEvent p s).OnlyFreshEvrHie s := by
  unfold causeEvent; simp only [State.OnlyFreshEvrHie, (hieEvent_frame ..), ↓(ite_fields ..), ite_self, implies_true, and_self]

@[simp] theorem writeCause_frame (later : List CausePend) (p : CausePend) (s : State) :
    (writeCause later p s).OnlyDvtHieDbg s := by
  unfold writeCause Option.elim; repeat' (first | (simp only [State.OnlyDvtHieDbg, (modHie_frame ..), (writeInput_frame ..), ↓(ite_fields ..), ite_self, implies_true, and_self]; done) | split)

@[simp] theorem writeCauses_frame (l : List CausePend) (s : State) :
    (writeCauses l s).OnlyDvtHieDbg s := by
  induction l generalizing s with
  | nil => simp only [writeCauses, State.OnlyDvtHieDbg, and_self]
  | cons p r ih => simp only [writeCauses, State.OnlyDvtHieDbg, ih, (writeCause_frame ..), and_self]

@[simp] theorem causeApply_frame (s : State) :
    (causeApply s).OnlyFreshDvtEvrHieDbg s := by
  unfold causeApply; simp only [State.OnlyFreshDvtEvrHieDbg, (modHie_frame ..), (causeEvent_frame ..), (writeCauses_frame ..), ↓(ite_fields ..), ite_self, (foldl_OnlyFreshDvtEvrHieDbg ..), implies_true, and_self]

@[simp] theorem consume_frame (m : Marzin) (s : State) :
    (consume m s).pending = s.pending ∧ (consume m s).sys = s.sys ∧ (consume m s).jig = s.jig ∧ (consume m s).dio = s.dio ∧ (consume m s).aio = s.aio ∧ (consume m s).lpe = s.lpe ∧ (consume m s).rio = s.rio ∧ (consume m s).mac = s.mac ∧ (consume m s).ptp = s.ptp ∧ (consume m s).rtc = s.rtc ∧ (consume m s).cvu = s.cvu ∧ (consume m s).dbg = s.dbg ∧ (consume m s).enabled = s.enabled ∧ (consume m s).declared = s.declared ∧ (consume m s).mem = s.mem := by
  unfold consume; (repeat' split) <;> simp only [(publishDir_frame ..), (answerTo_frame ..), (decideRead_frame ..), ↓(ite_fields ..), ite_self, implies_true, and_self]

@[simp] theorem ownEffect_frame (m : Marzin) (s : State) :
    (ownEffect m s).pending = s.pending := by
  unfold ownEffect; (repeat' split) <;> simp only [(directoryDown_frame ..), (askStatement_frame ..), (orchestrate_frame ..), ↓(ite_fields ..), ite_self, implies_true, and_self]

end Sys2Proof.Machine
end

