-- ==== Sys2Proof/Laws/KeepsEdge.lean ====
section
/-! SUPPORT. What each operation keeps of the commands that wait, memory, the fuses and the least serial: the load and the edge. -/
namespace Sys2Proof.Machine

/-! ### Replay -/

@[simp] theorem replayStaged_keeps (s : State) :
    (replayStaged s).Keeps s := by
  unfold replayStaged; simp only [State.Keeps, (applyStaged_keeps ..), ↓(ite_keeps ..), ↓ite_fuses, ↓ite_floor, ite_self, (foldl_keeps ..), implies_true, and_self]

@[simp] theorem replayLoops_keeps (r : JRecord) (s : State) :
    (replayLoops r s).Keeps s := by
  unfold replayLoops; simp only [State.Keeps, (evalLoops_keeps ..), (holdLoops_keeps ..), ↓(ite_keeps ..), ↓ite_fuses, ↓ite_floor, ite_self, and_self]

@[simp] theorem loadTask_keeps (s : State) (c : TaskCkpt) :
    (loadTask s c).Keeps s := by
  unfold loadTask; simp only [State.Keeps, (modTask_keeps ..), and_self]

@[simp] theorem replayStart_keeps (b : Bank) (s : State) :
    (replayStart b s).Keeps s := by
  unfold replayStart; (repeat' split) <;> simp only [State.Keeps, (evalLoops_keeps ..), (loadTask_keeps ..), (foldl_keeps ..), implies_true, and_self]

@[simp] theorem hotTask_keeps (x : Replay) (s : State) (slot : Nat) :
    (hotTask x s slot).Keeps s := by
  unfold hotTask; simp only [State.Keeps, (modTask_keeps ..), and_self]

@[simp] theorem hotLoop_keeps (x : Replay) (s : State) (n : Nat) :
    (hotLoop x s n).Keeps s := by
  unfold hotLoop; (repeat' split) <;> simp only [State.Keeps, (modLoop_keeps ..), and_self]

@[simp] theorem loadCopy_keeps (s : State) (c : TaskCkpt) :
    (loadCopy s c).pending = s.pending ∧ (loadCopy s c).key.fuses = s.key.fuses ∧ (loadCopy s c).drw.serialFloor = s.drw.serialFloor := by
  unfold loadCopy; simp only [and_self]

@[simp] theorem adoptWork_keeps (w : Wke) (b : Bank) (upTo : Nat) (s : State) (c : TaskCkpt) :
    (adoptWork w b upTo s c).pending = s.pending ∧ (adoptWork w b upTo s c).key.fuses = s.key.fuses ∧ (adoptWork w b upTo s c).drw.serialFloor = s.drw.serialFloor := by
  unfold adoptWork Option.elim; dsimp only; repeat' (first | (simp only [and_self]; done) | split)

@[simp] theorem putReplayed_keeps (l : List (Nat × Byte)) (s : State) :
    (putReplayed l s).pending = s.pending ∧ (putReplayed l s).key.fuses = s.key.fuses ∧ (putReplayed l s).drw.serialFloor = s.drw.serialFloor := by
  unfold putReplayed; simp only [and_self]

@[simp] theorem hotRestart_keeps (h : HotReplay) (s : State) :
    (hotRestart h s).pending = s.pending ∧ (hotRestart h s).key.fuses = s.key.fuses ∧ (hotRestart h s).drw.serialFloor = s.drw.serialFloor := by
  unfold hotRestart; simp only [(raise_keeps ..), (jMark_keeps ..), (hotTask_keeps ..), (hotLoop_keeps ..), (loadCopy_keeps ..), (adoptWork_keeps ..), (putReplayed_keeps ..), (foldl_pending ..), (foldl_fuses ..), (foldl_floor ..), implies_true, and_self]

/-! ### Load -/

@[simp] theorem bindTask_keeps (a : State × List Nat) (r : Rec) :
    (bindTask a r).1.Keeps a.1 := by
  unfold bindTask
  dsimp only
  repeat' split
  all_goals simp only [State.Keeps, (modTask_keeps ..), and_self]

theorem foldl_bindTask_keeps (l : List Rec) (a : State × List Nat) :
    (l.foldl bindTask a).1.Keeps a.1 := by
  induction l generalizing a with
  | nil => simp only [List.foldl_nil, State.Keeps, and_self]
  | cons r l ih => rw [List.foldl_cons]; simp only [State.Keeps, ih, (bindTask_keeps ..), and_self]

@[simp] theorem refuseSlot_keeps (f : Finding) (s : State) :
    (refuseSlot f s).Keeps s := by
  unfold refuseSlot; simp only [State.Keeps, (loadEvent_keeps ..), ↓ite_floor, ite_self, and_self]

@[simp] theorem loadFailed_keeps (s : State) :
    (loadFailed s).Keeps s := by
  unfold loadFailed; simp only [State.Keeps, and_self]

@[simp] theorem trySlots_keeps (s : State) :
    (trySlots s).2.Keeps s := by
  unfold trySlots; simp only [State.Keeps, (runtimeFailed_keeps ..), (refuseSlot_keeps ..), (loadFailed_keeps ..), ↓(ite_keeps ..), ↓ite_fuses, ↓ite_floor, ite_self, (foldl_keeps ..), implies_true, and_self]; repeat' (first | (simp only [State.Keeps, (runtimeFailed_keeps ..), (refuseSlot_keeps ..), (loadFailed_keeps ..), ↓(ite_keeps ..), ↓ite_fuses, ↓ite_floor, ite_self, (foldl_keeps ..), implies_true, and_self]; done) | split)

@[simp] theorem stageJigCopy_keeps (body : List Byte) (readbackOk : Bool) (s : State) :
    (stageJigCopy body readbackOk s).2.Keeps s := by
  unfold stageJigCopy; simp only [State.Keeps, ↓(ite_keeps ..), ↓ite_fuses, ↓ite_floor, ite_self, (foldl_keeps ..), implies_true, and_self]; repeat' (first | (simp only [State.Keeps, ↓(ite_keeps ..), ↓ite_fuses, ↓ite_floor, ite_self, (foldl_keeps ..), implies_true, and_self]; done) | split)

@[simp] theorem switchJig_keeps (s : State) :
    (switchJig s).Keeps s := by
  unfold switchJig; simp only [State.Keeps, ↓(ite_keeps ..), ite_self, and_self]

@[simp] theorem declareBlocks_keeps (s : State) :
    (declareBlocks s).Keeps s := by
  unfold declareBlocks; simp only [State.Keeps, and_self]

@[simp] theorem replaceCore_keeps (s : State) (c : Nat) :
    (replaceCore s c).Keeps s := by
  unfold replaceCore; (repeat' split) <;> simp only [State.Keeps, (setCause_keeps ..), (sparesOut_keeps ..), (rebind_keeps ..), and_self]

@[simp] theorem loadPools_keeps (s : State) :
    (loadPools s).Keeps s := by
  unfold loadPools; simp only [State.Keeps, (replaceCore_keeps ..), (foldl_keeps ..), implies_true, and_self]

@[simp] theorem bindTasks_keeps (s : State) :
    (bindTasks s).Keeps s := by
  unfold bindTasks; exact foldl_bindTask_keeps _ _

@[simp] theorem loadModule_keeps (s : State) :
    (loadModule s).Keeps s := by
  unfold loadModule; simp only [State.Keeps, and_self]

@[simp] theorem loadIo_keeps (s : State) (r : Rec) :
    (loadIo s r).Keeps s := by
  unfold loadIo; (repeat' split) <;> simp only [State.Keeps, (applyDioCfg_keeps ..), (modAio_keeps ..), and_self]

@[simp] theorem loadIoDefaults_keeps (img : List Section) (s : State) :
    (loadIoDefaults img s).Keeps s := by
  unfold loadIoDefaults; simp only [State.Keeps, (applyDioCfg_keeps ..), (modAio_keeps ..), ↓(ite_keeps ..), ↓ite_fuses, ↓ite_floor, ite_self, (foldl_keeps ..), implies_true, and_self]

@[simp] theorem loadHie_keeps (s : State) :
    (loadHie s).Keeps s := by
  unfold loadHie; simp only [State.Keeps, (modHie_keeps ..), (toParent_keeps ..), (publishDir_keeps ..), ↓(ite_keeps ..), ↓ite_fuses, ↓ite_floor, ite_self, and_self]

@[simp] theorem loadBlocks_keeps (s : State) :
    (loadBlocks s).Keeps s := by
  unfold loadBlocks; simp only [State.Keeps, (settleOutputs_keeps ..), (rioLoad_keeps ..), (ptpLoad_keeps ..), (draw_keeps ..), (loadIo_keeps ..), (loadIoDefaults_keeps ..), ↓(ite_keeps ..), ↓ite_fuses, ↓ite_floor, ite_self, (foldl_keeps ..), implies_true, and_self]; repeat' (first | (simp only [State.Keeps, (settleOutputs_keeps ..), (rioLoad_keeps ..), (ptpLoad_keeps ..), (draw_keeps ..), (loadIo_keeps ..), (loadIoDefaults_keeps ..), ↓(ite_keeps ..), ↓ite_fuses, ↓ite_floor, ite_self, (foldl_keeps ..), implies_true, and_self]; done) | split)

@[simp] theorem loadServices_keeps (s : State) :
    (loadServices s).Keeps s := by
  unfold loadServices; simp only [State.Keeps, (keyLoad_keeps ..), (loadHie_keeps ..), and_self]

@[simp] theorem writeTables_keeps (s : State) :
    (writeTables s).Keeps s := by
  unfold writeTables; simp only [State.Keeps, and_self]

@[simp] theorem adoptImage_keeps (s : State) :
    (adoptImage s).Keeps s := by
  unfold adoptImage; simp only [State.Keeps, and_self]

@[simp] theorem trimTail_keeps (torn : Nat) (s : State) :
    (trimTail torn s).Keeps s := by
  unfold trimTail; simp only [State.Keeps, (raise_keeps ..), ↓(ite_keeps ..), ↓ite_fuses, ↓ite_floor, ite_self, and_self]

@[simp] theorem initRetained_keeps (s : State) (slot : Nat) :
    (initRetained s slot).pending = s.pending ∧ (initRetained s slot).key.fuses = s.key.fuses ∧ (initRetained s slot).drw.serialFloor = s.drw.serialFloor := by
  unfold initRetained; simp only [and_self]

@[simp] theorem loseRetained_keeps (s : State) (slot : Nat) :
    (loseRetained s slot).pending = s.pending ∧ (loseRetained s slot).key.fuses = s.key.fuses ∧ (loseRetained s slot).drw.serialFloor = s.drw.serialFloor := by
  unfold loseRetained; simp only [(raise_keeps ..), (initRetained_keeps ..), and_self]

@[simp] theorem mapRetained_keeps (old : List Byte) (s : State) (slot : Nat) :
    (mapRetained old s slot).pending = s.pending ∧ (mapRetained old s slot).key.fuses = s.key.fuses ∧ (mapRetained old s slot).drw.serialFloor = s.drw.serialFloor := by
  unfold mapRetained; simp only [(modUpd_keeps ..), (updEvent_keeps ..), (foldl_pending ..), (foldl_fuses ..), (foldl_floor ..), implies_true, and_self]

@[simp] theorem keepRetained_keeps (cold : Bool) (s : State) :
    (keepRetained cold s).pending = s.pending ∧ (keepRetained cold s).key.fuses = s.key.fuses ∧ (keepRetained cold s).drw.serialFloor = s.drw.serialFloor := by
  unfold keepRetained
  have h (s : State) (n : Nat) : ((oldCarcass s n).elim s (fun c => mapRetained c s n)).pending = s.pending ∧
      ((oldCarcass s n).elim s (fun c => mapRetained c s n)).key.fuses = s.key.fuses ∧
      ((oldCarcass s n).elim s (fun c => mapRetained c s n)).drw.serialFloor = s.drw.serialFloor := by
    cases oldCarcass s n <;> simp only [Option.elim, (mapRetained_keeps ..), and_self]
  split
  · simp only [(initRetained_keeps ..), (foldl_pending ..), (foldl_fuses ..), (foldl_floor ..), implies_true, and_self]
  · exact ⟨foldl_pending _ (fun s n => (h s n).1) _ _, foldl_fuses _ (fun s n => (h s n).2.1) _ _,
      foldl_floor _ (fun s n => (h s n).2.2) _ _⟩

@[simp] theorem fillWindows_keeps (s : State) :
    (fillWindows s).pending = s.pending ∧ (fillWindows s).key.fuses = s.key.fuses ∧ (fillWindows s).drw.serialFloor = s.drw.serialFloor := by
  unfold fillWindows; simp only [and_self]

@[simp] theorem restoreState_keeps (bad : List Nat) (hot : List HotReplay) (s : State) :
    (restoreState bad hot s).pending = s.pending ∧ (restoreState bad hot s).key.fuses = s.key.fuses ∧ (restoreState bad hot s).drw.serialFloor = s.drw.serialFloor := by
  unfold restoreState; simp only [State.Keeps, (raise_keeps ..), (jMark_keeps ..), (hotRestart_keeps ..), (loseRetained_keeps ..), (keepRetained_keeps ..), (fillWindows_keeps ..), ↓(ite_keeps ..), ↓ite_fuses, ↓ite_floor, ite_self, (foldl_pending ..), (foldl_mem ..), (foldl_fuses ..), (foldl_floor ..), implies_true, and_self]; repeat' (first | (simp only [State.Keeps, (raise_keeps ..), (jMark_keeps ..), (hotRestart_keeps ..), (loseRetained_keeps ..), (keepRetained_keeps ..), (fillWindows_keeps ..), ↓(ite_keeps ..), ↓ite_fuses, ↓ite_floor, ite_self, (foldl_pending ..), (foldl_mem ..), (foldl_fuses ..), (foldl_floor ..), implies_true, and_self]; done) | split)

@[simp] theorem loadDone_keeps (s : State) :
    (loadDone s).Keeps s := by
  unfold loadDone; simp only [State.Keeps, (modUpd_keeps ..), (loadEvent_keeps ..), (tryRun_keeps ..), (watchBoot_keeps ..), (switchJig_keeps ..), (declareBlocks_keeps ..), ↓(ite_keeps ..), ↓ite_fuses, ↓ite_floor, ite_self, and_self]

@[simp] theorem jigCopyFailed_keeps (s : State) :
    (jigCopyFailed s).Keeps s := by
  unfold jigCopyFailed; simp only [State.Keeps, (refuseSlot_keeps ..), (loadFailed_keeps ..), and_self]

@[simp] theorem loadTables_keeps (journalTorn : Nat) (readbackOk : Bool) (bad : List Nat) (hot : List HotReplay) (s : State) :
    (loadTables journalTorn readbackOk bad hot s).pending = s.pending ∧ (loadTables journalTorn readbackOk bad hot s).key.fuses = s.key.fuses ∧ (loadTables journalTorn readbackOk bad hot s).drw.serialFloor = s.drw.serialFloor := by
  unfold loadTables; simp only [(stageJigCopy_keeps ..), (loadPools_keeps ..), (bindTasks_keeps ..), (loadModule_keeps ..), (loadBlocks_keeps ..), (loadServices_keeps ..), (writeTables_keeps ..), (adoptImage_keeps ..), (trimTail_keeps ..), (restoreState_keeps ..), (loadDone_keeps ..), (jigCopyFailed_keeps ..), ↓(ite_keeps ..), ↓ite_fuses, ↓ite_floor, ite_self, and_self]

/-! ### Edge -/

@[simp] theorem edgeTime_keeps (s : State) :
    (edgeTime s).Keeps s := by
  unfold edgeTime; simp only [State.Keeps, (modPtp_keeps ..), (joinEdge_keeps ..), and_self]

@[simp] theorem edgeMeasure_keeps (x : EdgeIn) (s : State) :
    (edgeMeasure x s).Keeps s := by
  unfold edgeMeasure; simp only [State.Keeps, (setCause_keeps ..), (noteTemp_keeps ..), ↓(ite_keeps ..), ↓ite_fuses, ↓ite_floor, ite_self, and_self]

@[simp] theorem dioInput_keeps (s : State) (r : Rec) :
    (dioInput s r).Keeps s := by
  unfold dioInput; simp only [State.Keeps, (writeInput_keeps ..), ↓(ite_keeps ..), ↓ite_fuses, ↓ite_floor, ite_self, and_self]

@[simp] theorem aioInput_keeps (first : Bool) (ended : List Nat) (s : State) (r : Rec) :
    (aioInput first ended s r).Keeps s := by
  unfold aioInput; simp only [State.Keeps, (modAio_keeps ..), (writeInput_keeps ..), ↓(ite_keeps ..), ↓ite_fuses, ↓ite_floor, ite_self, and_self]

@[simp] theorem localInput_keeps (first : Bool) (ended : List Nat) (s : State) (r : Rec) :
    (localInput first ended s r).Keeps s := by
  unfold localInput; simp only [State.Keeps, (writeInput_keeps ..), (dioInput_keeps ..), (aioInput_keeps ..), ↓(ite_keeps ..), ↓ite_fuses, ↓ite_floor, ite_self, and_self]

@[simp] theorem placeRestart_keeps (im : Image) (s : State) :
    (placeRestart im s).Keeps s := by
  unfold placeRestart; simp only [State.Keeps, (putEntry_keeps ..), (foldl_keeps ..), implies_true, and_self]

@[simp] theorem markInputs_keeps (s : State) :
    (markInputs s).Keeps s := by
  unfold markInputs; simp only [State.Keeps, and_self]

@[simp] theorem edgeInputs_keeps (first : Bool) (ended : List Nat) (s : State) :
    (edgeInputs first ended s).Keeps s := by
  unfold edgeInputs; simp only [State.Keeps, (openVersion_keeps ..), (rioInputs_keeps ..), (causeApply_keeps ..), (localInput_keeps ..), (placeRestart_keeps ..), (markInputs_keeps ..), ↓(ite_keeps ..), ↓ite_fuses, ↓ite_floor, ite_self, (foldl_keeps ..), implies_true, and_self]

@[simp] theorem takeConditions_keeps (s : State) :
    (takeConditions s).Keeps s := by
  unfold takeConditions; simp only [State.Keeps, ↓(ite_keeps ..), ite_self, and_self]

@[simp] theorem takeStrokes_keeps (s : State) :
    (takeStrokes s).Keeps s := by
  unfold takeStrokes; simp only [State.Keeps, and_self]

@[simp] theorem takeCommands_keeps (s : State) :
    (takeCommands s).Keeps s := by
  unfold takeCommands; simp only [State.Keeps, (aioApply_keeps ..), ↓(ite_keeps ..), ↓ite_fuses, ↓ite_floor, ite_self, (foldl_keeps ..), implies_true, and_self]

@[simp] theorem edgeOutputs_keeps (x : EdgeIn) (s : State) :
    (edgeOutputs x s).Keeps s := by
  unfold edgeOutputs; simp only [State.Keeps, (settleOutputs_keeps ..), (rioMarkers_keeps ..), (canMarkers_keeps ..), (applyStaged_keeps ..), (takeConditions_keeps ..), (takeStrokes_keeps ..), (takeCommands_keeps ..), (foldl_keeps ..), implies_true, and_self]

@[simp] theorem armTask_keeps (hot : Bool) (s : State) (r : Rec) :
    (armTask hot s r).Keeps s := by
  unfold armTask; simp only [State.Keeps, (modTask_keeps ..), (stopTask_keeps ..), ↓(ite_keeps ..), ↓ite_fuses, ↓ite_floor, ite_self, and_self]

@[simp] theorem armLoop_keeps (hot : Bool) (s : State) (r : Rec) :
    (armLoop hot s r).Keeps s := by
  unfold armLoop; simp only [State.Keeps, (modLoop_keeps ..), and_self]

@[simp] theorem beginRun_keeps (x : EdgeIn) (s : State) :
    (beginRun x s).Keeps s := by
  unfold beginRun; simp only [State.Keeps, (armStation_keeps ..), (armTask_keeps ..), (armLoop_keeps ..), (foldl_keeps ..), implies_true, and_self]

@[simp] theorem haltTask_keeps (hold : Bool) (s : State) (n : Nat) :
    (haltTask hold s n).Keeps s := by
  unfold haltTask; simp only [State.Keeps, (modTask_keeps ..), (freeCores_keeps ..), and_self]

@[simp] theorem haltCrew_keeps (hold : Bool) (s : State) :
    (haltCrew hold s).Keeps s := by
  unfold haltCrew; simp only [State.Keeps, (gateIdle_keeps ..), (haltTask_keeps ..), (foldl_keeps ..), implies_true, and_self]

@[simp] theorem resumeCrew_keeps (s : State) :
    (resumeCrew s).Keeps s := by
  unfold resumeCrew; simp only [State.Keeps, (restartLoops_keeps ..), and_self]

@[simp] theorem shiftSchedule_keeps (s : State) :
    (shiftSchedule s).Keeps s := by
  unfold shiftSchedule; simp only [State.Keeps, and_self]

@[simp] theorem enterHold_keeps (s : State) :
    (enterHold s).Keeps s := by
  unfold enterHold; simp only [State.Keeps, (enterMode_keeps ..), (holdLoops_keeps ..), (modSys_keeps ..), (haltCrew_keeps ..), and_self]

@[simp] theorem enterDebug_keeps (s : State) :
    (enterDebug s).Keeps s := by
  unfold enterDebug; simp only [State.Keeps, (enterMode_keeps ..), (debugLoops_keeps ..), (abandonUpdate_keeps ..), (modSys_keeps ..), (modDbg_keeps ..), (dbgEvent_keeps ..), (holdFree_keeps ..), (haltCrew_keeps ..), ↓(ite_keeps ..), ↓ite_fuses, ↓ite_floor, ite_self, (foldl_keeps ..), implies_true, and_self]

@[simp] theorem beginStep_keeps (s : State) :
    (beginStep s).Keeps s := by
  unfold beginStep; simp only [State.Keeps, (gateIdle_keeps ..), (modDbg_keeps ..), (dbgEvent_keeps ..), (foldl_keeps ..), implies_true, and_self]

@[simp] theorem debugMark_keeps (entered step : Bool) (s : State) :
    (debugMark entered step s).Keeps s := by
  unfold debugMark; simp only [State.Keeps, (jMark_keeps ..), (modDbg_keeps ..), ↓(ite_keeps ..), ↓ite_fuses, ↓ite_floor, ite_self, and_self]

@[simp] theorem commitHold_keeps (s : State) (slot : Nat) :
    (commitHold s slot).pending = s.pending ∧ (commitHold s slot).key.fuses = s.key.fuses ∧ (commitHold s slot).drw.serialFloor = s.drw.serialFloor := by
  unfold commitHold; simp only [State.Keeps, (releaseStroke_keeps ..), (applySettled_keeps ..), ↓(ite_keeps ..), ↓ite_fuses, ↓ite_floor, ite_self, (foldl_pending ..), (foldl_mem ..), (foldl_fuses ..), (foldl_floor ..), implies_true, and_self]; repeat' (first | (simp only [State.Keeps, (releaseStroke_keeps ..), (applySettled_keeps ..), ↓(ite_keeps ..), ↓ite_fuses, ↓ite_floor, ite_self, (foldl_pending ..), (foldl_mem ..), (foldl_fuses ..), (foldl_floor ..), implies_true, and_self]; done) | split)

@[simp] theorem edgeMode_keeps (p : EdgePlan) (s : State) :
    (edgeMode p s).Keeps s := by
  unfold edgeMode; simp only [State.Keeps, (enterMode_keeps ..), (jMark_keeps ..), (modSys_keeps ..), (resumeCrew_keeps ..), ↓(ite_keeps ..), ↓ite_fuses, ↓ite_floor, ite_self, and_self]

@[simp] theorem edgeBegin_keeps (x : EdgeIn) (p : EdgePlan) (s : State) :
    (edgeBegin x p s).Keeps s := by
  unfold edgeBegin; simp only [State.Keeps, (jMark_keeps ..), (beginRun_keeps ..), (resumeCrew_keeps ..), (shiftSchedule_keeps ..), (beginStep_keeps ..), (debugMark_keeps ..), (edgeMode_keeps ..), ↓(ite_keeps ..), ↓ite_fuses, ↓ite_floor, ite_self, and_self]

@[simp] theorem edgeCommit_keeps (x : EdgeIn) (p : EdgePlan) (s : State) :
    (edgeCommit x p s).pending = s.pending ∧ (edgeCommit x p s).key.fuses = s.key.fuses ∧ (edgeCommit x p s).drw.serialFloor = s.drw.serialFloor := by
  unfold edgeCommit; (repeat' split) <;> simp only [(dispatchAll_keeps ..), (commitSlot_keeps ..), (commitLoops_keeps ..), (openRecord_keeps ..), (closeRecord_keeps ..), (commitHold_keeps ..), ↓(ite_keeps ..), ↓ite_fuses, ↓ite_floor, ite_self, (foldl_pending ..), (foldl_fuses ..), (foldl_floor ..), implies_true, and_self]

@[simp] theorem edgeCheckpoint_keeps (s : State) :
    (edgeCheckpoint s).Keeps s := by
  unfold edgeCheckpoint; simp only [State.Keeps, (ckptStart_keeps ..), ↓(ite_keeps ..), ↓ite_fuses, ↓ite_floor, ite_self, and_self]

@[simp] theorem catchNote_keeps (s : State) (n : Nat) :
    (catchNote s n).pending = s.pending ∧ (catchNote s n).key.fuses = s.key.fuses ∧ (catchNote s n).drw.serialFloor = s.drw.serialFloor := by
  unfold catchNote; simp only [(catchDue_keeps ..), (noteCatch_keeps ..), ↓(ite_keeps ..), ↓ite_fuses, ↓ite_floor, ite_self, and_self]

@[simp] theorem wakeCheck_keeps (s : State) (c : Nat) :
    (wakeCheck s c).Keeps s := by
  unfold wakeCheck; simp only [State.Keeps, (failCore_keeps ..), ↓(ite_keeps ..), ↓ite_fuses, ↓ite_floor, ite_self, and_self]

@[simp] theorem edgeCatch_keeps (x : EdgeIn) (s : State) :
    (edgeCatch x s).pending = s.pending ∧ (edgeCatch x s).key.fuses = s.key.fuses ∧ (edgeCatch x s).drw.serialFloor = s.drw.serialFloor := by
  unfold edgeCatch; simp only [(evalLoops_keeps ..), (idleLoops_keeps ..), (gateIdle_keeps ..), (dispatchAll_keeps ..), (leaveReplay_keeps ..), (shadowStart_keeps ..), (catchNote_keeps ..), (wakeCheck_keeps ..), ↓(ite_keeps ..), ↓ite_fuses, ↓ite_floor, ite_self, (foldl_pending ..), (foldl_fuses ..), (foldl_floor ..), implies_true, and_self]

@[simp] theorem edgeRing_keeps (s : State) :
    (edgeRing s).Keeps s := by
  unfold edgeRing; simp only [State.Keeps, (ringWrite_keeps ..), ↓(ite_keeps ..), ↓ite_fuses, ↓ite_floor, ite_self, (foldl_keeps ..), implies_true, and_self]

@[simp] theorem edgeUpdate_keeps (p : EdgePlan) (s : State) :
    (edgeUpdate p s).pending = s.pending ∧ (edgeUpdate p s).mem = s.mem ∧ (edgeUpdate p s).drw.serialFloor = s.drw.serialFloor := by
  unfold edgeUpdate; simp only [(doSwitch_keeps ..), (doRollback_keeps ..), ↓(ite_keeps ..), ↓ite_floor, ite_self, and_self]

@[simp] theorem edgeSeal_keeps (p : EdgePlan) (s : State) :
    (edgeSeal p s).Keeps s := by
  unfold edgeSeal; simp only [State.Keeps, (applyForces_keeps ..), (sealVersion_keeps ..), (observe_keeps ..), (enterHold_keeps ..), (enterDebug_keeps ..), ↓(ite_keeps ..), ↓ite_fuses, ↓ite_floor, ite_self, (foldl_keeps ..), implies_true, and_self]

@[simp] theorem edgeAfter_keeps (x : EdgeIn) (p : EdgePlan) (s : State) :
    (edgeAfter x p s).pending = s.pending := by
  unfold edgeAfter; simp only [(idleLoops_keeps ..), (noteVstore_keeps ..), (shadowEdge_keeps ..), (deferFail_keeps ..), (switchEnds_keeps ..), (watchEdge_keeps ..), (edgeOutputs_keeps ..), (edgeCheckpoint_keeps ..), (edgeCatch_keeps ..), (edgeUpdate_keeps ..), ↓(ite_keeps ..), ite_self]

@[simp] theorem edgeLatch_keeps (x : EdgeIn) (s : State) :
    (edgeLatch x s).Keeps s := by
  unfold edgeLatch; simp only [State.Keeps, (diLatch_keeps ..), (aioLatch_keeps ..), (rioDeadlines_keeps ..), ↓(ite_keeps ..), ↓ite_fuses, ↓ite_floor, ite_self, and_self]

@[simp] theorem edgeRun_keeps (x : EdgeIn) (s : State) :
    (edgeRun x s).pending = s.pending := by
  unfold edgeRun
  have hs (f : State → State) (s : State) (h : ∀ s, (f s).pending = s.pending) : (sameCycle f s).pending = s.pending :=
    sameCycle_keep (fun s => s.pending) (fun _ _ => (raise_keeps _ _).1) (fun _ _ => rfl) h s
  dsimp only
  split
  · rw [(assertReset_keeps _ _).1, hs, hs] <;> intros <;> simp only [(edgeInputs_keeps ..), (edgeBegin_keeps ..), (edgeCommit_keeps ..), (edgeSeal_keeps ..), (edgeAfter_keeps ..), (edgeLatch_keeps ..)]
  · split
    · rw [hs, hs, hs, hs] <;> intros <;> simp only [(edgeInputs_keeps ..), (edgeBegin_keeps ..), (edgeCommit_keeps ..), (edgeSeal_keeps ..), (edgeAfter_keeps ..), (edgeLatch_keeps ..)]
    · simp only [(edgeRing_keeps ..), (stepCheck_keeps ..)]
      rw [hs, hs, hs, hs] <;> intros <;> simp only [(edgeInputs_keeps ..), (edgeBegin_keeps ..), (edgeCommit_keeps ..), (edgeSeal_keeps ..), (edgeAfter_keeps ..), (edgeLatch_keeps ..)]

@[simp] theorem edgeIdle_keeps (s : State) :
    (edgeIdle s).pending = s.pending ∧ (edgeIdle s).mem = s.mem ∧ (edgeIdle s).drw.serialFloor = s.drw.serialFloor := by
  unfold edgeIdle; simp only [State.Keeps, (openRecord_keeps ..), (closeRecord_keeps ..), (assertReset_keeps ..), (stepCheck_keeps ..), (enterDebug_keeps ..), (beginStep_keeps ..), (debugMark_keeps ..), (edgeRing_keeps ..), ↓(ite_keeps ..), ↓ite_fuses, ↓ite_floor, ite_self, (foldl_pending ..), (foldl_mem ..), (foldl_fuses ..), (foldl_floor ..), and_self]; repeat' (first | (simp only [State.Keeps, (openRecord_keeps ..), (closeRecord_keeps ..), (assertReset_keeps ..), (stepCheck_keeps ..), (enterDebug_keeps ..), (beginStep_keeps ..), (debugMark_keeps ..), (edgeRing_keeps ..), ↓(ite_keeps ..), ↓ite_fuses, ↓ite_floor, ite_self, (foldl_pending ..), (foldl_mem ..), (foldl_fuses ..), (foldl_floor ..), and_self]; done) | split)

end Sys2Proof.Machine
end

