-- ==== Sys2Proof/Laws/FramesEdge.lean ====
section
/-! SUPPORT. The frame of each operation, the blocks of the state it leaves as they were: the load and the edge. -/
set_option linter.unusedSimpArgs false
namespace Sys2Proof.Machine

/-! ### Replay -/

@[simp] theorem replayStaged_frame (s : State) :
    (replayStaged s).OnlyFreshDioAioLpeEvrHie s := by
  unfold replayStaged; simp only [State.OnlyFreshDioAioLpeEvrHie, (applyStaged_frame ..), ↓(ite_fields ..), ite_self, (foldl_OnlyFreshDioAioLpeEvrHie ..), implies_true, and_self]

@[simp] theorem replayLoops_frame (r : JRecord) (s : State) :
    (replayLoops r s).OnlyFreshLpeEvrHie s := by
  unfold replayLoops; simp only [State.OnlyFreshLpeEvrHie, (evalLoops_frame ..), (holdLoops_frame ..), ↓(ite_fields ..), ite_self, and_self]

@[simp] theorem loadTask_frame (s : State) (c : TaskCkpt) :
    (loadTask s c).OnlyStk s := by
  unfold loadTask; simp only [State.OnlyStk, (modTask_frame ..), ↓(ite_fields ..), ite_self, implies_true, and_self]

@[simp] theorem replayStart_frame (b : Bank) (s : State) :
    (replayStart b s).OnlyFreshStkDvtLpeEvrHie s := by
  unfold replayStart; simp only [State.OnlyFreshStkDvtLpeEvrHie, (evalLoops_frame ..), (loadTask_frame ..), ↓(ite_fields ..), ite_self, (foldl_OnlyFreshStkDvtLpeEvrHie ..), implies_true, and_self]

@[simp] theorem hotTask_frame (x : Replay) (s : State) (slot : Nat) :
    (hotTask x s slot).OnlyStk s := by
  unfold hotTask; simp only [State.OnlyStk, (modTask_frame ..), ↓(ite_fields ..), ite_self, implies_true, and_self]

@[simp] theorem hotLoop_frame (x : Replay) (s : State) (n : Nat) :
    (hotLoop x s n).OnlyLpe s := by
  unfold hotLoop; (repeat' split) <;> simp only [State.OnlyLpe, (modLoop_frame ..), ↓(ite_fields ..), ite_self, implies_true, and_self]

@[simp] theorem loadCopy_frame (s : State) (c : TaskCkpt) :
    (loadCopy s c).OnlyMem s := by
  unfold loadCopy; simp only [State.OnlyMem, ↓(ite_fields ..), ite_self, implies_true, and_self]

@[simp] theorem adoptWork_frame (w : Wke) (b : Bank) (upTo : Nat) (s : State) (c : TaskCkpt) :
    (adoptWork w b upTo s c).OnlyMem s := by
  unfold adoptWork Option.elim; dsimp only; repeat' (first | (simp only [State.OnlyMem, ↓(ite_fields ..), ite_self, implies_true, and_self]; done) | split)

@[simp] theorem putReplayed_frame (l : List (Nat × Byte)) (s : State) :
    (putReplayed l s).OnlyMem s := by
  unfold putReplayed; simp only [State.OnlyMem, ↓(ite_fields ..), ite_self, implies_true, and_self]

@[simp] theorem hotRestart_frame (h : HotReplay) (s : State) :
    (hotRestart h s).pending = s.pending ∧ (hotRestart h s).answer = s.answer ∧ (hotRestart h s).sys = s.sys ∧ (hotRestart h s).drw = s.drw ∧ (hotRestart h s).jig = s.jig ∧ (hotRestart h s).rio = s.rio ∧ (hotRestart h s).can = s.can ∧ (hotRestart h s).mac = s.mac ∧ (hotRestart h s).ptp = s.ptp ∧ (hotRestart h s).rtc = s.rtc ∧ (hotRestart h s).cvu = s.cvu ∧ (hotRestart h s).key = s.key ∧ (hotRestart h s).upd = s.upd ∧ (hotRestart h s).cores = s.cores ∧ (hotRestart h s).enabled = s.enabled ∧ (hotRestart h s).declared = s.declared := by
  unfold hotRestart; simp only [(raise_frame ..), (jMark_frame ..), (hotTask_frame ..), (hotLoop_frame ..), (loadCopy_frame ..), (adoptWork_frame ..), (putReplayed_frame ..), ↓(ite_fields ..), ite_self, (foldl_Only_128 ..), implies_true, and_self]

/-! ### Load -/

@[simp] theorem bindTask_frame (a : State × List Nat) (r : Rec) : (bindTask a r).1.OnlyStkWke a.1 := by
  unfold bindTask
  dsimp only
  repeat' split
  all_goals simp only [State.OnlyStkWke, (modTask_frame ..), and_self]

theorem foldl_bindTask_frame (l : List Rec) (a : State × List Nat) : (l.foldl bindTask a).1.OnlyStkWke a.1 := by
  induction l generalizing a with
  | nil => simp only [List.foldl_nil, State.OnlyStkWke, and_self]
  | cons r l ih => rw [List.foldl_cons]; simp only [State.OnlyStkWke, ih, (bindTask_frame ..), and_self]

@[simp] theorem refuseSlot_frame (f : Finding) (s : State) :
    (refuseSlot f s).OnlyFreshDrwEvrHie s := by
  unfold refuseSlot; simp only [State.OnlyFreshDrwEvrHie, (loadEvent_frame ..), ↓(ite_fields ..), ite_self, implies_true, and_self]

@[simp] theorem loadFailed_frame (s : State) :
    (loadFailed s).OnlyDrw s := by
  unfold loadFailed; simp only [State.OnlyDrw, ↓(ite_fields ..), ite_self, implies_true, and_self]

@[simp] theorem trySlots_frame (s : State) :
    (trySlots s).2.OnlyFreshDrwEvrHie s := by
  unfold trySlots; simp only [State.OnlyFreshDrwEvrHie, (runtimeFailed_frame ..), (refuseSlot_frame ..), (loadFailed_frame ..), ↓(ite_fields ..), ite_self, implies_true, and_self]; repeat' (first | (simp only [State.OnlyFreshDrwEvrHie, (runtimeFailed_frame ..), (refuseSlot_frame ..), (loadFailed_frame ..), ↓(ite_fields ..), ite_self, implies_true, and_self]; done) | split)

@[simp] theorem stageJigCopy_frame (body : List Byte) (readbackOk : Bool) (s : State) :
    (stageJigCopy body readbackOk s).2.OnlyJig s := by
  unfold stageJigCopy; simp only [State.OnlyJig, ↓(ite_fields ..), ite_self, implies_true, and_self]; repeat' (first | (simp only [State.OnlyJig, ↓(ite_fields ..), ite_self, implies_true, and_self]; done) | split)

@[simp] theorem switchJig_frame (s : State) :
    (switchJig s).OnlyJig s := by
  unfold switchJig; simp only [State.OnlyJig, ↓(ite_fields ..), ite_self, and_self]

@[simp] theorem declareBlocks_frame (s : State) :
    (declareBlocks s).OnlyEnabledDeclared s := by
  unfold declareBlocks; simp only [State.OnlyEnabledDeclared, ↓(ite_fields ..), ite_self, implies_true, and_self]

@[simp] theorem replaceCore_frame (s : State) (c : Nat) :
    (replaceCore s c).OnlyFreshSysStkWkeEvrHie s := by
  unfold replaceCore; (repeat' split) <;> simp only [State.OnlyFreshSysStkWkeEvrHie, (setCause_frame ..), (sparesOut_frame ..), (rebind_frame ..), ↓(ite_fields ..), ite_self, implies_true, and_self]

@[simp] theorem loadPools_frame (s : State) :
    (loadPools s).OnlyFreshSysStkWkeEvrHie s := by
  unfold loadPools; simp only [State.OnlyFreshSysStkWkeEvrHie, (replaceCore_frame ..), ↓(ite_fields ..), ite_self, (foldl_OnlyFreshSysStkWkeEvrHie ..), implies_true, and_self]

@[simp] theorem bindTasks_frame (s : State) :
    (bindTasks s).OnlyStkWke s := by
  unfold bindTasks; exact foldl_bindTask_frame _ _

@[simp] theorem loadModule_frame (s : State) :
    (loadModule s).OnlySysDvtWkeLpeEvrUpd s := by
  unfold loadModule; simp only [State.OnlySysDvtWkeLpeEvrUpd, ↓(ite_fields ..), ite_self, (foldl_OnlySysDvtWkeLpeEvrUpd ..), implies_true, and_self]

@[simp] theorem loadIo_frame (s : State) (r : Rec) :
    (loadIo s r).OnlyFreshDioAioEvrHie s := by
  unfold loadIo; (repeat' split) <;> simp only [State.OnlyFreshDioAioEvrHie, (applyDioCfg_frame ..), (modAio_frame ..), ↓(ite_fields ..), ite_self, implies_true, and_self]

@[simp] theorem loadIoDefaults_frame (img : List Section) (s : State) :
    (loadIoDefaults img s).OnlyFreshDioAioEvrHie s := by
  unfold loadIoDefaults; simp only [State.OnlyFreshDioAioEvrHie, (applyDioCfg_frame ..), (modAio_frame ..), ↓(ite_fields ..), ite_self, (foldl_OnlyFreshDioAioEvrHie ..), implies_true, and_self]

@[simp] theorem loadHie_frame (s : State) :
    (loadHie s).OnlyFreshEvrHie s := by
  unfold loadHie; simp only [State.OnlyFreshEvrHie, (modHie_frame ..), (toParent_frame ..), (publishDir_frame ..), ↓(ite_fields ..), ite_self, and_self]

@[simp] theorem loadBlocks_frame (s : State) :
    (loadBlocks s).pending = s.pending ∧ (loadBlocks s).answer = s.answer ∧ (loadBlocks s).sys = s.sys ∧ (loadBlocks s).drw = s.drw ∧ (loadBlocks s).stk = s.stk ∧ (loadBlocks s).dvt = s.dvt ∧ (loadBlocks s).wke = s.wke ∧ (loadBlocks s).lpe = s.lpe ∧ (loadBlocks s).cvu = s.cvu ∧ (loadBlocks s).key = s.key ∧ (loadBlocks s).upd = s.upd ∧ (loadBlocks s).dbg = s.dbg ∧ (loadBlocks s).cores = s.cores ∧ (loadBlocks s).enabled = s.enabled ∧ (loadBlocks s).declared = s.declared ∧ (loadBlocks s).mem = s.mem := by
  unfold loadBlocks; simp only [(settleOutputs_frame ..), (rioLoad_frame ..), (ptpLoad_frame ..), (draw_frame ..), (loadIo_frame ..), (loadIoDefaults_frame ..), ↓(ite_fields ..), ite_self, (foldl_Only_134 ..), implies_true, and_self]; repeat' (first | (simp only [(settleOutputs_frame ..), (rioLoad_frame ..), (ptpLoad_frame ..), (draw_frame ..), (loadIo_frame ..), (loadIoDefaults_frame ..), ↓(ite_fields ..), ite_self, (foldl_Only_134 ..), implies_true, and_self]; done) | split)

@[simp] theorem loadServices_frame (s : State) :
    (loadServices s).OnlyFreshRtcEvrKeyHie s := by
  unfold loadServices; simp only [State.OnlyFreshRtcEvrKeyHie, (keyLoad_frame ..), (loadHie_frame ..), ↓(ite_fields ..), ite_self, implies_true, and_self]

@[simp] theorem writeTables_frame (s : State) :
    (writeTables s).OnlyDrwDvt s := by
  unfold writeTables; simp only [State.OnlyDrwDvt, ↓(ite_fields ..), ite_self, (foldl_OnlyDrwDvt ..), implies_true, and_self]

@[simp] theorem adoptImage_frame (s : State) :
    (adoptImage s).OnlyDrw s := by
  unfold adoptImage; simp only [State.OnlyDrw, ↓(ite_fields ..), ite_self, implies_true, and_self]

@[simp] theorem trimTail_frame (torn : Nat) (s : State) :
    (trimTail torn s).OnlyFreshWkeEvrHie s := by
  unfold trimTail; simp only [State.OnlyFreshWkeEvrHie, (raise_frame ..), ↓(ite_fields ..), ite_self, and_self]

@[simp] theorem initRetained_frame (s : State) (slot : Nat) :
    (initRetained s slot).OnlyMem s := by
  unfold initRetained; simp only [State.OnlyMem, ↓(ite_fields ..), ite_self, (foldl_OnlyMem ..), implies_true, and_self]

@[simp] theorem loseRetained_frame (s : State) (slot : Nat) :
    (loseRetained s slot).OnlyFreshStkEvrHieMem s := by
  unfold loseRetained; simp only [State.OnlyFreshStkEvrHieMem, (raise_frame ..), (initRetained_frame ..), ↓(ite_fields ..), ite_self, implies_true, and_self]

@[simp] theorem mapRetained_frame (old : List Byte) (s : State) (slot : Nat) :
    (mapRetained old s slot).OnlyFreshEvrUpdHieMem s := by
  unfold mapRetained; simp only [State.OnlyFreshEvrUpdHieMem, (modUpd_frame ..), (updEvent_frame ..), ↓(ite_fields ..), ite_self, (foldl_OnlyFreshEvrUpdHieMem ..), implies_true, and_self]

@[simp] theorem keepRetained_frame (cold : Bool) (s : State) :
    (keepRetained cold s).OnlyFreshEvrUpdHieMem s := by
  unfold keepRetained
  have h (s : State) (n : Nat) : ((oldCarcass s n).elim s (fun c => mapRetained c s n)).OnlyFreshEvrUpdHieMem s := by
    cases oldCarcass s n <;> simp only [Option.elim, State.OnlyFreshEvrUpdHieMem, (mapRetained_frame ..), and_self]
  split
  · simp only [State.OnlyFreshEvrUpdHieMem, (initRetained_frame ..), (mapRetained_frame ..), ↓(ite_fields ..), ite_self, (foldl_OnlyFreshEvrUpdHieMem ..), implies_true, and_self]
  · exact foldl_OnlyFreshEvrUpdHieMem _ h _ _

@[simp] theorem fillWindows_frame (s : State) :
    (fillWindows s).OnlyMem s := by
  unfold fillWindows; simp only [State.OnlyMem, ↓(ite_fields ..), ite_self, (foldl_OnlyMem ..), implies_true, and_self]

@[simp] theorem restoreState_frame (bad : List Nat) (hot : List HotReplay) (s : State) :
    (restoreState bad hot s).pending = s.pending ∧ (restoreState bad hot s).answer = s.answer ∧ (restoreState bad hot s).sys = s.sys ∧ (restoreState bad hot s).jig = s.jig ∧ (restoreState bad hot s).rio = s.rio ∧ (restoreState bad hot s).can = s.can ∧ (restoreState bad hot s).mac = s.mac ∧ (restoreState bad hot s).ptp = s.ptp ∧ (restoreState bad hot s).cvu = s.cvu ∧ (restoreState bad hot s).key = s.key ∧ (restoreState bad hot s).cores = s.cores ∧ (restoreState bad hot s).enabled = s.enabled ∧ (restoreState bad hot s).declared = s.declared := by
  unfold restoreState; simp only [(raise_frame ..), (jMark_frame ..), (hotRestart_frame ..), (loseRetained_frame ..), (keepRetained_frame ..), (fillWindows_frame ..), ↓(ite_fields ..), ite_self, (foldl_Only_138 ..), implies_true, and_self]; repeat' (first | (simp only [(raise_frame ..), (jMark_frame ..), (hotRestart_frame ..), (loseRetained_frame ..), (keepRetained_frame ..), (fillWindows_frame ..), ↓(ite_fields ..), ite_self, (foldl_Only_138 ..), implies_true, and_self]; done) | split)

@[simp] theorem loadDone_frame (s : State) :
    (loadDone s).OnlyFreshSysDrwJigEvrUpdHieEnabledDeclared s := by
  unfold loadDone; simp only [State.OnlyFreshSysDrwJigEvrUpdHieEnabledDeclared, (modUpd_frame ..), (loadEvent_frame ..), (tryRun_frame ..), (watchBoot_frame ..), (switchJig_frame ..), (declareBlocks_frame ..), ↓(ite_fields ..), ite_self, and_self]

@[simp] theorem jigCopyFailed_frame (s : State) :
    (jigCopyFailed s).OnlyFreshSysDrwJigRtcEvrHie s := by
  unfold jigCopyFailed; simp only [State.OnlyFreshSysDrwJigRtcEvrHie, (refuseSlot_frame ..), (loadFailed_frame ..), ↓(ite_fields ..), ite_self, implies_true, and_self]

@[simp] theorem loadTables_frame (journalTorn : Nat) (readbackOk : Bool) (bad : List Nat) (hot : List HotReplay) (s : State) :
    (loadTables journalTorn readbackOk bad hot s).pending = s.pending ∧ (loadTables journalTorn readbackOk bad hot s).answer = s.answer ∧ (loadTables journalTorn readbackOk bad hot s).cvu = s.cvu ∧ (loadTables journalTorn readbackOk bad hot s).cores = s.cores := by
  unfold loadTables; simp only [(stageJigCopy_frame ..), (loadPools_frame ..), (bindTasks_frame ..), (loadModule_frame ..), (loadBlocks_frame ..), (loadServices_frame ..), (writeTables_frame ..), (adoptImage_frame ..), (trimTail_frame ..), (restoreState_frame ..), (loadDone_frame ..), (jigCopyFailed_frame ..), ↓(ite_fields ..), ite_self, and_self]

/-! ### Edge -/

@[simp] theorem edgeTime_frame (s : State) :
    (edgeTime s).OnlyFreshStkWkeAioPtpEvrHie s := by
  unfold edgeTime; simp only [State.OnlyFreshStkWkeAioPtpEvrHie, (modPtp_frame ..), (joinEdge_frame ..), ↓(ite_fields ..), ite_self, implies_true, and_self]

@[simp] theorem edgeMeasure_frame (x : EdgeIn) (s : State) :
    (edgeMeasure x s).OnlyFreshSysDioEvrHie s := by
  unfold edgeMeasure; simp only [State.OnlyFreshSysDioEvrHie, (setCause_frame ..), (noteTemp_frame ..), ↓(ite_fields ..), ite_self, and_self]

@[simp] theorem dioInput_frame (s : State) (r : Rec) :
    (dioInput s r).OnlyDvtDbg s := by
  unfold dioInput; simp only [State.OnlyDvtDbg, (writeInput_frame ..), ↓(ite_fields ..), ite_self, and_self]

@[simp] theorem aioInput_frame (first : Bool) (ended : List Nat) (s : State) (r : Rec) :
    (aioInput first ended s r).OnlyDvtAioDbg s := by
  unfold aioInput; simp only [State.OnlyDvtAioDbg, (modAio_frame ..), (writeInput_frame ..), ↓(ite_fields ..), ite_self, and_self]

@[simp] theorem localInput_frame (first : Bool) (ended : List Nat) (s : State) (r : Rec) :
    (localInput first ended s r).OnlyDvtAioDbg s := by
  unfold localInput; simp only [State.OnlyDvtAioDbg, (writeInput_frame ..), (dioInput_frame ..), (aioInput_frame ..), ↓(ite_fields ..), ite_self, and_self]

@[simp] theorem placeRestart_frame (im : Image) (s : State) :
    (placeRestart im s).OnlyDvt s := by
  unfold placeRestart; simp only [State.OnlyDvt, (putEntry_frame ..), ↓(ite_fields ..), ite_self, (foldl_OnlyDvt ..), implies_true, and_self]

@[simp] theorem markInputs_frame (s : State) :
    (markInputs s).OnlyDvt s := by
  unfold markInputs; simp only [State.OnlyDvt, ↓(ite_fields ..), ite_self, implies_true, and_self]

@[simp] theorem edgeInputs_frame (first : Bool) (ended : List Nat) (s : State) :
    (edgeInputs first ended s).OnlyFreshDvtAioRioEvrHieDbg s := by
  unfold edgeInputs; simp only [State.OnlyFreshDvtAioRioEvrHieDbg, (openVersion_frame ..), (rioInputs_frame ..), (causeApply_frame ..), (localInput_frame ..), (placeRestart_frame ..), (markInputs_frame ..), ↓(ite_fields ..), ite_self, (foldl_OnlyFreshDvtAioRioEvrHieDbg ..), implies_true, and_self]

@[simp] theorem takeConditions_frame (s : State) :
    (takeConditions s).OnlyJig s := by
  unfold takeConditions; simp only [State.OnlyJig, ↓(ite_fields ..), ite_self, and_self]

@[simp] theorem takeStrokes_frame (s : State) :
    (takeStrokes s).OnlyDio s := by
  unfold takeStrokes; simp only [State.OnlyDio, ↓(ite_fields ..), ite_self, implies_true, and_self]

@[simp] theorem takeCommands_frame (s : State) :
    (takeCommands s).OnlyAio s := by
  unfold takeCommands; simp only [State.OnlyAio, (aioApply_frame ..), ↓(ite_fields ..), ite_self, (foldl_OnlyAio ..), implies_true, and_self]

@[simp] theorem edgeOutputs_frame (x : EdgeIn) (s : State) :
    (edgeOutputs x s).pending = s.pending ∧ (edgeOutputs x s).answer = s.answer ∧ (edgeOutputs x s).sys = s.sys ∧ (edgeOutputs x s).drw = s.drw ∧ (edgeOutputs x s).stk = s.stk ∧ (edgeOutputs x s).dvt = s.dvt ∧ (edgeOutputs x s).wke = s.wke ∧ (edgeOutputs x s).ptp = s.ptp ∧ (edgeOutputs x s).rtc = s.rtc ∧ (edgeOutputs x s).cvu = s.cvu ∧ (edgeOutputs x s).key = s.key ∧ (edgeOutputs x s).upd = s.upd ∧ (edgeOutputs x s).dbg = s.dbg ∧ (edgeOutputs x s).cores = s.cores ∧ (edgeOutputs x s).enabled = s.enabled ∧ (edgeOutputs x s).declared = s.declared ∧ (edgeOutputs x s).mem = s.mem := by
  unfold edgeOutputs; simp only [(settleOutputs_frame ..), (rioMarkers_frame ..), (canMarkers_frame ..), (applyStaged_frame ..), (takeConditions_frame ..), (takeStrokes_frame ..), (takeCommands_frame ..), ↓(ite_fields ..), ite_self, (foldl_Only_146 ..), implies_true, and_self]

@[simp] theorem armTask_frame (hot : Bool) (s : State) (r : Rec) :
    (armTask hot s r).OnlyFreshStkCanEvrKeyUpdHieCores s := by
  unfold armTask; simp only [State.OnlyFreshStkCanEvrKeyUpdHieCores, (modTask_frame ..), (stopTask_frame ..), ↓(ite_fields ..), ite_self, and_self]

@[simp] theorem armLoop_frame (hot : Bool) (s : State) (r : Rec) :
    (armLoop hot s r).OnlyLpe s := by
  unfold armLoop; simp only [State.OnlyLpe, (modLoop_frame ..), ↓(ite_fields ..), ite_self, implies_true, and_self]

@[simp] theorem beginRun_frame (x : EdgeIn) (s : State) :
    (beginRun x s).pending = s.pending ∧ (beginRun x s).answer = s.answer ∧ (beginRun x s).drw = s.drw ∧ (beginRun x s).dvt = s.dvt ∧ (beginRun x s).jig = s.jig ∧ (beginRun x s).dio = s.dio ∧ (beginRun x s).aio = s.aio ∧ (beginRun x s).mac = s.mac ∧ (beginRun x s).ptp = s.ptp ∧ (beginRun x s).rtc = s.rtc ∧ (beginRun x s).cvu = s.cvu ∧ (beginRun x s).dbg = s.dbg ∧ (beginRun x s).enabled = s.enabled ∧ (beginRun x s).declared = s.declared ∧ (beginRun x s).mem = s.mem := by
  unfold beginRun; simp only [(armStation_frame ..), (armTask_frame ..), (armLoop_frame ..), ↓(ite_fields ..), ite_self, (foldl_Only_147 ..), implies_true, and_self]

@[simp] theorem haltTask_frame (hold : Bool) (s : State) (n : Nat) :
    (haltTask hold s n).OnlyStkCanKeyCores s := by
  unfold haltTask; simp only [State.OnlyStkCanKeyCores, (modTask_frame ..), (freeCores_frame ..), ↓(ite_fields ..), ite_self, implies_true, and_self]

@[simp] theorem haltCrew_frame (hold : Bool) (s : State) :
    (haltCrew hold s).OnlyStkCanKeyCores s := by
  unfold haltCrew; simp only [State.OnlyStkCanKeyCores, (gateIdle_frame ..), (haltTask_frame ..), ↓(ite_fields ..), ite_self, (foldl_OnlyStkCanKeyCores ..), implies_true, and_self]

@[simp] theorem resumeCrew_frame (s : State) :
    (resumeCrew s).OnlyStkLpe s := by
  unfold resumeCrew; simp only [State.OnlyStkLpe, (restartLoops_frame ..), ↓(ite_fields ..), ite_self, implies_true, and_self]

@[simp] theorem shiftSchedule_frame (s : State) :
    (shiftSchedule s).OnlyStkLpe s := by
  unfold shiftSchedule; simp only [State.OnlyStkLpe, ↓(ite_fields ..), ite_self, implies_true, and_self]

@[simp] theorem enterHold_frame (s : State) :
    (enterHold s).OnlyFreshSysStkLpeCanEvrKeyHieCores s := by
  unfold enterHold; simp only [State.OnlyFreshSysStkLpeCanEvrKeyHieCores, (enterMode_frame ..), (holdLoops_frame ..), (modSys_frame ..), (haltCrew_frame ..), ↓(ite_fields ..), ite_self, implies_true, and_self]

@[simp] theorem enterDebug_frame (s : State) :
    (enterDebug s).pending = s.pending ∧ (enterDebug s).answer = s.answer ∧ (enterDebug s).drw = s.drw ∧ (enterDebug s).jig = s.jig ∧ (enterDebug s).dio = s.dio ∧ (enterDebug s).aio = s.aio ∧ (enterDebug s).rio = s.rio ∧ (enterDebug s).mac = s.mac ∧ (enterDebug s).ptp = s.ptp ∧ (enterDebug s).rtc = s.rtc ∧ (enterDebug s).cvu = s.cvu ∧ (enterDebug s).enabled = s.enabled ∧ (enterDebug s).declared = s.declared ∧ (enterDebug s).mem = s.mem := by
  unfold enterDebug; simp only [(enterMode_frame ..), (debugLoops_frame ..), (abandonUpdate_frame ..), (modSys_frame ..), (modDbg_frame ..), (dbgEvent_frame ..), (holdFree_frame ..), (haltCrew_frame ..), ↓(ite_fields ..), ite_self, (foldl_Only_150 ..), implies_true, and_self]

@[simp] theorem beginStep_frame (s : State) :
    (beginStep s).OnlyFreshEvrHieDbgCores s := by
  unfold beginStep; simp only [State.OnlyFreshEvrHieDbgCores, (gateIdle_frame ..), (modDbg_frame ..), (dbgEvent_frame ..), ↓(ite_fields ..), ite_self, (foldl_OnlyFreshEvrHieDbgCores ..), implies_true, and_self]

@[simp] theorem debugMark_frame (entered step : Bool) (s : State) :
    (debugMark entered step s).OnlyPendingWkeDbg s := by
  unfold debugMark; simp only [State.OnlyPendingWkeDbg, (jMark_frame ..), (modDbg_frame ..), ↓(ite_fields ..), ite_self, and_self]

@[simp] theorem commitHold_frame (s : State) (slot : Nat) :
    (commitHold s slot).pending = s.pending ∧ (commitHold s slot).answer = s.answer ∧ (commitHold s slot).sys = s.sys ∧ (commitHold s slot).drw = s.drw ∧ (commitHold s slot).jig = s.jig ∧ (commitHold s slot).dio = s.dio ∧ (commitHold s slot).aio = s.aio ∧ (commitHold s slot).lpe = s.lpe ∧ (commitHold s slot).rio = s.rio ∧ (commitHold s slot).mac = s.mac ∧ (commitHold s slot).ptp = s.ptp ∧ (commitHold s slot).rtc = s.rtc ∧ (commitHold s slot).cvu = s.cvu ∧ (commitHold s slot).enabled = s.enabled ∧ (commitHold s slot).declared = s.declared := by
  unfold commitHold; simp only [(releaseStroke_frame ..), (applySettled_frame ..), ↓(ite_fields ..), ite_self, implies_true, and_self]; repeat' (first | (simp only [(releaseStroke_frame ..), (applySettled_frame ..), ↓(ite_fields ..), ite_self, implies_true, and_self]; done) | split)

@[simp] theorem edgeMode_frame (p : EdgePlan) (s : State) :
    (edgeMode p s).OnlyFreshSysStkWkeLpeEvrHie s := by
  unfold edgeMode; simp only [State.OnlyFreshSysStkWkeLpeEvrHie, (enterMode_frame ..), (jMark_frame ..), (modSys_frame ..), (resumeCrew_frame ..), ↓(ite_fields ..), ite_self, and_self]

@[simp] theorem edgeBegin_frame (x : EdgeIn) (p : EdgePlan) (s : State) :
    (edgeBegin x p s).answer = s.answer ∧ (edgeBegin x p s).drw = s.drw ∧ (edgeBegin x p s).dvt = s.dvt ∧ (edgeBegin x p s).jig = s.jig ∧ (edgeBegin x p s).dio = s.dio ∧ (edgeBegin x p s).aio = s.aio ∧ (edgeBegin x p s).mac = s.mac ∧ (edgeBegin x p s).ptp = s.ptp ∧ (edgeBegin x p s).rtc = s.rtc ∧ (edgeBegin x p s).cvu = s.cvu ∧ (edgeBegin x p s).enabled = s.enabled ∧ (edgeBegin x p s).declared = s.declared ∧ (edgeBegin x p s).mem = s.mem := by
  unfold edgeBegin; simp only [(jMark_frame ..), (beginRun_frame ..), (resumeCrew_frame ..), (shiftSchedule_frame ..), (beginStep_frame ..), (debugMark_frame ..), (edgeMode_frame ..), ↓(ite_fields ..), ite_self, and_self]

@[simp] theorem edgeCommit_frame (x : EdgeIn) (p : EdgePlan) (s : State) :
    (edgeCommit x p s).pending = s.pending ∧ (edgeCommit x p s).answer = s.answer ∧ (edgeCommit x p s).sys = s.sys ∧ (edgeCommit x p s).drw = s.drw ∧ (edgeCommit x p s).jig = s.jig ∧ (edgeCommit x p s).dio = s.dio ∧ (edgeCommit x p s).aio = s.aio ∧ (edgeCommit x p s).rio = s.rio ∧ (edgeCommit x p s).mac = s.mac ∧ (edgeCommit x p s).ptp = s.ptp ∧ (edgeCommit x p s).rtc = s.rtc ∧ (edgeCommit x p s).cvu = s.cvu ∧ (edgeCommit x p s).enabled = s.enabled ∧ (edgeCommit x p s).declared = s.declared := by
  unfold edgeCommit; (repeat' split) <;> simp only [(dispatchAll_frame ..), (commitSlot_frame ..), (commitLoops_frame ..), (openRecord_frame ..), (closeRecord_frame ..), (commitHold_frame ..), ↓(ite_fields ..), ite_self, (foldl_Only_155 ..), implies_true, and_self]

@[simp] theorem edgeCheckpoint_frame (s : State) :
    (edgeCheckpoint s).OnlyFreshWke s := by
  unfold edgeCheckpoint; simp only [State.OnlyFreshWke, (ckptStart_frame ..), ↓(ite_fields ..), ite_self, and_self]

@[simp] theorem catchNote_frame (s : State) (n : Nat) :
    (catchNote s n).OnlyDrwStkUpdMem s := by
  unfold catchNote; simp only [State.OnlyDrwStkUpdMem, (catchDue_frame ..), (noteCatch_frame ..), ↓(ite_fields ..), ite_self, and_self]

@[simp] theorem wakeCheck_frame (s : State) (c : Nat) :
    (wakeCheck s c).pending = s.pending ∧ (wakeCheck s c).answer = s.answer ∧ (wakeCheck s c).drw = s.drw ∧ (wakeCheck s c).jig = s.jig ∧ (wakeCheck s c).dio = s.dio ∧ (wakeCheck s c).aio = s.aio ∧ (wakeCheck s c).lpe = s.lpe ∧ (wakeCheck s c).rio = s.rio ∧ (wakeCheck s c).mac = s.mac ∧ (wakeCheck s c).ptp = s.ptp ∧ (wakeCheck s c).rtc = s.rtc ∧ (wakeCheck s c).cvu = s.cvu ∧ (wakeCheck s c).dbg = s.dbg ∧ (wakeCheck s c).enabled = s.enabled ∧ (wakeCheck s c).declared = s.declared ∧ (wakeCheck s c).mem = s.mem := by
  unfold wakeCheck; simp only [(failCore_frame ..), ↓(ite_fields ..), ite_self, and_self]

@[simp] theorem edgeCatch_frame (x : EdgeIn) (s : State) :
    (edgeCatch x s).pending = s.pending ∧ (edgeCatch x s).answer = s.answer ∧ (edgeCatch x s).jig = s.jig ∧ (edgeCatch x s).dio = s.dio ∧ (edgeCatch x s).aio = s.aio ∧ (edgeCatch x s).rio = s.rio ∧ (edgeCatch x s).mac = s.mac ∧ (edgeCatch x s).ptp = s.ptp ∧ (edgeCatch x s).rtc = s.rtc ∧ (edgeCatch x s).cvu = s.cvu ∧ (edgeCatch x s).dbg = s.dbg ∧ (edgeCatch x s).enabled = s.enabled ∧ (edgeCatch x s).declared = s.declared := by
  unfold edgeCatch; simp only [(evalLoops_frame ..), (idleLoops_frame ..), (gateIdle_frame ..), (dispatchAll_frame ..), (leaveReplay_frame ..), (shadowStart_frame ..), (catchNote_frame ..), (wakeCheck_frame ..), ↓(ite_fields ..), ite_self, (foldl_Only_157 ..), implies_true, and_self]

@[simp] theorem edgeRing_frame (s : State) :
    (edgeRing s).OnlyFreshWkeEvrHie s := by
  unfold edgeRing; simp only [State.OnlyFreshWkeEvrHie, (ringWrite_frame ..), ↓(ite_fields ..), ite_self, (foldl_OnlyFreshWkeEvrHie ..), implies_true, and_self]

@[simp] theorem edgeUpdate_frame (p : EdgePlan) (s : State) :
    (edgeUpdate p s).pending = s.pending ∧ (edgeUpdate p s).answer = s.answer ∧ (edgeUpdate p s).mem = s.mem := by
  unfold edgeUpdate; simp only [(doSwitch_frame ..), (doRollback_frame ..), ↓(ite_fields ..), ite_self, and_self]

@[simp] theorem edgeSeal_frame (p : EdgePlan) (s : State) :
    (edgeSeal p s).pending = s.pending ∧ (edgeSeal p s).answer = s.answer ∧ (edgeSeal p s).drw = s.drw ∧ (edgeSeal p s).jig = s.jig ∧ (edgeSeal p s).dio = s.dio ∧ (edgeSeal p s).aio = s.aio ∧ (edgeSeal p s).rio = s.rio ∧ (edgeSeal p s).mac = s.mac ∧ (edgeSeal p s).ptp = s.ptp ∧ (edgeSeal p s).rtc = s.rtc ∧ (edgeSeal p s).cvu = s.cvu ∧ (edgeSeal p s).enabled = s.enabled ∧ (edgeSeal p s).declared = s.declared ∧ (edgeSeal p s).mem = s.mem := by
  unfold edgeSeal; simp only [(applyForces_frame ..), (sealVersion_frame ..), (observe_frame ..), (enterHold_frame ..), (enterDebug_frame ..), ↓(ite_fields ..), ite_self, (foldl_Only_150 ..), implies_true, and_self]

@[simp] theorem edgeAfter_frame (x : EdgeIn) (p : EdgePlan) (s : State) :
    (edgeAfter x p s).pending = s.pending ∧ (edgeAfter x p s).answer = s.answer := by
  unfold edgeAfter; simp only [(idleLoops_frame ..), (noteVstore_frame ..), (shadowEdge_frame ..), (deferFail_frame ..), (switchEnds_frame ..), (watchEdge_frame ..), (edgeOutputs_frame ..), (edgeCheckpoint_frame ..), (edgeCatch_frame ..), (edgeUpdate_frame ..), ↓(ite_fields ..), ite_self, and_self]

@[simp] theorem edgeLatch_frame (x : EdgeIn) (s : State) :
    (edgeLatch x s).OnlyFreshDioAioRioEvrHie s := by
  unfold edgeLatch; simp only [State.OnlyFreshDioAioRioEvrHie, (diLatch_frame ..), (aioLatch_frame ..), (rioDeadlines_frame ..), ↓(ite_fields ..), ite_self, and_self]

@[simp] theorem edgeIdle_frame (s : State) :
    (edgeIdle s).answer = s.answer ∧ (edgeIdle s).mem = s.mem := by
  unfold edgeIdle; simp only [(openRecord_frame ..), (closeRecord_frame ..), (assertReset_frame ..), (stepCheck_frame ..), (enterDebug_frame ..), (beginStep_frame ..), (debugMark_frame ..), (edgeRing_frame ..), ↓(ite_fields ..), ite_self, implies_true, and_self]; repeat' (first | (simp only [(openRecord_frame ..), (closeRecord_frame ..), (assertReset_frame ..), (stepCheck_frame ..), (enterDebug_frame ..), (beginStep_frame ..), (debugMark_frame ..), (edgeRing_frame ..), ↓(ite_fields ..), ite_self, implies_true, and_self]; done) | split)

end Sys2Proof.Machine
end

