-- ==== Sys2Proof/Laws/FloorMoves.lean ====
section
/-! SUPPORT. The least serial a load accepts: a confirmation moves it to the serial in force, and what follows in the
same edge leaves it and the confirmation standing (R103, R508). -/
namespace Sys2Proof.Machine

/-- The least serial stands, or moved to the serial in force with the update confirmed. -/
def State.Floor (t s : State) : Prop :=
  t.drw.serialFloor = s.drw.serialFloor ∨ (t.drw.serialFloor = t.drw.serial ∧ t.upd.unconfirmed = false)

/-- The same floor, serial and confirmation. -/
theorem State.Floor.of_eq {t u s : State} (h : u.Floor s) (hd : t.drw = u.drw) (hu : t.upd.unconfirmed = u.upd.unconfirmed) :
    t.Floor s := by
  unfold State.Floor at *
  rw [hd, hu]
  exact h

/-- A floor kept before. -/
theorem State.Floor.of_keep {t u s : State} (h : t.Floor u) (hs : u.drw.serialFloor = s.drw.serialFloor) : t.Floor s := by
  unfold State.Floor at *
  rw [← hs]
  exact h

/-- A floor kept. -/
theorem State.Floor.refl {t s : State} (h : t.drw.serialFloor = s.drw.serialFloor) : t.Floor s := Or.inl h

theorem watchDone_floor (s : State) : (watchDone s).Floor s := by
  unfold watchDone
  split
  · refine Or.inr ⟨?_, ?_⟩ <;> simp only [(updEvent_frame ..), modUpd]
  · exact .refl rfl

theorem watchEdge_floor (s : State) : (watchEdge s).Floor s := by
  unfold watchEdge
  split
  · exact (watchDone_floor _).of_keep rfl
  · exact .refl rfl

/-- The run as one cycle moves the floor as its function does. -/
theorem sameCycle_floor {f : State → State} (h : ∀ s, (f s).Floor s) (s : State) : (sameCycle f s).Floor s := by
  unfold sameCycle
  split
  · exact h s
  · dsimp only
    split
    · exact (h _).of_keep rfl
    · refine ((h { s with evr := { s.evr with cycle := some [] } }).of_keep (s := s) rfl).of_eq ?_ ?_
      · rw [foldl_keep (fun s => s.drw) _ (fun s x => by simp only [(raise_frame ..)])]
      · rw [foldl_keep (fun s => s.upd) _ (fun s x => by simp only [(raise_frame ..)])]

theorem endShadow_unconfirmed (s : State) : (endShadow s).upd.unconfirmed = s.upd.unconfirmed := by
  unfold endShadow
  dsimp only
  simp only [(noteVstore_frame ..)]
  simp only [foldl_OnlyCores _ (fun (s : State) c => gateIdle_frame c s)]

theorem abandonUpdate_unconfirmed (r : Nat) (s : State) : (abandonUpdate r s).upd.unconfirmed = s.upd.unconfirmed := by
  unfold abandonUpdate
  split
  · simp only [(updEvent_frame ..), modUpd, endShadow_unconfirmed]
  · rfl

theorem deferFail_floor {s u : State} (h : s.Floor u) : (deferFail s).Floor u := by
  refine h.of_eq (by simp only [(deferFail_frame ..)]) ?_
  unfold deferFail
  split
  · exact abandonUpdate_unconfirmed 4 s
  · rfl

theorem edgeAfter_floor (x : EdgeIn) (p : EdgePlan) (s : State) : (edgeAfter x p s).Floor s := by
  unfold edgeAfter
  dsimp only
  split
  · exact .refl (by simp only [(edgeUpdate_keeps ..), (noteVstore_keeps ..), (edgeCheckpoint_keeps ..), (edgeOutputs_keeps ..)])
  · have w (t : State) : (if (p.switch || p.first) = true then t else watchEdge t).Floor t := by
      split
      · exact .refl rfl
      · exact watchEdge_floor t
    refine (deferFail_floor (w _)).of_keep ?_
    simp only [(switchEnds_keeps ..), (shadowEdge_keeps ..)]
    split <;> simp only [(idleLoops_keeps ..), (edgeCatch_keeps ..), (edgeUpdate_keeps ..), (noteVstore_keeps ..), (edgeCheckpoint_keeps ..), (edgeOutputs_keeps ..)]

theorem edgeRun_floor (x : EdgeIn) (s : State) : (edgeRun x s).Floor s := by
  have c (f : State → State) (s : State) (h : ∀ s, (f s).drw.serialFloor = s.drw.serialFloor) :
      (sameCycle f s).drw.serialFloor = s.drw.serialFloor :=
    sameCycle_keep (fun s => s.drw.serialFloor) (fun _ _ => (raise_keeps _ _).2.2.2) (fun _ _ => rfl) h s
  unfold edgeRun
  dsimp only
  have h0 (p : EdgePlan) (e : Bool) (l : List Nat) (s : State) :
      (sameCycle (fun s => edgeCommit x p (edgeInputs e l s)) (sameCycle (fun s => edgeBegin x p (edgeLatch x s)) s)).drw.serialFloor =
        s.drw.serialFloor := by
    rw [c, c] <;> intros <;> simp only [(edgeCommit_keeps ..), (edgeInputs_keeps ..), (edgeBegin_keeps ..), (edgeLatch_keeps ..)]
  split
  · exact .refl (by rw [(assertReset_keeps _ _).2.2, h0])
  · have h1 (p : EdgePlan) (t u : State) (h : t.drw.serialFloor = u.drw.serialFloor) :
        (sameCycle (edgeAfter x p) (sameCycle (edgeSeal p) t)).Floor u := by
      refine (sameCycle_floor (edgeAfter_floor x p) _).of_keep ?_
      rw [c _ _ (fun s => by simp only [(edgeSeal_keeps ..)]), h]
    split
    · exact h1 _ _ _ (h0 _ _ _ _)
    · exact (h1 (edgePlan s) _ _ (h0 (edgePlan s) (edgePlan s).first (aioEnded s.stk.tn s.stk.edges s) s)).of_eq (by simp only [(edgeRing_frame ..), (stepCheck_frame ..)]) (by simp only [(edgeRing_frame ..), (stepCheck_frame ..)])

end Sys2Proof.Machine
end

