-- ==== Sys2Proof/Laws/FusesKept.lean ====
section
/-! SUPPORT. Operations that may reset the module keep a blown fuse blown (R475). -/
set_option linter.unusedSimpArgs false
namespace Sys2Proof.Machine

/-- A fuse bit is blown. -/
def Blown (k : Nat) (f : Nat) : Prop := f.testBit k = true

theorem ite_blown {k : Nat} (c : Prop) [Decidable c] {a b : Nat} (ha : Blown k a) (hb : Blown k b) : Blown k (if c then a else b) := by
  split
  · exact ha
  · exact hb

theorem bset_blown {k f : Nat} (i : Nat) (h : Blown k f) : Blown k (bset f i) := by
  unfold Blown bset at *
  simp [h]

theorem resetKey_blown {k : Nat} (b : Bool) (x : Key) (h : Blown k x.fuses) : Blown k (resetKey b x).fuses := by
  unfold resetKey
  dsimp only
  repeat' split
  · exact bset_blown _ h
  · exact h
  · exact h

theorem sameCycle_blown {k : Nat} {f : State → State} (hf : ∀ s, Blown k s.key.fuses → Blown k (f s).key.fuses) {s : State} (h : Blown k s.key.fuses) :
    Blown k (sameCycle f s).key.fuses := by
  unfold sameCycle
  split
  · exact hf s h
  · dsimp only
    split
    · exact hf _ h
    · rw [foldl_fuses _ (fun s x => (raise_keeps _ _).2.2.1)]
      exact hf _ h

theorem resetBlocks_blown {k : Nat} (cause primary : Nat) (s : State) (hm : Blown k s.key.fuses) :
    Blown k (resetBlocks cause primary s).key.fuses := by
  unfold resetBlocks; simp only [↓(ite_keeps ..), ↓ite_fuses, (ite_blown ..), (sameCycle_blown ..), (resetKey_blown ..), implies_true, (foldl_keeps ..), State.Keeps, and_self, hm]

theorem assertReset_blown {k : Nat} (i : Nat) (s : State) (hm : Blown k s.key.fuses) :
    Blown k (assertReset i s).key.fuses := by
  unfold assertReset; (repeat' split) <;> simp only [(settleOutputs_keeps ..), (updEvent_keeps ..), (captureRtc_keeps ..), (resetBlocks_blown ..), ↓(ite_keeps ..), ↓ite_fuses, (ite_blown ..), (sameCycle_blown ..), (resetKey_blown ..), implies_true, (foldl_keeps ..), State.Keeps, and_self, hm]

theorem serviceReset_blown {k : Nat} (s : State) (hm : Blown k s.key.fuses) :
    Blown k (serviceReset s).key.fuses := by
  unfold serviceReset; simp only [(assertReset_blown ..), ↓(ite_keeps ..), ↓ite_fuses, (ite_blown ..), (sameCycle_blown ..), (resetKey_blown ..), implies_true, (foldl_keeps ..), State.Keeps, and_self, hm]

theorem losePower_blown {k : Nat} (s : State) (hm : Blown k s.key.fuses) :
    Blown k (losePower s).key.fuses := by
  unfold losePower; simp only [(assertReset_blown ..), ↓(ite_keeps ..), ↓ite_fuses, (ite_blown ..), (sameCycle_blown ..), (resetKey_blown ..), implies_true, (foldl_keeps ..), State.Keeps, and_self, hm]

theorem resetRequest_blown {k : Nat} (v : Nat) (s : State) (hm : Blown k s.key.fuses) :
    Blown k (resetRequest v s).key.fuses := by
  unfold resetRequest; simp only [(raiseIgnored_keeps ..), (serviceReset_blown ..), ↓(ite_keeps ..), ↓ite_fuses, (ite_blown ..), (sameCycle_blown ..), (resetKey_blown ..), implies_true, (foldl_keeps ..), State.Keeps, and_self, hm]

theorem startUpdate_blown {k : Nat} (s : State) (hm : Blown k s.key.fuses) :
    Blown k (startUpdate s).key.fuses := by
  unfold startUpdate; (repeat' split) <;> simp only [(modUpd_keeps ..), (updEvent_keeps ..), (serviceReset_blown ..), ↓(ite_keeps ..), ↓ite_fuses, (ite_blown ..), (sameCycle_blown ..), (resetKey_blown ..), implies_true, (foldl_keeps ..), State.Keeps, and_self, hm]

theorem updCommand_blown {k : Nat} (v : Nat) (owner : Option Nat) (s : State) (hm : Blown k s.key.fuses) :
    Blown k (updCommand v owner s).key.fuses := by
  unfold updCommand; simp only [(raiseIgnored_keeps ..), (modUpd_keeps ..), (abandonUpdate_keeps ..), (stageOpen_keeps ..), (xferStart_keeps ..), (verifyStart_keeps ..), (askRollback_keeps ..), (lockCommand_keeps ..), (startUpdate_blown ..), ↓(ite_keeps ..), ↓ite_fuses, (ite_blown ..), (sameCycle_blown ..), (resetKey_blown ..), implies_true, (foldl_keeps ..), State.Keeps, and_self, hm]; repeat' (first | (simp only [(raiseIgnored_keeps ..), (modUpd_keeps ..), (abandonUpdate_keeps ..), (stageOpen_keeps ..), (xferStart_keeps ..), (verifyStart_keeps ..), (askRollback_keeps ..), (lockCommand_keeps ..), (startUpdate_blown ..), ↓(ite_keeps ..), ↓ite_fuses, (ite_blown ..), (sameCycle_blown ..), (resetKey_blown ..), implies_true, (foldl_keeps ..), State.Keeps, and_self, hm]; done) | split)

theorem updService_blown {k : Nat} (by_ : Option (Fin 16)) (cmd : Nat) (s : State) (hm : Blown k s.key.fuses) :
    Blown k (updService by_ cmd s).key.fuses := by
  unfold updService
  split
  · exact updCommand_blown _ _ _ hm
  · unfold service
    repeat' split
    · exact hm
    · simpa only [(coreRefused_keeps ..)] using hm
    · exact updCommand_blown _ _ _ hm

theorem doRollback_blown {k : Nat} (s : State) (hm : Blown k s.key.fuses) :
    Blown k (doRollback s).key.fuses := by
  unfold doRollback; (repeat' split) <;> simp only [(modUpd_keeps ..), (updEvent_keeps ..), (adoptActive_keeps ..), (assertReset_blown ..), ↓(ite_keeps ..), ↓ite_fuses, (ite_blown ..), (sameCycle_blown ..), (resetKey_blown ..), implies_true, (foldl_keeps ..), State.Keeps, and_self, hm]

theorem hitEffect_blown {k : Nat} (h : MemHit) (s : State) (hm : Blown k s.key.fuses) :
    Blown k (hitEffect h s).key.fuses := by
  unfold hitEffect; (repeat' split) <;> simp only [(queueDrop_keeps ..), (modRing_keeps ..), (stopRing_keeps ..), (txRefuse_keeps ..), (rebuildTask_keeps ..), (assertReset_blown ..), ↓(ite_keeps ..), ↓ite_fuses, (ite_blown ..), (sameCycle_blown ..), (resetKey_blown ..), implies_true, (foldl_keeps ..), State.Keeps, and_self, hm]

theorem releaseDebug_blown {k : Nat} (s : State) (hm : Blown k s.key.fuses) :
    Blown k (releaseDebug s).key.fuses := by
  unfold releaseDebug; (repeat' split) <;> simp only [(modSys_keeps ..), (modDbg_keeps ..), (assertReset_blown ..), ↓(ite_keeps ..), ↓ite_fuses, (ite_blown ..), (sameCycle_blown ..), (resetKey_blown ..), implies_true, (foldl_keeps ..), State.Keeps, and_self, hm]

theorem dbgRequest_blown {k : Nat} (v : Nat) (s : State) (hm : Blown k s.key.fuses) :
    Blown k (dbgRequest v s).key.fuses := by
  unfold dbgRequest; simp only [(raiseIgnored_keeps ..), (modSys_keeps ..), (modDbg_keeps ..), (probeWrote_keeps ..), (presentToken_keeps ..), (enableDebug_keeps ..), (askStep_keeps ..), (releaseDebug_blown ..), ↓(ite_keeps ..), ↓ite_fuses, (ite_blown ..), (sameCycle_blown ..), (resetKey_blown ..), implies_true, (foldl_keeps ..), State.Keeps, and_self, hm]; repeat' (first | (simp only [(raiseIgnored_keeps ..), (modSys_keeps ..), (modDbg_keeps ..), (probeWrote_keeps ..), (presentToken_keeps ..), (enableDebug_keeps ..), (askStep_keeps ..), (releaseDebug_blown ..), ↓(ite_keeps ..), ↓ite_fuses, (ite_blown ..), (sameCycle_blown ..), (resetKey_blown ..), implies_true, (foldl_keeps ..), State.Keeps, and_self, hm]; done) | split)

theorem writeSys_blown {k : Nat} (off v : Nat) (s : State) (hm : Blown k s.key.fuses) :
    Blown k (writeSys off v s).key.fuses := by
  unfold writeSys; (repeat' split) <;> simp only [(modSys_keeps ..), (modeRequest_keeps ..), (rwl_keeps ..), (refuseValue_keeps ..), (resetRequest_blown ..), ↓(ite_keeps ..), ↓ite_fuses, (ite_blown ..), (sameCycle_blown ..), (resetKey_blown ..), implies_true, (foldl_keeps ..), State.Keeps, and_self, hm]

theorem writeUpd_blown {k : Nat} (owner : Option Nat) (off v : Nat) (s : State) (hm : Blown k s.key.fuses) :
    Blown k (writeUpd owner off v s).key.fuses := by
  unfold writeUpd; (repeat' split) <;> simp only [(modUpd_keeps ..), (xferData_keeps ..), (rwl_keeps ..), (updCommand_blown ..), ↓(ite_keeps ..), ↓ite_fuses, (ite_blown ..), (sameCycle_blown ..), (resetKey_blown ..), implies_true, (foldl_keeps ..), State.Keeps, and_self, hm]

theorem writeDbg_blown {k : Nat} (off v : Nat) (s : State) (hm : Blown k s.key.fuses) :
    Blown k (writeDbg off v s).key.fuses := by
  unfold writeDbg; (repeat' split) <;> simp only [(probeWrote_keeps ..), (tokenWrite_keeps ..), (tagWrite_keeps ..), (forceWrite_keeps ..), (writeDbgCore_keeps ..), (dbgRequest_blown ..), ↓(ite_keeps ..), ↓ite_fuses, (ite_blown ..), (sameCycle_blown ..), (resetKey_blown ..), implies_true, (foldl_keeps ..), State.Keeps, and_self, hm]

theorem writeReg_blown {k : Nat} (owner : Option Nat) (b : Block) (off v : Nat) (s : State) (hm : Blown k s.key.fuses) :
    Blown k (writeReg owner b off v s).key.fuses := by
  unfold writeReg; (repeat' split) <;> simp [(rwl_keeps ..), (writeDrw_keeps ..), (writeStk_keeps ..), (writeDvt_keeps ..), (writeWke_keeps ..), (writeJig_keeps ..), (writeDio_keeps ..), (writeAio_keeps ..), (writeLpe_keeps ..), (writeRio_keeps ..), (writeCan_keeps ..), (writeMac_keeps ..), (writePtp_keeps ..), (writeRtc_keeps ..), (writeEvr_keeps ..), (writeCvu_keeps ..), (writeKey_keeps ..), (writeCtrl_keeps ..), (writeSys_blown ..), (writeUpd_blown ..), (writeDbg_blown ..), ↓(ite_keeps ..), ↓ite_fuses, (ite_blown ..), (sameCycle_blown ..), (resetKey_blown ..), implies_true, (foldl_keeps ..), State.Keeps, and_self, hm]

theorem writeAt_blown {k : Nat} (tag : Option Nat) (a v : Nat) (s : State) (hm : Blown k s.key.fuses) :
    Blown k (writeAt tag a v s).key.fuses := by
  unfold writeAt; (repeat' split) <;> simp only [(putBytes_keeps ..), (stageOutside_keeps ..), (writeReg_blown ..), ↓(ite_keeps ..), ↓ite_fuses, (ite_blown ..), (sameCycle_blown ..), (resetKey_blown ..), implies_true, (foldl_keeps ..), State.Keeps, and_self, hm]

theorem coreWrite_blown {k : Nat} (c a v : Nat) (s : State) (hm : Blown k s.key.fuses) :
    Blown k (coreWrite c a v s).key.fuses := by
  unfold coreWrite; simp only [(coreRefused_keeps ..), (grpOpen_keeps ..), (grpCommit_keeps ..), (grpAbort_keeps ..), (stageWrite_keeps ..), (writeReg_blown ..), ↓(ite_keeps ..), ↓ite_fuses, (ite_blown ..), (sameCycle_blown ..), (resetKey_blown ..), implies_true, (foldl_keeps ..), State.Keeps, and_self, hm]; repeat' (first | (simp only [(coreRefused_keeps ..), (grpOpen_keeps ..), (grpCommit_keeps ..), (grpAbort_keeps ..), (stageWrite_keeps ..), (writeReg_blown ..), ↓(ite_keeps ..), ↓ite_fuses, (ite_blown ..), (sameCycle_blown ..), (resetKey_blown ..), implies_true, (foldl_keeps ..), State.Keeps, and_self, hm]; done) | split)

theorem registerWrite_blown {k : Nat} (by_ : Option (Fin 16)) (a v : Nat) (s : State) (hm : Blown k s.key.fuses) :
    Blown k (registerWrite by_ a v s).key.fuses := by
  unfold registerWrite; (repeat' split) <;> simp only [(noteRefused_keeps ..), (tagStore_keeps ..), (writeAt_blown ..), (coreWrite_blown ..), ↓(ite_keeps ..), ↓ite_fuses, (ite_blown ..), (sameCycle_blown ..), (resetKey_blown ..), implies_true, (foldl_keeps ..), State.Keeps, and_self, hm]

theorem orchestrate_blown {k : Nat} (o : OrchMsg) (s : State) (hm : Blown k s.key.fuses) :
    Blown k (orchestrate o s).key.fuses := by
  unfold orchestrate; (repeat' split) <;> simp only [(ownUp_keeps ..), (writeAt_blown ..), ↓(ite_keeps ..), ↓ite_fuses, (ite_blown ..), (sameCycle_blown ..), (resetKey_blown ..), implies_true, (foldl_keeps ..), State.Keeps, and_self, hm]

theorem ownEffect_blown {k : Nat} (m : Marzin) (s : State) (hm : Blown k s.key.fuses) :
    Blown k (ownEffect m s).key.fuses := by
  unfold ownEffect; (repeat' split) <;> simp only [(directoryDown_keeps ..), (askStatement_keeps ..), (orchestrate_blown ..), ↓(ite_keeps ..), ↓ite_fuses, (ite_blown ..), (sameCycle_blown ..), (resetKey_blown ..), implies_true, (foldl_keeps ..), State.Keeps, and_self, hm]

theorem edgeUpdate_blown {k : Nat} (p : EdgePlan) (s : State) (hm : Blown k s.key.fuses) :
    Blown k (edgeUpdate p s).key.fuses := by
  unfold edgeUpdate; (repeat' split) <;> simp only [(doSwitch_keeps ..), (doRollback_blown ..), ↓(ite_keeps ..), ↓ite_fuses, (ite_blown ..), (sameCycle_blown ..), (resetKey_blown ..), implies_true, (foldl_keeps ..), State.Keeps, and_self, hm]

theorem edgeAfter_blown {k : Nat} (x : EdgeIn) (p : EdgePlan) (s : State) (hm : Blown k s.key.fuses) :
    Blown k (edgeAfter x p s).key.fuses := by
  unfold edgeAfter; (repeat' split) <;> simp only [(idleLoops_keeps ..), (noteVstore_keeps ..), (shadowEdge_keeps ..), (deferFail_keeps ..), (switchEnds_keeps ..), (watchEdge_keeps ..), (edgeOutputs_keeps ..), (edgeCheckpoint_keeps ..), (edgeCatch_keeps ..), (edgeUpdate_blown ..), ↓(ite_keeps ..), ↓ite_fuses, (ite_blown ..), (sameCycle_blown ..), (resetKey_blown ..), implies_true, (foldl_keeps ..), State.Keeps, and_self, hm]

theorem edgeRun_blown {k : Nat} (x : EdgeIn) (s : State) (hm : Blown k s.key.fuses) :
    Blown k (edgeRun x s).key.fuses := by
  unfold edgeRun
  dsimp only
  repeat' split
  all_goals try simp only [(edgeRing_keeps ..), (stepCheck_keeps ..)]
  all_goals try with_reducible refine assertReset_blown _ _ ?_
  all_goals repeat' (first | with_reducible exact hm | (with_reducible refine sameCycle_blown (fun s hs => ?_) ?_))
  all_goals first
    | with_reducible exact edgeAfter_blown _ _ _ hs
    | simpa only [(edgeCommit_keeps ..), (edgeInputs_keeps ..), (edgeBegin_keeps ..), (edgeLatch_keeps ..), (edgeSeal_keeps ..)] using hs

theorem edgeIdle_blown {k : Nat} (s : State) (hm : Blown k s.key.fuses) :
    Blown k (edgeIdle s).key.fuses := by
  unfold edgeIdle; simp only [(openRecord_keeps ..), (closeRecord_keeps ..), (stepCheck_keeps ..), (enterDebug_keeps ..), (beginStep_keeps ..), (debugMark_keeps ..), (edgeRing_keeps ..), (assertReset_blown ..), ↓(ite_keeps ..), ↓ite_fuses, (ite_blown ..), (sameCycle_blown ..), (resetKey_blown ..), implies_true, (foldl_keeps ..), State.Keeps, and_self, hm]; repeat' (first | (simp only [(openRecord_keeps ..), (closeRecord_keeps ..), (stepCheck_keeps ..), (enterDebug_keeps ..), (beginStep_keeps ..), (debugMark_keeps ..), (edgeRing_keeps ..), (assertReset_blown ..), ↓(ite_keeps ..), ↓ite_fuses, (ite_blown ..), (sameCycle_blown ..), (resetKey_blown ..), implies_true, (foldl_keeps ..), State.Keeps, and_self, hm]; done) | split)

end Sys2Proof.Machine
end

