-- ==== Sys2Proof/Laws/Memory.lean ====
section
/-! SUPPORT. Memory: what a write does to every byte, and that every write keeps the canonical form (R22, log entry 3). -/
namespace Sys2Proof.Machine

/-- Nothing is listed: the form holds. -/
theorem Memory.wf_nil : Memory.wf [] := ⟨List.Pairwise.nil, nofun⟩

/-- The rest of a memory in the form is in the form. -/
theorem Memory.wf_tail {p : Host.Cell} {m : Memory} (h : Memory.wf (p :: m)) : Memory.wf m :=
  ⟨(List.pairwise_cons.mp h.1).2, fun q hq => h.2 q (List.mem_cons_of_mem _ hq)⟩

/-- An entry in front of a memory in the form. -/
theorem Memory.wf_cons {i : Nat} {b : Byte} {m : Memory} (hb : b ≠ Memory.blank) (hi : ∀ p ∈ m, i < p.1) (h : Memory.wf m) :
    Memory.wf ((i, b) :: m) :=
  ⟨List.pairwise_cons.mpr ⟨hi, h.1⟩, fun q hq => by
    rcases List.mem_cons.mp hq with rfl | hq
    · exact hb
    · exact h.2 q hq⟩

/-- Every entry of a written memory was listed, or is the byte written. -/
theorem Memory.mem_write {m : Memory} {a : Nat} {b : Byte} {p : Host.Cell} (h : p ∈ Memory.write m a b) : p ∈ m ∨ p = (a, b) := by
  induction m with
  | nil => simp only [Memory.write] at h; split at h <;> simp_all
  | cons q r ih =>
    obtain ⟨i, c⟩ := q
    simp only [Memory.write] at h
    repeat' split at h
    all_goals simp only [List.mem_cons] at h ⊢
    all_goals tauto

/-- A write keeps the canonical form. -/
theorem Memory.wf_write {m : Memory} (a : Nat) (b : Byte) (h : Memory.wf m) : Memory.wf (Memory.write m a b) := by
  induction m with
  | nil =>
    simp only [Memory.write]
    split
    · exact h
    · exact Memory.wf_cons ‹_› nofun h
  | cons q r ih =>
    obtain ⟨i, c⟩ := q
    have hr := Memory.wf_tail h
    have hlt := (List.pairwise_cons.mp h.1).1
    have hc : c ≠ Memory.blank := h.2 (i, c) (List.mem_cons_self ..)
    simp only [Memory.write]
    repeat' split
    · exact h
    · refine Memory.wf_cons ‹_› (fun p hp => ?_) h
      rcases List.mem_cons.mp hp with rfl | hp
      · assumption
      · exact Nat.lt_trans ‹_› (hlt p hp)
    · exact hr
    · next e _ => subst e; exact Memory.wf_cons ‹_› hlt hr
    · refine Memory.wf_cons hc (fun p hp => ?_) (ih hr)
      rcases Memory.mem_write hp with hp | rfl
      · exact hlt p hp
      · show i < a
        omega

/-- A run of bytes keeps the canonical form. -/
theorem Memory.wf_writeN {m : Memory} (a : Nat) (l : List Byte) (h : Memory.wf m) : Memory.wf (Memory.writeN m a l) := by
  induction l generalizing m a with
  | nil => exact h
  | cons b r ih => exact ih (a + 1) (Memory.wf_write a b h)

/-- A byte below every listed address is unlisted. -/
theorem Memory.read_below {m : Memory} {a : Nat} (h : ∀ p ∈ m, a < p.1) : Memory.read m a = Memory.blank := by
  induction m with
  | nil => rfl
  | cons q r ih =>
    obtain ⟨i, c⟩ := q
    have : a < i := h (i, c) (List.mem_cons_self ..)
    rw [Memory.read, if_neg (by omega), ih (fun p hp => h p (List.mem_cons_of_mem _ hp))]

/-- The byte written reads back, and every other byte as before. -/
theorem Memory.read_write {m : Memory} (h : Memory.wf m) (a k : Nat) (b : Byte) :
    Memory.read (Memory.write m a b) k = if k = a then b else Memory.read m k := by
  induction m with
  | nil => simp only [Memory.write, Memory.read]; split <;> simp [Memory.read] <;> grind
  | cons q r ih =>
    obtain ⟨i, c⟩ := q
    have hlt := (List.pairwise_cons.mp h.1).1
    have hr := Memory.wf_tail h
    have below : ∀ j, j ≤ i → Memory.read r j = Memory.blank := fun j hj =>
      Memory.read_below (fun p hp => Nat.lt_of_le_of_lt hj (hlt p hp))
    simp only [Memory.write]
    repeat' split
    all_goals try simp only [Memory.read, ih hr]
    all_goals grind

/-- A byte outside a run written reads as before. -/
theorem Memory.read_writeN_other {m : Memory} (h : Memory.wf m) (a k : Nat) (l : List Byte) (hk : k < a ∨ a + l.length ≤ k) :
    Memory.read (Memory.writeN m a l) k = Memory.read m k := by
  induction l generalizing m a with
  | nil => rfl
  | cons b r ih =>
    rw [List.length_cons] at hk
    rw [Memory.writeN, ih (Memory.wf_write a b h) (a + 1) (by omega), Memory.read_write h, if_neg (by omega)]

/-- A byte of a run written reads back. -/
theorem Memory.read_writeN_same {m : Memory} (h : Memory.wf m) (a i : Nat) (l : List Byte) (hi : i < l.length) :
    Memory.read (Memory.writeN m a l) (a + i) = l[i] := by
  induction l generalizing m a i with
  | nil => exact absurd hi (Nat.not_lt_zero _)
  | cons b r ih =>
    rw [Memory.writeN]
    cases i with
    | zero =>
      rw [Memory.read_writeN_other (Memory.wf_write a b h) (a + 1) (a + 0) r (by omega), Memory.read_write h]
      simp
    | succ i =>
      rw [List.length_cons] at hi
      have e := ih (Memory.wf_write a b h) (a + 1) i (by omega)
      rw [show a + (i + 1) = a + 1 + i by omega, e]
      simp

/-- Bytes read after they are written. -/
theorem Memory.readN_writeN {m : Memory} (h : Memory.wf m) (a : Nat) (l : List Byte) :
    Memory.readN (Memory.writeN m a l) a l.length = l := by
  apply List.ext_getElem
  · simp [Memory.readN]
  · intro i _ h2
    simp [Memory.readN, Memory.read_writeN_same h a i l h2]

/-- Writing by address keeps the canonical form. -/
theorem Memory.wf_put {m : Memory} (l : List (Nat × Byte)) (h : Memory.wf m) : Memory.wf (Memory.put m l) := by
  unfold Memory.put
  induction l generalizing m with
  | nil => exact h
  | cons p l ih => rw [List.foldl_cons]; exact ih (Memory.wf_write p.1 p.2 h)

/-- Forgetting bytes keeps the canonical form. -/
theorem Memory.wf_filter {m : Memory} (f : Host.Cell → Bool) (h : Memory.wf m) : Memory.wf (m.filter f) :=
  ⟨h.1.filter f, fun p hp => h.2 p (List.mem_filter.mp hp).1⟩

/-- Writing by address leaves the bytes at other addresses. -/
theorem Memory.read_put_other {m : Memory} (h : Memory.wf m) (k : Nat) (l : List (Nat × Byte)) (hk : ∀ p ∈ l, p.1 ≠ k) :
    Memory.read (Memory.put m l) k = Memory.read m k := by
  unfold Memory.put
  induction l generalizing m with
  | nil => rfl
  | cons p l ih =>
    rw [List.foldl_cons, ih (Memory.wf_write p.1 p.2 h) (fun q hq => hk q (List.mem_cons_of_mem p hq)), Memory.read_write h,
      if_neg (hk p List.mem_cons_self).symm]

end Sys2Proof.Machine
end

