-- ==== Sys2Proof/Laws/MemoryKept.lean ====
section
/-! SUPPORT. Operations that write memory keep its canonical form (log entry 3). -/
set_option linter.unusedSimpArgs false
namespace Sys2Proof.Machine

/-- The memory is in its canonical form. -/
def Memory.Ok (m : Memory) : Prop := Memory.wf m

theorem Memory.ok_writeN {m : Memory} (a : Nat) (l : List Byte) (h : m.Ok) : (Memory.writeN m a l).Ok := Memory.wf_writeN a l h

theorem Memory.ok_write {m : Memory} (a : Nat) (b : Byte) (h : m.Ok) : (Memory.write m a b).Ok := Memory.wf_write a b h

theorem Memory.ok_put {m : Memory} (l : List (Nat × Byte)) (h : m.Ok) : (Memory.put m l).Ok := Memory.wf_put l h

theorem Memory.ok_filter {m : Memory} (f : Host.Cell → Bool) (h : m.Ok) : Memory.Ok (List.filter f m) := Memory.wf_filter f h

theorem ite_ok (c : Prop) [Decidable c] {a b : Memory} (ha : a.Ok) (hb : b.Ok) : (if c then a else b).Ok := by
  split
  · exact ha
  · exact hb

theorem foldl_ok {α : Type} {f : State → α → State} (h : ∀ s x, s.mem.Ok → (f s x).mem.Ok) (l : List α) {s : State} (hs : s.mem.Ok) :
    (l.foldl f s).mem.Ok := by
  induction l generalizing s with
  | nil => exact hs
  | cons a l ih => rw [List.foldl_cons]; exact ih (h s a hs)

theorem Memory.foldl_ok {α : Type} {f : Memory → α → Memory} (h : ∀ m x, m.Ok → (f m x).Ok) (l : List α) {m : Memory} (hm : m.Ok) :
    (l.foldl f m).Ok := by
  induction l generalizing m with
  | nil => exact hm
  | cons a l ih => rw [List.foldl_cons]; exact ih (h m a hm)

theorem sameCycle_ok {f : State → State} (hf : ∀ s, s.mem.Ok → (f s).mem.Ok) {s : State} (h : s.mem.Ok) : (sameCycle f s).mem.Ok := by
  unfold sameCycle
  split
  · exact hf s h
  · dsimp only
    split
    · exact hf _ h
    · exact foldl_ok (fun s x hs => by simpa only [(raise_keeps ..)] using hs) _ (hf _ h)

theorem putState_ok (n : Nat) (l : List (Nat × Byte)) (s : State) (hm : s.mem.Ok) :
    (putState n l s).mem.Ok := by
  unfold putState; simp only [↓(ite_keeps ..), (ite_ok ..), (foldl_ok ..), (sameCycle_ok ..), implies_true, (Memory.ok_writeN ..), (Memory.ok_write ..), (Memory.ok_put ..), (Memory.ok_filter ..), (Memory.foldl_ok ..), (foldl_keeps ..), State.Keeps, and_self, hm]

theorem restoreCopy_ok (n : Nat) (c : Memory) (s : State) (hm : s.mem.Ok) :
    (restoreCopy n c s).mem.Ok := by
  unfold restoreCopy; simp only [(putState_ok ..), ↓(ite_keeps ..), (ite_ok ..), (foldl_ok ..), (sameCycle_ok ..), implies_true, (Memory.ok_writeN ..), (Memory.ok_write ..), (Memory.ok_put ..), (Memory.ok_filter ..), (Memory.foldl_ok ..), (foldl_keeps ..), State.Keeps, and_self, hm]

theorem commitState_ok (n : Nat) (work : List (Nat × Byte)) (s : State) (hm : s.mem.Ok) :
    (commitState n work s).mem.Ok := by
  unfold commitState; simp only [(modTask_keeps ..), (putState_ok ..), ↓(ite_keeps ..), (ite_ok ..), (foldl_ok ..), (sameCycle_ok ..), implies_true, (Memory.ok_writeN ..), (Memory.ok_write ..), (Memory.ok_put ..), (Memory.ok_filter ..), (Memory.foldl_ok ..), (foldl_keeps ..), State.Keeps, and_self, hm]

theorem tornBank_ok (b : Bool) (s : State) (hm : s.mem.Ok) :
    (tornBank b s).mem.Ok := by
  unfold tornBank; simp only [↓(ite_keeps ..), (ite_ok ..), (foldl_ok ..), (sameCycle_ok ..), implies_true, (Memory.ok_writeN ..), (Memory.ok_write ..), (Memory.ok_put ..), (Memory.ok_filter ..), (Memory.foldl_ok ..), (foldl_keeps ..), State.Keeps, and_self, hm]

theorem overwriteByte_ok (a : Nat) (b : Byte) (s : State) (hm : s.mem.Ok) :
    (overwriteByte a b s).mem.Ok := by
  unfold overwriteByte; (repeat' split) <;> simp only [(tornBank_ok ..), ↓(ite_keeps ..), (ite_ok ..), (foldl_ok ..), (sameCycle_ok ..), implies_true, (Memory.ok_writeN ..), (Memory.ok_write ..), (Memory.ok_put ..), (Memory.ok_filter ..), (Memory.foldl_ok ..), (foldl_keeps ..), State.Keeps, and_self, hm]

theorem overwrite_ok (a : Nat) (l : List Byte) (s : State) (hm : s.mem.Ok) :
    (overwrite a l s).mem.Ok := by
  unfold overwrite; repeat' (first | (simp +contextual only [(overwriteByte_ok ..), ↓(ite_keeps ..), (ite_ok ..), (foldl_ok ..), (sameCycle_ok ..), implies_true, (Memory.ok_writeN ..), (Memory.ok_write ..), (Memory.ok_put ..), (Memory.ok_filter ..), (Memory.foldl_ok ..), (foldl_keeps ..), State.Keeps, and_self, hm]; done) | split)

theorem putBytes_ok (a : Nat) (l : List Byte) (s : State) (hm : s.mem.Ok) :
    (putBytes a l s).mem.Ok := by
  unfold putBytes; (repeat' split) <;> simp only [(noteTagWrite_keeps ..), (overwrite_ok ..), ↓(ite_keeps ..), (ite_ok ..), (foldl_ok ..), (sameCycle_ok ..), implies_true, (Memory.ok_writeN ..), (Memory.ok_write ..), (Memory.ok_put ..), (Memory.ok_filter ..), (Memory.foldl_ok ..), (foldl_keeps ..), State.Keeps, and_self, hm]

theorem restoreBuilt_ok (t : Takeover) (s : State) (hm : s.mem.Ok) :
    (restoreBuilt t s).mem.Ok := by
  unfold restoreBuilt; repeat' (first | (simp +contextual only [(restoreCopy_ok ..), ↓(ite_keeps ..), (ite_ok ..), (foldl_ok ..), (sameCycle_ok ..), implies_true, (Memory.ok_writeN ..), (Memory.ok_write ..), (Memory.ok_put ..), (Memory.ok_filter ..), (Memory.foldl_ok ..), (foldl_keeps ..), State.Keeps, and_self, hm]; done) | split)

theorem takeoverDone_ok (t : Takeover) (us : Nat) (s : State) (hm : s.mem.Ok) :
    (takeoverDone t us s).mem.Ok := by
  unfold takeoverDone; simp only [(raise_keeps ..), (gateIdle_keeps ..), (jMark_keeps ..), (restoreBuilt_ok ..), ↓(ite_keeps ..), (ite_ok ..), (foldl_ok ..), (sameCycle_ok ..), implies_true, (Memory.ok_writeN ..), (Memory.ok_write ..), (Memory.ok_put ..), (Memory.ok_filter ..), (Memory.foldl_ok ..), (foldl_keeps ..), State.Keeps, and_self, hm]

theorem writeRetained_ok (slot : Nat) (s : State) (p : Nat × BitVec 64) (hm : s.mem.Ok) :
    (writeRetained slot s p).mem.Ok := by
  unfold writeRetained; (repeat' split) <;> simp only [↓(ite_keeps ..), (ite_ok ..), (foldl_ok ..), (sameCycle_ok ..), implies_true, (Memory.ok_writeN ..), (Memory.ok_write ..), (Memory.ok_put ..), (Memory.ok_filter ..), (Memory.foldl_ok ..), (foldl_keeps ..), State.Keeps, and_self, hm]

theorem applyWs_ok (slot catchTn tn : Nat) (w : WriteSet) (s : State) (hm : s.mem.Ok) :
    (applyWs slot catchTn tn w s).mem.Ok := by
  unfold applyWs
  dsimp only
  simp only [(modTask_keeps ..), (jAdd_keeps ..), (commitPoint_keeps ..), (setSkipped_keeps ..), (addStream_keeps ..), (deliver_keeps ..), (applyGroup_keeps ..), (commitState_ok ..), (writeRetained_ok ..), ↓(ite_keeps ..), (ite_ok ..), (foldl_ok ..), (sameCycle_ok ..), implies_true, (Memory.ok_writeN ..), (Memory.ok_write ..), (Memory.ok_put ..), (Memory.ok_filter ..), (Memory.foldl_ok ..), (foldl_keeps ..), State.Keeps, and_self, hm]
  refine foldl_ok (fun s x h => writeRetained_ok _ _ _ h) _ (commitState_ok _ _ _ ?_)
  simp only [(modTask_keeps ..), (jAdd_keeps ..), (commitPoint_keeps ..), (setSkipped_keeps ..), (addStream_keeps ..), (deliver_keeps ..), (applyGroup_keeps ..), (commitState_ok ..), (writeRetained_ok ..), ↓(ite_keeps ..), (ite_ok ..), (foldl_ok ..), (sameCycle_ok ..), implies_true, (Memory.ok_writeN ..), (Memory.ok_write ..), (Memory.ok_put ..), (Memory.ok_filter ..), (Memory.foldl_ok ..), (foldl_keeps ..), State.Keeps, and_self, hm]

theorem releaseStroke_ok (slot : Nat) (k : Stroke) (s : State) (hm : s.mem.Ok) :
    (releaseStroke slot k s).mem.Ok := by
  unfold releaseStroke; simp only [(raise_keeps ..), (trigger_keeps ..), (dvtFault_keeps ..), (skipTask_keeps ..), (afterRelease_keeps ..), (startSettle_keeps ..), (shadowRelease_keeps ..), (applyWs_ok ..), ↓(ite_keeps ..), (ite_ok ..), (foldl_ok ..), (sameCycle_ok ..), implies_true, (Memory.ok_writeN ..), (Memory.ok_write ..), (Memory.ok_put ..), (Memory.ok_filter ..), (Memory.foldl_ok ..), (foldl_keeps ..), State.Keeps, and_self, hm]; repeat' (first | (simp only [(raise_keeps ..), (trigger_keeps ..), (dvtFault_keeps ..), (skipTask_keeps ..), (afterRelease_keeps ..), (startSettle_keeps ..), (shadowRelease_keeps ..), (applyWs_ok ..), ↓(ite_keeps ..), (ite_ok ..), (foldl_ok ..), (sameCycle_ok ..), implies_true, (Memory.ok_writeN ..), (Memory.ok_write ..), (Memory.ok_put ..), (Memory.ok_filter ..), (Memory.foldl_ok ..), (foldl_keeps ..), State.Keeps, and_self, hm]; done) | split)

theorem applySettled_ok (slot : Nat) (s : State) (hm : s.mem.Ok) :
    (applySettled slot s).mem.Ok := by
  unfold applySettled
  refine foldl_ok (fun s x hm => ?_) _ hm
  repeat' (first | (simp only [(patchJournal_keeps ..), (applyWs_ok ..), ↓(ite_keeps ..), (ite_ok ..), (foldl_ok ..), (sameCycle_ok ..), implies_true, (Memory.ok_writeN ..), (Memory.ok_write ..), (Memory.ok_put ..), (Memory.ok_filter ..), (Memory.foldl_ok ..), (foldl_keeps ..), State.Keeps, and_self, hm]; done) | split)

theorem commitSlot_ok (s : State) (slot : Nat) (hm : s.mem.Ok) :
    (commitSlot s slot).mem.Ok := by
  unfold commitSlot; simp only [(modTask_keeps ..), (skipTask_keeps ..), (releaseStroke_ok ..), (applySettled_ok ..), ↓(ite_keeps ..), (ite_ok ..), (foldl_ok ..), (sameCycle_ok ..), implies_true, (Memory.ok_writeN ..), (Memory.ok_write ..), (Memory.ok_put ..), (Memory.ok_filter ..), (Memory.foldl_ok ..), (foldl_keeps ..), State.Keeps, and_self, hm]; repeat' (first | (simp only [(modTask_keeps ..), (skipTask_keeps ..), (releaseStroke_ok ..), (applySettled_ok ..), ↓(ite_keeps ..), (ite_ok ..), (foldl_ok ..), (sameCycle_ok ..), implies_true, (Memory.ok_writeN ..), (Memory.ok_write ..), (Memory.ok_put ..), (Memory.ok_filter ..), (Memory.foldl_ok ..), (foldl_keeps ..), State.Keeps, and_self, hm]; done) | split)

theorem txWriteBack_ok (m r desc : Nat) (old : Bool) (status segs attempts : Nat) (noTs : Bool) (stamp : Option Nat) (s : State) (hm : s.mem.Ok) :
    (txWriteBack m r desc old status segs attempts noTs stamp s).mem.Ok := by
  unfold txWriteBack; simp only [(dmaAccess_keeps ..), (modRing_keeps ..), (stopRing_keeps ..), (putBytes_ok ..), ↓(ite_keeps ..), (ite_ok ..), (foldl_ok ..), (sameCycle_ok ..), implies_true, (Memory.ok_writeN ..), (Memory.ok_write ..), (Memory.ok_put ..), (Memory.ok_filter ..), (Memory.foldl_ok ..), (foldl_keeps ..), State.Keeps, and_self, hm]

theorem txRefuseAt_ok (m r desc : Nat) (old : Bool) (status segs : Nat) (s : State) (hm : s.mem.Ok) :
    (txRefuseAt m r desc old status segs s).mem.Ok := by
  unfold txRefuseAt; simp only [(macCount_keeps ..), (macEvent_keeps ..), (txWriteBack_ok ..), ↓(ite_keeps ..), (ite_ok ..), (foldl_ok ..), (sameCycle_ok ..), implies_true, (Memory.ok_writeN ..), (Memory.ok_write ..), (Memory.ok_put ..), (Memory.ok_filter ..), (Memory.foldl_ok ..), (foldl_keeps ..), State.Keeps, and_self, hm]

theorem txRefuse_ok (m r status : Nat) (s : State) (hm : s.mem.Ok) :
    (txRefuse m r status s).mem.Ok := by
  unfold txRefuse; simp only [(txRefuseAt_ok ..), ↓(ite_keeps ..), (ite_ok ..), (foldl_ok ..), (sameCycle_ok ..), implies_true, (Memory.ok_writeN ..), (Memory.ok_write ..), (Memory.ok_put ..), (Memory.ok_filter ..), (Memory.foldl_ok ..), (foldl_keeps ..), State.Keeps, and_self, hm]

theorem flushRing_ok (fuel m r : Nat) (s : State) (hm : s.mem.Ok) :
    (flushRing fuel m r s).mem.Ok := by
  induction fuel generalizing s with
  | zero => simpa only [flushRing] using hm
  | succ n ih =>
    rw [flushRing]
    split
    · exact ih _ (txRefuse_ok _ _ _ _ hm)
    · exact hm

theorem flushLink_ok (m : Nat) (s : State) (hm : s.mem.Ok) :
    (flushLink m s).mem.Ok := by
  unfold flushLink; repeat' (first | (simp +contextual only [(flushRing_ok ..), ↓(ite_keeps ..), (ite_ok ..), (foldl_ok ..), (sameCycle_ok ..), implies_true, (Memory.ok_writeN ..), (Memory.ok_write ..), (Memory.ok_put ..), (Memory.ok_filter ..), (Memory.foldl_ok ..), (foldl_keeps ..), State.Keeps, and_self, hm]; done) | split)

theorem ringTail_ok (m : Nat) (queue : Bool) (i v : Nat) (s : State) (hm : s.mem.Ok) :
    (ringTail m queue i v s).mem.Ok := by
  unfold ringTail; (repeat' split) <;> simp only [(modRing_keeps ..), (macFlag_keeps ..), (flushLink_ok ..), ↓(ite_keeps ..), (ite_ok ..), (foldl_ok ..), (sameCycle_ok ..), implies_true, (Memory.ok_writeN ..), (Memory.ok_write ..), (Memory.ok_put ..), (Memory.ok_filter ..), (Memory.foldl_ok ..), (foldl_keeps ..), State.Keeps, and_self, hm]

theorem startPlain_ok (m r buf len : Nat) (tsReq : Bool) (s : State) (hm : s.mem.Ok) :
    (startPlain m r buf len tsReq s).mem.Ok := by
  unfold startPlain; simp only [(dmaAccess_keeps ..), (modRing_keeps ..), (startRing_keeps ..), (txRefuse_ok ..), ↓(ite_keeps ..), (ite_ok ..), (foldl_ok ..), (sameCycle_ok ..), implies_true, (Memory.ok_writeN ..), (Memory.ok_write ..), (Memory.ok_put ..), (Memory.ok_filter ..), (Memory.foldl_ok ..), (foldl_keeps ..), State.Keeps, and_self, hm]; repeat' (first | (simp only [(dmaAccess_keeps ..), (modRing_keeps ..), (startRing_keeps ..), (txRefuse_ok ..), ↓(ite_keeps ..), (ite_ok ..), (foldl_ok ..), (sameCycle_ok ..), implies_true, (Memory.ok_writeN ..), (Memory.ok_write ..), (Memory.ok_put ..), (Memory.ok_filter ..), (Memory.foldl_ok ..), (foldl_keeps ..), State.Keeps, and_self, hm]; done) | split)

theorem startTso_ok (m r buf len w2 : Nat) (tsReq : Bool) (s : State) (hm : s.mem.Ok) :
    (startTso m r buf len w2 tsReq s).mem.Ok := by
  unfold startTso; simp only [(dmaAccess_keeps ..), (modRing_keeps ..), (startRing_keeps ..), (txRefuse_ok ..), ↓(ite_keeps ..), (ite_ok ..), (foldl_ok ..), (sameCycle_ok ..), implies_true, (Memory.ok_writeN ..), (Memory.ok_write ..), (Memory.ok_put ..), (Memory.ok_filter ..), (Memory.foldl_ok ..), (foldl_keeps ..), State.Keeps, and_self, hm]; repeat' (first | (simp only [(dmaAccess_keeps ..), (modRing_keeps ..), (startRing_keeps ..), (txRefuse_ok ..), ↓(ite_keeps ..), (ite_ok ..), (foldl_ok ..), (sameCycle_ok ..), implies_true, (Memory.ok_writeN ..), (Memory.ok_write ..), (Memory.ok_put ..), (Memory.ok_filter ..), (Memory.foldl_ok ..), (foldl_keeps ..), State.Keeps, and_self, hm]; done) | split)

theorem takeRing_ok (m r : Nat) (s : State) (hm : s.mem.Ok) :
    (takeRing m r s).mem.Ok := by
  unfold takeRing; simp only [(dmaAccess_keeps ..), (stopRing_keeps ..), (txRefuse_ok ..), (startPlain_ok ..), (startTso_ok ..), ↓(ite_keeps ..), (ite_ok ..), (foldl_ok ..), (sameCycle_ok ..), implies_true, (Memory.ok_writeN ..), (Memory.ok_write ..), (Memory.ok_put ..), (Memory.ok_filter ..), (Memory.foldl_ok ..), (foldl_keeps ..), State.Keeps, and_self, hm]; repeat' (first | (simp only [(dmaAccess_keeps ..), (stopRing_keeps ..), (txRefuse_ok ..), (startPlain_ok ..), (startTso_ok ..), ↓(ite_keeps ..), (ite_ok ..), (foldl_ok ..), (sameCycle_ok ..), implies_true, (Memory.ok_writeN ..), (Memory.ok_write ..), (Memory.ok_put ..), (Memory.ok_filter ..), (Memory.foldl_ok ..), (foldl_keeps ..), State.Keeps, and_self, hm]; done) | split)

theorem startFrame_ok (m : Nat) (s : State) (hm : s.mem.Ok) :
    (startFrame m s).mem.Ok := by
  unfold startFrame; simp only [(modMac_keeps ..), (takeRing_ok ..), ↓(ite_keeps ..), (ite_ok ..), (foldl_ok ..), (sameCycle_ok ..), implies_true, (Memory.ok_writeN ..), (Memory.ok_write ..), (Memory.ok_put ..), (Memory.ok_filter ..), (Memory.foldl_ok ..), (foldl_keeps ..), State.Keeps, and_self, hm]; repeat' (first | (simp only [(modMac_keeps ..), (takeRing_ok ..), ↓(ite_keeps ..), (ite_ok ..), (foldl_ok ..), (sameCycle_ok ..), implies_true, (Memory.ok_writeN ..), (Memory.ok_write ..), (Memory.ok_put ..), (Memory.ok_filter ..), (Memory.foldl_ok ..), (foldl_keeps ..), State.Keeps, and_self, hm]; done) | split)

theorem ringSent_ok (m r : Nat) (t : MacTx) (stamp : Nat) (s : State) (hm : s.mem.Ok) :
    (ringSent m r t stamp s).mem.Ok := by
  unfold ringSent; simp only [(offerStamp_keeps ..), (modRing_keeps ..), (macCount_keeps ..), (macEvent_keeps ..), (txWriteBack_ok ..), (txRefuseAt_ok ..), ↓(ite_keeps ..), (ite_ok ..), (foldl_ok ..), (sameCycle_ok ..), implies_true, (Memory.ok_writeN ..), (Memory.ok_write ..), (Memory.ok_put ..), (Memory.ok_filter ..), (Memory.foldl_ok ..), (foldl_keeps ..), State.Keeps, and_self, hm]; repeat' (first | (simp only [(offerStamp_keeps ..), (modRing_keeps ..), (macCount_keeps ..), (macEvent_keeps ..), (txWriteBack_ok ..), (txRefuseAt_ok ..), ↓(ite_keeps ..), (ite_ok ..), (foldl_ok ..), (sameCycle_ok ..), implies_true, (Memory.ok_writeN ..), (Memory.ok_write ..), (Memory.ok_put ..), (Memory.ok_filter ..), (Memory.foldl_ok ..), (foldl_keeps ..), State.Keeps, and_self, hm]; done) | split)

theorem txFail_ok (m status attempts : Nat) (t : MacTx) (s : State) (hm : s.mem.Ok) :
    (txFail m status attempts t s).mem.Ok := by
  unfold txFail; (repeat' split) <;> simp only [(macCount_keeps ..), (macEvent_keeps ..), (setTx_keeps ..), (txWriteBack_ok ..), ↓(ite_keeps ..), (ite_ok ..), (foldl_ok ..), (sameCycle_ok ..), implies_true, (Memory.ok_writeN ..), (Memory.ok_write ..), (Memory.ok_put ..), (Memory.ok_filter ..), (Memory.foldl_ok ..), (foldl_keeps ..), State.Keeps, and_self, hm]

theorem deliverFrame_ok (m q hit steer : Nat) (f : List Byte) (stamp : Nat) (s : State) (hm : s.mem.Ok) :
    (deliverFrame m q hit steer f stamp s).mem.Ok := by
  unfold deliverFrame; simp only [(dmaAccess_keeps ..), (modRing_keeps ..), (macCount_keeps ..), (stopRing_keeps ..), (noDescriptor_keeps ..), (dropFrame_keeps ..), (putBytes_ok ..), ↓(ite_keeps ..), (ite_ok ..), (foldl_ok ..), (sameCycle_ok ..), implies_true, (Memory.ok_writeN ..), (Memory.ok_write ..), (Memory.ok_put ..), (Memory.ok_filter ..), (Memory.foldl_ok ..), (foldl_keeps ..), State.Keeps, and_self, hm]; repeat' (first | (simp only [(dmaAccess_keeps ..), (modRing_keeps ..), (macCount_keeps ..), (stopRing_keeps ..), (noDescriptor_keeps ..), (dropFrame_keeps ..), (putBytes_ok ..), ↓(ite_keeps ..), (ite_ok ..), (foldl_ok ..), (sameCycle_ok ..), implies_true, (Memory.ok_writeN ..), (Memory.ok_write ..), (Memory.ok_put ..), (Memory.ok_filter ..), (Memory.foldl_ok ..), (foldl_keeps ..), State.Keeps, and_self, hm]; done) | split)

theorem dispatchFrame_ok (m q hit : Nat) (f : List Byte) (stamp : Nat) (s : State) (hm : s.mem.Ok) :
    (dispatchFrame m q hit f stamp s).mem.Ok := by
  unfold dispatchFrame; simp only [(deliverFrame_ok ..), ↓(ite_keeps ..), (ite_ok ..), (foldl_ok ..), (sameCycle_ok ..), implies_true, (Memory.ok_writeN ..), (Memory.ok_write ..), (Memory.ok_put ..), (Memory.ok_filter ..), (Memory.foldl_ok ..), (foldl_keeps ..), State.Keeps, and_self, hm]

theorem classifyFrame_ok (m : Nat) (f : List Byte) (stamp : Nat) (s : State) (hm : s.mem.Ok) :
    (classifyFrame m f stamp s).mem.Ok := by
  unfold classifyFrame; (repeat' split) <;> simp only [(replyFrame_keeps ..), (macCount_keeps ..), (controlFrame_keeps ..), (dispatchFrame_ok ..), ↓(ite_keeps ..), (ite_ok ..), (foldl_ok ..), (sameCycle_ok ..), implies_true, (Memory.ok_writeN ..), (Memory.ok_write ..), (Memory.ok_put ..), (Memory.ok_filter ..), (Memory.foldl_ok ..), (foldl_keeps ..), State.Keeps, and_self, hm]

theorem receiveFrame_ok (m : Nat) (f : List Byte) (len : Nat) (fcsOk whole overflow : Bool) (stamp : Nat) (s : State) (hm : s.mem.Ok) :
    (receiveFrame m f len fcsOk whole overflow stamp s).mem.Ok := by
  unfold receiveFrame; (repeat' split) <;> simp only [(macCount_keeps ..), (macFlag_keeps ..), (macEvent_keeps ..), (classifyFrame_ok ..), ↓(ite_keeps ..), (ite_ok ..), (foldl_ok ..), (sameCycle_ok ..), implies_true, (Memory.ok_writeN ..), (Memory.ok_write ..), (Memory.ok_put ..), (Memory.ok_filter ..), (Memory.foldl_ok ..), (foldl_keeps ..), State.Keeps, and_self, hm]

theorem dropLine_ok (m : Nat) (t : Option MacTx) (s : State) (hm : s.mem.Ok) :
    (dropLine m t s).mem.Ok := by
  unfold dropLine; (repeat' split) <;> simp only [(txRefuseAt_ok ..), ↓(ite_keeps ..), (ite_ok ..), (foldl_ok ..), (sameCycle_ok ..), implies_true, (Memory.ok_writeN ..), (Memory.ok_write ..), (Memory.ok_put ..), (Memory.ok_filter ..), (Memory.foldl_ok ..), (foldl_keeps ..), State.Keeps, and_self, hm]

theorem jobRefused_ok (unit : Nat) (owner : Option Nat) (u : Cvu) (data written : List Byte) (bad : Nat) (write : Bool) (s : State) (hm : s.mem.Ok) :
    (jobRefused unit owner u data written bad write s).mem.Ok := by
  unfold jobRefused; simp only [(dmaAccess_keeps ..), (modCvu_keeps ..), (putBytes_ok ..), ↓(ite_keeps ..), (ite_ok ..), (foldl_ok ..), (sameCycle_ok ..), implies_true, (Memory.ok_writeN ..), (Memory.ok_write ..), (Memory.ok_put ..), (Memory.ok_filter ..), (Memory.foldl_ok ..), (foldl_keeps ..), State.Keeps, and_self, hm]

theorem finishJob_ok (n : Nat) (s : State) (hm : s.mem.Ok) :
    (finishJob n s).mem.Ok := by
  unfold finishJob; simp only [(modCvu_keeps ..), (putBytes_ok ..), (jobRefused_ok ..), ↓(ite_keeps ..), (ite_ok ..), (foldl_ok ..), (sameCycle_ok ..), implies_true, (Memory.ok_writeN ..), (Memory.ok_write ..), (Memory.ok_put ..), (Memory.ok_filter ..), (Memory.foldl_ok ..), (foldl_keeps ..), State.Keeps, and_self, hm]; repeat' (first | (simp only [(modCvu_keeps ..), (putBytes_ok ..), (jobRefused_ok ..), ↓(ite_keeps ..), (ite_ok ..), (foldl_ok ..), (sameCycle_ok ..), implies_true, (Memory.ok_writeN ..), (Memory.ok_write ..), (Memory.ok_put ..), (Memory.ok_filter ..), (Memory.foldl_ok ..), (foldl_keeps ..), State.Keeps, and_self, hm]; done) | split)

theorem runCommand_ok (op rsp : Nat) (payload : List Byte) (r : KeyReq) (s : State) (hm : s.mem.Ok) :
    (runCommand op rsp payload r s).mem.Ok := by
  unfold runCommand; repeat' (first | (simp only [(dmaAccess_keeps ..), (attestResponse_keeps ..), (commandRefused_keeps ..), (invalidateBranch_keeps ..), (setSlot_keeps ..), (beginTransition_keeps ..), (clearTamper_keeps ..), (commandDone_keeps ..), (restoreRoot_keeps ..), (putBytes_ok ..), ↓(ite_keeps ..), (ite_ok ..), (foldl_ok ..), (sameCycle_ok ..), implies_true, (Memory.ok_writeN ..), (Memory.ok_write ..), (Memory.ok_put ..), (Memory.ok_filter ..), (Memory.foldl_ok ..), (foldl_keeps ..), State.Keeps, and_self, hm]; done) | split)

theorem fillRandom_ok (c buf n : Nat) (s : State) (hm : s.mem.Ok) :
    (fillRandom c buf n s).mem.Ok := by
  unfold fillRandom; simp only [(coreRefused_keeps ..), (draw_keeps ..), (putBytes_ok ..), ↓(ite_keeps ..), (ite_ok ..), (foldl_ok ..), (sameCycle_ok ..), implies_true, (Memory.ok_writeN ..), (Memory.ok_write ..), (Memory.ok_put ..), (Memory.ok_filter ..), (Memory.foldl_ok ..), (foldl_keeps ..), State.Keeps, and_self, hm]

theorem requestResult_ok (r : KeyReq) (s : State) (hm : s.mem.Ok) :
    (requestResult r s).mem.Ok := by
  unfold requestResult; repeat' (first | (simp only [(ownUp_keeps ..), (draw_keeps ..), (attestResponse_keeps ..), (invalidateBranch_keeps ..), (newCell_keeps ..), (runCommand_ok ..), (fillRandom_ok ..), modKey, ↓(ite_keeps ..), (ite_ok ..), (foldl_ok ..), (sameCycle_ok ..), implies_true, (Memory.ok_writeN ..), (Memory.ok_write ..), (Memory.ok_put ..), (Memory.ok_filter ..), (Memory.foldl_ok ..), (foldl_keeps ..), State.Keeps, and_self, hm]; done) | split)

theorem finishRequest_ok (s : State) (hm : s.mem.Ok) :
    (finishRequest s).mem.Ok := by
  unfold finishRequest; (repeat' split) <;> simp only [(commandRefused_keeps ..), (endRequest_keeps ..), (requestResult_ok ..), ↓(ite_keeps ..), (ite_ok ..), (foldl_ok ..), (sameCycle_ok ..), implies_true, (Memory.ok_writeN ..), (Memory.ok_write ..), (Memory.ok_put ..), (Memory.ok_filter ..), (Memory.foldl_ok ..), (foldl_keeps ..), State.Keeps, and_self, hm]

theorem mapTask_ok (n : Nat) (s : State) (hm : s.mem.Ok) :
    (mapTask n s).mem.Ok := by
  unfold mapTask
  have h (ws : List Rec) (bs : List Byte) (m : Memory) (h : m.Ok) : (putRetained ws bs m).Ok := by
    induction ws generalizing bs m with
    | nil => exact h
    | cons r t ih => exact ih _ _ (Memory.ok_writeN _ _ h)
  simp only [h, (modUpd_keeps ..), ↓(ite_keeps ..), (ite_ok ..), (foldl_ok ..), (sameCycle_ok ..), implies_true, (Memory.ok_writeN ..), (Memory.ok_write ..), (Memory.ok_put ..), (Memory.ok_filter ..), (Memory.foldl_ok ..), (foldl_keeps ..), State.Keeps, and_self, hm]

theorem noteCatch_ok (n : Nat) (s : State) (hm : s.mem.Ok) :
    (noteCatch n s).mem.Ok := by
  unfold noteCatch; simp only [(modUpd_keeps ..), (mapTask_ok ..), ↓(ite_keeps ..), (ite_ok ..), (foldl_ok ..), (sameCycle_ok ..), implies_true, (Memory.ok_writeN ..), (Memory.ok_write ..), (Memory.ok_put ..), (Memory.ok_filter ..), (Memory.foldl_ok ..), (foldl_keeps ..), State.Keeps, and_self, hm]; repeat' (first | (simp only [(modUpd_keeps ..), (mapTask_ok ..), ↓(ite_keeps ..), (ite_ok ..), (foldl_ok ..), (sameCycle_ok ..), implies_true, (Memory.ok_writeN ..), (Memory.ok_write ..), (Memory.ok_put ..), (Memory.ok_filter ..), (Memory.foldl_ok ..), (foldl_keeps ..), State.Keeps, and_self, hm]; done) | split)

theorem copiesLoaded_ok (t : Takeover) (us : Nat) (s : State) (hm : s.mem.Ok) :
    (copiesLoaded t us s).mem.Ok := by
  unfold copiesLoaded; simp only [(modTakeover_keeps ..), (takeoverDone_ok ..), ↓(ite_keeps ..), (ite_ok ..), (foldl_ok ..), (sameCycle_ok ..), implies_true, (Memory.ok_writeN ..), (Memory.ok_write ..), (Memory.ok_put ..), (Memory.ok_filter ..), (Memory.foldl_ok ..), (foldl_keeps ..), State.Keeps, and_self, hm]

theorem replayDone_ok (t : Takeover) (slot tn : Nat) (d : BitVec 64) (us : Nat) (l : List (Nat × Byte)) (s : State) (hm : s.mem.Ok) :
    (replayDone t slot tn d us l s).mem.Ok := by
  unfold replayDone; (repeat' split) <;> simp only [(raise_keeps ..), (failCore_keeps ..), (modTakeover_keeps ..), (takeoverDone_ok ..), ↓(ite_keeps ..), (ite_ok ..), (foldl_ok ..), (sameCycle_ok ..), implies_true, (Memory.ok_writeN ..), (Memory.ok_write ..), (Memory.ok_put ..), (Memory.ok_filter ..), (Memory.foldl_ok ..), (foldl_keeps ..), State.Keeps, and_self, hm]

theorem hitEffect_ok (h : MemHit) (s : State) (hm : s.mem.Ok) :
    (hitEffect h s).mem.Ok := by
  unfold hitEffect; (repeat' split) <;> simp only [(queueDrop_keeps ..), (modRing_keeps ..), (stopRing_keeps ..), (assertReset_keeps ..), (rebuildTask_keeps ..), (txRefuse_ok ..), ↓(ite_keeps ..), (ite_ok ..), (foldl_ok ..), (sameCycle_ok ..), implies_true, (Memory.ok_writeN ..), (Memory.ok_write ..), (Memory.ok_put ..), (Memory.ok_filter ..), (Memory.foldl_ok ..), (foldl_keeps ..), State.Keeps, and_self, hm]

theorem writeRing_ok (m : Nat) (queue : Bool) (i off v : Nat) (s : State) (hm : s.mem.Ok) :
    (writeRing m queue i off v s).mem.Ok := by
  unfold writeRing; (repeat' split) <;> simp only [(ringCfg_keeps ..), (ringBase_keeps ..), (ringTail_ok ..), ↓(ite_keeps ..), (ite_ok ..), (foldl_ok ..), (sameCycle_ok ..), implies_true, (Memory.ok_writeN ..), (Memory.ok_write ..), (Memory.ok_put ..), (Memory.ok_filter ..), (Memory.foldl_ok ..), (foldl_keeps ..), State.Keeps, and_self, hm]

theorem writeMac_ok (m off v : Nat) (s : State) (hm : s.mem.Ok) :
    (writeMac m off v s).mem.Ok := by
  unfold writeMac; (repeat' split) <;> simp only [(modMac_keeps ..), (rwl_keeps ..), (writeRing_ok ..), ↓(ite_keeps ..), (ite_ok ..), (foldl_ok ..), (sameCycle_ok ..), implies_true, (Memory.ok_writeN ..), (Memory.ok_write ..), (Memory.ok_put ..), (Memory.ok_filter ..), (Memory.foldl_ok ..), (foldl_keeps ..), State.Keeps, and_self, hm]

theorem writeReg_ok (owner : Option Nat) (b : Block) (off v : Nat) (s : State) (hm : s.mem.Ok) :
    (writeReg owner b off v s).mem.Ok := by
  unfold writeReg; (repeat' split) <;> simp [(rwl_keeps ..), (writeSys_keeps ..), (writeDrw_keeps ..), (writeStk_keeps ..), (writeDvt_keeps ..), (writeWke_keeps ..), (writeJig_keeps ..), (writeDio_keeps ..), (writeAio_keeps ..), (writeLpe_keeps ..), (writeRio_keeps ..), (writeCan_keeps ..), (writePtp_keeps ..), (writeRtc_keeps ..), (writeEvr_keeps ..), (writeCvu_keeps ..), (writeKey_keeps ..), (writeUpd_keeps ..), (writeDbg_keeps ..), (writeCtrl_keeps ..), (writeMac_ok ..), ↓(ite_keeps ..), (ite_ok ..), (foldl_ok ..), (sameCycle_ok ..), implies_true, (Memory.ok_writeN ..), (Memory.ok_write ..), (Memory.ok_put ..), (Memory.ok_filter ..), (Memory.foldl_ok ..), (foldl_keeps ..), State.Keeps, and_self, hm]

theorem writeAt_ok (tag : Option Nat) (a v : Nat) (s : State) (hm : s.mem.Ok) :
    (writeAt tag a v s).mem.Ok := by
  unfold writeAt; (repeat' split) <;> simp only [(stageOutside_keeps ..), (putBytes_ok ..), (writeReg_ok ..), ↓(ite_keeps ..), (ite_ok ..), (foldl_ok ..), (sameCycle_ok ..), implies_true, (Memory.ok_writeN ..), (Memory.ok_write ..), (Memory.ok_put ..), (Memory.ok_filter ..), (Memory.foldl_ok ..), (foldl_keeps ..), State.Keeps, and_self, hm]

theorem coreWrite_ok (c a v : Nat) (s : State) (hm : s.mem.Ok) :
    (coreWrite c a v s).mem.Ok := by
  unfold coreWrite; simp only [(coreRefused_keeps ..), (grpOpen_keeps ..), (grpCommit_keeps ..), (grpAbort_keeps ..), (stageWrite_keeps ..), (writeReg_ok ..), ↓(ite_keeps ..), (ite_ok ..), (foldl_ok ..), (sameCycle_ok ..), implies_true, (Memory.ok_writeN ..), (Memory.ok_write ..), (Memory.ok_put ..), (Memory.ok_filter ..), (Memory.foldl_ok ..), (foldl_keeps ..), State.Keeps, and_self, hm]; repeat' (first | (simp only [(coreRefused_keeps ..), (grpOpen_keeps ..), (grpCommit_keeps ..), (grpAbort_keeps ..), (stageWrite_keeps ..), (writeReg_ok ..), ↓(ite_keeps ..), (ite_ok ..), (foldl_ok ..), (sameCycle_ok ..), implies_true, (Memory.ok_writeN ..), (Memory.ok_write ..), (Memory.ok_put ..), (Memory.ok_filter ..), (Memory.foldl_ok ..), (foldl_keeps ..), State.Keeps, and_self, hm]; done) | split)

theorem tagStore_ok (by_ : Option (Fin 16)) (a v : Nat) (s : State) (hm : s.mem.Ok) :
    (tagStore by_ a v s).mem.Ok := by
  unfold tagStore; (repeat' split) <;> simp only [(coreRefused_keeps ..), (putBytes_ok ..), ↓(ite_keeps ..), (ite_ok ..), (foldl_ok ..), (sameCycle_ok ..), implies_true, (Memory.ok_writeN ..), (Memory.ok_write ..), (Memory.ok_put ..), (Memory.ok_filter ..), (Memory.foldl_ok ..), (foldl_keeps ..), State.Keeps, and_self, hm]

theorem registerWrite_ok (by_ : Option (Fin 16)) (a v : Nat) (s : State) (hm : s.mem.Ok) :
    (registerWrite by_ a v s).mem.Ok := by
  unfold registerWrite; (repeat' split) <;> simp only [(noteRefused_keeps ..), (writeAt_ok ..), (coreWrite_ok ..), (tagStore_ok ..), ↓(ite_keeps ..), (ite_ok ..), (foldl_ok ..), (sameCycle_ok ..), implies_true, (Memory.ok_writeN ..), (Memory.ok_write ..), (Memory.ok_put ..), (Memory.ok_filter ..), (Memory.foldl_ok ..), (foldl_keeps ..), State.Keeps, and_self, hm]

theorem orchestrate_ok (o : OrchMsg) (s : State) (hm : s.mem.Ok) :
    (orchestrate o s).mem.Ok := by
  unfold orchestrate; (repeat' split) <;> simp only [(ownUp_keeps ..), (writeAt_ok ..), ↓(ite_keeps ..), (ite_ok ..), (foldl_ok ..), (sameCycle_ok ..), implies_true, (Memory.ok_writeN ..), (Memory.ok_write ..), (Memory.ok_put ..), (Memory.ok_filter ..), (Memory.foldl_ok ..), (foldl_keeps ..), State.Keeps, and_self, hm]

theorem ownEffect_ok (m : Marzin) (s : State) (hm : s.mem.Ok) :
    (ownEffect m s).mem.Ok := by
  unfold ownEffect; (repeat' split) <;> simp only [(directoryDown_keeps ..), (askStatement_keeps ..), (orchestrate_ok ..), ↓(ite_keeps ..), (ite_ok ..), (foldl_ok ..), (sameCycle_ok ..), implies_true, (Memory.ok_writeN ..), (Memory.ok_write ..), (Memory.ok_put ..), (Memory.ok_filter ..), (Memory.foldl_ok ..), (foldl_keeps ..), State.Keeps, and_self, hm]

theorem loadCopy_ok (s : State) (c : TaskCkpt) (hm : s.mem.Ok) :
    (loadCopy s c).mem.Ok := by
  unfold loadCopy; simp only [↓(ite_keeps ..), (ite_ok ..), (foldl_ok ..), (sameCycle_ok ..), implies_true, (Memory.ok_writeN ..), (Memory.ok_write ..), (Memory.ok_put ..), (Memory.ok_filter ..), (Memory.foldl_ok ..), (foldl_keeps ..), State.Keeps, and_self, hm]

theorem adoptWork_ok (w : Wke) (b : Bank) (upTo : Nat) (s : State) (c : TaskCkpt) (hm : s.mem.Ok) :
    (adoptWork w b upTo s c).mem.Ok := by
  unfold adoptWork Option.elim
  dsimp only
  split
  · exact Memory.ok_put _ hm
  · exact hm

theorem putReplayed_ok (l : List (Nat × Byte)) (s : State) (hm : s.mem.Ok) :
    (putReplayed l s).mem.Ok := by
  unfold putReplayed; simp only [↓(ite_keeps ..), (ite_ok ..), (foldl_ok ..), (sameCycle_ok ..), implies_true, (Memory.ok_writeN ..), (Memory.ok_write ..), (Memory.ok_put ..), (Memory.ok_filter ..), (Memory.foldl_ok ..), (foldl_keeps ..), State.Keeps, and_self, hm]

theorem hotRestart_ok (h : HotReplay) (s : State) (hm : s.mem.Ok) :
    (hotRestart h s).mem.Ok := by
  unfold hotRestart
  dsimp only
  simp only [(raise_keeps ..), (jMark_keeps ..), (hotTask_keeps ..), (hotLoop_keeps ..), (loadCopy_ok ..), (adoptWork_ok ..), (putReplayed_ok ..), ↓(ite_keeps ..), (ite_ok ..), (foldl_ok ..), (sameCycle_ok ..), implies_true, (Memory.ok_writeN ..), (Memory.ok_write ..), (Memory.ok_put ..), (Memory.ok_filter ..), (Memory.foldl_ok ..), (foldl_keeps ..), State.Keeps, and_self, hm]
  exact putReplayed_ok _ _ (putReplayed_ok _ _ (foldl_ok (fun s x h => adoptWork_ok _ _ _ _ _ h) _ (foldl_ok (fun s x h => loadCopy_ok _ _ h) _ hm)))

theorem initRetained_ok (s : State) (slot : Nat) (hm : s.mem.Ok) :
    (initRetained s slot).mem.Ok := by
  unfold initRetained; simp +contextual only [↓(ite_keeps ..), (ite_ok ..), (foldl_ok ..), (sameCycle_ok ..), implies_true, (Memory.ok_writeN ..), (Memory.ok_write ..), (Memory.ok_put ..), (Memory.ok_filter ..), (Memory.foldl_ok ..), (foldl_keeps ..), State.Keeps, and_self, hm]

theorem loseRetained_ok (s : State) (slot : Nat) (hm : s.mem.Ok) :
    (loseRetained s slot).mem.Ok := by
  unfold loseRetained; simp only [(raise_keeps ..), (initRetained_ok ..), ↓(ite_keeps ..), (ite_ok ..), (foldl_ok ..), (sameCycle_ok ..), implies_true, (Memory.ok_writeN ..), (Memory.ok_write ..), (Memory.ok_put ..), (Memory.ok_filter ..), (Memory.foldl_ok ..), (foldl_keeps ..), State.Keeps, and_self, hm]

theorem mapRetained_ok (old : List Byte) (s : State) (slot : Nat) (hm : s.mem.Ok) :
    (mapRetained old s slot).mem.Ok := by
  unfold mapRetained
  have h (ws : List Rec) (bs : List Byte) (m : Memory) (h : m.Ok) : (putRetained ws bs m).Ok := by
    induction ws generalizing bs m with
    | nil => exact h
    | cons r t ih => exact ih _ _ (Memory.ok_writeN _ _ h)
  simp only [h, (modUpd_keeps ..), (updEvent_keeps ..), ↓(ite_keeps ..), (ite_ok ..), (foldl_ok ..), (sameCycle_ok ..), implies_true, (Memory.ok_writeN ..), (Memory.ok_write ..), (Memory.ok_put ..), (Memory.ok_filter ..), (Memory.foldl_ok ..), (foldl_keeps ..), State.Keeps, and_self, hm]

theorem keepRetained_ok (cold : Bool) (s : State) (hm : s.mem.Ok) :
    (keepRetained cold s).mem.Ok := by
  unfold keepRetained
  split
  · exact foldl_ok (fun s x h => initRetained_ok _ _ h) _ hm
  · refine foldl_ok (fun s x h => ?_) _ hm
    unfold Option.elim
    split
    · exact mapRetained_ok _ _ _ h
    · exact h

theorem fillWindows_ok (s : State) (hm : s.mem.Ok) :
    (fillWindows s).mem.Ok := by
  unfold fillWindows; simp +contextual only [↓(ite_keeps ..), (ite_ok ..), (foldl_ok ..), (sameCycle_ok ..), implies_true, (Memory.ok_writeN ..), (Memory.ok_write ..), (Memory.ok_put ..), (Memory.ok_filter ..), (Memory.foldl_ok ..), (foldl_keeps ..), State.Keeps, and_self, hm]

theorem restoreState_ok (bad : List Nat) (hot : List HotReplay) (s : State) (hm : s.mem.Ok) :
    (restoreState bad hot s).mem.Ok := by
  unfold restoreState
  dsimp only
  split
  all_goals rw [(raise_keeps _ _).2.1]
  all_goals refine foldl_ok (fun s x h => loseRetained_ok _ _ h) _ ?_
  · exact hotRestart_ok _ _ hm
  · rw [(jMark_keeps _ _ _).2.1]
    exact keepRetained_ok _ _ (fillWindows_ok _ hm)

theorem loadTables_ok (journalTorn : Nat) (readbackOk : Bool) (bad : List Nat) (hot : List HotReplay) (s : State) (hm : s.mem.Ok) :
    (loadTables journalTorn readbackOk bad hot s).mem.Ok := by
  unfold loadTables; simp only [(stageJigCopy_keeps ..), (loadPools_keeps ..), (bindTasks_keeps ..), (loadModule_keeps ..), (loadBlocks_keeps ..), (loadServices_keeps ..), (writeTables_keeps ..), (adoptImage_keeps ..), (trimTail_keeps ..), (loadDone_keeps ..), (jigCopyFailed_keeps ..), (restoreState_ok ..), ↓(ite_keeps ..), (ite_ok ..), (foldl_ok ..), (sameCycle_ok ..), implies_true, (Memory.ok_writeN ..), (Memory.ok_write ..), (Memory.ok_put ..), (Memory.ok_filter ..), (Memory.foldl_ok ..), (foldl_keeps ..), State.Keeps, and_self, hm]

theorem commitHold_ok (s : State) (slot : Nat) (hm : s.mem.Ok) :
    (commitHold s slot).mem.Ok := by
  unfold commitHold; simp only [(releaseStroke_ok ..), (applySettled_ok ..), ↓(ite_keeps ..), (ite_ok ..), (foldl_ok ..), (sameCycle_ok ..), implies_true, (Memory.ok_writeN ..), (Memory.ok_write ..), (Memory.ok_put ..), (Memory.ok_filter ..), (Memory.foldl_ok ..), (foldl_keeps ..), State.Keeps, and_self, hm]; repeat' (first | (simp only [(releaseStroke_ok ..), (applySettled_ok ..), ↓(ite_keeps ..), (ite_ok ..), (foldl_ok ..), (sameCycle_ok ..), implies_true, (Memory.ok_writeN ..), (Memory.ok_write ..), (Memory.ok_put ..), (Memory.ok_filter ..), (Memory.foldl_ok ..), (foldl_keeps ..), State.Keeps, and_self, hm]; done) | split)

theorem edgeCommit_ok (x : EdgeIn) (p : EdgePlan) (s : State) (hm : s.mem.Ok) :
    (edgeCommit x p s).mem.Ok := by
  unfold edgeCommit
  dsimp only
  repeat' split
  all_goals simp only [(dispatchAll_keeps ..), (commitLoops_keeps ..), (openRecord_keeps ..), (closeRecord_keeps ..), (commitSlot_ok ..), (commitHold_ok ..), ↓(ite_keeps ..), (ite_ok ..), (foldl_ok ..), (sameCycle_ok ..), implies_true, (Memory.ok_writeN ..), (Memory.ok_write ..), (Memory.ok_put ..), (Memory.ok_filter ..), (Memory.foldl_ok ..), (foldl_keeps ..), State.Keeps, and_self, hm]
  all_goals first | done | (refine foldl_ok (fun s x h => ?_) _ (by simpa only [(dispatchAll_keeps ..), (commitLoops_keeps ..), (openRecord_keeps ..), (closeRecord_keeps ..), (commitSlot_ok ..), (commitHold_ok ..), ↓(ite_keeps ..), (ite_ok ..), (foldl_ok ..), (sameCycle_ok ..), implies_true, (Memory.ok_writeN ..), (Memory.ok_write ..), (Memory.ok_put ..), (Memory.ok_filter ..), (Memory.foldl_ok ..), (foldl_keeps ..), State.Keeps, and_self, hm] using hm)
                            first | exact commitHold_ok _ _ h | exact commitSlot_ok _ _ h)

theorem catchNote_ok (s : State) (n : Nat) (hm : s.mem.Ok) :
    (catchNote s n).mem.Ok := by
  unfold catchNote; simp only [(catchDue_keeps ..), (noteCatch_ok ..), ↓(ite_keeps ..), (ite_ok ..), (foldl_ok ..), (sameCycle_ok ..), implies_true, (Memory.ok_writeN ..), (Memory.ok_write ..), (Memory.ok_put ..), (Memory.ok_filter ..), (Memory.foldl_ok ..), (foldl_keeps ..), State.Keeps, and_self, hm]

theorem edgeCatch_ok (x : EdgeIn) (s : State) (hm : s.mem.Ok) :
    (edgeCatch x s).mem.Ok := by
  unfold edgeCatch
  dsimp only
  rw [(foldl_keeps _ (fun s c => gateIdle_keeps c s) _ _).2.1, (dispatchAll_keeps _).2.1]
  split
  all_goals
    simp only [(evalLoops_keeps ..), (idleLoops_keeps ..)]
    rw [(foldl_keeps _ (fun s c => wakeCheck_keeps s c) _ _).2.1]
    refine foldl_ok (fun s x h => catchNote_ok _ _ h) _ ?_
    rw [(foldl_keeps _ (fun s n => leaveReplay_keeps _ _) _ _).2.1]
    simpa only [(shadowStart_keeps ..)] using hm

theorem edgeAfter_ok (x : EdgeIn) (p : EdgePlan) (s : State) (hm : s.mem.Ok) :
    (edgeAfter x p s).mem.Ok := by
  unfold edgeAfter; (repeat' split) <;> simp only [(idleLoops_keeps ..), (noteVstore_keeps ..), (shadowEdge_keeps ..), (deferFail_keeps ..), (switchEnds_keeps ..), (watchEdge_keeps ..), (edgeOutputs_keeps ..), (edgeCheckpoint_keeps ..), (edgeUpdate_keeps ..), (edgeCatch_ok ..), ↓(ite_keeps ..), (ite_ok ..), (foldl_ok ..), (sameCycle_ok ..), implies_true, (Memory.ok_writeN ..), (Memory.ok_write ..), (Memory.ok_put ..), (Memory.ok_filter ..), (Memory.foldl_ok ..), (foldl_keeps ..), State.Keeps, and_self, hm]

theorem edgeRun_ok (x : EdgeIn) (s : State) (hm : s.mem.Ok) :
    (edgeRun x s).mem.Ok := by
  unfold edgeRun
  dsimp only
  repeat' split
  all_goals try simp only [(assertReset_keeps ..), (edgeRing_keeps ..), (stepCheck_keeps ..)]
  all_goals repeat' (first | with_reducible exact hm | (with_reducible refine sameCycle_ok (fun s hs => ?_) ?_))
  all_goals first
    | with_reducible exact edgeCommit_ok _ _ _ (by simpa only [(edgeInputs_keeps ..)] using hs)
    | with_reducible exact edgeAfter_ok _ _ _ hs
    | simpa only [(edgeBegin_keeps ..), (edgeLatch_keeps ..), (edgeSeal_keeps ..)] using hs

end Sys2Proof.Machine
end

