-- ==== Sys2Proof/Laws/State.lean ====
section
/-! SUPPORT. What each named update of the state does to every field of it: the field it is named for, and every
other field as it was. -/
namespace Sys2Proof.Machine

variable (s : State)

/-! ### `modSys` -/

@[simp] theorem modSys_sys (f : Sys → Sys) : (modSys f s).sys = f s.sys := rfl
@[simp] theorem modSys_pending (f : Sys → Sys) : (modSys f s).pending = s.pending := rfl
@[simp] theorem modSys_answer (f : Sys → Sys) : (modSys f s).answer = s.answer := rfl
@[simp] theorem modSys_fresh (f : Sys → Sys) : (modSys f s).fresh = s.fresh := rfl
@[simp] theorem modSys_drw (f : Sys → Sys) : (modSys f s).drw = s.drw := rfl
@[simp] theorem modSys_stk (f : Sys → Sys) : (modSys f s).stk = s.stk := rfl
@[simp] theorem modSys_dvt (f : Sys → Sys) : (modSys f s).dvt = s.dvt := rfl
@[simp] theorem modSys_wke (f : Sys → Sys) : (modSys f s).wke = s.wke := rfl
@[simp] theorem modSys_jig (f : Sys → Sys) : (modSys f s).jig = s.jig := rfl
@[simp] theorem modSys_dio (f : Sys → Sys) : (modSys f s).dio = s.dio := rfl
@[simp] theorem modSys_aio (f : Sys → Sys) : (modSys f s).aio = s.aio := rfl
@[simp] theorem modSys_lpe (f : Sys → Sys) : (modSys f s).lpe = s.lpe := rfl
@[simp] theorem modSys_rio (f : Sys → Sys) : (modSys f s).rio = s.rio := rfl
@[simp] theorem modSys_can (f : Sys → Sys) : (modSys f s).can = s.can := rfl
@[simp] theorem modSys_mac (f : Sys → Sys) : (modSys f s).mac = s.mac := rfl
@[simp] theorem modSys_ptp (f : Sys → Sys) : (modSys f s).ptp = s.ptp := rfl
@[simp] theorem modSys_rtc (f : Sys → Sys) : (modSys f s).rtc = s.rtc := rfl
@[simp] theorem modSys_evr (f : Sys → Sys) : (modSys f s).evr = s.evr := rfl
@[simp] theorem modSys_cvu (f : Sys → Sys) : (modSys f s).cvu = s.cvu := rfl
@[simp] theorem modSys_key (f : Sys → Sys) : (modSys f s).key = s.key := rfl
@[simp] theorem modSys_upd (f : Sys → Sys) : (modSys f s).upd = s.upd := rfl
@[simp] theorem modSys_hie (f : Sys → Sys) : (modSys f s).hie = s.hie := rfl
@[simp] theorem modSys_dbg (f : Sys → Sys) : (modSys f s).dbg = s.dbg := rfl
@[simp] theorem modSys_cores (f : Sys → Sys) : (modSys f s).cores = s.cores := rfl
@[simp] theorem modSys_enabled (f : Sys → Sys) : (modSys f s).enabled = s.enabled := rfl
@[simp] theorem modSys_declared (f : Sys → Sys) : (modSys f s).declared = s.declared := rfl
@[simp] theorem modSys_mem (f : Sys → Sys) : (modSys f s).mem = s.mem := rfl

/-! ### `modTask` -/

@[simp] theorem modTask_stk (n : Nat) (f : Task → Task) : (modTask n f s).stk = { s.stk with tasks := lmod s.stk.tasks n f } := rfl
@[simp] theorem modTask_pending (n : Nat) (f : Task → Task) : (modTask n f s).pending = s.pending := rfl
@[simp] theorem modTask_answer (n : Nat) (f : Task → Task) : (modTask n f s).answer = s.answer := rfl
@[simp] theorem modTask_fresh (n : Nat) (f : Task → Task) : (modTask n f s).fresh = s.fresh := rfl
@[simp] theorem modTask_sys (n : Nat) (f : Task → Task) : (modTask n f s).sys = s.sys := rfl
@[simp] theorem modTask_drw (n : Nat) (f : Task → Task) : (modTask n f s).drw = s.drw := rfl
@[simp] theorem modTask_dvt (n : Nat) (f : Task → Task) : (modTask n f s).dvt = s.dvt := rfl
@[simp] theorem modTask_wke (n : Nat) (f : Task → Task) : (modTask n f s).wke = s.wke := rfl
@[simp] theorem modTask_jig (n : Nat) (f : Task → Task) : (modTask n f s).jig = s.jig := rfl
@[simp] theorem modTask_dio (n : Nat) (f : Task → Task) : (modTask n f s).dio = s.dio := rfl
@[simp] theorem modTask_aio (n : Nat) (f : Task → Task) : (modTask n f s).aio = s.aio := rfl
@[simp] theorem modTask_lpe (n : Nat) (f : Task → Task) : (modTask n f s).lpe = s.lpe := rfl
@[simp] theorem modTask_rio (n : Nat) (f : Task → Task) : (modTask n f s).rio = s.rio := rfl
@[simp] theorem modTask_can (n : Nat) (f : Task → Task) : (modTask n f s).can = s.can := rfl
@[simp] theorem modTask_mac (n : Nat) (f : Task → Task) : (modTask n f s).mac = s.mac := rfl
@[simp] theorem modTask_ptp (n : Nat) (f : Task → Task) : (modTask n f s).ptp = s.ptp := rfl
@[simp] theorem modTask_rtc (n : Nat) (f : Task → Task) : (modTask n f s).rtc = s.rtc := rfl
@[simp] theorem modTask_evr (n : Nat) (f : Task → Task) : (modTask n f s).evr = s.evr := rfl
@[simp] theorem modTask_cvu (n : Nat) (f : Task → Task) : (modTask n f s).cvu = s.cvu := rfl
@[simp] theorem modTask_key (n : Nat) (f : Task → Task) : (modTask n f s).key = s.key := rfl
@[simp] theorem modTask_upd (n : Nat) (f : Task → Task) : (modTask n f s).upd = s.upd := rfl
@[simp] theorem modTask_hie (n : Nat) (f : Task → Task) : (modTask n f s).hie = s.hie := rfl
@[simp] theorem modTask_dbg (n : Nat) (f : Task → Task) : (modTask n f s).dbg = s.dbg := rfl
@[simp] theorem modTask_cores (n : Nat) (f : Task → Task) : (modTask n f s).cores = s.cores := rfl
@[simp] theorem modTask_enabled (n : Nat) (f : Task → Task) : (modTask n f s).enabled = s.enabled := rfl
@[simp] theorem modTask_declared (n : Nat) (f : Task → Task) : (modTask n f s).declared = s.declared := rfl
@[simp] theorem modTask_mem (n : Nat) (f : Task → Task) : (modTask n f s).mem = s.mem := rfl

/-! ### `modCopy` -/

@[simp] theorem modCopy_pending (n c : Nat) (f : Copy → Copy) : (modCopy n c f s).pending = s.pending := rfl
@[simp] theorem modCopy_answer (n c : Nat) (f : Copy → Copy) : (modCopy n c f s).answer = s.answer := rfl
@[simp] theorem modCopy_fresh (n c : Nat) (f : Copy → Copy) : (modCopy n c f s).fresh = s.fresh := rfl
@[simp] theorem modCopy_sys (n c : Nat) (f : Copy → Copy) : (modCopy n c f s).sys = s.sys := rfl
@[simp] theorem modCopy_drw (n c : Nat) (f : Copy → Copy) : (modCopy n c f s).drw = s.drw := rfl
@[simp] theorem modCopy_dvt (n c : Nat) (f : Copy → Copy) : (modCopy n c f s).dvt = s.dvt := rfl
@[simp] theorem modCopy_wke (n c : Nat) (f : Copy → Copy) : (modCopy n c f s).wke = s.wke := rfl
@[simp] theorem modCopy_jig (n c : Nat) (f : Copy → Copy) : (modCopy n c f s).jig = s.jig := rfl
@[simp] theorem modCopy_dio (n c : Nat) (f : Copy → Copy) : (modCopy n c f s).dio = s.dio := rfl
@[simp] theorem modCopy_aio (n c : Nat) (f : Copy → Copy) : (modCopy n c f s).aio = s.aio := rfl
@[simp] theorem modCopy_lpe (n c : Nat) (f : Copy → Copy) : (modCopy n c f s).lpe = s.lpe := rfl
@[simp] theorem modCopy_rio (n c : Nat) (f : Copy → Copy) : (modCopy n c f s).rio = s.rio := rfl
@[simp] theorem modCopy_can (n c : Nat) (f : Copy → Copy) : (modCopy n c f s).can = s.can := rfl
@[simp] theorem modCopy_mac (n c : Nat) (f : Copy → Copy) : (modCopy n c f s).mac = s.mac := rfl
@[simp] theorem modCopy_ptp (n c : Nat) (f : Copy → Copy) : (modCopy n c f s).ptp = s.ptp := rfl
@[simp] theorem modCopy_rtc (n c : Nat) (f : Copy → Copy) : (modCopy n c f s).rtc = s.rtc := rfl
@[simp] theorem modCopy_evr (n c : Nat) (f : Copy → Copy) : (modCopy n c f s).evr = s.evr := rfl
@[simp] theorem modCopy_cvu (n c : Nat) (f : Copy → Copy) : (modCopy n c f s).cvu = s.cvu := rfl
@[simp] theorem modCopy_key (n c : Nat) (f : Copy → Copy) : (modCopy n c f s).key = s.key := rfl
@[simp] theorem modCopy_upd (n c : Nat) (f : Copy → Copy) : (modCopy n c f s).upd = s.upd := rfl
@[simp] theorem modCopy_hie (n c : Nat) (f : Copy → Copy) : (modCopy n c f s).hie = s.hie := rfl
@[simp] theorem modCopy_dbg (n c : Nat) (f : Copy → Copy) : (modCopy n c f s).dbg = s.dbg := rfl
@[simp] theorem modCopy_cores (n c : Nat) (f : Copy → Copy) : (modCopy n c f s).cores = s.cores := rfl
@[simp] theorem modCopy_enabled (n c : Nat) (f : Copy → Copy) : (modCopy n c f s).enabled = s.enabled := rfl
@[simp] theorem modCopy_declared (n c : Nat) (f : Copy → Copy) : (modCopy n c f s).declared = s.declared := rfl
@[simp] theorem modCopy_mem (n c : Nat) (f : Copy → Copy) : (modCopy n c f s).mem = s.mem := rfl

/-! ### `modWs` -/

@[simp] theorem modWs_pending (n c : Nat) (f : WriteSet → WriteSet) : (modWs n c f s).pending = s.pending := rfl
@[simp] theorem modWs_answer (n c : Nat) (f : WriteSet → WriteSet) : (modWs n c f s).answer = s.answer := rfl
@[simp] theorem modWs_fresh (n c : Nat) (f : WriteSet → WriteSet) : (modWs n c f s).fresh = s.fresh := rfl
@[simp] theorem modWs_sys (n c : Nat) (f : WriteSet → WriteSet) : (modWs n c f s).sys = s.sys := rfl
@[simp] theorem modWs_drw (n c : Nat) (f : WriteSet → WriteSet) : (modWs n c f s).drw = s.drw := rfl
@[simp] theorem modWs_dvt (n c : Nat) (f : WriteSet → WriteSet) : (modWs n c f s).dvt = s.dvt := rfl
@[simp] theorem modWs_wke (n c : Nat) (f : WriteSet → WriteSet) : (modWs n c f s).wke = s.wke := rfl
@[simp] theorem modWs_jig (n c : Nat) (f : WriteSet → WriteSet) : (modWs n c f s).jig = s.jig := rfl
@[simp] theorem modWs_dio (n c : Nat) (f : WriteSet → WriteSet) : (modWs n c f s).dio = s.dio := rfl
@[simp] theorem modWs_aio (n c : Nat) (f : WriteSet → WriteSet) : (modWs n c f s).aio = s.aio := rfl
@[simp] theorem modWs_lpe (n c : Nat) (f : WriteSet → WriteSet) : (modWs n c f s).lpe = s.lpe := rfl
@[simp] theorem modWs_rio (n c : Nat) (f : WriteSet → WriteSet) : (modWs n c f s).rio = s.rio := rfl
@[simp] theorem modWs_can (n c : Nat) (f : WriteSet → WriteSet) : (modWs n c f s).can = s.can := rfl
@[simp] theorem modWs_mac (n c : Nat) (f : WriteSet → WriteSet) : (modWs n c f s).mac = s.mac := rfl
@[simp] theorem modWs_ptp (n c : Nat) (f : WriteSet → WriteSet) : (modWs n c f s).ptp = s.ptp := rfl
@[simp] theorem modWs_rtc (n c : Nat) (f : WriteSet → WriteSet) : (modWs n c f s).rtc = s.rtc := rfl
@[simp] theorem modWs_evr (n c : Nat) (f : WriteSet → WriteSet) : (modWs n c f s).evr = s.evr := rfl
@[simp] theorem modWs_cvu (n c : Nat) (f : WriteSet → WriteSet) : (modWs n c f s).cvu = s.cvu := rfl
@[simp] theorem modWs_key (n c : Nat) (f : WriteSet → WriteSet) : (modWs n c f s).key = s.key := rfl
@[simp] theorem modWs_upd (n c : Nat) (f : WriteSet → WriteSet) : (modWs n c f s).upd = s.upd := rfl
@[simp] theorem modWs_hie (n c : Nat) (f : WriteSet → WriteSet) : (modWs n c f s).hie = s.hie := rfl
@[simp] theorem modWs_dbg (n c : Nat) (f : WriteSet → WriteSet) : (modWs n c f s).dbg = s.dbg := rfl
@[simp] theorem modWs_cores (n c : Nat) (f : WriteSet → WriteSet) : (modWs n c f s).cores = s.cores := rfl
@[simp] theorem modWs_enabled (n c : Nat) (f : WriteSet → WriteSet) : (modWs n c f s).enabled = s.enabled := rfl
@[simp] theorem modWs_declared (n c : Nat) (f : WriteSet → WriteSet) : (modWs n c f s).declared = s.declared := rfl
@[simp] theorem modWs_mem (n c : Nat) (f : WriteSet → WriteSet) : (modWs n c f s).mem = s.mem := rfl

/-! ### `modCore` -/

@[simp] theorem modCore_cores (c : Nat) (f : Core → Core) : (modCore c f s).cores = lmod s.cores c f := rfl
@[simp] theorem modCore_pending (c : Nat) (f : Core → Core) : (modCore c f s).pending = s.pending := rfl
@[simp] theorem modCore_answer (c : Nat) (f : Core → Core) : (modCore c f s).answer = s.answer := rfl
@[simp] theorem modCore_fresh (c : Nat) (f : Core → Core) : (modCore c f s).fresh = s.fresh := rfl
@[simp] theorem modCore_sys (c : Nat) (f : Core → Core) : (modCore c f s).sys = s.sys := rfl
@[simp] theorem modCore_drw (c : Nat) (f : Core → Core) : (modCore c f s).drw = s.drw := rfl
@[simp] theorem modCore_stk (c : Nat) (f : Core → Core) : (modCore c f s).stk = s.stk := rfl
@[simp] theorem modCore_dvt (c : Nat) (f : Core → Core) : (modCore c f s).dvt = s.dvt := rfl
@[simp] theorem modCore_wke (c : Nat) (f : Core → Core) : (modCore c f s).wke = s.wke := rfl
@[simp] theorem modCore_jig (c : Nat) (f : Core → Core) : (modCore c f s).jig = s.jig := rfl
@[simp] theorem modCore_dio (c : Nat) (f : Core → Core) : (modCore c f s).dio = s.dio := rfl
@[simp] theorem modCore_aio (c : Nat) (f : Core → Core) : (modCore c f s).aio = s.aio := rfl
@[simp] theorem modCore_lpe (c : Nat) (f : Core → Core) : (modCore c f s).lpe = s.lpe := rfl
@[simp] theorem modCore_rio (c : Nat) (f : Core → Core) : (modCore c f s).rio = s.rio := rfl
@[simp] theorem modCore_can (c : Nat) (f : Core → Core) : (modCore c f s).can = s.can := rfl
@[simp] theorem modCore_mac (c : Nat) (f : Core → Core) : (modCore c f s).mac = s.mac := rfl
@[simp] theorem modCore_ptp (c : Nat) (f : Core → Core) : (modCore c f s).ptp = s.ptp := rfl
@[simp] theorem modCore_rtc (c : Nat) (f : Core → Core) : (modCore c f s).rtc = s.rtc := rfl
@[simp] theorem modCore_evr (c : Nat) (f : Core → Core) : (modCore c f s).evr = s.evr := rfl
@[simp] theorem modCore_cvu (c : Nat) (f : Core → Core) : (modCore c f s).cvu = s.cvu := rfl
@[simp] theorem modCore_key (c : Nat) (f : Core → Core) : (modCore c f s).key = s.key := rfl
@[simp] theorem modCore_upd (c : Nat) (f : Core → Core) : (modCore c f s).upd = s.upd := rfl
@[simp] theorem modCore_hie (c : Nat) (f : Core → Core) : (modCore c f s).hie = s.hie := rfl
@[simp] theorem modCore_dbg (c : Nat) (f : Core → Core) : (modCore c f s).dbg = s.dbg := rfl
@[simp] theorem modCore_enabled (c : Nat) (f : Core → Core) : (modCore c f s).enabled = s.enabled := rfl
@[simp] theorem modCore_declared (c : Nat) (f : Core → Core) : (modCore c f s).declared = s.declared := rfl
@[simp] theorem modCore_mem (c : Nat) (f : Core → Core) : (modCore c f s).mem = s.mem := rfl

/-! ### `modTakeover` -/

@[simp] theorem modTakeover_pending (k : Nat) (l : List Nat) (f : Takeover → Takeover) : (modTakeover k l f s).pending = s.pending := rfl
@[simp] theorem modTakeover_answer (k : Nat) (l : List Nat) (f : Takeover → Takeover) : (modTakeover k l f s).answer = s.answer := rfl
@[simp] theorem modTakeover_fresh (k : Nat) (l : List Nat) (f : Takeover → Takeover) : (modTakeover k l f s).fresh = s.fresh := rfl
@[simp] theorem modTakeover_sys (k : Nat) (l : List Nat) (f : Takeover → Takeover) : (modTakeover k l f s).sys = s.sys := rfl
@[simp] theorem modTakeover_drw (k : Nat) (l : List Nat) (f : Takeover → Takeover) : (modTakeover k l f s).drw = s.drw := rfl
@[simp] theorem modTakeover_stk (k : Nat) (l : List Nat) (f : Takeover → Takeover) : (modTakeover k l f s).stk = s.stk := rfl
@[simp] theorem modTakeover_dvt (k : Nat) (l : List Nat) (f : Takeover → Takeover) : (modTakeover k l f s).dvt = s.dvt := rfl
@[simp] theorem modTakeover_jig (k : Nat) (l : List Nat) (f : Takeover → Takeover) : (modTakeover k l f s).jig = s.jig := rfl
@[simp] theorem modTakeover_dio (k : Nat) (l : List Nat) (f : Takeover → Takeover) : (modTakeover k l f s).dio = s.dio := rfl
@[simp] theorem modTakeover_aio (k : Nat) (l : List Nat) (f : Takeover → Takeover) : (modTakeover k l f s).aio = s.aio := rfl
@[simp] theorem modTakeover_lpe (k : Nat) (l : List Nat) (f : Takeover → Takeover) : (modTakeover k l f s).lpe = s.lpe := rfl
@[simp] theorem modTakeover_rio (k : Nat) (l : List Nat) (f : Takeover → Takeover) : (modTakeover k l f s).rio = s.rio := rfl
@[simp] theorem modTakeover_can (k : Nat) (l : List Nat) (f : Takeover → Takeover) : (modTakeover k l f s).can = s.can := rfl
@[simp] theorem modTakeover_mac (k : Nat) (l : List Nat) (f : Takeover → Takeover) : (modTakeover k l f s).mac = s.mac := rfl
@[simp] theorem modTakeover_ptp (k : Nat) (l : List Nat) (f : Takeover → Takeover) : (modTakeover k l f s).ptp = s.ptp := rfl
@[simp] theorem modTakeover_rtc (k : Nat) (l : List Nat) (f : Takeover → Takeover) : (modTakeover k l f s).rtc = s.rtc := rfl
@[simp] theorem modTakeover_evr (k : Nat) (l : List Nat) (f : Takeover → Takeover) : (modTakeover k l f s).evr = s.evr := rfl
@[simp] theorem modTakeover_cvu (k : Nat) (l : List Nat) (f : Takeover → Takeover) : (modTakeover k l f s).cvu = s.cvu := rfl
@[simp] theorem modTakeover_key (k : Nat) (l : List Nat) (f : Takeover → Takeover) : (modTakeover k l f s).key = s.key := rfl
@[simp] theorem modTakeover_upd (k : Nat) (l : List Nat) (f : Takeover → Takeover) : (modTakeover k l f s).upd = s.upd := rfl
@[simp] theorem modTakeover_hie (k : Nat) (l : List Nat) (f : Takeover → Takeover) : (modTakeover k l f s).hie = s.hie := rfl
@[simp] theorem modTakeover_dbg (k : Nat) (l : List Nat) (f : Takeover → Takeover) : (modTakeover k l f s).dbg = s.dbg := rfl
@[simp] theorem modTakeover_cores (k : Nat) (l : List Nat) (f : Takeover → Takeover) : (modTakeover k l f s).cores = s.cores := rfl
@[simp] theorem modTakeover_enabled (k : Nat) (l : List Nat) (f : Takeover → Takeover) : (modTakeover k l f s).enabled = s.enabled := rfl
@[simp] theorem modTakeover_declared (k : Nat) (l : List Nat) (f : Takeover → Takeover) : (modTakeover k l f s).declared = s.declared := rfl
@[simp] theorem modTakeover_mem (k : Nat) (l : List Nat) (f : Takeover → Takeover) : (modTakeover k l f s).mem = s.mem := rfl

/-! ### `modDi` -/

@[simp] theorem modDi_dio (n : Nat) (f : DiCh → DiCh) : (modDi n f s).dio = { s.dio with di := lmod s.dio.di n f } := rfl
@[simp] theorem modDi_pending (n : Nat) (f : DiCh → DiCh) : (modDi n f s).pending = s.pending := rfl
@[simp] theorem modDi_answer (n : Nat) (f : DiCh → DiCh) : (modDi n f s).answer = s.answer := rfl
@[simp] theorem modDi_fresh (n : Nat) (f : DiCh → DiCh) : (modDi n f s).fresh = s.fresh := rfl
@[simp] theorem modDi_sys (n : Nat) (f : DiCh → DiCh) : (modDi n f s).sys = s.sys := rfl
@[simp] theorem modDi_drw (n : Nat) (f : DiCh → DiCh) : (modDi n f s).drw = s.drw := rfl
@[simp] theorem modDi_stk (n : Nat) (f : DiCh → DiCh) : (modDi n f s).stk = s.stk := rfl
@[simp] theorem modDi_dvt (n : Nat) (f : DiCh → DiCh) : (modDi n f s).dvt = s.dvt := rfl
@[simp] theorem modDi_wke (n : Nat) (f : DiCh → DiCh) : (modDi n f s).wke = s.wke := rfl
@[simp] theorem modDi_jig (n : Nat) (f : DiCh → DiCh) : (modDi n f s).jig = s.jig := rfl
@[simp] theorem modDi_aio (n : Nat) (f : DiCh → DiCh) : (modDi n f s).aio = s.aio := rfl
@[simp] theorem modDi_lpe (n : Nat) (f : DiCh → DiCh) : (modDi n f s).lpe = s.lpe := rfl
@[simp] theorem modDi_rio (n : Nat) (f : DiCh → DiCh) : (modDi n f s).rio = s.rio := rfl
@[simp] theorem modDi_can (n : Nat) (f : DiCh → DiCh) : (modDi n f s).can = s.can := rfl
@[simp] theorem modDi_mac (n : Nat) (f : DiCh → DiCh) : (modDi n f s).mac = s.mac := rfl
@[simp] theorem modDi_ptp (n : Nat) (f : DiCh → DiCh) : (modDi n f s).ptp = s.ptp := rfl
@[simp] theorem modDi_rtc (n : Nat) (f : DiCh → DiCh) : (modDi n f s).rtc = s.rtc := rfl
@[simp] theorem modDi_evr (n : Nat) (f : DiCh → DiCh) : (modDi n f s).evr = s.evr := rfl
@[simp] theorem modDi_cvu (n : Nat) (f : DiCh → DiCh) : (modDi n f s).cvu = s.cvu := rfl
@[simp] theorem modDi_key (n : Nat) (f : DiCh → DiCh) : (modDi n f s).key = s.key := rfl
@[simp] theorem modDi_upd (n : Nat) (f : DiCh → DiCh) : (modDi n f s).upd = s.upd := rfl
@[simp] theorem modDi_hie (n : Nat) (f : DiCh → DiCh) : (modDi n f s).hie = s.hie := rfl
@[simp] theorem modDi_dbg (n : Nat) (f : DiCh → DiCh) : (modDi n f s).dbg = s.dbg := rfl
@[simp] theorem modDi_cores (n : Nat) (f : DiCh → DiCh) : (modDi n f s).cores = s.cores := rfl
@[simp] theorem modDi_enabled (n : Nat) (f : DiCh → DiCh) : (modDi n f s).enabled = s.enabled := rfl
@[simp] theorem modDi_declared (n : Nat) (f : DiCh → DiCh) : (modDi n f s).declared = s.declared := rfl
@[simp] theorem modDi_mem (n : Nat) (f : DiCh → DiCh) : (modDi n f s).mem = s.mem := rfl

/-! ### `modDo` -/

@[simp] theorem modDo_dio (n : Nat) (f : DoCh → DoCh) : (modDo n f s).dio = { s.dio with dout := lmod s.dio.dout n f } := rfl
@[simp] theorem modDo_pending (n : Nat) (f : DoCh → DoCh) : (modDo n f s).pending = s.pending := rfl
@[simp] theorem modDo_answer (n : Nat) (f : DoCh → DoCh) : (modDo n f s).answer = s.answer := rfl
@[simp] theorem modDo_fresh (n : Nat) (f : DoCh → DoCh) : (modDo n f s).fresh = s.fresh := rfl
@[simp] theorem modDo_sys (n : Nat) (f : DoCh → DoCh) : (modDo n f s).sys = s.sys := rfl
@[simp] theorem modDo_drw (n : Nat) (f : DoCh → DoCh) : (modDo n f s).drw = s.drw := rfl
@[simp] theorem modDo_stk (n : Nat) (f : DoCh → DoCh) : (modDo n f s).stk = s.stk := rfl
@[simp] theorem modDo_dvt (n : Nat) (f : DoCh → DoCh) : (modDo n f s).dvt = s.dvt := rfl
@[simp] theorem modDo_wke (n : Nat) (f : DoCh → DoCh) : (modDo n f s).wke = s.wke := rfl
@[simp] theorem modDo_jig (n : Nat) (f : DoCh → DoCh) : (modDo n f s).jig = s.jig := rfl
@[simp] theorem modDo_aio (n : Nat) (f : DoCh → DoCh) : (modDo n f s).aio = s.aio := rfl
@[simp] theorem modDo_lpe (n : Nat) (f : DoCh → DoCh) : (modDo n f s).lpe = s.lpe := rfl
@[simp] theorem modDo_rio (n : Nat) (f : DoCh → DoCh) : (modDo n f s).rio = s.rio := rfl
@[simp] theorem modDo_can (n : Nat) (f : DoCh → DoCh) : (modDo n f s).can = s.can := rfl
@[simp] theorem modDo_mac (n : Nat) (f : DoCh → DoCh) : (modDo n f s).mac = s.mac := rfl
@[simp] theorem modDo_ptp (n : Nat) (f : DoCh → DoCh) : (modDo n f s).ptp = s.ptp := rfl
@[simp] theorem modDo_rtc (n : Nat) (f : DoCh → DoCh) : (modDo n f s).rtc = s.rtc := rfl
@[simp] theorem modDo_evr (n : Nat) (f : DoCh → DoCh) : (modDo n f s).evr = s.evr := rfl
@[simp] theorem modDo_cvu (n : Nat) (f : DoCh → DoCh) : (modDo n f s).cvu = s.cvu := rfl
@[simp] theorem modDo_key (n : Nat) (f : DoCh → DoCh) : (modDo n f s).key = s.key := rfl
@[simp] theorem modDo_upd (n : Nat) (f : DoCh → DoCh) : (modDo n f s).upd = s.upd := rfl
@[simp] theorem modDo_hie (n : Nat) (f : DoCh → DoCh) : (modDo n f s).hie = s.hie := rfl
@[simp] theorem modDo_dbg (n : Nat) (f : DoCh → DoCh) : (modDo n f s).dbg = s.dbg := rfl
@[simp] theorem modDo_cores (n : Nat) (f : DoCh → DoCh) : (modDo n f s).cores = s.cores := rfl
@[simp] theorem modDo_enabled (n : Nat) (f : DoCh → DoCh) : (modDo n f s).enabled = s.enabled := rfl
@[simp] theorem modDo_declared (n : Nat) (f : DoCh → DoCh) : (modDo n f s).declared = s.declared := rfl
@[simp] theorem modDo_mem (n : Nat) (f : DoCh → DoCh) : (modDo n f s).mem = s.mem := rfl

/-! ### `modGrp` -/

@[simp] theorem modGrp_dio (g : Nat) (f : Group → Group) : (modGrp g f s).dio = { s.dio with groups := lmod s.dio.groups g f } := rfl
@[simp] theorem modGrp_pending (g : Nat) (f : Group → Group) : (modGrp g f s).pending = s.pending := rfl
@[simp] theorem modGrp_answer (g : Nat) (f : Group → Group) : (modGrp g f s).answer = s.answer := rfl
@[simp] theorem modGrp_fresh (g : Nat) (f : Group → Group) : (modGrp g f s).fresh = s.fresh := rfl
@[simp] theorem modGrp_sys (g : Nat) (f : Group → Group) : (modGrp g f s).sys = s.sys := rfl
@[simp] theorem modGrp_drw (g : Nat) (f : Group → Group) : (modGrp g f s).drw = s.drw := rfl
@[simp] theorem modGrp_stk (g : Nat) (f : Group → Group) : (modGrp g f s).stk = s.stk := rfl
@[simp] theorem modGrp_dvt (g : Nat) (f : Group → Group) : (modGrp g f s).dvt = s.dvt := rfl
@[simp] theorem modGrp_wke (g : Nat) (f : Group → Group) : (modGrp g f s).wke = s.wke := rfl
@[simp] theorem modGrp_jig (g : Nat) (f : Group → Group) : (modGrp g f s).jig = s.jig := rfl
@[simp] theorem modGrp_aio (g : Nat) (f : Group → Group) : (modGrp g f s).aio = s.aio := rfl
@[simp] theorem modGrp_lpe (g : Nat) (f : Group → Group) : (modGrp g f s).lpe = s.lpe := rfl
@[simp] theorem modGrp_rio (g : Nat) (f : Group → Group) : (modGrp g f s).rio = s.rio := rfl
@[simp] theorem modGrp_can (g : Nat) (f : Group → Group) : (modGrp g f s).can = s.can := rfl
@[simp] theorem modGrp_mac (g : Nat) (f : Group → Group) : (modGrp g f s).mac = s.mac := rfl
@[simp] theorem modGrp_ptp (g : Nat) (f : Group → Group) : (modGrp g f s).ptp = s.ptp := rfl
@[simp] theorem modGrp_rtc (g : Nat) (f : Group → Group) : (modGrp g f s).rtc = s.rtc := rfl
@[simp] theorem modGrp_evr (g : Nat) (f : Group → Group) : (modGrp g f s).evr = s.evr := rfl
@[simp] theorem modGrp_cvu (g : Nat) (f : Group → Group) : (modGrp g f s).cvu = s.cvu := rfl
@[simp] theorem modGrp_key (g : Nat) (f : Group → Group) : (modGrp g f s).key = s.key := rfl
@[simp] theorem modGrp_upd (g : Nat) (f : Group → Group) : (modGrp g f s).upd = s.upd := rfl
@[simp] theorem modGrp_hie (g : Nat) (f : Group → Group) : (modGrp g f s).hie = s.hie := rfl
@[simp] theorem modGrp_dbg (g : Nat) (f : Group → Group) : (modGrp g f s).dbg = s.dbg := rfl
@[simp] theorem modGrp_cores (g : Nat) (f : Group → Group) : (modGrp g f s).cores = s.cores := rfl
@[simp] theorem modGrp_enabled (g : Nat) (f : Group → Group) : (modGrp g f s).enabled = s.enabled := rfl
@[simp] theorem modGrp_declared (g : Nat) (f : Group → Group) : (modGrp g f s).declared = s.declared := rfl
@[simp] theorem modGrp_mem (g : Nat) (f : Group → Group) : (modGrp g f s).mem = s.mem := rfl

/-! ### `modAio` -/

@[simp] theorem modAio_aio (n : Nat) (f : AioCh → AioCh) : (modAio n f s).aio = { s.aio with ch := lmod s.aio.ch n f } := rfl
@[simp] theorem modAio_pending (n : Nat) (f : AioCh → AioCh) : (modAio n f s).pending = s.pending := rfl
@[simp] theorem modAio_answer (n : Nat) (f : AioCh → AioCh) : (modAio n f s).answer = s.answer := rfl
@[simp] theorem modAio_fresh (n : Nat) (f : AioCh → AioCh) : (modAio n f s).fresh = s.fresh := rfl
@[simp] theorem modAio_sys (n : Nat) (f : AioCh → AioCh) : (modAio n f s).sys = s.sys := rfl
@[simp] theorem modAio_drw (n : Nat) (f : AioCh → AioCh) : (modAio n f s).drw = s.drw := rfl
@[simp] theorem modAio_stk (n : Nat) (f : AioCh → AioCh) : (modAio n f s).stk = s.stk := rfl
@[simp] theorem modAio_dvt (n : Nat) (f : AioCh → AioCh) : (modAio n f s).dvt = s.dvt := rfl
@[simp] theorem modAio_wke (n : Nat) (f : AioCh → AioCh) : (modAio n f s).wke = s.wke := rfl
@[simp] theorem modAio_jig (n : Nat) (f : AioCh → AioCh) : (modAio n f s).jig = s.jig := rfl
@[simp] theorem modAio_dio (n : Nat) (f : AioCh → AioCh) : (modAio n f s).dio = s.dio := rfl
@[simp] theorem modAio_lpe (n : Nat) (f : AioCh → AioCh) : (modAio n f s).lpe = s.lpe := rfl
@[simp] theorem modAio_rio (n : Nat) (f : AioCh → AioCh) : (modAio n f s).rio = s.rio := rfl
@[simp] theorem modAio_can (n : Nat) (f : AioCh → AioCh) : (modAio n f s).can = s.can := rfl
@[simp] theorem modAio_mac (n : Nat) (f : AioCh → AioCh) : (modAio n f s).mac = s.mac := rfl
@[simp] theorem modAio_ptp (n : Nat) (f : AioCh → AioCh) : (modAio n f s).ptp = s.ptp := rfl
@[simp] theorem modAio_rtc (n : Nat) (f : AioCh → AioCh) : (modAio n f s).rtc = s.rtc := rfl
@[simp] theorem modAio_evr (n : Nat) (f : AioCh → AioCh) : (modAio n f s).evr = s.evr := rfl
@[simp] theorem modAio_cvu (n : Nat) (f : AioCh → AioCh) : (modAio n f s).cvu = s.cvu := rfl
@[simp] theorem modAio_key (n : Nat) (f : AioCh → AioCh) : (modAio n f s).key = s.key := rfl
@[simp] theorem modAio_upd (n : Nat) (f : AioCh → AioCh) : (modAio n f s).upd = s.upd := rfl
@[simp] theorem modAio_hie (n : Nat) (f : AioCh → AioCh) : (modAio n f s).hie = s.hie := rfl
@[simp] theorem modAio_dbg (n : Nat) (f : AioCh → AioCh) : (modAio n f s).dbg = s.dbg := rfl
@[simp] theorem modAio_cores (n : Nat) (f : AioCh → AioCh) : (modAio n f s).cores = s.cores := rfl
@[simp] theorem modAio_enabled (n : Nat) (f : AioCh → AioCh) : (modAio n f s).enabled = s.enabled := rfl
@[simp] theorem modAio_declared (n : Nat) (f : AioCh → AioCh) : (modAio n f s).declared = s.declared := rfl
@[simp] theorem modAio_mem (n : Nat) (f : AioCh → AioCh) : (modAio n f s).mem = s.mem := rfl

/-! ### `modLoop` -/

@[simp] theorem modLoop_pending (n : Nat) (f : LoopSlot → LoopSlot) : (modLoop n f s).pending = s.pending := by unfold modLoop; split <;> rfl
@[simp] theorem modLoop_answer (n : Nat) (f : LoopSlot → LoopSlot) : (modLoop n f s).answer = s.answer := by unfold modLoop; split <;> rfl
@[simp] theorem modLoop_fresh (n : Nat) (f : LoopSlot → LoopSlot) : (modLoop n f s).fresh = s.fresh := by unfold modLoop; split <;> rfl
@[simp] theorem modLoop_sys (n : Nat) (f : LoopSlot → LoopSlot) : (modLoop n f s).sys = s.sys := by unfold modLoop; split <;> rfl
@[simp] theorem modLoop_drw (n : Nat) (f : LoopSlot → LoopSlot) : (modLoop n f s).drw = s.drw := by unfold modLoop; split <;> rfl
@[simp] theorem modLoop_stk (n : Nat) (f : LoopSlot → LoopSlot) : (modLoop n f s).stk = s.stk := by unfold modLoop; split <;> rfl
@[simp] theorem modLoop_dvt (n : Nat) (f : LoopSlot → LoopSlot) : (modLoop n f s).dvt = s.dvt := by unfold modLoop; split <;> rfl
@[simp] theorem modLoop_wke (n : Nat) (f : LoopSlot → LoopSlot) : (modLoop n f s).wke = s.wke := by unfold modLoop; split <;> rfl
@[simp] theorem modLoop_jig (n : Nat) (f : LoopSlot → LoopSlot) : (modLoop n f s).jig = s.jig := by unfold modLoop; split <;> rfl
@[simp] theorem modLoop_dio (n : Nat) (f : LoopSlot → LoopSlot) : (modLoop n f s).dio = s.dio := by unfold modLoop; split <;> rfl
@[simp] theorem modLoop_aio (n : Nat) (f : LoopSlot → LoopSlot) : (modLoop n f s).aio = s.aio := by unfold modLoop; split <;> rfl
@[simp] theorem modLoop_rio (n : Nat) (f : LoopSlot → LoopSlot) : (modLoop n f s).rio = s.rio := by unfold modLoop; split <;> rfl
@[simp] theorem modLoop_can (n : Nat) (f : LoopSlot → LoopSlot) : (modLoop n f s).can = s.can := by unfold modLoop; split <;> rfl
@[simp] theorem modLoop_mac (n : Nat) (f : LoopSlot → LoopSlot) : (modLoop n f s).mac = s.mac := by unfold modLoop; split <;> rfl
@[simp] theorem modLoop_ptp (n : Nat) (f : LoopSlot → LoopSlot) : (modLoop n f s).ptp = s.ptp := by unfold modLoop; split <;> rfl
@[simp] theorem modLoop_rtc (n : Nat) (f : LoopSlot → LoopSlot) : (modLoop n f s).rtc = s.rtc := by unfold modLoop; split <;> rfl
@[simp] theorem modLoop_evr (n : Nat) (f : LoopSlot → LoopSlot) : (modLoop n f s).evr = s.evr := by unfold modLoop; split <;> rfl
@[simp] theorem modLoop_cvu (n : Nat) (f : LoopSlot → LoopSlot) : (modLoop n f s).cvu = s.cvu := by unfold modLoop; split <;> rfl
@[simp] theorem modLoop_key (n : Nat) (f : LoopSlot → LoopSlot) : (modLoop n f s).key = s.key := by unfold modLoop; split <;> rfl
@[simp] theorem modLoop_upd (n : Nat) (f : LoopSlot → LoopSlot) : (modLoop n f s).upd = s.upd := by unfold modLoop; split <;> rfl
@[simp] theorem modLoop_hie (n : Nat) (f : LoopSlot → LoopSlot) : (modLoop n f s).hie = s.hie := by unfold modLoop; split <;> rfl
@[simp] theorem modLoop_dbg (n : Nat) (f : LoopSlot → LoopSlot) : (modLoop n f s).dbg = s.dbg := by unfold modLoop; split <;> rfl
@[simp] theorem modLoop_cores (n : Nat) (f : LoopSlot → LoopSlot) : (modLoop n f s).cores = s.cores := by unfold modLoop; split <;> rfl
@[simp] theorem modLoop_enabled (n : Nat) (f : LoopSlot → LoopSlot) : (modLoop n f s).enabled = s.enabled := by unfold modLoop; split <;> rfl
@[simp] theorem modLoop_declared (n : Nat) (f : LoopSlot → LoopSlot) : (modLoop n f s).declared = s.declared := by unfold modLoop; split <;> rfl
@[simp] theorem modLoop_mem (n : Nat) (f : LoopSlot → LoopSlot) : (modLoop n f s).mem = s.mem := by unfold modLoop; split <;> rfl

/-! ### `modSta` -/

@[simp] theorem modSta_pending (k : Nat) (f : Station → Station) : (modSta k f s).pending = s.pending := by unfold modSta; split <;> rfl
@[simp] theorem modSta_answer (k : Nat) (f : Station → Station) : (modSta k f s).answer = s.answer := by unfold modSta; split <;> rfl
@[simp] theorem modSta_fresh (k : Nat) (f : Station → Station) : (modSta k f s).fresh = s.fresh := by unfold modSta; split <;> rfl
@[simp] theorem modSta_sys (k : Nat) (f : Station → Station) : (modSta k f s).sys = s.sys := by unfold modSta; split <;> rfl
@[simp] theorem modSta_drw (k : Nat) (f : Station → Station) : (modSta k f s).drw = s.drw := by unfold modSta; split <;> rfl
@[simp] theorem modSta_stk (k : Nat) (f : Station → Station) : (modSta k f s).stk = s.stk := by unfold modSta; split <;> rfl
@[simp] theorem modSta_dvt (k : Nat) (f : Station → Station) : (modSta k f s).dvt = s.dvt := by unfold modSta; split <;> rfl
@[simp] theorem modSta_wke (k : Nat) (f : Station → Station) : (modSta k f s).wke = s.wke := by unfold modSta; split <;> rfl
@[simp] theorem modSta_jig (k : Nat) (f : Station → Station) : (modSta k f s).jig = s.jig := by unfold modSta; split <;> rfl
@[simp] theorem modSta_dio (k : Nat) (f : Station → Station) : (modSta k f s).dio = s.dio := by unfold modSta; split <;> rfl
@[simp] theorem modSta_aio (k : Nat) (f : Station → Station) : (modSta k f s).aio = s.aio := by unfold modSta; split <;> rfl
@[simp] theorem modSta_lpe (k : Nat) (f : Station → Station) : (modSta k f s).lpe = s.lpe := by unfold modSta; split <;> rfl
@[simp] theorem modSta_can (k : Nat) (f : Station → Station) : (modSta k f s).can = s.can := by unfold modSta; split <;> rfl
@[simp] theorem modSta_mac (k : Nat) (f : Station → Station) : (modSta k f s).mac = s.mac := by unfold modSta; split <;> rfl
@[simp] theorem modSta_ptp (k : Nat) (f : Station → Station) : (modSta k f s).ptp = s.ptp := by unfold modSta; split <;> rfl
@[simp] theorem modSta_rtc (k : Nat) (f : Station → Station) : (modSta k f s).rtc = s.rtc := by unfold modSta; split <;> rfl
@[simp] theorem modSta_evr (k : Nat) (f : Station → Station) : (modSta k f s).evr = s.evr := by unfold modSta; split <;> rfl
@[simp] theorem modSta_cvu (k : Nat) (f : Station → Station) : (modSta k f s).cvu = s.cvu := by unfold modSta; split <;> rfl
@[simp] theorem modSta_key (k : Nat) (f : Station → Station) : (modSta k f s).key = s.key := by unfold modSta; split <;> rfl
@[simp] theorem modSta_upd (k : Nat) (f : Station → Station) : (modSta k f s).upd = s.upd := by unfold modSta; split <;> rfl
@[simp] theorem modSta_hie (k : Nat) (f : Station → Station) : (modSta k f s).hie = s.hie := by unfold modSta; split <;> rfl
@[simp] theorem modSta_dbg (k : Nat) (f : Station → Station) : (modSta k f s).dbg = s.dbg := by unfold modSta; split <;> rfl
@[simp] theorem modSta_cores (k : Nat) (f : Station → Station) : (modSta k f s).cores = s.cores := by unfold modSta; split <;> rfl
@[simp] theorem modSta_enabled (k : Nat) (f : Station → Station) : (modSta k f s).enabled = s.enabled := by unfold modSta; split <;> rfl
@[simp] theorem modSta_declared (k : Nat) (f : Station → Station) : (modSta k f s).declared = s.declared := by unfold modSta; split <;> rfl
@[simp] theorem modSta_mem (k : Nat) (f : Station → Station) : (modSta k f s).mem = s.mem := by unfold modSta; split <;> rfl

/-! ### `modCan` -/

@[simp] theorem modCan_can (n : Nat) (f : Can → Can) : (modCan n f s).can = lmod s.can n f := rfl
@[simp] theorem modCan_pending (n : Nat) (f : Can → Can) : (modCan n f s).pending = s.pending := rfl
@[simp] theorem modCan_answer (n : Nat) (f : Can → Can) : (modCan n f s).answer = s.answer := rfl
@[simp] theorem modCan_fresh (n : Nat) (f : Can → Can) : (modCan n f s).fresh = s.fresh := rfl
@[simp] theorem modCan_sys (n : Nat) (f : Can → Can) : (modCan n f s).sys = s.sys := rfl
@[simp] theorem modCan_drw (n : Nat) (f : Can → Can) : (modCan n f s).drw = s.drw := rfl
@[simp] theorem modCan_stk (n : Nat) (f : Can → Can) : (modCan n f s).stk = s.stk := rfl
@[simp] theorem modCan_dvt (n : Nat) (f : Can → Can) : (modCan n f s).dvt = s.dvt := rfl
@[simp] theorem modCan_wke (n : Nat) (f : Can → Can) : (modCan n f s).wke = s.wke := rfl
@[simp] theorem modCan_jig (n : Nat) (f : Can → Can) : (modCan n f s).jig = s.jig := rfl
@[simp] theorem modCan_dio (n : Nat) (f : Can → Can) : (modCan n f s).dio = s.dio := rfl
@[simp] theorem modCan_aio (n : Nat) (f : Can → Can) : (modCan n f s).aio = s.aio := rfl
@[simp] theorem modCan_lpe (n : Nat) (f : Can → Can) : (modCan n f s).lpe = s.lpe := rfl
@[simp] theorem modCan_rio (n : Nat) (f : Can → Can) : (modCan n f s).rio = s.rio := rfl
@[simp] theorem modCan_mac (n : Nat) (f : Can → Can) : (modCan n f s).mac = s.mac := rfl
@[simp] theorem modCan_ptp (n : Nat) (f : Can → Can) : (modCan n f s).ptp = s.ptp := rfl
@[simp] theorem modCan_rtc (n : Nat) (f : Can → Can) : (modCan n f s).rtc = s.rtc := rfl
@[simp] theorem modCan_evr (n : Nat) (f : Can → Can) : (modCan n f s).evr = s.evr := rfl
@[simp] theorem modCan_cvu (n : Nat) (f : Can → Can) : (modCan n f s).cvu = s.cvu := rfl
@[simp] theorem modCan_key (n : Nat) (f : Can → Can) : (modCan n f s).key = s.key := rfl
@[simp] theorem modCan_upd (n : Nat) (f : Can → Can) : (modCan n f s).upd = s.upd := rfl
@[simp] theorem modCan_hie (n : Nat) (f : Can → Can) : (modCan n f s).hie = s.hie := rfl
@[simp] theorem modCan_dbg (n : Nat) (f : Can → Can) : (modCan n f s).dbg = s.dbg := rfl
@[simp] theorem modCan_cores (n : Nat) (f : Can → Can) : (modCan n f s).cores = s.cores := rfl
@[simp] theorem modCan_enabled (n : Nat) (f : Can → Can) : (modCan n f s).enabled = s.enabled := rfl
@[simp] theorem modCan_declared (n : Nat) (f : Can → Can) : (modCan n f s).declared = s.declared := rfl
@[simp] theorem modCan_mem (n : Nat) (f : Can → Can) : (modCan n f s).mem = s.mem := rfl

/-! ### `modBuf` -/

@[simp] theorem modBuf_can (n b : Nat) (f : CanBuf → CanBuf) : (modBuf n b f s).can = lmod s.can n (fun c => { c with bufs := lmod c.bufs b f }) := rfl
@[simp] theorem modBuf_pending (n b : Nat) (f : CanBuf → CanBuf) : (modBuf n b f s).pending = s.pending := rfl
@[simp] theorem modBuf_answer (n b : Nat) (f : CanBuf → CanBuf) : (modBuf n b f s).answer = s.answer := rfl
@[simp] theorem modBuf_fresh (n b : Nat) (f : CanBuf → CanBuf) : (modBuf n b f s).fresh = s.fresh := rfl
@[simp] theorem modBuf_sys (n b : Nat) (f : CanBuf → CanBuf) : (modBuf n b f s).sys = s.sys := rfl
@[simp] theorem modBuf_drw (n b : Nat) (f : CanBuf → CanBuf) : (modBuf n b f s).drw = s.drw := rfl
@[simp] theorem modBuf_stk (n b : Nat) (f : CanBuf → CanBuf) : (modBuf n b f s).stk = s.stk := rfl
@[simp] theorem modBuf_dvt (n b : Nat) (f : CanBuf → CanBuf) : (modBuf n b f s).dvt = s.dvt := rfl
@[simp] theorem modBuf_wke (n b : Nat) (f : CanBuf → CanBuf) : (modBuf n b f s).wke = s.wke := rfl
@[simp] theorem modBuf_jig (n b : Nat) (f : CanBuf → CanBuf) : (modBuf n b f s).jig = s.jig := rfl
@[simp] theorem modBuf_dio (n b : Nat) (f : CanBuf → CanBuf) : (modBuf n b f s).dio = s.dio := rfl
@[simp] theorem modBuf_aio (n b : Nat) (f : CanBuf → CanBuf) : (modBuf n b f s).aio = s.aio := rfl
@[simp] theorem modBuf_lpe (n b : Nat) (f : CanBuf → CanBuf) : (modBuf n b f s).lpe = s.lpe := rfl
@[simp] theorem modBuf_rio (n b : Nat) (f : CanBuf → CanBuf) : (modBuf n b f s).rio = s.rio := rfl
@[simp] theorem modBuf_mac (n b : Nat) (f : CanBuf → CanBuf) : (modBuf n b f s).mac = s.mac := rfl
@[simp] theorem modBuf_ptp (n b : Nat) (f : CanBuf → CanBuf) : (modBuf n b f s).ptp = s.ptp := rfl
@[simp] theorem modBuf_rtc (n b : Nat) (f : CanBuf → CanBuf) : (modBuf n b f s).rtc = s.rtc := rfl
@[simp] theorem modBuf_evr (n b : Nat) (f : CanBuf → CanBuf) : (modBuf n b f s).evr = s.evr := rfl
@[simp] theorem modBuf_cvu (n b : Nat) (f : CanBuf → CanBuf) : (modBuf n b f s).cvu = s.cvu := rfl
@[simp] theorem modBuf_key (n b : Nat) (f : CanBuf → CanBuf) : (modBuf n b f s).key = s.key := rfl
@[simp] theorem modBuf_upd (n b : Nat) (f : CanBuf → CanBuf) : (modBuf n b f s).upd = s.upd := rfl
@[simp] theorem modBuf_hie (n b : Nat) (f : CanBuf → CanBuf) : (modBuf n b f s).hie = s.hie := rfl
@[simp] theorem modBuf_dbg (n b : Nat) (f : CanBuf → CanBuf) : (modBuf n b f s).dbg = s.dbg := rfl
@[simp] theorem modBuf_cores (n b : Nat) (f : CanBuf → CanBuf) : (modBuf n b f s).cores = s.cores := rfl
@[simp] theorem modBuf_enabled (n b : Nat) (f : CanBuf → CanBuf) : (modBuf n b f s).enabled = s.enabled := rfl
@[simp] theorem modBuf_declared (n b : Nat) (f : CanBuf → CanBuf) : (modBuf n b f s).declared = s.declared := rfl
@[simp] theorem modBuf_mem (n b : Nat) (f : CanBuf → CanBuf) : (modBuf n b f s).mem = s.mem := rfl

/-! ### `modQueue` -/

@[simp] theorem modQueue_can (n q : Nat) (f : CanQueue → CanQueue) : (modQueue n q f s).can = lmod s.can n (fun c => { c with queues := lmod c.queues q f }) := rfl
@[simp] theorem modQueue_pending (n q : Nat) (f : CanQueue → CanQueue) : (modQueue n q f s).pending = s.pending := rfl
@[simp] theorem modQueue_answer (n q : Nat) (f : CanQueue → CanQueue) : (modQueue n q f s).answer = s.answer := rfl
@[simp] theorem modQueue_fresh (n q : Nat) (f : CanQueue → CanQueue) : (modQueue n q f s).fresh = s.fresh := rfl
@[simp] theorem modQueue_sys (n q : Nat) (f : CanQueue → CanQueue) : (modQueue n q f s).sys = s.sys := rfl
@[simp] theorem modQueue_drw (n q : Nat) (f : CanQueue → CanQueue) : (modQueue n q f s).drw = s.drw := rfl
@[simp] theorem modQueue_stk (n q : Nat) (f : CanQueue → CanQueue) : (modQueue n q f s).stk = s.stk := rfl
@[simp] theorem modQueue_dvt (n q : Nat) (f : CanQueue → CanQueue) : (modQueue n q f s).dvt = s.dvt := rfl
@[simp] theorem modQueue_wke (n q : Nat) (f : CanQueue → CanQueue) : (modQueue n q f s).wke = s.wke := rfl
@[simp] theorem modQueue_jig (n q : Nat) (f : CanQueue → CanQueue) : (modQueue n q f s).jig = s.jig := rfl
@[simp] theorem modQueue_dio (n q : Nat) (f : CanQueue → CanQueue) : (modQueue n q f s).dio = s.dio := rfl
@[simp] theorem modQueue_aio (n q : Nat) (f : CanQueue → CanQueue) : (modQueue n q f s).aio = s.aio := rfl
@[simp] theorem modQueue_lpe (n q : Nat) (f : CanQueue → CanQueue) : (modQueue n q f s).lpe = s.lpe := rfl
@[simp] theorem modQueue_rio (n q : Nat) (f : CanQueue → CanQueue) : (modQueue n q f s).rio = s.rio := rfl
@[simp] theorem modQueue_mac (n q : Nat) (f : CanQueue → CanQueue) : (modQueue n q f s).mac = s.mac := rfl
@[simp] theorem modQueue_ptp (n q : Nat) (f : CanQueue → CanQueue) : (modQueue n q f s).ptp = s.ptp := rfl
@[simp] theorem modQueue_rtc (n q : Nat) (f : CanQueue → CanQueue) : (modQueue n q f s).rtc = s.rtc := rfl
@[simp] theorem modQueue_evr (n q : Nat) (f : CanQueue → CanQueue) : (modQueue n q f s).evr = s.evr := rfl
@[simp] theorem modQueue_cvu (n q : Nat) (f : CanQueue → CanQueue) : (modQueue n q f s).cvu = s.cvu := rfl
@[simp] theorem modQueue_key (n q : Nat) (f : CanQueue → CanQueue) : (modQueue n q f s).key = s.key := rfl
@[simp] theorem modQueue_upd (n q : Nat) (f : CanQueue → CanQueue) : (modQueue n q f s).upd = s.upd := rfl
@[simp] theorem modQueue_hie (n q : Nat) (f : CanQueue → CanQueue) : (modQueue n q f s).hie = s.hie := rfl
@[simp] theorem modQueue_dbg (n q : Nat) (f : CanQueue → CanQueue) : (modQueue n q f s).dbg = s.dbg := rfl
@[simp] theorem modQueue_cores (n q : Nat) (f : CanQueue → CanQueue) : (modQueue n q f s).cores = s.cores := rfl
@[simp] theorem modQueue_enabled (n q : Nat) (f : CanQueue → CanQueue) : (modQueue n q f s).enabled = s.enabled := rfl
@[simp] theorem modQueue_declared (n q : Nat) (f : CanQueue → CanQueue) : (modQueue n q f s).declared = s.declared := rfl
@[simp] theorem modQueue_mem (n q : Nat) (f : CanQueue → CanQueue) : (modQueue n q f s).mem = s.mem := rfl

/-! ### `modMac` -/

@[simp] theorem modMac_mac (m : Nat) (f : Mac → Mac) : (modMac m f s).mac = lmod s.mac m f := rfl
@[simp] theorem modMac_pending (m : Nat) (f : Mac → Mac) : (modMac m f s).pending = s.pending := rfl
@[simp] theorem modMac_answer (m : Nat) (f : Mac → Mac) : (modMac m f s).answer = s.answer := rfl
@[simp] theorem modMac_fresh (m : Nat) (f : Mac → Mac) : (modMac m f s).fresh = s.fresh := rfl
@[simp] theorem modMac_sys (m : Nat) (f : Mac → Mac) : (modMac m f s).sys = s.sys := rfl
@[simp] theorem modMac_drw (m : Nat) (f : Mac → Mac) : (modMac m f s).drw = s.drw := rfl
@[simp] theorem modMac_stk (m : Nat) (f : Mac → Mac) : (modMac m f s).stk = s.stk := rfl
@[simp] theorem modMac_dvt (m : Nat) (f : Mac → Mac) : (modMac m f s).dvt = s.dvt := rfl
@[simp] theorem modMac_wke (m : Nat) (f : Mac → Mac) : (modMac m f s).wke = s.wke := rfl
@[simp] theorem modMac_jig (m : Nat) (f : Mac → Mac) : (modMac m f s).jig = s.jig := rfl
@[simp] theorem modMac_dio (m : Nat) (f : Mac → Mac) : (modMac m f s).dio = s.dio := rfl
@[simp] theorem modMac_aio (m : Nat) (f : Mac → Mac) : (modMac m f s).aio = s.aio := rfl
@[simp] theorem modMac_lpe (m : Nat) (f : Mac → Mac) : (modMac m f s).lpe = s.lpe := rfl
@[simp] theorem modMac_rio (m : Nat) (f : Mac → Mac) : (modMac m f s).rio = s.rio := rfl
@[simp] theorem modMac_can (m : Nat) (f : Mac → Mac) : (modMac m f s).can = s.can := rfl
@[simp] theorem modMac_ptp (m : Nat) (f : Mac → Mac) : (modMac m f s).ptp = s.ptp := rfl
@[simp] theorem modMac_rtc (m : Nat) (f : Mac → Mac) : (modMac m f s).rtc = s.rtc := rfl
@[simp] theorem modMac_evr (m : Nat) (f : Mac → Mac) : (modMac m f s).evr = s.evr := rfl
@[simp] theorem modMac_cvu (m : Nat) (f : Mac → Mac) : (modMac m f s).cvu = s.cvu := rfl
@[simp] theorem modMac_key (m : Nat) (f : Mac → Mac) : (modMac m f s).key = s.key := rfl
@[simp] theorem modMac_upd (m : Nat) (f : Mac → Mac) : (modMac m f s).upd = s.upd := rfl
@[simp] theorem modMac_hie (m : Nat) (f : Mac → Mac) : (modMac m f s).hie = s.hie := rfl
@[simp] theorem modMac_dbg (m : Nat) (f : Mac → Mac) : (modMac m f s).dbg = s.dbg := rfl
@[simp] theorem modMac_cores (m : Nat) (f : Mac → Mac) : (modMac m f s).cores = s.cores := rfl
@[simp] theorem modMac_enabled (m : Nat) (f : Mac → Mac) : (modMac m f s).enabled = s.enabled := rfl
@[simp] theorem modMac_declared (m : Nat) (f : Mac → Mac) : (modMac m f s).declared = s.declared := rfl
@[simp] theorem modMac_mem (m : Nat) (f : Mac → Mac) : (modMac m f s).mem = s.mem := rfl

/-! ### `modRing` -/

@[simp] theorem modRing_pending (m : Nat) (q : Bool) (i : Nat) (f : Ring → Ring) : (modRing m q i f s).pending = s.pending := rfl
@[simp] theorem modRing_answer (m : Nat) (q : Bool) (i : Nat) (f : Ring → Ring) : (modRing m q i f s).answer = s.answer := rfl
@[simp] theorem modRing_fresh (m : Nat) (q : Bool) (i : Nat) (f : Ring → Ring) : (modRing m q i f s).fresh = s.fresh := rfl
@[simp] theorem modRing_sys (m : Nat) (q : Bool) (i : Nat) (f : Ring → Ring) : (modRing m q i f s).sys = s.sys := rfl
@[simp] theorem modRing_drw (m : Nat) (q : Bool) (i : Nat) (f : Ring → Ring) : (modRing m q i f s).drw = s.drw := rfl
@[simp] theorem modRing_stk (m : Nat) (q : Bool) (i : Nat) (f : Ring → Ring) : (modRing m q i f s).stk = s.stk := rfl
@[simp] theorem modRing_dvt (m : Nat) (q : Bool) (i : Nat) (f : Ring → Ring) : (modRing m q i f s).dvt = s.dvt := rfl
@[simp] theorem modRing_wke (m : Nat) (q : Bool) (i : Nat) (f : Ring → Ring) : (modRing m q i f s).wke = s.wke := rfl
@[simp] theorem modRing_jig (m : Nat) (q : Bool) (i : Nat) (f : Ring → Ring) : (modRing m q i f s).jig = s.jig := rfl
@[simp] theorem modRing_dio (m : Nat) (q : Bool) (i : Nat) (f : Ring → Ring) : (modRing m q i f s).dio = s.dio := rfl
@[simp] theorem modRing_aio (m : Nat) (q : Bool) (i : Nat) (f : Ring → Ring) : (modRing m q i f s).aio = s.aio := rfl
@[simp] theorem modRing_lpe (m : Nat) (q : Bool) (i : Nat) (f : Ring → Ring) : (modRing m q i f s).lpe = s.lpe := rfl
@[simp] theorem modRing_rio (m : Nat) (q : Bool) (i : Nat) (f : Ring → Ring) : (modRing m q i f s).rio = s.rio := rfl
@[simp] theorem modRing_can (m : Nat) (q : Bool) (i : Nat) (f : Ring → Ring) : (modRing m q i f s).can = s.can := rfl
@[simp] theorem modRing_ptp (m : Nat) (q : Bool) (i : Nat) (f : Ring → Ring) : (modRing m q i f s).ptp = s.ptp := rfl
@[simp] theorem modRing_rtc (m : Nat) (q : Bool) (i : Nat) (f : Ring → Ring) : (modRing m q i f s).rtc = s.rtc := rfl
@[simp] theorem modRing_evr (m : Nat) (q : Bool) (i : Nat) (f : Ring → Ring) : (modRing m q i f s).evr = s.evr := rfl
@[simp] theorem modRing_cvu (m : Nat) (q : Bool) (i : Nat) (f : Ring → Ring) : (modRing m q i f s).cvu = s.cvu := rfl
@[simp] theorem modRing_key (m : Nat) (q : Bool) (i : Nat) (f : Ring → Ring) : (modRing m q i f s).key = s.key := rfl
@[simp] theorem modRing_upd (m : Nat) (q : Bool) (i : Nat) (f : Ring → Ring) : (modRing m q i f s).upd = s.upd := rfl
@[simp] theorem modRing_hie (m : Nat) (q : Bool) (i : Nat) (f : Ring → Ring) : (modRing m q i f s).hie = s.hie := rfl
@[simp] theorem modRing_dbg (m : Nat) (q : Bool) (i : Nat) (f : Ring → Ring) : (modRing m q i f s).dbg = s.dbg := rfl
@[simp] theorem modRing_cores (m : Nat) (q : Bool) (i : Nat) (f : Ring → Ring) : (modRing m q i f s).cores = s.cores := rfl
@[simp] theorem modRing_enabled (m : Nat) (q : Bool) (i : Nat) (f : Ring → Ring) : (modRing m q i f s).enabled = s.enabled := rfl
@[simp] theorem modRing_declared (m : Nat) (q : Bool) (i : Nat) (f : Ring → Ring) : (modRing m q i f s).declared = s.declared := rfl
@[simp] theorem modRing_mem (m : Nat) (q : Bool) (i : Nat) (f : Ring → Ring) : (modRing m q i f s).mem = s.mem := rfl

/-! ### `modPtp` -/

@[simp] theorem modPtp_ptp (f : Ptp → Ptp) : (modPtp f s).ptp = f s.ptp := rfl
@[simp] theorem modPtp_pending (f : Ptp → Ptp) : (modPtp f s).pending = s.pending := rfl
@[simp] theorem modPtp_answer (f : Ptp → Ptp) : (modPtp f s).answer = s.answer := rfl
@[simp] theorem modPtp_fresh (f : Ptp → Ptp) : (modPtp f s).fresh = s.fresh := rfl
@[simp] theorem modPtp_sys (f : Ptp → Ptp) : (modPtp f s).sys = s.sys := rfl
@[simp] theorem modPtp_drw (f : Ptp → Ptp) : (modPtp f s).drw = s.drw := rfl
@[simp] theorem modPtp_stk (f : Ptp → Ptp) : (modPtp f s).stk = s.stk := rfl
@[simp] theorem modPtp_dvt (f : Ptp → Ptp) : (modPtp f s).dvt = s.dvt := rfl
@[simp] theorem modPtp_wke (f : Ptp → Ptp) : (modPtp f s).wke = s.wke := rfl
@[simp] theorem modPtp_jig (f : Ptp → Ptp) : (modPtp f s).jig = s.jig := rfl
@[simp] theorem modPtp_dio (f : Ptp → Ptp) : (modPtp f s).dio = s.dio := rfl
@[simp] theorem modPtp_aio (f : Ptp → Ptp) : (modPtp f s).aio = s.aio := rfl
@[simp] theorem modPtp_lpe (f : Ptp → Ptp) : (modPtp f s).lpe = s.lpe := rfl
@[simp] theorem modPtp_rio (f : Ptp → Ptp) : (modPtp f s).rio = s.rio := rfl
@[simp] theorem modPtp_can (f : Ptp → Ptp) : (modPtp f s).can = s.can := rfl
@[simp] theorem modPtp_mac (f : Ptp → Ptp) : (modPtp f s).mac = s.mac := rfl
@[simp] theorem modPtp_rtc (f : Ptp → Ptp) : (modPtp f s).rtc = s.rtc := rfl
@[simp] theorem modPtp_evr (f : Ptp → Ptp) : (modPtp f s).evr = s.evr := rfl
@[simp] theorem modPtp_cvu (f : Ptp → Ptp) : (modPtp f s).cvu = s.cvu := rfl
@[simp] theorem modPtp_key (f : Ptp → Ptp) : (modPtp f s).key = s.key := rfl
@[simp] theorem modPtp_upd (f : Ptp → Ptp) : (modPtp f s).upd = s.upd := rfl
@[simp] theorem modPtp_hie (f : Ptp → Ptp) : (modPtp f s).hie = s.hie := rfl
@[simp] theorem modPtp_dbg (f : Ptp → Ptp) : (modPtp f s).dbg = s.dbg := rfl
@[simp] theorem modPtp_cores (f : Ptp → Ptp) : (modPtp f s).cores = s.cores := rfl
@[simp] theorem modPtp_enabled (f : Ptp → Ptp) : (modPtp f s).enabled = s.enabled := rfl
@[simp] theorem modPtp_declared (f : Ptp → Ptp) : (modPtp f s).declared = s.declared := rfl
@[simp] theorem modPtp_mem (f : Ptp → Ptp) : (modPtp f s).mem = s.mem := rfl

/-! ### `modPort` -/

@[simp] theorem modPort_ptp (m : Nat) (f : PtpPort → PtpPort) : (modPort m f s).ptp = { s.ptp with ports := lmod s.ptp.ports m f } := rfl
@[simp] theorem modPort_pending (m : Nat) (f : PtpPort → PtpPort) : (modPort m f s).pending = s.pending := rfl
@[simp] theorem modPort_answer (m : Nat) (f : PtpPort → PtpPort) : (modPort m f s).answer = s.answer := rfl
@[simp] theorem modPort_fresh (m : Nat) (f : PtpPort → PtpPort) : (modPort m f s).fresh = s.fresh := rfl
@[simp] theorem modPort_sys (m : Nat) (f : PtpPort → PtpPort) : (modPort m f s).sys = s.sys := rfl
@[simp] theorem modPort_drw (m : Nat) (f : PtpPort → PtpPort) : (modPort m f s).drw = s.drw := rfl
@[simp] theorem modPort_stk (m : Nat) (f : PtpPort → PtpPort) : (modPort m f s).stk = s.stk := rfl
@[simp] theorem modPort_dvt (m : Nat) (f : PtpPort → PtpPort) : (modPort m f s).dvt = s.dvt := rfl
@[simp] theorem modPort_wke (m : Nat) (f : PtpPort → PtpPort) : (modPort m f s).wke = s.wke := rfl
@[simp] theorem modPort_jig (m : Nat) (f : PtpPort → PtpPort) : (modPort m f s).jig = s.jig := rfl
@[simp] theorem modPort_dio (m : Nat) (f : PtpPort → PtpPort) : (modPort m f s).dio = s.dio := rfl
@[simp] theorem modPort_aio (m : Nat) (f : PtpPort → PtpPort) : (modPort m f s).aio = s.aio := rfl
@[simp] theorem modPort_lpe (m : Nat) (f : PtpPort → PtpPort) : (modPort m f s).lpe = s.lpe := rfl
@[simp] theorem modPort_rio (m : Nat) (f : PtpPort → PtpPort) : (modPort m f s).rio = s.rio := rfl
@[simp] theorem modPort_can (m : Nat) (f : PtpPort → PtpPort) : (modPort m f s).can = s.can := rfl
@[simp] theorem modPort_mac (m : Nat) (f : PtpPort → PtpPort) : (modPort m f s).mac = s.mac := rfl
@[simp] theorem modPort_rtc (m : Nat) (f : PtpPort → PtpPort) : (modPort m f s).rtc = s.rtc := rfl
@[simp] theorem modPort_evr (m : Nat) (f : PtpPort → PtpPort) : (modPort m f s).evr = s.evr := rfl
@[simp] theorem modPort_cvu (m : Nat) (f : PtpPort → PtpPort) : (modPort m f s).cvu = s.cvu := rfl
@[simp] theorem modPort_key (m : Nat) (f : PtpPort → PtpPort) : (modPort m f s).key = s.key := rfl
@[simp] theorem modPort_upd (m : Nat) (f : PtpPort → PtpPort) : (modPort m f s).upd = s.upd := rfl
@[simp] theorem modPort_hie (m : Nat) (f : PtpPort → PtpPort) : (modPort m f s).hie = s.hie := rfl
@[simp] theorem modPort_dbg (m : Nat) (f : PtpPort → PtpPort) : (modPort m f s).dbg = s.dbg := rfl
@[simp] theorem modPort_cores (m : Nat) (f : PtpPort → PtpPort) : (modPort m f s).cores = s.cores := rfl
@[simp] theorem modPort_enabled (m : Nat) (f : PtpPort → PtpPort) : (modPort m f s).enabled = s.enabled := rfl
@[simp] theorem modPort_declared (m : Nat) (f : PtpPort → PtpPort) : (modPort m f s).declared = s.declared := rfl
@[simp] theorem modPort_mem (m : Nat) (f : PtpPort → PtpPort) : (modPort m f s).mem = s.mem := rfl

/-! ### `modTsq` -/

@[simp] theorem modTsq_ptp (m : Nat) (f : Tsq → Tsq) : (modTsq m f s).ptp = { s.ptp with tsq := lmod s.ptp.tsq m f } := rfl
@[simp] theorem modTsq_pending (m : Nat) (f : Tsq → Tsq) : (modTsq m f s).pending = s.pending := rfl
@[simp] theorem modTsq_answer (m : Nat) (f : Tsq → Tsq) : (modTsq m f s).answer = s.answer := rfl
@[simp] theorem modTsq_fresh (m : Nat) (f : Tsq → Tsq) : (modTsq m f s).fresh = s.fresh := rfl
@[simp] theorem modTsq_sys (m : Nat) (f : Tsq → Tsq) : (modTsq m f s).sys = s.sys := rfl
@[simp] theorem modTsq_drw (m : Nat) (f : Tsq → Tsq) : (modTsq m f s).drw = s.drw := rfl
@[simp] theorem modTsq_stk (m : Nat) (f : Tsq → Tsq) : (modTsq m f s).stk = s.stk := rfl
@[simp] theorem modTsq_dvt (m : Nat) (f : Tsq → Tsq) : (modTsq m f s).dvt = s.dvt := rfl
@[simp] theorem modTsq_wke (m : Nat) (f : Tsq → Tsq) : (modTsq m f s).wke = s.wke := rfl
@[simp] theorem modTsq_jig (m : Nat) (f : Tsq → Tsq) : (modTsq m f s).jig = s.jig := rfl
@[simp] theorem modTsq_dio (m : Nat) (f : Tsq → Tsq) : (modTsq m f s).dio = s.dio := rfl
@[simp] theorem modTsq_aio (m : Nat) (f : Tsq → Tsq) : (modTsq m f s).aio = s.aio := rfl
@[simp] theorem modTsq_lpe (m : Nat) (f : Tsq → Tsq) : (modTsq m f s).lpe = s.lpe := rfl
@[simp] theorem modTsq_rio (m : Nat) (f : Tsq → Tsq) : (modTsq m f s).rio = s.rio := rfl
@[simp] theorem modTsq_can (m : Nat) (f : Tsq → Tsq) : (modTsq m f s).can = s.can := rfl
@[simp] theorem modTsq_mac (m : Nat) (f : Tsq → Tsq) : (modTsq m f s).mac = s.mac := rfl
@[simp] theorem modTsq_rtc (m : Nat) (f : Tsq → Tsq) : (modTsq m f s).rtc = s.rtc := rfl
@[simp] theorem modTsq_evr (m : Nat) (f : Tsq → Tsq) : (modTsq m f s).evr = s.evr := rfl
@[simp] theorem modTsq_cvu (m : Nat) (f : Tsq → Tsq) : (modTsq m f s).cvu = s.cvu := rfl
@[simp] theorem modTsq_key (m : Nat) (f : Tsq → Tsq) : (modTsq m f s).key = s.key := rfl
@[simp] theorem modTsq_upd (m : Nat) (f : Tsq → Tsq) : (modTsq m f s).upd = s.upd := rfl
@[simp] theorem modTsq_hie (m : Nat) (f : Tsq → Tsq) : (modTsq m f s).hie = s.hie := rfl
@[simp] theorem modTsq_dbg (m : Nat) (f : Tsq → Tsq) : (modTsq m f s).dbg = s.dbg := rfl
@[simp] theorem modTsq_cores (m : Nat) (f : Tsq → Tsq) : (modTsq m f s).cores = s.cores := rfl
@[simp] theorem modTsq_enabled (m : Nat) (f : Tsq → Tsq) : (modTsq m f s).enabled = s.enabled := rfl
@[simp] theorem modTsq_declared (m : Nat) (f : Tsq → Tsq) : (modTsq m f s).declared = s.declared := rfl
@[simp] theorem modTsq_mem (m : Nat) (f : Tsq → Tsq) : (modTsq m f s).mem = s.mem := rfl

/-! ### `modRtc` -/

@[simp] theorem modRtc_rtc (f : Rtc → Rtc) : (modRtc f s).rtc = f s.rtc := rfl
@[simp] theorem modRtc_pending (f : Rtc → Rtc) : (modRtc f s).pending = s.pending := rfl
@[simp] theorem modRtc_answer (f : Rtc → Rtc) : (modRtc f s).answer = s.answer := rfl
@[simp] theorem modRtc_fresh (f : Rtc → Rtc) : (modRtc f s).fresh = s.fresh := rfl
@[simp] theorem modRtc_sys (f : Rtc → Rtc) : (modRtc f s).sys = s.sys := rfl
@[simp] theorem modRtc_drw (f : Rtc → Rtc) : (modRtc f s).drw = s.drw := rfl
@[simp] theorem modRtc_stk (f : Rtc → Rtc) : (modRtc f s).stk = s.stk := rfl
@[simp] theorem modRtc_dvt (f : Rtc → Rtc) : (modRtc f s).dvt = s.dvt := rfl
@[simp] theorem modRtc_wke (f : Rtc → Rtc) : (modRtc f s).wke = s.wke := rfl
@[simp] theorem modRtc_jig (f : Rtc → Rtc) : (modRtc f s).jig = s.jig := rfl
@[simp] theorem modRtc_dio (f : Rtc → Rtc) : (modRtc f s).dio = s.dio := rfl
@[simp] theorem modRtc_aio (f : Rtc → Rtc) : (modRtc f s).aio = s.aio := rfl
@[simp] theorem modRtc_lpe (f : Rtc → Rtc) : (modRtc f s).lpe = s.lpe := rfl
@[simp] theorem modRtc_rio (f : Rtc → Rtc) : (modRtc f s).rio = s.rio := rfl
@[simp] theorem modRtc_can (f : Rtc → Rtc) : (modRtc f s).can = s.can := rfl
@[simp] theorem modRtc_mac (f : Rtc → Rtc) : (modRtc f s).mac = s.mac := rfl
@[simp] theorem modRtc_ptp (f : Rtc → Rtc) : (modRtc f s).ptp = s.ptp := rfl
@[simp] theorem modRtc_evr (f : Rtc → Rtc) : (modRtc f s).evr = s.evr := rfl
@[simp] theorem modRtc_cvu (f : Rtc → Rtc) : (modRtc f s).cvu = s.cvu := rfl
@[simp] theorem modRtc_key (f : Rtc → Rtc) : (modRtc f s).key = s.key := rfl
@[simp] theorem modRtc_upd (f : Rtc → Rtc) : (modRtc f s).upd = s.upd := rfl
@[simp] theorem modRtc_hie (f : Rtc → Rtc) : (modRtc f s).hie = s.hie := rfl
@[simp] theorem modRtc_dbg (f : Rtc → Rtc) : (modRtc f s).dbg = s.dbg := rfl
@[simp] theorem modRtc_cores (f : Rtc → Rtc) : (modRtc f s).cores = s.cores := rfl
@[simp] theorem modRtc_enabled (f : Rtc → Rtc) : (modRtc f s).enabled = s.enabled := rfl
@[simp] theorem modRtc_declared (f : Rtc → Rtc) : (modRtc f s).declared = s.declared := rfl
@[simp] theorem modRtc_mem (f : Rtc → Rtc) : (modRtc f s).mem = s.mem := rfl

/-! ### `modEvr` -/

@[simp] theorem modEvr_evr (f : Evr → Evr) : (modEvr f s).evr = f s.evr := rfl
@[simp] theorem modEvr_pending (f : Evr → Evr) : (modEvr f s).pending = s.pending := rfl
@[simp] theorem modEvr_answer (f : Evr → Evr) : (modEvr f s).answer = s.answer := rfl
@[simp] theorem modEvr_fresh (f : Evr → Evr) : (modEvr f s).fresh = s.fresh := rfl
@[simp] theorem modEvr_sys (f : Evr → Evr) : (modEvr f s).sys = s.sys := rfl
@[simp] theorem modEvr_drw (f : Evr → Evr) : (modEvr f s).drw = s.drw := rfl
@[simp] theorem modEvr_stk (f : Evr → Evr) : (modEvr f s).stk = s.stk := rfl
@[simp] theorem modEvr_dvt (f : Evr → Evr) : (modEvr f s).dvt = s.dvt := rfl
@[simp] theorem modEvr_wke (f : Evr → Evr) : (modEvr f s).wke = s.wke := rfl
@[simp] theorem modEvr_jig (f : Evr → Evr) : (modEvr f s).jig = s.jig := rfl
@[simp] theorem modEvr_dio (f : Evr → Evr) : (modEvr f s).dio = s.dio := rfl
@[simp] theorem modEvr_aio (f : Evr → Evr) : (modEvr f s).aio = s.aio := rfl
@[simp] theorem modEvr_lpe (f : Evr → Evr) : (modEvr f s).lpe = s.lpe := rfl
@[simp] theorem modEvr_rio (f : Evr → Evr) : (modEvr f s).rio = s.rio := rfl
@[simp] theorem modEvr_can (f : Evr → Evr) : (modEvr f s).can = s.can := rfl
@[simp] theorem modEvr_mac (f : Evr → Evr) : (modEvr f s).mac = s.mac := rfl
@[simp] theorem modEvr_ptp (f : Evr → Evr) : (modEvr f s).ptp = s.ptp := rfl
@[simp] theorem modEvr_rtc (f : Evr → Evr) : (modEvr f s).rtc = s.rtc := rfl
@[simp] theorem modEvr_cvu (f : Evr → Evr) : (modEvr f s).cvu = s.cvu := rfl
@[simp] theorem modEvr_key (f : Evr → Evr) : (modEvr f s).key = s.key := rfl
@[simp] theorem modEvr_upd (f : Evr → Evr) : (modEvr f s).upd = s.upd := rfl
@[simp] theorem modEvr_hie (f : Evr → Evr) : (modEvr f s).hie = s.hie := rfl
@[simp] theorem modEvr_dbg (f : Evr → Evr) : (modEvr f s).dbg = s.dbg := rfl
@[simp] theorem modEvr_cores (f : Evr → Evr) : (modEvr f s).cores = s.cores := rfl
@[simp] theorem modEvr_enabled (f : Evr → Evr) : (modEvr f s).enabled = s.enabled := rfl
@[simp] theorem modEvr_declared (f : Evr → Evr) : (modEvr f s).declared = s.declared := rfl
@[simp] theorem modEvr_mem (f : Evr → Evr) : (modEvr f s).mem = s.mem := rfl

/-! ### `modCvu` -/

@[simp] theorem modCvu_cvu (n : Nat) (f : Cvu → Cvu) : (modCvu n f s).cvu = lmod s.cvu n f := rfl
@[simp] theorem modCvu_pending (n : Nat) (f : Cvu → Cvu) : (modCvu n f s).pending = s.pending := rfl
@[simp] theorem modCvu_answer (n : Nat) (f : Cvu → Cvu) : (modCvu n f s).answer = s.answer := rfl
@[simp] theorem modCvu_fresh (n : Nat) (f : Cvu → Cvu) : (modCvu n f s).fresh = s.fresh := rfl
@[simp] theorem modCvu_sys (n : Nat) (f : Cvu → Cvu) : (modCvu n f s).sys = s.sys := rfl
@[simp] theorem modCvu_drw (n : Nat) (f : Cvu → Cvu) : (modCvu n f s).drw = s.drw := rfl
@[simp] theorem modCvu_stk (n : Nat) (f : Cvu → Cvu) : (modCvu n f s).stk = s.stk := rfl
@[simp] theorem modCvu_dvt (n : Nat) (f : Cvu → Cvu) : (modCvu n f s).dvt = s.dvt := rfl
@[simp] theorem modCvu_wke (n : Nat) (f : Cvu → Cvu) : (modCvu n f s).wke = s.wke := rfl
@[simp] theorem modCvu_jig (n : Nat) (f : Cvu → Cvu) : (modCvu n f s).jig = s.jig := rfl
@[simp] theorem modCvu_dio (n : Nat) (f : Cvu → Cvu) : (modCvu n f s).dio = s.dio := rfl
@[simp] theorem modCvu_aio (n : Nat) (f : Cvu → Cvu) : (modCvu n f s).aio = s.aio := rfl
@[simp] theorem modCvu_lpe (n : Nat) (f : Cvu → Cvu) : (modCvu n f s).lpe = s.lpe := rfl
@[simp] theorem modCvu_rio (n : Nat) (f : Cvu → Cvu) : (modCvu n f s).rio = s.rio := rfl
@[simp] theorem modCvu_can (n : Nat) (f : Cvu → Cvu) : (modCvu n f s).can = s.can := rfl
@[simp] theorem modCvu_mac (n : Nat) (f : Cvu → Cvu) : (modCvu n f s).mac = s.mac := rfl
@[simp] theorem modCvu_ptp (n : Nat) (f : Cvu → Cvu) : (modCvu n f s).ptp = s.ptp := rfl
@[simp] theorem modCvu_rtc (n : Nat) (f : Cvu → Cvu) : (modCvu n f s).rtc = s.rtc := rfl
@[simp] theorem modCvu_evr (n : Nat) (f : Cvu → Cvu) : (modCvu n f s).evr = s.evr := rfl
@[simp] theorem modCvu_key (n : Nat) (f : Cvu → Cvu) : (modCvu n f s).key = s.key := rfl
@[simp] theorem modCvu_upd (n : Nat) (f : Cvu → Cvu) : (modCvu n f s).upd = s.upd := rfl
@[simp] theorem modCvu_hie (n : Nat) (f : Cvu → Cvu) : (modCvu n f s).hie = s.hie := rfl
@[simp] theorem modCvu_dbg (n : Nat) (f : Cvu → Cvu) : (modCvu n f s).dbg = s.dbg := rfl
@[simp] theorem modCvu_cores (n : Nat) (f : Cvu → Cvu) : (modCvu n f s).cores = s.cores := rfl
@[simp] theorem modCvu_enabled (n : Nat) (f : Cvu → Cvu) : (modCvu n f s).enabled = s.enabled := rfl
@[simp] theorem modCvu_declared (n : Nat) (f : Cvu → Cvu) : (modCvu n f s).declared = s.declared := rfl
@[simp] theorem modCvu_mem (n : Nat) (f : Cvu → Cvu) : (modCvu n f s).mem = s.mem := rfl

/-! ### `modKey` -/

@[simp] theorem modKey_key (f : Key → Key) : (modKey f s).key = f s.key := rfl
@[simp] theorem modKey_pending (f : Key → Key) : (modKey f s).pending = s.pending := rfl
@[simp] theorem modKey_answer (f : Key → Key) : (modKey f s).answer = s.answer := rfl
@[simp] theorem modKey_fresh (f : Key → Key) : (modKey f s).fresh = s.fresh := rfl
@[simp] theorem modKey_sys (f : Key → Key) : (modKey f s).sys = s.sys := rfl
@[simp] theorem modKey_drw (f : Key → Key) : (modKey f s).drw = s.drw := rfl
@[simp] theorem modKey_stk (f : Key → Key) : (modKey f s).stk = s.stk := rfl
@[simp] theorem modKey_dvt (f : Key → Key) : (modKey f s).dvt = s.dvt := rfl
@[simp] theorem modKey_wke (f : Key → Key) : (modKey f s).wke = s.wke := rfl
@[simp] theorem modKey_jig (f : Key → Key) : (modKey f s).jig = s.jig := rfl
@[simp] theorem modKey_dio (f : Key → Key) : (modKey f s).dio = s.dio := rfl
@[simp] theorem modKey_aio (f : Key → Key) : (modKey f s).aio = s.aio := rfl
@[simp] theorem modKey_lpe (f : Key → Key) : (modKey f s).lpe = s.lpe := rfl
@[simp] theorem modKey_rio (f : Key → Key) : (modKey f s).rio = s.rio := rfl
@[simp] theorem modKey_can (f : Key → Key) : (modKey f s).can = s.can := rfl
@[simp] theorem modKey_mac (f : Key → Key) : (modKey f s).mac = s.mac := rfl
@[simp] theorem modKey_ptp (f : Key → Key) : (modKey f s).ptp = s.ptp := rfl
@[simp] theorem modKey_rtc (f : Key → Key) : (modKey f s).rtc = s.rtc := rfl
@[simp] theorem modKey_evr (f : Key → Key) : (modKey f s).evr = s.evr := rfl
@[simp] theorem modKey_cvu (f : Key → Key) : (modKey f s).cvu = s.cvu := rfl
@[simp] theorem modKey_upd (f : Key → Key) : (modKey f s).upd = s.upd := rfl
@[simp] theorem modKey_hie (f : Key → Key) : (modKey f s).hie = s.hie := rfl
@[simp] theorem modKey_dbg (f : Key → Key) : (modKey f s).dbg = s.dbg := rfl
@[simp] theorem modKey_cores (f : Key → Key) : (modKey f s).cores = s.cores := rfl
@[simp] theorem modKey_enabled (f : Key → Key) : (modKey f s).enabled = s.enabled := rfl
@[simp] theorem modKey_declared (f : Key → Key) : (modKey f s).declared = s.declared := rfl
@[simp] theorem modKey_mem (f : Key → Key) : (modKey f s).mem = s.mem := rfl

/-! ### `modUpd` -/

@[simp] theorem modUpd_upd (f : Upd → Upd) : (modUpd f s).upd = f s.upd := rfl
@[simp] theorem modUpd_pending (f : Upd → Upd) : (modUpd f s).pending = s.pending := rfl
@[simp] theorem modUpd_answer (f : Upd → Upd) : (modUpd f s).answer = s.answer := rfl
@[simp] theorem modUpd_fresh (f : Upd → Upd) : (modUpd f s).fresh = s.fresh := rfl
@[simp] theorem modUpd_sys (f : Upd → Upd) : (modUpd f s).sys = s.sys := rfl
@[simp] theorem modUpd_drw (f : Upd → Upd) : (modUpd f s).drw = s.drw := rfl
@[simp] theorem modUpd_stk (f : Upd → Upd) : (modUpd f s).stk = s.stk := rfl
@[simp] theorem modUpd_dvt (f : Upd → Upd) : (modUpd f s).dvt = s.dvt := rfl
@[simp] theorem modUpd_wke (f : Upd → Upd) : (modUpd f s).wke = s.wke := rfl
@[simp] theorem modUpd_jig (f : Upd → Upd) : (modUpd f s).jig = s.jig := rfl
@[simp] theorem modUpd_dio (f : Upd → Upd) : (modUpd f s).dio = s.dio := rfl
@[simp] theorem modUpd_aio (f : Upd → Upd) : (modUpd f s).aio = s.aio := rfl
@[simp] theorem modUpd_lpe (f : Upd → Upd) : (modUpd f s).lpe = s.lpe := rfl
@[simp] theorem modUpd_rio (f : Upd → Upd) : (modUpd f s).rio = s.rio := rfl
@[simp] theorem modUpd_can (f : Upd → Upd) : (modUpd f s).can = s.can := rfl
@[simp] theorem modUpd_mac (f : Upd → Upd) : (modUpd f s).mac = s.mac := rfl
@[simp] theorem modUpd_ptp (f : Upd → Upd) : (modUpd f s).ptp = s.ptp := rfl
@[simp] theorem modUpd_rtc (f : Upd → Upd) : (modUpd f s).rtc = s.rtc := rfl
@[simp] theorem modUpd_evr (f : Upd → Upd) : (modUpd f s).evr = s.evr := rfl
@[simp] theorem modUpd_cvu (f : Upd → Upd) : (modUpd f s).cvu = s.cvu := rfl
@[simp] theorem modUpd_key (f : Upd → Upd) : (modUpd f s).key = s.key := rfl
@[simp] theorem modUpd_hie (f : Upd → Upd) : (modUpd f s).hie = s.hie := rfl
@[simp] theorem modUpd_dbg (f : Upd → Upd) : (modUpd f s).dbg = s.dbg := rfl
@[simp] theorem modUpd_cores (f : Upd → Upd) : (modUpd f s).cores = s.cores := rfl
@[simp] theorem modUpd_enabled (f : Upd → Upd) : (modUpd f s).enabled = s.enabled := rfl
@[simp] theorem modUpd_declared (f : Upd → Upd) : (modUpd f s).declared = s.declared := rfl
@[simp] theorem modUpd_mem (f : Upd → Upd) : (modUpd f s).mem = s.mem := rfl

/-! ### `modHie` -/

@[simp] theorem modHie_hie (f : Hie → Hie) : (modHie f s).hie = f s.hie := rfl
@[simp] theorem modHie_pending (f : Hie → Hie) : (modHie f s).pending = s.pending := rfl
@[simp] theorem modHie_answer (f : Hie → Hie) : (modHie f s).answer = s.answer := rfl
@[simp] theorem modHie_fresh (f : Hie → Hie) : (modHie f s).fresh = s.fresh := rfl
@[simp] theorem modHie_sys (f : Hie → Hie) : (modHie f s).sys = s.sys := rfl
@[simp] theorem modHie_drw (f : Hie → Hie) : (modHie f s).drw = s.drw := rfl
@[simp] theorem modHie_stk (f : Hie → Hie) : (modHie f s).stk = s.stk := rfl
@[simp] theorem modHie_dvt (f : Hie → Hie) : (modHie f s).dvt = s.dvt := rfl
@[simp] theorem modHie_wke (f : Hie → Hie) : (modHie f s).wke = s.wke := rfl
@[simp] theorem modHie_jig (f : Hie → Hie) : (modHie f s).jig = s.jig := rfl
@[simp] theorem modHie_dio (f : Hie → Hie) : (modHie f s).dio = s.dio := rfl
@[simp] theorem modHie_aio (f : Hie → Hie) : (modHie f s).aio = s.aio := rfl
@[simp] theorem modHie_lpe (f : Hie → Hie) : (modHie f s).lpe = s.lpe := rfl
@[simp] theorem modHie_rio (f : Hie → Hie) : (modHie f s).rio = s.rio := rfl
@[simp] theorem modHie_can (f : Hie → Hie) : (modHie f s).can = s.can := rfl
@[simp] theorem modHie_mac (f : Hie → Hie) : (modHie f s).mac = s.mac := rfl
@[simp] theorem modHie_ptp (f : Hie → Hie) : (modHie f s).ptp = s.ptp := rfl
@[simp] theorem modHie_rtc (f : Hie → Hie) : (modHie f s).rtc = s.rtc := rfl
@[simp] theorem modHie_evr (f : Hie → Hie) : (modHie f s).evr = s.evr := rfl
@[simp] theorem modHie_cvu (f : Hie → Hie) : (modHie f s).cvu = s.cvu := rfl
@[simp] theorem modHie_key (f : Hie → Hie) : (modHie f s).key = s.key := rfl
@[simp] theorem modHie_upd (f : Hie → Hie) : (modHie f s).upd = s.upd := rfl
@[simp] theorem modHie_dbg (f : Hie → Hie) : (modHie f s).dbg = s.dbg := rfl
@[simp] theorem modHie_cores (f : Hie → Hie) : (modHie f s).cores = s.cores := rfl
@[simp] theorem modHie_enabled (f : Hie → Hie) : (modHie f s).enabled = s.enabled := rfl
@[simp] theorem modHie_declared (f : Hie → Hie) : (modHie f s).declared = s.declared := rfl
@[simp] theorem modHie_mem (f : Hie → Hie) : (modHie f s).mem = s.mem := rfl

/-! ### `modDbg` -/

@[simp] theorem modDbg_dbg (f : Dbg → Dbg) : (modDbg f s).dbg = f s.dbg := rfl
@[simp] theorem modDbg_pending (f : Dbg → Dbg) : (modDbg f s).pending = s.pending := rfl
@[simp] theorem modDbg_answer (f : Dbg → Dbg) : (modDbg f s).answer = s.answer := rfl
@[simp] theorem modDbg_fresh (f : Dbg → Dbg) : (modDbg f s).fresh = s.fresh := rfl
@[simp] theorem modDbg_sys (f : Dbg → Dbg) : (modDbg f s).sys = s.sys := rfl
@[simp] theorem modDbg_drw (f : Dbg → Dbg) : (modDbg f s).drw = s.drw := rfl
@[simp] theorem modDbg_stk (f : Dbg → Dbg) : (modDbg f s).stk = s.stk := rfl
@[simp] theorem modDbg_dvt (f : Dbg → Dbg) : (modDbg f s).dvt = s.dvt := rfl
@[simp] theorem modDbg_wke (f : Dbg → Dbg) : (modDbg f s).wke = s.wke := rfl
@[simp] theorem modDbg_jig (f : Dbg → Dbg) : (modDbg f s).jig = s.jig := rfl
@[simp] theorem modDbg_dio (f : Dbg → Dbg) : (modDbg f s).dio = s.dio := rfl
@[simp] theorem modDbg_aio (f : Dbg → Dbg) : (modDbg f s).aio = s.aio := rfl
@[simp] theorem modDbg_lpe (f : Dbg → Dbg) : (modDbg f s).lpe = s.lpe := rfl
@[simp] theorem modDbg_rio (f : Dbg → Dbg) : (modDbg f s).rio = s.rio := rfl
@[simp] theorem modDbg_can (f : Dbg → Dbg) : (modDbg f s).can = s.can := rfl
@[simp] theorem modDbg_mac (f : Dbg → Dbg) : (modDbg f s).mac = s.mac := rfl
@[simp] theorem modDbg_ptp (f : Dbg → Dbg) : (modDbg f s).ptp = s.ptp := rfl
@[simp] theorem modDbg_rtc (f : Dbg → Dbg) : (modDbg f s).rtc = s.rtc := rfl
@[simp] theorem modDbg_evr (f : Dbg → Dbg) : (modDbg f s).evr = s.evr := rfl
@[simp] theorem modDbg_cvu (f : Dbg → Dbg) : (modDbg f s).cvu = s.cvu := rfl
@[simp] theorem modDbg_key (f : Dbg → Dbg) : (modDbg f s).key = s.key := rfl
@[simp] theorem modDbg_upd (f : Dbg → Dbg) : (modDbg f s).upd = s.upd := rfl
@[simp] theorem modDbg_hie (f : Dbg → Dbg) : (modDbg f s).hie = s.hie := rfl
@[simp] theorem modDbg_cores (f : Dbg → Dbg) : (modDbg f s).cores = s.cores := rfl
@[simp] theorem modDbg_enabled (f : Dbg → Dbg) : (modDbg f s).enabled = s.enabled := rfl
@[simp] theorem modDbg_declared (f : Dbg → Dbg) : (modDbg f s).declared = s.declared := rfl
@[simp] theorem modDbg_mem (f : Dbg → Dbg) : (modDbg f s).mem = s.mem := rfl

/-! ### `modDbgCore` -/

@[simp] theorem modDbgCore_dbg (c : Nat) (f : DbgCore → DbgCore) : (modDbgCore c f s).dbg = { s.dbg with cores := lmod s.dbg.cores c f } := rfl
@[simp] theorem modDbgCore_pending (c : Nat) (f : DbgCore → DbgCore) : (modDbgCore c f s).pending = s.pending := rfl
@[simp] theorem modDbgCore_answer (c : Nat) (f : DbgCore → DbgCore) : (modDbgCore c f s).answer = s.answer := rfl
@[simp] theorem modDbgCore_fresh (c : Nat) (f : DbgCore → DbgCore) : (modDbgCore c f s).fresh = s.fresh := rfl
@[simp] theorem modDbgCore_sys (c : Nat) (f : DbgCore → DbgCore) : (modDbgCore c f s).sys = s.sys := rfl
@[simp] theorem modDbgCore_drw (c : Nat) (f : DbgCore → DbgCore) : (modDbgCore c f s).drw = s.drw := rfl
@[simp] theorem modDbgCore_stk (c : Nat) (f : DbgCore → DbgCore) : (modDbgCore c f s).stk = s.stk := rfl
@[simp] theorem modDbgCore_dvt (c : Nat) (f : DbgCore → DbgCore) : (modDbgCore c f s).dvt = s.dvt := rfl
@[simp] theorem modDbgCore_wke (c : Nat) (f : DbgCore → DbgCore) : (modDbgCore c f s).wke = s.wke := rfl
@[simp] theorem modDbgCore_jig (c : Nat) (f : DbgCore → DbgCore) : (modDbgCore c f s).jig = s.jig := rfl
@[simp] theorem modDbgCore_dio (c : Nat) (f : DbgCore → DbgCore) : (modDbgCore c f s).dio = s.dio := rfl
@[simp] theorem modDbgCore_aio (c : Nat) (f : DbgCore → DbgCore) : (modDbgCore c f s).aio = s.aio := rfl
@[simp] theorem modDbgCore_lpe (c : Nat) (f : DbgCore → DbgCore) : (modDbgCore c f s).lpe = s.lpe := rfl
@[simp] theorem modDbgCore_rio (c : Nat) (f : DbgCore → DbgCore) : (modDbgCore c f s).rio = s.rio := rfl
@[simp] theorem modDbgCore_can (c : Nat) (f : DbgCore → DbgCore) : (modDbgCore c f s).can = s.can := rfl
@[simp] theorem modDbgCore_mac (c : Nat) (f : DbgCore → DbgCore) : (modDbgCore c f s).mac = s.mac := rfl
@[simp] theorem modDbgCore_ptp (c : Nat) (f : DbgCore → DbgCore) : (modDbgCore c f s).ptp = s.ptp := rfl
@[simp] theorem modDbgCore_rtc (c : Nat) (f : DbgCore → DbgCore) : (modDbgCore c f s).rtc = s.rtc := rfl
@[simp] theorem modDbgCore_evr (c : Nat) (f : DbgCore → DbgCore) : (modDbgCore c f s).evr = s.evr := rfl
@[simp] theorem modDbgCore_cvu (c : Nat) (f : DbgCore → DbgCore) : (modDbgCore c f s).cvu = s.cvu := rfl
@[simp] theorem modDbgCore_key (c : Nat) (f : DbgCore → DbgCore) : (modDbgCore c f s).key = s.key := rfl
@[simp] theorem modDbgCore_upd (c : Nat) (f : DbgCore → DbgCore) : (modDbgCore c f s).upd = s.upd := rfl
@[simp] theorem modDbgCore_hie (c : Nat) (f : DbgCore → DbgCore) : (modDbgCore c f s).hie = s.hie := rfl
@[simp] theorem modDbgCore_cores (c : Nat) (f : DbgCore → DbgCore) : (modDbgCore c f s).cores = s.cores := rfl
@[simp] theorem modDbgCore_enabled (c : Nat) (f : DbgCore → DbgCore) : (modDbgCore c f s).enabled = s.enabled := rfl
@[simp] theorem modDbgCore_declared (c : Nat) (f : DbgCore → DbgCore) : (modDbgCore c f s).declared = s.declared := rfl
@[simp] theorem modDbgCore_mem (c : Nat) (f : DbgCore → DbgCore) : (modDbgCore c f s).mem = s.mem := rfl

end Sys2Proof.Machine
end

