-- ==== Sys2Proof/WellFormed.lean ====
section
/-! DEFINITION. Which commands are well formed: every number of a command fits the field of the manual that carries it,
and every list has the length that field can have. The meanings do not depend on it. -/
namespace Sys2Proof

/-- A number of `w` bits. -/
def fits (w n : Nat) : Bool := n < 2 ^ w

/-- A register write's value has 32 bits. -/
def wordOk (n : Nat) : Bool := fits 32 n

/-- A CAN frame (R329): identifier of 11 or 29 bits, DLC of 4 bits, up to 64 data bytes, 8 in a classic frame. -/
def CanFrame.wf (f : CanFrame) : Bool :=
  fits 29 f.id && fits 4 f.dlc && f.data.length ≤ (if f.fdf then 64 else 8) && (f.ide || f.id % 2 ^ 18 = 0)

/-- An error of a CAN frame (R351): LEC of 3 bits, neither 0 nor 7. -/
def CanError.wf (e : CanError) : Bool := 1 ≤ e.code && e.code ≤ 6

/-- A received frame (R356, R370): a 1588 time stamp of 64 bits, a fill that the MAC's FIFO can have. -/
def MacRx.wf (mac : Fin 10) (r : MacRx) : Bool :=
  match r with
  | .beacon => true
  | .frame _ _ fcs _ _ stamp fill => fits 32 fcs && fits 64 stamp && fill ≤ (if mac.val < 8 then 8192 else 65536)

/-- The header of a Marzin message (R523). -/
def MarzinHead.wf (h : MarzinHead) : Bool :=
  fits 16 h.sender && fits 32 h.seq && 1 ≤ h.weight && h.weight ≤ 16 && fits 16 h.origin && fits 8 h.drawer && fits 16 h.dest &&
    h.len ≤ 1404 && fits 64 h.stamp

/-- What the outside world gives at an edge: a value for each of the 32 inputs and outputs, and for each of the four
groups (R231, R250). -/
def EdgeIn.wf (x : EdgeIn) : Bool :=
  x.inCurrent.length = 32 && x.outCurrent.length = 32 && x.grpVolt.length = 4 && x.grpCurrent.length = 4 && fits 32 x.pins

/-- A core's context has 96 registers of 64 bits (R554). -/
def regsWf (l : List (Nat × Nat)) : Bool := l.all (fun p => p.1 < 96 && fits 64 p.2)

/-- The command is well formed. -/
def Instr.wf (i : Instr) : Bool :=
  match i with
  | .jigLatchClr v | .doChannelClear _ v _ | .doGroupClear v | .groupOpen _ v | .groupCommit _ v | .groupAbort _ v
  | .canRecover _ v | .serviceReset v | .holdRequest v | .resumeRequest v | .rtcSetNextEdge v | .rtcSetImmediate v _
  | .rtcSetCancel v | .evrClear v | .cvuCfgWrite _ v | .dbgTagWrite v | .eventCursorWrite _ v | .eventSeek _ v
  | .macTailWrite _ _ _ v => wordOk v
  | .writeViewWrite _ point _ _ => fits 16 point
  | .send _ dest _ => fits 16 dest
  | .canTxRequest _ b | .canTxCancel _ b => fits 3 b
  | .canSend _ _ _ id ctrl data => wordOk id && wordOk ctrl && data.length ≤ 64
  | .canTxEnd _ e stamp => e.all CanError.wf && fits 64 stamp
  | .canRxError _ e _ => e.wf
  | .canFrameReceive _ f stamp => f.wf && fits 64 stamp
  | .macFrameReceive m rx => rx.wf m
  | .macTxComplete _ stamp => fits 64 stamp
  | .eventOccurrence code block unit drawer _ => fits 16 code && fits 5 block && fits 11 unit && fits 5 drawer
  | .rtcSet _ a b => wordOk a && wordOk b
  | .coreHalt _ pc regs | .coreStep _ pc regs | .breakpointHit _ _ pc regs | .watchpointHit _ _ _ _ pc regs =>
    wordOk pc && regsWf regs
  | .tickEdge x => x.wf
  | .marzinAlign h _ | .marzinDirectory h _ | .marzinAttest h _ | .marzinUpdateOrch h _ => h.wf
  | .marzinEventFwd h r recno => h.wf && r.length = 32 && wordOk recno
  | .marzinCause h _ es => h.wf && 1 ≤ es.length && es.length ≤ 16 && es.all (fun e => fits 16 e.1)
  | .marzinNotice h _ _ | .marzinAck h _ _ _ => h.wf
  | .tagWrite _ off data => off + data.length ≤ 512
  | .resetRelease x _ => fits 16 x.vbak
  | .vsysArrives | .jigConfigRead _ | .pllLocked | .bootSelfTestDone _ _
  | .carcassLoadDone _ _ _ _ | .powerFailWarning _ | .nandPageDonePause | .braceFlushDone | .warningReleaseCrossing
  | .braceEnd _ _ | .braceLong _ | .vsysResetThreshold | .coxLockstepMismatch | .coxWatchdogExpiry | .pllLoss
  | .eccCorrectedError | .linkDownTimeout _ | .linkDownClear | .vbakLowCrossing | .vbakLowRelease | .fireWindowSet _
  | .fireWindowClear _ | .fireWindowOvertemp _ | .fireWindowTimeLimit _ | .tempExcursion _ | .tempExcursionEnd
  | .coreWake _ | .strokeReturn _ _ _ _ | .budgetExhausted _ | .receive _ | .inboxCount _ | .writeStatus _
  | .strokeInfo _ | .stagedWrite _ _ _ | .edgeDigestLatch | .tnLatch | .journalRecordWrite | .checkpointComplete _ _
  | .coreHang _ | .coreCacheEcc _ | .coreMachineCheck _ | .takeoverCopiesLoaded _ _ | .replayStrokeDone _ _ _ _ _
  | .memoryUncorrectable _ _ | .settlementDone _ _ _ | .seatSelfTest _ | .seatSelfTestDone _ _ | .diCouplerChange _ _
  | .jigScrub _ _ | .jigCopyAdopt | .diFilterSettled _ | .wireOpen _ _ | .wireIntact _ _ | .doOverload _ _
  | .doOverloadClear _ | .doThermalShutdown _ | .doThermalRetry _ | .doRetriesReset _ | .doOpenLoadOn _
  | .doOpenLoadOff _ | .doOpenLoadClear _ | .doExtDriveOff _ | .doExtDriveReverse _ | .doExtDriveClear _
  | .doDiagBlankEnd _ | .groupTrip _ _ | .groupTripRetry _ | .groupTripRetriesReset _ | .groupLowWarning _ _
  | .groupLowRelease _ _ | .groupUnpowered _ _ | .groupPoweredAgain _ _ | .doReset _ _ _ | .referenceCheck _ _
  | .aoOverload _ | .aoOverloadClear _ | .aoOpenLoop _ | .aoOpenLoopClear _ | .markerAbandon _ | .replyReceive _ _ _ _
  | .replyDeadline _ _ | .canReceive _ _ _ | .canTxStart _ | .canArbitrationLost _ | .canBusOffLeft _
  | .canProtocolException _ | .canRxqLock _ _ _ | .canRxqPop _ _ | .canRxqRelease _ _ | .canErrRead _
  | .macRingRun _ _ _ _ | .macRingStop _ _ _ | .ethSend _ _ _ _ | .ethReceive _ _ _ | .macTxStart _ | .macCollision _
  | .macLateCollision _ | .macBackoffExpiry _ | .plcaCycleStart _ _ | .plcaCycleEnd _ _ | .pauseExpiry _
  | .xoffSend _ _ | .xoffRepeat _ _ | .xonSend _ _ | .macLinkUp _ _ | .macLinkDown _ | .macLinkRefused _
  | .macRenegotiate _ | .ptpMessageReceive _ _ | .announceTimeout _ _ | .syncTimeout | .holdoverExpiry
  | .ptpMessageSend _ _ | .tsqHeadRead _ | .tsqEntryExpiry _ | .rtcSecond _ | .rtcNow _ | .rtcTimeLatch _
  | .rtcTrimCheck _ _ | .rtcTrimStep | .oscStop | .backupDomainReset | .backupFeedSwitch _ | .batchMoveDone
  | .eventBufferEmpty | .headClose | .tokenGain _ | .opTimeSave | .eventWindowLatch | .eventClear _ | .eventRead _
  | .eventNext _ | .cvuFeedStart _ | .cvuData8 _ _ | .cvuData16 _ _ | .cvuData32 _ _ | .cvuResultRead _ _
  | .cvuComputeJob _ | .cvuAppendJob _ | .cvuStripJob _ | .cvuJobDone _ | .crcBlock _ _ _ _ _ _ _ | .attestCommand _ _
  | .lcAdvance _ _ _ | .enrol _ _ _ | .invalidateBranch _ | .tamperClear _ | .rootRestore _ | .fuseProgrammed
  | .keyRequestDone | .keyBranch _ | .keyDerive _ _ _ | .keyDigest _ _ _ | .keySign _ _ _ | .keyPublic _ _
  | .keyInvalidate _ _ | .random _ _ _ | .attest _ _ | .keyRemask | .rngHealthFail _ | .rngSelfTest _ | .keyRngRead
  | .tamperSample _ | .stageOpen _ | .xfer _ | .xferDone | .xferData _ | .verify _ | .verifyDone | .start _ | .abandon
  | .rollback _ | .lock _ | .shadowCoverageTimeout | .switchDeferTimeout | .watchComplete | .marzinResend _ _
  | .alignHeartbeat | .parentLost | .childLost _ | .rejoin | .arbiterServe _ | .sourceExpiry _ _ _ | .dirRead _ _ _
  | .tapExtest _ _ | .tapIdcode | .tapSamplePreload _ _ | .tapBypass | .svcacc _ _ _ | .presentToken | .clearToken
  | .dbgTokenWrite _ | .enable | .halt | .tickStep | .tickStepFrozen | .stepEnd | .release | .coreRun _
  | .forceEntryWrite _ _ _ | .probeIdleTimeout | .trstNLow | .accessRefused _ _ _ | .accessOutOfRange _ _ _
  | .registerWrite _ _ _ | .backupDomainValid | .busIntegrationDone _ | .plcaConflictTimeout _ | .reverseBlockEnd _ => true

end Sys2Proof
end

