-- ==== Sys2Proof/Tests/Slice0.lean ====
section
/-! SUPPORT. Tests: well-formedness, worked examples of the manual, and for every obligation with hypotheses a state and
operands that meet them. -/
namespace Sys2Proof.Tests
open Sys2Proof Sys2Proof.Machine

/-! ### Small states -/

/-- Bytes of a record, filled to 32. -/
def rec32 (l : List Nat) : List Byte := l.map b8 ++ List.replicate (32 - l.length) 0

/-- A section of 32-byte records. -/
def sec32 (t : Nat) (l : List (List Nat)) : Section :=
  { type := t, flags := 0, count := l.length, recSize := 32, body := l.flatMap rec32 }

/-- Drawers 0 and 1 with every grant; task 0 of drawer 0 in deadline mode WORK, task 1 of drawer 0, task 2 of drawer 1;
points 0 to 2: of task 0, digital output 3 of task 0, of task 2. -/
def img : List Section := [
  sec32 2 [List.replicate 16 0 ++ List.replicate 12 0xAA, [1] ++ List.replicate 15 0 ++ List.replicate 12 0xAA],
  sec32 5 [[0, 0, 0, 3], [1, 0, 0, 1, 0, 0, 3, 0x20], [2, 0, 1, 3, 2, 0]],
  sec32 6 [[0, 0, 1, 0, 1, 0, 0, 0, 1, 2], [1, 0, 1, 0, 1, 0, 0, 0, 1], [2, 1, 1, 0, 1, 0, 0, 0, 1]]]

/-- A copy in drive on core 0 with a write set. -/
def copy0 (ws : WriteSet) : Copy := { core := 0, phase := .drive, ws := ws }

/-- A stroke of one copy on core 0. -/
def stroke0 (ws : WriteSet) : Stroke := { catchTn := 0, catchEdge := 0, relEdge := 1, snap := [], copies := [copy0 ws] }

/-- Core 0 drives a stroke of task 0 in RUN. -/
def drives (ws : WriteSet) : State := {
  sys := { boot := .loaded, mode := .run }
  drw := { load := 2, image := img }
  enabled := [.stk, .dvt, .dio, .hie]
  cores := { powered := true, driving := some 0 } :: List.replicate 15 {}
  stk := { tasks := { st := .live, stroke := some (stroke0 ws) } :: List.replicate 63 {} } }

/-- A message header from a node. -/
def hd (sender seq dest : Nat) : MarzinHead :=
  { valid := true, sender := sender, seq := seq, ackReq := false, weight := 1, origin := sender, drawer := 0, dest := dest, len := 36 }

/-- A worker whose parent is node 1. -/
def worker : State := { enabled := [.hie], hie := { role := 1, node := 5, parent := 1, admitted := true } }

/-- A manager with the child 7. -/
def manager : State := { enabled := [.hie], hie := { role := 2, node := 1, children := [{ node := 7, role := 1, identity := [] }] } }

/-- A message to a node. -/
def msgTo (dest : Nat) (body : MarzinBody) : Marzin :=
  { ackReq := false, weight := 1, origin := 7, drawer := 0, dest := dest, via := 7, len := 36, body := body }


/-! ### Operands -/

/-- A journal record with a message of a length. -/
def bigRec (n : Nat) : JRecord :=
  { tn := 1, edge := 5, entries := [.message { sender := 0, dest := 0, seq := 0, tn := 0, payload := List.replicate n 0 } false] }

/-- A ring no record of which may go. -/
def ringFull (n : Nat) : State := { wke := { buffer := [bigRec n], ring := [bigRec n] } }

/-- Two records of the ring's size do not fit. -/
theorem bigRec_fills (n : Nat) (h : ringCap ≤ n) :
    makeRoom (recBytes (bigRec n)).length (ckEdge (newestBank (ringFull n).wke)) (ringFull n).wke.ring = none := by
  have hl : n ≤ (recBytes (bigRec n)).length := by simp [recBytes, bigRec, jBytes]; omega
  have hn : ¬ (ringBytes [bigRec n] + (recBytes (bigRec n)).length ≤ ringCap) := by
    have hr : ringBytes [bigRec n] = 0 + (recBytes (bigRec n)).length := rfl
    unfold ringCap at *; omega
  show (if ringBytes [bigRec n] + (recBytes (bigRec n)).length ≤ ringCap then _ else if (5 : Nat) > 0 then none else _) = none
  rw [if_neg hn]; rfl

/-- A body without rules, and a copy of it. -/
def emptyBody : List Byte := List.replicate 4256 0

/-- A copy stored with its own check passes it. -/
theorem copyOk_self (b : List Byte) (h : b.length = 4256) (d : List Byte) : copyOk { body := b, crc := crc32c b, digest := d } = true := by
  simp [copyOk, jigBytes, h]

/-- The matrix has adopted its copy. -/
def jigged : State := { jig := { active := true, matrix := emptyBody, copy0 := { body := emptyBody, crc := crc32c emptyBody } } }

/-- The image of a module with T1S station 2 at MAC 7. -/
def imgSta : List Section := [sec32 0xC [[1, 7, 2, 0, 1, 0, 0, 0, 0, 0, 2, 0, 0, 3]]]

/-- A marker's reply due of the station. -/
def sta : Station := { due := some { edge := 5, tn := 5, seq := 3 } }

/-- Its reply. -/
def replyHead : List Byte := [1, 2, 0, 2, 3, 0, 0, 0, 0, 0, 0, 0]

/-- A CAN frame. -/
def canFrm : CanFrame := { ide := false, id := 0, fdf := true, brs := false, esi := false, rtr := false, dlc := 1, data := [7] }

/-- A queued frame. -/
def canEnt : CanEntry := { frame := canFrm, pair := 0, ts := 0, afterLoss := false }

/-- NETWORK: backbone MAC 9, whose queues and rings belong to drawer 0. -/
def macs : Section := sec32 0xA [[3, 9]]

/-- MEMORY: a window of task 0. -/
def memWin : Section := sec32 4 [[0, 0, 1, 0, 0, 0, 0, 0x80, 0, 0x20]]

/-- FILTERS: address 0 of MAC 9 is 02-00-00-00-00-01. -/
def addrs : Section := sec32 0xB [[2, 9, 0, 0, 0, 0, 0, 0, 2, 0, 0, 0, 0, 1]]

/-- Rings and queues of task 0. -/
def ethMac : Mac := {
  link := true
  rings := List.replicate 4 { run := true, log2 := 2, base := 0x80001000 }
  queues := List.replicate 8 { run := true, log2 := 2, base := 0x80001800, head := 1 } }

/-- Core 0 drives task 0, which owns rings, queues and a window. -/
def eth : State := { drives {} with
  drw := { load := 2, image := img ++ [macs, memWin] }, enabled := [.mac 9], mac := List.replicate 10 ethMac }

/-- A frame waiting for the line. -/
def macTx : MacTx := { src := .ring 1, onLine := false }

/-- A frame to 02-00-00-00-00-01. -/
def frm : List Byte := [2, 0, 0, 0, 0, 1, 0, 0, 0, 0, 0, 0, 8, 0] ++ List.replicate 46 0

/-- A MAC that may send PAUSE: 80 and 40 percent. -/
def pauseMac : Mac := { link := true, opts := 8, pauseCfg := 0x00FF5028 }

/-- A PTP message. -/
def ptpMsg : PtpMessage := { domain := 0, kind := .announce, twoStep := true, offset := none, freq := 0, delay := some 5, ptpNs := 0, sinceNs := 0, roles := none }

/-- PTP runs at MAC 9. -/
def ptping : State := { enabled := [.ptp], ptp := { prio := 2 ^ 25 } }

/-- Record 1, of drawer 0. -/
def evRec : EvRecord := { recno := 1, code := 1, drawer := 0, severity := 0, trust := 0, block := 1, unit := 0, folded := false, repeats := 1, opTime := 0, cycles := 0, cal := 0, detail := 0 }

/-- Core 0 drives task 2, of drawer 1. -/
def other : State := { drives {} with
  cores := { powered := true, driving := some 2 } :: List.replicate 15 {}
  stk := { tasks := {} :: {} :: { st := .live, stroke := some (stroke0 {}) } :: List.replicate 61 {} } }

/-- A job of 4 bytes in memory. -/
def cvJob : Cvu := { busy := true, mode := 1, src := 0x80000000, len := 4 }

/-- A heartbeat. -/
def beat : MarzinBody := .align { kind := .beat, role := 2, identity := [], origin := 7, tick := 0 }

/-- A node asks to join. -/
def joinMsg : AlignMsg := { kind := .join true, role := 1, identity := [], origin := 8, tick := 0 }

/-- A source with a message. -/
def src1 : Source := { origin := 7, drawer := 0, weight := 1, queue := [msgTo 1 beat] }

/-- Cores with a breakpoint, and with a watchpoint. -/
def bpCore : DbgCore := { bps := List.replicate 7 0 ++ [0x1001] }

/-- A watchpoint on 16 bytes, reads and writes as its control word says. -/
def wpCore : DbgCore := { wps := List.replicate 3 (0, 0) ++ [(0x1000, 2 ^ 31 + 2 ^ 9 + 4)] }

/-- The outside world at an edge: nothing. -/
def edgeIn : EdgeIn := {
  vsys := 2400, temp := 250, inCurrent := [], outCurrent := [], grpVolt := [], grpCurrent := [], pins := 0, conv := [],
  delays := [], wakeFail := [], commitNs := 0, bootMs := 0, nandWorn := false }

/-- A copy whose drive has returned, with its write set. -/
def doneCopy (ws : WriteSet) : Copy := { core := 0, phase := .done, ws := ws }

/-- The stroke of one copy. -/
def strokeOf (x : Copy) : Stroke := { stroke0 {} with copies := [x] }

/-- Task 0 at the release edge of a stroke of one copy. -/
def releasing (x : Copy) : State := { drives {} with
  stk := { edges := 1, tasks := { st := .live, stroke := some (strokeOf x) } :: List.replicate 63 {} } }

/-- LOOPS: slot 0, period 1, output point 0. -/
def loopRec0 : Rec := [0, 0, 0, 0, 1] ++ List.replicate 59 0

/-- A module with loop slot 0. -/
def looping (l : LoopSlot) : State := {
  drw := { image := [{ type := 8, flags := 0, count := 1, recSize := 64, body := loopRec0 }] }
  lpe := { slots := [(0, l)] } }

/-- Item 0 of station 2 at MAC 7, and its point. -/
def item0 : Rec := rec32 [2, 7, 2, 0]

/-- The point of item 0. -/
def itemPt : Rec := rec32 [0, 0, 0, 3, 0, 0xF0, 0, 0x50]

/-- A module with item 0. -/
def itemed : State := { drw := { image := [sec32 0xC [[2, 7, 2, 0]], sec32 5 [[0, 0, 0, 3, 0, 0xF0, 0, 0x50]]] } }

/-- MAC 9 with a descriptor of 64 bytes at 0x8000_4000 in ring 0. -/
def ringMac : Mac := { link := true, rings := { run := true, log2 := 2, base := 0x80003000, tail := 1 } :: List.replicate 3 {} }

/-- The module of that MAC. -/
def ringing : State := {
  drw := { image := [macs] }, enabled := [.mac 9], mac := List.replicate 10 ringMac
  mem := [(0x80003001, 0x40), (0x80003003, 0x80), (0x80003004, 64)] }

/-- A zone manager whose parent is node 1, with the child 7. -/
def zone : State := { worker with
  hie := { worker.hie with role := 3, children := [{ node := 7, role := 1, identity := [] }] } }


/-! ### Well-formed and ill-formed commands: each check of `Instr.wf` refuses a term -/

theorem test_wf_words : Instr.wf (.jigLatchClr (2 ^ 32)) = false ∧ Instr.wf (.jigLatchClr (2 ^ 32 - 1)) = true ∧
    Instr.wf (.canSend 0 0 0 (2 ^ 32) 0 []) = false ∧ Instr.wf (.canSend 0 0 0 0 (2 ^ 32) []) = false ∧
    Instr.wf (.rtcSet 0 (2 ^ 32) 0) = false ∧ Instr.wf (.rtcSet 0 0 (2 ^ 32)) = false := by decide

theorem test_wf_points : Instr.wf (.writeViewWrite 0 (2 ^ 16) 0 []) = false ∧ Instr.wf (.send 0 (2 ^ 16) []) = false ∧
    Instr.wf (.send 0 65535 []) = true := by decide

theorem test_wf_can : Instr.wf (.canTxRequest 0 8) = false ∧ Instr.wf (.canTxCancel 0 7) = true ∧
    Instr.wf (.canTxEnd 0 (some { code := 7, dataPhase := false, exempt := false, more := 0 }) 0) = false ∧
    Instr.wf (.canTxEnd 0 none (2 ^ 64)) = false ∧
    Instr.wf (.canRxError 0 { code := 0, dataPhase := false, exempt := false, more := 0 } false) = false := by decide

theorem test_wf_can_frame : Instr.wf (.canFrameReceive 0 canFrm 0) = true ∧ Instr.wf (.canFrameReceive 0 canFrm (2 ^ 64)) = false ∧
    CanFrame.wf { canFrm with ide := true, id := 2 ^ 29 } = false ∧ CanFrame.wf { canFrm with dlc := 16 } = false ∧
    CanFrame.wf { canFrm with fdf := false, data := List.replicate 9 0 } = false ∧
    CanFrame.wf { canFrm with id := 1 } = false := by decide

theorem test_wf_lengths : Instr.wf (.canSend 0 0 0 0 0 (List.replicate 65 0)) = false ∧
    CanFrame.wf { canFrm with data := List.replicate 65 0 } = false ∧
    Instr.wf (.marzinEventFwd (hd 1 2 3) (List.replicate 32 0) (2 ^ 32)) = false ∧
    Instr.wf (.marzinEventFwd (hd 1 2 3) (List.replicate 32 0) 5) = true := by
  simp [Instr.wf, CanFrame.wf, canFrm, MarzinHead.wf, hd, fits, wordOk]

theorem test_wf_stamps : Instr.wf (.macFrameReceive 0 (.frame [] 0 0 true false (2 ^ 64) 0)) = false ∧
    Instr.wf (.macTxComplete 0 (2 ^ 64)) = false ∧ Instr.wf (.macTxComplete 9 (2 ^ 64 - 1)) = true := by decide

theorem test_wf_events : Instr.wf (.eventOccurrence 0x4009 4 0 0 0) = true ∧ Instr.wf (.eventOccurrence (2 ^ 16) 4 0 0 0) = false ∧
    Instr.wf (.eventOccurrence 1 32 0 0 0) = false ∧ Instr.wf (.eventOccurrence 1 0 2048 0 0) = false ∧
    Instr.wf (.eventOccurrence 1 0 0 32 0) = false := by decide

theorem test_wf_probe : Instr.wf (.coreHalt 0 (2 ^ 32) []) = false ∧ Instr.wf (.coreHalt 0 0 [(96, 0)]) = false ∧
    Instr.wf (.coreHalt 0 0 [(0, 2 ^ 64)]) = false ∧ Instr.wf (.coreHalt 0 0 [(95, 7)]) = true := by decide

theorem test_wf_edge : Instr.wf (.tickEdge edgeIn) = false ∧ EdgeIn.wf { edgeIn with
      inCurrent := List.replicate 32 0, outCurrent := List.replicate 32 0
      grpVolt := List.replicate 4 0, grpCurrent := List.replicate 4 0 } = true ∧
    EdgeIn.wf { edgeIn with
      inCurrent := List.replicate 32 0, outCurrent := List.replicate 31 0
      grpVolt := List.replicate 4 0, grpCurrent := List.replicate 4 0 } = false ∧
    EdgeIn.wf { edgeIn with
      inCurrent := List.replicate 32 0, outCurrent := List.replicate 32 0
      grpVolt := List.replicate 5 0, grpCurrent := List.replicate 4 0 } = false ∧
    EdgeIn.wf { edgeIn with
      inCurrent := List.replicate 32 0, outCurrent := List.replicate 32 0
      grpVolt := List.replicate 4 0, grpCurrent := List.replicate 3 0 } = false ∧
    EdgeIn.wf { edgeIn with
      inCurrent := List.replicate 32 0, outCurrent := List.replicate 32 0
      grpVolt := List.replicate 4 0, grpCurrent := List.replicate 4 0, pins := 2 ^ 32 } = false := by decide

theorem test_wf_marzin : MarzinHead.wf (hd 1 2 3) = true ∧ MarzinHead.wf { hd 1 2 3 with sender := 2 ^ 16 } = false ∧
    MarzinHead.wf { hd 1 2 3 with seq := 2 ^ 32 } = false ∧ MarzinHead.wf { hd 1 2 3 with weight := 256 } = false ∧
    MarzinHead.wf { hd 1 2 3 with origin := 2 ^ 16 } = false ∧ MarzinHead.wf { hd 1 2 3 with drawer := 256 } = false ∧
    MarzinHead.wf { hd 1 2 3 with dest := 2 ^ 16 } = false ∧
    MarzinHead.wf { hd 1 2 3 with stamp := 2 ^ 64 } = false ∧ MarzinHead.wf { hd 1 2 3 with len := 2 ^ 16 } = false := by decide

theorem test_wf_marzin_bodies : Instr.wf (.marzinEventFwd (hd 1 2 3) [] 1) = false ∧
    Instr.wf (.marzinCause (hd 1 2 3) 0 [(2 ^ 16, 0)]) = false ∧
    Instr.wf (.tagWrite 0 512 [7]) = false ∧ Instr.wf (.tagWrite 0 511 [7]) = true ∧
    Instr.wf (.marzinNotice { hd 1 2 3 with len := 2 ^ 16 } 0 0) = false := by decide

/-! ### Worked examples and tables of the manual -/

/-- The nine bytes of R447. -/
def digits : List Byte := [0x31, 0x32, 0x33, 0x34, 0x35, 0x36, 0x37, 0x38, 0x39]

/-- The column Check of R447. -/
theorem test_checks : crc 0 digits = 0xDF ∧ crc 1 digits = 0x29B1 ∧ crc 2 digits = 0xCBF43926 ∧ crc 3 digits = 0xE3069283 := by decide +kernel

/-- The sealed record of chapter 16: the trailer 0x83, 0x92, 0x06, 0xE3. -/
theorem test_append : crcBytes 3 (crc 3 digits) = [0x83, 0x92, 0x06, 0xE3] := by decide +kernel

/-- Rules 0 and 1 of chapter 7: DI00 latched, reset by condition 5; DI01 inverted. -/
def fireRules : List Byte := leBytes 4 0x51480000 ++ List.replicate 28 0 ++ leBytes 4 0x71480001 ++ List.replicate 28 0

/-- The fire rules: DI00 latches rule 0 and a returned DI00 leaves it; DI01 low latches rule 1; condition 5 resets. -/
theorem test_fire_rules : evalRules fireRules 3 0 0 = (1, 1) ∧ (evalRules fireRules 2 0 1).2 = 1 ∧ (evalRules fireRules 0 0 0).2 = 2 ∧
    (evalRules fireRules 2 32 1).2 = 0 := by decide +kernel

/-- The loop of chapter 10: rnd(p, 28) at edge 6,000,000, and the output released at edge 6,000,008. -/
theorem test_loop_rounding : rnd (0x1810624E * 3858759 + signed 32 0xE8000000 * 4194304) 28 = -487882 ∧
    rnd (16035664 * 10000000) 24 = 9558001 := by decide

/-- The calendar (R404): the last instant of the calendar, and the first second of 2001. -/
theorem test_calendar : setSeconds (23 * 2 ^ 12 + 59 * 2 ^ 6 + 59) (time1 4291747199) = some 4291747199 := by decide +kernel

/-! ### One step on a small state -/

/-- A step runs the front of the queue. -/
theorem test_step_front : step { pending := [.tapIdcode, .tnLatch], sys := { boot := .loaded } } =
    .next { pending := [.tnLatch], sys := { boot := .loaded }, dbg := { ir := 1 }, answer := .value 0x16400FFF } := by rfl

/-- The block idles with nothing waiting. -/
theorem test_step_idle : step {} = .next {} := by rfl

/-- No row of the table has bits. -/
theorem test_decode : decodeTableWord 32 0 = none ∧ ({} : State).withFetchWord 32 0 = {} := ⟨rfl, rfl⟩

/-! ### Every statement's hypotheses are met -/

/-- Obligations.PowerUpStages. -/
theorem met_PowerUpStages :
    (∃ s : State, s.sys.boot = .off) ∧
    (∃ s : State, s.sys.boot = .held) ∧
    (∃ flips : List (Nat × Byte), ∃ s : State,
      let c := jigCopy (spoilCopy flips s.jig)
      s.sys.boot ≠ .off ∧ s.jig.readDue = true ∧ (c.body = [] ∨ copyOk c = true) ∧ (c.body = [] ∨ s.jig.adoptDue =
      false)) ∧
    (∃ flips : List (Nat × Byte), ∃ s : State,
      let c := jigCopy (spoilCopy flips s.jig)
      s.sys.boot ≠ .off ∧ s.jig.readDue = true ∧ c.body ≠ [] ∧ copyOk c = false) ∧
    (∃ s : State, (s.sys.boot = .off ∨ s.jig.readDue = false)) ∧
    (∃ s : State, s.sys.boot = .released) ∧
    (∃ s : State, s.sys.boot = .clocked ∧ s.sys.tamperHold = false) :=
  ⟨⟨{ sys := { boot := .off } }, by decide⟩,
   ⟨{}, by decide⟩,
   ⟨[], { jig := { readDue := true }, sys := { boot := .held } }, by decide⟩,
   ⟨[], { jig := { readDue := true, copy0 := { body := [0] } }, sys := { boot := .released } }, by decide⟩,
   ⟨{ sys := { boot := .loaded }, jig := { readDue := false } }, by decide⟩,
   ⟨{ sys := { boot := .released } }, by decide⟩,
   ⟨{ sys := { boot := .clocked } }, by decide⟩⟩

/-- Obligations.BraceStages. -/
theorem met_BraceStages :
    (∃ s : State, s.sys.boot ≠ .off ∧ s.sys.pfw = false) ∧
    (∃ s : State, s.sys.brace = true ∧ s.wke.suspended = false ∧ s.wke.writing = none) ∧
    (∃ s : State, s.sys.pfw = true ∧ s.sys.confirming = true ∧ s.sys.brace = true ∧ s.sys.mode ≠ .rigging ∧
      s.evr.moveWait = false) ∧
    (∃ s : State, s.sys.brace = true ∧ s.sys.braceLong = false) ∧
    (∃ s : State, driving s = true ∧ s.dbg.ir ≠ 0) ∧
    (∃ s : State, driving s = true ∧ s.dbg.ir ≠ 0 ∧ s.sys.pfw = false) ∧
    (∃ s : State, driving s = false) :=
  ⟨⟨{ sys := { boot := .loaded } }, by decide⟩,
   ⟨{ sys := { brace := true } }, by decide⟩,
   ⟨{ sys := { boot := .loaded, mode := .run, pfw := true, confirming := true, brace := true } }, by decide⟩,
   ⟨{ sys := { brace := true } }, by decide⟩,
   ⟨{ sys := { boot := .loaded, pfw := true } }, by decide⟩,
   ⟨{ sys := { boot := .loaded } }, by decide⟩,
   ⟨{}, by decide⟩⟩

/-- Obligations.ResetCauses. -/
theorem met_ResetCauses :
    (∃ s : State, s.sys.boot ≠ .off ∧ s.sys.boot ≠ .held) ∧
    (∃ s : State, s.sys.boot ≠ .off ∧ s.sys.boot ≠ .held) ∧
    (∃ s : State, s.sys.boot ≠ .off ∧ s.sys.boot ≠ .held) ∧
    (∃ s : State, s.sys.boot ≠ .off ∧ s.sys.boot ≠ .held ∧ (s.sys.mode = .rigging ∨ s.sys.mode = .hold)) ∧
    (∃ s : State, (s.sys.mode = .run ∨ s.sys.mode = .degraded)) ∧
    (∃ v : Nat, v ≠ 0x5E7A0001) ∧
    (∃ s : State, s.sys.boot ≠ .off) :=
  ⟨⟨{ sys := { boot := .loaded } }, by decide⟩,
   ⟨{ sys := { boot := .tested } }, by decide⟩,
   ⟨{ sys := { boot := .clocked } }, by decide⟩,
   ⟨{ sys := { boot := .loaded, mode := .hold } }, by decide⟩,
   ⟨{ sys := { boot := .loaded, mode := .run } }, by decide⟩,
   ⟨0, by decide⟩,
   ⟨{ sys := { boot := .loaded } }, by decide⟩⟩

/-- Obligations.ModeRequests. -/
theorem met_ModeRequests :
    (∃ s : State, (s.sys.mode = .run ∨ s.sys.mode = .degraded) ∧ shadowing s.upd = false) ∧
    (∃ s : State, s.sys.mode = .hold ∧ s.sys.tamperHold = false) ∧
    (∃ k : Nat, k % 2 ^ 16 ≠ 0x4A46) ∧
    (∃ s : State, (s.sys.mode = .rigging ∨ s.sys.mode = .hold ∨ s.sys.mode = .debug)) :=
  ⟨⟨{ sys := { mode := .run } }, by decide⟩,
   ⟨{ sys := { mode := .hold } }, by decide⟩,
   ⟨0, by decide⟩,
   ⟨{ sys := { mode := .rigging } }, by decide⟩⟩

/-- Obligations.ReplacementCausesAndTemperature. -/
theorem met_ReplacementCausesAndTemperature :
    (∃ s : State, isUp s = true) ∧
    (∃ port : Fin 2, ∃ s : State, s.declared.contains (.mac (8 + port.val)) = true ∧ (s.mac.getD (8 + port.val)
      {}).link = false ∧ s.sys.replace.testBit 2 = false) ∧
    (∃ s : State, (declaredPorts s).all (fun m => (s.mac.getD m {}).link) = true) ∧
    (∃ s : State, isUp s = true ∧ s.sys.replace.testBit 3 = false) ∧
    (∃ s : State, s.sys.boot ≠ .off) ∧
    (∃ s : State, s.sys.fire = true) ∧
    (∃ s : State, s.sys.fire = true ∧ s.sys.fireOver = false) ∧
    (∃ s : State, s.sys.fire = true ∧ s.sys.fireLong = false) ∧
    (∃ x : Int, ∃ s : State, s.sys.fire = false ∧ s.sys.excursion = false ∧ s.sys.boot ≠ .off ∧ x < -400) :=
  ⟨⟨{ sys := { boot := .loaded } }, by decide⟩,
   ⟨1, { declared := [.mac 9] }, by decide⟩,
   ⟨{}, by decide⟩,
   ⟨{ sys := { boot := .loaded } }, by decide⟩,
   ⟨{ sys := { boot := .loaded } }, by decide⟩,
   ⟨{ sys := { fire := true } }, by decide⟩,
   ⟨{ sys := { fire := true } }, by decide⟩,
   ⟨{ sys := { fire := true } }, by decide⟩,
   ⟨-401, { sys := { boot := .loaded } }, by decide⟩⟩

/-- Obligations.StrokeInquiries. -/
theorem met_StrokeInquiries :
    (∃ core : Fin 16, ∃ n : Nat, ∃ k : Stroke, ∃ x : Copy, ∃ s : State, ∃ m, drivenBy s core.val = some (n, k, x) ∧
      k.inboxFrom + x.ws.taken < k.inboxSeen ∧ (task s n).inbox[k.inboxFrom + x.ws.taken]? = some m) ∧
    (∃ core : Fin 16, ∃ n : Nat, ∃ k : Stroke, ∃ x : Copy, ∃ s : State, drivenBy s core.val = some (n, k, x) ∧
      k.inboxSeen ≤ k.inboxFrom + x.ws.taken) ∧
    (∃ core : Fin 16, ∃ n : Nat, ∃ k : Stroke, ∃ x : Copy, ∃ s : State, ∃ p off : Nat, drivenBy s core.val = some
      (n, k, x) ∧ (pointRec s.drw.image p).elim false (fun r => ptWriter r = n) = true ∧ off < 9) :=
  ⟨⟨0, 0, { stroke0 {} with inboxSeen := 1 }, (copy0 {}),
    { drives {} with stk := { tasks := [{ stroke := some { stroke0 {} with inboxSeen := 1 }, inbox := [{ sender := 1, dest := 0, seq := 0, tn := 0, payload := [1] }] }] } },
    { sender := 1, dest := 0, seq := 0, tn := 0, payload := [1] }, by decide⟩,
   ⟨0, 0, (stroke0 {}), (copy0 {}), (drives {}), by decide⟩,
   ⟨0, 0, (stroke0 {}), (copy0 {}), (drives {}), 0, 8, by decide⟩⟩

/-- Obligations.SendCodes. -/
theorem met_SendCodes :
    (∃ core : Fin 16, ∃ dest n : Nat, ∃ k : Stroke, ∃ x : Copy, ∃ l : List Byte, ∃ s : State, drivenBy s core.val =
      some (n, k, x) ∧ x.ws.msgs.length < 16 ∧ 1 ≤ l.length ∧ l.length ≤ 256 ∧ (taskRec s.drw.image dest).elim false
      (fun r => tkDrawer r = taskDrawer s n) = true) ∧
    (∃ core : Fin 16, ∃ n : Nat, ∃ k : Stroke, ∃ x : Copy, ∃ l : List Byte, ∃ s : State, drivenBy s core.val = some
      (n, k, x) ∧ (16 ≤ x.ws.msgs.length ∨ l.length = 0 ∨ 256 < l.length)) ∧
    (∃ core : Fin 16, ∃ dest n : Nat, ∃ k : Stroke, ∃ x : Copy, ∃ l : List Byte, ∃ s : State, drivenBy s core.val =
      some (n, k, x) ∧ x.ws.msgs.length < 16 ∧ 1 ≤ l.length ∧ l.length ≤ 256 ∧ (taskRec s.drw.image dest).elim true
      (fun r => tkDrawer r ≠ taskDrawer s n) = true) ∧
    (∃ tn : Nat, ∃ m : Msg, ∃ s : State, m.dest < s.stk.tasks.length ∧ m.sender < s.stk.tasks.length ∧ (task s
      m.dest).inbox.length < 32) ∧
    (∃ tn : Nat, ∃ m : Msg, ∃ s : State, m.dest < s.stk.tasks.length ∧ m.sender < s.stk.tasks.length ∧ 32 ≤ (task s
      m.dest).inbox.length) :=
  ⟨⟨0, 1, 0, (stroke0 {}), (copy0 {}), [7], (drives {}), by decide⟩,
   ⟨0, 0, (stroke0 {}), (copy0 {}), [], (drives {}), by decide⟩,
   ⟨0, 2, 0, (stroke0 {}), (copy0 {}), [7], (drives {}), by decide⟩,
   ⟨5, { sender := 1, dest := 0, seq := 0, tn := 0, payload := [7] }, {}, by decide⟩,
   ⟨5, { sender := 1, dest := 0, seq := 0, tn := 0, payload := [7] },
    { stk := { tasks := [{ inbox := List.replicate 32 { sender := 1, dest := 0, seq := 0, tn := 0, payload := [7] } }, {}] } },
    by decide⟩⟩

/-- Obligations.WriteViews. -/
theorem met_WriteViews :
    (∃ core : Fin 16, ∃ s : State, drivenBy s core.val = none) ∧
    (∃ core : Fin 16, ∃ p off n : Nat, ∃ k : Stroke, ∃ x : Copy, ∃ s : State, drivenBy s core.val = some (n, k, x)
      ∧ (pointRec s.drw.image p).elim false (fun r => ptWriter r = n) = true ∧ off < 9) ∧
    (∃ core : Fin 16, ∃ p off n : Nat, ∃ k : Stroke, ∃ x : Copy, ∃ s : State, drivenBy s core.val = some (n, k, x)
      ∧ (pointRec s.drw.image p).elim false (fun r => ptWriter r = n) = true ∧ 9 ≤ off) ∧
    (∃ core : Fin 16, ∃ p n : Nat, ∃ k : Stroke, ∃ x : Copy, ∃ s : State, drivenBy s core.val = some (n, k, x) ∧
      (pointRec s.drw.image p).elim false (fun r => ptWriter r = n) = false) :=
  ⟨⟨15, (drives {}), by decide⟩,
   ⟨0, 0, 8, 0, (stroke0 {}), (copy0 {}), (drives {}), by decide⟩,
   ⟨0, 1, 9, 0, (stroke0 {}), (copy0 {}), (drives {}), by decide⟩,
   ⟨0, 2, 0, (stroke0 {}), (copy0 {}), (drives {}), by decide⟩⟩

/-- Obligations.TransactionGroups. -/
theorem met_TransactionGroups :
    (∃ core : Fin 16, ∃ n g : Nat, ∃ x : Copy, ∃ s : State, grpCaller s core.val = some (n, x, g) ∧ x.ws.grp =
      .idle ∧ x.ws.grpUsed = false) ∧
    (∃ core : Fin 16, ∃ n g : Nat, ∃ x : Copy, ∃ s : State, grpCaller s core.val = some (n, x, g) ∧ x.ws.grp =
      .opened) ∧
    (∃ core : Fin 16, ∃ n g : Nat, ∃ x : Copy, ∃ s : State, grpCaller s core.val = some (n, x, g) ∧ x.ws.grp =
      .overflow) ∧
    (∃ core : Fin 16, ∃ n g : Nat, ∃ x : Copy, ∃ s : State, grpCaller s core.val = some (n, x, g) ∧ (x.ws.grp =
      .opened ∨ x.ws.grp = .overflow)) ∧
    (∃ core : Fin 16, ∃ n g : Nat, ∃ x : Copy, ∃ s : State, grpCaller s core.val = some (n, x, g) ∧ x.ws.grp =
      .committed) :=
  ⟨⟨0, 0, 1, (copy0 {}), { drives {} with dvt := { groups := [1, 0] } }, by decide⟩,
   ⟨0, 0, 0, (copy0 { grp := .opened }), { drives { grp := .opened } with dvt := { groups := [0] } }, by decide⟩,
   ⟨0, 0, 0, (copy0 { grp := .overflow }), { drives { grp := .overflow } with dvt := { groups := [0] } }, by
    decide⟩,
   ⟨0, 0, 0, (copy0 { grp := .opened }), { drives { grp := .opened } with dvt := { groups := [0] } }, by decide⟩,
   ⟨0, 0, 0, (copy0 { grp := .committed }), { drives { grp := .committed } with dvt := { groups := [0] } }, by
    decide⟩⟩

/-- Obligations.DriveEnds. -/
theorem met_DriveEnds :
    (∃ core : Fin 16, ∃ n : Nat, ∃ k : Stroke, ∃ x : Copy, ∃ s : State, drivenBy s core.val = some (n, k, x) ∧
      x.shadow = false ∧ (x.ws.grp = .idle ∨ x.ws.grp = .committed)) ∧
    (∃ core : Fin 16, ∃ n : Nat, ∃ k : Stroke, ∃ x : Copy, ∃ s : State, drivenBy s core.val = some (n, k, x) ∧
      taskIsWork s n = true ∧ isShadow s n core.val = false) ∧
    (∃ core : Fin 16, ∃ s : State, coreRuns s core.val = true ∧ tget s.wke.seats core.val ≠ some .free) ∧
    (∃ s : State, (declaredSlots s).Pairwise (· < ·)) ∧
    (∃ n : Nat, ∃ k : Stroke, ∃ x : Copy, ∃ s : State, ∃ i : Nat, ∃ v : BitVec 64, ∃ q : Byte, (task s n).st =
      .live ∧ (task s n).stroke = some k ∧ k.relEdge = s.stk.edges ∧ k.copies = [x] ∧ x.shadow = false ∧
      s.wke.alone.contains n = false ∧ ((∀ y ∈ s.wke.settles, y.slot ≠ n)) ∧ x.phase = .done ∧ x.stop = none ∧
      (x.ws.points.map (·.1)).Nodup ∧ tget x.ws.points i = some (v, q)) ∧
    (∃ n : Nat, ∃ k : Stroke, ∃ x : Copy, ∃ s : State, ∃ i : Nat, (task s n).st = .live ∧ (task s n).stroke = some
      k ∧ k.relEdge = s.stk.edges ∧ k.copies = [x] ∧ x.shadow = false ∧ s.wke.alone.contains n = false ∧ ((∀ y ∈
      s.wke.settles, y.slot ≠ n)) ∧ x.phase = .done ∧ x.stop = none ∧ tget x.ws.points i = none) ∧
    (∃ n : Nat, ∃ k : Stroke, ∃ x : Copy, ∃ s : State, (task s n).st = .live ∧ (task s n).stroke = some k ∧
      k.relEdge = s.stk.edges ∧ k.copies = [x] ∧ x.shadow = false ∧ s.wke.alone.contains n = false ∧ ((∀ y ∈
      s.wke.settles, y.slot ≠ n)) ∧ x.phase = .done ∧ x.stop = none ∧ x.ws.work = [] ∧ x.ws.retained = []) ∧
    (∃ n : Nat, ∃ k : Stroke, ∃ x : Copy, ∃ s : State, ∃ o a : Nat, ∃ v : BitVec 64, (task s n).st = .live ∧ (task
      s n).stroke = some k ∧ k.relEdge = s.stk.edges ∧ k.copies = [x] ∧ x.shadow = false ∧ s.wke.alone.contains n =
      false ∧ ((∀ y ∈ s.wke.settles, y.slot ≠ n)) ∧ x.phase = .done ∧ x.stop = none ∧ x.ws.work = [] ∧ x.ws.retained
      = [(o, v)] ∧ retAddr (retWins s.drw.image n) o = some a) ∧
    (∃ n : Nat, ∃ k : Stroke, ∃ x : Copy, ∃ s : State, ∃ r, r ∈ ownedBy s.drw.image n ∧ (task s n).st = .live ∧
      (task s n).stroke = some k ∧ k.relEdge = s.stk.edges ∧ k.copies = [x] ∧ x.shadow = false ∧
      s.wke.alone.contains n = false ∧ ((∀ y ∈ s.wke.settles, y.slot ≠ n)) ∧ (x.phase ≠ .done ∨ x.stop ≠ none) ∧
      (tget s.dvt.image (ptIndex r)).isSome = true) ∧
    (∃ n : Nat, ∃ s : State, (task s n).st = .armed ∧ (if taskIsEvent s n then 0 < (task s n).pend else (task s
      n).due = s.stk.edges)) ∧
    (∃ n : Nat, ∃ s : State, ((task s n).st ≠ .armed ∨ (if taskIsEvent s n then (task s n).pend = 0 else (task s
      n).due ≠ s.stk.edges))) ∧
    (∃ n : Nat, ∃ r : Rec, ∃ s : State, taskRec s.drw.image n = some r ∧ tkEvent r = true ∧ n < s.stk.tasks.length
      ∧ (task s n).st ≠ .off ∧ (task s n).st ≠ .stopped ∧ (task s n).pend ≤ 65535) ∧
    (∃ c n : Nat, ∃ s : State, c < s.cores.length ∧ coreRuns s c = true ∧ bestReady s c = some n ∧ ((s.cores.getD c
      {}).driving.elim true (fun m => decide (taskPrio s m < taskPrio s n))) = true) ∧
    (∃ p : EdgePlan, ∃ s : State,
      let o := openRecord (!tickLocked s) s
      p.commits = true ∧ p.hold = false ∧ s.enabled.contains .lpe = false) ∧
    (∃ p : EdgePlan, ∃ s : State, s.sys.mode ≠ .debug ∧ p.hold = false ∧ p.debug = false) :=
  ⟨⟨0, 0, (stroke0 {}), (copy0 {}), (drives {}), by decide⟩,
   ⟨0, 0, (stroke0 {}), (copy0 {}), (drives {}), by decide⟩,
   ⟨15, (drives {}), by decide⟩,
   ⟨(drives {}), by decide⟩,
   ⟨0, (strokeOf (doneCopy { points := [(0, (5, 0x80))] })), (doneCopy { points := [(0, (5, 0x80))] }), (releasing
    (doneCopy { points := [(0, (5, 0x80))] })), 0, 5, 0x80, by decide⟩,
   ⟨0, (strokeOf (doneCopy {})), (doneCopy {}), (releasing (doneCopy {})), 1, by decide⟩,
   ⟨0, (strokeOf (doneCopy {})), (doneCopy {}), (releasing (doneCopy {})), by decide⟩,
   ⟨0, (strokeOf (doneCopy { retained := [(0, 9)] })), (doneCopy { retained := [(0, 9)] }),
    { releasing (doneCopy { retained := [(0, 9)] }) with drw := { image := [sec32 4 [[0, 1, 1, 0, 0, 0, 0, 0x40, 0, 0x10]]] } },
    0, 0x40000000, 9, by decide⟩,
   ⟨0, (strokeOf (copy0 {})), (copy0 {}), { releasing (copy0 {}) with dvt := { image := [(0, {})] } }, (rec32 [0,
    0, 0, 3]), by decide⟩,
   ⟨0, { drw := { image := img }, stk := { tasks := [{ st := .armed }] } }, by decide⟩,
   ⟨63, {}, by decide⟩,
   ⟨0, (rec32 [0, 0, 0, 1]),
    { drw := { image := [sec32 6 [[0, 0, 0, 1]]] }, stk := { tasks := [{ st := .armed, pend := 65535 }] } }, by
    decide⟩,
   ⟨0, 0, { releasing { core := 0, phase := .ready } with cores := List.replicate 16 {} }, by decide⟩,
   ⟨{ reset := false, first := false, commits := true, catches := true, hold := false, debug := false, resume := false, step := false, switch := false, back := false },
    (releasing (doneCopy { points := [(0, (5, 0x80))] })), by decide⟩,
   ⟨{ reset := false, first := false, commits := true, catches := true, hold := false, debug := false, resume := false, step := false, switch := false, back := false },
    (releasing (doneCopy { points := [(0, (5, 0x80))] })), by decide⟩⟩

/-- Obligations.JournalWriter. -/
theorem met_JournalWriter :
    (∃ r : JRecord, ∃ b l : List JRecord, ∃ s : State, s.wke.buffer = r :: b ∧ s.wke.suspended = false ∧ makeRoom
      (recBytes r).length (ckEdge (newestBank s.wke)) s.wke.ring = some l) ∧
    (∃ r : JRecord, ∃ b : List JRecord, ∃ s : State, s.wke.buffer = r :: b ∧ s.wke.suspended = false ∧ makeRoom
      (recBytes r).length (ckEdge (newestBank s.wke)) s.wke.ring = none) ∧
    (∃ b : Bank, ∃ s : State, s.wke.writing = some b ∧ s.wke.suspended = false) ∧
    (∃ b : Bank, ∃ s : State, s.wke.writing = some b) ∧
    (∃ s : State, s.wke.suspended = false) ∧
    (∃ e : Nat, ∃ s : State, s.sys.mode ≠ .debug ∧ s.stk.start = some e ∧ (s.stk.edges - e) % (s.wke.interval * 4)
      = 0 ∧ s.wke.writing.isSome = true) ∧
    (∃ e : Nat, ∃ s : State, s.sys.mode ≠ .debug ∧ s.stk.start = some e ∧ (s.stk.edges - e) % (s.wke.interval * 4)
      = 0 ∧ s.wke.writing = none) :=
  ⟨⟨{ tn := 1, edge := 1, entries := [] }, [], [],
    { wke := { buffer := [{ tn := 1, edge := 1, entries := [] }] } }, by decide⟩,
   ⟨(bigRec ringCap), [], (ringFull ringCap), rfl, rfl, bigRec_fills _ (Nat.le_refl _)⟩,
   ⟨{}, { wke := { writing := some {} } }, by decide⟩,
   ⟨{}, { wke := { writing := some {}, suspended := true } }, by decide⟩,
   ⟨{}, by decide⟩,
   ⟨0, { stk := { start := some 0 }, wke := { writing := some {} } }, by decide⟩,
   ⟨0, { stk := { start := some 0 } }, by decide⟩⟩

/-- Obligations.CoreFailuresAndSelfTests. -/
theorem met_CoreFailuresAndSelfTests :
    (∃ core : Fin 16, ∃ s : State, inDrive s core.val = true ∧ coreHeld s core.val = false ∧ coreOut s core.val =
      false) ∧
    (∃ core : Fin 16, ∃ s : State, coreOut s core.val = false) ∧
    (∃ core : Fin 16, ∃ s : State, coreOut s core.val = false) ∧
    (∃ seat : Fin 16, ∃ s : State, tget s.wke.seats seat.val = some .free ∧ s.wke.seats.all (fun p => p.2 ≠
      .selfTest) = true) ∧
    (∃ seat : Fin 16, ∃ s : State, tget s.wke.seats seat.val = some .selfTest) ∧
    (∃ seat : Fin 16, ∃ s : State, tget s.wke.seats seat.val = some .selfTest ∧ coreOut s seat.val = false) :=
  ⟨⟨0, (drives {}), by decide⟩,
   ⟨15, {}, by decide⟩,
   ⟨0, (drives {}), by decide⟩,
   ⟨14, { wke := { seats := [(14, .free)] } }, by decide⟩,
   ⟨14, { wke := { seats := [(14, .selfTest)] } }, by decide⟩,
   ⟨14, { wke := { seats := [(14, .selfTest)] } }, by decide⟩⟩

/-- Obligations.TakeoversAndSettlements. -/
theorem met_TakeoversAndSettlements :
    (∃ seat : Fin 16, ∃ slot : Fin 64, ∃ tn : Nat, ∃ e : ReplayEnd, ∃ x : Takeover, ∃ s : State,
      s.wke.takeovers.find? (fun t => t.seat = seat.val && t.loaded && t.slots.contains slot.val) = some x ∧ wsetAt
      s.wke slot.val tn = some e.digest ∧ 1 < x.left) ∧
    (∃ b : Bool, ∃ s : State, bankValid (bankOf s.wke (!b)) = true ∧ s.wke.newestB = b) ∧
    (∃ slot : Fin 64, ∃ x : Settle, ∃ s : State, s.wke.settles.find? (fun x => x.slot = slot.val && x.won.isNone) =
      some x) :=
  ⟨⟨15, 63, 9, { digest := 0xAB, state := [] },
    { core := 3, seat := 15, slots := [63], lastEdge := 0, bankB := false, loaded := true, left := 2 },
    { wke := { takeovers := [{ core := 3, seat := 15, slots := [63], lastEdge := 0, bankB := false, loaded := true, left := 2 }], buffer := [{ tn := 9, edge := 9, entries := [.wset 63 0xAB] }] } },
    by decide⟩,
   ⟨false, { wke := { bankB := { complete := true } } }, by decide⟩,
   ⟨63, { slot := 63, seat := 15, relEdge := 1, relTn := 1, stroke := stroke0 {} },
    { wke := { settles := [{ slot := 63, seat := 15, relEdge := 1, relTn := 1, stroke := stroke0 {} }] } }, by
    decide⟩⟩

/-- Obligations.RuleTruth. -/
theorem met_RuleTruth :
    (∃ n : Nat, n < 128) ∧
    (∃ s : State, s.sys.boot ≠ .off ∧ s.jig.active = true ∧ s.jig.matrix ≠ []) ∧
    (∃ n : Nat, ∃ s : State, n < 32 ∧ s.sys.boot ≠ .off ∧ s.sys.boot ≠ .held ∧ s.jig.active = true) ∧
    (∃ n : Nat, ∃ s : State, n < 32 ∧ (s.sys.boot = .off ∨ s.sys.boot = .held ∨ s.jig.active = false)) ∧
    (∃ n : Nat, ∃ r : Rec, ∃ s : State, n < 32 ∧ boundTo s.drw.image 2 n = some r ∧ s.enabled.contains .dio = true) :=
  ⟨⟨127, by decide⟩,
   ⟨{ sys := { boot := .loaded }, jig := { active := true, matrix := [1] } }, by decide⟩,
   ⟨31, { sys := { boot := .loaded }, jig := { active := true } }, by decide⟩,
   ⟨31, {}, by decide⟩,
   ⟨3, (rec32 [1, 0, 0, 1, 0, 0, 3, 0x20]), { drw := { image := img }, enabled := [.dio] }, by decide⟩⟩

/-- Obligations.JigCommands. -/
theorem met_JigCommands :
    (∃ s : State, s.jig.active = true ∧ s.jig.scrubFail = false ∧ s.jig.adoptDue = false ∧ (jigCopy s.jig).body ≠
      [] ∧ copyOk (jigCopy s.jig) = true ∧ s.jig.matrix = (jigCopy s.jig).body) ∧
    (∃ i : Nat, ∃ b : Byte, ∃ s : State, s.jig.active = true ∧ s.jig.scrubFail = false ∧ s.jig.adoptDue = false ∧
      (jigCopy s.jig).body ≠ [] ∧ copyOk (jigCopy s.jig) = true ∧ lmod s.jig.matrix i (fun _ => b) ≠ (jigCopy
      s.jig).body) ∧
    (∃ s : State, s.jig.active = true ∧ s.jig.adoptDue = true) ∧
    (∃ v : Nat, ∃ s : State, s.enabled.contains .jig = true ∧ fld v 16 16 = 0x4A43) ∧
    (∃ v : Nat, ∃ s : State, s.enabled.contains .jig = true ∧ fld v 16 16 ≠ 0x4A43) ∧
    (∃ s : State, s.enabled.contains .jig = false) ∧
    (∃ s : State, s.sys.boot ≠ .off) :=
  ⟨⟨jigged, rfl, rfl, rfl, List.cons_ne_nil _ _, copyOk_self _ List.length_replicate _, rfl⟩,
   ⟨0, 8, jigged, rfl, rfl, rfl, List.cons_ne_nil _ _, copyOk_self _ List.length_replicate _, fun h => absurd
    (congrArg (·.head?) h) (by decide)⟩,
   ⟨{ jig := { active := true, adoptDue := true } }, by decide⟩,
   ⟨0x4A430000, { enabled := [.jig] }, by decide⟩,
   ⟨0, { enabled := [.jig] }, by decide⟩,
   ⟨{}, by decide⟩,
   ⟨{ sys := { boot := .loaded } }, by decide⟩⟩

/-- Obligations.InputMonitors. -/
theorem met_InputMonitors :
    (∃ n : Fin 32, ∃ s : State, diWb (diCh s n.val) = true ∧ (diCh s n.val).wireOpen = false) ∧
    (∃ n : Fin 32, ∃ s : State, (diCh s n.val).wireOpen = true) :=
  ⟨⟨31, { dio := { di := List.replicate 32 { cfg := 0x40 } } }, by decide⟩,
   ⟨0, { dio := { di := List.replicate 32 { wireOpen := true } } }, by decide⟩⟩

/-- Obligations.OutputProtection. -/
theorem met_OutputProtection :
    (∃ i : Nat, ∃ s : State, i < (currentLimit s).1) ∧
    (∃ n : Fin 32, ∃ i : Nat, ∃ s : State, detects s n.val = true ∧ (doCh s n.val).overload = false ∧ (currentLimit
      s).1 ≤ i) ∧
    (∃ n : Fin 32, ∃ s : State, detects s n.val = true ∧ (doCh s n.val).thermal = false ∧ (doCh s n.val).retries <
      8) ∧
    (∃ n : Fin 32, ∃ s : State, detects s n.val = true ∧ (doCh s n.val).thermal = false ∧ 8 ≤ (doCh s
      n.val).retries) ∧
    (∃ n : Fin 32, ∃ c : DoCh, ∃ s : State, s.dio.dout[n.val]? = some c ∧ c.thermal = true ∧ c.cleared = true) ∧
    (∃ n : Fin 32, ∃ c : DoCh, ∃ s : State,
      let on := s.dio.cmd.testBit n.val && grpOn s (grpOf n.val) && !c.latched
      s.dio.dout[n.val]? = some c ∧ c.thermal = true ∧ c.cleared = false ∧ on = true) ∧
    (∃ n : Fin 32, ∃ c : DoCh, ∃ s : State,
      let on := s.dio.cmd.testBit n.val && grpOn s (grpOf n.val) && !c.latched
      s.dio.dout[n.val]? = some c ∧ c.thermal = true ∧ c.cleared = false ∧ on = false) ∧
    (∃ n : Fin 32, ∃ c : DoCh, ∃ s : State, ∃ m : Nat, ∃ x : DoCh, s.dio.dout[n.val]? = some c ∧ c.thermal = true ∧
      m ≠ n.val ∧ s.dio.dout[m]? = some x ∧ (x.thermal = false ∨ x.cooled = false)) ∧
    (∃ n : Nat, n < 32) :=
  ⟨⟨900, { sys := { boot := .loaded } }, by decide⟩,
   ⟨31, 1200, { sys := { boot := .loaded } }, by decide⟩,
   ⟨0, { sys := { boot := .loaded } }, by decide⟩,
   ⟨0, { sys := { boot := .loaded }, dio := { dout := List.replicate 32 { retries := 8 } } }, by decide⟩,
   ⟨31, { thermal := true, cleared := true },
    { dio := { dout := List.replicate 32 { thermal := true, cleared := true } } }, by decide⟩,
   ⟨31, { thermal := true },
    { sys := { boot := .loaded }, dio := { cmd := 2 ^ 31, dout := List.replicate 32 { thermal := true } } }, by
    decide⟩,
   ⟨0, { thermal := true, latched := true },
    { dio := { cmd := 2 ^ 31, dout := List.replicate 32 { thermal := true, latched := true } } }, by decide⟩,
   ⟨31, { thermal := true }, { dio := { dout := List.replicate 32 { thermal := true } } }, 0, { thermal := true },
    by decide⟩,
   ⟨31, by decide⟩⟩

/-- Obligations.OutputDiagnosis. -/
theorem met_OutputDiagnosis :
    (∃ n : Fin 32, ∃ s : State, diagnoses s n.val = true ∧ conducts s n.val = true ∧ (doCh s n.val).cfg.testBit 0 =
      true ∧ (doCh s n.val).openOn = false) ∧
    (∃ n : Fin 32, ∃ s : State, diagnoses s n.val = true ∧ s.dio.cmd.testBit n.val = false ∧ (doCh s
      n.val).cfg.testBit 1 = true ∧ (doCh s n.val).openOff = false) ∧
    (∃ n : Fin 32, ∃ s : State, diagnoses s n.val = true ∧ s.dio.cmd.testBit n.val = false ∧ (doCh s n.val).ext =
      false) ∧
    (∃ n : Fin 32, ∃ s : State, detects s n.val = true ∧ s.dio.cmd.testBit n.val = true) :=
  ⟨⟨31, { sys := { boot := .loaded }, dio := { cmd := 2 ^ 31 } }, by decide⟩,
   ⟨0, { sys := { boot := .loaded }, dio := { dout := List.replicate 32 { cfg := 2 } } }, by decide⟩,
   ⟨31, { sys := { boot := .loaded } }, by decide⟩,
   ⟨0, { sys := { boot := .loaded }, dio := { cmd := 1 } }, by decide⟩⟩

/-- Obligations.OutputGroupsAndClears. -/
theorem met_OutputGroupsAndClears :
    (∃ g : Fin 4, ∃ s : State, s.sys.boot ≠ .off ∧ grpOn s g.val = true ∧ (grp s g.val).retries < 8) ∧
    (∃ g : Fin 4, ∃ s : State, s.sys.boot ≠ .off ∧ grpOn s g.val = true ∧ 8 ≤ (grp s g.val).retries) ∧
    (∃ g : Fin 4, ∃ s : State, (grp s g.val).tripped = true) ∧
    (∃ g : Fin 4, ∃ s : State, s.sys.boot ≠ .off ∧ (grp s g.val).low = false) ∧
    (∃ g : Fin 4, ∃ s : State, (grp s g.val).low = true) ∧
    (∃ g : Fin 4, ∃ s : State, s.sys.boot ≠ .off ∧ (grp s g.val).unpowered = false) ∧
    (∃ g : Fin 4, ∃ s : State, (grp s g.val).unpowered = true) ∧
    (∃ v : Nat, fld v 16 16 = 0x4A44 ∧ v.testBit 0 = true) ∧
    (∃ v : Nat, fld v 16 16 ≠ 0x4A44) ∧
    (∃ v : Nat, ∃ s : State, ∃ g : Nat, ∃ x : Group, fld v 16 16 = 0x4A44 ∧ s.dio.groups[g]? = some x) ∧
    (∃ d n : Fin 32, ∃ s : State, grant s.drw.image d.val 4 ≠ 0 ∧ (boundTo s.drw.image 2 n.val).elim false (fun r
      => ptDrawer r = d.val) = true) :=
  ⟨⟨3, { sys := { boot := .loaded } }, by decide⟩,
   ⟨0, { sys := { boot := .loaded }, dio := { groups := List.replicate 4 { retries := 8 } } }, by decide⟩,
   ⟨3, { dio := { groups := List.replicate 4 { tripped := true } } }, by decide⟩,
   ⟨0, { sys := { boot := .loaded } }, by decide⟩,
   ⟨0, { dio := { groups := List.replicate 4 { low := true } } }, by decide⟩,
   ⟨3, { sys := { boot := .loaded } }, by decide⟩,
   ⟨3, { dio := { groups := List.replicate 4 { unpowered := true } } }, by decide⟩,
   ⟨0x4A440001, by decide⟩,
   ⟨1, by decide⟩,
   ⟨0x4A44000F, {}, 3, {}, by decide⟩,
   ⟨0, 3, (drives {}), by decide⟩⟩

/-- Obligations.AnalogMonitors. -/
theorem met_AnalogMonitors :
    (∃ n : Fin 16, ∃ s : State, aioOut (aioCh s n.val).mode = false) ∧
    (∃ n : Fin 16, ∃ s : State, aioOut (aioCh s n.val).mode = true) ∧
    (∃ n : Fin 16, ∃ s : State, (aioCh s n.val).mode = 5 ∧ (aioCh s n.val).overload = false ∧ aioEvaluates s n.val
      = true ∧ (aioTerminal s n.val).isSome = true) ∧
    (∃ n : Fin 16, ∃ s : State, aioEvaluates s n.val = true) ∧
    (∃ n : Fin 16, ∃ s : State, (aioCh s n.val).mode = 6 ∧ (aioCh s n.val).openLoop = false ∧ 1000000 ≤ (aioCh s
      n.val).value ∧ aioEvaluates s n.val = true ∧ (aioTerminal s n.val).isSome = true) ∧
    (∃ n : Fin 16, ∃ s : State, aioEvaluates s n.val = true) ∧
    (∃ n : Fin 16, ∃ s : State, aioEvaluates s n.val = false) ∧
    (∃ n tn : Nat, ∃ m : Int, ∃ c : AioCh, ∃ s : State,
      let v := clampInt (aioRange c.mode).1 (aioRange c.mode).2 m
      let q := aioBand c.mode v
      s.aio.ch[n]? = some c ∧ c.refBad = false ∧ isGood q = true) ∧
    (∃ n tn : Nat, ∃ m : Int, ∃ c : AioCh, ∃ s : State,
      let v := clampInt (aioRange c.mode).1 (aioRange c.mode).2 m
      let q := aioBand c.mode v
      s.aio.ch[n]? = some c ∧ c.refBad = false ∧ isGood q = false ∧ aioFail c = false) ∧
    (∃ n tn : Nat, ∃ m : Int, ∃ c : AioCh, ∃ s : State,
      let v := clampInt (aioRange c.mode).1 (aioRange c.mode).2 m
      let q := aioBand c.mode v
      s.aio.ch[n]? = some c ∧ c.refBad = false ∧ isGood q = false ∧ aioFail c = true) ∧
    (∃ n : Nat, ∃ m : Option Int, ∃ c : AioCh, ∃ s : State, s.aio.ch[n]? = some c ∧ (c.refBad = true ∨ m = none)) ∧
    (∃ n : Nat, ∃ v : Int, ∃ c : AioCh, ∃ s : State, s.aio.ch[n]? = some c ∧ aioOut c.mode = true ∧ s.sys.boot =
      .loaded ∧ s.enabled.contains .aio = true ∧ c.convFault = false) ∧
    (∃ img : List Section, ∃ im : Image, ∃ r : Rec, ∃ bank : List Int, ∃ sw fi : Bool, ∃ k : LoopLinks, ∃ d :
      LoopDyn,
      let e := evalDyn img im r bank sw fi k d
      k.inner = none ∧ bank.getD 40 0 ≤ bank.getD 41 0 ∧ e.prevMode = .auto ∧ 0 < bank.getD 42 0 ∧ bank.getD 40 0 ≤
      d.vPrev ∧ d.vPrev ≤ bank.getD 41 0) ∧
    (∃ b0 b1 b2 v x x1 x2 : Int,
      let p := rnd (b0 * x + b1 * x1 + b2 * x2) 28
      (-(2 ^ 31) : Int) ≤ v ∧ v ≤ 2 ^ 31 - 1 ∧ -(2 ^ 31) ≤ v - p ∧ v - p ≤ 2 ^ 31 - 1) ∧
    (∃ im : Image, ∃ tn e : Nat, ∃ r : Rec, ∃ l : LoopSlot, ∃ s : State, tget s.lpe.slots (lpSlot r) = some l) ∧
    (∃ r : Rec, ∃ l : LoopSlot, ∃ o : Int, ∃ q : Byte, ∃ s : State, r ∈ loopRecs s.drw.image ∧ ((∀ x ∈ loopRecs
      s.drw.image, lpSlot x = lpSlot r ∨ lpOut x = lpOut r → x = r)) ∧ tget s.lpe.slots (lpSlot r) = some l ∧
      l.result = some (o, q) ∧ l.relEdge = s.stk.edges ∧ lpOut r ≠ 0xFFFF) ∧
    (∃ n : Nat, ∃ l : LoopSlot, ∃ r : Rec, ∃ s : State, tget s.lpe.slots n = some l ∧ loopRec s.drw.image n = some
      r ∧ l.cidx < 43) ∧
    (∃ n : Nat, ∃ l : LoopSlot, ∃ r : Rec, ∃ s : State, tget s.lpe.slots n = some l ∧ loopRec s.drw.image n = some
      r ∧ bankFails s.drw.image r (if l.activeB then l.bankA else l.bankB) = 0) ∧
    (∃ n : Nat, ∃ l : LoopSlot, ∃ r : Rec, ∃ s : State, tget s.lpe.slots n = some l ∧ loopRec s.drw.image n = some
      r ∧ bankFails s.drw.image r (if l.activeB then l.bankA else l.bankB) ≠ 0) :=
  ⟨⟨15, {}, by decide⟩,
   ⟨0, { aio := { ch := List.replicate 16 { mode := 6 } } }, by decide⟩,
   ⟨15,
    { sys := { boot := .loaded }, enabled := [.aio], aio := { ch := List.replicate 16 { mode := 5, drives := true } } },
    by decide⟩,
   ⟨15, {}, by decide⟩,
   ⟨0,
    { sys := { boot := .loaded }, enabled := [.aio], aio := { ch := List.replicate 16 { mode := 6, drives := true, value := 1000000 } } },
    by decide⟩,
   ⟨0, {}, by decide⟩,
   ⟨3, { aio := { ch := List.replicate 16 { quiet := 1 } } }, by decide⟩,
   ⟨15, 5, 10000000, { mode := 1 }, { aio := { ch := List.replicate 16 { mode := 1 } } }, by decide⟩,
   ⟨0, 5, 11500000, { mode := 1 }, { aio := { ch := List.replicate 16 { mode := 1 } } }, by decide⟩,
   ⟨0, 5, -500001, { mode := 1, cfg := 4 }, { aio := { ch := List.replicate 16 { mode := 1, cfg := 4 } } }, by
    decide⟩,
   ⟨0, none, {}, {}, by decide⟩,
   ⟨15, 10500001, { mode := 5 },
    { sys := { boot := .loaded }, enabled := [.aio], aio := { ch := List.replicate 16 { mode := 5 } } }, by decide⟩,
   ⟨[], [], (List.replicate 19 0 ++ [3]), (List.replicate 42 0 ++ [5]), false, false,
    { outerV := none, inner := none }, {}, by decide⟩,
   ⟨0, 0, 0, 2147483647, 0, 0, 0, by decide⟩,
   ⟨[], 0, 0, loopRec0, {}, (looping {}), by decide⟩,
   ⟨loopRec0, { result := some (5, 0x80) }, 5, 0x80, (looping { result := some (5, 0x80) }), by decide⟩,
   ⟨0, { cidx := 42 }, loopRec0, (looping { cidx := 42 }), by decide⟩,
   ⟨0, {}, loopRec0, (looping {}), by decide⟩,
   ⟨0, { bankB := List.replicate 40 0 ++ [1] }, loopRec0, (looping { bankB := List.replicate 40 0 ++ [1] }), by
    decide⟩⟩

/-- Obligations.RemoteReplies. -/
theorem met_RemoteReplies :
    (∃ m : Fin 12, ∃ us : Nat, ∃ p : List Byte, ∃ r : Rec, ∃ x : Station, ∃ d : Due, ∃ s : State, m.val < 8 ∧ f8 p
      1 = 2 ∧ f8 p 3 < 16 ∧ stationRec s.drw.image (staKey m.val (f8 p 3)) = some r ∧ tget s.rio.sta (staKey m.val
      (f8 p 3)) = some x ∧ x.due = some d ∧ replyReason x (stampEdge s us) (stReply r) s.rio.runId (t1sOk p r) (f32
      p 4) 32 (some (f16 p 8)) = 0) ∧
    (∃ m : Fin 12, ∃ k : Fin 16, ∃ r : Rec, ∃ x : Station, ∃ s : State, stationRec s.drw.image (staKey m.val k.val)
      = some r ∧ tget s.rio.sta (staKey m.val k.val) = some x ∧ missesAt x r (s.stk.edges + 1) = true ∧ s.dbg.freeze
      = false) ∧
    (∃ m : Fin 12, ∃ x : Medium, ∃ s : State, tget s.rio.media m.val = some x ∧ x.flight = some s.stk.edges ∧
      notBegun s m.val x = true ∧ m.val < 8) ∧
    (∃ s : State, s.dbg.freeze = true) ∧
    (∃ dl : List (Nat × Nat), ∃ m : Nat, ∃ x : Medium, ∃ s : State,
      let due := (remotes s.drw.image 1).filter (fun r => f8 r 1 = m && isDue s s.stk.edges r)
      ∃ r, r ∈ due ∧ marks s.sys.mode = true ∧ s.enabled.contains .rio = true ∧ tget s.rio.media m = some x ∧
      carries s m = true ∧ (s.rio.media.map (·.1)).Nodup ∧ ((∀ r ∈ remotes s.drw.image 1, f8 r 2 < 16)) ∧ (tget
      s.rio.sta (rmKey r)).isSome = true) ∧
    (∃ s : State, (marks s.sys.mode = false ∨ s.enabled.contains .rio = false)) ∧
    (∃ k tn : Nat, ∃ l : List (Nat × Byte), ∃ i p : Rec, ∃ v : Nat, ∃ q : Byte, ∃ s : State, i ∈ itemsOf
      s.drw.image k 0 ∧ itemPoint s.drw.image i = some p ∧ l[f8 i 6]? = some (v, q) ∧ ((∀ j ∈ itemsOf s.drw.image k
      0, (itemPoint s.drw.image j).map ptIndex = some (ptIndex p) → j = i))) ∧
    (∃ k : Nat, ∃ b : Bool, ∃ i p : Rec, ∃ s : State, (itemsOf s.drw.image k 0).Nodup ∧ i ∈ itemsOf s.drw.image k 0
      ∧ itemPoint s.drw.image i = some p ∧ ((∀ j ∈ itemsOf s.drw.image k 0, (itemPoint s.drw.image j).map ptIndex =
      some (ptIndex p) → j = i))) :=
  ⟨⟨7, 100, (replyHead ++ leBytes 4 (crc32c replyHead)), (rec32 [1, 7, 2, 0, 1, 0, 0, 0, 0, 0, 2, 0, 0, 3]), sta,
    { seq := 3, edge := 5, tn := 5 },
    { drw := { image := imgSta }, stk := { edges := 5 }, rio := { media := [(7, {})], sta := [(114, sta)] } },
    by decide +kernel⟩,
   ⟨7, 2, (rec32 [1, 7, 2, 0, 1, 0, 0, 0, 0, 0, 2, 0, 0, 3]), sta,
    { drw := { image := imgSta }, stk := { edges := 6 }, rio := { media := [(7, {})], sta := [(114, sta)] } }, by
    decide⟩,
   ⟨7, { flight := some 9 }, { stk := { edges := 9 }, rio := { media := [(7, { flight := some 9 })] } }, by decide⟩,
   ⟨{ dbg := { freeze := true } }, by decide⟩,
   ⟨[], 7, {},
    { sys := { mode := .run }, drw := { image := imgSta }, enabled := [.rio], rio := { media := [(7, {})], sta := [(114, { dueFrom := some 0 })] } },
    (rec32 [1, 7, 2, 0, 1, 0, 0, 0, 0, 0, 2, 0, 0, 3]), by decide⟩,
   ⟨{}, by decide⟩,
   ⟨114, 5, [(5, 0x80)], item0, itemPt, 5, 0x80, itemed, by decide⟩,
   ⟨114, true, item0, itemPt, itemed, by decide⟩⟩

/-- Obligations.CanRequests. -/
theorem met_CanRequests :
    (∃ n : Fin 4, ∃ b : Fin 3, ∃ s : State, canRuns s n.val = true ∧ txBusy ((canOf s n.val).bufs.getD b.val {}) =
      false ∧ txRefused (canOf s n.val) ((canOf s n.val).bufs.getD b.val {}) = false) ∧
    (∃ n : Fin 4, ∃ s : State, canRuns s n.val = true) ∧
    (∃ core : Fin 16, ∃ n : Fin 4, ∃ b : Fin 3, ∃ ctrl j : Nat, ∃ k : Stroke, ∃ y : Copy, ∃ c : Can, ∃ x : CanBuf,
      ∃ s : State, drivenBy s core.val = some (j, k, y) ∧ grant s.drw.image (taskDrawer s j) (8 + n.val) ≠ 0 ∧
      canRuns s n.val = true ∧ s.can[n.val]? = some c ∧ c.bufs[b.val]? = some x ∧ txBusy x = false ∧ txRefused c
      { x with ctrl := ctrl % 2 ^ 32 &&& 0xF00F } = false) :=
  ⟨⟨3, 2, { enabled := [.can 3] }, by decide⟩,
   ⟨0, { enabled := [.can 0] }, by decide⟩,
   ⟨0, 3, 2, 8, 0, (stroke0 {}), (copy0 {}), {}, {}, { drives {} with enabled := [.can 3] }, by decide⟩⟩

/-- Obligations.CanAttemptsAndErrorStates. -/
theorem met_CanAttemptsAndErrorStates :
    (∃ n : Fin 4, ∃ b : Nat, ∃ s : State, ∃ c, canRuns s n.val = true ∧ (canOf s n.val).busOff = false ∧ (canOf s
      n.val).integrating = false ∧ canMonitor (canOf s n.val) = false ∧ (canOf s n.val).active = none ∧ (canOf s
      n.val).waiting = [] ∧ nextBuf (canOf s n.val) = some b ∧ s.can[n.val]? = some c) ∧
    (∃ n : Fin 4, ∃ b : Nat, ∃ c : Can, ∃ s : State, s.can[n.val]? = some c ∧ c.active = some b) ∧
    (∃ n : Fin 4, ∃ b : Nat, ∃ c : Can, ∃ s : State, s.can[n.val]? = some c ∧ c.active = some b ∧ b < 3) ∧
    (∃ n : Fin 4, ∃ b : Nat, ∃ c : Can, ∃ s : State, s.can[n.val]? = some c ∧ c.active = some b ∧ b < 3) ∧
    (∃ n : Fin 4, ∃ c : Can, ∃ s : State, canRuns s n.val = true ∧ s.can[n.val]? = some c ∧ c.busOff = false ∧
      c.integrating = false) ∧
    (∃ n : Fin 4, ∃ v : Nat, ∃ s : State, fld v 16 16 = 0x4A42 ∧ v.testBit 0 = true ∧ (canOf s n.val).busOff = true
      ∧ canAuto (canOf s n.val) = false) ∧
    (∃ v : Nat, fld v 16 16 ≠ 0x4A42) ∧
    (∃ n : Fin 4, ∃ s : State, (canOf s n.val).busOff = true ∧ (canOf s n.val).recovering = true) ∧
    (∃ n : Fin 4, ∃ s : State, canRuns s n.val = true) ∧
    (∃ n : Fin 4, ∃ s : State, canRuns s n.val = true ∧ canFd (canOf s n.val) = false ∧ (canOf s n.val).busOff =
      false ∧ (canOf s n.val).integrating = false) ∧
    (∃ n : Fin 4, ∃ s : State, s.declared.contains (.can n.val) = false) ∧
    (∃ n : Fin 4, ∃ s : State, s.declared.contains (.can n.val) = true) :=
  ⟨⟨3, 1,
    { enabled := [.can 3], can := List.replicate 4 { integrating := false, bufs := [{}, { st := .pending }, {}] } },
    { integrating := false, bufs := [{}, { st := .pending }, {}] }, by decide⟩,
   ⟨3, 2, { active := some 2 }, { can := List.replicate 4 { active := some 2 } }, by decide⟩,
   ⟨0, 2, { active := some 2 }, { can := List.replicate 4 { active := some 2 } }, by decide⟩,
   ⟨0, 0, { active := some 0 }, { can := List.replicate 4 { active := some 0 } }, by decide⟩,
   ⟨3, { integrating := false }, { enabled := [.can 3], can := List.replicate 4 { integrating := false } }, by
    decide⟩,
   ⟨3, 0x4A420001, { can := List.replicate 4 { busOff := true } }, by decide⟩,
   ⟨1, by decide⟩,
   ⟨3, { can := List.replicate 4 { busOff := true, recovering := true } }, by decide⟩,
   ⟨3, { enabled := [.can 3] }, by decide⟩,
   ⟨3, { enabled := [.can 3], can := List.replicate 4 { integrating := false } }, by decide⟩,
   ⟨3, {}, by decide⟩,
   ⟨3, { declared := [.can 3] }, by decide⟩⟩

/-- Obligations.CanQueues. -/
theorem met_CanQueues :
    (∃ n : Fin 4, ∃ f : CanFrame, ∃ r : Rec, ∃ c : Can, ∃ x : CanQueue, ∃ s : State, canRuns s n.val = true ∧
      s.can[n.val]? = some c ∧ c.busOff = false ∧ c.integrating = false ∧ (f.fdf && !canFd c) = false ∧ (seqTakes s
      (8 + n.val) (f.id / 2 ^ 18) = false ∨ f.ide = true) ∧ (canPairs s n.val).find? (pairMatches f) = some r ∧ f8 r
      4 < 2 ∧ c.queues[f8 r 4]? = some x ∧ x.entries.length < 32) ∧
    (∃ n : Fin 4, ∃ s : State, canRuns s n.val = true) ∧
    (∃ n : Fin 4, ∃ s : State, canRuns s n.val = false) ∧
    (∃ n : Fin 4, ∃ q : Fin 2, ∃ s : State, canRuns s n.val = true ∧ ((canOf s n.val).queues.getD q.val {}).locked
      = true ∧ ((canOf s n.val).queues.getD q.val {}).shadow = none) ∧
    (∃ n : Fin 4, ∃ q : Fin 2, ∃ s : State, canRuns s n.val = true ∧ ((canOf s n.val).queues.getD q.val {}).locked
      = true) ∧
    (∃ core : Fin 16, ∃ n : Fin 4, ∃ q : Fin 2, ∃ j : Nat, ∃ k : Stroke, ∃ y : Copy, ∃ c : Can, ∃ x : CanQueue, ∃ s
      : State, drivenBy s core.val = some (j, k, y) ∧ grant s.drw.image (taskDrawer s j) (8 + n.val) ≠ 0 ∧ canRuns s
      n.val = true ∧ s.can[n.val]? = some c ∧ c.queues[q.val]? = some x ∧ x.entries ≠ [] ∧ x.locked = false ∧
      x.shadow = none) :=
  ⟨⟨3, { canFrm with fdf := false }, (rec32 [1, 3, 0, 0, 1]), { integrating := false }, {},
    { drw := { image := [sec32 0xB [[1, 3, 0, 0, 1]]] }, enabled := [.can 3], can := List.replicate 4 { integrating := false } },
    by decide⟩,
   ⟨3, { enabled := [.can 3] }, by decide⟩,
   ⟨3, {}, by decide⟩,
   ⟨3, 1, { enabled := [.can 3], can := List.replicate 4 { queues := [{ locked := true }, { locked := true }] } },
    by decide⟩,
   ⟨3, 1, { enabled := [.can 3], can := List.replicate 4 { queues := [{ locked := true }, { locked := true }] } },
    by decide⟩,
   ⟨0, 3, 1, 0, (stroke0 {}), (copy0 {}), { queues := [{}, { entries := [canEnt] }] }, { entries := [canEnt] },
    { drives {} with enabled := [.can 3], can := List.replicate 4 { queues := [{}, { entries := [canEnt] }] } }, by
    decide⟩⟩

/-- Obligations.RingRegisters. -/
theorem met_RingRegisters :
    (∃ m : Fin 10, ∃ q : Bool, ∃ i l : Nat, ∃ x : Mac, ∃ y : Ring, ∃ s : State, ownerByte s m.val q i ≠ 0xFE ∧
      macRuns s m.val = true ∧ s.mac[m.val]? = some x ∧ (if q then x.queues else x.rings)[i]? = some y ∧ y.run =
      false ∧ 2 ≤ l ∧ l ≤ 12) ∧
    (∃ m : Fin 10, ∃ q : Bool, ∃ i : Nat, ∃ x : Mac, ∃ y : Ring, ∃ s : State, ownerByte s m.val q i ≠ 0xFE ∧
      macRuns s m.val = true ∧ s.mac[m.val]? = some x ∧ (if q then x.queues else x.rings)[i]? = some y ∧ y.run =
      true ∧ 2 ≤ y.log2 ∧ y.log2 ≤ 12) ∧
    (∃ m : Fin 10, ∃ q : Bool, ∃ i v : Nat, ∃ s : State, ownerByte s m.val q i ≠ 0xFE ∧ macRuns s m.val = true ∧ v
      < 2 ^ (ringOf s m.val q i).log2 ∧ (m.val < 8 ∨ (macOf s m.val).link = true)) :=
  ⟨⟨9, false, 0, 12, {}, {}, { drw := { image := [macs] }, enabled := [.mac 9] }, by decide⟩,
   ⟨9, false, 0, { rings := List.replicate 4 { run := true, log2 := 2 } }, { run := true, log2 := 2 },
    { drw := { image := [macs] }, enabled := [.mac 9], mac := List.replicate 10 { rings := List.replicate 4 { run := true, log2 := 2 } } },
    by decide⟩,
   ⟨9, false, 0, 3,
    { drw := { image := [macs] }, enabled := [.mac 9], mac := List.replicate 10 { link := true, rings := List.replicate 4 { run := true, log2 := 2 } } },
    by decide⟩⟩

/-- Obligations.EthernetServices. -/
theorem met_EthernetServices :
    (∃ core : Fin 16, ∃ m : Fin 10, ∃ j r : Nat, ∃ k : Stroke, ∃ y : Copy, ∃ s : State,
      let x := ringOf s m.val false r
      let a := x.base + 32 * x.tail
      drivenBy s core.val = some (j, k, y) ∧ grant s.drw.image (taskDrawer s j) (12 + m.val) ≠ 0 ∧ ringOfDrawer s
      m.val (coreTag s core.val) = some r ∧ x.run = true ∧ (x.tail + 1) % 2 ^ x.log2 ≠ x.head ∧ coreMem s core.val
      true a 32 = true ∧ plainBytes a 32 = true ∧ macRuns s m.val = true ∧ ringOwnerByte s m.val r ≠ 0xFE ∧ (m.val <
      8 ∨ (macOf s m.val).link = true) ∧ r < 4 ∧ r < (macOf s m.val).rings.length ∧ m.val < s.mac.length) ∧
    (∃ core : Fin 16, ∃ m : Fin 10, ∃ j r : Nat, ∃ k : Stroke, ∃ y : Copy, ∃ s : State,
      let x := ringOf s m.val false r
      let a := x.base + 32 * x.tail
      ∃ b, drivenBy s core.val = some (j, k, y) ∧ grant s.drw.image (taskDrawer s j) (12 + m.val) ≠ 0 ∧ ringOfDrawer
      s m.val (coreTag s core.val) = some r ∧ x.run = true ∧ (x.tail + 1) % 2 ^ x.log2 ≠ x.head ∧ coreMem s core.val
      true a 32 = true ∧ plainBytes a 32 = true ∧ macRuns s m.val = true ∧ ringOwnerByte s m.val r ≠ 0xFE ∧ (m.val <
      8 ∨ (macOf s m.val).link = true) ∧ (b < a ∨ a + 32 ≤ b)) ∧
    (∃ core : Fin 16, ∃ m : Fin 10, ∃ q j : Nat, ∃ k : Stroke, ∃ y : Copy, ∃ s : State,
      let x := ringOf s m.val true q
      let a := x.base + 32 * x.seen
      ∃ b, drivenBy s core.val = some (j, k, y) ∧ grant s.drw.image (taskDrawer s j) (12 + m.val) ≠ 0 ∧ q < 8 ∧
      queueOwnerByte s m.val q = coreTag s core.val ∧ x.seen ≠ x.head ∧ coreMem s core.val true a 32 = true ∧
      plainBytes a 32 = true ∧ (b < a + 4 ∨ a + 24 ≤ b)) :=
  ⟨⟨0, 9, 0, 1, (stroke0 {}), (copy0 {}), eth, by decide⟩,
   ⟨0, 9, 0, 1, (stroke0 {}), (copy0 {}), eth, 0x80000FFF, by decide⟩,
   ⟨0, 9, 0, 0, (stroke0 {}), (copy0 {}), eth, 0x80001803, by decide⟩⟩

/-- Obligations.LineEvents. -/
theorem met_LineEvents :
    (∃ m : Fin 10, ∃ x : MacTx, ∃ s : State, macRuns s m.val = true ∧ ((8 ≤ m.val ∨ macPlca (macOf s m.val) = false
      ∨ ((macOf s m.val).cycle = true ∧ (macOf s m.val).turn = true))) ∧ (macOf s m.val).tx = some x ∧ x.onLine =
      false ∧ x.backoff = none ∧ fitsCycle s m.val (txLen x) = true) ∧
    (∃ m : Fin 10, ∃ k : PtpKind, ∃ l : List PtpKind, ∃ s : State, macRuns s m.val = true ∧ 8 ≤ m.val ∧ (macOf s
      m.val).tx = none ∧ (macOf s m.val).link = true ∧ (macOf s m.val).pauseOut = [] ∧ (macOf s m.val).paused = 0 ∧
      (macOf s m.val).ptpOut = k :: l ∧ fitsCycle s m.val (ptpLen k) = true) ∧
    (∃ m : Fin 10, ∃ r : Nat, ∃ y : Mac, ∃ g : Ring, ∃ s : State,
      let d := memBytes s (headAddr g) 12
      let len := fld (f32 d 4) 0 17
      macRuns s m.val = true ∧ s.mac[m.val]? = some y ∧ y.rings[r]? = some g ∧ y.tx = none ∧ y.pauseOut = [] ∧
      y.paused = 0 ∧ y.ptpOut = [] ∧ ((8 ≤ m.val ∧ y.link = true) ∨ (m.val < 8 ∧ (macPlca y = false ∨ (y.cycle =
      true ∧ y.turn = true)))) ∧ (ringOrder y).find? (fun i => ringReady (ringOf s m.val false i)) = some r ∧
      (dmaAccess (ownerTag (ringOwnerByte s m.val r)) false (headAddr g) 32 s).1 = true ∧ (f32 d 4).testBit 30 =
      false ∧ 14 ≤ len ∧ len ≤ 1514 ∧ (8 ≤ m.val ∨ len ≤ y.room) ∧ fitsCycle s m.val len = true ∧ (dmaAccess
      (ownerTag (ringOwnerByte s m.val r)) false (f32 d 0) len s).1 = true) ∧
    (∃ m : Fin 10, ∃ x : MacTx, ∃ s : State, onLine s m.val = some x ∧ x.src ≠ .marker) ∧
    (∃ m : Fin 10, ∃ x : MacTx, ∃ s : State, onLine s m.val = some x ∧ x.src = .marker) ∧
    (∃ m : Fin 10, ∃ x : MacTx, ∃ s : State, ∃ r, onLine s m.val = some x ∧ x.src = .ring r ∧ x.total = 0 ∧ x.tsReq
      = false) ∧
    (∃ m : Fin 10, ∃ x : MacTx, ∃ s : State, m.val < 8 ∧ onLine s m.val = some x ∧ x.collisions + 1 < 16) ∧
    (∃ m : Fin 10, ∃ x : MacTx, ∃ s : State, ∃ r, m.val < 8 ∧ onLine s m.val = some x ∧ 15 ≤ x.collisions ∧ x.src =
      .ring r) ∧
    (∃ m : Fin 10, ∃ x : MacTx, ∃ s : State, ∃ r, m.val < 8 ∧ onLine s m.val = some x ∧ x.src = .ring r) ∧
    (∃ m : Fin 10, ∃ x : MacTx, ∃ s : State, (macOf s m.val).tx = some x ∧ x.backoff.isSome = true) :=
  ⟨⟨0, macTx, { enabled := [.mac 0], mac := [{ tx := some macTx }] }, by decide⟩,
   ⟨9, .sync, [], { enabled := [.mac 9], mac := List.replicate 10 { link := true, ptpOut := [.sync] } }, by decide⟩,
   ⟨9, 0, ringMac, { run := true, log2 := 2, base := 0x80003000, tail := 1 }, ringing, by decide⟩,
   ⟨9, { macTx with onLine := true }, { mac := List.replicate 10 { tx := some { macTx with onLine := true } } }, by
    decide⟩,
   ⟨9, { src := .marker, onLine := true },
    { mac := List.replicate 10 { marker := some { src := .marker, onLine := true } } }, by decide⟩,
   ⟨9, { macTx with onLine := true }, { mac := List.replicate 10 { tx := some { macTx with onLine := true } } }, 1,
    by decide⟩,
   ⟨0, { macTx with onLine := true, collisions := 14 },
    { mac := [{ tx := some { macTx with onLine := true, collisions := 14 } }] }, by decide⟩,
   ⟨0, { macTx with onLine := true, collisions := 15 },
    { mac := [{ tx := some { macTx with onLine := true, collisions := 15 } }] }, 1, by decide⟩,
   ⟨7, { macTx with onLine := true }, { mac := List.replicate 10 { tx := some { macTx with onLine := true } } }, 1,
    by decide⟩,
   ⟨0, { macTx with backoff := some 1 }, { mac := [{ tx := some { macTx with backoff := some 1 } }] }, by decide⟩⟩

/-- Obligations.SegmentCycles. -/
theorem met_SegmentCycles :
    (∃ m : Fin 10, ∃ x : Mac, ∃ s : State, ∃ z, macRuns s m.val = true ∧ m.val < 8 ∧ s.mac[m.val]? = some x ∧
      macPlca x = true ∧ tget s.rio.media m.val = some z ∧ z.flight = some s.stk.edges ∧ x.cycleEdge ≠ some
      s.stk.edges) ∧
    (∃ m : Fin 10, ∃ ns : Nat, ∃ s : State, macRuns s m.val = true ∧ (macOf s m.val).cycle = true ∧ carries s m.val
      = true ∧ ns < 2000 + 3200 * macNodes (macOf s m.val) + 5000 ∧ m.val < s.mac.length) ∧
    (∃ m : Fin 10, ∃ ns : Nat, ∃ x : Mac, ∃ s : State, macRuns s m.val = true ∧ s.mac[m.val]? = some x ∧ x.cycle =
      true ∧ (carries s m.val = false ∨ 2000 + 3200 * macNodes x + 5000 ≤ ns)) :=
  ⟨⟨7, { opts := 1 },
    { enabled := [.mac 7], mac := List.replicate 10 { opts := 1 }, rio := { media := [(7, { flight := some 0 })] } },
    { flight := some 0 }, by decide⟩,
   ⟨7, 6999, { enabled := [.mac 7], mac := List.replicate 10 { cycle := true }, rio := { sta := [(112, {})] } }, by
    decide⟩,
   ⟨7, 6999, { cycle := true }, { enabled := [.mac 7], mac := List.replicate 10 { cycle := true } }, by decide⟩⟩

/-- Obligations.FrameReception. -/
theorem met_FrameReception :
    (∃ m : Fin 10, ∃ f : List Byte, ∃ len fill : Nat, ∃ x : Mac, ∃ s : State, PlainFrame s m.val len fill f ∧
      s.mac[m.val]? = some x ∧ (List.range 8).find? (fun e => addrEntry s.drw.image m.val e = some (f.take 6)) =
      none) ∧
    (∃ m : Fin 10, ∃ f : List Byte, ∃ len fill e : Nat, ∃ r : Rec, ∃ x : Mac, ∃ z : Ring, ∃ s : State,
      let q := (steer s m.val (f8 r 4) f).1
      let o := ownerTag (queueOwnerByte s m.val q)
      let a := headAddr z
      let buf := f32 (memBytes s a 4) 0
      ∃ b, PlainFrame s m.val len fill f ∧ s.mac[m.val]? = some x ∧ (List.range 8).find? (fun e => addrEntry
      s.drw.image m.val e = some (f.take 6)) = some e ∧ (filters s.drw.image 2).find? (fun r => f8 r 1 = m.val && f8
      r 2 = e) = some r ∧ x.queues[(steer s m.val (f8 r 4) f).1]? = some z ∧ z.run = true ∧ z.head ≠ z.tail ∧
      (dmaAccess o false a 32 s).1 = true ∧ (dmaAccess o true buf f.length s).1 = true ∧ (dmaAccess o true (a + 4)
      20 s).1 = true ∧ plainBytes a 32 = true ∧ plainBytes buf f.length = true ∧ ((b < buf ∨ buf + f.length ≤ b)) ∧
      ((b < a + 4 ∨ a + 24 ≤ b))) ∧
    (∃ m : Fin 10, ∃ f : List Byte, ∃ len fcs fill : Nat, ∃ x : Mac, ∃ s : State, macRuns s m.val = true ∧ ((8 ≤
      m.val → (macOf s m.val).link = true)) ∧ s.mac[m.val]? = some x ∧ 64 ≤ len ∧ len ≤ 1518 ∧ fill ≤ fifoSize m.val
      ∧ fcs ≠ ethFcs f) ∧
    (∃ m : Fin 10, ∃ x : Mac, ∃ s : State, macRuns s m.val = true ∧ m.val < 8 ∧ s.mac[m.val]? = some x ∧ macPlca x
      = true) :=
  ⟨⟨9, frm, 1518, 0, { link := true }, { enabled := [.mac 9], mac := List.replicate 10 { link := true } },
    by unfold PlainFrame; decide⟩,
   ⟨9, frm, 64, 0, 0, (rec32 [2, 9, 0, 0, 0, 0, 0, 0, 2, 0, 0, 0, 0, 1]), ethMac,
    { run := true, log2 := 2, base := 0x80001800, head := 1 },
    { eth with drw := { load := 2, image := img ++ [macs, memWin, addrs] }, mem := [(0x80001823, 0x80)] },
    0x80001838, by unfold PlainFrame; decide⟩,
   ⟨9, frm, 1518, 0, 0, { link := true }, { enabled := [.mac 9], mac := List.replicate 10 { link := true } },
    by decide +kernel⟩,
   ⟨7, { opts := 1 }, { enabled := [.mac 7], mac := List.replicate 10 { opts := 1 } }, by decide⟩⟩

/-- Obligations.FlowAndLinks. -/
theorem met_FlowAndLinks :
    (∃ m : Fin 10, ∃ fill : Nat, ∃ x : Mac, ∃ s : State, s.mac[m.val]? = some x ∧ pauses s m.val = true ∧ highWm x
      * 65536 < fill * 100 ∧ x.pauseCfg / 65536 ≠ 0) ∧
    (∃ m : Fin 10, ∃ fill : Nat, ∃ x : Mac, ∃ s : State, s.mac[m.val]? = some x ∧ pauses s m.val = true ∧ x.xoff =
      true ∧ lowWm x * 65536 ≤ fill * 100 ∧ x.pauseCfg / 65536 ≠ 0) ∧
    (∃ m : Fin 10, ∃ fill : Nat, ∃ x : Mac, ∃ s : State, s.mac[m.val]? = some x ∧ pauses s m.val = true ∧ x.xoff =
      true ∧ fill * 100 < lowWm x * 65536) ∧
    (∃ m : Fin 10, ∃ x : Mac, ∃ s : State, 8 ≤ m.val ∧ macRuns s m.val = true ∧ s.mac[m.val]? = some x ∧ x.link =
      false) ∧
    (∃ m : Fin 10, ∃ s : State, 8 ≤ m.val ∧ (macOf s m.val).link = true) ∧
    (∃ m : Fin 10, ∃ s : State, 8 ≤ m.val ∧ macRuns s m.val = true ∧ (macOf s m.val).link = false) ∧
    (∃ m : Fin 10, ∃ s : State, (macOf s m.val).refused = true ∧ (macOf s m.val).link = false) :=
  ⟨⟨9, 60000, pauseMac, { enabled := [.mac 9], mac := List.replicate 10 pauseMac }, by decide⟩,
   ⟨9, 60000, { pauseMac with xoff := true },
    { enabled := [.mac 9], mac := List.replicate 10 { pauseMac with xoff := true } }, by decide⟩,
   ⟨8, 100, { pauseMac with xoff := true },
    { enabled := [.mac 8], mac := List.replicate 10 { pauseMac with xoff := true } }, by decide⟩,
   ⟨8, {}, { enabled := [.mac 8] }, by decide⟩,
   ⟨9, { mac := List.replicate 10 { link := true } }, by decide⟩,
   ⟨8, { enabled := [.mac 8] }, by decide⟩,
   ⟨8, { mac := List.replicate 10 { refused := true } }, by decide⟩⟩

/-- Obligations.PtpPorts. -/
theorem met_PtpPorts :
    (∃ m : Fin 10, ∃ g : PtpMessage, ∃ s : State, ptpEnabled s m.val = true ∧ profileHas s g.kind = true ∧ g.domain
      ≠ fld s.ptp.cfg 16 8) ∧
    (∃ m : Fin 10, ∃ g : PtpMessage, ∃ s : State, (ptpEnabled s m.val = false ∨ profileHas s g.kind = false)) ∧
    (∃ m : Fin 10, ∃ g : PtpMessage, ∃ s : State, ptpEnabled s m.val = true ∧ profileHas s g.kind = true ∧ g.domain
      = fld s.ptp.cfg 16 8 ∧ (g.kind ≠ .sync ∨ g.twoStep = true) ∧ g.roles = none ∧ g.offset = none ∧ (s.ptp.aligned
      = true ∨ s.ptp.slavePort = 0xF)) ∧
    (∃ m : Fin 10, ∃ s : State, ptpEnabled s m.val = true) ∧
    (∃ s : State, s.ptp.st = .locked ∧ s.ptp.gm = false) ∧
    (∃ s : State, s.ptp.st = .holdover) ∧
    (∃ m : Fin 10, ∃ k : PtpKind, ∃ s : State, ptpEnabled s m.val = true ∧ maySend s m.val k = true) ∧
    (∃ ns since : Nat, ∃ s : State, s.ptp.aligned = false ∧ s.ptp.join = none) ∧
    (∃ tn j iv : Nat, ∃ s : State, s.ptp.join = some (tn, j, iv)) ∧
    (∃ m : Fin 10, ∃ r i ts : Nat, ∃ l : List (Nat × Nat × Nat), ∃ s : State, (s.ptp.tsq.getD m.val {}).entries =
      (r, i, ts) :: l) :=
  ⟨⟨9, { ptpMsg with domain := 1 }, ptping, by decide⟩,
   ⟨9, ptpMsg, {}, by decide⟩,
   ⟨9, ptpMsg, { ptping with ptp := { ptping.ptp with aligned := true } }, by decide⟩,
   ⟨9, ptping, by decide⟩,
   ⟨{ ptp := { st := .locked } }, by decide⟩,
   ⟨{ ptp := { st := .holdover } }, by decide⟩,
   ⟨9, .other, ptping, by decide⟩,
   ⟨5, 5, {}, by decide⟩,
   ⟨5, 3, 1, { ptp := { join := some (5, 3, 1) } }, by decide⟩,
   ⟨9, 1, 2, 3, [], { ptp := { tsq := List.replicate 10 { entries := [(1, 2, 3)] } } }, by decide⟩⟩

/-- Obligations.CalendarCommands. -/
theorem met_CalendarCommands :
    (∃ s : State, s.rtc.valid = true ∧ s.rtc.pendingSet = none) ∧
    (∃ n : Nat, ∃ s : State, s.rtc.valid = true ∧ s.rtc.pendingSet = some n) ∧
    (∃ n : Nat, ∃ s : State, s.enabled.contains .rtc = true ∧ setSeconds s.rtc.set0 s.rtc.set1 = some n) ∧
    (∃ n : Nat, ∃ s : State, s.enabled.contains .rtc = true ∧ setSeconds s.rtc.set0 s.rtc.set1 = some n) ∧
    (∃ s : State, s.enabled.contains .rtc = true) ∧
    (∃ k : Nat, ∃ s : State, s.enabled.contains .rtc = true ∧ k ≠ 0x4A54) ∧
    (∃ core : Fin 16, ∃ s0 s1 n j : Nat, ∃ k : Stroke, ∃ y : Copy, ∃ s : State, drivenBy s core.val = some (j, k,
      y) ∧ grant s.drw.image (taskDrawer s j) 23 ≠ 0 ∧ setSeconds (s0 % 2 ^ 17) (s1 &&& 0xFFFF0F1F) = some n) ∧
    (∃ core : Fin 16, ∃ j : Nat, ∃ k : Stroke, ∃ y : Copy, ∃ s : State, drivenBy s core.val = some (j, k, y)) ∧
    (∃ s : State, s.enabled.contains .rtc = true) ∧
    (∃ s : State, s.enabled.contains .rtc = false) :=
  ⟨⟨{}, by decide⟩,
   ⟨5, { rtc := { pendingSet := some 5 } }, by decide⟩,
   ⟨0, { enabled := [.rtc], rtc := { set0 := 0, set1 := 0x07D00101 } }, by decide⟩,
   ⟨0, { enabled := [.rtc], rtc := { set0 := 0, set1 := 0x07D00101 } }, by decide⟩,
   ⟨{ enabled := [.rtc] }, by decide⟩,
   ⟨0, { enabled := [.rtc] }, by decide⟩,
   ⟨0, 0, 0x07D00101, 0, 0, (stroke0 {}), (copy0 {}), (drives {}), by decide⟩,
   ⟨0, 0, (stroke0 {}), (copy0 {}), (drives {}), by decide⟩,
   ⟨{ enabled := [.rtc] }, by decide⟩,
   ⟨{}, by decide⟩⟩

/-- Obligations.BackupDomain. -/
theorem met_BackupDomain :
    (∃ ns o : Nat, ∃ c : Fin 32768, ∃ s : State,
      let utc := utcCycles o ns s
      let sub := max c.val s.rtc.subsec
      let d := ((utc : Int) - (s.rtc.seconds * 32768 + sub : Nat)).natAbs
      announcedOffset s = some o ∧ rtcTrim s = true ∧ s.enabled.contains .rtc = true ∧ s.ptp.st = .locked ∧ d * 10 ≤
      32768) ∧
    (∃ ns o : Nat, ∃ c : Fin 32768, ∃ s : State,
      let utc := utcCycles o ns s
      let sub := max c.val s.rtc.subsec
      let d := ((utc : Int) - (s.rtc.seconds * 32768 + sub : Nat)).natAbs
      announcedOffset s = some o ∧ rtcTrim s = true ∧ s.enabled.contains .rtc = true ∧ s.ptp.st = .locked ∧ 32768 <
      d * 10) ∧
    (∃ s : State, (announcedOffset s = none ∨ s.ptp.st ≠ .locked)) ∧
    (∃ s : State, s.rtc.trim ≠ 0) ∧
    (∃ s : State, s.rtc.valid = true) ∧
    (∃ s : State, s.rtc.valid = false ∧ s.rtc.checkDue = false) ∧
    (∃ s : State, s.rtc.valid = false ∧ s.rtc.checkDue = true ∧ s.rtc.feedVbak = false ∧ s.rtc.canary = false) ∧
    (∃ b : Bool, ∃ s : State, (s.rtc.checkDue = false ∨ s.rtc.valid = false ∨ b = true)) ∧
    (∃ s : State, s.rtc.checkDue = true ∧ s.rtc.valid = true ∧ s.rtc.canary = true) :=
  ⟨⟨0, 37, 3276, { enabled := [.rtc], ptp := { st := .locked, gm := true, misc := 37, cfg := 2 ^ 27 } },
    by decide +kernel⟩,
   ⟨0, 37, 3277, { enabled := [.rtc], ptp := { st := .locked, gm := true, misc := 37, cfg := 2 ^ 27 } },
    by decide +kernel⟩,
   ⟨{}, by decide⟩,
   ⟨{ rtc := { trim := 1 } }, by decide⟩,
   ⟨{}, by decide⟩,
   ⟨{ rtc := { valid := false } }, by decide⟩,
   ⟨{ rtc := { valid := false, checkDue := true, feedVbak := false, canary := false } }, by decide⟩,
   ⟨true, {}, by decide⟩,
   ⟨{ rtc := { checkDue := true, canary := true } }, by decide⟩⟩

/-- Obligations.RateLimitedCodes. -/
theorem met_RateLimitedCodes :
    (∃ o : Occ, ∃ s : State, rateLimited o.code = false ∧ s.evr.running = true ∧ s.evr.cycle = none ∧ s.evr.buffer
      < 256 ∧ s.evr.records.length < storeCap ∧ tracked s.hie.egress < 4096 ∧ mergesHead o s.evr = true) ∧
    (∃ o : Occ, ∃ s : State, rateLimited o.code = false ∧ s.evr.running = true ∧ s.evr.cycle = none ∧ s.evr.buffer
      < 256 ∧ s.evr.records.length < storeCap ∧ tracked s.hie.egress < 4096 ∧ mergesHead o s.evr = false) :=
  ⟨⟨{ code := 1, block := 1, detail := 0 },
    { evr := { running := true, headOpen := true, buffer := 255, records := [{ evRec with code := 1, block := 1 }] } },
    by decide⟩,
   ⟨{ code := 2, block := 1, detail := 0 },
    { evr := { running := true, headOpen := true, buffer := 255, records := [{ evRec with code := 1, block := 1 }] } },
    by decide⟩⟩

/-- Obligations.OccurrenceEntry. -/
theorem met_OccurrenceEntry :
    (∃ s : State, s.evr.cycle = none ∧ s.evr.running = false) ∧
    (∃ o : Occ, ∃ s : State, s.evr.cycle = none ∧ s.evr.running = true ∧ 256 ≤ s.evr.buffer ∧ o.code ≠ 0x0021) ∧
    (∃ o : Occ, ∃ s : State, s.evr.cycle = none ∧ s.evr.running = true ∧ s.evr.buffer < 256 ∧ mergesHead o s.evr =
      true) ∧
    (∃ o : Occ, ∃ s : State, s.evr.cycle = none ∧ s.evr.running = true ∧ s.evr.buffer < 256 ∧ mergesHead o s.evr =
      false ∧ s.evr.records.length < storeCap ∧ tracked s.hie.egress < 4096 ∧ (rateLimited o.code = false ∨ tnum
      s.evr.spent o.code < s.evr.burst)) ∧
    (∃ o : Occ, ∃ s : State, ∃ i, ∃ r, s.evr.cycle = none ∧ s.evr.running = true ∧ s.evr.buffer < 256 ∧ mergesHead
      o s.evr = false ∧ rateLimited o.code = true ∧ s.evr.burst ≤ tnum s.evr.spent o.code ∧ foldTarget o s.evr =
      some i ∧ s.evr.records[i]? = some r ∧ r.repeats < 32767) :=
  ⟨⟨{}, by decide⟩,
   ⟨{ code := 1, block := 1, detail := 0 }, { evr := { running := true, buffer := 256 } }, by decide⟩,
   ⟨{ code := 2, block := 1, detail := 0 },
    { evr := { running := true, headOpen := true, records := [{ evRec with code := 2, block := 1 }] } }, by decide⟩,
   ⟨{ code := 0x4004, block := 4, detail := 0 }, { evr := { running := true, buffer := 255 } }, by decide⟩,
   ⟨{ code := 0x4004, block := 4, detail := 0 },
    { evr := { running := true, spent := [(0x4004, 64)], records := [{ evRec with code := 0x4004 }] } }, 0,
    { evRec with code := 0x4004 }, by decide⟩⟩

/-- Obligations.RecorderUpkeep. -/
theorem met_RecorderUpkeep :
    (∃ code : Nat, knownCode code = true) ∧
    (∃ code : Nat, knownCode code = false) ∧
    (∃ s : State, s.evr.dropped = 0) ∧
    (∃ s : State, (s.evr.moving = false ∨ s.sys.nandPaused = true)) ∧
    (∃ s : State, s.evr.moving = true ∧ s.sys.nandPaused = false ∧ s.evr.archive.length ≤ archiveCap - 4096) ∧
    (∃ c : Fin 33, ∃ k, k ≠ c.val) ∧
    (∃ core : Fin 16, ∃ d : Nat, ∃ s : State, callerDrawer s core.val = some d) ∧
    (∃ core : Fin 16, ∃ s : State, callerDrawer s core.val = some 0) :=
  ⟨⟨0x4009, by decide⟩,
   ⟨0x1002, by decide⟩,
   ⟨{}, by decide⟩,
   ⟨{ sys := { nandPaused := true } }, by decide⟩,
   ⟨{ evr := { moving := true } }, by decide⟩,
   ⟨32, 0, by decide⟩,
   ⟨0, 0, (drives {}), by decide⟩,
   ⟨0, (drives {}), by decide⟩⟩

/-- Obligations.EventReadingAndClearing. -/
theorem met_EventReadingAndClearing :
    (∃ r : EvRecord, ∃ a : Bool, ∃ s : State,
      let c := s.evr.select
      let v := settleCursor s.evr (s.evr.cursors.getD c 1)
      ∃ k, findRecord s.evr c v.1 = some (r, a) ∧ k ≠ c) ∧
    (∃ core : Fin 16, ∃ d : Nat, ∃ r : EvRecord, ∃ a : Bool, ∃ s : State,
      let v := settleCursor s.evr (s.evr.cursors.getD d 1)
      ∃ k, callerDrawer s core.val = some d ∧ d < 32 ∧ findRecord s.evr d v.1 = some (r, a) ∧ k ≠ d) ∧
    (∃ core : Fin 16, ∃ d : Nat, ∃ s : State, callerDrawer s core.val = some d) ∧
    (∃ v : Nat, ∃ s : State, fld v 16 16 = 0x4A45 ∧ v.testBit 0 = true ∧ s.evr.running = true ∧ s.evr.cycle = none
      ∧ s.evr.records.length < storeCap ∧ tracked s.hie.egress < 4096) ∧
    (∃ core : Fin 16, ∃ s : State, callerDrawer s core.val = some 0 ∧ s.evr.running = true ∧ s.evr.cycle = none ∧
      s.evr.records.length < storeCap ∧ tracked s.hie.egress < 4096) ∧
    (∃ core : Fin 16, ∃ d : Nat, ∃ s : State, callerDrawer s core.val = some d ∧ d ≠ 0) ∧
    (∃ v : Nat, fld v 16 16 ≠ 0x4A45) :=
  ⟨⟨evRec, false, { evr := { next := 2, records := [evRec] } }, 0, by decide⟩,
   ⟨0, 0, evRec, false, { drives {} with evr := { next := 2, records := [evRec] } }, 32, by decide⟩,
   ⟨0, 0, (drives {}), by decide⟩,
   ⟨0x4A450001, { evr := { running := true, buffer := 255 } }, by decide⟩,
   ⟨0, { drives {} with evr := { running := true } }, by decide⟩,
   ⟨0, 1, other, by decide⟩,
   ⟨1, by decide⟩⟩

/-- Obligations.CheckValueUnits. -/
theorem met_CheckValueUnits :
    (∃ n : Fin 6, ∃ u : Cvu, ∃ s : State, cvuRuns s n.val = true ∧ s.cvu[n.val]? = some u ∧ u.busy = false) ∧
    (∃ n : Fin 6, ∃ u : Cvu, ∃ s : State, cvuRuns s n.val = true ∧ s.cvu[n.val]? = some u ∧ u.busy = false ∧ u.mode
      = 0) ∧
    (∃ n : Fin 6, ∃ u : Cvu, ∃ s : State, cvuRuns s n.val = true ∧ s.cvu[n.val]? = some u ∧ u.busy = false ∧
      jobRefusal u = 0 ∧ u.mode = 1) ∧
    (∃ n : Fin 6, ∃ u : Cvu, ∃ s : State, cvuRuns s n.val = true ∧ s.cvu[n.val]? = some u ∧ u.busy = false ∧
      jobRefusal u = 0 ∧ u.mode = 2) ∧
    (∃ n : Fin 6, ∃ u : Cvu, ∃ s : State, cvuRuns s n.val = true ∧ s.cvu[n.val]? = some u ∧ u.busy = false ∧
      jobRefusal u = 0 ∧ u.mode = 3) ∧
    (∃ n : Fin 6, ∃ u : Cvu, ∃ s : State, cvuRuns s n.val = true ∧ s.cvu[n.val]? = some u ∧ u.busy = true ∧ u.mode
      = 1 ∧ passedBytes s (cvuOwner s n.val) false u.src u.len = u.len) ∧
    (∃ n : Fin 6, ∃ u : Cvu, ∃ s : State, cvuRuns s n.val = true ∧ s.cvu[n.val]? = some u ∧ u.busy = true ∧ u.mode
      = 2 ∧ passedBytes s (cvuOwner s n.val) false u.src u.len = u.len ∧ passedBytes s (cvuOwner s n.val) true u.dst
      (u.len + cvuWidth u.poly) = u.len + cvuWidth u.poly) ∧
    (∃ n : Fin 6, ∃ u : Cvu, ∃ s : State,
      let b := u.len - cvuWidth u.poly
      let x := crcFeed (crcKind u.poly) (crcKind u.poly).init (jobBytes s u.src b)
      cvuRuns s n.val = true ∧ s.cvu[n.val]? = some u ∧ u.busy = true ∧ u.mode = 3 ∧ passedBytes s (cvuOwner s
      n.val) false u.src u.len = u.len ∧ passedBytes s (cvuOwner s n.val) true u.dst b = b) ∧
    (∃ n : Fin 6, ∃ u : Cvu, ∃ s : State, s.cvu[n.val]? = some u ∧ (cvuRuns s n.val = false ∨ u.busy = false)) ∧
    (∃ core : Fin 16, ∃ n : Fin 6, ∃ src len j : Nat, ∃ k : Stroke, ∃ y : Copy, ∃ u : Cvu, ∃ s : State, drivenBy s
      core.val = some (j, k, y) ∧ grant s.drw.image (taskDrawer s j) (25 + n.val) ≠ 0 ∧ cvuRuns s n.val = true ∧
      s.cvu[n.val]? = some u ∧ u.busy = false ∧ src < 2 ^ 32 ∧ 0 < len ∧ len < 2 ^ 25 ∧ passedBytes s (cvuOwner s
      n.val) false src len = len) :=
  ⟨⟨5, {}, { enabled := [.cvu 5] }, by decide⟩,
   ⟨5, {}, { enabled := [.cvu 5] }, by decide⟩,
   ⟨5, { mode := 1, len := 4 }, { enabled := [.cvu 5], cvu := List.replicate 6 { mode := 1, len := 4 } }, by
    decide⟩,
   ⟨5, { mode := 2, len := 4 }, { enabled := [.cvu 5], cvu := List.replicate 6 { mode := 2, len := 4 } }, by
    decide⟩,
   ⟨5, { mode := 3, len := 8 }, { enabled := [.cvu 5], cvu := List.replicate 6 { mode := 3, len := 8 } }, by
    decide⟩,
   ⟨5, cvJob, { enabled := [.cvu 5], cvu := List.replicate 6 cvJob }, by decide⟩,
   ⟨5, { cvJob with mode := 2, dst := 0x80001000 },
    { enabled := [.cvu 5], cvu := List.replicate 6 { cvJob with mode := 2, dst := 0x80001000 } }, by decide⟩,
   ⟨5, { cvJob with mode := 3, dst := 0x80000000 },
    { enabled := [.cvu 5], cvu := List.replicate 6 { cvJob with mode := 3, dst := 0x80000000 } }, by decide⟩,
   ⟨5, {}, {}, by decide⟩,
   ⟨0, 5, 0x80000000, 4, 0, (stroke0 {}), (copy0 {}), {}, { eth with enabled := [.cvu 5] }, by decide⟩⟩

/-- Obligations.MailboxCommands. -/
theorem met_MailboxCommands :
    ∃ s : State, s.key.cmdState ≠ 1 ∧ s.key.running = none ∧ s.key.queue = [] :=
  ⟨{}, by decide⟩

/-- Obligations.KeyServices. -/
theorem met_KeyServices :
    (∃ core : Fin 16, ∃ n : Nat, ∃ k : Stroke, ∃ y : Copy, ∃ s : State, drivenBy s core.val = some (n, k, y) ∧
      taskDrawer s n = 0 ∧ s.key.running = none ∧ s.key.queue = []) ∧
    (∃ core : Fin 16, ∃ n : Nat, ∃ k : Stroke, ∃ y : Copy, ∃ s : State, drivenBy s core.val = some (n, k, y)) ∧
    (∃ core : Fin 16, ∃ n : Nat, ∃ k : Stroke, ∃ y : Copy, ∃ s : State, drivenBy s core.val = some (n, k, y) ∧ 16 ≤
      s.key.queue.length) ∧
    (∃ core : Fin 16, ∃ n : Nat, ∃ k : Stroke, ∃ y : Copy, ∃ s : State, drivenBy s core.val = some (n, k, y) ∧
      s.key.running = none ∧ s.key.queue = []) :=
  ⟨⟨0, 0, (stroke0 {}), (copy0 {}), (drives {}), by decide⟩,
   ⟨0, 0, (stroke0 {}), (copy0 {}), (drives {}), by decide⟩,
   ⟨0, 0, (stroke0 {}), (copy0 {}), { drives {} with key := { queue := List.replicate 16 { op := .random 1 1 } } },
    by decide⟩,
   ⟨0, 0, stroke0 {}, copy0 {}, drives {}, by decide, rfl, rfl⟩⟩

/-- Obligations.KeyResults. -/
theorem met_KeyResults :
    (∃ r : KeyReq, ∃ h : Nat, ∃ l : List Byte, ∃ s : State, s.key.running = some r ∧ s.key.fusing = none ∧
      r.withdrawn = false ∧ r.reason = 0 ∧ r.op = .digest h l ∧ s.key.queue = []) ∧
    (∃ r : KeyReq, ∃ p sig : List Byte, ∃ s : State, s.key.running = some r ∧ s.key.fusing = none ∧ r.withdrawn =
      false ∧ r.reason = 0 ∧ r.op = .command 3 0 p sig) ∧
    (∃ r : KeyReq, ∃ op rsp : Nat, ∃ p sig : List Byte, ∃ s : State, s.key.running = some r ∧ s.key.fusing = none ∧
      r.withdrawn = false ∧ r.reason ≠ 0 ∧ r.op = .command op rsp p sig) ∧
    (∃ n : Nat, ∃ s : State, s.key.fusing = some n) :=
  ⟨⟨{ op := .digest 1 [] }, 1, [], { key := { running := some { op := .digest 1 [] } } }, rfl, rfl, rfl, rfl, rfl,
    rfl⟩,
   ⟨{ op := .command 3 0 [] [] }, [], [], { key := { running := some { op := .command 3 0 [] [] } } }, rfl, rfl,
    rfl, rfl, rfl⟩,
   ⟨{ op := .command 1 0 [] [], reason := 1 }, 1, 0, [], [],
    { key := { running := some { op := .command 1 0 [] [], reason := 1 } } }, rfl, rfl, rfl, by decide, rfl⟩,
   ⟨2, { key := { fusing := some 2 } }, by decide⟩⟩

/-- Obligations.KeyMaskingAndTamper. -/
theorem met_KeyMaskingAndTamper :
    (∃ s : State, s.key.ready = true ∧ s.key.rngFail = false) ∧
    (∃ x : Nat, ∃ s : State, s.rtc.valid = true ∧ (s.rtc.tamperEn = false ∨ (5000 ≤ x ∧ x ≤ 20000))) ∧
    (∃ s : State, s.rtc.valid = false) ∧
    (∃ x : Nat, ∃ s : State, s.rtc.valid = true ∧ s.rtc.tamperEn = true ∧ (x < 5000 ∨ 20000 < x)) :=
  ⟨⟨{ key := { ready := true } }, by decide⟩,
   ⟨20000, { rtc := { tamperEn := true } }, by decide⟩,
   ⟨{ rtc := { valid := false } }, by decide⟩,
   ⟨20001, { rtc := { tamperEn := true } }, by decide⟩⟩

/-- Obligations.StagingASet. -/
theorem met_StagingASet :
    (∃ by_ : Option (Fin 16), ∃ s : State, mayUpdate 1 s by_ = true ∧ s.upd.startDue = false ∧ (s.upd.phase = .idle
      ∨ s.upd.phase = .staging ∨ s.upd.phase = .verified)) ∧
    (∃ by_ : Option (Fin 16), ∃ s : State, mayUpdate 1 s by_ = true ∧ (s.upd.phase = .shadow ∨ s.upd.phase =
      .switching ∨ s.upd.phase = .watch)) ∧
    (∃ by_ : Option (Fin 16), ∃ s : State, ∃ c, c ∈ [Instr.stageOpen by_, .xfer by_, .verify by_, .start by_,
      .rollback by_] ∧ mayUpdate 1 s by_ = false) ∧
    (∃ by_ : Option (Fin 16), ∃ s : State, mayUpdate 1 s by_ = true ∧ s.upd.phase = .staging ∧ s.upd.busy = false) ∧
    (∃ by_ : Option (Fin 16), ∃ s : State, mayUpdate 1 s by_ = true ∧ s.upd.phase ≠ .staging) ∧
    (∃ s : State, s.enabled.contains .upd = true ∧ s.upd.busy = true ∧ s.sys.brace = false ∧ dmaAccess
      s.upd.xferOwner false s.upd.addr s.upd.len s = (true, s) ∧ s.upd.offset + s.upd.len ≤ partLimit s.upd.part) ∧
    (∃ s : State, (s.upd.busy = false ∨ s.sys.brace = true ∨ s.enabled.contains .upd = false)) ∧
    (∃ s : State, s.upd.phase = .staging ∧ s.sys.brace = true ∧ s.upd.offset + 4 ≤ partLimit s.upd.part) ∧
    (∃ s : State, ∃ k, s.upd.phase = .staging ∧ s.sys.brace = false ∧ s.upd.offset + 4 ≤ partLimit s.upd.part ∧ (k
      < s.upd.offset ∨ s.upd.offset + 4 ≤ k)) ∧
    (∃ s : State, s.upd.phase = .staging ∧ partLimit s.upd.part < s.upd.offset + 4) ∧
    (∃ s : State, s.upd.phase ≠ .staging) :=
  ⟨⟨none, {}, by decide⟩,
   ⟨none, { upd := { phase := .watch } }, by decide⟩,
   ⟨(some 3), {}, (.verify (some 3)), by decide⟩,
   ⟨(some 0), { drives {} with upd := { phase := .staging } }, by decide⟩,
   ⟨none, {}, by decide⟩,
   ⟨{ enabled := [.upd], upd := { phase := .staging, busy := true, addr := 0x80000000, len := 4, part := 1, offset := 33554428 } },
    rfl, rfl, rfl, by unfold dmaAccess; exact if_pos (by decide), by decide⟩,
   ⟨{}, by decide⟩,
   ⟨{ sys := { brace := true }, upd := { phase := .staging, part := 1, offset := 33554428 } }, by decide⟩,
   ⟨{ upd := { phase := .staging, part := 1, offset := 33554428 } }, 33554427, by decide⟩,
   ⟨{ upd := { phase := .staging, part := 1, offset := 33554429 } }, by decide⟩,
   ⟨{}, by decide⟩⟩

/-- Obligations.UpdateCommands. -/
theorem met_UpdateCommands :
    (∃ by_ : Option (Fin 16), ∃ s : State, ∃ p, mayUpdate 1 s by_ = true ∧ s.upd.phase = .staging ∧ s.upd.busy =
      false ∧ p < 3 ∧ s.upd.written.testBit p = true) ∧
    (∃ by_ : Option (Fin 16), ∃ s : State, ∃ p, mayUpdate 1 s by_ = true ∧ s.upd.phase = .staging ∧ s.upd.busy =
      false ∧ p < 3 ∧ s.upd.written.testBit p = false ∧ s.drw.load = 2 ∧ s.sys.brace = false) ∧
    (∃ by_ : Option (Fin 16), ∃ s : State, mayUpdate 1 s by_ = true ∧ s.upd.phase = .idle) ∧
    (∃ s : State, (s.upd.held ≠ [] ∨ s.upd.copyDue = true)) ∧
    (∃ s : State, s.upd.phase = .verifying ∧ s.upd.held = [] ∧ s.upd.copyDue = false) ∧
    (∃ by_ : Option (Fin 16), ∃ s : State, mayUpdate 1 s by_ = true ∧ updRefuse s ≠ 0) ∧
    (∃ by_ : Option (Fin 16), ∃ s : State, mayUpdate 1 s by_ = true ∧ updRefuse s = 0 ∧ isOnline s = true) ∧
    (∃ by_ : Option (Fin 16), ∃ s : State, mayUpdate 1 s by_ = true ∧ updRefuse s = 0 ∧ isOnline s = false) ∧
    (∃ s : State, ∃ p, p ∈ s.wke.seats ∧ shadowing s.upd = true ∧ p.2 = .shadow) ∧
    (∃ s : State, s.upd.phase = .idle ∧ s.upd.startDue = false) ∧
    (∃ by_ : Option (Fin 16), ∃ s : State, mayUpdate 1 s by_ = true ∧ (s.upd.phase = .switching ∨ s.upd.phase =
      .watch)) ∧
    (∃ by_ : Option (Fin 16), ∃ s : State,
      let a := s.upd.lockAddr
      let n := min (leNat (memBytes s (a + 44) 2)) 1462
      mayUpdate 2 s by_ = true ∧ s.enabled.contains .upd = true ∧ dmaAccess (by_.map (fun c => coreTag s c.val))
      false a (46 + n) s = (true, s)) ∧
    (∃ by_ : Option (Fin 16), ∃ s : State, mayUpdate 2 s by_ = true ∧ s.enabled.contains .upd = false) ∧
    (∃ by_ : Option (Fin 16), ∃ s : State, mayUpdate 2 s by_ = false) :=
  ⟨⟨none, { upd := { phase := .staging, written := 4 } }, 2, by decide⟩,
   ⟨none, { drw := { load := 2 }, upd := { phase := .staging } }, 2, by decide⟩,
   ⟨(some 0), (drives {}), by decide⟩,
   ⟨{ upd := { phase := .verifying, copyDue := true } }, by decide⟩,
   ⟨{ upd := { phase := .verifying } }, by decide⟩,
   ⟨none, {}, by decide⟩,
   ⟨none,
    { sys := { mode := .run }, drw := { load := 2 }, wke := { seats := [(14, .free)] }, upd := { slotB := { st := .verified } } },
    by decide⟩,
   ⟨none, { drw := { load := 3 }, upd := { slotB := { st := .verified } } }, by decide⟩,
   ⟨{ upd := { phase := .shadow }, wke := { seats := [(14, .shadow)] } }, (14, .shadow), by decide⟩,
   ⟨{}, by decide⟩,
   ⟨none, { upd := { phase := .watch } }, by decide⟩,
   ⟨none, { enabled := [.upd], upd := { lockAddr := 0x80000000 } }, rfl, rfl, by unfold dmaAccess; exact if_pos (by
    decide)⟩,
   ⟨none, {}, by decide⟩,
   ⟨(some 3), {}, by decide⟩⟩

/-- Obligations.ShadowLimitsAndWatch. -/
theorem met_ShadowLimitsAndWatch :
    (∃ n : Nat, ∃ s : State, s.upd.phase = .shadow ∧ lacking s.upd = some n ∧ coverageEdge s ≤ s.stk.edges) ∧
    (∃ s : State, lacking s.upd = none) ∧
    (∃ s : State, s.upd.phase = .deferred ∧ s.upd.passAt + 614400 ≤ s.evr.opTime) ∧
    (∃ s : State, s.upd.phase = .deferred ∧ s.evr.opTime < s.upd.passAt + 614400) ∧
    (∃ s : State, (s.upd.phase = .watch ∨ s.upd.phase = .switching) ∧ s.upd.watch = 0 ∧ s.upd.back = none) ∧
    (∃ s : State, s.upd.watch ≠ 0) :=
  ⟨⟨1, { stk := { edges := 4002 }, upd := { phase := .shadow, covered := [1] } }, by decide⟩,
   ⟨{}, by decide⟩,
   ⟨{ evr := { opTime := 614400 }, upd := { phase := .deferred } }, by decide⟩,
   ⟨{ evr := { opTime := 614399 }, upd := { phase := .deferred } }, by decide⟩,
   ⟨{ upd := { phase := .watch } }, by decide⟩,
   ⟨{ upd := { watch := 1 } }, by decide⟩⟩

/-- Obligations.MarzinReceipt. -/
theorem met_MarzinReceipt :
    (∃ h : MarzinHead, ∃ s : State, ∃ c, c ∈ marzinCommands h ∧ (s.hie.role = 0 ∨ s.enabled.contains .hie = false)) ∧
    (∃ h : MarzinHead, ∃ s : State, ∃ c, c ∈ marzinCommands h ∧ s.hie.role ≠ 0 ∧ s.enabled.contains .hie = true ∧
      fromSelf s h = false ∧ h.valid = false) ∧
    (∃ h : MarzinHead, ∃ s : State, ∃ c, c ∈ marzinCommands h ∧ s.hie.role ≠ 0 ∧ s.enabled.contains .hie = true ∧
      fromSelf s h = false ∧ isParent s h.sender = false ∧ isChild s h.sender = false) ∧
    (∃ h : MarzinHead, ∃ l : Nat, ∃ s : State, ∃ c, c ∈ marzinCommands h ∧ s.hie.role ≠ 0 ∧ s.enabled.contains .hie
      = true ∧ fromSelf s h = false ∧ h.valid = true ∧ (isParent s h.sender = true ∨ isChild s h.sender = true) ∧
      ((tget s.hie.peers h.sender).getD {}).rx = some l ∧ seqAhead (some l) h.seq = false ∧ h.ackReq = false) ∧
    (∃ h : MarzinHead, ∃ s : State, s.hie.role ≠ 0 ∧ s.enabled.contains .hie = true ∧ h.valid = true ∧ (isParent s
      h.sender = true ∨ isChild s h.sender = true) ∧ seqAhead ((tget s.hie.peers h.sender).getD {}).rx h.seq = true) ∧
    (∃ h : MarzinHead, ∃ s : State, s.hie.role ≠ 0 ∧ s.enabled.contains .hie = true ∧ h.valid = true ∧ (isParent s
      h.sender = true ∨ isChild s h.sender = true) ∧ seqAhead ((tget s.hie.peers h.sender).getD {}).rx h.seq = true) ∧
    (∃ h : MarzinHead, ∃ s : State, s.hie.role ≠ 0 ∧ s.enabled.contains .hie = true ∧ h.valid = true ∧ (isParent s
      h.sender = true ∨ isChild s h.sender = true) ∧ seqAhead ((tget s.hie.peers h.sender).getD {}).rx h.seq = true
      ∧ h.ackReq = false) ∧
    (∃ peer seq : Nat, ∃ u : Unacked, ∃ s : State, isParent s peer = false ∧ s.hie.unacked.find? (fun u => u.peer =
      peer && u.seq = seq) = some u ∧ u.tries < 3) ∧
    (∃ peer seq : Nat, ∃ u : Unacked, ∃ s : State, isParent s peer = true ∧ s.hie.unacked.find? (fun u => u.peer =
      peer && u.seq = seq) = some u ∧ u.tries < 3) ∧
    (∃ peer seq : Nat, ∃ u : Unacked, ∃ s : State, s.hie.unacked.find? (fun u => u.peer = peer && u.seq = seq) =
      some u ∧ 3 ≤ u.tries) ∧
    (∃ peer seq : Nat, ∃ s : State, s.hie.unacked.find? (fun u => u.peer = peer && u.seq = seq) = none) ∧
    (∃ m : Marzin, ∃ rest : Bool, ∃ a : Arbiter, ∃ s : State, arbServe s.hie.egress = (a, some (m, rest)) ∧
      m.ackReq = false) ∧
    (∃ m : Marzin, ∃ rest : Bool, ∃ a : Arbiter, ∃ s : State, s.hie.role = 3 ∧ isParent s m.via = false ∧ arbServe
      s.hie.ingress = (a, some (m, rest))) ∧
    (∃ m : Marzin, ∃ rest : Bool, ∃ c : Nat, ∃ a : Arbiter, ∃ s : State, s.hie.role = 3 ∧ isParent s m.via = true ∧
      m.dest ≠ s.hie.node ∧ m.dest ≠ 0xFFFF ∧ childFor s m.dest = some c ∧ arbServe s.hie.ingress = (a, some (m,
      rest))) :=
  ⟨⟨(hd 7 1 1), {}, (.marzinNotice (hd 7 1 1) 0 0), by decide⟩,
   ⟨{ hd 1 1 5 with valid := false }, worker, (.marzinNotice { hd 1 1 5 with valid := false } 0 0), by decide⟩,
   ⟨(hd 2 1 5), worker, (.marzinNotice (hd 2 1 5) 0 0), by decide⟩,
   ⟨(hd 1 1 5), 1, { worker with hie := { worker.hie with peers := [(1, { rx := some 1 })] } }, (.marzinNotice (hd
    1 1 5) 0 0), by decide⟩,
   ⟨(hd 7 1 1), manager, by decide⟩,
   ⟨(hd 7 1 1), manager, by decide⟩,
   ⟨(hd 7 1 1), manager, by decide⟩,
   ⟨1, 4, { peer := 1, seq := 4, msg := msgTo 1 (beat), tries := 2 },
    { hie := { unacked := [{ peer := 1, seq := 4, msg := msgTo 1 (beat), tries := 2 }] } }, by decide⟩,
   ⟨1, 4, { peer := 1, seq := 4, msg := msgTo 1 (beat), tries := 2 },
    { worker with hie := { worker.hie with unacked := [{ peer := 1, seq := 4, msg := msgTo 1 (beat), tries := 2 }] } },
    by decide⟩,
   ⟨1, 4, { peer := 1, seq := 4, msg := msgTo 1 (beat), tries := 3 },
    { hie := { unacked := [{ peer := 1, seq := 4, msg := msgTo 1 (beat), tries := 3 }] } }, by decide⟩,
   ⟨1, 4, {}, by decide⟩,
   ⟨(msgTo 1 (beat)), false, {}, { hie := { egress := { first := [msgTo 1 (beat)] } } }, by decide⟩,
   ⟨(msgTo 1 (beat)), false, {}, { hie := { role := 3, ingress := { first := [msgTo 1 (beat)] } } }, by decide⟩,
   ⟨{ msgTo 7 (beat) with via := 1 }, false, 7, {},
    { zone with hie := { zone.hie with ingress := { first := [{ msgTo 7 (beat) with via := 1 }] } } }, by decide⟩⟩

/-- Obligations.TreeAndCauses. -/
theorem met_TreeAndCauses :
    (∃ h : MarzinHead, ∃ a : AlignMsg, ∃ s : State, ∃ c, c ∈ s.hie.children ∧ s.hie.role ≠ 0 ∧ s.enabled.contains
      .hie = true ∧ h.valid = true ∧ a.kind = .join true ∧ isParent s h.sender = false ∧ seqAhead ((tget s.hie.peers
      h.sender).getD {}).rx h.seq = true ∧ joinReason s h.sender a.role a.identity true = 0 ∧ c.node ≠ h.sender) ∧
    (∃ h : MarzinHead, ∃ a : AlignMsg, ∃ s : State, s.hie.role ≠ 0 ∧ s.enabled.contains .hie = true ∧ h.valid =
      true ∧ a.kind = .join true ∧ isParent s h.sender = false ∧ seqAhead ((tget s.hie.peers h.sender).getD {}).rx
      h.seq = true ∧ joinReason s h.sender a.role a.identity true ≠ 0) ∧
    (∃ s : State, s.enabled.contains .hie = true) ∧
    (∃ s : State, (s.hie.role = 1 ∨ s.hie.role = 3) ∧ s.hie.admitted = true ∧ s.hie.parentLost = false) ∧
    (∃ n : Nat, ∃ k, k ≠ n) ∧
    (∃ n : Nat, ∃ s : State, s.hie.children.any (fun c => c.node = n && !c.lost) = false) ∧
    (∃ s : State, (s.hie.role = 1 ∨ s.hie.role = 3) ∧ s.hie.admitted = false ∧ s.enabled.contains .hie = true) ∧
    (∃ s : State, s.hie.admitted = true) ∧
    (∃ h : MarzinHead, ∃ tn : Nat, ∃ l : List (Nat × BitVec 64), ∃ s : State,
      let known := l.filter (fun e => (causePoint s.drw.image e.1).isSome)
      s.hie.role ≠ 0 ∧ s.enabled.contains .hie = true ∧ h.valid = true ∧ h.ackReq = false ∧ isParent s h.sender =
      true ∧ seqAhead ((tget s.hie.peers h.sender).getD {}).rx h.seq = true ∧ causeReason s tn known.length = 0) ∧
    (∃ h : MarzinHead, ∃ tn : Nat, ∃ l : List (Nat × BitVec 64), ∃ s : State,
      let known := l.filter (fun e => (causePoint s.drw.image e.1).isSome)
      s.hie.role ≠ 0 ∧ s.enabled.contains .hie = true ∧ h.valid = true ∧ h.ackReq = false ∧ isParent s h.sender =
      true ∧ seqAhead ((tget s.hie.peers h.sender).getD {}).rx h.seq = true ∧ causeReason s tn known.length ≠ 0) ∧
    (∃ h : MarzinHead, ∃ s : State, s.hie.role = 2 ∧ fromSelf s h = true) :=
  ⟨⟨(hd 8 1 1), joinMsg, manager, { node := 7, role := 1, identity := [] }, by decide⟩,
   ⟨(hd 8 1 1), { joinMsg with role := 2 }, manager, by decide⟩,
   ⟨manager, by decide⟩,
   ⟨worker, by decide⟩,
   ⟨1, 2, by decide⟩,
   ⟨8, manager, by decide⟩,
   ⟨{ worker with hie := { worker.hie with admitted := false } }, by decide⟩,
   ⟨worker, by decide⟩,
   ⟨(hd 1 1 5), 100, [], { worker with sys := { mode := .run }, drw := { image := img } }, by decide⟩,
   ⟨(hd 1 1 5), 100, [], worker, by decide⟩,
   ⟨(hd 1 1 7), manager, by decide⟩⟩

/-- Obligations.DirectoryAndOrders. -/
theorem met_DirectoryAndOrders :
    (∃ h : MarzinHead, ∃ s : State, s.hie.role ≠ 0 ∧ s.enabled.contains .hie = true ∧ fromSelf s h = false ∧
      h.valid = true ∧ isChild s h.sender = true ∧ seqAhead ((tget s.hie.peers h.sender).getD {}).rx h.seq = true) ∧
    (∃ m : Marzin, ∃ l : List PubEntry, ∃ a : Arbiter, ∃ s : State, s.hie.role = 2 ∧ arbServe s.hie.ingress = (a,
      some (m, false)) ∧ m.body = .directory (.publish l) ∧ (s.hie.dir.filter (·.node ≠ m.origin)).length + l.length
      ≤ 262144) ∧
    (∃ c : Fin 16, ∃ n : Nat, ∃ k : Stroke, ∃ x : Copy, ∃ s : State, drivenBy s c.val = some (n, k, x) ∧ grant
      s.drw.image (taskDrawer s n) 32 ≠ 0 ∧ s.hie.role ≠ 0) ∧
    (∃ c : Fin 16, ∃ q n : Nat, ∃ k : Stroke, ∃ x : Copy, ∃ s : State, drivenBy s c.val = some (n, k, x) ∧ grant
      s.drw.image (taskDrawer s n) 32 ≠ 0 ∧ (s.hie.role = 1 ∨ s.hie.role = 3) ∧ q ≠ s.hie.node ∧ hasParent s = true) ∧
    (∃ c : Fin 16, ∃ q n : Nat, ∃ k : Stroke, ∃ x : Copy, ∃ s : State, drivenBy s c.val = some (n, k, x) ∧ grant
      s.drw.image (taskDrawer s n) 32 ≠ 0 ∧ (s.hie.role = 1 ∨ s.hie.role = 3) ∧ q ≠ s.hie.node ∧ hasParent s = false) ∧
    (∃ h : MarzinHead, ∃ s : State, s.hie.role = 3 ∧ s.enabled.contains .hie = true ∧ fromSelf s h = false ∧
      h.valid = true ∧ isParent s h.sender = true ∧ seqAhead ((tget s.hie.peers h.sender).getD {}).rx h.seq = true) ∧
    (∃ h : MarzinHead, ∃ v : Nat, ∃ s : State, fromSelf s h = true ∧ h.dest ≠ 0xFFFF ∧ childFor s h.dest = some v) ∧
    (∃ h : MarzinHead, ∃ s : State, s.hie.role = 1 ∧ s.enabled.contains .hie = true ∧ h.valid = true ∧ h.ackReq =
      false ∧ isParent s h.sender = true ∧ h.dest = s.hie.node ∧ seqAhead ((tget s.hie.peers h.sender).getD {}).rx
      h.seq = true ∧ s.key.running = none ∧ s.key.queue = []) ∧
    (∃ h : MarzinHead, ∃ s : State, s.hie.role = 1 ∧ s.enabled.contains .hie = true ∧ h.valid = true ∧ h.ackReq =
      false ∧ isParent s h.sender = true ∧ h.dest = s.hie.node ∧ seqAhead ((tget s.hie.peers h.sender).getD {}).rx
      h.seq = true) ∧
    (∃ h : MarzinHead, ∃ v : Nat, ∃ s : State, s.hie.role = 1 ∧ s.enabled.contains .hie = true ∧ h.valid = true ∧
      h.ackReq = false ∧ isParent s h.sender = true ∧ h.dest = s.hie.node ∧ seqAhead ((tget s.hie.peers
      h.sender).getD {}).rx h.seq = true ∧ v < 2 ^ 32) ∧
    (∃ c : Fin 16, ∃ o n : Nat, ∃ l : List Byte, ∃ k : Stroke, ∃ x : Copy, ∃ s : State, drivenBy s c.val = some (n,
      k, x) ∧ grant s.drw.image (taskDrawer s n) 32 ≠ 0 ∧ coreTag s c.val = 0 ∧ l ≠ [] ∧ o + l.length ≤ 512) ∧
    (∃ c : Fin 16, ∃ o n : Nat, ∃ l : List Byte, ∃ k : Stroke, ∃ x : Copy, ∃ s : State, drivenBy s c.val = some (n,
      k, x) ∧ grant s.drw.image (taskDrawer s n) 32 ≠ 0 ∧ coreTag s c.val = 0 ∧ 512 < o + l.length) :=
  ⟨⟨(hd 7 1 1), manager, by decide⟩,
   ⟨(msgTo 1 (.directory (.publish []))), [], {},
    { hie := { role := 2, ingress := { first := [msgTo 1 (.directory (.publish []))] } } }, by decide⟩,
   ⟨0, 0, (stroke0 {}), (copy0 {}), { drives {} with hie := { role := 1 } }, by decide⟩,
   ⟨0, 9, 0, (stroke0 {}), (copy0 {}), { drives {} with hie := worker.hie }, by decide⟩,
   ⟨0, 9, 0, (stroke0 {}), (copy0 {}), { drives {} with hie := { worker.hie with admitted := false } }, by decide⟩,
   ⟨(hd 1 1 5), zone, by decide⟩,
   ⟨(hd 1 1 7), 7, manager, by decide⟩,
   ⟨(hd 1 1 5), worker, by decide⟩,
   ⟨(hd 1 1 5), worker, by decide⟩,
   ⟨(hd 1 1 5), 0x80000000, worker, by decide⟩,
   ⟨0, 511, 0, [1], (stroke0 {}), (copy0 {}), (drives {}), by decide⟩,
   ⟨0, 512, 0, [1], (stroke0 {}), (copy0 {}), (drives {}), by decide⟩⟩

/-- Obligations.DebugCommands. -/
theorem met_DebugCommands :
    (∃ s : State, driving s = true) ∧
    (∃ pins x : Nat, ∃ s : State, ∃ c, c ∈ [Instr.tapExtest pins x, .tapSamplePreload pins x, .tapIdcode,
      .tapBypass] ∧ driving s = false) ∧
    (∃ s : State, s.dbg.token.length + 4 ≤ 1536) ∧
    (∃ s : State, s.key.lc ≠ 2) ∧
    (∃ s : State, s.key.lc = 2 ∧ tokenReason s s.dbg.token ≠ 0) ∧
    (∃ s : State, s.key.lc = 2) ∧
    (∃ s : State, s.key.allowed = false) ∧
    (∃ s : State, s.key.allowed = true ∧ s.key.debugUsed = false) ∧
    (∃ s : State, s.key.allowed = true ∧ s.key.debugUsed = true) ∧
    (∃ s : State, s.key.allowed = true ∧ s.key.debugUsed = true ∧ s.sys.mode ≠ .debug) ∧
    (∃ s : State, s.key.allowed = true ∧ s.sys.mode = .debug ∧ s.dbg.stepBusy = false ∧ s.dbg.stepDue = false) ∧
    (∃ s : State, s.key.allowed = true ∧ s.sys.mode = .debug ∧ s.dbg.stepBusy = true) ∧
    (∃ s : State, s.key.allowed = true ∧ s.sys.mode = .debug ∧ s.dbg.stepBusy = false ∧ s.sys.boot ≠ .off ∧
      s.sys.boot ≠ .held) ∧
    (∃ s : State, s.sys.mode ≠ .debug) ∧
    (∃ s : State, s.sys.mode = .debug ∧ s.dbg.stepBusy = true) ∧
    (∃ s : State, ∃ c, c ∈ [Instr.probeIdleTimeout, .trstNLow] ∧ s.sys.mode = .debug ∧ s.dbg.stepBusy = false ∧
      s.sys.boot ≠ .off ∧ s.sys.boot ≠ .held) :=
  ⟨⟨{ sys := { boot := .loaded } }, by decide⟩,
   ⟨5, 5, {}, .tapIdcode, by decide⟩,
   ⟨{ dbg := { token := List.replicate 1532 0 } }, Nat.add_le_of_le_sub (by decide) (Nat.le_of_eq
    List.length_replicate)⟩,
   ⟨{}, by decide⟩,
   ⟨{ key := { lc := 2 } }, by decide⟩,
   ⟨{ key := { lc := 2 } }, by decide⟩,
   ⟨{}, by decide⟩,
   ⟨{ key := { allowed := true } }, by decide⟩,
   ⟨{ key := { allowed := true, debugUsed := true } }, by decide⟩,
   ⟨{ key := { allowed := true, debugUsed := true } }, by decide⟩,
   ⟨{ sys := { mode := .debug }, key := { allowed := true } }, by decide⟩,
   ⟨{ sys := { mode := .debug }, key := { allowed := true }, dbg := { stepBusy := true } }, by decide⟩,
   ⟨{ sys := { boot := .loaded, mode := .debug }, key := { allowed := true } }, by decide⟩,
   ⟨{}, by decide⟩,
   ⟨{ sys := { mode := .debug }, dbg := { stepBusy := true } }, by decide⟩,
   ⟨{ sys := { boot := .loaded, mode := .debug } }, .trstNLow, by decide⟩⟩

/-- Obligations.CoresUnderTheProbe. -/
theorem met_CoresUnderTheProbe :
    (∃ c : Fin 16, ∃ x : DbgCore, ∃ s : State, ∃ k, s.sys.mode = .debug ∧ s.dbg.cores[c.val]? = some x ∧ x.held =
      false ∧ coreOut s c.val = false ∧ k ≠ c.val) ∧
    (∃ s : State, s.sys.mode ≠ .debug) ∧
    (∃ c : Fin 16, ∃ x : DbgCore, ∃ s : State, s.sys.mode = .debug ∧ s.dbg.cores[c.val]? = some x ∧ x.held = true ∧
      (coreOut s c.val = true ∨ x.cause ≠ 5)) ∧
    (∃ c : Fin 16, ∃ x : DbgCore, ∃ s : State, ∃ k, s.sys.mode = .debug ∧ s.dbg.cores[c.val]? = some x ∧ x.held =
      true ∧ coreOut s c.val = false ∧ x.cause = 5 ∧ k ≠ c.val) ∧
    (∃ c : Fin 16, ∃ x : DbgCore, ∃ s : State, ∃ k, s.sys.mode = .debug ∧ s.dbg.cores[c.val]? = some x ∧ x.held =
      true ∧ k ≠ c.val) ∧
    (∃ c : Fin 16, ∃ x : DbgCore, ∃ s : State, ∃ k, s.sys.mode = .debug ∧ s.dbg.cores[c.val]? = some x ∧ x.held =
      true ∧ k ≠ c.val) ∧
    (∃ c : Fin 16, ∃ i : Fin 8, ∃ pc b : Nat, ∃ x : DbgCore, ∃ s : State, s.enabled.contains .dbg = true ∧ coreOut
      s c.val = false ∧ s.dbg.cores[c.val]? = some x ∧ x.held = false ∧ x.bps[i.val]? = some b ∧ b.testBit 0 = true
      ∧ b / 4 = pc % 2 ^ 32 / 4) ∧
    (∃ c : Fin 16, ∃ i : Fin 8, ∃ pc b : Nat, ∃ x : DbgCore, ∃ s : State, s.enabled.contains .dbg = true ∧ coreOut
      s c.val = false ∧ s.dbg.cores[c.val]? = some x ∧ x.held = false ∧ x.bps[i.val]? = some b ∧ b.testBit 0 = true
      ∧ b / 4 ≠ pc % 2 ^ 32 / 4) ∧
    (∃ c : Fin 16, ∃ i : Fin 4, ∃ a w k : Nat, ∃ wr : Bool, ∃ x : DbgCore, ∃ s : State, s.enabled.contains .dbg =
      true ∧ coreOut s c.val = false ∧ s.dbg.cores[c.val]? = some x ∧ x.held = false ∧ x.wps[i.val]? = some (w, k) ∧
      k.testBit 31 = true ∧ k.testBit (if wr then 9 else 8) = true ∧ a % 2 ^ 32 / 2 ^ (k % 32) = w / 2 ^ (k % 32)) ∧
    (∃ c : Fin 16, ∃ i : Fin 4, ∃ a w k : Nat, ∃ wr : Bool, ∃ x : DbgCore, ∃ s : State, s.enabled.contains .dbg =
      true ∧ coreOut s c.val = false ∧ s.dbg.cores[c.val]? = some x ∧ x.held = false ∧ x.wps[i.val]? = some (w, k) ∧
      k.testBit 31 = true ∧ k.testBit (if wr then 9 else 8) = true ∧ a % 2 ^ 32 / 2 ^ (k % 32) ≠ w / 2 ^ (k % 32)) ∧
    (∃ e : Fin 32, ∃ f : Force, ∃ s : State, ∃ k, s.sys.mode = .debug ∧ s.dbg.forces[e.val]? = some f ∧ k ≠ e.val) ∧
    (∃ s : State, s.sys.mode ≠ .debug) ∧
    (∃ s : State, s.dbg.stepBusy = true ∧ ((∀ c < 16, stepIdle s c = true))) ∧
    (∃ s : State, s.dbg.stepBusy = false) :=
  ⟨⟨15, {}, { sys := { mode := .debug } }, 0, by decide⟩,
   ⟨{}, by decide⟩,
   ⟨15, { held := true }, { sys := { mode := .debug }, dbg := { cores := List.replicate 16 { held := true } } }, by
    decide⟩,
   ⟨15, { held := true, cause := 5 },
    { sys := { mode := .debug }, dbg := { cores := List.replicate 16 { held := true, cause := 5 } } }, 0, by decide⟩,
   ⟨15, { held := true }, { sys := { mode := .debug }, dbg := { cores := List.replicate 16 { held := true } } }, 0,
    by decide⟩,
   ⟨15, { held := true }, { sys := { mode := .debug }, dbg := { cores := List.replicate 16 { held := true } } }, 0,
    by decide⟩,
   ⟨15, 7, 0x1003, 0x1001, bpCore, { enabled := [.dbg], dbg := { cores := List.replicate 16 bpCore } }, by decide⟩,
   ⟨15, 7, 0x1004, 0x1001, bpCore, { enabled := [.dbg], dbg := { cores := List.replicate 16 bpCore } }, by decide⟩,
   ⟨15, 3, 0x100F, 0x1000, (2 ^ 31 + 2 ^ 9 + 4), true, wpCore,
    { enabled := [.dbg], dbg := { cores := List.replicate 16 wpCore } }, by decide⟩,
   ⟨15, 3, 0x1010, 0x1000, (2 ^ 31 + 2 ^ 9 + 4), true, wpCore,
    { enabled := [.dbg], dbg := { cores := List.replicate 16 wpCore } }, by decide⟩,
   ⟨31, {}, { sys := { mode := .debug } }, 0, by decide⟩,
   ⟨{}, by decide⟩,
   ⟨{ dbg := { stepBusy := true } }, by decide⟩,
   ⟨{}, by decide⟩⟩

/-- Obligations.RegisterAccess. -/
theorem met_RegisterAccess :
    (∃ s : State, driving s = false) ∧
    (∃ a : BitVec 32, ∃ s : State, driving s = true ∧ s.key.debugUsed = false ∧ s.key.allowed = false ∧ s.drw.load
      ≠ 3 ∧ blockAt a.toNat ≠ some .dbg) ∧
    (∃ b : Block, ∃ a : BitVec 32, ∃ s : State, driving s = true ∧ ServiceProbe s ∧ blockAt a.toNat = some b ∧ b ≠
      .dbg ∧ a.toNat = blockBase b) ∧
    (∃ a : BitVec 32, ∃ s : State, driving s = true ∧ ServiceProbe s ∧ isMemory a.toNat = true ∧ windowAt
      s.drw.image a.toNat = none ∧ plainBytes a.toNat 4 = true) ∧
    (∃ a : BitVec 32, ∃ s : State, driving s = true ∧ ServiceProbe s ∧ listed a.toNat = false) ∧
    (∃ a : BitVec 32, inTagArea a.toNat = true ∧ a.toNat % 4 = 0) ∧
    (∃ b : Block, ∃ a : BitVec 32, blockAt a.toNat = some b ∧ b ≠ .dbg ∧ (a.toNat = blockBase b ∨ a.toNat =
      blockBase b + 8)) ∧
    (∃ a : BitVec 32, blockAt a.toNat = some .dbg) ∧
    (∃ c : Fin 16, ∃ a : BitVec 32, ∃ n : Nat, ∃ k : Stroke, ∃ x : Copy, ∃ b : Block, ∃ s : State, drivenBy s c.val
      = some (n, k, x) ∧ blockAt a.toNat = some b ∧ drawerPasses s (taskDrawer s n) (some n) true b (a.toNat -
      blockBase b) = false ∧ s.drw.fValid = false) ∧
    (∃ c : Fin 16, ∃ a : BitVec 32, ∃ n : Nat, ∃ k : Stroke, ∃ x : Copy, ∃ b : Block, ∃ s : State, drivenBy s c.val
      = some (n, k, x) ∧ blockAt a.toNat = some b ∧ drawerPasses s (taskDrawer s n) (some n) true b (a.toNat -
      blockBase b) = true ∧ isStaged b (a.toNat - blockBase b) = true ∧ x.ws.grp = .opened ∧ x.ws.staged.length <
      256) ∧
    (∃ n : Fin 32, ∃ c : DoCh, ∃ s : State, ∃ j, s.sys.mode = .rigging ∧ s.dio.dout[n.val]? = some c ∧ j ≠ n.val) ∧
    (∃ a : BitVec 32, ∃ b : Block, ∃ s : State, s.sys.mode ≠ .rigging ∧ blockAt a.toNat = some b ∧ isStaged b
      (a.toNat - blockBase b) = true ∧ s.dvt.fValid = false) :=
  ⟨⟨{}, by decide⟩,
   ⟨0x10000010, { sys := { boot := .loaded } }, by decide⟩,
   ⟨(.mac 9), 0x100AA000, { sys := { boot := .loaded }, key := { debugUsed := true } },
    by unfold ServiceProbe; decide⟩,
   ⟨0xFFFFFFFC, { sys := { boot := .loaded }, key := { debugUsed := true } }, by unfold ServiceProbe; decide⟩,
   ⟨0x30000000, { sys := { boot := .loaded }, key := { debugUsed := true } }, by unfold ServiceProbe; decide⟩,
   ⟨0x43FFFFFC, by decide⟩,
   ⟨.key, 0x100F0008, by decide⟩,
   ⟨0x10120000, by decide⟩,
   ⟨0, 0x10000010, 0, (stroke0 {}), (copy0 {}), .sys, (drives {}), by decide⟩,
   ⟨0, 0x10050330, 0, (stroke0 { grp := .opened }), (copy0 { grp := .opened }), .dio, (drives { grp := .opened }),
    by decide⟩,
   ⟨31, { cfg := 1 }, {}, 0, by decide⟩,
   ⟨0x10050300, .dio, (drives {}), by decide⟩⟩

/-- Obligations.AccessFailures. -/
theorem met_AccessFailures :
    (∃ o : Option (Fin 32), ∃ k : Fin 3, ∃ a : BitVec 32, ∃ s : State, listed a.toNat = true ∧ accessPasses s
      (o.map (·.val)) none false (k.val = 1) (k.val = 2) a.toNat = false ∧ s.drw.fValid = false) ∧
    (∃ o : Option (Fin 32), ∃ k : Fin 3, ∃ a : BitVec 32, ∃ s : State, listed a.toNat = true ∧ accessPasses s
      (o.map (·.val)) none false (k.val = 1) (k.val = 2) a.toNat = false ∧ s.drw.fValid = true) ∧
    (∃ c : Fin 16, ∃ k : Fin 3, ∃ a : BitVec 32, ∃ n : Nat, ∃ q : Stroke, ∃ x : Copy, ∃ s : State, listed a.toNat =
      true ∧ drivenBy s c.val = some (n, q, x) ∧ accessPasses s (some (coreTag s c.val)) (some n) true (k.val = 1)
      (k.val = 2) a.toNat = false ∧ s.drw.fValid = false) ∧
    (∃ c : Fin 16, ∃ k : Fin 3, ∃ a : BitVec 32, ∃ n : Nat, ∃ q : Stroke, ∃ x : Copy, ∃ s : State, listed a.toNat =
      true ∧ drivenBy s c.val = some (n, q, x) ∧ accessPasses s (some (coreTag s c.val)) (some n) true (k.val = 1)
      (k.val = 2) a.toNat = false ∧ isShadow s n c.val = false) ∧
    (∃ k : Fin 3, ∃ a : BitVec 32, ∃ s : State, listed a.toNat = true ∧ accessPasses s none none false (k.val = 1)
      (k.val = 2) a.toNat = false ∧ s.drw.fValid = false) ∧
    (∃ a : BitVec 32, listed a.toNat = false) ∧
    (∃ o : Option (Fin 32), ∃ k : Fin 3, ∃ a : BitVec 32, ∃ s : State, accessPasses s (o.map (·.val)) none false
      (k.val = 1) (k.val = 2) a.toNat = true) ∧
    (∃ c : Fin 16, ∃ a : BitVec 32, ∃ n : Nat, ∃ q : Stroke, ∃ x : Copy, ∃ s : State, listed a.toNat = false ∧
      drivenBy s c.val = some (n, q, x) ∧ isShadow s n c.val = false) ∧
    (∃ a : BitVec 32, listed a.toNat = false) ∧
    (∃ a : BitVec 32, listed a.toNat = false) ∧
    (∃ a : BitVec 32, listed a.toNat = true) :=
  ⟨⟨(some 3), 1, 0x10000010, {}, by decide⟩,
   ⟨(some 31), 2, 0, { drw := { fValid := true } }, by decide⟩,
   ⟨0, 1, 0x10000010, 0, (stroke0 {}), (copy0 {}), (drives {}), by decide⟩,
   ⟨0, 1, 0x10000010, 0, (stroke0 {}), (copy0 {}), (drives {}), by decide⟩,
   ⟨1, 0x20000000, {}, by decide⟩,
   ⟨0x30000000, by decide⟩,
   ⟨none, 0, 0x80000000, {}, by decide⟩,
   ⟨0, 0x30000000, 0, (stroke0 {}), (copy0 {}), (drives {}), by decide⟩,
   ⟨0x30000000, by decide⟩,
   ⟨0x30000000, by decide⟩,
   ⟨0x10000000, by decide⟩⟩

/-- Obligations.LoadEndsAndIdleEdges. -/
theorem met_LoadEndsAndIdleEdges :
    (∃ s : State, (s.sys.boot ≠ .tested ∨ s.sys.tamperHold = true ∨ s.key.lc = 4)) ∧
    (∃ s : State, s.sys.boot = .tested ∧ s.sys.tamperHold = false ∧ s.key.lc ≠ 4 ∧ s.drw.load = 3) ∧
    (∃ s : State, s.sys.boot = .tested ∧ s.sys.tamperHold = false ∧ s.key.lc ≠ 4 ∧ s.drw.load ≠ 3) ∧
    (∃ s : State, (s.sys.boot = .off ∨ s.sys.boot = .held ∨ s.sys.boot = .released)) ∧
    (∃ s : State, (s.sys.boot = .clocked ∨ s.sys.boot = .tested ∨ s.sys.boot = .loaded) ∧ (s.drw.load ≠ 2 ∨
      s.sys.mode = .rigging) ∧ s.sys.mode ≠ .debug ∧ s.sys.haltReq = false ∧ s.ptp.join = none) ∧
    (∃ s : State, (s.sys.boot = .clocked ∨ s.sys.boot = .tested ∨ s.sys.boot = .loaded) ∧ (s.drw.load ≠ 2 ∨
      s.sys.mode = .rigging) ∧ s.sys.mode ≠ .debug ∧ s.sys.haltReq = true ∧ s.ptp.join = none ∧ s.sys.resetReq =
      false ∧ s.dbg.exitDue = false) ∧
    (∃ s : State, (s.sys.boot = .clocked ∨ s.sys.boot = .tested ∨ s.sys.boot = .loaded) ∧ s.drw.load ≠ 2 ∧
      s.sys.mode = .debug ∧ s.dbg.stepDue = true) ∧
    (∃ s : State, s.sys.boot = .loaded ∧ s.drw.load = 2 ∧ s.sys.mode ≠ .rigging ∧ s.ptp.join = none) :=
  ⟨⟨{}, by decide⟩,
   ⟨{ sys := { boot := .tested }, drw := { load := 3 } }, by decide⟩,
   ⟨{ sys := { boot := .tested } }, by decide⟩,
   ⟨{ sys := { boot := .released } }, by decide⟩,
   ⟨{ sys := { boot := .loaded, mode := .hold } }, by decide⟩,
   ⟨{ sys := { boot := .loaded, mode := .hold, haltReq := true } }, by decide⟩,
   ⟨{ sys := { boot := .loaded, mode := .debug }, dbg := { stepDue := true } }, by decide⟩,
   ⟨{ sys := { boot := .loaded, mode := .hold }, drw := { load := 2 } }, by decide⟩⟩

/-- Obligations.StepKeepsMemory. -/
theorem met_StepKeepsMemory :
    ∃ s t : State, s.Sound ∧ step s = .next t :=
  ⟨{ pending := [.tapIdcode], mem := [(0x40000000, 1), (0xFFFFFFFF, 8)] }, _, (by decide : Memory.wf [(0x40000000,
    1), (0xFFFFFFFF, 8)]), rfl⟩

/-- Obligations.FusesStayBlown. -/
theorem met_FusesStayBlown :
    ∃ (s t : State) (k : Nat), step s = .next t ∧ s.key.fuses.testBit k = true :=
  ⟨{ pending := [.tapIdcode] }, _, 0, rfl, by decide⟩

/-- Obligations.SerialFloorMoves. -/
theorem met_SerialFloorMoves :
    ∃ s t : State, step s = .next t :=
  ⟨{ pending := [.tapIdcode] }, _, rfl⟩

end Sys2Proof.Tests
end

section
/-! PROOFS. Frames as equations: a state that agrees with another in every block is that state. -/
namespace Sys2Proof.Machine

/-- Two states agree when every block does. -/
theorem State.eq_of_fields {t s : State}
    (h : t.OnlyFreshEvrHie s) (hfresh : t.fresh = s.fresh) (hevr : t.evr = s.evr) (hhie : t.hie = s.hie) : t = s := by
  cases t; cases s
  simp_all [State.OnlyFreshEvrHie]

end Sys2Proof.Machine
end

section
/-! PROOFS. The stages of a brace, and the contacts that show it (R10, R50, R57, R59, R60, R561, R572, R589). -/
namespace Sys2Proof.Machine

/-! ### The warning, the flush, the end -/

/-- The warning enters the brace while none is asserted (R59). -/
theorem exec_powerFailWarning_clear (v : Nat) {s : State} (hon : s.sys.boot ≠ .off) (hclear : s.sys.pfw = false) :
    exec (.powerFailWarning v) s = .next (raise { code := 0x1010, block := 0x01, detail := v % 2 ^ 16 } { s with
      sys := { s.sys with
        pfw := true, brace := true, pfwSeen := true, braceSeen := true, confirming := false, nandPaused := false,
        flushed := false, braceMin := v % 2 ^ 16 },
      evr := { s.evr with opSaved := s.evr.opTime } }) := by
  change execPowerFailWarning v s = _
  rw [execPowerFailWarning, if_neg hon, hclear]
  rfl

theorem exec_braceFlushDone_running {s : State} (hbrace : s.sys.brace = true) :
    exec .braceFlushDone s = .next (drainBuffer (ringFlush { s with sys := { s.sys with flushed := true } })) := by
  change execBraceFlushDone s = _
  rw [execBraceFlushDone, if_pos hbrace]
  rfl

/-- Only a module in RIGGING enters RUN or DEGRADED as the warning ends (R51). -/
theorem tryRun_of_not_rigging {s : State} (h : s.sys.mode ≠ .rigging) : tryRun s = s := by
  simp [tryRun, h]

theorem exec_braceEnd_running (units lowest : Nat) {s : State} (hpfw : s.sys.pfw = true)
    (hconf : s.sys.confirming = true) (hbrace : s.sys.brace = true) (hmode : s.sys.mode ≠ .rigging)
    (hmove : s.evr.moveWait = false) :
    exec (.braceEnd units lowest) s = .next (raise
      { code := 0x1011, block := 0x01, detail := min units 0xFFFF * 2 ^ 16 + lowest % 2 ^ 16 } { s with
      sys := { s.sys with
        pfw := false, brace := false, braceLong := false, confirming := false, nandPaused := false, flushed := false,
        braceMin := lowest % 2 ^ 16 },
      upd := resumeStaging s.upd }) := by
  change execBraceEnd units lowest s = _
  simp only [execBraceEnd, hpfw, hconf, hbrace, Bool.and_self, if_true, modSys, hmove, Bool.false_eq_true, if_false,
    sysEvent]
  rw [tryRun_of_not_rigging (by simpa using hmode)]

theorem exec_braceLong_first (lowest : Nat) {s : State} (hbrace : s.sys.brace = true) (hlong : s.sys.braceLong = false) :
    exec (.braceLong lowest) s = .next (raise { code := 0x1013, block := 0x01, detail := lowest % 2 ^ 16 } { s with
      sys := { s.sys with braceLong := true, braceMin := lowest % 2 ^ 16 } }) := by
  change execBraceLong lowest s = _
  rw [execBraceLong, if_pos (by simp [hbrace, hlong])]
  rfl

/-! ### What the flush empties (R59, R182, R185) -/

/-- The journal writer can empty its buffer: no checkpoint is being written, and a suspended writer holds nothing. -/
def WriterDrains (w : Wke) : Prop := w.writing = none ∧ (w.suspended = false ∨ w.buffer = [])

/-- Each write of the ring takes a record off the buffer, or suspends the writer and drops the buffer. -/
theorem ringWrite_drains {s : State} (h : WriterDrains s.wke) :
    WriterDrains (ringWrite s).wke ∧ (ringWrite s).wke.buffer.length ≤ s.wke.buffer.length - 1 := by
  obtain ⟨hwriting, hsuspended⟩ := h
  unfold ringWrite
  cases hb : s.wke.buffer with
  | nil => simp [WriterDrains, hwriting, hb]
  | cons r l =>
    have hruns : s.wke.suspended = false := by simpa [hb] using hsuspended
    simp only [hruns, Bool.false_eq_true, if_false]
    split <;> simp [WriterDrains, hwriting]

theorem foldl_ringWrite_length {α : Type} (l : List α) {s : State} (h : WriterDrains s.wke) :
    (l.foldl (fun s _ => ringWrite s) s).wke.buffer.length ≤ s.wke.buffer.length - l.length := by
  induction l generalizing s with
  | nil => simp
  | cons a l ih =>
    obtain ⟨hdrains, hlen⟩ := ringWrite_drains h
    have hrest := ih hdrains
    simp only [List.foldl_cons, List.length_cons]
    omega

theorem ringFlush_buffer {s : State} (h : WriterDrains s.wke) : (ringFlush s).wke.buffer = [] :=
  List.eq_nil_of_length_eq_zero (by simpa [ringFlush] using foldl_ringWrite_length s.wke.buffer h)

theorem drainBuffer_buffer (s : State) : (drainBuffer s).evr.buffer = 0 := by
  unfold drainBuffer
  dsimp only
  split <;> rfl

theorem drainBuffer_wke (s : State) : (drainBuffer s).wke = s.wke := by simp

/-! ### Contacts (R538, R561, R568) -/

theorem logicPin_of_not_driving {s : State} (n : Nat) (drain own : Bool) (h : driving s = false) :
    logicPin n drain own s = .released := by
  simp [logicPin, h]

/-- A contact that no EXTEST drives has the level of its block. -/
theorem logicPin_of_driving {s : State} (n : Nat) (drain own : Bool) (h : driving s = true) (hir : s.dbg.ir ≠ 0) :
    logicPin n drain own s = if drain then openDrain (!own) else pushPull own := by
  simp [logicPin, h, hir]

theorem pushPull_eq_low {b : Bool} : pushPull b = .low ↔ b = false := by cases b <;> simp [pushPull]
theorem pushPull_eq_high {b : Bool} : pushPull b = .high ↔ b = true := by cases b <;> simp [pushPull]
theorem openDrain_eq_low {b : Bool} : openDrain b = .low ↔ b = true := by cases b <;> simp [openDrain]

theorem boot_ne_off_of_driving {s : State} (h : driving s = true) : s.sys.boot ≠ .off := by
  intro hoff
  simp [driving, hoff] at h

theorem pfwN_of_driving {s : State} (h : driving s = true) (hir : s.dbg.ir ≠ 0) : pfwN s = pushPull (!s.sys.pfw) :=
  logicPin_of_driving 10 false _ h hir

theorem replaceN_eq_low {s : State} (h : driving s = true) (hir : s.dbg.ir ≠ 0) :
    replaceN s = .low ↔ s.sys.replace ≠ 0 := by
  simp [replaceN, logicPin_of_driving _ _ _ h hir, openDrain_eq_low]

/-- HEALTHY is not driven before the PLL lock, and follows RUN from it on (R50). -/
theorem healthy_eq_high {s : State} (h : driving s = true) (hir : s.dbg.ir ≠ 0) :
    healthy s = .high ↔ s.sys.boot ≠ .released ∧ s.sys.mode = .run := by
  by_cases hboot : s.sys.boot = .released
  · simp [healthy, hboot, hir]
  · simp [healthy, hboot, logicPin_of_driving _ _ _ h hir, pushPull_eq_high]

/-- Settles O2: each command of the brace by its own rule, the flush by the shrinking of the journal buffer, the contacts
by `logicPin`. -/
theorem braceStages : Obligations.BraceStages := by
  unfold Obligations.BraceStages
  refine ⟨fun v s hon hclear => exec_powerFailWarning_clear v hon hclear, fun _ => rfl, fun s hbrace => ?_, fun _ => rfl,
    fun units lowest s hpfw hconf hbrace hmode hmove => exec_braceEnd_running units lowest hpfw hconf hbrace hmode hmove,
    fun lowest s hbrace hlong => exec_braceLong_first lowest hbrace hlong, fun s hd hir => ?_, fun v s hd hir hclear => ?_,
    fun s hd => ?_⟩
  · refine ⟨_, exec_braceFlushDone_running hbrace, by simp, drainBuffer_buffer _, fun hsuspended hwriting => ?_, by simp,
      by simp, by simp, by simp⟩
    rw [drainBuffer_wke]
    exact ringFlush_buffer ⟨hwriting, .inl hsuspended⟩
  · refine ⟨?_, replaceN_eq_low hd hir, ?_, healthy_eq_high hd hir, ?_⟩
    · simp [pfwN_of_driving hd hir, pushPull_eq_low]
    · simp [replaceN_eq_low hd hir, replaceLed, hd]
    · simp [fltClosed, hd]
  · refine ⟨_, exec_powerFailWarning_clear v (boot_ne_off_of_driving hd) hclear, ?_, ?_⟩
    · simp [pfwN_of_driving hd hir, hclear, pushPull_eq_high]
    · rw [pfwN_of_driving (by simpa [driving] using hd) (by simpa using hir)]
      simp [pushPull_eq_low]
  · simp [pfwN, replaceN, healthy, syncOutPin, fltClosed, replaceLed, logicOut, tdoPin, logicPin_of_not_driving, hd]

end Sys2Proof.Machine
end

section
/-! PROOFS. PTP ports, alignment and time-stamp queues (R390 to R403, R417). -/
namespace Sys2Proof.Machine

variable (s : State)

/-! ### Tick states (R395) -/

theorem leaveLocked_ptp (t : TickSt) :
    (leaveLocked t s).ptp = { s.ptp with
      st := t, good := 0, bad := 0, mark := if s.ptp.st = .locked then s.stk.edges else s.ptp.mark } := by
  simp [leaveLocked, modPtp]

theorem leaveLocked_onlyPtp (t : TickSt) : leaveLocked t s = { s with
    ptp := (leaveLocked t s).ptp, evr := (leaveLocked t s).evr, hie := (leaveLocked t s).hie,
    fresh := (leaveLocked t s).fresh } :=
  State.eq_of_fields (by simp [State.OnlyFreshEvrHie]) rfl rfl rfl

theorem exec_syncTimeout_locked {s : State} (hst : s.ptp.st = .locked) (hgm : s.ptp.gm = false) :
    exec .syncTimeout s = .next (leaveLocked .holdover s) := by
  change execSyncTimeout s = _
  rw [execSyncTimeout, if_pos (by simp [hst, hgm])]

theorem exec_holdoverExpiry_holdover {s : State} (hst : s.ptp.st = .holdover) :
    exec .holdoverExpiry s = .next (leaveLocked .free s) := if_pos hst

/-! ### Alignment (R390, R391, R393) -/

/-- The joining edge is the first aligned edge, a multiple of 250 µs after the origin, at least a tick period after the
last edge. -/
theorem startJoin_of_unaligned (ns since : Nat) (haligned : s.ptp.aligned = false) (hjoin : s.ptp.join = none) :
    let last : Int := (ns : Int) - (since % 250000 : Nat)
    (startJoin ns since s).stk = { s.stk with baseNs := last - (s.stk.edges * 250000 : Nat) } ∧
    ∃ k : Int, last + 250000 ≤ s.ptp.origin * 1000000000 + k * 250000 ∧
      s.ptp.origin * 1000000000 + k * 250000 < last + 500000 ∧
      (startJoin ns since s).ptp = { s.ptp with join := some (twos 64 k, (s.ptp.origin * 1000000000 + k * 250000).toNat,
        (s.ptp.origin * 1000000000 + k * 250000 - last).toNat) } := by
  intro last
  have hopen : ¬ (s.ptp.aligned || s.ptp.join.isSome) = true := by simp [haligned, hjoin]
  refine ⟨by rw [startJoin, if_neg hopen],
    (last + 250000 - s.ptp.origin * 1000000000 + 249999) / 250000, by omega, by omega, ?_⟩
  rw [startJoin, if_neg hopen]

/-- A port that has no slave role, or a module that is aligned, starts no alignment. -/
theorem slaveAligns_of_settled (ns since : Nat) {s : State} (h : s.ptp.aligned = true ∨ s.ptp.slavePort = 0xF) :
    slaveAligns ns since s = s := by
  rcases h with h | h <;> simp [slaveAligns, startJoin, h]

theorem joinEdge_of_join {tn j iv : Nat} (h : s.ptp.join = some (tn, j, iv)) :
    (joinEdge s).stk = { s.stk with tn := tn, baseNs := (j : Int) - (s.stk.edges * 250000 : Nat) } ∧
    (joinEdge s).ptp = { s.ptp with
      join := none, aligned := true, alignTn := tn % 2 ^ 32, mark := s.stk.edges, good := 0, bad := 0,
      st := if s.ptp.gm then .locked else .acquiring } := by
  simp [joinEdge, h, modPtp]

theorem joinEdge_onlyStkPtpAio : joinEdge s = { s with
    stk := (joinEdge s).stk, ptp := (joinEdge s).ptp, aio := (joinEdge s).aio, evr := (joinEdge s).evr,
    hie := (joinEdge s).hie, fresh := (joinEdge s).fresh } :=
  State.eq_of_fields (by simp [State.OnlyFreshEvrHie]) rfl rfl rfl

/-! ### Roles (R401, R402) -/

/-- The slave port that an outcome of the best master clock algorithm gives: an enabled backbone port, or none. -/
def rolesSlave (r : PtpRoles) : Nat :=
  match r.slave with
  | some m => if 8 ≤ m && ptpEnabled s m then m else 0xF
  | none => 0xF

/-- The outcome makes the module grandmaster. -/
def rolesGm (r : PtpRoles) : Bool := r.gm && ptpFlag s 1 && decide (rolesSlave s r = 0xF)

/-- What an outcome settles of the roles, and the tick block without its time base: alignment and a tick state left keep it. -/
def rolesView (s : State) : Nat × Bool × Nat × Stk := (s.ptp.slavePort, s.ptp.gm, s.ptp.gmId, { s.stk with baseNs := 0 })

theorem rolesView_ite (c : Prop) [Decidable c] (a b : State) :
    rolesView (if c then a else b) = if c then rolesView a else rolesView b := apply_ite rolesView c a b

theorem rolesView_fresh (n : Nat) : rolesView { s with fresh := n } = rolesView s := rfl

theorem rolesView_raise (o : Occ) : rolesView (raise o s) = rolesView s := by simp [rolesView]

theorem rolesView_leaveLocked (t : TickSt) : rolesView (leaveLocked t s) = rolesView s := by
  simp [rolesView, leaveLocked_ptp]

theorem rolesView_startJoin (ns since : Nat) : rolesView (startJoin ns since s) = rolesView s := by
  unfold startJoin
  split <;> rfl

theorem rolesView_slaveAligns (ns since : Nat) : rolesView (slaveAligns ns since s) = rolesView s := by
  simp [slaveAligns, rolesView_ite, rolesView_startJoin]

theorem rolesView_setRoles (r : PtpRoles) (ns since : Nat) :
    rolesView (setRoles r ns since s) = (rolesSlave s r, rolesGm s r,
      if rolesGm s r then clockIdentity s else r.gmId % 2 ^ 64, { s.stk with baseNs := 0 }) := by
  simp only [setRoles, rolesView_ite, rolesView_startJoin, rolesView_slaveAligns, rolesView_leaveLocked, rolesView_raise,
    rolesView_fresh, ite_self]
  rfl

theorem setRoles_ptp_roles (r : PtpRoles) (ns since : Nat) :
    (setRoles r ns since s).ptp.slavePort = rolesSlave s r ∧ (setRoles r ns since s).ptp.gm = rolesGm s r ∧
    (setRoles r ns since s).ptp.gmId = (if rolesGm s r then clockIdentity s else r.gmId % 2 ^ 64) := by
  have hview := rolesView_setRoles s r ns since
  simp only [rolesView, Prod.mk.injEq] at hview
  obtain ⟨hslave, hgm, hid, -⟩ := hview
  exact ⟨hslave, hgm, hid⟩

theorem setRoles_stk (r : PtpRoles) (ns since : Nat) :
    (setRoles r ns since s).stk = { s.stk with baseNs := (setRoles r ns since s).stk.baseNs } :=
  congrArg (fun v => { v.2.2.2 with baseNs := (setRoles r ns since s).stk.baseNs }) (rolesView_setRoles s r ns since)

theorem setRoles_onlyBaseNsPtp (r : PtpRoles) (ns since : Nat) : setRoles r ns since s = { s with
    stk := { s.stk with baseNs := (setRoles r ns since s).stk.baseNs }, ptp := (setRoles r ns since s).ptp,
    evr := (setRoles r ns since s).evr, hie := (setRoles r ns since s).hie, fresh := (setRoles r ns since s).fresh } := by
  rw [← setRoles_stk]
  exact State.eq_of_fields (by simp [State.OnlyFreshEvrHie]) rfl rfl rfl

theorem exec_announceTimeout_enabled {s : State} {m : Fin 10} (r : PtpRoles) (hon : ptpEnabled s m.val = true) :
    exec (.announceTimeout m r) s = .next (setRoles r r.ptpNs r.sinceNs s) := if_pos hon

/-! ### Messages (R5, R400) -/

theorem ptpMessage_of_other_domain (m : Nat) (g : PtpMessage) (hon : ptpEnabled s m = true)
    (hprofile : profileHas s g.kind = true) (hdomain : g.domain ≠ fld s.ptp.cfg 16 8) :
    ptpMessage m g s = modPort m (fun p => { p with ignored := sat 8 p.ignored 1 }) s := by
  simp [ptpMessage, hon, hprofile, hdomain]

theorem ptpMessage_of_unsupported (m : Nat) (g : PtpMessage) (h : ptpEnabled s m = false ∨ profileHas s g.kind = false) :
    ptpMessage m g s = s := by
  rcases h with h | h <;> simp [ptpMessage, h]

/-- A message that completes no measurement of the offset sets the path delay alone. -/
theorem ptpMessage_of_no_offset (m : Nat) (g : PtpMessage) (hon : ptpEnabled s m = true)
    (hprofile : profileHas s g.kind = true) (hdomain : g.domain = fld s.ptp.cfg 16 8)
    (hkind : g.kind ≠ .sync ∨ g.twoStep = true) (hroles : g.roles = none) (hoffset : g.offset = none)
    (hsettled : s.ptp.aligned = true ∨ s.ptp.slavePort = 0xF) :
    ptpMessage m g s = g.delay.elim s (fun d =>
      modPort m (fun p => { p with delay := min d 0xFFFF, measured := true }) s) := by
  have htaken : ¬ (g.domain ≠ fld s.ptp.cfg 16 8 || (g.kind = .sync && !g.twoStep)) = true := by
    rcases hkind with hkind | hkind <;> simp [hdomain, hkind]
  rw [ptpMessage, if_neg (by simp [hon, hprofile]), if_neg htaken, hroles, hoffset]
  refine slaveAligns_of_settled _ _ ?_
  cases g.delay <;> exact hsettled

theorem exec_ptpMessageSend_of_maySend {s : State} {m : Fin 10} {k : PtpKind} (hon : ptpEnabled s m.val = true)
    (hmay : maySend s m.val k = true) :
    exec (.ptpMessageSend m k) s = .next (modMac m.val (fun x => { x with ptpOut := x.ptpOut ++ [k] })
      (if k = .announce then { s with ptp := { s.ptp with announced := some (announceOf s) } } else s)) := by
  change execPtpMessageSend m k s = _
  rw [execPtpMessageSend, if_pos (by simp [hon, hmay])]
  rfl

/-! ### Time-stamp queues (R403, R417) -/

theorem exec_tsqHeadRead_of_cons {s : State} {m : Fin 10} {r i ts : Nat} {l : List (Nat × Nat × Nat)}
    (h : (s.ptp.tsq.getD m.val {}).entries = (r, i, ts) :: l) :
    exec (.tsqHeadRead m) s = .next { modTsq m.val (fun q => { q with entries := l, latch := ts }) s with
      answer := .value (2 ^ 31 + r * 2 ^ 26 + i % 2 ^ 12) } := by
  change execTsqHeadRead m s = _
  rw [execTsqHeadRead, tsqTake, h]

end Sys2Proof.Machine
end

section
/-! PROOFS. The obligation on PTP ports. -/
namespace Sys2Proof.Machine

/-- Settles O32: messages, roles, tick states, alignment and queues each by their own rule. -/
theorem ptpPorts : Obligations.PtpPorts := by
  unfold Obligations.PtpPorts
  refine ⟨fun m g s hon hprofile hdomain => congrArg _ (ptpMessage_of_other_domain s m g hon hprofile hdomain),
    fun m g s h => congrArg _ (ptpMessage_of_unsupported s m g h),
    fun m g s hon hprofile hdomain hkind hroles hoffset hsettled =>
      congrArg _ (ptpMessage_of_no_offset s m g hon hprofile hdomain hkind hroles hoffset hsettled),
    fun m r s hon => ?_, fun s hst hgm => ?_, fun s hst => ?_,
    fun m k s hon hmay => exec_ptpMessageSend_of_maySend hon hmay,
    fun ns since s haligned hjoin => startJoin_of_unaligned s ns since haligned hjoin, fun tn j iv s h => ?_,
    fun m r i ts l s h => exec_tsqHeadRead_of_cons h, fun _ _ => rfl⟩
  · obtain ⟨hslave, hgm, hid⟩ := setRoles_ptp_roles s r r.ptpNs r.sinceNs
    refine ⟨_, exec_announceTimeout_enabled r hon, ?_, ?_, ?_, setRoles_onlyBaseNsPtp s r r.ptpNs r.sinceNs⟩
    · rw [hslave]; rfl
    · rw [hgm, hslave]; rfl
    · rw [hid, hgm]
  · exact ⟨_, exec_syncTimeout_locked hst hgm, by rw [leaveLocked_ptp, if_pos hst], leaveLocked_onlyPtp s _⟩
  · exact ⟨_, exec_holdoverExpiry_holdover hst, by rw [leaveLocked_ptp, if_neg (by simp [hst])], leaveLocked_onlyPtp s _⟩
  · obtain ⟨hstk, hptp⟩ := joinEdge_of_join s h
    intro t
    have hptp : t.ptp = _ := hptp
    exact ⟨hstk, by rw [hptp], by rw [hptp], by rw [hptp], by rw [hptp], joinEdge_onlyStkPtpAio s⟩

end Sys2Proof.Machine
end

section
/-! PROOFS. A staged write of the service initiator in RIGGING: the outputs settle with it, so that the jig matrix is
evaluated again (R15, R167, R212, R218). -/
namespace Sys2Proof.Machine

/-! ### The address of an output's configuration (R40, R253) -/

theorem blockAt_dio {a : Nat} (hlo : 0x10050000 ≤ a) (hhi : a < 0x10060000) : blockAt a = some .dio := by
  have hlisted : listed a = true := by simp [listed]; omega
  have hblock : a / 0x10000 % 0x100 = 5 := by omega
  rw [blockAt, if_neg (by simp [hlisted]; omega), hblock]
  rfl

theorem registerWrite_none_staged {a v : Nat} {b : Block} {s : State} (htag : inTagArea a = false)
    (hblock : blockAt a = some b) (hstaged : isStaged b (a - blockBase b) = true) :
    registerWrite none a v s = stageOutside none a v s := by
  have hdbg : b ≠ .dbg := by rintro rfl; simp [isStaged] at hstaged
  simp [registerWrite, htag, hblock, writeAt, hstaged]

theorem stageOutside_rigging (a v : Nat) {s : State} (h : s.sys.mode = .rigging) :
    stageOutside none a v s = settleOutputs (applyStaged a v s) := if_pos (by simp [h])

theorem applyStaged_outputCfg {a n : Nat} (v : Nat) (s : State) (hn : n < 32) (ha : a = 0x10050300 + 16 * n) :
    applyStaged a v s = modDo n (fun c => { c with cfg := v &&& dioCfgMask (32 + n) }) s := by
  have hoff : a - blockBase .dio = 0x300 + 16 * n := by simp only [blockBase]; omega
  have hstaged : isStaged .dio (0x300 + 16 * n) = true := by simp [isStaged]; omega
  have hchan : chanOf (0x300 + 16 * n) = 32 + n := by simp only [chanOf]; omega
  simp [applyStaged, blockAt_dio (a := a) (by omega) (by omega), hoff, hstaged, hchan, applyDioCfg]

/-- The whole effect of the write: the configuration of the output, and the outputs settle. -/
theorem exec_stagedWrite_outputCfg {a : BitVec 32} {n : Nat} (v : BitVec 32) {s : State} (hn : n < 32)
    (ha : a.toNat = 0x10050300 + 16 * n) (h : s.sys.mode = .rigging) :
    exec (.stagedWrite none a v) s =
      .next (settleOutputs (modDo n (fun c => { c with cfg := v.toNat &&& dioCfgMask (32 + n) }) s)) := by
  have hblock : blockAt a.toNat = some .dio := blockAt_dio (by omega) (by omega)
  have hstaged : isStaged .dio (a.toNat - blockBase .dio) = true := by simp [isStaged, blockBase, ha]; omega
  have htag : inTagArea a.toNat = false := by simp [inTagArea]; omega
  change execStagedWrite none a v s = _
  rw [execStagedWrite, hblock]
  simp only [hstaged, if_true]
  rw [registerWrite_none_staged htag hblock hstaged, stageOutside_rigging _ _ h, applyStaged_outputCfg _ _ hn ha]

/-! ### The matrix is evaluated again (R116, R212) -/

theorem settleOutputs_fired {s : State} (hactive : s.jig.active = true) (hmatrix : s.jig.matrix.isEmpty = false) :
    (settleOutputs s).jig.fired =
      s.jig.fired ||| (evalRules s.jig.matrix (jigInputs s) s.jig.cond s.jig.latch).2 := by
  simp [settleOutputs, evalMatrix, hactive, hmatrix]

theorem testBit_bset_of_testBit {m i : Nat} (n : Nat) (h : m.testBit i = true) : (bset m n).testBit i = true := by
  simp [bset, Nat.testBit_or, h]

/-- Rule 0 is true when it has a used term and all its used terms are 1; no later rule changes it. -/
theorem evalRules_testBit_zero {body : List Byte} {di cond latch : Nat}
    (h : (evalTerms body di cond 0 0 (List.range 8) latch).2 = (true, true)) :
    (evalRules body di cond latch).2.testBit 0 = true := by
  rw [evalRules, show List.range 128 = 0 :: (List.range 127).map Nat.succ from List.range_succ_eq_map, List.foldl_cons]
  refine List.foldlRecOn (motive := fun acc : Nat × Nat => acc.2.testBit 0 = true) _ _ (by simp [h, bset])
    (fun acc hacc n _ => ?_)
  dsimp only
  split
  · exact testBit_bset_of_testBit n hacc
  · exact hacc

/-- A module in RIGGING after a failed load, as a tick edge leaves it (`jigSample`): rule 0, whose one term is DI0
inverted, is true, the edge has sampled it, and no rule has fired since. -/
def ruleHeld : State := {
  sys := { boot := .loaded, mode := .rigging }
  drw := { load := 3 }
  jig := {
    active := true, matrix := [0, 0, 0, 0x60] ++ List.replicate 4252 0
    rules := 1, seen := 1, atEdge := 1, edgeFired := 1 } }

theorem ruleHeld_terms : (evalTerms ruleHeld.jig.matrix 0 0 0 0 (List.range 8) 0).2 = (true, true) := by decide

/-- A write to DIO_CH32_CFG evaluates the matrix, and its true rule stands in the rules fired since the edge. -/
theorem exec_stagedWrite_ruleHeld :
    ∃ t, exec (.stagedWrite none 0x10050300#32 0) ruleHeld = .next t ∧ t.jig.fired.testBit 0 = true := by
  refine ⟨_, exec_stagedWrite_outputCfg 0 (n := 0) (by decide) (by decide) rfl, ?_⟩
  rw [settleOutputs_fired rfl rfl, Nat.testBit_or]
  exact Bool.or_eq_true_iff.mpr (.inr (evalRules_testBit_zero ruleHeld_terms))

/-- Refutes O52: a staged write of the service initiator in RIGGING does not change the DIO block alone, as the clause on
output configurations says. It settles the outputs, and that evaluates the jig matrix: in `ruleHeld` the rules fired since
the last edge change from none to rule 0. -/
theorem not_registerAccess : ¬ Obligations.RegisterAccess := by
  unfold Obligations.RegisterAccess
  intro h
  obtain ⟨-, -, -, -, -, -, -, -, -, -, -, houtput, -⟩ := h
  obtain ⟨t, hexec, -, -, hframe⟩ := houtput 0 0 {} ruleHeld rfl rfl
  obtain ⟨u, hexec', hfired⟩ := exec_stagedWrite_ruleHeld
  have htu : t = u := Host.Outcome.next.inj (hexec.symm.trans hexec')
  have hkept : u.jig.fired = 0 := htu ▸ congrArg (fun s : State => s.jig.fired) hframe
  simp [hkept] at hfired

end Sys2Proof.Machine
end

section
/-! PROOFS. What a command keeps of the commands that wait, memory, the fuses and the least serial; every step keeps memory
in its canonical form (R22, log entry 3). -/
namespace Sys2Proof.Machine

/-! ### The commands that leave all four as they were -/

/-- The command completes and keeps the commands that wait, memory, the fuses and the least serial of `s`. -/
def Kept (s : State) : Host.Outcome State Fault Refusal → Prop
  | .next t => t.Keeps s
  | _ => False

@[simp] theorem kept_next {s t : State} : Kept s (.next t) ↔
    t.pending = s.pending ∧ t.mem = s.mem ∧ t.key.fuses = s.key.fuses ∧ t.drw.serialFloor = s.drw.serialFloor := Iff.rfl

/-- Every command but those that may write memory, reset the module, blow a fuse or confirm an update. -/
def plainCommand : Instr → Bool
  | .bootSelfTestDone .. | .carcassLoadDone .. | .vsysResetThreshold | .coxLockstepMismatch | .coxWatchdogExpiry |
  .pllLoss | .serviceReset .. | .tickEdge .. | .stagedWrite .. | .takeoverCopiesLoaded .. | .replayStrokeDone .. |
  .memoryUncorrectable .. | .macTailWrite .. | .ethSend .. | .ethReceive .. | .macTxStart .. | .macTxComplete .. |
  .macCollision .. | .macLateCollision .. | .macFrameReceive .. | .macLinkDown .. | .cvuJobDone .. | .crcBlock .. |
  .fuseProgrammed | .keyRequestDone | .stageOpen .. | .xfer .. | .verify .. | .start .. | .abandon | .rollback .. |
  .lock .. | .watchComplete | .marzinUpdateOrch .. | .arbiterServe .. | .tagWrite .. | .svcacc .. | .presentToken |
  .clearToken | .enable | .halt | .tickStep | .tickStepFrozen | .release | .probeIdleTimeout | .trstNLow |
  .registerWrite .. => false
  | _ => true

/-- Each plain command, by the `_keeps` law of what it calls. -/
theorem exec_kept {c : Instr} (s : State) (h : plainCommand c = true) : Kept s (exec c s) := by
  cases c with
  | vsysArrives | resetRelease | pllLocked | powerFailWarning | nandPageDonePause | braceFlushDone |
  warningReleaseCrossing | braceEnd | braceLong | holdRequest | resumeRequest | eccCorrectedError | linkDownTimeout |
  linkDownClear | vbakLowCrossing | vbakLowRelease | fireWindowSet | fireWindowClear | fireWindowOvertemp |
  fireWindowTimeLimit | tempExcursion | tempExcursionEnd | coreWake =>
    simp only [exec, execVsysArrives, execResetRelease, execPllLocked, execPowerFailWarning, execNandPageDonePause,
      execBraceFlushDone, execWarningReleaseCrossing, execBraceEnd, execBraceLong, execHoldRequest, execResumeRequest,
      execEccCorrectedError, execLinkDownTimeout, execLinkDownClear, execVbakLowCrossing, execVbakLowRelease,
      execFireWindowSet, execFireWindowClear, execFireWindowOvertemp, execFireWindowTimeLimit, execTempExcursion,
      execTempExcursionEnd, execCoreWake]
    (repeat' split) <;> simp
  | jigConfigRead | jigScrub | jigCopyAdopt | jigLatchClr =>
    simp only [exec, execJigConfigRead, execJigScrub, execJigCopyAdopt, execJigLatchClr]
    (repeat' split) <;> simp
  | strokeReturn | budgetExhausted | writeViewWrite | send | receive | inboxCount | writeStatus | strokeInfo | groupOpen |
  groupCommit | groupAbort | edgeDigestLatch | tnLatch =>
    simp only [exec, execStrokeReturn, execBudgetExhausted, execWriteViewWrite, execSend, execReceive, execInboxCount,
      execWriteStatus, execStrokeInfo, execGroupOpen, execGroupCommit, execGroupAbort, execEdgeDigestLatch, execTnLatch]
    (repeat' split) <;> simp
  | journalRecordWrite | checkpointComplete | coreHang | coreCacheEcc | coreMachineCheck | seatSelfTest | seatSelfTestDone
  =>
    simp only [exec, execJournalRecordWrite, execCheckpointComplete, execCoreHang, execCoreCacheEcc, execCoreMachineCheck,
      execSeatSelfTest, execSeatSelfTestDone]
    (repeat' split) <;> simp
  | diCouplerChange | diFilterSettled | wireOpen | wireIntact | doOverload | doOverloadClear | doThermalShutdown |
  doThermalRetry | doRetriesReset | doOpenLoadOn | doOpenLoadOff | doOpenLoadClear | doExtDriveOff | doExtDriveReverse |
  doExtDriveClear | doDiagBlankEnd | groupTrip | groupTripRetry | groupTripRetriesReset | groupLowWarning |
  groupLowRelease | groupUnpowered | groupPoweredAgain | doChannelClear | doGroupClear | doReset | reverseBlockEnd =>
    simp only [exec, execDiCouplerChange, execDiFilterSettled, execWireOpen, execWireIntact, execDoOverload,
      execDoOverloadClear, execDoThermalShutdown, execDoThermalRetry, execDoRetriesReset, execDoOpenLoadOn,
      execDoOpenLoadOff, execDoOpenLoadClear, execDoExtDriveOff, execDoExtDriveReverse, execDoExtDriveClear,
      execDoDiagBlankEnd, execGroupTrip, execGroupTripRetry, execGroupTripRetriesReset, execGroupLowWarning,
      execGroupLowRelease, execGroupUnpowered, execGroupPoweredAgain, execDoChannelClear, execDoGroupClear, execDoReset,
      execReverseBlockEnd]
    (repeat' split) <;> simp [State.Keeps, (followPins_keeps ..)]
  | referenceCheck | aoOverload | aoOverloadClear | aoOpenLoop | aoOpenLoopClear =>
    simp only [exec, execReferenceCheck, execAoOverload, execAoOverloadClear, execAoOpenLoop, execAoOpenLoopClear]
    (repeat' split) <;> simp
  | markerAbandon | replyReceive | replyDeadline =>
    simp only [exec, execMarkerAbandon, execReplyReceive, execReplyDeadline]
    (repeat' split) <;> simp
  | canTxRequest | canTxCancel | canTxStart | canArbitrationLost | canTxEnd | canRecover | canBusOffLeft | canFrameReceive
  | canProtocolException | canRxqLock | canRxqPop | canRxqRelease | canErrRead | busIntegrationDone | canRxError =>
    simp only [exec, execCanTxRequest, execCanTxCancel, execCanTxStart, execCanArbitrationLost, execCanTxEnd,
      execCanRecover, execCanBusOffLeft, execCanFrameReceive, execCanProtocolException, execCanRxqLock, execCanRxqPop,
      execCanRxqRelease, execCanErrRead, execBusIntegrationDone, execCanRxError]
    (repeat' split) <;> simp
  | macRingRun | macRingStop | macBackoffExpiry | plcaCycleStart | plcaCycleEnd | pauseExpiry | xoffSend | xoffRepeat |
  xonSend | macLinkUp | macLinkRefused | macRenegotiate | plcaConflictTimeout =>
    simp only [exec, execMacRingRun, execMacRingStop, execMacBackoffExpiry, execPlcaCycleStart, execPlcaCycleEnd,
      execPauseExpiry, execXoffSend, execXoffRepeat, execXonSend, execMacLinkUp, execMacLinkRefused, execMacRenegotiate,
      execPlcaConflictTimeout]
    (repeat' split) <;> simp
  | ptpMessageReceive | announceTimeout | syncTimeout | holdoverExpiry | ptpMessageSend | tsqHeadRead | tsqEntryExpiry |
  rtcSecond | rtcNow | rtcTimeLatch | rtcTrimCheck | rtcTrimStep | oscStop | backupDomainReset | backupFeedSwitch |
  backupDomainValid =>
    simp only [exec, execPtpMessageReceive, execAnnounceTimeout, execSyncTimeout, execHoldoverExpiry, execPtpMessageSend,
      execTsqHeadRead, execTsqEntryExpiry, execRtcSecond, execRtcNow, execRtcTimeLatch, execRtcTrimCheck,
      execRtcTrimStep, execOscStop, execBackupDomainReset, execBackupFeedSwitch, execBackupDomainValid]
    (repeat' split) <;> simp
  | eventOccurrence | batchMoveDone | eventBufferEmpty | headClose | tokenGain | opTimeSave | eventWindowLatch |
  eventCursorWrite | evrClear | eventClear | eventRead | eventSeek | eventNext =>
    simp only [exec, execEventOccurrence, execBatchMoveDone, execEventBufferEmpty, execHeadClose, execTokenGain,
      execOpTimeSave, execEventWindowLatch, execEventCursorWrite, execEvrClear, execEventClear, execEventRead,
      execEventSeek, execEventNext]
    (repeat' split) <;> simp
  | cvuCfgWrite | cvuFeedStart | cvuData8 | cvuData16 | cvuData32 | cvuResultRead | cvuComputeJob | cvuAppendJob |
  cvuStripJob =>
    simp only [exec, execCvuCfgWrite, execCvuFeedStart, execCvuData8, execCvuData16, execCvuData32, execCvuResultRead,
      execCvuComputeJob, execCvuAppendJob, execCvuStripJob]
    simp
  | attestCommand | lcAdvance | enrol | invalidateBranch | tamperClear | rootRestore | keyBranch | keyDerive | keyDigest |
  keySign | keyPublic | keyInvalidate | random | attest | keyRemask | rngHealthFail | rngSelfTest | keyRngRead |
  tamperSample =>
    simp only [exec, execAttestCommand, execLcAdvance, execEnrol, execInvalidateBranch, execTamperClear, execRootRestore,
      execKeyBranch, execKeyDerive, execKeyDigest, execKeySign, execKeyPublic, execKeyInvalidate, execRandom,
      execAttest, execKeyRemask, execRngHealthFail, execRngSelfTest, execKeyRngRead, execTamperSample]
    (repeat' split) <;> simp
  | xferDone | xferData | verifyDone | shadowCoverageTimeout | switchDeferTimeout =>
    simp only [exec, execXferDone, execXferData, execVerifyDone, execShadowCoverageTimeout, execSwitchDeferTimeout]
    simp
  | marzinEventFwd | marzinNotice | marzinResend | alignHeartbeat | parentLost | childLost | rejoin | sourceExpiry =>
    simp only [exec, execMarzinEventFwd, execMarzinNotice, execMarzinResend, execAlignHeartbeat, execParentLost,
      execChildLost, execRejoin, execSourceExpiry]
    (repeat' split) <;> simp [State.Keeps, (foldl_keeps ..)]
  | tapExtest | tapIdcode | tapSamplePreload | tapBypass | dbgTokenWrite | stepEnd | dbgTagWrite | coreHalt | coreRun |
  coreStep | breakpointHit | watchpointHit | forceEntryWrite =>
    simp only [exec, execTapExtest, execTapIdcode, execTapSamplePreload, execTapBypass, execDbgTokenWrite, execStepEnd,
      execDbgTagWrite, execCoreHalt, execCoreRun, execCoreStep, execBreakpointHit, execWatchpointHit,
      execForceEntryWrite]
    (repeat' split) <;> simp
  | accessRefused | accessOutOfRange =>
    simp only [exec, execAccessRefused, execAccessOutOfRange]
    (repeat' split) <;> simp
  | canSend =>
    exact service_keeps _ _ _ _ _ s (fun s => by split <;> simp [State.Keeps])
  | canReceive =>
    exact service_keeps _ _ _ _ _ s (fun s => by dsimp only; split <;> simp [State.Keeps])
  | rtcSetNextEdge =>
    exact rtcKey_keeps _ _ s (fun s => by simp [State.Keeps])
  | rtcSetImmediate =>
    simp only [exec, execRtcSetImmediate]
    (repeat' split) <;> simp [State.Keeps, (rtcKey_keeps ..)]
  | rtcSetCancel =>
    exact rtcKey_keeps _ _ s (fun s => by simp [State.Keeps])
  | rtcSet =>
    exact service_keeps _ _ _ _ _ s (fun s => by simp [State.Keeps])
  | dirRead =>
    exact service_keeps _ _ _ _ _ s (fun s => by dsimp only; (repeat' split) <;> simp [State.Keeps])
  | marzinAlign =>
    exact receive_keeps _ _ _ _ s (fun s => by simp [State.Keeps])
  | marzinDirectory =>
    exact bothWays_keeps _ _ _ s (fun s => by simp [State.Keeps])
  | marzinAttest =>
    exact bothWays_keeps _ _ _ s (fun s => by split <;> simp [State.Keeps])
  | marzinAck =>
    exact receive_keeps _ _ _ _ s (fun s => by simp [State.Keeps])
  | marzinCause =>
    simp only [exec, execMarzinCause]
    split
    · simp
    · exact receive_keeps _ _ _ _ s (fun s => by split <;> simp [State.Keeps, (foldl_keeps ..)])
  | settlementDone =>
    simp only [exec, execSettlementDone]
    split
    · simp [State.Keeps, (sameCycle_keeps ..)]
    · simp
  | bootSelfTestDone | carcassLoadDone | vsysResetThreshold | coxLockstepMismatch | coxWatchdogExpiry | pllLoss |
  serviceReset | tickEdge | stagedWrite | takeoverCopiesLoaded | replayStrokeDone | memoryUncorrectable | macTailWrite |
  ethSend | ethReceive | macTxStart | macTxComplete | macCollision | macLateCollision | macFrameReceive | macLinkDown |
  cvuJobDone | crcBlock | fuseProgrammed | keyRequestDone | stageOpen | xfer | verify | start | abandon | rollback |
  lock | watchComplete | marzinUpdateOrch | arbiterServe | tagWrite | svcacc | presentToken | clearToken | enable | halt
  | tickStep | tickStepFrozen | release | probeIdleTimeout | trstNLow | registerWrite =>
    cases h

/-! ### The commands that may write memory, reset the module, blow a fuse or confirm an update -/

theorem service_ok (c item target addr : Nat) {f : State → State} {s : State} (hf : ∀ s, s.mem.Ok → (f s).mem.Ok)
    (hm : s.mem.Ok) : (service c item target addr f s).mem.Ok := by
  unfold service
  (repeat' split) <;> simp [hm, hf s hm]

theorem receive_ok (h : MarzinHead) (session : Bool) (cls : Nat) {handle : State → Nat × State} {s : State}
    (hf : ∀ s, s.mem.Ok → (handle s).2.mem.Ok) (hm : s.mem.Ok) : (receive h session cls handle s).mem.Ok := by
  have hhandled : (handle (noteAccepted h s)).2.mem.Ok := hf _ (by simpa using hm)
  unfold receive
  dsimp only
  (repeat' split) <;> simp [hm, hhandled]

theorem fromAbove_ok (m : Marzin) {own : State → State} {s : State} (hf : ∀ s, s.mem.Ok → (own s).mem.Ok)
    (hm : s.mem.Ok) : (fromAbove m own s).mem.Ok := by
  unfold fromAbove
  (repeat' split) <;> simp [hm, hf s hm, (foldl_mem ..)]

theorem bothWays_ok (h : MarzinHead) (body : MarzinBody) {own : State → State} {s : State}
    (hf : ∀ s, s.mem.Ok → (own s).mem.Ok) (hm : s.mem.Ok) : (bothWays h body own s).mem.Ok := by
  unfold bothWays
  split
  · simpa using hm
  · refine receive_ok _ _ _ (fun s hs => ?_) hm
    split
    · exact fromAbove_ok _ hf hs
    · simpa using hs

/-- The command leaves a memory in its canonical form, where it answers a next state. -/
def LeavesOk : Host.Outcome State Fault Refusal → Prop
  | .next t => t.mem.Ok
  | _ => True

@[simp] theorem leavesOk_next {t : State} : LeavesOk (.next t) ↔ t.mem.Ok := Iff.rfl

theorem Kept.leavesOk {s : State} {o : Host.Outcome State Fault Refusal} (h : Kept s o) (hm : s.mem.Ok) : LeavesOk o := by
  cases o with
  | next t => rw [leavesOk_next, h.2.1]; exact hm
  | fault | refused => trivial

/-- Each command by the law of what it writes; one that writes nothing by its `_keeps` law. -/
theorem exec_leavesOk (c : Instr) {s : State} (hm : s.mem.Ok) : LeavesOk (exec c s) := by
  by_cases hplain : plainCommand c = true
  · exact (exec_kept s hplain).leavesOk hm
  cases c with
  | bootSelfTestDone =>
    have hdram : Memory.Ok (s.mem.filter fun p => decide (p.1 < 0x80000000)) := Memory.ok_filter _ hm
    simp only [exec, execBootSelfTestDone]
    (repeat' split) <;> simp [hm, hdram]
  | carcassLoadDone =>
    simp only [exec, execCarcassLoadDone]
    (repeat' split)
    · exact hm
    · exact hm
    · exact sameCycle_ok (fun s hs => loadTables_ok _ _ _ _ s hs) (by simpa using hm)
    · simpa using hm
  | vsysResetThreshold | coxLockstepMismatch | coxWatchdogExpiry | pllLoss | serviceReset | fuseProgrammed =>
    simp only [exec, execVsysResetThreshold, execCoxLockstepMismatch, execCoxWatchdogExpiry, execPllLoss,
      execServiceReset, execFuseProgrammed]
    (repeat' split) <;> simp [hm]
  | tickEdge =>
    simp only [exec, execTickEdge]
    (repeat' split) <;> simp [hm, (edgeRun_ok ..)]
  | takeoverCopiesLoaded => exact foldl_ok (fun s t hs => copiesLoaded_ok t _ s hs) _ hm
  | replayStrokeDone =>
    simp only [exec, execReplayStrokeDone]
    split
    · exact sameCycle_ok (fun s hs => replayDone_ok _ _ _ _ _ _ s hs) hm
    · exact hm
  | memoryUncorrectable => exact hitEffect_ok _ _ (by simpa using hm)
  | ethSend =>
    refine service_ok _ _ _ _ (fun s hs => ?_) hm
    split
    · exact hs
    · dsimp only
      (repeat' split) <;> simp [hs, (ringTail_ok ..), (putBytes_ok ..)]
  | ethReceive =>
    refine service_ok _ _ _ _ (fun s hs => ?_) hm
    dsimp only
    (repeat' split) <;> simp [hs, (putBytes_ok ..)]
  | macTailWrite | macTxStart | macTxComplete | macCollision | macLateCollision | macFrameReceive | macLinkDown =>
    simp only [exec, execMacTailWrite, execMacTxStart, execMacTxComplete, execMacCollision, execMacLateCollision,
      execMacFrameReceive, execMacLinkDown]
    (repeat' split) <;> simp [hm, (ringTail_ok ..), (startFrame_ok ..), (ringSent_ok ..), (txFail_ok ..),
      (receiveFrame_ok ..), (flushLink_ok ..), (dropLine_ok ..)]
  | cvuJobDone => exact finishJob_ok _ _ hm
  | crcBlock =>
    refine service_ok _ _ _ _ (fun s hs => ?_) hm
    dsimp only
    (repeat' split) <;> simp [hs, (finishJob_ok ..)]
  | keyRequestDone => exact finishRequest_ok _ hm
  | stageOpen | xfer | verify | start | abandon | rollback | lock | watchComplete =>
    simp only [exec, execStageOpen, execXfer, execVerify, execStart, execAbandon, execRollback, execLock,
      execWatchComplete]
    (repeat' split) <;> simp [hm]
  | marzinUpdateOrch => exact bothWays_ok _ _ (fun s hs => orchestrate_ok _ s hs) hm
  | arbiterServe =>
    simp only [exec, execArbiterServe]
    (repeat' split) <;> simp [hm, fromAbove_ok _ (fun s hs => ownEffect_ok _ s hs)]
  | tagWrite =>
    refine service_ok _ _ _ _ (fun s hs => ?_) hm
    (repeat' split) <;> simp [hs, (putBytes_ok ..)]
  | presentToken | clearToken | enable | halt | tickStep | tickStepFrozen | release | probeIdleTimeout | trstNLow =>
    simp only [exec, execPresentToken, execClearToken, execEnable, execHalt, execTickStep, execTickStepFrozen,
      execRelease, execProbeIdleTimeout, execTrstNLow]
    (repeat' split) <;> simp [hm]
  | svcacc =>
    simp only [exec, execSvcacc]
    (repeat' split) <;> simp [hm, svcEnd, (writeAt_ok ..)]
  | stagedWrite | registerWrite =>
    simp only [exec, execStagedWrite, execRegisterWrite]
    (repeat' split) <;> simp [hm, (registerWrite_ok ..)]
  | _ => exact absurd rfl hplain

/-- Settles O58: every command leaves a memory in its form, and a step is a command or none. -/
theorem stepKeepsMemory : Obligations.StepKeepsMemory := by
  unfold Obligations.StepKeepsMemory
  intro s t hs h
  unfold step at h
  split at h
  · cases h
    exact hs
  · next c r _ =>
    have hok : LeavesOk (exec c { s with pending := r }) := exec_leavesOk c hs
    rwa [h] at hok

end Sys2Proof.Machine
end

section
/-! PROOFS. The failure of a crew core and the self-test of a seat (R39, R190, R191, R193, R200). -/
namespace Sys2Proof.Machine

/-! ### One cycle of occurrences -/

/-- A reading that no occurrence and no field of the recorder changes is after a cycle what the cycle's function made of it. -/
theorem sameCycle_reads {β : Type} (g : State → β) (hraise : ∀ o s, g (raise o s) = g s)
    (hevr : ∀ (s : State) e, g { s with evr := e } = g s) (f : State → State) (s : State) :
    ∃ e, g (sameCycle f s) = g (f { s with evr := e }) := by
  unfold sameCycle
  split
  · exact ⟨s.evr, rfl⟩
  · refine ⟨{ s.evr with cycle := some [] }, ?_⟩
    dsimp only
    split
    · rfl
    · rw [foldl_keep g _ (fun s x => hraise _ s), hevr]

/-! ### What the parts of a failure leave of the failed mask and the commit unit -/

/-- The commit unit but for the count of stored versions. -/
def Dvt.stored (d : Dvt) : Dvt := { d with vstore := 0, vstorePeak := 0 }

/-- A state keeps the failed mask, and the commit unit but for the count of stored versions, of another. -/
abbrev State.KeepsFailed (t s : State) : Prop := t.wke.failed = s.wke.failed ∧ t.dvt.stored = s.dvt.stored

theorem eq_of_stored {d e : Dvt} (h : d.stored = e.stored) :
    d = { e with vstore := d.vstore, vstorePeak := d.vstorePeak } :=
  congrArg (fun x : Dvt => { x with vstore := d.vstore, vstorePeak := d.vstorePeak }) h

theorem foldl_keepsFailed {α : Type} (f : State → α → State) (h : ∀ s x, (f s x).KeepsFailed s) (l : List α) (s : State) :
    (l.foldl f s).KeepsFailed s :=
  ⟨foldl_keep (fun s => s.wke.failed) f (fun s x => (h s x).1) l s, foldl_keep (fun s => s.dvt.stored) f (fun s x => (h s x).2) l s⟩

@[simp] theorem noteVstore_stored (s : State) : (noteVstore s).dvt.stored = s.dvt.stored := rfl

@[simp] theorem endShadow_keepsFailed (s : State) : (endShadow s).KeepsFailed s := by
  unfold endShadow
  simp [State.KeepsFailed, (foldl_keepsFailed ..)]

@[simp] theorem abandonUpdate_keepsFailed (r : Nat) (s : State) : (abandonUpdate r s).KeepsFailed s := by
  unfold abandonUpdate
  split <;> simp [State.KeepsFailed]

@[simp] theorem takeSeat_keepsFailed (c : Nat) (u : SeatUse) (s : State) : (takeSeat c u s).KeepsFailed s := by
  unfold takeSeat
  split <;> simp [State.KeepsFailed]

@[simp] theorem freeSeat_keepsFailed (c : Nat) (s : State) : (freeSeat c s).KeepsFailed s := by
  simp [freeSeat, State.KeepsFailed]

@[simp] theorem startTakeover_keepsFailed (c x : Nat) (l : List Nat) (b r : Bool) (s : State) :
    (startTakeover c x l b r s).KeepsFailed s := by
  unfold startTakeover
  split <;> simp [State.KeepsFailed]

@[simp] theorem unsettle_keepsFailed (r n e : Nat) (s : State) : (unsettle r n e s).KeepsFailed s := by
  simp [unsettle, patchJournal, State.KeepsFailed]

@[simp] theorem moveSettle_keepsFailed (c : Nat) (s : State) (x : Settle) : (moveSettle c s x).KeepsFailed s := by
  unfold moveSettle
  split <;> simp [State.KeepsFailed]

@[simp] theorem passSeat_keepsFailed (x y : Nat) (s : State) : (passSeat x y s).KeepsFailed s := by
  simp [passSeat, State.KeepsFailed]

@[simp] theorem noteReseat_keepsFailed (c : Nat) (x : Option Nat) (s : State) : (noteReseat c x s).KeepsFailed s := by
  unfold noteReseat
  dsimp only
  split <;> simp [State.KeepsFailed]

@[simp] theorem giveUpSeat_keepsFailed (c x : Nat) (s : State) : (giveUpSeat c x s).KeepsFailed s := by
  simp [giveUpSeat, State.KeepsFailed, (foldl_keepsFailed ..)]

@[simp] theorem reseat_keepsFailed (c : Nat) (s : State) : (reseat c s).KeepsFailed s := by
  unfold reseat
  refine foldl_keepsFailed _ (fun s p => ?_) _ s
  (repeat' split) <;> simp [State.KeepsFailed]

@[simp] theorem moveTasks_keepsFailed (c k x : Nat) (l : List Nat) (o : Option Takeover) (s : State) :
    (moveTasks c k x l o s).KeepsFailed s := by
  simp [moveTasks, State.KeepsFailed, (foldl_keepsFailed ..)]

@[simp] theorem strandTasks_keepsFailed (l m : List Nat) (s : State) : (strandTasks l m s).KeepsFailed s := by
  simp [strandTasks, State.KeepsFailed, (foldl_keepsFailed ..)]

@[simp] theorem captureFault_failed (k c x n : Nat) (b : Bool) (w : Wke) : (captureFault k c x b n w).failed = w.failed := by
  unfold captureFault
  split <;> rfl

@[simp] theorem failWorker_keepsFailed (c k : Nat) (w : Option Nat) (o : Option Takeover) (s : State) :
    (failWorker c k w o s).KeepsFailed s := by
  unfold failWorker
  dsimp only
  (repeat' split) <;> simp [State.KeepsFailed, (foldl_keepsFailed ..)]

/-- A seat's failure as a free core leaves the seats too. -/
@[simp] theorem failSeat_keepsFailed (c k : Nat) (s : State) :
    (failSeat c k s).KeepsFailed s ∧ (failSeat c k s).wke.seats = s.wke.seats := by
  have hseats (n : Bool) : (captureFault k c 0 n 0 s.wke).seats = s.wke.seats := by
    unfold captureFault
    split <;> rfl
  unfold failSeat
  dsimp only
  split <;> simp [State.KeepsFailed, hseats]

/-! ### The failure of a core -/

/-- A core that is in service sets its own bit as it fails (R190, R191). -/
theorem failNow_failed {want : Option Nat} {c kind : Nat} {s : State} (h : coreOut s c = false) :
    (failNow want c kind s).wke.failed = bset s.wke.failed c := by
  unfold failNow
  rw [if_neg (by simp [h])]
  dsimp only
  (repeat' split) <;> simp [State.KeepsFailed, (foldl_keepsFailed ..)]

theorem failNow_stored (want : Option Nat) (c kind : Nat) (s : State) : (failNow want c kind s).dvt.stored = s.dvt.stored := by
  unfold failNow
  dsimp only
  (repeat' split) <;> simp [State.KeepsFailed, (foldl_keepsFailed ..)]

/-- What the failure of a core in service does to the failed mask, and what it leaves. -/
theorem failCore_effect {c kind : Nat} {s : State} (h : coreOut s c = false) :
    let t := failCore c kind s
    t.wke.failed = bset s.wke.failed c ∧ t.dvt = { s.dvt with vstore := t.dvt.vstore, vstorePeak := t.dvt.vstorePeak } ∧
    t.dio = s.dio ∧ t.mem = s.mem := by
  obtain ⟨e, hfailed⟩ := sameCycle_reads (fun s => s.wke.failed) (by simp) (fun _ _ => rfl) (failNow none c kind) s
  obtain ⟨e', hstored⟩ := sameCycle_reads (fun s => s.dvt.stored) (by simp) (fun _ _ => rfl) (failNow none c kind) s
  refine ⟨hfailed.trans (failNow_failed h), eq_of_stored (hstored.trans (failNow_stored none c kind _)), ?_, ?_⟩ <;> simp

/-- A seat that fails its self-test is no seat any more (R200). -/
theorem failCore_selfTest_seat {c : Nat} {s : State} (hout : coreOut s c = false)
    (hseat : tget s.wke.seats c = some .selfTest) : tget (failCore c 7 s).wke.seats c = none := by
  obtain ⟨e, hseats⟩ := sameCycle_reads (fun s => s.wke.seats) (by simp) (fun _ _ => rfl) (failNow none c 7) s
  have hnow : (failNow none c 7 { s with evr := e }).wke.seats = tdel s.wke.seats c := by
    have hin : coreOut { s with evr := e } c = false := hout
    unfold failNow
    simp [hin, hseat, seatFree]
  rw [show (failCore c 7 s).wke.seats = _ from hseats.trans hnow, tget_tdel_same]

/-- Settles O13: a failure by `failCore_effect`, the self-test of a seat by its two outcomes. -/
theorem coreFailuresAndSelfTests : Obligations.CoreFailuresAndSelfTests := by
  unfold Obligations.CoreFailuresAndSelfTests
  refine ⟨fun core s hdrive hheld hout => ⟨_, if_pos (by simp [hdrive, hheld]), failCore_effect hout⟩,
    fun core s hout => ⟨_, rfl, failCore_effect hout⟩, fun core s hout => ⟨_, rfl, failCore_effect hout⟩,
    fun seat s hfree hnone => if_pos (by rw [hnone, decide_eq_true hfree]; rfl), fun seat s htest => if_pos htest,
    fun seat s htest hout => ?_⟩
  obtain ⟨hfailed, hdvt, -, hmem⟩ := failCore_effect (kind := 7) hout
  exact ⟨_, if_pos htest, hfailed, failCore_selfTest_seat hout htest, hdvt, hmem⟩

end Sys2Proof.Machine
end

section
/-! PROOFS. Check-value units (R447 to R458). -/
namespace Sys2Proof.Machine

/-- A system unit with an APPEND job of four bytes whose destination is checkpoint bank A, which is intact. -/
def appendOverBank : State := {
  enabled := [.cvu 0]
  cvu := [{ mode := 2, busy := true, src := 0x80000000, dst := 0x44000000, len := 4 }] }

/-- The check that the job writes is not what the header of the bank holds there: the bank is intact no more. -/
theorem finishJob_appendOverBank : (finishJob 0 appendOverBank).wke.bankA.intact = false := by decide +kernel

/-- Refutes O39: a finished APPEND job does not leave all but its unit, memory and the records of it, as the clause on APPEND
says. A system unit may write over a checkpoint bank, and the bank is then no longer what its CRCs say: in `appendOverBank` the
job changes the WKE block. -/
theorem not_checkValueUnits : ¬ Obligations.CheckValueUnits := by
  unfold Obligations.CheckValueUnits
  intro h
  obtain ⟨-, -, -, -, -, happend, -⟩ := h
  obtain ⟨t, hexec, -, hframe⟩ := happend 0 _ appendOverBank (by decide) rfl rfl rfl (by decide) (by decide)
  have ht : finishJob 0 appendOverBank = t := Host.Outcome.next.inj hexec
  have hkept : t.wke.bankA.intact = true := congrArg (fun s : State => s.wke.bankA.intact) hframe
  rw [← ht, finishJob_appendOverBank] at hkept
  exact Bool.false_ne_true hkept

end Sys2Proof.Machine
end

section
/-! PROOFS. The update commands: the owner's lock and a grant of 3 (R94, R494, R512, R514). -/
namespace Sys2Proof.Machine

/-- Core 0 drives a stroke of drawer 0, whose record holds 3 in each grant, a value with no meaning (R94); the update block
is off. -/
def lockGrantThree : State := {
  drw := { image := [{
    type := 2, flags := 0, count := 1, recSize := 32
    body := List.replicate 16 0 ++ List.replicate 12 0xFF ++ List.replicate 4 0 }] }
  cores := [{ driving := some 0 }]
  stk := { tasks := [{ stroke := some {
    catchTn := 0, catchEdge := 0, relEdge := 1, snap := [], copies := [{ core := 0, phase := .drive }] } }] } }

theorem lockGrantThree_grant : grant lockGrantThree.drw.image (taskDrawer lockGrantThree 0) 31 = 3 := by decide

theorem lockGrantThree_mayUpdate : mayUpdate 2 lockGrantThree (some 0) = true := by decide

/-- The lock command takes the expert grant and no other value. -/
theorem exec_lock_of_grant_ne_two {core : Fin 16} {s : State} {n : Nat} {k : Stroke} {x : Copy}
    (hdrives : drivenBy s core.val = some (n, k, x)) (hgrant : grant s.drw.image (taskDrawer s n) 31 ≠ 2) :
    ∃ t, exec (.lock (some core)) s = .next t ∧ t.answer = .refused := by
  change ∃ t, execLock (some core) s = .next t ∧ t.answer = .refused
  simp [execLock, hdrives, hgrant]

/-- Refutes O45: a lock command of a task with a grant of at least 2 does not change nothing while the block is off, as the
clause on the lock says. A grant field holds 3 as well, and a task with 3 has no expert grant: in `lockGrantThree` the command
is refused. -/
theorem not_updateCommands : ¬ Obligations.UpdateCommands := by
  unfold Obligations.UpdateCommands
  intro h
  obtain ⟨-, -, -, -, -, -, -, -, -, -, -, hoff, -⟩ := h
  obtain ⟨t, hexec, hanswer⟩ := exec_lock_of_grant_ne_two (core := 0) (s := lockGrantThree) rfl (by rw [lockGrantThree_grant]; decide)
  have hsame : lockGrantThree = t :=
    Host.Outcome.next.inj ((hoff (some 0) _ lockGrantThree_mayUpdate rfl).symm.trans hexec)
  rw [← hsame] at hanswer
  exact absurd hanswer (by decide)

end Sys2Proof.Machine
end

section
/-! PROOFS. Limits of a shadow and the confirmation of an update (R39, R103, R502, R503, R508). -/
namespace Sys2Proof.Machine

/-! ### An update abandoned (R502, R503, R511) -/

theorem endShadow_upd (s : State) : (endShadow s).upd = { s.upd with seats := [], states := [], startDue := false } := by
  simp [endShadow, foldl_OnlyCores _ (fun (s : State) c => gateIdle_frame c s)]

theorem endShadow_seats (s : State) :
    (endShadow s).wke.seats = s.wke.seats.map (fun p => if p.2 = .shadow then (p.1, .free) else p) := by
  simp [endShadow, foldl_OnlyCores _ (fun (s : State) c => gateIdle_frame c s)]

/-- `t` is `s` with its update abandoned: the set stays VERIFIED, the seats of the shadow are free. -/
def Abandoned (s t : State) : Prop :=
  t.upd.phase = .verified ∧ t.upd.startDue = false ∧ t.upd.seats = [] ∧
  t.upd.slotA = s.upd.slotA ∧ t.upd.slotB = s.upd.slotB ∧
  (∀ p ∈ s.wke.seats, p.2 = .shadow → (p.1, .free) ∈ t.wke.seats) ∧ (∀ p ∈ t.wke.seats, p.2 ≠ .shadow) ∧
  t = { s with upd := t.upd, dvt := t.dvt, cores := t.cores, stk := t.stk, wke := t.wke, evr := t.evr, hie := t.hie, fresh := t.fresh }

theorem abandonUpdate_abandoned (reason : Nat) {s : State} (h : shadowing s.upd = true) :
    Abandoned s (abandonUpdate reason s) := by
  have hupd : (abandonUpdate reason s).upd = { (endShadow s).upd with phase := .verified } := by simp [abandonUpdate, h]
  have hseats : (abandonUpdate reason s).wke.seats = (endShadow s).wke.seats := by simp [abandonUpdate, h]
  rw [endShadow_upd] at hupd
  rw [endShadow_seats] at hseats
  refine ⟨by rw [hupd], by rw [hupd], by rw [hupd], by rw [hupd], by rw [hupd], fun p hp hshadow => ?_, fun p hp => ?_,
    State.eq_of_fields (by simp [State.OnlyFreshEvrHie]) rfl rfl rfl⟩
  · rw [hseats]
    exact List.mem_map.mpr ⟨p, hp, if_pos hshadow⟩
  · rw [hseats] at hp
    obtain ⟨q, -, rfl⟩ := List.mem_map.mp hp
    split
    · exact SeatUse.noConfusion
    · assumption

/-- A shadow that fails is abandoned. -/
theorem failShadow_abandoned (reason slot : Nat) {s : State} (h : shadowing s.upd = true) :
    Abandoned s (failShadow reason slot s) := by
  obtain ⟨hphase, hdue, hseats, hA, hB, hfreed, hnone, -⟩ :=
    abandonUpdate_abandoned 5 (s := updEvent 0xE005 (slot * 2 ^ 24 + reason) s) (by simpa using h)
  rw [failShadow, if_pos h]
  exact ⟨hphase, hdue, hseats, by simpa using hA, by simpa using hB, by simpa using hfreed, hnone,
    State.eq_of_fields (by simp [State.OnlyFreshEvrHie]) rfl rfl rfl⟩

/-! ### The limits -/

/-- A task that has not shadowed by the edge of its limit fails the shadow (R502). -/
theorem coverageFail_due {n : Nat} {s : State} (hphase : s.upd.phase = .shadow) (hlacks : lacking s.upd = some n)
    (hdue : coverageEdge s ≤ s.stk.edges) : coverageFail s = failShadow 4 n s := by
  simp [coverageFail, hphase, hlacks, hdue]

theorem coverageFail_none {s : State} (h : lacking s.upd = none) : coverageFail s = s := by simp [coverageFail, h]

/-- A switch edge that has not come 600 s after the pass abandons the update (R503). -/
theorem deferFail_due {s : State} (hphase : s.upd.phase = .deferred) (hdue : s.upd.passAt + 614400 ≤ s.evr.opTime) :
    deferFail s = abandonUpdate 4 s := by
  simp [deferFail, hphase, hdue]

theorem deferFail_early {s : State} (h : s.evr.opTime < s.upd.passAt + 614400) : deferFail s = s := by
  rw [deferFail, if_neg (by simp [h])]

/-- A watch that has run out confirms the update (R103, R508). -/
theorem watchDone_confirms {s : State} (hphase : s.upd.phase = .watch ∨ s.upd.phase = .switching) (hwatch : s.upd.watch = 0)
    (hback : s.upd.back = none) :
    watchDone s = raise { code := 0xE009, block := 0x11, detail := s.drw.serial }
      { s with upd := { s.upd with phase := .idle, unconfirmed := false }, drw := { s.drw with serialFloor := s.drw.serial } } := by
  rw [watchDone, if_pos (by simp [hphase, hwatch, hback])]
  rfl

theorem watchDone_running {s : State} (h : s.upd.watch ≠ 0) : watchDone s = s := by simp [watchDone, h]

/-- Settles O46: each command by its limit. -/
theorem shadowLimitsAndWatch : Obligations.ShadowLimitsAndWatch := by
  unfold Obligations.ShadowLimitsAndWatch
  refine ⟨fun n s hphase hlacks hdue => ⟨_, congrArg Host.Outcome.next (coverageFail_due hphase hlacks hdue), ?_⟩,
    fun s h => congrArg Host.Outcome.next (coverageFail_none h),
    fun s hphase hdue => ⟨_, congrArg Host.Outcome.next (deferFail_due hphase hdue), ?_⟩,
    fun s _ h => congrArg Host.Outcome.next (deferFail_early h),
    fun s hphase hwatch hback => congrArg Host.Outcome.next (watchDone_confirms hphase hwatch hback),
    fun s h => congrArg Host.Outcome.next (watchDone_running h)⟩
  · obtain ⟨hverified, -, hseats, hA, hB, -, hnone, hframe⟩ := failShadow_abandoned (s := s) 4 n (by simp [shadowing, hphase])
    exact ⟨hverified, hseats, hA, hB, hnone, hframe⟩
  · obtain ⟨hverified, -, -, hA, hB, -, -, hframe⟩ := abandonUpdate_abandoned (s := s) 4 (by simp [shadowing, hphase])
    exact ⟨hverified, hA, hB, hframe⟩

end Sys2Proof.Machine
end

section
/-! PROOFS. Staging of a set: STAGE_OPEN, transfers and data words (R43, R59, R493, R494, R496, R513). -/
namespace Sys2Proof.Machine

/-! ### Lengths -/

theorem leBytes_length (k n : Nat) : (leBytes k n).length = k := by
  induction k generalizing n with
  | zero => rfl
  | succ k ih => rw [leBytes, List.length_cons, ih]

theorem memBytes_length (s : State) (a len : Nat) : (memBytes s a len).length = len := by
  unfold memBytes
  split <;> simp [Memory.readN]

/-! ### A part, and bytes laid over it -/

@[simp] theorem partOf_setPart (p : Nat) (l : List Byte) (x : SlotSet) : partOf p (setPart p l x) = l := by
  unfold setPart partOf
  (repeat' split) <;> rfl

/-- The bytes laid over a part stand at their offset. -/
theorem sub_overlay (l : List Byte) (o : Nat) {bs : List Byte} {n : Nat} (h : bs.length = n) :
    sub (overlay l o bs) o n = bs := by
  have hbefore : (l.take o ++ List.replicate (o - l.length) 0).length = o := by
    simp only [List.length_append, List.length_take, List.length_replicate]
    omega
  rw [sub, overlay, List.append_assoc, List.drop_left' hbefore, List.take_left' h]

/-- Bytes laid over a part leave every byte before and after them; beyond the end of the part 0x00 stands. -/
theorem getD_overlay_other (l : List Byte) {o k : Nat} {bs : List Byte} (h : k < o ∨ o + bs.length ≤ k) :
    (overlay l o bs).getD k 0 = l.getD k 0 := by
  have hbefore : (l.take o ++ List.replicate (o - l.length) 0).length = o := by
    simp only [List.length_append, List.length_take, List.length_replicate]
    omega
  rw [overlay, List.append_assoc]
  rcases h with h | h
  · rw [List.getD_append _ _ _ _ (by omega)]
    by_cases hk : k < l.length
    · rw [List.getD_append _ _ _ _ (by rw [List.length_take]; omega)]
      simp [List.getD, h]
    · rw [List.getD_append_right _ _ _ _ (by rw [List.length_take]; omega), List.getD_eq_default l _ (by omega),
        List.length_take, List.getD_replicate _ (by omega)]
  · rw [List.getD_append_right _ _ _ _ (by omega), hbefore, List.getD_append_right _ _ _ _ (by omega)]
    simp [List.getD]
    congr 2
    omega

/-! ### Slots -/

/-- A change of the staged slot leaves the active one. -/
@[simp] theorem activeSlot_modSlot_staged (u : Upd) (f : SlotSet → SlotSet) : activeSlot (modSlot (!u.activeB) f u) = activeSlot u := by
  unfold activeSlot modSlot
  cases u.activeB <;> rfl

theorem partOf_stagedSlot_slotWrite (p o : Nat) (bs : List Byte) (s : State) :
    partOf p (stagedSlot { s with upd := slotWrite p o bs s.upd }) = overlay (partOf p (stagedSlot s)) o bs := by
  unfold stagedSlot slotWrite modSlot slotOf
  cases s.upd.activeB <;> exact partOf_setPart ..

/-- The two slots and which of them is active. -/
def Upd.slots (u : Upd) : SlotSet × SlotSet × Bool := (u.slotA, u.slotB, u.activeB)

@[simp] theorem abandonUpdate_slots (reason : Nat) (s : State) : (abandonUpdate reason s).upd.slots = s.upd.slots := by
  unfold abandonUpdate
  split <;> simp [endShadow_upd, Upd.slots]

@[simp] theorem failShadow_slots (reason slot : Nat) (s : State) : (failShadow reason slot s).upd.slots = s.upd.slots := by
  unfold failShadow
  split <;> simp

@[simp] theorem trigger_slots (t n : Nat) (s : State) : (trigger t n s).upd.slots = s.upd.slots := by
  unfold trigger
  split <;> rfl

@[simp] theorem mapState_slots (n : Nat) (s : State) : (mapState n s).upd.slots = s.upd.slots := by
  unfold mapState
  split
  · rfl
  · exact foldl_keep (fun s => s.upd.slots) _ (by simp) _ _

@[simp] theorem dispatchCore_slots (s : State) (c : Nat) : (dispatchCore s c).upd.slots = s.upd.slots := by
  unfold dispatchCore
  (repeat' split) <;> simp [startDrive]

@[simp] theorem endDrive_slots (c : Nat) (s : State) : (endDrive c s).upd.slots = s.upd.slots := by
  simp [endDrive]

@[simp] theorem stopDrive_slots (n c : Nat) (k : SkipKind) (s : State) : (stopDrive n c k s).upd.slots = s.upd.slots := by
  unfold stopDrive
  split <;> simp

@[simp] theorem coreRefused_slots (c kind target addr : Nat) (s : State) :
    (coreRefused c kind target addr s).upd.slots = s.upd.slots := by
  unfold coreRefused accessFault
  dsimp only
  (repeat' split) <;> simp

/-! ### Who gives a command (R494) -/

/-- A command that may be given here takes effect with the tag of its initiator. -/
theorem updService_granted {by_ : Option (Fin 16)} {s : State} (cmd : Nat) (h : mayUpdate 1 s by_ = true) :
    updService by_ cmd s = updCommand (updWord cmd) (by_.map (fun c => coreTag s c.val)) s := by
  cases by_ with
  | none => rfl
  | some c =>
    cases hdrives : drivenBy s c.val with
    | none => simp [mayUpdate, hdrives] at h
    | some p =>
      have hgrant : grant s.drw.image (taskDrawer s p.1) 31 ≠ 0 := by
        have := h
        simp [mayUpdate, hdrives] at this
        omega
      simp [updService, service, hdrives, hgrant]

/-- Without the grant a command is refused and no slot changes. -/
theorem updService_refused {by_ : Option (Fin 16)} {s : State} (cmd : Nat) (h : mayUpdate 1 s by_ = false) :
    (updService by_ cmd s).answer = .refused ∧ (updService by_ cmd s).upd.slots = s.upd.slots := by
  cases by_ with
  | none => cases h
  | some c =>
    cases hdrives : drivenBy s c.val with
    | none => simp [updService, service, hdrives]
    | some p =>
      have hgrant : grant s.drw.image (taskDrawer s p.1) 31 = 0 := by simpa [mayUpdate, hdrives] using h
      simp [updService, service, hdrives, hgrant]

theorem updWord_key {cmd : Nat} (h : cmd < 16) : fld (updWord cmd) 16 16 = 0x4A55 ∧ updWord cmd % 16 = cmd := by
  simp only [updWord, fld]
  omega

/-- A command that the phase does not allow is ignored with its record; XFER outside STAGING is marked too (R496). -/
theorem updCommand_ignored {cmd : Nat} {owner : Option Nat} {s : State} (hcmd : cmd < 16) (hxfer : cmd ≠ 2)
    (h : updAllowed s.upd cmd = false) :
    updCommand (updWord cmd) owner s = raise { code := 0x0004, block := 0x11, detail := 0x1010000C } s := by
  simp [updCommand, updWord_key hcmd, h, hxfer, raiseIgnored]

/-- STAGE_OPEN in a phase that allows it. -/
theorem updCommand_stageOpen {owner : Option Nat} {s : State} (h : updAllowed s.upd 1 = true) :
    updCommand (updWord 1) owner s = stageOpen s := by
  rw [updCommand, (updWord_key (by decide)).1, (updWord_key (by decide)).2, h]
  rfl

/-- XFER in STAGING while no transfer runs. -/
theorem updCommand_xfer {owner : Option Nat} {s : State} (h : updAllowed s.upd 2 = true) :
    updCommand (updWord 2) owner s = xferStart owner s := by
  rw [updCommand, (updWord_key (by decide)).1, (updWord_key (by decide)).2, h]
  rfl

/-- XFER outside STAGING is marked, and ignored with its record. -/
theorem updCommand_xfer_notStaging {owner : Option Nat} {s : State} (h : s.upd.phase ≠ .staging) :
    updCommand (updWord 2) owner s = raise { code := 0x0004, block := 0x11, detail := 0x1010000C }
      { s with upd := { s.upd with notStaging := true } } := by
  simp [updCommand, updWord_key, updAllowed, h, raiseIgnored, modUpd]

/-! ### The commands of staging (R496) -/

theorem stageOpen_stagedSlot (s : State) : stagedSlot (stageOpen s) = { st := .staging } := by
  unfold stagedSlot stageOpen slotOf
  simp only [modUpd_upd, modSlot]
  cases s.upd.activeB <;> rfl

/-- Bytes that pass the end of the part are not staged (R496). -/
theorem stageBytes_overrun {bs : List Byte} {s : State} (h : partLimit s.upd.part < s.upd.offset + bs.length) :
    stageBytes bs s = { s with upd := { s.upd with overrun := true } } := by
  rw [stageBytes, if_pos h]
  rfl

/-- During a brace the bytes wait (R59). -/
theorem stageBytes_brace {bs : List Byte} {s : State} (hbrace : s.sys.brace = true)
    (h : s.upd.offset + bs.length ≤ partLimit s.upd.part) :
    stageBytes bs s = { s with upd := { s.upd with
      held := s.upd.held ++ [(s.upd.part, s.upd.offset, bs)], offset := (s.upd.offset + bs.length) % 2 ^ 32,
      written := bset s.upd.written s.upd.part } } := by
  rw [stageBytes, if_neg (by omega), hbrace]
  rfl

/-- Outside a brace the bytes enter the part at the offset. -/
theorem stageBytes_written {bs : List Byte} {s : State} (hbrace : s.sys.brace = false)
    (h : s.upd.offset + bs.length ≤ partLimit s.upd.part) :
    stageBytes bs s = { s with upd := { slotWrite s.upd.part s.upd.offset bs s.upd with
      offset := (s.upd.offset + bs.length) % 2 ^ 32, written := bset s.upd.written s.upd.part } } := by
  rw [stageBytes, if_neg (by omega), hbrace]
  rfl

/-- What staging bytes outside a brace does to the update block. -/
theorem stageBytes_effect {bs : List Byte} {s : State} (hbrace : s.sys.brace = false)
    (h : s.upd.offset + bs.length ≤ partLimit s.upd.part) :
    let t := stageBytes bs s
    t.upd.busy = s.upd.busy ∧ t.upd.offset = (s.upd.offset + bs.length) % 2 ^ 32 ∧
    t.upd.written = bset s.upd.written s.upd.part ∧
    partOf s.upd.part (stagedSlot t) = overlay (partOf s.upd.part (stagedSlot s)) s.upd.offset bs ∧
    activeSlot t.upd = activeSlot s.upd ∧ t = { s with upd := t.upd } := by
  rw [stageBytes_written hbrace h]
  refine ⟨?_, rfl, rfl, ?_, activeSlot_modSlot_staged s.upd _, rfl⟩
  · unfold slotWrite modSlot
    cases s.upd.activeB <;> rfl
  · rw [← partOf_stagedSlot_slotWrite]
    unfold slotWrite modSlot stagedSlot slotOf
    cases s.upd.activeB <;> rfl

/-- A transfer that ends outside a brace, while the block is on, stages its bytes (R43, R496). -/
theorem xferDone_passed {s : State} (hon : s.enabled.contains .upd = true) (hbusy : s.upd.busy = true)
    (hbrace : s.sys.brace = false) (hpasses : dmaAccess s.upd.xferOwner false s.upd.addr s.upd.len s = (true, s)) :
    xferDone s = stageBytes (memBytes s s.upd.addr s.upd.len)
      { s with upd := { s.upd with busy := false, xferOwner := none } } := by
  have hpasses' : dmaAccess s.upd.xferOwner false s.upd.addr s.upd.len (modUpd (fun u => { u with busy := false, xferOwner := none }) s) =
      (true, modUpd (fun u => { u with busy := false, xferOwner := none }) s) := by
    unfold dmaAccess at hpasses ⊢
    split at hpasses
    · rw [if_pos (by assumption)]
    · cases congrArg Prod.fst hpasses
  rw [xferDone, if_neg (by rw [hon, hbusy, hbrace]; decide)]
  dsimp only
  rw [hpasses']
  rfl

theorem xferDone_waits {s : State} (h : s.upd.busy = false ∨ s.sys.brace = true ∨ s.enabled.contains .upd = false) :
    xferDone s = s := by
  rw [xferDone, if_pos (by rcases h with h | h | h <;> rw [h] <;> simp)]

theorem exec_xferData {v : BitVec 32} {s : State} (h : s.upd.phase = .staging) :
    exec (.xferData v) s = .next (stageBytes (leBytes 4 v.toNat) s) := by
  change execXferData v s = _
  rw [execXferData, xferData, if_pos h]

/-- Settles O44: who may give a command, then what the command does to the staged slot. -/
theorem stagingASet : Obligations.StagingASet := by
  unfold Obligations.StagingASet
  refine ⟨fun by_ s hmay hdue hphase => ?_, fun by_ s hmay hphase => ?_, fun by_ s hmay c hc => ?_,
    fun by_ s hmay hphase hbusy => ?_, fun by_ s hmay hphase => ?_, fun s hon hbusy hbrace hpasses hfits => ?_,
    fun s h => congrArg Host.Outcome.next (xferDone_waits h), fun v s hphase hbrace hfits => ?_,
    fun v s hphase hbrace hfits => ?_, fun v s hphase hpast => ?_, fun v s hphase => ?_⟩
  · have hallowed : updAllowed s.upd 1 = true := by simp [updAllowed, hdue]; tauto
    exact ⟨stageOpen s, congrArg Host.Outcome.next ((updService_granted 1 hmay).trans (updCommand_stageOpen hallowed)), rfl, rfl,
      stageOpen_stagedSlot s, rfl, rfl, rfl, activeSlot_modSlot_staged s.upd _, rfl⟩
  · have hnot : updAllowed s.upd 1 = false := by rcases hphase with h | h | h <;> simp [updAllowed, h]
    exact congrArg Host.Outcome.next ((updService_granted 1 hmay).trans (updCommand_ignored (by decide) (by decide) hnot))
  · have hrefused (cmd : Nat) : ∃ t, Host.Outcome.next (updService by_ cmd s) = (.next t : Host.Outcome State Fault Refusal) ∧
        t.answer = .refused ∧ t.upd.slotA = s.upd.slotA ∧ t.upd.slotB = s.upd.slotB ∧ t.upd.activeB = s.upd.activeB := by
      obtain ⟨hanswer, hslots⟩ := updService_refused cmd hmay
      simp only [Upd.slots, Prod.mk.injEq] at hslots
      exact ⟨_, rfl, hanswer, hslots⟩
    simp only [List.mem_cons, List.not_mem_nil, or_false] at hc
    rcases hc with rfl | rfl | rfl | rfl | rfl
    exacts [hrefused 1, hrefused 2, hrefused 3, hrefused 4, hrefused 6]
  · have hallowed : updAllowed s.upd 2 = true := by simp [updAllowed, hphase, hbusy]
    exact congrArg Host.Outcome.next ((updService_granted 2 hmay).trans (updCommand_xfer hallowed))
  · exact ⟨_, congrArg Host.Outcome.next ((updService_granted 2 hmay).trans (updCommand_xfer_notStaging hphase)), by simp,
      State.eq_of_fields (by simp [State.OnlyFreshEvrHie]) rfl rfl rfl⟩
  · have hlen := memBytes_length s s.upd.addr s.upd.len
    obtain ⟨hbusy', hoffset, -, hpart, hactive, hframe⟩ :=
      stageBytes_effect (bs := memBytes s s.upd.addr s.upd.len) (s := { s with upd := { s.upd with busy := false, xferOwner := none } })
        hbrace (by rwa [hlen])
    refine ⟨_, congrArg Host.Outcome.next (xferDone_passed hon hbusy hbrace hpasses), hbusy', by rw [hoffset, hlen], ?_, hactive,
      hframe⟩
    exact (congrArg (fun l => sub l s.upd.offset s.upd.len) hpart).trans (sub_overlay _ _ hlen)
  · exact (exec_xferData hphase).trans (congrArg Host.Outcome.next (stageBytes_brace hbrace (by rwa [leBytes_length])))
  · have hlen := leBytes_length 4 v.toNat
    obtain ⟨-, hoffset, hwritten, hpart, hactive, hframe⟩ := stageBytes_effect (bs := leBytes 4 v.toNat) hbrace (by rwa [hlen])
    refine ⟨_, exec_xferData hphase, by rw [hoffset, hlen], hwritten, ?_, fun k hk => ?_, hactive, hframe⟩
    · rw [hpart]
      exact sub_overlay _ _ hlen
    · rw [hpart]
      exact getD_overlay_other _ (by rwa [hlen])
  · exact (exec_xferData hphase).trans (congrArg Host.Outcome.next (stageBytes_overrun (by rwa [leBytes_length])))
  · change execXferData v s = _
    rw [execXferData, xferData, if_neg hphase]
    rfl

end Sys2Proof.Machine
end

section
/-! PROOFS. Refused accesses and bus errors (R34, R40, R127). -/
namespace Sys2Proof.Machine

/-! ### What an access leaves of the commit unit -/

@[simp] theorem failShadow_keepsFailed (reason slot : Nat) (s : State) : (failShadow reason slot s).KeepsFailed s := by
  unfold failShadow
  split <;> simp [State.KeepsFailed]

@[simp] theorem stopDrive_keepsFailed (n c : Nat) (k : SkipKind) (s : State) : (stopDrive n c k s).KeepsFailed s := by
  unfold stopDrive
  split <;> simp [State.KeepsFailed, endDrive]

@[simp] theorem accessFault_keepsFailed (c : Nat) (s : State) : (accessFault c s).KeepsFailed s := by
  unfold accessFault
  (repeat' split) <;> simp [State.KeepsFailed]

/-! ### The end of a drive by an access (R122, R127) -/

/-- The slot has a stroke that is ready on the core. -/
def readyOn (s : State) (c n : Nat) : Bool :=
  (task s n).stroke.elim false (fun k => !k.blocked && (copyOn k c).elim false (fun x => x.phase = .ready))

/-- The stroke that a core takes is ready there. -/
theorem bestReady_ready {s : State} {c m : Nat} (h : bestReady s c = some m) : readyOn s c m = true := by
  refine List.foldlRecOn (motive := fun acc : Option Nat => ∀ m, acc = some m → readyOn s c m = true) _ _
    (fun m h => by cases h) (fun acc hacc n hn m hm => ?_) m h
  have hready : readyOn s c n = true := (List.mem_filter.mp hn).2
  cases acc with
  | none => exact Option.some.inj hm ▸ hready
  | some best =>
    dsimp only at hm
    split at hm
    · exact Option.some.inj hm ▸ hready
    · exact hacc m hm

theorem task_modCopy_other {n m : Nat} (c : Nat) (f : Copy → Copy) (s : State) (h : n ≠ m) :
    task (modCopy m c f s) n = task s n := by
  exact getD_lmod_other _ _ _ h

/-- The stroke of a slot whose copy on a core changes. -/
theorem task_modCopy_same {n c : Nat} {f : Copy → Copy} {s : State} {k : Stroke} (h : (task s n).stroke = some k) :
    (task (modCopy n c f s) n).stroke =
      some { k with copies := k.copies.map (fun x => if x.core = c then f x else x) } := by
  have hn : n < s.stk.tasks.length := by
    by_contra hn
    rw [task, List.getD_eq_default _ _ (Nat.le_of_not_lt hn)] at h
    cases h
  rw [task] at h ⊢
  rw [modCopy, modTask_stk, getD_lmod_same _ _ _ hn, h, Option.map_some]

/-- The copy of a stroke on a core after all its copies there have changed. -/
theorem copyOn_map {k : Stroke} {c : Nat} {x : Copy} {f : Copy → Copy} (hf : ∀ x, (f x).core = x.core)
    (h : copyOn k c = some x) :
    copyOn { k with copies := k.copies.map (fun x => if x.core = c then f x else x) } c = some (f x) := by
  have hx : x.core = c := by simpa using List.find?_some h
  have hcore : ((fun x : Copy => decide (x.core = c)) ∘ fun x => if x.core = c then f x else x) = fun x => decide (x.core = c) := by
    funext x
    simp only [Function.comp]
    split
    · rw [hf]
    · rfl
  rw [copyOn] at h ⊢
  rw [List.find?_map, hcore, h, Option.map_some, if_pos hx]

theorem gateIdle_driving (c : Nat) (s : State) : ((gateIdle c s).cores.getD c {}).driving = (s.cores.getD c {}).driving := by
  unfold gateIdle
  split
  · rfl
  · simp only [modCore_cores, List.getD, getElem?_lmod_same]
    cases s.cores[c]? <;> rfl

/-- A core that drives nothing takes a stroke other than one whose copy there is done, and that copy stays as it is. -/
theorem dispatchCore_done {s : State} {n c : Nat} {k : Stroke} {y : Copy} (hidle : (s.cores.getD c {}).driving = none)
    (hstroke : (task s n).stroke = some k) (hcopy : copyOn k c = some y) (hdone : y.phase = .done) :
    task (dispatchCore s c) n = task s n ∧ ((dispatchCore s c).cores.getD c {}).driving ≠ some n := by
  unfold dispatchCore
  split
  · rw [hidle]
    split
    case h_1 _ _ m hbest _ =>
      have hne : n ≠ m := by
        rintro rfl
        have hready := bestReady_ready hbest
        simp [readyOn, hstroke, hcopy, hdone] at hready
      refine ⟨?_, ?_⟩
      · exact (task_modCopy_other c _ _ hne).trans (congrArg (fun x : Stk => x.tasks.getD n {}) (by simp))
      · simp only [startDrive, modCore_cores, List.getD, getElem?_lmod_same]
        cases (modCopy m c _ _).cores[c]? <;> simp [Ne.symm hne]
    case h_2 h => cases h
    case h_3 => exact ⟨rfl, by rw [hidle]; simp⟩
  · exact ⟨rfl, by rw [hidle]; simp⟩

/-- A core that a copy has ended on takes another stroke or none, and the copy stays as it is. -/
theorem endDrive_done {s : State} {n c : Nat} {k : Stroke} {y : Copy} (hcore : c < s.cores.length)
    (hstroke : (task s n).stroke = some k) (hcopy : copyOn k c = some y) (hdone : y.phase = .done) :
    task (endDrive c s) n = task s n ∧ ((endDrive c s).cores.getD c {}).driving ≠ some n := by
  obtain ⟨htask, hdriving⟩ := dispatchCore_done (s := modCore c (fun x => { x with driving := none }) s)
    (by rw [modCore_cores, getD_lmod_same _ _ _ hcore]) hstroke hcopy hdone
  refine ⟨?_, ?_⟩
  · exact (congrArg (fun x : Stk => x.tasks.getD n {}) (by simp [endDrive])).trans htask
  · exact fun h => hdriving ((gateIdle_driving ..).symm.trans h)

/-- What drives on a core: the slot, its stroke and the copy there. -/
theorem drivenBy_some {s : State} {c n : Nat} {k : Stroke} {x : Copy} (h : drivenBy s c = some (n, k, x)) :
    (s.cores.getD c {}).driving = some n ∧ (task s n).stroke = some k ∧ copyOn k c = some x := by
  unfold drivenBy at h
  split at h
  case h_1 m hm =>
    split at h
    case h_1 q hq =>
      obtain ⟨y, hy, hyx⟩ := Option.map_eq_some_iff.mp h
      cases hyx
      exact ⟨hm, hq, hy⟩
    case h_2 => cases h
  case h_2 => cases h

/-- A drive that is no shadow and is stopped by an access ends. -/
theorem stopDrive_ends {s : State} {n c : Nat} {k : Stroke} {x : Copy} (hdrives : drivenBy s c = some (n, k, x))
    (hshadow : isShadow s n c = false) : EndedByAccess (stopDrive n c .access s) n c := by
  obtain ⟨hdriving, hstroke, hcopy⟩ := drivenBy_some hdrives
  have hcore : c < s.cores.length := by
    by_contra hc
    rw [List.getD_eq_default _ _ (Nat.le_of_not_lt hc)] at hdriving
    cases hdriving
  have hstroke' := task_modCopy_same (c := c) (f := fun x => { x with phase := .done, stop := some .access, ws := discardWs x.ws 3 }) hstroke
  have hcopy' := copyOn_map (f := fun x => { x with phase := .done, stop := some .access, ws := discardWs x.ws 3 }) (fun _ => rfl) hcopy
  rw [stopDrive, if_neg (by simp [hshadow])]
  obtain ⟨htask, hnot⟩ := endDrive_done (s := releaseLocks n (some c) (modCopy n c _ s)) (n := n) hcore hstroke' hcopy' rfl
  exact ⟨hnot, _, _, htask ▸ hstroke', hcopy', rfl, rfl, rfl, rfl⟩

/-- A fault of a drive that is no shadow ends it, and may be a trigger of a rollback (R506). -/
theorem accessFault_ends {s : State} {n c : Nat} {k : Stroke} {x : Copy} (hdrives : drivenBy s c = some (n, k, x))
    (hshadow : isShadow s n c = false) : EndedByAccess (accessFault c s) n c := by
  obtain ⟨-, hstroke, hcopy⟩ := drivenBy_some hdrives
  have hx : x.shadow = false := by
    have hnone : ∀ y ∈ k.copies, y.core = c → y.shadow = false := by simpa [isShadow, hstroke] using hshadow
    exact hnone x (List.mem_of_find?_eq_some hcopy) (by simpa using List.find?_some hcopy)
  have hends := stopDrive_ends hdrives hshadow
  have hfault : accessFault c s = trigger 2 n (stopDrive n c .access s) := by simp [accessFault, hdrives, hx]
  have htask : task (accessFault c s) n = task (stopDrive n c .access s) n :=
    congrArg (fun x : Stk => x.tasks.getD n {}) (by simp [hfault])
  have hcores : (accessFault c s).cores = (stopDrive n c .access s).cores := by simp [hfault]
  rwa [EndedByAccess, htask, hcores]

/-! ### The record of a refused access (R34) -/

/-- A refused access is counted, and held when none is. -/
theorem noteRefused_drw (kind tag target addr drawer : Nat) (s : State) :
    (noteRefused kind tag target addr drawer s).drw =
      { (if s.drw.fValid then s.drw
         else { s.drw with fValid := true, fKind := kind, fTag := tag, fTarget := target, fAddr := addr }) with
        fCount := sat 32 s.drw.fCount 1 } := by
  simp only [noteRefused, (raise_frame ..)]
  split <;> rfl

/-- The first refused access is kept with its kind, its initiator and its address. -/
def NotedRefused (s t : State) (kind tag addr : Nat) : Prop :=
  t.drw.fCount = sat 32 s.drw.fCount 1 ∧
  (s.drw.fValid = false → t.drw.fValid = true ∧ t.drw.fKind = kind ∧ t.drw.fTag = tag ∧ t.drw.fAddr = addr) ∧
  (s.drw.fValid = true → t.drw.fKind = s.drw.fKind ∧ t.drw.fTag = s.drw.fTag ∧ t.drw.fAddr = s.drw.fAddr)

theorem noteRefused_noted {t s : State} {kind tag target addr drawer : Nat}
    (h : t.drw = (noteRefused kind tag target addr drawer s).drw) : NotedRefused s t kind tag addr := by
  rw [noteRefused_drw] at h
  refine ⟨by rw [h], fun hfree => ?_, fun hheld => ?_⟩
  · rw [h, if_neg (by simp [hfree])]
    exact ⟨rfl, rfl, rfl, rfl⟩
  · rw [h, if_pos hheld]
    exact ⟨rfl, rfl, rfl⟩

/-! ### What an access of a core depends on -/

theorem drivenBy_congr {s t : State} (c : Nat) (hcores : t.cores = s.cores) (hstk : t.stk = s.stk) :
    drivenBy t c = drivenBy s c := by
  simp only [drivenBy, task, hcores, hstk]

theorem isShadow_congr {s t : State} (n c : Nat) (hstk : t.stk = s.stk) : isShadow t n c = isShadow s n c := by
  simp only [isShadow, task, hstk]

/-- A core in a drive carries the drawer of its task (R34). -/
theorem coreTag_of_drivenBy {s : State} {c n : Nat} {k : Stroke} {x : Copy} (h : drivenBy s c = some (n, k, x)) :
    coreTag s c = taskDrawer s n := by
  rw [coreTag, (drivenBy_some h).1]
  rfl

/-- Settles O53: the record of a refused access by `noteRefused_noted`, the end of a drive by `accessFault_ends`. -/
theorem accessFailures : Obligations.AccessFailures := by
  unfold Obligations.AccessFailures
  refine ⟨fun o k a s hlisted hfails => ?_, fun c k a n q x s hlisted hdrives hfails => ?_,
    fun k a s hlisted hfails => ?_, fun i k a s hlisted => if_pos (by rw [hlisted]; rfl),
    fun o k a s hpasses => if_pos (by simp [carried, byCore, hpasses]), fun w c a n q x s hlisted hdrives => ?_,
    fun w a s hlisted => if_neg (by simp [hlisted]),
    fun o w a s hlisted => if_neg (by simp [hlisted]), fun i w a s hlisted => if_pos hlisted⟩
  · obtain ⟨hcount, hfirst, hkept⟩ := noteRefused_noted (kind := 3) (tag := o.elim 0x20 (·.val)) (addr := a.toNat) (s := s) rfl
    exact ⟨_, if_neg (by simp [hlisted, carried, byCore, hfails]), rfl, hcount, hfirst, hkept,
      State.eq_of_fields (by simp [State.OnlyFreshEvrHie]) rfl rfl rfl⟩
  · have hcarried : carried s (.core c) = (some (coreTag s c.val), some n) := by rw [carried, (drivenBy_some hdrives).1]
    obtain ⟨hcount, hfirst, -⟩ := noteRefused_noted (kind := k.val) (tag := coreTag s c.val) (target := targetOf a.toNat)
      (addr := a.toNat) (drawer := coreTag s c.val) (s := s)
      (t := { coreRefused c.val k.val (targetOf a.toNat) a.toNat s with answer := .refused }) (by simp [coreRefused])
    refine ⟨_, if_neg (by simp [hlisted, hcarried, byCore, hfails]), rfl, hcount, hfirst, fun hshadow => ?_, by simp,
      eq_of_stored (by simp [coreRefused])⟩
    exact accessFault_ends ((drivenBy_congr _ (by simp) (by simp)).trans hdrives) ((isShadow_congr _ _ (by simp)).trans hshadow)
  · obtain ⟨hcount, hfirst, -⟩ := noteRefused_noted (kind := k.val) (tag := 0x20) (addr := a.toNat) (s := s) rfl
    exact ⟨_, if_neg (by simp [hlisted, carried, byCore, hfails]), rfl, hcount, hfirst,
      State.eq_of_fields (by simp [State.OnlyFreshEvrHie]) rfl rfl rfl⟩
  · refine ⟨_, ?_, rfl, fun hshadow => ?_, by simp, by simp⟩
    · rw [← coreTag_of_drivenBy hdrives]
      exact if_neg (by simp [hlisted])
    · exact accessFault_ends ((drivenBy_congr _ (by simp) (by simp)).trans hdrives) ((isShadow_congr _ _ (by simp)).trans hshadow)

end Sys2Proof.Machine
end

section
/-! PROOFS. Cores held by the probe, and the force table (R37, R544 to R552). -/
namespace Sys2Proof.Machine

/-! ### One core under the probe -/

theorem coreHeld_eq {c : Nat} {x : DbgCore} {s : State} (hx : s.dbg.cores[c]? = some x) : coreHeld s c = x.held := by
  simp [coreHeld, List.getD, hx]

theorem dbgCore_eq {c : Nat} {x : DbgCore} {s : State} (hx : s.dbg.cores[c]? = some x) : dbgCore s c = x := by
  simp [dbgCore, List.getD, hx]

theorem modDbgCore_getElem? {c : Nat} {x : DbgCore} {s : State} (f : DbgCore → DbgCore) (hx : s.dbg.cores[c]? = some x) :
    (modDbgCore c f s).dbg.cores[c]? = some (f x) :=
  (getElem?_lmod_same ..).trans (congrArg (Option.map f) hx)

/-- A core that the probe holds is powered when it is in service, stands with its cause and its program counter, and no other
core under the probe changes. -/
theorem holdCore_effect {c : Nat} {x : DbgCore} {s : State} (cause index pc : Nat) (regs : List (Nat × Nat))
    (hx : s.dbg.cores[c]? = some x) :
    let t := holdCore c cause index pc regs s
    ∃ y, t.dbg.cores[c]? = some y ∧ y.held = true ∧ y.cause = cause ∧ y.index = index ∧ y.pc = pc % 2 ^ 32 ∧
      y.bps = x.bps ∧ y.wps = x.wps ∧ (∀ k, k ≠ c → t.dbg.cores[k]? = s.dbg.cores[k]?) ∧
      t.cores = lmod s.cores c (fun z => { z with powered := z.powered || !coreOut s c }) ∧
      t = { s with dbg := t.dbg, cores := t.cores } :=
  ⟨_, modDbgCore_getElem? _ hx, rfl, rfl, rfl, rfl, rfl, rfl, fun _ hk => getElem?_lmod_other _ _ hk, rfl, rfl⟩

/-- A list whose element at a place is not changed there is not changed. -/
theorem lmod_id {α : Type} {l : List α} {i : Nat} {x : α} {f : α → α} (hx : l[i]? = some x) (hf : f x = x) : lmod l i f = l := by
  refine List.ext_getElem? (fun j => ?_)
  by_cases hj : j = i
  · rw [hj, getElem?_lmod_same, hx, Option.map_some, hf]
  · exact getElem?_lmod_other _ _ hj

/-! ### A core runs on (R548) -/

theorem stepCheck_cores (s : State) : (stepCheck s).dbg.cores = s.dbg.cores := by
  unfold stepCheck
  split <;> rfl

/-- A held core runs on: it is held no more, and no other core under the probe changes. -/
theorem coreRun_held {c : Nat} {s : State} (hmode : s.sys.mode = .debug) (hheld : coreHeld s c = true) :
    (coreRun c s).dbg.cores = lmod s.dbg.cores c (fun x => { x with held := false, cause := 0, index := 0 }) := by
  have hruns : ¬ (decide (s.sys.mode ≠ .debug) || !coreHeld s c) = true := by simp [hmode, hheld]
  have hrun : coreRun c s = stepCheck (gateIdle c (dispatchCore (modDbg (fun d => { d with stepBusy := true })
      (modDbgCore c (fun x => { x with held := false, cause := 0, index := 0 }) (probeWrote s))) c)) := if_neg hruns
  rw [hrun, stepCheck_cores]
  simp [probeWrote]

/-! ### The commands of the probe (R548, R549) -/

/-- A halt, a step and a run outside DEBUG do nothing but mark the probe (R544). -/
theorem coreCommands_ignored {s : State} (hmode : s.sys.mode ≠ .debug) (c : Fin 16) (pc : Nat) (l : List (Nat × Nat)) :
    exec (.coreHalt c pc l) s = .next (probeWrote s) ∧ exec (.coreStep c pc l) s = .next (probeWrote s) ∧
    exec (.coreRun c) s = .next (probeWrote s) := by
  refine ⟨if_pos (by simp [probeWrote, hmode]), if_pos (by simp [probeWrote, hmode]), congrArg Host.Outcome.next ?_⟩
  exact if_pos (by simp [probeWrote, hmode])

theorem exec_coreHalt_running {s : State} {c : Fin 16} (pc : Nat) (l : List (Nat × Nat)) (hmode : s.sys.mode = .debug)
    (hout : coreOut s c.val = false) (hheld : coreHeld s c.val = false) :
    exec (.coreHalt c pc l) s = .next (holdCore c.val 1 0 pc l (probeWrote s)) := by
  have hacts : ¬ (decide (s.sys.mode ≠ .debug) || coreOut s c.val) = true := by simp [hmode, hout]
  have hruns : ¬ coreHeld s c.val = true := by simp [hheld]
  exact (if_neg hacts).trans (if_neg hruns)

theorem exec_coreHalt_held {s : State} {c : Fin 16} (pc : Nat) (l : List (Nat × Nat)) (hmode : s.sys.mode = .debug)
    (hout : coreOut s c.val = false) (hheld : coreHeld s c.val = true) :
    exec (.coreHalt c pc l) s = .next (keepHold c.val (probeWrote s)) := by
  have hacts : ¬ (decide (s.sys.mode ≠ .debug) || coreOut s c.val) = true := by simp [hmode, hout]
  exact (if_neg hacts).trans (if_pos hheld)

theorem exec_coreHalt_out {s : State} {c : Fin 16} (pc : Nat) (l : List (Nat × Nat)) (hout : coreOut s c.val = true) :
    exec (.coreHalt c pc l) s = .next (probeWrote s) := by
  have hignored : (decide (s.sys.mode ≠ .debug) || coreOut s c.val) = true := by simp [hout]
  exact if_pos hignored

theorem exec_coreStep_held {s : State} {c : Fin 16} (pc : Nat) (l : List (Nat × Nat)) (hmode : s.sys.mode = .debug)
    (hheld : coreHeld s c.val = true) :
    exec (.coreStep c pc l) s = .next (holdCore c.val 4 0 pc l (probeWrote s)) := by
  have hacts : ¬ (decide (s.sys.mode ≠ .debug) || !coreHeld s c.val) = true := by simp [hmode, hheld]
  exact if_neg hacts

/-! ### Breakpoints and watchpoints (R549, R552) -/

theorem canStop_running {s : State} {c : Nat} (pc : Nat) (hon : s.enabled.contains .dbg = true) (hout : coreOut s c = false)
    (hheld : coreHeld s c = false) : canStop s c pc = true := by
  rw [canStop, hon, hout, hheld]
  rfl

theorem exec_breakpointHit {s : State} {c : Fin 16} {i : Fin 8} {b : Nat} {x : DbgCore} (pc : Nat) (l : List (Nat × Nat))
    (hon : s.enabled.contains .dbg = true) (hout : coreOut s c.val = false) (hx : s.dbg.cores[c.val]? = some x)
    (hheld : x.held = false) (hb : x.bps[i.val]? = some b) (hen : b.testBit 0 = true) :
    exec (.breakpointHit c i pc l) s =
      if b / 4 = pc % 2 ^ 32 / 4 then .next (holdCore c.val 2 i.val pc l s) else .next s := by
  change execBreakpointHit c i pc l s = _
  have hword : (dbgCore s c.val).bps.getD i.val 0 = b := by rw [dbgCore_eq hx, List.getD, hb, Option.getD_some]
  simp only [execBreakpointHit, hword, canStop_running pc hon hout ((coreHeld_eq hx).trans hheld), hen, Bool.true_and,
    decide_eq_true_eq]

theorem exec_watchpointHit {s : State} {c : Fin 16} {i : Fin 4} {w k : Nat} {x : DbgCore} (a pc : Nat) {wr : Bool}
    (l : List (Nat × Nat)) (hon : s.enabled.contains .dbg = true) (hout : coreOut s c.val = false)
    (hx : s.dbg.cores[c.val]? = some x) (hheld : x.held = false) (hw : x.wps[i.val]? = some (w, k))
    (hen : k.testBit 31 = true) (hdir : k.testBit (if wr then 9 else 8) = true) :
    exec (.watchpointHit c i a wr pc l) s =
      if a % 2 ^ 32 / 2 ^ (k % 32) = w / 2 ^ (k % 32) then .next (holdCore c.val 3 i.val pc l s) else .next s := by
  change execWatchpointHit c i a wr pc l s = _
  have hword : (dbgCore s c.val).wps.getD i.val (0, 0) = (w, k) := by rw [dbgCore_eq hx, List.getD, hw, Option.getD_some]
  simp only [execWatchpointHit, hword, canStop_running pc hon hout ((coreHeld_eq hx).trans hheld), hen, hdir, Bool.true_and,
    decide_eq_true_eq]

/-! ### The force table (R550) -/

/-- A word of a force entry written in DEBUG. -/
def forceSet (word : Nat) (v : BitVec 32) (f : Force) : Force :=
  if word = 0 then { f with pt := v.toNat % 2 ^ 14 + (if v.toNat.testBit 31 then 2 ^ 31 else 0) }
  else if word = 1 then { f with value := f.value / 2 ^ 32 * 2 ^ 32 + v.toNat }
  else { f with value := v.toNat * 2 ^ 32 + f.value % 2 ^ 32 }

theorem forceWrite_forces {s : State} (hmode : s.sys.mode = .debug) (e word : Nat) (v : BitVec 32) :
    (forceWrite e word v.toNat s).dbg.forces = lmod s.dbg.forces e (forceSet word v) := by
  have hset : (fun f : Force => if word = 0 then { f with pt := v.toNat % 2 ^ 14 + bit (v.toNat.testBit 31) * 2 ^ 31 }
      else if word = 1 then { f with value := f.value / 2 ^ 32 * 2 ^ 32 + v.toNat % 2 ^ 32 }
      else { f with value := v.toNat % 2 ^ 32 * 2 ^ 32 + f.value % 2 ^ 32 }) = forceSet word v := by
    funext f
    simp only [forceSet, bit, Nat.mod_eq_of_lt v.isLt, ite_mul, one_mul, zero_mul]
  have hwrites : ¬ (probeWrote s).sys.mode ≠ .debug := not_not.mpr hmode
  rw [← hset, forceWrite, if_neg hwrites]
  dsimp only
  split
  · simp [dbgEvent, probeWrote]
  · rfl

/-- Settles O51: each command of the probe by what it does to one core, or to one force entry. -/
theorem coresUnderTheProbe : Obligations.CoresUnderTheProbe := by
  unfold Obligations.CoresUnderTheProbe
  refine ⟨fun v s => ?_, fun c pc l x s hmode hx hheld hout => ?_, fun c pc l s hmode => coreCommands_ignored hmode c pc l,
    fun c pc l x s hmode hx hheld => ⟨fun hkeeps => ?_, fun hout hcause => ?_, ?_⟩, fun c x s hmode hx hheld => ?_,
    fun c i pc b l x s hon hout hx hheld hb hen => ⟨fun hmatch => ?_, fun hmiss => ?_⟩,
    fun c i a pc w k wr l x s hon hout hx hheld hw hen hdir => ⟨fun hmatch => ?_, fun hmiss => ?_⟩,
    fun e w v f s hmode hf => ?_, fun e w v s hmode => congrArg Host.Outcome.next (if_pos hmode), fun s hbusy hidle => ?_,
    fun s hbusy => congrArg Host.Outcome.next (if_neg (by simp [hbusy]))⟩
  · change execDbgTagWrite v s = _
    by_cases h : (v.testBit 7 && s.dbg.bypassOk) = true <;> simp [execDbgTagWrite, tagWrite, probeWrote, modDbg, h, bit]
  · obtain ⟨y, hy, hyheld, hcause, -, hpc, hbps, hwps, hother, hcores, hframe⟩ :=
      holdCore_effect (s := probeWrote s) 1 0 pc l hx
    have hpowered : (fun z : Core => { z with powered := z.powered || !coreOut (probeWrote s) c.val }) =
        fun z => { z with powered := true } := by
      have hout' : coreOut (probeWrote s) c.val = false := hout
      funext z
      rw [hout', Bool.not_false, Bool.or_true]
    refine ⟨_, y, exec_coreHalt_running pc l hmode hout ((coreHeld_eq hx).trans hheld), hy, hyheld, hcause, hpc, hbps, hwps,
      hother, ?_⟩
    rw [hpowered] at hcores
    rw [hframe, hcores]
    rfl
  · rcases hkeeps with hout | hcause
    · exact exec_coreHalt_out pc l hout
    · by_cases hout : coreOut s c.val = true
      · exact exec_coreHalt_out pc l hout
      · refine (exec_coreHalt_held pc l hmode (by simpa using hout) ((coreHeld_eq hx).trans hheld)).trans ?_
        exact congrArg (fun l => Host.Outcome.next { probeWrote s with dbg := { (probeWrote s).dbg with cores := l } })
          (lmod_id (f := fun x => if x.held && decide (x.cause = 5) then { x with cause := 1 } else x) hx
            (if_neg (by simp [hcause])))
  · refine ⟨_, _, exec_coreHalt_held pc l hmode hout ((coreHeld_eq hx).trans hheld), modDbgCore_getElem? _ hx, ?_,
      fun k hk => getElem?_lmod_other _ _ hk, rfl⟩
    simp [hheld, hcause]
  · obtain ⟨y, hy, hyheld, hcause, -, hpc, -, -, hother, -, hframe⟩ := holdCore_effect (s := probeWrote s) 4 0 pc l hx
    exact ⟨_, y, exec_coreStep_held pc l hmode ((coreHeld_eq hx).trans hheld), hy, hyheld, hcause, hpc, hother, hframe⟩
  · have hcores := coreRun_held hmode ((coreHeld_eq hx).trans hheld)
    refine ⟨_, _, rfl, (congrArg (fun l => l[c.val]?) hcores).trans ((getElem?_lmod_same ..).trans (congrArg _ hx)), rfl, rfl, rfl,
      fun k hk => (congrArg (fun l => l[k]?) hcores).trans (getElem?_lmod_other _ _ hk),
      State.eq_of_fields (by simp [State.OnlyFreshEvrHie]) rfl rfl rfl⟩
  · obtain ⟨y, hy, hyheld, hcause, hindex, hpc, -, -, -, -, hframe⟩ := holdCore_effect (s := s) 2 i.val pc l hx
    exact ⟨_, y, (exec_breakpointHit pc l hon hout hx hheld hb hen).trans (if_pos hmatch), hy, hyheld, hcause, hindex, hpc, hframe⟩
  · exact (exec_breakpointHit pc l hon hout hx hheld hb hen).trans (if_neg hmiss)
  · obtain ⟨y, hy, hyheld, hcause, hindex, hpc, -, -, -, -, hframe⟩ := holdCore_effect (s := s) 3 i.val pc l hx
    exact ⟨_, y, (exec_watchpointHit a pc l hon hout hx hheld hw hen hdir).trans (if_pos hmatch), hy, hyheld, hcause, hindex, hpc,
      hframe⟩
  · exact (exec_watchpointHit a pc l hon hout hx hheld hw hen hdir).trans (if_neg hmiss)
  · have hforces := forceWrite_forces hmode e.val w.val v
    exact ⟨_, rfl, (congrArg (fun l => l[e.val]?) hforces).trans ((getElem?_lmod_same ..).trans (congrArg _ hf)),
      fun k hk => (congrArg (fun l => l[k]?) hforces).trans (getElem?_lmod_other _ _ hk),
      State.eq_of_fields (by simp [State.OnlyFreshEvrHie]) rfl rfl rfl⟩
  · refine congrArg Host.Outcome.next (if_pos ?_)
    rw [hbusy, Bool.true_and]
    exact List.all_eq_true.mpr (fun c hc => hidle c (List.mem_range.mp hc))

end Sys2Proof.Machine
end

section
/-! PROOFS. The failure code of a load is never 0 (R97, R99, R106, R587). -/
namespace Sys2Proof.Machine

/-- A check finds nothing, or something under a code other than 0. -/
def Coded (o : Option Finding) : Prop := ∀ f, o = some f → f.1 ≠ 0

@[simp] theorem coded_none : Coded none := fun _ h => by cases h

@[simp] theorem coded_some (f : Finding) : Coded (some f) ↔ f.1 ≠ 0 :=
  ⟨fun h => h f rfl, fun h _ hf => Option.some.inj hf ▸ h⟩

@[simp] theorem coded_ck (code sect idx : Nat) (bad : Bool) (h : code ≠ 0) : Coded (ck code sect idx bad) := by
  unfold ck
  split <;> simp [h]

/-- A finding made of a position, under one code. -/
@[simp] theorem coded_map {α : Type} (o : Option α) (f : α → Finding) (h : ∀ a, (f a).1 ≠ 0) : Coded (o.map f) := by
  cases o <;> simp [h]

@[simp] theorem coded_firstBad (code sect : Nat) (l : List Rec) (bad : Nat → Rec → Bool) (h : code ≠ 0) :
    Coded (firstBad code sect l bad) :=
  coded_map _ _ (fun _ => h)

@[simp] theorem coded_or (a b : Option Finding) (ha : Coded a) (hb : Coded b) : Coded (a.or b) := by
  cases a with
  | none => exact hb
  | some f => exact ha

theorem coded_orElse (a b : Option Finding) (ha : Coded a) (hb : Coded b) : Coded (a <|> b) := by
  rw [Option.orElse_eq_orElse, Option.orElse_eq_or]
  exact coded_or a b ha hb

@[simp] theorem coded_findSome? {α : Type} (l : List α) (f : α → Option Finding) (h : ∀ a, Coded (f a)) :
    Coded (l.findSome? f) := by
  intro g hg
  obtain ⟨a, -, ha⟩ := List.exists_of_findSome?_eq_some hg
  exact h a g ha

theorem coded_check7 (img : List Byte) : Coded (check7 img) := by
  unfold check7
  dsimp only
  split
  case h_1 f hf =>
    rw [← hf]
    refine coded_findSome? _ _ (fun p => ?_)
    (repeat' split) <;> simp
  case h_2 => simp

theorem coded_checkJig (body : List Byte) : Coded (checkJig body) := by
  unfold checkJig
  dsimp only
  split <;> simp

theorem coded_check8Of (secs : List Section) (x : Section) : Coded (check8Of secs x) := by
  unfold check8Of
  dsimp only
  (repeat' split) <;> simp [checkTasks, coded_checkJig, checkLoops, checkRemote]

theorem coded_check8 (img : List Byte) : Coded (check8 img) := by
  have hentry (d : List Byte) :
      Coded (if badEntry d then some (8, f8 d 0, 0xFFFF) else check8Of (parseImage img) (sectionOf img d)) := by
    split <;> simp [coded_check8Of]
  unfold check8
  dsimp only
  (repeat' with_reducible refine coded_orElse _ _ ?_ ?_) <;> simp [hentry]

theorem coded_single9 (x : LoadCtx) (img : List Byte) (secs : List Section) (s : Section) : Coded (single9 x img secs s) := by
  unfold single9
  dsimp only
  split <;> simp

theorem coded_crossHier (secs : List Section) (rs : List Rec) : Coded (crossHier secs rs) := by
  unfold crossHier
  dsimp only
  (repeat' with_reducible refine coded_orElse _ _ ?_ ?_) <;> simp

theorem coded_cross9 (secs : List Section) (s : Section) : Coded (cross9 secs s) := by
  unfold cross9
  dsimp only
  split <;> (repeat' with_reducible refine coded_orElse _ _ ?_ ?_) <;> simp [coded_crossHier]

/-- What the checks of codes 1 to 10 find has one of these codes. -/
theorem coded_checkImage (x : LoadCtx) (img : List Byte) : Coded (checkImage x img) := by
  unfold checkImage check9 bounds9
  dsimp only
  (repeat' with_reducible refine coded_orElse _ _ ?_ ?_) <;> simp [check1, check2, check3, check4, check5, check6, coded_check7, coded_check8,
    coded_single9, coded_cross9, check10]

end Sys2Proof.Machine
end

section
/-! PROOFS. What an edge leaves of the tick number, the edge count and the stage of the boot (R28, R109). -/
namespace Sys2Proof.Machine

/-- A state keeps the tick number, the edge count and the stage of the boot of another. -/
abbrev State.KeepsClock (t s : State) : Prop :=
  t.stk.tn = s.stk.tn ∧ t.stk.edges = s.stk.edges ∧ t.sys.boot = s.sys.boot

theorem foldl_keepsClock {α : Type} (f : State → α → State) (h : ∀ s x, (f s x).KeepsClock s) (l : List α) (s : State) :
    (l.foldl f s).KeepsClock s :=
  ⟨foldl_keep (fun s => s.stk.tn) f (fun s x => (h s x).1) l s, foldl_keep (fun s => s.stk.edges) f (fun s x => (h s x).2.1) l s,
    foldl_keep (fun s => s.sys.boot) f (fun s x => (h s x).2.2) l s⟩

theorem keepsClock_ite (c : Prop) [Decidable c] {f : State → State} {a s : State} (hf : ∀ s, (f s).KeepsClock s)
    (ha : a.KeepsClock s) : (if c then f a else a).KeepsClock s := by
  obtain ⟨htn, hedges, hboot⟩ := hf a
  split
  · exact ⟨htn.trans ha.1, hedges.trans ha.2.1, hboot.trans ha.2.2⟩
  · exact ha

theorem jMark_keepsClock (kind arg : Nat) (s : State) : (jMark kind arg s).KeepsClock s := by
  simp [State.KeepsClock]

theorem debugMark_keepsClock (entered step : Bool) (s : State) : (debugMark entered step s).KeepsClock s := by
  simp [State.KeepsClock]

theorem sameCycle_keepsClock {f : State → State} (h : ∀ s, (f s).KeepsClock s) (s : State) : (sameCycle f s).KeepsClock s := by
  refine ⟨?_, ?_, ?_⟩
  · obtain ⟨e, he⟩ := sameCycle_reads (fun s => s.stk.tn) (by simp) (fun _ _ => rfl) f s
    exact he.trans (h _).1
  · obtain ⟨e, he⟩ := sameCycle_reads (fun s => s.stk.edges) (by simp) (fun _ _ => rfl) f s
    exact he.trans (h _).2.1
  · obtain ⟨e, he⟩ := sameCycle_reads (fun s => s.sys.boot) (by simp) (fun _ _ => rfl) f s
    exact he.trans (h _).2.2

@[simp] theorem enterMode_keepsClock (m : Mode) (s : State) :
    (enterMode m s).KeepsClock s := by
  unfold enterMode
  simp [State.KeepsClock]

@[simp] theorem setCause_keepsClock (i : Nat) (s : State) :
    (setCause i s).KeepsClock s := by
  unfold setCause
  split <;> simp [State.KeepsClock]

@[simp] theorem modTask_keepsClock (n : Nat) (f : Task → Task) (s : State) :
    (modTask n f s).KeepsClock s := by
  unfold modTask
  simp [State.KeepsClock]

@[simp] theorem modCopy_keepsClock (n c : Nat) (f : Copy → Copy) (s : State) :
    (modCopy n c f s).KeepsClock s := by
  unfold modCopy
  simp [State.KeepsClock]

@[simp] theorem commitState_keepsClock (n : Nat) (work : List (Nat × Byte)) (s : State) :
    (commitState n work s).KeepsClock s := by
  unfold commitState
  dsimp only
  split <;> simp [State.KeepsClock]

@[simp] theorem endShadow_keepsClock (s : State) :
    (endShadow s).KeepsClock s := by
  unfold endShadow
  simp [State.KeepsClock, (foldl_keepsClock ..)]

@[simp] theorem abandonUpdate_keepsClock (reason : Nat) (s : State) :
    (abandonUpdate reason s).KeepsClock s := by
  unfold abandonUpdate
  split <;> simp [State.KeepsClock]

@[simp] theorem failShadow_keepsClock (reason slot : Nat) (s : State) :
    (failShadow reason slot s).KeepsClock s := by
  unfold failShadow
  split <;> simp [State.KeepsClock]

@[simp] theorem strokeTrouble_keepsClock (t n c : Nat) (s : State) :
    (strokeTrouble t n c s).KeepsClock s := by
  unfold strokeTrouble
  split <;> simp [State.KeepsClock]

@[simp] theorem startDrive_keepsClock (n c : Nat) (s : State) :
    (startDrive n c s).KeepsClock s := by
  unfold startDrive
  simp [State.KeepsClock]

@[simp] theorem dispatchCore_keepsClock (s : State) (c : Nat) :
    (dispatchCore s c).KeepsClock s := by
  unfold dispatchCore
  (repeat' split) <;> simp [State.KeepsClock]

@[simp] theorem dispatchAll_keepsClock (s : State) :
    (dispatchAll s).KeepsClock s := by
  unfold dispatchAll
  simp [State.KeepsClock, (foldl_keepsClock ..)]

@[simp] theorem endDrive_keepsClock (c : Nat) (s : State) :
    (endDrive c s).KeepsClock s := by
  unfold endDrive
  simp [State.KeepsClock]

@[simp] theorem takeSeat_keepsClock (c : Nat) (u : SeatUse) (s : State) :
    (takeSeat c u s).KeepsClock s := by
  unfold takeSeat
  split <;> simp [State.KeepsClock]

@[simp] theorem sparesOut_keepsClock (s : State) :
    (sparesOut s).KeepsClock s := by
  unfold sparesOut
  split <;> simp [State.KeepsClock]

@[simp] theorem enterReplay_keepsClock (n : Nat) (s : State) :
    (enterReplay n s).KeepsClock s := by
  unfold enterReplay
  split <;> simp [State.KeepsClock]

@[simp] theorem stopTask_keepsClock (n : Nat) (s : State) :
    (stopTask n s).KeepsClock s := by
  unfold stopTask
  split <;> simp [State.KeepsClock]

@[simp] theorem rebind_keepsClock (c seat : Nat) (s : State) :
    (rebind c seat s).KeepsClock s := by
  unfold rebind
  simp [State.KeepsClock, (foldl_keepsClock ..)]

@[simp] theorem unsettle_keepsClock (reason slot relEdge : Nat) (s : State) :
    (unsettle reason slot relEdge s).KeepsClock s := by
  unfold unsettle
  simp [State.KeepsClock]

@[simp] theorem failSeat_keepsClock (c kind : Nat) (s : State) :
    (failSeat c kind s).KeepsClock s := by
  unfold failSeat
  split <;> simp [State.KeepsClock]

@[simp] theorem moveTasks_keepsClock (c kind seat : Nat) (mv : List Nat) (old : Option Takeover) (s : State) :
    (moveTasks c kind seat mv old s).KeepsClock s := by
  unfold moveTasks
  simp [State.KeepsClock, (foldl_keepsClock ..)]

@[simp] theorem strandTasks_keepsClock (mv hv : List Nat) (s : State) :
    (strandTasks mv hv s).KeepsClock s := by
  unfold strandTasks
  simp [State.KeepsClock, (foldl_keepsClock ..)]

@[simp] theorem moveSettle_keepsClock (c : Nat) (s : State) (x : Settle) :
    (moveSettle c s x).KeepsClock s := by
  unfold moveSettle
  split <;> simp [State.KeepsClock]

@[simp] theorem passSeat_keepsClock (x y : Nat) (s : State) :
    (passSeat x y s).KeepsClock s := by
  unfold passSeat
  simp [State.KeepsClock]

@[simp] theorem giveUpSeat_keepsClock (c x : Nat) (s : State) :
    (giveUpSeat c x s).KeepsClock s := by
  unfold giveUpSeat
  simp [State.KeepsClock, (foldl_keepsClock ..)]

@[simp] theorem noteReseat_keepsClock (c : Nat) (seat : Option Nat) (s : State) :
    (noteReseat c seat s).KeepsClock s := by
  unfold noteReseat
  simp [State.KeepsClock]

@[simp] theorem reseat_keepsClock (c : Nat) (s : State) :
    (reseat c s).KeepsClock s := by
  unfold reseat
  refine foldl_keepsClock _ (fun s p => ?_) _ s
  (repeat' split) <;> simp [State.KeepsClock]

@[simp] theorem failWorker_keepsClock (c kind : Nat) (want : Option Nat) (old : Option Takeover) (s : State) :
    (failWorker c kind want old s).KeepsClock s := by
  unfold failWorker
  dsimp only
  (repeat' split) <;> simp [State.KeepsClock, (foldl_keepsClock ..)]

@[simp] theorem failNow_keepsClock (want : Option Nat) (c kind : Nat) (s : State) :
    (failNow want c kind s).KeepsClock s := by
  unfold failNow
  dsimp only
  (repeat' split) <;> simp [State.KeepsClock, (foldl_keepsClock ..)]

@[simp] theorem failCoreTo_keepsClock (want : Option Nat) (c kind : Nat) (s : State) :
    (failCoreTo want c kind s).KeepsClock s := by
  exact sameCycle_keepsClock (fun s => failNow_keepsClock ..) s

@[simp] theorem deliver_keepsClock (tn : Nat) (s : State) (m : Msg) :
    (deliver tn s m).KeepsClock s := by
  unfold deliver
  dsimp only
  split <;> simp [State.KeepsClock]

@[simp] theorem applyGroup_keepsClock (slot : Nat) (w : WriteSet) (s : State) :
    (applyGroup slot w s).KeepsClock s := by
  unfold applyGroup
  (repeat' split) <;> simp [State.KeepsClock, (foldl_keepsClock ..)]

@[simp] theorem applyWs_keepsClock (slot catchTn tn : Nat) (w : WriteSet) (s : State) :
    (applyWs slot catchTn tn w s).KeepsClock s := by
  unfold applyWs
  simp [State.KeepsClock, (foldl_keepsClock ..)]

@[simp] theorem skipTask_keepsClock (slot : Nat) (k : SkipKind) (flags catchTn : Nat) (s : State) :
    (skipTask slot k flags catchTn s).KeepsClock s := by
  unfold skipTask
  (repeat' split) <;> simp [State.KeepsClock]

@[simp] theorem afterRelease_keepsClock (slot e : Nat) (skipped : Bool) (s : State) :
    (afterRelease slot e skipped s).KeepsClock s := by
  unfold afterRelease
  simp [State.KeepsClock]

@[simp] theorem startSettle_keepsClock (slot : Nat) (k : Stroke) (s : State) :
    (startSettle slot k s).KeepsClock s := by
  unfold startSettle
  dsimp only
  (repeat' split) <;> simp [State.KeepsClock]

@[simp] theorem shadowRelease_keepsClock (slot : Nat) (k : Stroke) (o : Outcome) (s : State) :
    (shadowRelease slot k o s).KeepsClock s := by
  unfold shadowRelease
  dsimp only
  (repeat' split) <;> simp [State.KeepsClock]

@[simp] theorem releaseStroke_keepsClock (slot : Nat) (k : Stroke) (s : State) :
    (releaseStroke slot k s).KeepsClock s := by
  unfold releaseStroke
  dsimp only
  (repeat' split) <;> simp [State.KeepsClock]

@[simp] theorem applySettled_keepsClock (slot : Nat) (s : State) :
    (applySettled slot s).KeepsClock s := by
  unfold applySettled
  refine foldl_keepsClock _ (fun s x => ?_) _ s
  split <;> simp [State.KeepsClock]

@[simp] theorem commitSlot_keepsClock (s : State) (slot : Nat) :
    (commitSlot s slot).KeepsClock s := by
  unfold commitSlot
  dsimp only
  (repeat' split) <;> simp [State.KeepsClock]

@[simp] theorem observe_keepsClock (old : Image) (s : State) (slot : Nat) :
    (observe old s slot).KeepsClock s := by
  unfold observe
  dsimp only
  (repeat' split) <;> simp [State.KeepsClock]

@[simp] theorem catchTask_keepsClock (slot : Nat) (s : State) :
    (catchTask slot s).KeepsClock s := by
  unfold catchTask
  simp [State.KeepsClock]

@[simp] theorem leaveReplay_keepsClock (s : State) (slot : Nat) :
    (leaveReplay s slot).KeepsClock s := by
  unfold leaveReplay
  dsimp only
  split <;> simp [State.KeepsClock]

@[simp] theorem catchDue_keepsClock (s : State) (slot : Nat) :
    (catchDue s slot).KeepsClock s := by
  unfold catchDue
  dsimp only
  (repeat' split) <;> simp [State.KeepsClock]

@[simp] theorem shadowStart_keepsClock (s : State) :
    (shadowStart s).KeepsClock s := by
  unfold shadowStart
  dsimp only
  (repeat' split) <;> simp [State.KeepsClock]

@[simp] theorem coverageFail_keepsClock (s : State) :
    (coverageFail s).KeepsClock s := by
  unfold coverageFail
  (repeat' split) <;> simp [State.KeepsClock]

@[simp] theorem shadowEdge_keepsClock (s : State) :
    (shadowEdge s).KeepsClock s := by
  unfold shadowEdge
  dsimp only
  (repeat' split) <;> simp [State.KeepsClock]

@[simp] theorem deferFail_keepsClock (s : State) :
    (deferFail s).KeepsClock s := by
  unfold deferFail
  split <;> simp [State.KeepsClock]

@[simp] theorem doSwitch_keepsClock (s : State) :
    (doSwitch s).KeepsClock s := by
  unfold doSwitch
  simp [State.KeepsClock]

@[simp] theorem armTask_keepsClock (hot : Bool) (s : State) (r : Rec) :
    (armTask hot s r).KeepsClock s := by
  unfold armTask
  dsimp only
  (repeat' split) <;> simp [State.KeepsClock]

@[simp] theorem beginRun_keepsClock (x : EdgeIn) (s : State) :
    (beginRun x s).KeepsClock s := by
  unfold beginRun
  simp [State.KeepsClock, (foldl_keepsClock ..)]

@[simp] theorem haltTask_keepsClock (hold : Bool) (s : State) (n : Nat) :
    (haltTask hold s n).KeepsClock s := by
  unfold haltTask
  simp [State.KeepsClock]

@[simp] theorem haltCrew_keepsClock (hold : Bool) (s : State) :
    (haltCrew hold s).KeepsClock s := by
  unfold haltCrew
  simp [State.KeepsClock, (foldl_keepsClock ..)]

@[simp] theorem resumeCrew_keepsClock (s : State) :
    (resumeCrew s).KeepsClock s := by
  unfold resumeCrew
  simp [State.KeepsClock]

@[simp] theorem shiftSchedule_keepsClock (s : State) :
    (shiftSchedule s).KeepsClock s := by
  unfold shiftSchedule
  simp [State.KeepsClock]

@[simp] theorem enterHold_keepsClock (s : State) :
    (enterHold s).KeepsClock s := by
  unfold enterHold
  simp [State.KeepsClock]

@[simp] theorem enterDebug_keepsClock (s : State) :
    (enterDebug s).KeepsClock s := by
  unfold enterDebug
  dsimp only
  split <;> simp [State.KeepsClock, (foldl_keepsClock ..)]

@[simp] theorem commitHold_keepsClock (s : State) (slot : Nat) :
    (commitHold s slot).KeepsClock s := by
  unfold commitHold
  dsimp only
  (repeat' split) <;> simp [State.KeepsClock]

@[simp] theorem edgeMode_keepsClock (p : EdgePlan) (s : State) :
    (edgeMode p s).KeepsClock s := by
  unfold edgeMode
  dsimp only
  (repeat' split) <;> simp [State.KeepsClock]

@[simp] theorem edgeBegin_keepsClock (x : EdgeIn) (p : EdgePlan) (s : State) :
    (edgeBegin x p s).KeepsClock s := by
  unfold edgeBegin
  refine keepsClock_ite _ (jMark_keepsClock 9 0) (keepsClock_ite _ (jMark_keepsClock 8 0) (keepsClock_ite _
    (debugMark_keepsClock p.debug p.step) (keepsClock_ite _ (jMark_keepsClock 1 0) ?_)))
  refine keepsClock_ite _ (f := fun s => beginStep (if s.dbg.firstStep then resumeCrew s else s)) (fun s => ?_) (keepsClock_ite _
    shiftSchedule_keepsClock (keepsClock_ite _ (beginRun_keepsClock x) (edgeMode_keepsClock p s)))
  split <;> simp [State.KeepsClock]

@[simp] theorem edgeCommit_keepsClock (x : EdgeIn) (p : EdgePlan) (s : State) :
    (edgeCommit x p s).KeepsClock s := by
  unfold edgeCommit
  dsimp only
  (repeat' split) <;> simp [State.KeepsClock, (foldl_keepsClock ..)]

@[simp] theorem catchNote_keepsClock (s : State) (n : Nat) :
    (catchNote s n).KeepsClock s := by
  unfold catchNote
  dsimp only
  split <;> simp [State.KeepsClock]

@[simp] theorem wakeCheck_keepsClock (s : State) (c : Nat) :
    (wakeCheck s c).KeepsClock s := by
  unfold wakeCheck failCore
  dsimp only
  split <;> simp [State.KeepsClock]

@[simp] theorem edgeCatch_keepsClock (x : EdgeIn) (s : State) :
    (edgeCatch x s).KeepsClock s := by
  unfold edgeCatch
  dsimp only
  split <;> simp [State.KeepsClock, (foldl_keepsClock ..)]

@[simp] theorem edgeSeal_keepsClock (p : EdgePlan) (s : State) :
    (edgeSeal p s).KeepsClock s := by
  unfold edgeSeal
  (repeat' split) <;> simp [State.KeepsClock, (foldl_keepsClock ..)]

end Sys2Proof.Machine
end

section
/-! PROOFS. What an occurrence leaves of the recorder: its times, its power cycle, and whether it runs (R428). -/
namespace Sys2Proof.Machine

/-! ### The operating time (R428) -/

/-- A recorder keeps the operating time of another, the time saved, the number of power cycles, and whether it runs. -/
abbrev Evr.KeepsTime (t e : Evr) : Prop :=
  t.opTime = e.opTime ∧ t.opFrac = e.opFrac ∧ t.opSaved = e.opSaved ∧ t.cycles = e.cycles ∧ t.running = e.running

theorem foldl_keepsTime {α : Type} (f : State → α → State) (h : ∀ s x, (f s x).evr.KeepsTime s.evr) (l : List α) (s : State) :
    (l.foldl f s).evr.KeepsTime s.evr :=
  List.foldlRecOn (motive := fun t => t.evr.KeepsTime s.evr) l f ⟨rfl, rfl, rfl, rfl, rfl⟩ (fun t ht x _ => by
    obtain ⟨h1, h2, h3, h4, h5⟩ := h t x
    simp only [Evr.KeepsTime, h1, h2, h3, h4, h5]
    exact ht)

@[simp] theorem newRecord_keepsTime (brace : Bool) (trust cal : Nat) (o : Occ) (repeats : Nat) (folded : Bool) (e : Evr) :
    (newRecord brace trust cal o repeats folded e).KeepsTime e := by
  unfold newRecord moveStart
  dsimp only
  (repeat' split) <;> simp [Evr.KeepsTime]

@[simp] theorem writeRecord_keepsTime (brace : Bool) (trust cal : Nat) (o : Occ) (repeats : Nat) (folded : Bool) (e : Evr) :
    (writeRecord brace trust cal o repeats folded e).KeepsTime e := by
  unfold writeRecord
  dsimp only
  split <;> simp [Evr.KeepsTime]

@[simp] theorem enterOcc_keepsTime (brace : Bool) (trust cal : Nat) (o : Occ) (e : Evr) :
    (enterOcc brace trust cal o e).KeepsTime e := by
  unfold enterOcc foldInto mergeHead
  dsimp only
  (repeat' split) <;> simp [Evr.KeepsTime]

@[simp] theorem record_keepsTime (o : Occ) (s : State) : (record_ o s).evr.KeepsTime s.evr := by
  unfold record_
  split <;> simp [Evr.KeepsTime]

theorem noteArbBy_keepsTime {note : Occ → State → State} (hnote : ∀ o s, (note o s).evr.KeepsTime s.evr) (m : Marzin)
    (dropped full : Bool) (s : State) : (noteArbBy note m dropped full s).evr.KeepsTime s.evr := by
  unfold noteArbBy
  dsimp only
  (repeat' split) <;> simp [Evr.KeepsTime, hnote]

theorem forwardBy_keepsTime {note : Occ → State → State} (hnote : ∀ o s, (note o s).evr.KeepsTime s.evr) (before : Nat)
    (s : State) : (forwardBy note before s).evr.KeepsTime s.evr := by
  have hstep (s : State) (r : EvRecord) : (if r.severity ≥ f8 (hieRec s.drw.image) 43 then
      ownUpBy note r.drawer false (.event (recordBytes r) r.recno) s else s).evr.KeepsTime s.evr := by
    unfold ownUpBy sendUpBy
    (repeat' split) <;> simp [Evr.KeepsTime, noteArbBy_keepsTime hnote]
  unfold forwardBy
  split
  · exact foldl_keepsTime _ hstep _ s
  · simp [Evr.KeepsTime]

/-- An occurrence that is raised takes no time. -/
@[simp] theorem raise_keepsTime (o : Occ) (s : State) : (raise o s).evr.KeepsTime s.evr := by
  have hraise (fuel : Nat) : ∀ (o : Occ) (s : State), (raiseBy fuel o s).evr.KeepsTime s.evr := by
    induction fuel with
    | zero => exact record_keepsTime
    | succ n ih =>
      intro o s
      unfold raiseBy
      split
      · simp [Evr.KeepsTime]
      · simp [Evr.KeepsTime, forwardBy_keepsTime ih]
  exact hraise 66 o s

@[simp] theorem notice_keepsTime (kind value : Nat) (s : State) : (notice kind value s).evr.KeepsTime s.evr := by
  unfold notice ownUp ownUpBy sendUpBy
  split <;> simp [Evr.KeepsTime, noteArbBy_keepsTime raise_keepsTime]

@[simp] theorem setCause_keepsTime (i : Nat) (s : State) : (setCause i s).evr.KeepsTime s.evr := by
  unfold setCause
  split <;> simp [Evr.KeepsTime]

@[simp] theorem jigSample_keepsTime (s : State) : (jigSample s).evr.KeepsTime s.evr := by
  simp [Evr.KeepsTime, jigSample, (foldl_keepsTime ..)]

@[simp] theorem drainBuffer_keepsTime (s : State) : (drainBuffer s).evr.KeepsTime s.evr := by
  unfold drainBuffer
  dsimp only
  split <;> simp [Evr.KeepsTime]

end Sys2Proof.Machine
end

section
/-! PROOFS. The end of a load, and tick edges (R28, R51, R65, R99 to R101, R109, R391, R545, R546). -/
namespace Sys2Proof.Machine

/-! ### A reset at an edge (R61) -/

/-- A reset of a module that is not off holds it. -/
theorem assertReset_boot (i : Nat) {s : State} (h : s.sys.boot ≠ .off) : (assertReset i s).sys.boot = .held := by
  unfold assertReset
  rw [if_neg h]
  split
  · assumption
  · dsimp only
    split <;> simp [resetBlocks, resetSys]

/-- An edge has ended in a reset, or has left the tick number, the edge count and the stage of the boot. -/
def HeldOrKept (s t : State) : Prop := t.sys.boot = .held ∨ t.KeepsClock s

theorem HeldOrKept.of_keeps {s t u : State} (h : t.KeepsClock s) (hu : HeldOrKept t u) : HeldOrKept s u := by
  rcases hu with hheld | ⟨htn, hedges, hboot⟩
  · exact .inl hheld
  · exact .inr ⟨htn.trans h.1, hedges.trans h.2.1, hboot.trans h.2.2⟩

theorem HeldOrKept.keeps {s t u : State} (h : HeldOrKept s t) (hu : u.KeepsClock t) : HeldOrKept s u := by
  rcases h with hheld | hkept
  · exact .inl (hu.2.2.trans hheld)
  · exact .of_keeps hkept (.inr hu)

/-- What one cycle of occurrences makes of a function that ends in a reset or keeps the clock. -/
theorem sameCycle_heldOrKept {f : State → State} (h : ∀ s, s.sys.boot = .loaded → HeldOrKept s (f s)) {s : State}
    (hs : s.sys.boot = .loaded) : HeldOrKept s (sameCycle f s) := by
  obtain ⟨e, he⟩ := sameCycle_reads (fun s => (s.stk, s.sys)) (by simp) (fun _ _ => rfl) f s
  obtain ⟨hstk, hsys⟩ := Prod.mk.inj he
  have hf := h { s with evr := e } hs
  unfold HeldOrKept State.KeepsClock at hf ⊢
  rwa [hstk, hsys]

theorem doRollback_heldOrKept {s : State} (hs : s.sys.boot = .loaded) : HeldOrKept s (doRollback s) := by
  unfold doRollback
  split
  · exact .inr ⟨rfl, rfl, rfl⟩
  · dsimp only
    split
    · exact .inr (by simp [State.KeepsClock])
    · exact .inl (assertReset_boot 5 (by simp [hs]))

theorem edgeUpdate_heldOrKept (p : EdgePlan) {s : State} (hs : s.sys.boot = .loaded) : HeldOrKept s (edgeUpdate p s) := by
  have hback : HeldOrKept s (if p.back then doRollback s else s) := by
    split
    · exact doRollback_heldOrKept hs
    · exact .inr ⟨rfl, rfl, rfl⟩
  unfold edgeUpdate
  dsimp only
  split
  · exact hback.keeps (doSwitch_keepsClock _)
  · exact hback

theorem edgeAfter_heldOrKept (x : EdgeIn) (p : EdgePlan) {s : State} (hs : s.sys.boot = .loaded) :
    HeldOrKept s (edgeAfter x p s) := by
  have hclock : (noteVstore (edgeCheckpoint (edgeOutputs x s))).KeepsClock s := by simp [State.KeepsClock]
  have hupdate : HeldOrKept s (edgeUpdate p (noteVstore (edgeCheckpoint (edgeOutputs x s)))) :=
    .of_keeps hclock (edgeUpdate_heldOrKept p (hclock.2.2.trans hs))
  unfold edgeAfter
  dsimp only
  split
  · exact hupdate
  · refine hupdate.keeps ?_
    (repeat' split) <;> simp [State.KeepsClock]

/-- An edge with an image in force ends in a reset, or leaves the clock that it began with. -/
theorem edgeRun_heldOrKept (x : EdgeIn) {s : State} (hs : s.sys.boot = .loaded) : HeldOrKept s (edgeRun x s) := by
  have hbegin := sameCycle_keepsClock (f := fun s' => edgeBegin x (edgePlan s) (edgeLatch x s')) (fun s' => by simp [State.KeepsClock]) s
  have hcommit := sameCycle_keepsClock
    (f := fun s' => edgeCommit x (edgePlan s) (edgeInputs (edgePlan s).first (aioEnded s.stk.tn s.stk.edges s) s'))
    (fun s' => by simp [State.KeepsClock]) (sameCycle (fun s' => edgeBegin x (edgePlan s) (edgeLatch x s')) s)
  have hboot := hcommit.2.2.trans (hbegin.2.2.trans hs)
  refine .of_keeps hbegin (.of_keeps hcommit ?_)
  unfold edgeRun
  dsimp only
  split
  · exact .inl (assertReset_boot _ (by simp [hboot]))
  · have hseal := sameCycle_keepsClock (edgeSeal_keepsClock (edgePlan s)) (sameCycle (fun s' => edgeCommit x (edgePlan s)
      (edgeInputs (edgePlan s).first (aioEnded s.stk.tn s.stk.edges s) s')) (sameCycle (fun s' => edgeBegin x (edgePlan s) (edgeLatch x s')) s))
    have hafter := HeldOrKept.of_keeps hseal (sameCycle_heldOrKept (fun _ => edgeAfter_heldOrKept x (edgePlan s)) (hseal.2.2.trans hboot))
    split
    · exact hafter
    · exact hafter.keeps (by simp [State.KeepsClock])

/-! ### The end of a load (R99 to R101) -/

theorem loadCheck_coded {s : State} {b : Bool} {f : Finding} (h : loadCheck s b = some f) : f.1 ≠ 0 :=
  coded_checkImage _ _ f h

theorem refuseSlot_drw (f : Finding) (s : State) :
    (refuseSlot f s).drw.fail = f.1 ∧ (refuseSlot f s).drw.image = s.drw.image := by
  unfold refuseSlot
  dsimp only
  split <;> simp [loadEvent]

theorem runtimeFailed_drw (code : Nat) (b : Bool) (s : State) :
    (runtimeFailed code b s).drw.fail = code ∧ (runtimeFailed code b s).drw.image = s.drw.image := by
  simp [runtimeFailed, loadEvent]

/-- The end of a try in which no slot loads: the load has failed with a code, and the image stands as before. -/
theorem trySlots_failed (s : State) : (trySlots s).1 = false →
    (trySlots s).2.drw.load = 3 ∧ (trySlots s).2.drw.fail ≠ 0 ∧ (trySlots s).2.drw.image = s.drw.image := by
  unfold trySlots
  split
  case h_1 => exact fun h => by cases h
  case h_2 f hf =>
    dsimp only
    split
    · exact fun _ => ⟨rfl, by simp [loadFailed, refuseSlot_drw, loadCheck_coded hf], by simp [loadFailed, refuseSlot_drw]⟩
    · split
      case isTrue hruntime =>
        exact fun _ => ⟨rfl, by simpa [loadFailed, runtimeFailed_drw] using hruntime, by
          simp [loadFailed, runtimeFailed_drw, refuseSlot_drw]⟩
      · split
        case h_1 => exact fun h => by cases h
        case h_2 g hg =>
          exact fun _ => ⟨rfl, by simp [loadFailed, refuseSlot_drw, loadCheck_coded hg], by simp [loadFailed, refuseSlot_drw]⟩

theorem jigCopyFailed_ends (s : State) :
    (jigCopyFailed s).sys.boot = .loaded ∧ (jigCopyFailed s).drw.load = 3 ∧ (jigCopyFailed s).drw.fail = 11 := by
  simp [jigCopyFailed, loadFailed, refuseSlot_drw]

theorem loadDone_ends (s : State) :
    (loadDone s).sys.boot = .loaded ∧ (loadDone s).drw.load = 2 ∧ (loadDone s).drw.fail = 0 := by
  have htry (s : State) : (tryRun s).sys.boot = s.sys.boot := by
    unfold tryRun
    split <;> simp
  unfold loadDone
  dsimp only
  split <;> simp [htry, loadEvent]

/-- A load whose slot passed ends with an image in force, or with code 11. -/
theorem loadTables_ends (j : Nat) (ok : Bool) (bad : List Nat) (hot : List HotReplay) (s : State) :
    (loadTables j ok bad hot s).sys.boot = .loaded ∧
    ((loadTables j ok bad hot s).drw.load = 2 ∧ (loadTables j ok bad hot s).drw.fail = 0 ∨
      (loadTables j ok bad hot s).drw.load = 3 ∧ (loadTables j ok bad hot s).drw.fail = 11) := by
  unfold loadTables
  dsimp only
  split
  · exact ⟨(jigCopyFailed_ends _).1, .inr (jigCopyFailed_ends _).2⟩
  · exact ⟨(loadDone_ends _).1, .inl (loadDone_ends _).2⟩

/-! ### How an edge begins (R28, R109, R428) -/

/-- What every edge does before it looks at the mode: time, measurements, the rules that fire. -/
def edgeHead (x : EdgeIn) (s : State) : State := jigSample (edgeMeasure x (edgeTime s))

theorem exec_tickEdge {s : State} (x : EdgeIn) (h : s.sys.boot = .clocked ∨ s.sys.boot = .tested ∨ s.sys.boot = .loaded) :
    exec (.tickEdge x) s =
      let t := if (edgeHead x s).drw.load = 2 && (edgeHead x s).sys.mode ≠ .rigging then edgeRun x (edgeHead x s)
        else edgeIdle (edgeHead x s)
      .next (if t.sys.boot = .held then t else drainBuffer t) := by
  change execTickEdge x s = _
  rw [execTickEdge, if_neg (by rcases h with h | h | h <;> simp [h])]
  rfl

theorem setCause_sys (i : Nat) (s : State) : (setCause i s).sys = { s.sys with replace := (setCause i s).sys.replace } := by
  unfold setCause
  split <;> simp

/-- The edge begins without a change of the mode, of what waits for it, or of the stage of the boot. -/
theorem edgeHead_sys (x : EdgeIn) (s : State) :
    let t := edgeHead x s
    t.sys.boot = s.sys.boot ∧ t.sys.mode = s.sys.mode ∧ t.sys.haltReq = s.sys.haltReq ∧ t.sys.resetReq = s.sys.resetReq := by
  have hcause (i : Nat) (s : State) : (setCause i s).sys.boot = s.sys.boot ∧ (setCause i s).sys.mode = s.sys.mode ∧
      (setCause i s).sys.haltReq = s.sys.haltReq ∧ (setCause i s).sys.resetReq = s.sys.resetReq := by
    rw [setCause_sys]
    exact ⟨rfl, rfl, rfl, rfl⟩
  simp only [edgeHead, (jigSample_frame ..), edgeMeasure]
  split <;> simp [hcause, noteTemp]

theorem edgeTime_noJoin {s : State} (h : s.ptp.join = none) :
    (edgeTime s).stk = { s.stk with tn := (s.stk.tn + 1) % 2 ^ 64, edges := s.stk.edges + 1 } ∧ (edgeTime s).aio = s.aio ∧
    (edgeTime s).evr = opStep s.evr := by
  simp [edgeTime, joinEdge, h]

/-- A tick is 32/125 of the unit of the operating time. -/
theorem opStep_time (e : Evr) : 125 * (opStep e).opTime + (opStep e).opFrac = 125 * e.opTime + e.opFrac + 32 := by
  unfold opStep
  split <;> dsimp only <;> omega

theorem edgeMeasure_keepsTime (x : EdgeIn) (s : State) : (edgeMeasure x s).evr.KeepsTime s.evr := by
  unfold edgeMeasure
  dsimp only
  split <;> simp [Evr.KeepsTime]

theorem edgeHead_keepsTime (x : EdgeIn) {s : State} (h : s.ptp.join = none) : (edgeHead x s).evr.KeepsTime (opStep s.evr) := by
  simp [Evr.KeepsTime, edgeHead, edgeMeasure_keepsTime, edgeTime_noJoin h]

/-! ### An edge in RIGGING, or without an image in force (R51, R545, R546) -/

theorem edgeIdle_passes {s : State} (hmode : s.sys.mode ≠ .debug) (hhalt : s.sys.haltReq = false) : edgeIdle s = s := by
  unfold edgeIdle
  dsimp only
  rw [if_pos (by simp [hmode, hhalt])]

theorem enterDebug_sys (s : State) : (enterDebug s).sys.mode = .debug ∧ (enterDebug s).sys.haltReq = false := by
  have hhold (s : State) : ((List.range 16).foldl (fun (s : State) c => holdFree c 5 s) s).sys = s.sys :=
    foldl_keep (fun s => s.sys) _ (by simp) _ s
  have hmode (s : State) : (enterMode .debug s).sys.mode = .debug ∧ (enterMode .debug s).sys.haltReq = s.sys.haltReq := by
    simp [enterMode]
  simp only [enterDebug, dbgEvent, (raise_frame ..), (modDbg_frame ..), hhold, hmode, true_and]
  split <;> simp

@[simp] theorem debugMark_dbg (entered step : Bool) (s : State) : (debugMark entered step s).dbg = { s.dbg with wrote := false } := by
  unfold debugMark
  dsimp only
  split <;> simp [modDbg]

/-- The probe's halt takes effect at the edge (R51, R545). -/
theorem edgeIdle_halts {s : State} (hmode : s.sys.mode ≠ .debug) (hhalt : s.sys.haltReq = true)
    (hreset : s.sys.resetReq = false) (hexit : s.dbg.exitDue = false) :
    (edgeIdle s).sys.mode = .debug ∧ (edgeIdle s).sys.haltReq = false ∧ (edgeIdle s).KeepsClock s := by
  have hnone : resetDue (closeRecord (openRecord (!tickLocked s) (debugMark true false s))) = none := by
    simp [resetDue, hreset, hexit]
  have hidle : edgeIdle s =
      edgeRing (stepCheck (enterDebug (closeRecord (openRecord (!tickLocked s) (debugMark true false s))))) := by
    unfold edgeIdle
    simp only [hmode, hhalt, ne_eq, not_false_eq_true, decide_true, Bool.and_true, Bool.not_true, Bool.false_and, Bool.false_eq_true,
      if_false, decide_false, if_true, hnone]
  rw [hidle]
  simp [enterDebug_sys, State.KeepsClock]

theorem beginStep_stepDue (s : State) : (beginStep s).dbg.stepDue = false := by
  simp [beginStep, dbgEvent, (foldl_keep (fun s => s.dbg) ..), modDbg]

theorem assertReset_stepDue (i : Nat) {s : State} (h : s.dbg.stepDue = false) : (assertReset i s).dbg.stepDue = false := by
  unfold assertReset
  dsimp only
  (repeat' split) <;> simp [h, resetBlocks]

/-- A step that is due in DEBUG is taken at the edge (R546). -/
theorem edgeIdle_steps {s : State} (hmode : s.sys.mode = .debug) (hdue : s.dbg.stepDue = true) :
    (edgeIdle s).dbg.stepDue = false := by
  unfold edgeIdle
  dsimp only
  rw [if_neg (by simp [hmode]), if_pos (by simp [hmode, hdue])]
  split
  · exact assertReset_stepDue _ (by simp [beginStep_stepDue])
  · rw [if_neg (by simp [hmode])]
    have hcheck (s : State) : (stepCheck s).dbg.stepDue = s.dbg.stepDue := by
      unfold stepCheck
      split <;> rfl
    simp [hcheck, beginStep_stepDue]

/-! ### The obligation -/

/-- A load from a tested boot tries the slots. -/
theorem exec_carcassLoadDone_tries (j : Nat) (ok : Bool) (bad : List (Fin 64)) (hot : List HotReplay) {s : State}
    (hboot : s.sys.boot = .tested) (htamper : s.sys.tamperHold = false) (hlc : s.key.lc ≠ 4) (hload : s.drw.load ≠ 3) :
    exec (.carcassLoadDone j ok bad hot) s =
      if (trySlots s).1 then .next (sameCycle (loadTables j ok (bad.map (·.val)) hot) (trySlots s).2)
      else .next { (trySlots s).2 with sys := { (trySlots s).2.sys with boot := .loaded } } := by
  change execCarcassLoadDone j ok bad hot s = _
  rw [execCarcassLoadDone, if_neg (by simp [hboot, htamper, hlc]), if_neg hload]

/-- An edge in RIGGING, or without an image in force, is `edgeIdle`. -/
theorem exec_tickEdge_idle (x : EdgeIn) {s : State} (hboot : s.sys.boot = .clocked ∨ s.sys.boot = .tested ∨ s.sys.boot = .loaded)
    (hidle : s.drw.load ≠ 2 ∨ s.sys.mode = .rigging) :
    exec (.tickEdge x) s = .next (if (edgeIdle (edgeHead x s)).sys.boot = .held then edgeIdle (edgeHead x s)
      else drainBuffer (edgeIdle (edgeHead x s))) := by
  obtain ⟨-, hmode, -, -⟩ := edgeHead_sys x s
  have hload : (edgeHead x s).drw.load = s.drw.load := by simp [edgeHead]
  rw [exec_tickEdge x hboot, if_neg (by rcases hidle with h | h <;> simp [hmode, hload, h])]

/-- Settles O54: the load by `trySlots_failed` and `loadTables_ends`, the edges by what they begin with and `edgeRun_heldOrKept`. -/
theorem loadEndsAndIdleEdges : Obligations.LoadEndsAndIdleEdges := by
  unfold Obligations.LoadEndsAndIdleEdges
  refine ⟨fun j ok bad hot s h => if_pos (by rcases h with h | h | h <;> simp [h]),
    fun j ok bad hot s hboot htamper hlc hload => (if_neg (by simp [hboot, htamper, hlc])).trans (if_pos hload),
    fun j ok bad hot s hboot htamper hlc hload => ?_, fun x s h => if_pos (by rcases h with h | h | h <;> simp [h]),
    fun x s hboot hidle hmode hhalt hjoin => ?_, fun x s hboot hidle hmode hhalt hjoin hreset hexit => ?_,
    fun x s hboot hload hmode hdue => ?_, fun x s hboot hload hmode hjoin => ?_⟩
  · rw [exec_carcassLoadDone_tries j ok bad hot hboot htamper hlc hload]
    split
    · obtain ⟨e, he⟩ := sameCycle_reads (fun s => (s.sys.boot, s.drw)) (by simp) (fun _ _ => rfl)
        (loadTables j ok (bad.map (·.val)) hot) (trySlots s).2
      obtain ⟨hsys, hdrw⟩ := Prod.mk.inj he
      obtain ⟨hloaded, hend⟩ := loadTables_ends j ok (bad.map (·.val)) hot { (trySlots s).2 with evr := e }
      exact ⟨_, rfl, hsys.trans hloaded, hdrw ▸ hend⟩
    · obtain ⟨hthree, hfail, himage⟩ := trySlots_failed s (by simpa using ‹¬ (trySlots s).1 = true›)
      exact ⟨_, rfl, rfl, hthree, hfail, himage, by simp, by simp, State.eq_of_fields (by simp [State.OnlyFreshEvrHie]) rfl rfl rfl⟩
  · obtain ⟨hboot', hmode', hhalt', -⟩ := edgeHead_sys x s
    obtain ⟨hstk, haio, hevr⟩ := edgeTime_noJoin hjoin
    have hpasses : edgeIdle (edgeHead x s) = edgeHead x s := edgeIdle_passes (hmode' ▸ hmode) (hhalt'.trans hhalt)
    refine ⟨drainBuffer (edgeHead x s), ?_, ?_, ?_, drainBuffer_buffer _, ?_, ?_⟩
    · rw [exec_tickEdge_idle x hboot hidle, hpasses, if_neg (by rw [hboot']; rcases hboot with h | h | h <;> simp [h])]
    · simpa [edgeHead] using hstk
    · simpa using hmode'
    · obtain ⟨htime, hfrac, -⟩ := edgeHead_keepsTime x hjoin
      rw [(drainBuffer_keepsTime _).1, (drainBuffer_keepsTime _).2.1, htime, hfrac, opStep_time]
    · exact State.eq_of_fields (by simp [State.OnlyFreshEvrHie, edgeHead, haio]) rfl rfl rfl
  · obtain ⟨hboot', hmode', hhalt', hreset'⟩ := edgeHead_sys x s
    obtain ⟨hstk, -, -⟩ := edgeTime_noJoin hjoin
    obtain ⟨hdebug, hdone, -, hedges, hkept⟩ := edgeIdle_halts (s := edgeHead x s) (hmode' ▸ hmode) (hhalt'.trans hhalt)
      (hreset'.trans hreset) (by simpa [edgeHead] using hexit)
    refine ⟨drainBuffer (edgeIdle (edgeHead x s)), ?_, by simpa using hdebug, by simpa using hdone, ?_, by simp [edgeHead]⟩
    · rw [exec_tickEdge_idle x hboot hidle, if_neg (by rw [hkept, hboot']; rcases hboot with h | h | h <;> simp [h])]
    · simpa [edgeHead, hstk] using hedges
  · obtain ⟨-, hmode', -, -⟩ := edgeHead_sys x s
    have htaken := edgeIdle_steps (s := edgeHead x s) (hmode'.trans hmode) (by simpa [edgeHead] using hdue)
    refine ⟨_, exec_tickEdge_idle x hboot (.inl hload), ?_, ?_⟩
    · split <;> simp [htaken]
    · split <;> simp [edgeHead]
  · obtain ⟨hboot', hmode', -, -⟩ := edgeHead_sys x s
    obtain ⟨hstk, -, -⟩ := edgeTime_noJoin hjoin
    have hstk' : (edgeHead x s).stk = { s.stk with tn := (s.stk.tn + 1) % 2 ^ 64, edges := s.stk.edges + 1 } := by
      simpa [edgeHead] using hstk
    have hload' : (edgeHead x s).drw.load = 2 := by simpa [edgeHead] using hload
    have hrun := edgeRun_heldOrKept x (hboot'.trans hboot)
    have hexec : exec (.tickEdge x) s = .next (if (edgeRun x (edgeHead x s)).sys.boot = .held then edgeRun x (edgeHead x s)
        else drainBuffer (edgeRun x (edgeHead x s))) := by
      rw [exec_tickEdge x (.inr (.inr hboot)), if_pos (by simp [hload', hmode', hmode])]
    refine ⟨_, hexec, ?_, ?_⟩
    · split <;> simp [edgeHead]
    · rcases hrun with hheld | ⟨htn, hedges, -⟩
      · exact .inl (by rw [if_pos hheld, hheld])
      · rw [hstk'] at htn hedges
        split
        case isTrue hheld => exact .inl hheld
        case isFalse => exact .inr ⟨by simpa using htn, by simpa using hedges⟩

end Sys2Proof.Machine
end

section
/-! PROOFS. What a reset leaves (R33, R61, R62, R75), for O3. -/
namespace Sys2Proof.Machine

/-- The capture of the RTC count at a reset touches no cause that waits. -/
@[simp] theorem dueCauses_captureRtc (s : State) : dueCauses (captureRtc s) = dueCauses s := by
  simp [dueCauses, captureRtc_frame]

/-- A running module that is reset, written out: the blocks at their reset state, with an update event where a shadow was
cut short, and the outputs settled. -/
theorem assertReset_running (i : Nat) (s : State) (hoff : s.sys.boot ≠ .off) (hheld : s.sys.boot ≠ .held) :
    ∃ n, let c := captureRtc s
      let r := { resetBlocks (bset (dueCauses s) i) (if s.sys.dueFirst = 0 then i + 1 else s.sys.dueFirst) c with fresh := n }
      assertReset i s = settleOutputs (if shadowing c.upd then updEvent 0xE00A 6 r else r) := by
  refine ⟨(captureRtc s).fresh + bit (captureRtc s).key.fusing.isSome, ?_⟩
  simp [assertReset, if_neg hoff, if_neg hheld, captureRtc_frame]

/-- The event of the cut shadow and the outputs that settle change no block that `ResetLeaves` speaks of. -/
theorem assertReset_leaves (i : Nat) (s : State) (hoff : s.sys.boot ≠ .off) (hheld : s.sys.boot ≠ .held) :
    ResetLeaves i s (assertReset i s) := by
  obtain ⟨n, h⟩ := assertReset_running i s hoff hheld
  rw [h]
  refine ⟨?_, ?_, ?_, ?_, ?_, ?_, ?_, ?_, ?_, ?_, ?_, ?_, ?_, ?_⟩ <;>
    simp [settleOutputs_frame, updEvent_frame, captureRtc_frame, resetBlocks, resetSys, ↓ite_fields]

/-- Where no commit takes place a service reset acts at once (R75). -/
theorem serviceReset_atOnce (s : State) (h : s.sys.mode = .rigging ∨ s.sys.mode = .hold) :
    serviceReset s = assertReset 5 s := by
  obtain h | h := h <;> simp [serviceReset, h]

/-- Where commits take place a service reset waits for the close of the next one (R75). -/
theorem serviceReset_waits (s : State) (h : s.sys.mode = .run ∨ s.sys.mode = .degraded) :
    serviceReset s = { s with sys := { s.sys with
      resetReq := true, dueFirst := if s.sys.dueFirst = 0 then 6 else s.sys.dueFirst } } := by
  obtain h | h := h <;> simp [serviceReset, h]

/-- A write of the key to SYS_RESET_REQ is a service reset. -/
theorem exec_serviceReset_key (s : State) : exec (.serviceReset 0x5E7A0001) s = .next (serviceReset s) :=
  congrArg Host.Outcome.next (if_pos rfl)

theorem testBit_bset_self (m i : Nat) : (bset m i).testBit i = true := by
  simp [bset, Nat.testBit_or, Nat.testBit_two_pow_self]

/-- Settles O3: the four causes that act at once go through `assertReset`, whose result is written out once; the loss of
power takes the same reset and then all that VSYS feeds. -/
theorem resetCauses : Obligations.ResetCauses := by
  refine ⟨fun s hoff hheld => ⟨_, rfl, assertReset_leaves 2 s hoff hheld⟩,
    fun s hoff hheld => ⟨_, rfl, assertReset_leaves 3 s hoff hheld⟩,
    fun s hoff hheld => ⟨_, rfl, assertReset_leaves 4 s hoff hheld⟩,
    fun s hoff hheld hmode => ⟨_, by rw [exec_serviceReset_key, serviceReset_atOnce s hmode],
      assertReset_leaves 5 s hoff hheld⟩,
    fun s hmode => by rw [exec_serviceReset_key, serviceReset_waits s hmode],
    fun v s hv => congrArg Host.Outcome.next (if_neg hv),
    fun s hoff => ⟨losePower s, if_neg hoff, ?_⟩⟩
  obtain ⟨hpending, hmem, -⟩ := losePower_keeps s
  exact ⟨rfl, rfl, testBit_bset_self _ 1, rfl, rfl, rfl, hmem, hpending⟩

end Sys2Proof.Machine
end

section
/-! PROOFS. The stages of a power-up (R46, R62, R64, R65, R203, R225, R397, R428), for O1. -/
namespace Sys2Proof.Machine

/-! ### The release of reset (R62, R428) -/

@[simp] theorem canaryTry_keepsTime (s : State) : (canaryTry s).evr.KeepsTime s.evr := by
  unfold canaryTry canaryCheck
  dsimp only
  (repeat' split) <;> simp [Evr.KeepsTime, modRtc, clearTamperBak]

@[simp] theorem keyEvent_keepsTime (code detail : Nat) (s : State) : (keyEvent code detail s).evr.KeepsTime s.evr :=
  raise_keepsTime _ s

@[simp] theorem showTable_lc (s : State) : (showTable s).key.lc = s.key.lc := rfl

@[simp] theorem shipTables_lc (s : State) : (shipTables s).key.lc = s.key.lc := by
  unfold shipTables
  split <;> rfl

@[simp] theorem drawNonce_fuses (s : State) : (drawNonce s).key.fuses = s.key.fuses := by
  unfold drawNonce
  split <;> rfl

@[simp] theorem keyEvent_key (code detail : Nat) (s : State) : (keyEvent code detail s).key = s.key := by simp

@[simp] theorem keyRelease_keepsTime (s : State) : (keyRelease s).evr.KeepsTime s.evr := by
  unfold keyRelease
  dsimp only
  (repeat' split) <;> simp [Evr.KeepsTime]

/-- At a reset release the key core takes the life-cycle state from the fuses (R460). -/
theorem keyRelease_lc (s : State) : (keyRelease s).key.lc = lcOf s.key.fuses := by
  unfold keyRelease
  dsimp only
  (repeat' split) <;> simp [modKey]

theorem resetRelease_stage (lost : ReleaseIn) (torn : Bool) (s : State) (h : s.sys.boot = .held) :
    ∃ t, exec (.resetRelease lost torn) s = .next t ∧ t.sys.boot = .released ∧
      t.evr.cycles = (s.evr.cycles + 1) % 2 ^ 32 ∧ t.evr.opTime = s.evr.opSaved + 1024 ∧
      t.key.lc = lcOf s.key.fuses ∧ t.key.fuses = s.key.fuses ∧ t.mem = s.mem ∧ t.stk = s.stk ∧ t.wke = s.wke := by
  refine ⟨_, if_pos h, ?_⟩
  dsimp only
  (repeat' split) <;> simp [keyRelease_lc, evrRelease, modRtc]

/-! ### The configuration read of the matrix (R225) -/

theorem settleOutputs_config (s : State) :
    (settleOutputs s).jig.active = s.jig.active ∧ (settleOutputs s).jig.readDue = s.jig.readDue ∧
    (settleOutputs s).jig.matrix = s.jig.matrix ∧ (settleOutputs s).jig.scrubFail = s.jig.scrubFail ∧
    (settleOutputs s).jig.adoptDue = s.jig.adoptDue ∧ (settleOutputs s).jig.where_ = s.jig.where_ := by
  have h : (settleOutputs s).jig = (evalMatrix s).jig := by simp [settleOutputs, driveOutputs_frame]
  rw [h]
  unfold evalMatrix
  split <;> simp

/-- The matrix after a read of its configuration, before it takes the copy. -/
def jigRead (flips : List (Nat × Byte)) (s : State) : Jig :=
  { spoilCopy flips s.jig with
    readDue := false, active := true, adoptDue := false, scrubFail := false, where_ := 0, cycles := 0,
    latch := adoptedLatches (spoilCopy flips s.jig) }

/-- A configuration read that is due, written out: no copy, a copy that passes its check, a copy that fails it (R225). -/
theorem exec_jigConfigRead_due (flips : List (Nat × Byte)) {s : State} (hboot : s.sys.boot ≠ .off)
    (hdue : s.jig.readDue = true) :
    let c := jigCopy (spoilCopy flips s.jig)
    let taken := settleOutputs { s with jig := { jigRead flips s with matrix := c.body } }
    exec (.jigConfigRead flips) s =
      if c.body = [] then .next taken
      else if copyOk c then .next (if s.jig.adoptDue then noteAdopted taken else taken)
      else .next (settleOutputs (reportRead { s with jig := { jigRead flips s with
        matrix := [], scrubFail := true, where_ := 1 } })) := by
  refine (if_neg (by simp [hboot, hdue])).trans ?_
  by_cases hbody : (jigCopy (spoilCopy flips s.jig)).body = []
  · simp only [hbody, List.isEmpty_nil, ↓reduceIte]
    rfl
  · simp only [hbody, List.isEmpty_iff, ↓reduceIte]
    rfl

/-- A matrix that settles on a state keeps all but its own block and the outputs. -/
theorem settleOutputs_eq (s : State) :
    settleOutputs s = { s with jig := (settleOutputs s).jig, dio := (settleOutputs s).dio } :=
  State.eq_of_fields (by simp [State.OnlyFreshEvrHie]) (by simp) (by simp) (by simp)

@[simp] theorem reportRead_jig (s : State) : (reportRead s).jig.active = s.jig.active ∧
    (reportRead s).jig.readDue = s.jig.readDue ∧ (reportRead s).jig.matrix = s.jig.matrix ∧
    (reportRead s).jig.scrubFail = s.jig.scrubFail ∧ (reportRead s).jig.where_ = s.jig.where_ := by
  unfold reportRead
  split <;> simp

theorem jigConfigRead_stage (flips : List (Nat × Byte)) (s : State) (hboot : s.sys.boot ≠ .off)
    (hdue : s.jig.readDue = true) :
    let c := jigCopy (spoilCopy flips s.jig)
    ∃ t, exec (.jigConfigRead flips) s = .next t ∧ t.jig.active = true ∧ t.jig.readDue = false ∧
      (c.body = [] ∨ copyOk c = true → t.jig.matrix = c.body ∧ t.jig.scrubFail = false ∧ t.jig.adoptDue = false ∧
        (c.body = [] ∨ s.jig.adoptDue = false → t = { s with jig := t.jig, dio := t.dio })) ∧
      (c.body ≠ [] → copyOk c = false → t.jig.matrix = [] ∧ t.jig.scrubFail = true ∧ t.jig.where_ = 1) ∧
      t.stk = s.stk ∧ t.wke = s.wke ∧ t.mem = s.mem := by
  dsimp only
  rw [exec_jigConfigRead_due flips hboot hdue]
  obtain ⟨hactive, hread, hmatrix, hfail, hadopt, -⟩ := settleOutputs_config
    { s with jig := { jigRead flips s with matrix := (jigCopy (spoilCopy flips s.jig)).body } }
  split
  · next hbody =>
    exact ⟨_, rfl, hactive, hread, fun _ => ⟨hmatrix, hfail, hadopt, fun _ => settleOutputs_eq _⟩,
      fun hne => absurd hbody hne, by simp⟩
  · next hbody =>
    split
    · next hok =>
      refine ⟨_, rfl, ?_⟩
      split
      · next hadopting => simp [noteAdopted, settleOutputs_config, jigRead, hbody, hok, hadopting]
      · exact ⟨hactive, hread, fun _ => ⟨hmatrix, hfail, hadopt, fun _ => settleOutputs_eq _⟩,
          fun _ hbad => absurd hok (by simp [hbad]), by simp⟩
    · next hbad =>
      refine ⟨_, rfl, ?_⟩
      simp [settleOutputs_config, hbody, hbad, jigRead]

/-! ### The lock of the PLL (R46, R65, R397) -/

/-- The recorder runs once it has started: the occurrences held are entered after it was set to run. -/
@[simp] theorem recorderStart_running (s : State) : (recorderStart s).evr.running = true := by
  unfold recorderStart
  split
  · assumption
  · simp [(foldl_keep (fun s => s.evr.running) ..)]

theorem reportScrub_boot (detail : Nat) (s : State) : (reportScrub detail s).sys.boot = s.sys.boot := by
  simp [reportScrub]

theorem pllLocked_stage (s : State) (h : s.sys.boot = .released) :
    ∃ t, exec .pllLocked s = .next t ∧ t.sys.boot = .clocked ∧ t.evr.running = true ∧ t.ptp.syncOut = true ∧
      t.enabled = infraBlocks ++ s.enabled ∧ t.mem = s.mem ∧ t.stk = s.stk := by
  refine ⟨_, if_pos h, ?_⟩
  obtain ⟨c, hc, henabled, hmem, hstk⟩ : ∃ c, (if s.rtc.checkDue && s.rtc.valid then canaryCheck s else s) = c ∧
      c.enabled = s.enabled ∧ c.mem = s.mem ∧ c.stk = s.stk := by
    refine ⟨_, rfl, ?_⟩
    split <;> simp
  dsimp only
  rw [hc]
  split <;> simp [modSys, modPtp, reportScrub_boot, henabled, hmem, hstk]

/-! ### The end of the self-test (R64, R65, R203) -/

theorem bootSelfTestDone_stage (cores : Fin 65536) (worn : Bool) (s : State) (hboot : s.sys.boot = .clocked)
    (htamper : s.sys.tamperHold = false) :
    ∃ t, exec (.bootSelfTestDone cores worn) s = .next t ∧ t.sys.boot = .tested ∧ t.wke.bootBad = cores.val ∧
      t.wke.failed = s.wke.failed ∧
      t.mem = s.mem.filter (fun p => p.1 < 0x80000000) ∧ t.stk = s.stk ∧ t.dio = s.dio := by
  refine ⟨_, if_pos (by simp [hboot, htamper]), ?_⟩
  dsimp only
  (repeat' split) <;> simp [modUpd]

/-- Settles O1: each stage is one command of the power-up, and its clause is the lemma about this command. -/
theorem powerUpStages : Obligations.PowerUpStages := by
  refine ⟨fun s h => if_pos h, resetRelease_stage, jigConfigRead_stage, fun flips s h => if_pos (by simpa using h), ?_,
    bootSelfTestDone_stage⟩
  intro s h
  obtain ⟨t, hexec, hboot, hrun, hsync, henabled, hkeep⟩ := pllLocked_stage s h
  exact ⟨t, hexec, hboot, hrun, hsync, fun b hb => henabled ▸ List.mem_append_left _ hb, hkeep⟩

end Sys2Proof.Machine
end

section
/-! PROOFS. What a stroke reads of itself, and its write views (R26, R119, R147, R152, R158), for O6 and O8. -/
namespace Sys2Proof.Machine

/-! ### Write sets -/

/-- A core that drives the stroke of a slot still drives it after a change of its write set. -/
theorem drivenBy_modWs {s : State} {c n : Nat} {k : Stroke} {x : Copy} (h : drivenBy s c = some (n, k, x))
    (f : WriteSet → WriteSet) :
    drivenBy (modWs n c f s) c = some (n,
      { k with copies := k.copies.map (fun y => if y.core = c then { y with ws := f y.ws } else y) },
      { x with ws := f x.ws }) := by
  obtain ⟨hdriving, hstroke, hcopy⟩ := drivenBy_some h
  rw [drivenBy, modWs_cores, hdriving]
  dsimp only
  rw [modWs, task_modCopy_same hstroke]
  dsimp only
  rw [copyOn_map (f := fun y => { y with ws := f y.ws }) (fun _ => rfl) hcopy, Option.map_some]

/-- The slot of a driven stroke is one of the tasks. -/
theorem drivenBy_lt {s : State} {c n : Nat} {k : Stroke} {x : Copy} (h : drivenBy s c = some (n, k, x)) :
    n < s.stk.tasks.length := by
  obtain ⟨-, hstroke, -⟩ := drivenBy_some h
  by_contra hn
  rw [task, List.getD_eq_default _ _ (Nat.le_of_not_lt hn)] at hstroke
  cases hstroke

/-! ### The views of a stroke (R26) -/

/-- The write view of a point: its own write over the snapshot. -/
theorem viewEntry_write (s : State) (k : Stroke) (x : Copy) (p : Nat) :
    viewEntry s (some (k, x)) true p = (tget x.ws.points p).elim (entryOf k.snap p)
      (fun v => { entryOf k.snap p with value := v.1, quality := v.2 }) := by
  unfold viewEntry
  cases hp : tget x.ws.points p with
  | none => simp [hp, entryOf]
  | some v => simp [hp, entryOf]

/-- The write set of a stroke after a write to a point (R152). -/
def writePoint (p off : Nat) (l : List Byte) (k : Stroke) (w : WriteSet) : WriteSet :=
  let cur := (tget w.points p).getD ((entryOf k.snap p).value, (entryOf k.snap p).quality)
  { w with points := tset w.points p (mergeEntry cur.1 cur.2 off l) }

theorem viewEntry_writePoint (s : State) (k : Stroke) (x : Copy) (p off : Nat) (l : List Byte) :
    let e := viewEntry s (some (k, x)) true p
    viewEntry s (some (k, { x with ws := writePoint p off l k x.ws })) true p =
      { e with value := (mergeEntry e.value e.quality off l).1, quality := (mergeEntry e.value e.quality off l).2 } := by
  dsimp only
  rw [viewEntry_write, viewEntry_write]
  cases hp : tget x.ws.points p <;> simp [writePoint, hp]

/-! ### The commands -/

section
variable {core : Fin 16} {n : Nat} {k : Stroke} {x : Copy} {s : State} (h : drivenBy s core.val = some (n, k, x))
include h

theorem exec_writeStatus_driven : exec (.writeStatus core) s = .next { s with answer := .value x.ws.rejected } := by
  change execWriteStatus core s = _
  rw [execWriteStatus, h]

theorem exec_strokeInfo_driven : exec (.strokeInfo core) s =
    .next { s with answer := .values [k.catchTn, k.triggers, k.sources, bit k.retry, k.restart] } := by
  change execStrokeInfo core s = _
  rw [execStrokeInfo, h]

theorem exec_inboxCount_driven :
    exec (.inboxCount core) s = .next { s with answer := .value (k.inboxSeen - k.inboxFrom - x.ws.taken) } := by
  change execInboxCount core s = _
  rw [execInboxCount, h]

theorem exec_receive_message {m : Msg} (hseen : k.inboxFrom + x.ws.taken < k.inboxSeen)
    (hm : (task s n).inbox[k.inboxFrom + x.ws.taken]? = some m) :
    exec (.receive core) s = .next { modWs n core.val (fun w => { w with taken := w.taken + 1 }) s with
      answer := .bytes (msgBytes m) } := by
  change execReceive core s = _
  rw [execReceive, h]
  simp only [if_pos hseen, hm]

theorem exec_receive_none (hseen : k.inboxSeen ≤ k.inboxFrom + x.ws.taken) :
    exec (.receive core) s = .next { s with answer := .none } := by
  change execReceive core s = _
  rw [execReceive, h]
  exact if_neg (Nat.not_lt.mpr hseen)

theorem exec_writeViewWrite_own {p off : Nat} (l : List Byte)
    (hp : (pointRec s.drw.image p).elim false (fun r => ptWriter r = n) = true) (hoff : off < 9) :
    exec (.writeViewWrite core p off l) s = .next (modWs n core.val (writePoint p off l k) s) := by
  change execWriteViewWrite core p off l s = _
  rw [execWriteViewWrite, h]
  exact (if_pos hp).trans (if_neg (Nat.not_le.mpr hoff))

theorem exec_writeViewWrite_beyond {p off : Nat} (l : List Byte)
    (hp : (pointRec s.drw.image p).elim false (fun r => ptWriter r = n) = true) (hoff : 9 ≤ off) :
    exec (.writeViewWrite core p off l) s = .next s := by
  change execWriteViewWrite core p off l s = _
  rw [execWriteViewWrite, h]
  exact (if_pos hp).trans (if_pos hoff)

end

theorem exec_writeViewWrite_outside {core : Fin 16} {s : State} (h : drivenBy s core.val = none) (p off : Nat)
    (l : List Byte) :
    exec (.writeViewWrite core p off l) s = .next (noteRefused 1 0 0 (0x20040000 + p * 16 + off) 0 s) := by
  change execWriteViewWrite core p off l s = _
  rw [execWriteViewWrite, h]

/-- Settles O6: what the services answer is what they read of the stroke; a write to a point puts it into the write set of
the copy that drives, and `viewEntry_writePoint` reads it back. -/
theorem strokeInquiries : Obligations.StrokeInquiries := by
  intro core n k x s h
  refine ⟨exec_writeStatus_driven h, exec_strokeInfo_driven h, exec_inboxCount_driven h,
    fun m hseen hm => exec_receive_message h hseen hm, exec_receive_none h, fun p off l hp hoff => ?_⟩
  exact ⟨_, _, _, exec_writeViewWrite_own h l hp hoff, drivenBy_modWs h _, viewEntry_writePoint s k x p off l, rfl⟩

/-! ### A write by another task (R147, R152) -/

theorem endShadow_wrRej (s : State) (n : Nat) : (task (endShadow s) n).wrRej = (task s n).wrRej := by
  have h : (endShadow s).stk.tasks = s.stk.tasks.map (fun t => { t with
      stroke := t.stroke.map (fun k => { k with copies := k.copies.filter (fun x => !x.shadow) }) }) := by
    simp [endShadow, foldl_OnlyCores _ (fun (s : State) c => gateIdle_frame c s)]
  rw [task, h, task, List.getD_eq_getElem?_getD, List.getD_eq_getElem?_getD, List.getElem?_map]
  cases s.stk.tasks[n]? <;> rfl

/-- The trouble of a stroke counts no write: a shadow that fails keeps the counters of the tasks. -/
theorem strokeTrouble_wrRej (t n c m : Nat) (s : State) : (task (strokeTrouble t n c s) m).wrRej = (task s m).wrRej := by
  have hevent (code detail : Nat) (u : State) : task (updEvent code detail u) m = task u m := by simp [task]
  have hmod (f : Upd → Upd) (u : State) : task (modUpd f u) m = task u m := rfl
  unfold strokeTrouble failShadow abandonUpdate trigger
  (repeat' split) <;> simp [hevent, hmod, endShadow_wrRej]

theorem strokeTrouble_stored (t n c : Nat) (s : State) : (strokeTrouble t n c s).dvt.stored = s.dvt.stored := by
  unfold strokeTrouble
  split <;> simp

theorem dvtFault_task (kind slot detail addr m : Nat) (s : State) : task (dvtFault kind slot detail addr s) m = task s m := by
  simp [task]

/-- A fault of a stroke is counted, and no point of the image changes. -/
theorem strokeFault_counts (kind n c detail addr : Nat) (s : State) :
    (strokeFault kind n c detail addr s).dvt.fCount = sat 32 s.dvt.fCount 1 ∧
    (strokeFault kind n c detail addr s).dvt.image = s.dvt.image := by
  have hfault : (dvtFault kind n detail addr s).dvt.fCount = sat 32 s.dvt.fCount 1 ∧
      (dvtFault kind n detail addr s).dvt.image = s.dvt.image := by
    simp only [dvtFault, (raise_frame ..)]
    split <;> exact ⟨rfl, rfl⟩
  have htrouble := eq_of_stored (strokeTrouble_stored 3 n c (dvtFault kind n detail addr s))
  rw [strokeFault, htrouble]
  exact hfault

/-- The state of a stroke whose write to a point was rejected, before its fault. -/
def countReject (n c : Nat) (s : State) : State :=
  modTask n (fun t => { t with wrRej := sat 16 t.wrRej 1 }) (modWs n c (fun w => { w with rejected := w.rejected + 1 }) s)

theorem countReject_wrRej {n : Nat} (c : Nat) {s : State} (h : n < s.stk.tasks.length) :
    (task (countReject n c s) n).wrRej = sat 16 (task s n).wrRej 1 := by
  rw [task, countReject, modTask_stk, getD_lmod_same _ _ _ (by simpa [modWs, modCopy] using h), modWs, modCopy, modTask_stk,
    getD_lmod_same _ _ _ h, task]

/-- A write by a task that is not the writer of the point. -/
theorem writeViewWrite_rejected {core : Fin 16} {p off n : Nat} {k : Stroke} {x : Copy} {s : State} (l : List Byte)
    (h : drivenBy s core.val = some (n, k, x))
    (hp : (pointRec s.drw.image p).elim false (fun r => ptWriter r = n) = false) :
    ∃ t, exec (.writeViewWrite core p off l) s = .next t ∧ t.dvt.fCount = sat 32 s.dvt.fCount 1 ∧
      (task t n).wrRej = sat 16 (task s n).wrRej 1 ∧ t.dvt.image = s.dvt.image ∧ t.mem = s.mem := by
  have hexec : exec (.writeViewWrite core p off l) s = .next (strokeFault 1 n core.val p
      (0x20040000 + taskDrawer s n * 0x100000 + p * 16 + off) (countReject n core.val s)) := by
    change execWriteViewWrite core p off l s = _
    rw [execWriteViewWrite, h]
    exact if_neg (by simp [hp])
  obtain ⟨hcount, himage⟩ := strokeFault_counts 1 n core.val p
    (0x20040000 + taskDrawer s n * 0x100000 + p * 16 + off) (countReject n core.val s)
  refine ⟨_, hexec, hcount, ?_, himage, by simp [strokeFault_frame, countReject]⟩
  rw [strokeFault, strokeTrouble_wrRej, dvtFault_task, countReject_wrRej _ (drivenBy_lt h)]

/-- Settles O8: the writer's bytes go into its write set or, beyond the entry, nowhere; the rejected write of another task
is a fault that changes no point. -/
theorem writeViews : Obligations.WriteViews :=
  ⟨fun _ p off l _ h => exec_writeViewWrite_outside h p off l, fun _ _ _ _ _ _ l _ h =>
    ⟨fun hp => ⟨exec_writeViewWrite_own h l hp, exec_writeViewWrite_beyond h l hp⟩, writeViewWrite_rejected l h⟩⟩

end Sys2Proof.Machine
end

section
/-! PROOFS. Replies, deadlines and markers abandoned (R31, R311, R313, R316, R317, R547). -/
namespace Sys2Proof.Machine

/-! ### Stations -/

theorem tget_modSta_same {k : Nat} {f : Station → Station} {x : Station} {s : State} (h : tget s.rio.sta k = some x) :
    tget (modSta k f s).rio.sta k = some (f x) := by
  simp [modSta, h]

theorem tget_modSta_other {k j : Nat} (f : Station → Station) (s : State) (h : j ≠ k) :
    tget (modSta k f s).rio.sta j = tget s.rio.sta j := by
  unfold modSta
  split
  · exact tget_tset_other _ _ h
  · rfl

/-- Of its block a change of a station touches the stations only. -/
theorem modSta_rio (k : Nat) (f : Station → Station) (s : State) :
    (modSta k f s).rio = { s.rio with sta := (modSta k f s).rio.sta } := by
  unfold modSta
  split <;> rfl

/-- Two states are one when they agree outside the stations and the recorder's side. -/
theorem eq_of_stations {t s : State} (hframe : t.OnlyFreshRioEvrHie s) (hrio : t.rio = { s.rio with sta := t.rio.sta }) :
    t = { s with rio := { s.rio with sta := t.rio.sta }, evr := t.evr, hie := t.hie, fresh := t.fresh } :=
  State.eq_of_fields (by simp [State.OnlyFreshEvrHie, hframe, ← hrio]) rfl rfl rfl

/-! ### An accepted reply (R31, R316) -/

theorem acceptReply_rio {k stamp status : Nat} {vals : List (Nat × Byte)} {r : Rec} {x : Station} {d : Due} {s : State}
    (hx : tget s.rio.sta k = some x) (hd : x.due = some d) :
    ∃ f : Station → Station, (acceptReply k stamp status vals r s).rio = (modSta k f s).rio ∧
      (f x).got = some (vals, d.tn, max (stampEdge s stamp) (s.stk.edges + 1)) ∧ (f x).online = true ∧
      (f x).commLost = false ∧ (f x).missed = 0 ∧ (f x).due = some { d with answered := true } := by
  refine ⟨_, by simp only [acceptReply, hx, hd, ↓(ite_fields ..), rioEvent_frame, ite_self]; rfl, ?_⟩
  exact ⟨rfl, rfl, rfl, rfl, rfl⟩

/-- The reply of a station whose form and marker are right is accepted. -/
theorem exec_replyReceive_t1s {m : Fin 12} (id : Nat) {us : Nat} {p : List Byte} {r : Rec} {x : Station} {s : State}
    (hm : m.val < 8) (hkind : f8 p 1 = 2) (hn : f8 p 3 < 16)
    (hr : stationRec s.drw.image (staKey m.val (f8 p 3)) = some r)
    (hx : tget s.rio.sta (staKey m.val (f8 p 3)) = some x)
    (hwhy : replyReason x (stampEdge s us) (stReply r) s.rio.runId (t1sOk p r) (f32 p 4) 32 (some (f16 p 8)) = 0) :
    exec (.replyReceive m id p us) s =
      .next (acceptReply (staKey m.val (f8 p 3)) us (f8 p 10) (replyVals p 12 (stIn r)) r s) := by
  refine (if_pos hm).trans ((if_pos hkind).trans ?_)
  simp [replyFrame, hm, hn, Nat.mod_eq_of_lt hn, hr, hx, hwhy]

/-! ### A deadline (R317, R547) -/

theorem missStation_rio {k : Nat} {r : Rec} {x : Station} {s : State} (hx : tget s.rio.sta k = some x) :
    ∃ f : Station → Station,
      (missStation k r s).rio = { (modSta k f s).rio with missTotal := sat 32 (modSta k f s).rio.missTotal 1 } ∧
      (f x).missed = min 255 (x.missed + 1) ∧ (f x).misses = sat 32 x.misses 1 ∧
      (f x).commLost = (x.commLost || (!x.commLost && decide (min 255 (x.missed + 1) ≥ stLimit r))) := by
  refine ⟨_, by simp only [missStation, hx, ↓(ite_fields ..), rioEvent_frame, ite_self]; rfl, ?_⟩
  exact ⟨rfl, rfl, rfl⟩

theorem exec_replyDeadline_miss {m : Fin 12} {k : Fin 16} {r : Rec} {x : Station} {s : State}
    (hr : stationRec s.drw.image (staKey m.val k.val) = some r) (hx : tget s.rio.sta (staKey m.val k.val) = some x)
    (hmiss : missesAt x r (s.stk.edges + 1) = true) (hfreeze : s.dbg.freeze = false) :
    exec (.replyDeadline m k) s = .next (missStation (staKey m.val k.val) r s) := by
  change execReplyDeadline m k s = _
  simp [execReplyDeadline, hr, hx, hmiss, hfreeze]

theorem exec_replyDeadline_freeze (m : Fin 12) (k : Fin 16) {s : State} (hfreeze : s.dbg.freeze = true) :
    exec (.replyDeadline m k) s = .next s := by
  change execReplyDeadline m k s = _
  unfold execReplyDeadline
  dsimp only
  split
  · exact if_neg (by simp [hfreeze])
  · rfl

/-! ### A marker abandoned (R311) -/

theorem abandonMarker_rio (m : Nat) (s : State) :
    (abandonMarker m s).rio = { s.rio with abandonTotal := sat 32 s.rio.abandonTotal 1 } := by
  simp only [abandonMarker, (raise_frame ..)]

/-- The state of a medium whose marker is abandoned, before the count and its event. -/
def clearFlight (m : Nat) (x : Medium) (s : State) : State :=
  { s with
    rio := { s.rio with media := tset s.rio.media m { x with flight := none, frames := [] } },
    can := if m < 8 then s.can else lmod s.can (m - 8) (fun c => { c with waiting := keptSeq c }) }

theorem exec_markerAbandon {m : Fin 12} {x : Medium} {s : State} (hx : tget s.rio.media m.val = some x)
    (hflight : x.flight = some s.stk.edges) (hnot : notBegun s m.val x = true) :
    exec (.markerAbandon m) s = .next (abandonMarker m.val (clearFlight m.val x s)) := by
  change execMarkerAbandon m s = _
  simp [execMarkerAbandon, hx, hflight, hnot, clearFlight]

theorem abandonMarker_clearFlight (m : Nat) (x : Medium) (s : State) :
    let t := abandonMarker m (clearFlight m x s)
    t.rio.abandonTotal = sat 32 s.rio.abandonTotal 1 ∧ t.rio.sta = s.rio.sta ∧ (m < 8 → t.can = s.can) ∧
      t = { s with rio := t.rio, can := t.can, evr := t.evr, hie := t.hie, fresh := t.fresh } := by
  refine ⟨by rw [abandonMarker_rio, clearFlight], by rw [abandonMarker_rio, clearFlight], fun hm => ?_,
    State.eq_of_fields (by simp [State.OnlyFreshEvrHie, abandonMarker_frame, clearFlight]) rfl rfl rfl⟩
  simp [abandonMarker_frame, clearFlight, hm]

/-! ### The clauses of a reply, a deadline, a marker abandoned -/

theorem replyReceive_accepts (m : Fin 12) (id us : Nat) (p : List Byte) (r : Rec) (x : Station) (d : Due) (s : State)
    (hm : m.val < 8) (hkind : f8 p 1 = 2) (hn : f8 p 3 < 16)
    (hr : stationRec s.drw.image (staKey m.val (f8 p 3)) = some r)
    (hx : tget s.rio.sta (staKey m.val (f8 p 3)) = some x) (hd : x.due = some d)
    (hwhy : replyReason x (stampEdge s us) (stReply r) s.rio.runId (t1sOk p r) (f32 p 4) 32 (some (f16 p 8)) = 0) :
    ∃ t y, exec (.replyReceive m id p us) s = .next t ∧ tget t.rio.sta (staKey m.val (f8 p 3)) = some y ∧
      y.got = some (replyVals p 12 (stIn r), d.tn, max (stampEdge s us) (s.stk.edges + 1)) ∧ y.online = true ∧
      y.commLost = false ∧ y.missed = 0 ∧ y.due = some { d with answered := true } ∧
      t = { s with rio := { s.rio with sta := t.rio.sta }, evr := t.evr, hie := t.hie, fresh := t.fresh } := by
  obtain ⟨f, hrio, hgot, honline, hlost, hmissed, hdue⟩ := acceptReply_rio hx hd
  refine ⟨_, f x, exec_replyReceive_t1s id hm hkind hn hr hx hwhy, by rw [hrio, tget_modSta_same hx], hgot, honline, hlost,
    hmissed, hdue, eq_of_stations (acceptReply_frame ..) ?_⟩
  rw [hrio, ← modSta_rio]

theorem replyDeadline_misses (m : Fin 12) (k : Fin 16) (r : Rec) (x : Station) (s : State)
    (hr : stationRec s.drw.image (staKey m.val k.val) = some r) (hx : tget s.rio.sta (staKey m.val k.val) = some x)
    (hmiss : missesAt x r (s.stk.edges + 1) = true) (hfreeze : s.dbg.freeze = false) :
    ∃ t y, exec (.replyDeadline m k) s = .next t ∧ tget t.rio.sta (staKey m.val k.val) = some y ∧
      y.missed = min 255 (x.missed + 1) ∧ y.misses = sat 32 x.misses 1 ∧
      y.commLost = (x.commLost || decide (min 255 (x.missed + 1) ≥ stLimit r)) ∧
      t.rio.missTotal = sat 32 s.rio.missTotal 1 ∧
      t = { s with rio := t.rio, evr := t.evr, hie := t.hie, fresh := t.fresh } := by
  obtain ⟨f, hrio, hmissed, hmisses, hlost⟩ := missStation_rio (r := r) hx
  refine ⟨_, f x, exec_replyDeadline_miss hr hx hmiss hfreeze, by rw [hrio]; exact tget_modSta_same hx, hmissed, hmisses, ?_,
    by rw [hrio, modSta_rio], State.eq_of_fields (by simp [State.OnlyFreshEvrHie]) rfl rfl rfl⟩
  rw [hlost]
  cases x.commLost <;> rfl

theorem markerAbandon_counts (m : Fin 12) (x : Medium) (s : State) (hx : tget s.rio.media m.val = some x)
    (hflight : x.flight = some s.stk.edges) (hnot : notBegun s m.val x = true) :
    ∃ t, exec (.markerAbandon m) s = .next t ∧ t.rio.abandonTotal = sat 32 s.rio.abandonTotal 1 ∧
      t.rio.sta = s.rio.sta ∧ (m.val < 8 → t.can = s.can) ∧
      t = { s with rio := t.rio, can := t.can, evr := t.evr, hie := t.hie, fresh := t.fresh } :=
  ⟨_, exec_markerAbandon hx hflight hnot, abandonMarker_clearFlight m.val x s⟩

end Sys2Proof.Machine
end

section
/-! PROOFS. The entries that a reply or a miss writes at an edge (R147, R316, R317, R550). -/
namespace Sys2Proof.Machine

/-! ### One input entry -/

theorem entryOf_tset_same (im : Image) (i : Nat) (e : Entry) : entryOf (tset im i e) i = e := by
  simp [entryOf]

theorem entryOf_tset_other (im : Image) {i j : Nat} (e : Entry) (h : j ≠ i) : entryOf (tset im i e) j = entryOf im j := by
  simp [entryOf, tget_tset_other _ _ h]

/-- What is kept beside a force does not change which forces are in effect. -/
theorem forcedValue_noteUnder (i : Nat) (v : BitVec 64) (q : Byte) (s : State) (n : Nat) :
    forcedValue (noteUnder i v q s) n = forcedValue s n := by
  simp only [forcedValue, noteUnder, List.findSome?_map]
  congr 1
  funext f
  have h : (if f.active.elim false (fun p => p.1 = i) then { f with under := v, underQ := q } else f).active = f.active := by
    split <;> rfl
  simp only [Function.comp, h]

theorem forcedValue_writeInput (i : Nat) (v : BitVec 64) (q : Byte) (tick : Nat) (s : State) (n : Nat) :
    forcedValue (writeInput i v q tick s) n = forcedValue s n :=
  forcedValue_noteUnder i (normalise (entryOf s.dvt.image i).typ v) q s n

theorem withForced_congr {s t : State} {i : Nat} (h : forcedValue t i = forcedValue s i) (q : Byte) :
    withForced t i q = withForced s i q := by
  rw [withForced, h, withForced]

/-- The entry of a point after a sequencer has written it. -/
theorem writeInput_same (i : Nat) (v : BitVec 64) (q : Byte) (tick : Nat) (s : State) :
    let e := entryOf (writeInput i v q tick s).dvt.image i
    e.value = (forcedValue s i).getD (normalise (entryOf s.dvt.image i).typ v) ∧ e.quality = withForced s i q ∧
      e.tick = tick % 2 ^ 32 ∧ e.typ = (entryOf s.dvt.image i).typ := by
  have h : (writeInput i v q tick s).dvt.image = tset s.dvt.image i _ := rfl
  dsimp only
  rw [h, entryOf_tset_same]
  exact ⟨rfl, rfl, rfl, rfl⟩

theorem writeInput_other {i j : Nat} (v : BitVec 64) (q : Byte) (tick : Nat) (s : State) (h : j ≠ i) :
    entryOf (writeInput i v q tick s).dvt.image j = entryOf s.dvt.image j :=
  entryOf_tset_other _ _ h

/-! ### The items of a station -/

/-- A state keeps the image, the forces in effect and the types of the points of another. -/
def KeepsPoints (s t : State) : Prop :=
  t.drw = s.drw ∧ (∀ n, forcedValue t n = forcedValue s n) ∧
  ∀ n, (entryOf t.dvt.image n).typ = (entryOf s.dvt.image n).typ

/-- An item has no effect, or writes the point that is bound to it. -/
def ItemWrite (j : Rec) (s t : State) : Prop :=
  t = s ∨ ∃ p v q tick, itemPoint s.drw.image j = some p ∧ t = writeInput (ptIndex p) v q tick s

theorem ItemWrite.keeps {j : Rec} {s t : State} (h : ItemWrite j s t) : KeepsPoints s t := by
  obtain rfl | ⟨p, v, q, tick, -, rfl⟩ := h
  · exact ⟨rfl, fun _ => rfl, fun _ => rfl⟩
  · refine ⟨by simp, forcedValue_writeInput _ v q tick s, fun n => ?_⟩
    by_cases hn : n = ptIndex p
    · subst hn
      exact (writeInput_same _ v q tick s).2.2.2
    · rw [writeInput_other v q tick s hn]

/-- An item of another point leaves a point alone. -/
theorem ItemWrite.entry {j : Rec} {s t : State} {n : Nat} (h : ItemWrite j s t)
    (hn : (itemPoint s.drw.image j).map ptIndex ≠ some n) : entryOf t.dvt.image n = entryOf s.dvt.image n := by
  obtain rfl | ⟨p, v, q, tick, hp, rfl⟩ := h
  · rfl
  · exact writeInput_other v q tick s (fun he => hn (by rw [hp, Option.map_some, he]))

section
variable {f : State → Rec → State} (hf : ∀ u j, ItemWrite j u (f u j))
include hf

theorem foldl_itemWrite_keeps (l : List Rec) (s : State) : KeepsPoints s (l.foldl f s) := by
  refine List.foldlRecOn (motive := KeepsPoints s) l f ⟨rfl, fun _ => rfl, fun _ => rfl⟩ (fun u hu j _ => ?_)
  obtain ⟨hdrw, hforced, htyp⟩ := (hf u j).keeps
  obtain ⟨hdrw', hforced', htyp'⟩ := hu
  exact ⟨hdrw.trans hdrw', fun n => (hforced n).trans (hforced' n), fun n => (htyp n).trans (htyp' n)⟩

theorem foldl_itemWrite_entry {n : Nat} (l : List Rec) (s : State)
    (hl : ∀ j ∈ l, (itemPoint s.drw.image j).map ptIndex ≠ some n) :
    entryOf (l.foldl f s).dvt.image n = entryOf s.dvt.image n := by
  refine (List.foldlRecOn (motive := fun u : State => u.drw = s.drw ∧ entryOf u.dvt.image n = entryOf s.dvt.image n) l f
    ⟨rfl, rfl⟩ (fun u hu j hj => ?_)).2
  obtain ⟨hdrw, hentry⟩ := hu
  exact ⟨(hf u j).keeps.1.trans hdrw, ((hf u j).entry (by rw [hdrw]; exact hl j hj)).trans hentry⟩

/-- The point of an item, of which no other item writes, has the entry that its last write gives it; if it is written
once only, over the entry that stood before. -/
theorem foldl_itemWrite_last {n : Nat} {i : Rec} {l : List Rec} (s : State) (hi : i ∈ l)
    (honly : ∀ j ∈ l, (itemPoint s.drw.image j).map ptIndex = some n → j = i) :
    ∃ u, KeepsPoints s u ∧ entryOf (l.foldl f s).dvt.image n = entryOf (f u i).dvt.image n ∧
      (l.Nodup → entryOf u.dvt.image n = entryOf s.dvt.image n) := by
  obtain ⟨bs, as, hl, hbs⟩ := List.eq_append_cons_of_mem (List.mem_reverse.mpr hi)
  have hl' : l = as.reverse ++ i :: bs.reverse := by
    rw [← List.reverse_reverse l, hl]
    simp
  subst hl'
  have hu := foldl_itemWrite_keeps hf as.reverse s
  refine ⟨as.reverse.foldl f s, hu, ?_, fun hnodup => ?_⟩
  · rw [List.foldl_append, List.foldl_cons]
    refine foldl_itemWrite_entry hf _ _ (fun j hj hn => ?_)
    rw [(hf _ i).keeps.1, hu.1] at hn
    exact hbs (List.mem_reverse.mp (honly j (by simp [List.mem_reverse.mp hj]) hn ▸ hj))
  · refine foldl_itemWrite_entry hf _ _ (fun j hj hn => ?_)
    have hji := honly j (List.mem_append_left _ hj) hn
    exact (List.nodup_append.mp hnodup).2.2 j hj i (List.mem_cons_self ..) hji

end

/-! ### The items of a reply, and of a miss (R316, R317) -/

/-- One input item of an accepted reply. -/
def replyItem (vals : List (Nat × Byte)) (tn : Nat) (s : State) (i : Rec) : State :=
  match itemPoint s.drw.image i, vals[f8 i 6]? with
  | some p, some (v, q) => writeInput (ptIndex p) (BitVec.ofNat 64 v) q tn s
  | _, _ => s

theorem writeReply_eq (k : Nat) (vals : List (Nat × Byte)) (tn : Nat) (s : State) :
    writeReply k vals tn s = (itemsOf s.drw.image k 0).foldl (replyItem vals tn) s := rfl

theorem replyItem_itemWrite (vals : List (Nat × Byte)) (tn : Nat) (s : State) (i : Rec) :
    ItemWrite i s (replyItem vals tn s i) := by
  unfold replyItem
  split
  · next p v q hp _ => exact .inr ⟨p, _, _, _, hp, rfl⟩
  · exact .inl rfl

theorem replyItem_some {vals : List (Nat × Byte)} (tn : Nat) {s : State} {i p : Rec} {v : Nat} {q : Byte}
    (hp : itemPoint s.drw.image i = some p) (hv : vals[f8 i 6]? = some (v, q)) :
    replyItem vals tn s i = writeInput (ptIndex p) (BitVec.ofNat 64 v) q tn s := by
  simp only [replyItem, hp, hv]

/-- The quality that a miss gives a point. -/
def staleQuality (lost : Bool) (q : Byte) : Byte := if lost then ((q ||| 0x40) &&& 0x7F) ||| 0x02 else q ||| 0x40

/-- One input item of a station that missed. -/
def staleItem (lost : Bool) (s : State) (i : Rec) : State :=
  match itemPoint s.drw.image i with
  | some p =>
    let e := entryOf s.dvt.image (ptIndex p)
    writeInput (ptIndex p) e.value (staleQuality lost e.quality) e.tick s
  | none => s

theorem writeStale_eq (k : Nat) (lost : Bool) (s : State) :
    writeStale k lost s = (itemsOf s.drw.image k 0).foldl (staleItem lost) s := rfl

theorem staleItem_itemWrite (lost : Bool) (s : State) (i : Rec) : ItemWrite i s (staleItem lost s i) := by
  unfold staleItem
  split
  · next p hp => exact .inr ⟨p, _, _, _, hp, rfl⟩
  · exact .inl rfl

theorem staleItem_some (lost : Bool) {s : State} {i p : Rec} (hp : itemPoint s.drw.image i = some p) :
    staleItem lost s i = writeInput (ptIndex p) (entryOf s.dvt.image (ptIndex p)).value
      (staleQuality lost (entryOf s.dvt.image (ptIndex p)).quality) (entryOf s.dvt.image (ptIndex p)).tick s := by
  simp only [staleItem, hp]

theorem writeReply_entry (k tn : Nat) (l : List (Nat × Byte)) (i p : Rec) (v : Nat) (q : Byte) (s : State)
    (hi : i ∈ itemsOf s.drw.image k 0) (hp : itemPoint s.drw.image i = some p) (hv : l[f8 i 6]? = some (v, q))
    (honly : ∀ j ∈ itemsOf s.drw.image k 0, (itemPoint s.drw.image j).map ptIndex = some (ptIndex p) → j = i) :
    let e := entryOf (writeReply k l tn s).dvt.image (ptIndex p)
    e.value = (forcedValue s (ptIndex p)).getD
      (normalise (entryOf s.dvt.image (ptIndex p)).typ (BitVec.ofNat 64 v)) ∧
    e.quality = withForced s (ptIndex p) q ∧ e.tick = tn % 2 ^ 32 := by
  obtain ⟨u, ⟨hdrw, hforced, htyp⟩, hentry, -⟩ := foldl_itemWrite_last (replyItem_itemWrite l tn) s hi honly
  obtain ⟨hvalue, hquality, htick, -⟩ := writeInput_same (ptIndex p) (BitVec.ofNat 64 v) q tn u
  dsimp only
  rw [writeReply_eq, hentry, replyItem_some tn (by rw [hdrw]; exact hp) hv, hvalue, hquality, htick, hforced, htyp,
    withForced_congr (hforced _)]
  exact ⟨rfl, rfl, rfl⟩

theorem writeStale_entry (k : Nat) (b : Bool) (i p : Rec) (s : State) (hnodup : (itemsOf s.drw.image k 0).Nodup)
    (hi : i ∈ itemsOf s.drw.image k 0) (hp : itemPoint s.drw.image i = some p)
    (honly : ∀ j ∈ itemsOf s.drw.image k 0, (itemPoint s.drw.image j).map ptIndex = some (ptIndex p) → j = i) :
    let o := entryOf s.dvt.image (ptIndex p)
    let e := entryOf (writeStale k b s).dvt.image (ptIndex p)
    e.value = (forcedValue s (ptIndex p)).getD (normalise o.typ o.value) ∧ e.tick = o.tick % 2 ^ 32 ∧
    e.quality = withForced s (ptIndex p) (staleQuality b o.quality) := by
  obtain ⟨u, ⟨hdrw, hforced, -⟩, hentry, honce⟩ := foldl_itemWrite_last (staleItem_itemWrite b) s hi honly
  obtain ⟨hvalue, hquality, htick, -⟩ := writeInput_same (ptIndex p) (entryOf u.dvt.image (ptIndex p)).value
    (staleQuality b (entryOf u.dvt.image (ptIndex p)).quality) (entryOf u.dvt.image (ptIndex p)).tick u
  dsimp only
  rw [writeStale_eq, hentry, staleItem_some b (by rw [hdrw]; exact hp), hvalue, hquality, htick, hforced, honce hnodup,
    withForced_congr (hforced _)]
  exact ⟨rfl, rfl, rfl⟩

end Sys2Proof.Machine
end

section
/-! PROOFS. The release markers of an edge (R307, R308, R312, R314), and with them O22. -/
namespace Sys2Proof.Machine

/-! ### Tables -/

theorem mem_of_tget {α : Type} {t : Table α} {k : Nat} {a : α} (h : tget t k = some a) : (k, a) ∈ t := by
  induction t with
  | nil => cases h
  | cons p r ih =>
    obtain ⟨i, b⟩ := p
    rw [tget] at h
    split at h
    · next hi =>
      cases h
      exact hi ▸ List.mem_cons_self ..
    · exact List.mem_cons_of_mem _ (ih h)

/-! ### Stations due -/

/-- The stations of a medium that are due at the edge. -/
def dueStations (s : State) (m : Nat) : List Rec :=
  (remotes s.drw.image 1).filter (fun r => f8 r 1 = m && isDue s s.stk.edges r)

theorem mem_dueStations {s : State} {m : Nat} {r : Rec} (h : r ∈ dueStations s m) :
    r ∈ remotes s.drw.image 1 ∧ f8 r 1 = m := by
  obtain ⟨hr, hm⟩ := List.mem_filter.mp h
  simp only [Bool.and_eq_true, decide_eq_true_eq] at hm
  exact ⟨hr, hm.1⟩

/-- The frames of a marker of a medium. -/
def markerFrames (s : State) (m seq : Nat) : List (Nat × List Byte) :=
  if m < 8 then [(m, t1sFrame s m seq (dueStations s m))] else canMarker s m seq (dueStations s m)

/-- Two states in which the same stations are due, with the same markers. -/
def SameMarkers (s t : State) : Prop :=
  t.sys = s.sys ∧ t.drw = s.drw ∧ t.stk = s.stk ∧ t.dvt = s.dvt ∧ t.rio.runId = s.rio.runId ∧
  ∀ k, (tget t.rio.sta k).map (·.dueFrom) = (tget s.rio.sta k).map (·.dueFrom)

theorem SameMarkers.trans {s t u : State} (h : SameMarkers s t) (h' : SameMarkers t u) : SameMarkers s u := by
  obtain ⟨hsys, hdrw, hstk, hdvt, hrun, hsta⟩ := h
  obtain ⟨hsys', hdrw', hstk', hdvt', hrun', hsta'⟩ := h'
  exact ⟨hsys'.trans hsys, hdrw'.trans hdrw, hstk'.trans hstk, hdvt'.trans hdvt, hrun'.trans hrun,
    fun k => (hsta' k).trans (hsta k)⟩

theorem SameMarkers.isDue {s t : State} (h : SameMarkers s t) (e : Nat) (r : Rec) : isDue t e r = isDue s e r := by
  have hbind (x : Option Station) : x.bind (·.dueFrom) = (x.map (·.dueFrom)).join := by cases x <;> rfl
  rw [Machine.isDue, hbind, h.2.2.2.2.2, ← hbind, Machine.isDue]

theorem SameMarkers.dueStations {s t : State} (h : SameMarkers s t) (m : Nat) : dueStations t m = dueStations s m := by
  simp only [Machine.dueStations, h.isDue, h.2.1, h.2.2.1]

theorem SameMarkers.outWords {s t : State} (h : SameMarkers s t) (r : Rec) : outWords t r = outWords s r := by
  obtain ⟨hsys, hdrw, -, hdvt, -, -⟩ := h
  simp only [Machine.outWords, outWord, drivenValue, hsys, hdrw, hdvt]

theorem SameMarkers.markerFrames {s t : State} (h : SameMarkers s t) (m seq : Nat) :
    markerFrames t m seq = markerFrames s m seq := by
  have hwords := h.outWords
  have hdue := h.dueStations m
  obtain ⟨hsys, hdrw, hstk, -, hrun, -⟩ := h
  simp only [Machine.markerFrames, t1sFrame, t1sMarker, canMarker, hdue, hwords, hsys, hdrw, hstk, hrun]

/-! ### The marker of one medium -/

/-- The reply of a station becomes due. -/
def replyDue (d : Due) (x : Station) : Station := { x with due := some d }

/-- A station that is due takes note of the marker that is released to it. -/
def markStation (e seq : Nat) (s : State) (r : Rec) : State :=
  modSta (rmKey r) (replyDue { edge := e, tn := s.stk.tn, seq := seq }) s

theorem foldl_markStation (e seq : Nat) (l : List Rec) (s : State) (k : Nat) :
    tget (l.foldl (markStation e seq) s).rio.sta k =
      if k ∈ l.map rmKey then (tget s.rio.sta k).map (replyDue { edge := e, tn := s.stk.tn, seq := seq })
      else tget s.rio.sta k := by
  induction l generalizing s with
  | nil => simp
  | cons r l ih =>
    rw [List.foldl_cons, ih, markStation, modSta_stk]
    by_cases hk : k = rmKey r
    · subst hk
      cases hx : tget s.rio.sta (rmKey r) with
      | none => simp [modSta, hx]
      | some x => simp [tget_modSta_same hx, replyDue]
    · simp [tget_modSta_other _ _ hk, hk]

/-- Of its block the marking of the stations touches the stations only. -/
theorem foldl_markStation_rio (e seq : Nat) (l : List Rec) (s : State) :
    (l.foldl (markStation e seq) s).rio = { s.rio with sta := (l.foldl (markStation e seq) s).rio.sta } :=
  List.foldlRecOn (motive := fun u : State => u.rio = { s.rio with sta := u.rio.sta }) l _ rfl (fun u hu r _ => by
    rw [markStation, modSta_rio, hu])

theorem dropMarker_rio (m : Nat) (s : State) :
    ∃ n, (dropMarker m s).rio = { s.rio with abandonTotal := n } := by
  unfold dropMarker
  split
  · exact ⟨_, abandonMarker_rio m _⟩
  · exact ⟨s.rio.abandonTotal, rfl⟩

theorem dropMarker_sameMarkers (m : Nat) (s : State) : SameMarkers s (dropMarker m s) := by
  obtain ⟨n, hrio⟩ := dropMarker_rio m s
  refine ⟨by simp, by simp, by simp, by simp, by rw [hrio], fun k => by rw [hrio]⟩

/-- A medium after the release of its marker. -/
def markedMedium (dl : List (Nat × Nat)) (s : State) (m : Nat) (x : Medium) : Medium :=
  { x with
    seq := (x.seq + 1) % 2 ^ 32, last := x.seq, delay := min ((dl.find? (fun d => d.1 = m)).elim 0 (·.2)) 0xFFFF,
    flight := some s.stk.edges, frames := markerFrames s m x.seq }

/-- The state in which a medium has its marker, before its stations take note of it. -/
def releaseMarker (dl : List (Nat × Nat)) (s : State) (m : Nat) (x : Medium) : State :=
  { dropMarker m s with rio := { (dropMarker m s).rio with media := tset (dropMarker m s).rio.media m (markedMedium dl s m x) } }

theorem sendMarker_eq (dl : List (Nat × Nat)) (s : State) (m : Nat) (x : Medium) :
    (sendMarker dl s (m, x)).rio =
      ((dueStations s m).foldl (markStation s.stk.edges x.seq) (releaseMarker dl s m x)).rio := by
  have hsame := dropMarker_sameMarkers m s
  rw [← hsame.dueStations m, releaseMarker, markedMedium, ← hsame.markerFrames m x.seq, ← hsame.2.2.1]
  unfold sendMarker
  dsimp only
  split
  · exact (raise_frame ..).2.2.2.2.2.2.2.2.2.2.2.1
  · rfl

theorem sendMarker_media (dl : List (Nat × Nat)) (s : State) (m : Nat) (x : Medium) :
    (sendMarker dl s (m, x)).rio.media = tset s.rio.media m (markedMedium dl s m x) := by
  obtain ⟨n, hrio⟩ := dropMarker_rio m s
  rw [sendMarker_eq, foldl_markStation_rio, releaseMarker, hrio]

theorem sendMarker_sta (dl : List (Nat × Nat)) (s : State) (m : Nat) (x : Medium) (k : Nat) :
    tget (sendMarker dl s (m, x)).rio.sta k =
      if k ∈ (dueStations s m).map rmKey then
        (tget s.rio.sta k).map (replyDue { edge := s.stk.edges, tn := s.stk.tn, seq := x.seq })
      else tget s.rio.sta k := by
  obtain ⟨n, hrio⟩ := dropMarker_rio m s
  have hstk : (dropMarker m s).stk = s.stk := by simp
  rw [sendMarker_eq, foldl_markStation, releaseMarker, hrio, hstk]

theorem sendMarker_sameMarkers (dl : List (Nat × Nat)) (s : State) (p : Nat × Medium) :
    SameMarkers s (sendMarker dl s p) := by
  obtain ⟨m, x⟩ := p
  obtain ⟨n, hrio⟩ := dropMarker_rio m s
  refine ⟨by simp, by simp, by simp, by simp, ?_, fun k => ?_⟩
  · rw [sendMarker_eq, foldl_markStation_rio, releaseMarker, hrio]
  · rw [sendMarker_sta]
    split
    · rw [Option.map_map]
      rfl
    · rfl

/-! ### The markers of an edge -/

/-- A station of another medium is not due for the marker of a medium. -/
theorem rmKey_notMem_dueStations {s : State} {m : Nat} {r : Rec} (h16 : ∀ r ∈ remotes s.drw.image 1, f8 r 2 < 16)
    (hr : f8 r 2 < 16) (hm : f8 r 1 ≠ m) : rmKey r ∉ (dueStations s m).map rmKey := by
  intro hmem
  obtain ⟨q, hq, hkey⟩ := List.mem_map.mp hmem
  obtain ⟨hqmem, hqm⟩ := mem_dueStations hq
  have hq16 := h16 q hqmem
  simp only [rmKey, staKey] at hkey
  omega

theorem foldl_sendMarker_sameMarkers (dl : List (Nat × Nat)) (l : List (Nat × Medium)) (s : State) :
    SameMarkers s (l.foldl (sendMarker dl) s) :=
  List.foldlRecOn (motive := SameMarkers s) l _ ⟨rfl, rfl, rfl, rfl, rfl, fun _ => rfl⟩
    (fun u hu p _ => hu.trans (sendMarker_sameMarkers dl u p))

/-- The markers of other media leave a medium, and what is due of its stations. -/
theorem foldl_sendMarker_other (dl : List (Nat × Nat)) {l : List (Nat × Medium)} {m : Nat} (s : State)
    (hl : ∀ p ∈ l, p.1 ≠ m) (h16 : ∀ r ∈ remotes s.drw.image 1, f8 r 2 < 16) :
    tget (l.foldl (sendMarker dl) s).rio.media m = tget s.rio.media m ∧
    ∀ r, f8 r 1 = m → f8 r 2 < 16 → tget (l.foldl (sendMarker dl) s).rio.sta (rmKey r) = tget s.rio.sta (rmKey r) := by
  induction l generalizing s with
  | nil => exact ⟨rfl, fun _ _ _ => rfl⟩
  | cons p l ih =>
    obtain ⟨n, x⟩ := p
    have hn : m ≠ n := (hl _ (List.mem_cons_self ..)).symm
    have hdrw : (sendMarker dl s (n, x)).drw = s.drw := by simp
    obtain ⟨hmedia, hsta⟩ := ih (sendMarker dl s (n, x)) (fun p hp => hl p (List.mem_cons_of_mem _ hp)) (by rwa [hdrw])
    refine ⟨by rw [List.foldl_cons, hmedia, sendMarker_media, tget_tset_other _ _ hn], fun r hr hr16 => ?_⟩
    rw [List.foldl_cons, hsta r hr hr16, sendMarker_sta, if_neg (rmKey_notMem_dueStations h16 hr16 (hr ▸ hn))]

/-- A medium with stations gives its marker, in its place among the others. -/
theorem rioMarkers_split (dl : List (Nat × Nat)) {m : Nat} {x : Medium} {s : State} (hmode : marks s.sys.mode = true)
    (henabled : s.enabled.contains .rio = true) (hx : tget s.rio.media m = some x) (hcarries : carries s m = true)
    (hnodup : (s.rio.media.map (·.1)).Nodup) :
    ∃ as bs : List (Nat × Medium),
      rioMarkers dl s = bs.foldl (sendMarker dl) (sendMarker dl (as.foldl (sendMarker dl) s) (m, x)) ∧ ∀ p ∈ bs, p.1 ≠ m := by
  have hmem : (m, x) ∈ s.rio.media.filter (fun p => carries s p.1) :=
    List.mem_filter.mpr ⟨mem_of_tget hx, hcarries⟩
  have hkeys : ((s.rio.media.filter (fun p => carries s p.1)).map (·.1)).Nodup :=
    hnodup.sublist (List.filter_sublist.map _)
  obtain ⟨as, bs, hsplit⟩ := List.append_of_mem hmem
  refine ⟨as, bs, ?_, fun p hp hpm => ?_⟩
  · rw [rioMarkers, if_pos (by simp only [hmode, henabled, Bool.and_self]), hsplit, List.foldl_append, List.foldl_cons]
  · rw [hsplit, List.map_append, List.map_cons] at hkeys
    exact (List.nodup_cons.mp (List.nodup_append.mp hkeys).2.1).1 (List.mem_map.mpr ⟨p, hp, hpm⟩)

theorem rioMarkers_release (dl : List (Nat × Nat)) (m : Nat) (x : Medium) (s : State) (hmode : marks s.sys.mode = true)
    (henabled : s.enabled.contains .rio = true) (hx : tget s.rio.media m = some x) (hcarries : carries s m = true)
    (hnodup : (s.rio.media.map (·.1)).Nodup) (h16 : ∀ r ∈ remotes s.drw.image 1, f8 r 2 < 16) :
    let t := rioMarkers dl s
    let due := (remotes s.drw.image 1).filter (fun r => f8 r 1 = m && isDue s s.stk.edges r)
    (∃ y, tget t.rio.media m = some y ∧ y.seq = (x.seq + 1) % 2 ^ 32 ∧ y.last = x.seq ∧ y.flight = some s.stk.edges ∧
      y.frames = if m < 8 then [(m, t1sFrame s m x.seq due)] else canMarker s m x.seq due) ∧
    (∀ r ∈ due, (tget s.rio.sta (rmKey r)).isSome = true → ∃ z, tget t.rio.sta (rmKey r) = some z ∧
      z.due = some { edge := s.stk.edges, tn := s.stk.tn, seq := x.seq }) := by
  obtain ⟨as, bs, hmarkers, hbs⟩ := rioMarkers_split dl hmode henabled hx hcarries hnodup
  have hsame := foldl_sendMarker_sameMarkers dl as s
  generalize as.foldl (sendMarker dl) s = u at hmarkers hsame
  have hstk := hsame.2.2.1
  have hdrw : (sendMarker dl u (m, x)).drw = s.drw := (sendMarker_sameMarkers dl u (m, x)).2.1.trans hsame.2.1
  obtain ⟨hmedia, hsta⟩ := foldl_sendMarker_other dl (sendMarker dl u (m, x)) hbs (by rwa [hdrw])
  dsimp only
  rw [hmarkers, hmedia, sendMarker_media, tget_tset_same]
  refine ⟨⟨_, rfl, rfl, rfl, congrArg (fun k : Stk => some k.edges) hstk, hsame.markerFrames m x.seq⟩, fun r hr hsome => ?_⟩
  obtain ⟨hrmem, hrm⟩ := mem_dueStations hr
  have hdue : rmKey r ∈ (dueStations u m).map rmKey := List.mem_map_of_mem (hsame.dueStations m ▸ hr)
  rw [hsta r hrm (h16 r hrmem), sendMarker_sta, if_pos hdue, hstk]
  cases hz : tget u.rio.sta (rmKey r) with
  | some z => exact ⟨_, rfl, rfl⟩
  | none =>
    have hnone := hsame.2.2.2.2.2 (rmKey r)
    rw [hz, Option.map_none, eq_comm, Option.map_eq_none_iff] at hnone
    simp [hnone] at hsome

theorem rioMarkers_none (dl : List (Nat × Nat)) (s : State)
    (h : marks s.sys.mode = false ∨ s.enabled.contains .rio = false) : rioMarkers dl s = s := by
  refine if_neg ?_
  obtain h | h := h <;> simp only [h, Bool.and_false, Bool.false_and, Bool.false_eq_true, not_false_eq_true]

/-- Settles O22: the replies, the deadlines and the markers abandoned are one command each; the markers of an edge go out
medium by medium, and the items of a reply or a miss are written one by one. -/
theorem remoteReplies : Obligations.RemoteReplies :=
  ⟨replyReceive_accepts, replyDeadline_misses, markerAbandon_counts,
    fun m k _ h => exec_replyDeadline_freeze m k h, rioMarkers_release, rioMarkers_none, writeReply_entry, writeStale_entry⟩

end Sys2Proof.Machine
end

section
/-! PROOFS. Registers at reset, and the HOLD and RESUME requests (R53, R54, R69 to R72, R589), for O56 and O4. -/
namespace Sys2Proof.Machine

/-- Settles O56: at the reset state every register named is a closed value, and the empty memory is in its canonical form. -/
theorem resetRegisters : Obligations.ResetRegisters :=
  ⟨rfl, rfl, rfl, rfl, rfl, rfl, rfl, rfl, rfl, rfl, Memory.wf_nil⟩

/-! ### Requests of a mode (R53, R54, R70) -/

/-- The key and the request of the word that a mode request writes. -/
theorem fld_modeWord (k : Nat) {r : Nat} (hr : r < 16) :
    fld (k % 2 ^ 16 * 2 ^ 16 + r) 16 16 = k % 2 ^ 16 ∧ fld (k % 2 ^ 16 * 2 ^ 16 + r) 0 4 = r := by
  simp only [fld]
  omega

theorem modeRequest_hold {s : State} (h : s.sys.mode = .run ∨ s.sys.mode = .degraded) :
    modeRequest (0x4A46 * 2 ^ 16 + 1) s = abandonUpdate 3 { s with sys := { s.sys with holdReq := true } } := by
  obtain h | h := h <;> exact if_pos (by simp [h, fld])

theorem modeRequest_resume {s : State} (h : s.sys.mode = .hold) (htamper : s.sys.tamperHold = false) :
    modeRequest (0x4A46 * 2 ^ 16 + 2) s = { s with sys := { s.sys with resumeReq := true } } := by
  rw [modeRequest, if_neg (by simp [fld]), if_pos (by simp [fld, h, htamper])]
  rfl

/-- Without its key a request is ignored (R70). -/
theorem modeRequest_badKey {v : Nat} (h : fld v 16 16 ≠ 0x4A46) (s : State) :
    modeRequest v s = raiseIgnored 0x01 0x10000010 s := by
  rw [modeRequest, if_neg (by simp [h]), if_neg (by simp [h])]

/-- HOLD is requested in RUN and DEGRADED only (R53). -/
theorem modeRequest_hold_ignored {s : State} (hrun : s.sys.mode ≠ .run) (hdegraded : s.sys.mode ≠ .degraded) :
    modeRequest (0x4A46 * 2 ^ 16 + 1) s = raiseIgnored 0x01 0x10000010 s := by
  rw [modeRequest, if_neg (by simp [hrun, hdegraded]), if_neg (by simp [fld])]

/-- An update that is not shadowed is not abandoned (R511). -/
theorem abandonUpdate_of_not_shadowing (reason : Nat) {s : State} (h : shadowing s.upd = false) :
    abandonUpdate reason s = s :=
  if_neg (by simp [h])

/-- Settles O4: the requests are writes of one register, split by key, request and mode. -/
theorem modeRequests : Obligations.ModeRequests := by
  refine ⟨fun s hmode => ⟨_, congrArg Host.Outcome.next (modeRequest_hold hmode), ?_, fun hshadow => ?_⟩,
    fun s hmode htamper => congrArg Host.Outcome.next (modeRequest_resume hmode htamper),
    fun k s hkey => ⟨?_, ?_⟩, fun s hmode => congrArg Host.Outcome.next ?_⟩
  · simp
  · have hkept : abandonUpdate 3 { s with sys := { s.sys with holdReq := true } } =
        { s with sys := { s.sys with holdReq := true } } := abandonUpdate_of_not_shadowing 3 hshadow
    rw [hkept]
  · exact congrArg Host.Outcome.next (modeRequest_badKey (by rwa [(fld_modeWord k (by decide)).1]) s)
  · exact congrArg Host.Outcome.next (modeRequest_badKey (by rwa [(fld_modeWord k (by decide)).1]) s)
  · obtain h | h | h := hmode <;> exact modeRequest_hold_ignored (by simp [h]) (by simp [h])

end Sys2Proof.Machine
end

section
/-! PROOFS. Replacement causes and the board temperature (R56, R57, R574, R575, R577), for O5. -/
namespace Sys2Proof.Machine

/-- A state that agrees with another outside four blocks is that state with these blocks. -/
theorem State.eq_of_onlyFreshSysEvrHie {t s : State} (h : t.OnlyFreshSysEvrHie s) :
    t = { s with sys := t.sys, evr := t.evr, hie := t.hie, fresh := t.fresh } :=
  State.eq_of_fields (by simp [State.OnlyFreshEvrHie, h]) rfl rfl rfl

/-! ### The causes for replacement (R56, R57) -/

theorem bset_of_testBit {m i : Nat} (h : m.testBit i = true) : bset m i = m := by
  refine Nat.eq_of_testBit_eq (fun j => ?_)
  rw [bset, Nat.testBit_or, Nat.testBit_two_pow]
  by_cases hj : i = j
  · simp [← hj, h]
  · simp [hj]

/-- A cause that stands already is not announced again: its bit is set after `setCause` in either case. -/
theorem setCause_sys_bset (i : Nat) (s : State) : (setCause i s).sys = { s.sys with replace := bset s.sys.replace i } := by
  unfold setCause
  split
  · next h => rw [bset_of_testBit h]
  · simp

/-- The corrected errors of the last 60 minutes, with the one that comes now (R56). -/
def eccWindow (s : State) : List Nat := s.sys.eccTimes.filter (fun x => x + 3686400 > s.evr.opTime) ++ [s.evr.opTime]

theorem eccError_sys (s : State) : (eccError s).sys = { s.sys with
    eccTimes := eccWindow s
    replace := if (eccWindow s).length > s.sys.eccLimit then bset s.sys.replace 1 else s.sys.replace } := by
  change (if (eccWindow s).length > s.sys.eccLimit
    then setCause 1 { s with sys := { s.sys with eccTimes := eccWindow s } }
    else { s with sys := { s.sys with eccTimes := eccWindow s } }).sys = _
  split
  · rw [setCause_sys_bset]
  · rfl

theorem exec_eccCorrectedError_up {s : State} (h : isUp s = true) : exec .eccCorrectedError s = .next (eccError s) :=
  if_pos h

theorem mem_declaredPorts {port : Fin 2} {s : State} (h : s.declared.contains (.mac (8 + port.val)) = true) :
    8 + port.val ∈ declaredPorts s := by
  have hport : 8 + port.val ∈ [8, 9] := by fin_cases port <;> simp
  exact List.mem_filter.mpr ⟨hport, h⟩

theorem exec_linkDownTimeout_declared {port : Fin 2} {s : State} (hport : s.declared.contains (.mac (8 + port.val)) = true)
    (hlink : (s.mac.getD (8 + port.val) {}).link = false) : exec (.linkDownTimeout port) s = .next (setCause 2 s) := by
  have hcond : ((declaredPorts s).contains (8 + port.val) && !(s.mac.getD (8 + port.val) {}).link) = true := by
    rw [hlink, List.contains_iff_mem.mpr (mem_declaredPorts hport)]
    rfl
  exact if_pos hcond

theorem exec_vbakLowCrossing_up {s : State} (h : isUp s = true) :
    exec .vbakLowCrossing s = .next (setCause 3 { s with sys := { s.sys with vbakLow := true } }) :=
  if_pos h

/-! ### The fire window (R575, R577) -/

/-- A window event starts on a JF6400-X while none lasts; its cause stands once reset is over. -/
theorem fireWindowSet_effect (x : Int) {s : State} (hon : s.sys.boot ≠ .off) :
    ∃ t, exec (.fireWindowSet x) s = .next t ∧ t.sys.temp = x ∧ t.sys.fire = (s.sys.fire || Config.orderX) ∧
      t.OnlyFreshSysEvrHie s := by
  change ∃ t, execFireWindowSet x s = _ ∧ _
  unfold execFireWindowSet
  dsimp only
  split
  · next hstart =>
    have hstarts : (s.sys.fire || Config.orderX) = true := by simp_all
    rw [hstarts]
    split
    · exact ⟨_, rfl, by rw [setCause_sys_bset]; rfl, by rw [setCause_sys_bset]; rfl, by simp [State.OnlyFreshSysEvrHie]⟩
    · exact ⟨_, rfl, rfl, rfl, by simp [State.OnlyFreshSysEvrHie]⟩
  · next hstays =>
    refine ⟨_, rfl, rfl, ?_, by simp [State.OnlyFreshSysEvrHie]⟩
    have hsame : Config.orderX = true → s.sys.fire = true := by simpa [noteTemp, hon] using hstays
    cases hfire : s.sys.fire <;> simp_all [noteTemp]

/-- In a window event a reading moves its highest temperature. -/
theorem noteTemp_fire (x : Int) {s : State} (h : s.sys.fire = true) :
    noteTemp x s = { s with sys := { s.sys with temp := x, fireMax := max s.sys.fireMax x } } := by
  simp [noteTemp, modSys, h]

theorem noteTemp_noFire (x : Int) {s : State} (h : s.sys.fire = false) :
    noteTemp x s = { s with sys := { s.sys with temp := x } } := by
  simp [noteTemp, modSys, h]

theorem exec_fireWindowClear_running (x : Int) {s : State} (h : s.sys.fire = true) :
    exec (.fireWindowClear x) s = .next (raise
      { code := 0x0031, block := 0x01,
        detail := min ((s.evr.opTime - s.sys.fireStart) / 61440) 0xFFFF * 2 ^ 16 + twos 16 (max s.sys.fireMax x) }
      { s with sys := { s.sys with
        temp := x, fireMax := max s.sys.fireMax x, fire := false, replace := bclr s.sys.replace 5 } }) := by
  change execFireWindowClear x s = _
  rw [execFireWindowClear, noteTemp_fire x h]
  exact if_pos h

theorem exec_fireWindowOvertemp_first (x : Int) {s : State} (h : s.sys.fire = true) (hfirst : s.sys.fireOver = false) :
    exec (.fireWindowOvertemp x) s = .next (raise
      { code := 0x0030, block := 0x01, detail := 2 ^ 31 + twos 16 x }
      { s with sys := { s.sys with temp := x, fireMax := max s.sys.fireMax x, fireOver := true } }) := by
  change execFireWindowOvertemp x s = _
  rw [execFireWindowOvertemp, noteTemp_fire x h]
  exact if_pos (by simp [h, hfirst])

theorem exec_fireWindowTimeLimit_first (x : Int) {s : State} (h : s.sys.fire = true) (hfirst : s.sys.fireLong = false) :
    exec (.fireWindowTimeLimit x) s = .next (raise
      { code := 0x0030, block := 0x01, detail := 2 ^ 31 + 2 ^ 30 + twos 16 x }
      { s with sys := { s.sys with temp := x, fireMax := max s.sys.fireMax x, fireLong := true } }) := by
  change execFireWindowTimeLimit x s = _
  rw [execFireWindowTimeLimit, noteTemp_fire x h]
  exact if_pos (by simp [h, hfirst])

/-! ### Excursions (R574) -/

/-- Below −40 °C lies outside the range of either ordering code. -/
theorem exec_tempExcursion_cold {x : Int} {s : State} (hfire : s.sys.fire = false) (hfirst : s.sys.excursion = false)
    (hon : s.sys.boot ≠ .off) (hcold : x < -400) :
    exec (.tempExcursion x) s = .next (raise { code := 0x0030, block := 0x01, detail := twos 16 x }
      { s with sys := { s.sys with temp := x, excursion := true } }) := by
  have houtside : (if Config.orderX then decide (x < -400) else decide (x < -250 ∨ x > 700)) = true := by
    split <;> exact decide_eq_true (by omega)
  have hsign : bit (decide (x > 0)) * 2 ^ 31 + twos 16 x = twos 16 x := by
    simp [bit, show ¬ x > 0 by omega]
  change execTempExcursion x s = _
  rw [execTempExcursion, noteTemp_noFire x hfire]
  refine (if_pos (by rw [houtside]; simp [hfirst, hon])).trans ?_
  rw [hsign]
  rfl

/-- Settles O5: the causes by what `setCause` leaves, the window and the excursion by what a reading leaves. -/
theorem replacementCausesAndTemperature : Obligations.ReplacementCausesAndTemperature := by
  refine ⟨fun s hup => ⟨_, exec_eccCorrectedError_up hup, by rw [eccError_sys]; rfl, by rw [eccError_sys],
      State.eq_of_onlyFreshSysEvrHie (eccError_frame s)⟩,
    fun port s hport hlink _ => ⟨_, exec_linkDownTimeout_declared hport hlink, setCause_sys_bset 2 s,
      State.eq_of_onlyFreshSysEvrHie (setCause_frame 2 s)⟩,
    fun s hlinks => if_pos hlinks,
    fun s hup _ => ⟨_, exec_vbakLowCrossing_up hup, setCause_sys_bset 3 _,
      State.eq_of_onlyFreshSysEvrHie (by simp [State.OnlyFreshSysEvrHie])⟩,
    fun s => rfl, fun x s hon => ?_, fun x s h => exec_fireWindowClear_running x h,
    fun x s h hfirst => exec_fireWindowOvertemp_first x h hfirst,
    fun x s h hfirst => exec_fireWindowTimeLimit_first x h hfirst,
    fun x s hfire hfirst hon hcold => exec_tempExcursion_cold hfire hfirst hon hcold, fun s => rfl⟩
  obtain ⟨t, hexec, htemp, hfire, hframe⟩ := fireWindowSet_effect x hon
  exact ⟨t, hexec, htemp, hfire, State.eq_of_onlyFreshSysEvrHie hframe⟩

end Sys2Proof.Machine
end

section
/-! PROOFS. The probe falls silent in DEBUG (R62, R538, R540, R561), for O50. -/
namespace Sys2Proof.Machine

/-- A reset of the module is not one of the TAP: the instruction stays. -/
theorem assertReset_ir (i : Nat) (s : State) : (assertReset i s).dbg.ir = s.dbg.ir := by
  by_cases hoff : s.sys.boot = .off
  · rw [assertReset, if_pos hoff]
  by_cases hheld : s.sys.boot = .held
  · rw [assertReset, if_neg hoff, if_pos hheld]
  obtain ⟨n, h⟩ := assertReset_running i s hoff hheld
  rw [h]
  simp [settleOutputs_frame, updEvent_frame, captureRtc_frame, resetBlocks, ↓ite_fields]

/-- With no step running the idle timeout of the probe leaves DEBUG by a reset (R540). -/
theorem exec_probeIdleTimeout_idle {s : State} (hmode : s.sys.mode = .debug) (hstep : s.dbg.stepBusy = false) :
    exec .probeIdleTimeout s = .next (assertReset 6 (dbgEvent 0xF015 0 s)) := by
  refine (if_pos hmode).trans (congrArg Host.Outcome.next ?_)
  rw [releaseDebug, if_neg (by simp [hmode]), if_neg (by simp [hstep])]

/-- A module in DEBUG after an access by SVCACC, whose instruction code 8 stands in the TAP (R538). -/
def debugAfterSvcacc : State := { sys := { boot := .loaded, mode := .debug }, dbg := { ir := 8 } }

/-- Refutes O50: its last clause asks for the instruction IDCODE after either disconnection. TRST_N low sets it before the
reset; the idle timeout resets the module alone, and the instruction of the last access stays in the TAP. -/
theorem not_debugCommands : ¬ Obligations.DebugCommands := by
  unfold Obligations.DebugCommands
  rintro ⟨-, -, -, -, -, -, -, -, -, -, -, -, -, -, -, -, hleaves⟩
  obtain ⟨t, hexec, -, -, -, hidcode, -⟩ :=
    hleaves debugAfterSvcacc rfl rfl (by decide) (by decide) .probeIdleTimeout (by simp)
  rw [exec_probeIdleTimeout_idle rfl rfl, Host.Outcome.next.injEq] at hexec
  have hevent : (dbgEvent 0xF015 0 debugAfterSvcacc).dbg = debugAfterSvcacc.dbg := by simp
  have hkept : t.dbg.ir = 8 := by
    rw [← hexec, assertReset_ir, hevent]
    rfl
  omega

end Sys2Proof.Machine
end

section
/-! PROOFS. The least serial that a load accepts moves only by a confirmation (R103), for O60. -/
namespace Sys2Proof.Machine

/-! ### The shared operations leave the floor where their handler does -/

theorem service_keepsFloor (c item target addr : Nat) {f : State → State} (s : State)
    (hf : ∀ s, (f s).drw.serialFloor = s.drw.serialFloor) :
    (service c item target addr f s).drw.serialFloor = s.drw.serialFloor := by
  unfold service
  (repeat' split) <;> simp [hf]

theorem receive_keepsFloor (h : MarzinHead) (session : Bool) (cls : Nat) {handle : State → Nat × State} (s : State)
    (hf : ∀ s, (handle s).2.drw.serialFloor = s.drw.serialFloor) :
    (receive h session cls handle s).drw.serialFloor = s.drw.serialFloor := by
  unfold receive
  dsimp only
  (repeat' split) <;> simp [hf]

theorem fromAbove_keepsFloor (m : Marzin) {own : State → State} (s : State)
    (hf : ∀ s, (own s).drw.serialFloor = s.drw.serialFloor) :
    (fromAbove m own s).drw.serialFloor = s.drw.serialFloor := by
  unfold fromAbove
  (repeat' split) <;> simp [hf, (foldl_floor ..)]

theorem bothWays_keepsFloor (h : MarzinHead) (body : MarzinBody) {own : State → State} (s : State)
    (hf : ∀ s, (own s).drw.serialFloor = s.drw.serialFloor) :
    (bothWays h body own s).drw.serialFloor = s.drw.serialFloor := by
  unfold bothWays
  split
  · simp
  · refine receive_keepsFloor _ _ _ _ (fun s => ?_)
    split
    · exact fromAbove_keepsFloor _ _ hf
    · simp

/-- Occurrences of one cycle leave the floor where the operation that raises them does. -/
theorem sameCycle_keepsFloor {f : State → State} (s : State) (hf : ∀ s, (f s).drw.serialFloor = s.drw.serialFloor) :
    (sameCycle f s).drw.serialFloor = s.drw.serialFloor :=
  sameCycle_keep (fun s => s.drw.serialFloor) (fun o s => (raise_keeps o s).2.2.2) (fun _ _ => rfl) hf s

/-! ### The commands that leave the floor -/

/-- The command leaves the least serial of `s`, where it answers a next state. -/
def FloorStands (s : State) : Host.Outcome State Fault Refusal → Prop
  | .next t => t.drw.serialFloor = s.drw.serialFloor
  | _ => True

@[simp] theorem floorStands_next {s t : State} :
    FloorStands s (.next t) ↔ t.drw.serialFloor = s.drw.serialFloor := Iff.rfl

theorem Kept.floorStands {s : State} {o : Host.Outcome State Fault Refusal} (h : Kept s o) : FloorStands s o := by
  cases o with
  | next t => exact h.2.2.2
  | fault | refused => trivial

/-- The commands that may confirm an update: the end of its watch, and the edge, which counts the watch (R506, R508). -/
def mayConfirm : Instr → Bool
  | .watchComplete | .tickEdge .. => true
  | _ => false

/-- Every other command by the `_keeps` law of what it calls. -/
theorem exec_floorStands (c : Instr) (s : State) (h : mayConfirm c = false) : FloorStands s (exec c s) := by
  by_cases hplain : plainCommand c = true
  · exact (exec_kept s hplain).floorStands
  cases c with
  | watchComplete | tickEdge => cases h
  | bootSelfTestDone =>
    simp only [exec, execBootSelfTestDone]
    (repeat' split) <;> simp
  | carcassLoadDone =>
    simp only [exec, execCarcassLoadDone]
    (repeat' split)
    · exact rfl
    · exact rfl
    · exact (sameCycle_keepsFloor _ (by simp)).trans (by simp)
    · simp
  | vsysResetThreshold | coxLockstepMismatch | coxWatchdogExpiry | pllLoss | serviceReset | fuseProgrammed =>
    simp only [exec, execVsysResetThreshold, execCoxLockstepMismatch, execCoxWatchdogExpiry, execPllLoss,
      execServiceReset, execFuseProgrammed]
    (repeat' split) <;> simp
  | takeoverCopiesLoaded => exact foldl_floor _ (by simp) _ _
  | replayStrokeDone =>
    simp only [exec, execReplayStrokeDone]
    split
    · exact sameCycle_keepsFloor _ (by simp)
    · exact rfl
  | memoryUncorrectable => simp [exec, execMemoryUncorrectable]
  | ethSend =>
    refine service_keepsFloor _ _ _ _ _ (fun s => ?_)
    split
    · exact rfl
    · dsimp only
      (repeat' split) <;> simp
  | ethReceive =>
    refine service_keepsFloor _ _ _ _ _ (fun s => ?_)
    dsimp only
    (repeat' split) <;> simp
  | macTailWrite | macTxStart | macTxComplete | macCollision | macLateCollision | macFrameReceive | macLinkDown =>
    simp only [exec, execMacTailWrite, execMacTxStart, execMacTxComplete, execMacCollision, execMacLateCollision,
      execMacFrameReceive, execMacLinkDown]
    (repeat' split) <;> simp
  | cvuJobDone => simp [exec, execCvuJobDone]
  | crcBlock =>
    refine service_keepsFloor _ _ _ _ _ (fun s => ?_)
    dsimp only
    (repeat' split) <;> simp
  | keyRequestDone => simp [exec, execKeyRequestDone]
  | stageOpen | xfer | verify | start | abandon | rollback | lock =>
    simp only [exec, execStageOpen, execXfer, execVerify, execStart, execAbandon, execRollback, execLock]
    (repeat' split) <;> simp
  | marzinUpdateOrch => exact bothWays_keepsFloor _ _ _ (by simp)
  | arbiterServe =>
    simp only [exec, execArbiterServe]
    (repeat' split) <;> simp [fromAbove_keepsFloor]
  | tagWrite =>
    refine service_keepsFloor _ _ _ _ _ (fun s => ?_)
    (repeat' split) <;> simp
  | presentToken | clearToken | enable | halt | tickStep | tickStepFrozen | release | probeIdleTimeout | trstNLow =>
    simp only [exec, execPresentToken, execClearToken, execEnable, execHalt, execTickStep, execTickStepFrozen,
      execRelease, execProbeIdleTimeout, execTrstNLow]
    (repeat' split) <;> simp
  | svcacc =>
    simp only [exec, execSvcacc]
    (repeat' split) <;> simp
  | stagedWrite | registerWrite =>
    simp only [exec, execStagedWrite, execRegisterWrite]
    (repeat' split) <;> simp
  | _ => exact absurd rfl hplain

/-! ### The commands that may move it -/

/-- The part of an edge between the sampling and the recorder. -/
theorem edgeAct_floor (x : EdgeIn) (s : State) :
    (if s.drw.load = 2 && s.sys.mode ≠ .rigging then edgeRun x s else edgeIdle s).Floor s := by
  split
  · exact edgeRun_floor x s
  · exact .refl (by simp)

/-- The recorder takes its buffer at the end of an edge, which is no confirmation. -/
theorem State.Floor.drained {s u : State} (h : s.Floor u) :
    (if s.sys.boot = .held then s else drainBuffer s).Floor u := by
  split
  · exact h
  · exact h.of_eq (by simp) (by simp)

/-- The sampling at an edge and the recorder after it leave the floor and the confirmation. -/
theorem exec_tickEdge_floor {x : EdgeIn} {s t : State} (h : exec (.tickEdge x) s = .next t) : t.Floor s := by
  change execTickEdge x s = .next t at h
  unfold execTickEdge at h
  split at h
  · cases h
    exact .refl rfl
  · cases h
    exact ((edgeAct_floor x _).of_keep (by simp)).drained

/-- What a command can do to the floor: a confirmation, or nothing. -/
theorem exec_floor (c : Instr) {s t : State} (h : exec c s = .next t) : t.Floor s := by
  cases hc : mayConfirm c with
  | false =>
    have hstands := exec_floorStands c s hc
    rw [h] at hstands
    exact .refl hstands
  | true =>
    cases c with
    | watchComplete =>
      cases h
      exact watchDone_floor s
    | tickEdge x => exact exec_tickEdge_floor h
    | _ => cases hc

/-- Settles O60: a step is a command or none; the end of the watch and the edge move the floor as a confirmation does, every
other command leaves it. -/
theorem serialFloorMoves : Obligations.SerialFloorMoves := by
  unfold Obligations.SerialFloorMoves
  intro s t h
  unfold step at h
  split at h
  · cases h
    exact State.Floor.refl rfl
  · next c r _ => exact (exec_floor c h).of_keep (s := s) rfl

end Sys2Proof.Machine
end

section
/-! PROOFS. Scrub, adoption of a copy, latch clear and coupler change of the jig (R104, R215, R220, R223, R224, R231), for
O16. -/
namespace Sys2Proof.Machine

/-! ### What settles, and what a mismatch reports -/

/-- An evaluation of the matrix leaves the scrub count and the coupler inputs. -/
theorem settleOutputs_cycles_di (s : State) :
    (settleOutputs s).jig.cycles = s.jig.cycles ∧ (settleOutputs s).jig.di = s.jig.di := by
  have h : (settleOutputs s).jig = (evalMatrix s).jig := by simp [settleOutputs]
  rw [h]
  unfold evalMatrix
  split <;> simp

theorem reportScrub_sys (detail : Nat) (s : State) :
    (reportScrub detail s).sys = { s.sys with replace := bset s.sys.replace 6 } := by
  simp [reportScrub, setCause_sys_bset]

/-- A mismatch stands as SCRUB_FAIL with its place, and as the cause JIG for replacement (R56, R224). -/
theorem scrubMismatch_marks (place offset : Nat) (s : State) :
    (scrubMismatch place offset s).jig.scrubFail = true ∧ (scrubMismatch place offset s).jig.where_ = place ∧
    (scrubMismatch place offset s).sys.replace.testBit 6 = true := by
  simp [scrubMismatch, settleOutputs_config, reportScrub_sys, testBit_bset_self]

/-! ### The scrub (R224) -/

@[simp] theorem spoilCopy_nil (j : Jig) : spoilCopy [] j = j := by
  unfold spoilCopy
  split <;> rfl

/-- The jig after a scrub has counted its cycle and read the matrix, in which a fault changed the bytes `flips`. -/
def jigScrubbed (flips : List (Nat × Byte)) (j : Jig) : Jig :=
  { j with
    matrix := flips.foldl (fun b p => lmod b p.1 (fun _ => p.2)) j.matrix
    cycles := (j.cycles + 1) % 2 ^ 24 }

/-- A scrub that finds its copy good, written out: it compares the matrix with the copy. -/
theorem exec_jigScrub_copyOk (flips : List (Nat × Byte)) {s : State} (hactive : s.jig.active = true)
    (hfail : s.jig.scrubFail = false) (hadopt : s.jig.adoptDue = false) (hbody : (jigCopy s.jig).body ≠ [])
    (hok : copyOk (jigCopy s.jig) = true) :
    let settled := settleOutputs { s with jig := jigScrubbed flips s.jig }
    let body := (jigCopy s.jig).body
    exec (.jigScrub [] flips) s = .next (
      if (jigScrubbed flips s.jig).matrix = body then settled
      else scrubMismatch 2 (firstDiff (jigScrubbed flips s.jig).matrix body) settled) := by
  have hgoes : ¬(s.jig.scrubFail || s.jig.adoptDue || (jigCopy s.jig).body.isEmpty) = true := by simp [hfail, hadopt, hbody]
  have hgood : ¬(!copyOk (jigCopy s.jig)) = true := by simp [hok]
  change execJigScrub [] flips s = _
  rw [execJigScrub, if_pos hactive, spoilCopy_nil]
  refine (if_neg hgoes).trans ((if_neg hgood).trans ?_)
  rw [ite_not, apply_ite Host.Outcome.next]
  rfl

theorem jigScrub_matches {s : State} (hactive : s.jig.active = true) (hfail : s.jig.scrubFail = false)
    (hadopt : s.jig.adoptDue = false) (hbody : (jigCopy s.jig).body ≠ []) (hok : copyOk (jigCopy s.jig) = true)
    (hmatrix : s.jig.matrix = (jigCopy s.jig).body) :
    ∃ t, exec (.jigScrub [] []) s = .next t ∧ t.jig.scrubFail = false ∧ t.jig.cycles = (s.jig.cycles + 1) % 2 ^ 24 ∧
      t.jig.matrix = s.jig.matrix ∧ t = { s with jig := t.jig, dio := t.dio } := by
  refine ⟨_, (exec_jigScrub_copyOk [] hactive hfail hadopt hbody hok).trans (congrArg _ (if_pos hmatrix)), ?_⟩
  obtain ⟨-, -, hsame, hclear, -⟩ := settleOutputs_config { s with jig := jigScrubbed [] s.jig }
  exact ⟨hclear.trans hfail, (settleOutputs_cycles_di _).1, hsame, settleOutputs_eq _⟩

theorem jigScrub_differs (i : Nat) (b : Byte) {s : State} (hactive : s.jig.active = true)
    (hfail : s.jig.scrubFail = false) (hadopt : s.jig.adoptDue = false) (hbody : (jigCopy s.jig).body ≠ [])
    (hok : copyOk (jigCopy s.jig) = true) (hmatrix : lmod s.jig.matrix i (fun _ => b) ≠ (jigCopy s.jig).body) :
    ∃ t, exec (.jigScrub [] [(i, b)]) s = .next t ∧ t.jig.scrubFail = true ∧ t.jig.where_ = 2 ∧
      t.sys.replace.testBit 6 = true ∧
      t = { s with sys := t.sys, jig := t.jig, dio := t.dio, evr := t.evr, hie := t.hie, fresh := t.fresh } := by
  refine ⟨_, (exec_jigScrub_copyOk [(i, b)] hactive hfail hadopt hbody hok).trans (congrArg _ (if_neg hmatrix)), ?_⟩
  obtain ⟨hmark, hplace, hcause⟩ := scrubMismatch_marks 2
    (firstDiff (jigScrubbed [(i, b)] s.jig).matrix (jigCopy s.jig).body)
    (settleOutputs { s with jig := jigScrubbed [(i, b)] s.jig })
  exact ⟨hmark, hplace, hcause, State.eq_of_fields (by simp [State.OnlyFreshEvrHie]) rfl rfl rfl⟩

/-! ### The adoption of a copy (R104, R223) -/

theorem jigCopyAdopt_takes {s : State} (hactive : s.jig.active = true) (hadopt : s.jig.adoptDue = true) :
    ∃ t, exec .jigCopyAdopt s = .next t ∧ t.jig.matrix = (jigCopy s.jig).body ∧ t.jig.adoptDue = false ∧
      t = { s with jig := t.jig, dio := t.dio, evr := t.evr, hie := t.hie, fresh := t.fresh } := by
  refine ⟨_, if_pos (by simp [hactive, hadopt]), ?_, ?_, State.eq_of_fields (by simp [State.OnlyFreshEvrHie]) rfl rfl rfl⟩ <;>
    simp [settleOutputs_config]

/-! ### A latch clear (R47, R231) -/

theorem exec_jigLatchClr_open (v : Nat) {s : State} (h : s.enabled.contains .jig = true) :
    exec (.jigLatchClr v) s = .next (latchClr v s) := if_pos h

theorem exec_jigLatchClr_closed (v : Nat) {s : State} (h : s.enabled.contains .jig = false) :
    exec (.jigLatchClr v) s = .next s := if_neg (Bool.eq_false_iff.mp h)

theorem latchClr_key {v : Nat} (s : State) (h : fld v 16 16 = 0x4A43) :
    latchClr v s = raise
      { code := 0x5003, block := 0x05, detail := bit (v.testBit 15) * 2 ^ 31 + (if v.testBit 15 then 0 else fld v 0 7) }
      (clearLatches (v.testBit 15) (fld v 0 7) s) := if_neg (by simp [h])

theorem latchClr_otherKey {v : Nat} (s : State) (h : fld v 16 16 ≠ 0x4A43) :
    latchClr v s = raise { code := 0x0004, block := 0x05, detail := 0x10040010 } s := if_pos h

/-! ### A coupler change (R215, R220) -/

theorem diCouplerChange_sets (n : Fin 32) (b : Bool) {s : State} (hboot : s.sys.boot ≠ .off) :
    ∃ t, exec (.diCouplerChange n b) s = .next t ∧ t.jig.di = bput s.jig.di n.val b ∧
      t = { s with jig := t.jig, dio := t.dio } := by
  refine ⟨_, if_neg hboot, (settleOutputs_cycles_di _).2.trans (by simp),
    State.eq_of_fields (by simp [State.OnlyFreshEvrHie]) ?_ ?_ ?_⟩ <;> simp

/-! ### The obligation -/

/-- Settles O16: the scrub by its comparison of matrix and copy, the other commands each by its own rule. That a block not
enabled takes no latch clear is the model's choice on R47 (log entry 9). -/
theorem jigCommands : Obligations.JigCommands := by
  unfold Obligations.JigCommands
  exact ⟨fun s => jigScrub_matches, fun i b s => jigScrub_differs i b, fun s => jigCopyAdopt_takes,
    fun v s hopen hkey => by rw [exec_jigLatchClr_open v hopen, latchClr_key s hkey, clearLatches],
    fun v s hopen hkey => by rw [exec_jigLatchClr_open v hopen, latchClr_otherKey s hkey],
    fun v s => exec_jigLatchClr_closed v, fun n b s => diCouplerChange_sets n b⟩

end Sys2Proof.Machine
end

section
/-! PROOFS. Reads that latch the tick number and the edge digest (R109, R175), for O11. -/
namespace Sys2Proof.Machine

/-- The two halves of a latched word give the word again. -/
theorem readReg_edgeDigest (s : State) :
    (readReg none .dvt 0x30 s).1 * 2 ^ 32 + (readReg none .dvt 0x2C s).1 = s.dvt.digestLatch.toNat :=
  Nat.div_add_mod' s.dvt.digestLatch.toNat (2 ^ 32)

/-- The latched upper word and the lower word of a tick number give the tick number. -/
theorem highWord_lowWord (tn : Nat) : tn / 2 ^ 32 % 2 ^ 32 * 2 ^ 32 + tn % 2 ^ 32 = tn % 2 ^ 64 := by omega

/-- Settles O11: either read is one command that latches, and the register read after it gives what was latched. -/
theorem latchingReads : Obligations.LatchingReads :=
  ⟨fun _ => rfl, fun s => ⟨_, _, rfl, rfl, highWord_lowWord s.stk.tn⟩, fun _ => rfl, fun _ => ⟨_, rfl, readReg_edgeDigest _⟩⟩

end Sys2Proof.Machine
end

section
/-! PROOFS. Task slots, points and the commit order: what reads back after a change (R147, R148, R153), for O10. -/
namespace Sys2Proof.Machine

/-! ### Task slots -/

theorem task_congr {s t : State} (h : t.stk = s.stk) (n : Nat) : task t n = task s n := by
  rw [task, h, task]

/-- A slot that is not off stands in the table. -/
theorem lt_of_task_st {s : State} {n : Nat} (h : (task s n).st ≠ .off) : n < s.stk.tasks.length := by
  by_contra hn
  rw [task, List.getD_eq_default _ _ (Nat.le_of_not_lt hn)] at h
  exact h rfl

theorem task_modTask_same {s : State} {n : Nat} (f : Task → Task) (h : n < s.stk.tasks.length) :
    task (modTask n f s) n = f (task s n) :=
  getD_lmod_same _ _ _ h

/-- A reading of a task that the change of one slot keeps is the same in every slot after it. -/
theorem task_lmod_keep {β : Type} (g : Task → β) (f : Task → Task) {s t : State} {m : Nat}
    (ht : t.stk.tasks = lmod s.stk.tasks m f) (hf : ∀ x, g (f x) = g x) (n : Nat) : g (task t n) = g (task s n) := by
  by_cases hnm : n = m
  · subst hnm
    rw [task, ht, List.getD_eq_getElem?_getD, getElem?_lmod_same, task, List.getD_eq_getElem?_getD]
    cases s.stk.tasks[n]? with
    | none => rfl
    | some x => exact hf x
  · rw [task, ht, getD_lmod_other _ _ _ hnm, task]

/-! ### Sparse tables -/

/-- An entry of a table of which each entry has changed by its key. -/
theorem tget_map {α β : Type} (g : Nat → α → β) (t : Table α) (k : Nat) :
    tget (t.map (fun p => (p.1, g p.1 p.2))) k = (tget t k).map (g k) := by
  induction t with
  | nil => rfl
  | cons p r ih =>
    obtain ⟨i, a⟩ := p
    rw [List.map_cons, tget, tget]
    split
    case isTrue h => rw [h, Option.map_some]
    case isFalse => exact ih

theorem tget_of_not_mem {α : Type} {t : Table α} {k : Nat} (h : k ∉ t.map (·.1)) : tget t k = none := by
  cases ht : tget t k with
  | none => rfl
  | some a => exact absurd (List.mem_map_of_mem (f := (·.1)) (mem_of_tget ht)) h

/-! ### Points written by a commit (R147) -/

/-- The entry of a point that the commit has written. -/
theorem commitPoint_same (i : Nat) (v : BitVec 64) (q : Byte) (tick : Nat) (s : State) :
    let e := entryOf (commitPoint i v q tick s).dvt.image i
    e.value = (forcedValue s i).getD (normalise (entryOf s.dvt.image i).typ v) ∧ e.quality = withForced s i q ∧
      e.tick = tick % 2 ^ 32 ∧ e.typ = (entryOf s.dvt.image i).typ := by
  have h : (commitPoint i v q tick s).dvt.image = tset s.dvt.image i _ := rfl
  dsimp only
  rw [h, entryOf_tset_same]
  exact ⟨rfl, rfl, rfl, rfl⟩

theorem commitPoint_other {i j : Nat} (v : BitVec 64) (q : Byte) (tick : Nat) (s : State) (h : j ≠ i) :
    entryOf (commitPoint i v q tick s).dvt.image j = entryOf s.dvt.image j :=
  entryOf_tset_other _ _ h

theorem commitPoint_keepsPoints (i : Nat) (v : BitVec 64) (q : Byte) (tick : Nat) (s : State) :
    KeepsPoints s (commitPoint i v q tick s) := by
  refine ⟨by simp, forcedValue_noteUnder i (normalise (entryOf s.dvt.image i).typ v) q s, fun n => ?_⟩
  by_cases hn : n = i
  · subst hn
    exact (commitPoint_same n v q tick s).2.2.2
  · rw [commitPoint_other v q tick s hn]

theorem commitPoint_stream (i : Nat) (v : BitVec 64) (q : Byte) (tick : Nat) (s : State) :
    (commitPoint i v q tick s).dvt.stream = s.dvt.stream := rfl

/-- The points of a write set written in their order. -/
def commitPoints (tick : Nat) (l : Table (BitVec 64 × Byte)) (s : State) : State :=
  l.foldl (fun (s : State) p => commitPoint p.1 p.2.1 p.2.2 tick s) s

theorem commitPoints_absent {tick i : Nat} {l : Table (BitVec 64 × Byte)} (h : tget l i = none) (s : State) :
    entryOf (commitPoints tick l s).dvt.image i = entryOf s.dvt.image i := by
  induction l generalizing s with
  | nil => rfl
  | cons p r ih =>
    obtain ⟨j, v, q⟩ := p
    rw [tget] at h
    split at h
    case isTrue => cases h
    case isFalse hj => exact (ih h _).trans (commitPoint_other v q tick s (Ne.symm hj))

/-- A point that a write set holds once has the entry that this write gives it. -/
theorem commitPoints_written {tick i : Nat} {l : Table (BitVec 64 × Byte)} {v : BitVec 64} {q : Byte}
    (hnodup : (l.map (·.1)).Nodup) (h : tget l i = some (v, q)) (s : State) :
    let e := entryOf (commitPoints tick l s).dvt.image i
    e.value = (forcedValue s i).getD (normalise (entryOf s.dvt.image i).typ v) ∧ e.quality = withForced s i q ∧
      e.tick = tick % 2 ^ 32 := by
  induction l generalizing s with
  | nil => cases h
  | cons p r ih =>
    obtain ⟨j, w, c⟩ := p
    obtain ⟨hnot, hr⟩ := List.nodup_cons.mp hnodup
    rw [tget] at h
    split at h
    case isTrue hj =>
      cases h
      subst hj
      have hsame := commitPoint_same j v q tick s
      rw [← commitPoints_absent (tick := tick) (tget_of_not_mem hnot) (commitPoint j v q tick s)] at hsame
      exact ⟨hsame.1, hsame.2.1, hsame.2.2.1⟩
    case isFalse =>
      obtain ⟨-, hforced, htyp⟩ := commitPoint_keepsPoints j w c tick s
      have hlater := ih hr h (commitPoint j w c tick s)
      dsimp only at hlater
      rwa [hforced, htyp, withForced_congr (hforced i)] at hlater

theorem commitPoints_frame (tick : Nat) (l : Table (BitVec 64 × Byte)) (s : State) : (commitPoints tick l s).OnlyDvtDbg s := by
  unfold commitPoints
  exact foldl_OnlyDvtDbg _ (fun s p => commitPoint_frame p.1 p.2.1 p.2.2 tick s) l s

theorem commitPoints_stream (tick : Nat) (l : Table (BitVec 64 × Byte)) (s : State) :
    (commitPoints tick l s).dvt.stream = s.dvt.stream := by
  unfold commitPoints
  exact foldl_keep (fun s => s.dvt.stream) _ (fun s p => commitPoint_stream p.1 p.2.1 p.2.2 tick s) l s

/-! ### The mark of a skipped writer (R153), and the opening of a version (R148) -/

theorem tget_setSkipped (n : Nat) (b : Bool) (s : State) (i : Nat) :
    tget (setSkipped n b s).dvt.image i = (tget s.dvt.image i).map
      (fun e => if ((ownedBy s.drw.image n).map ptIndex).contains i then { e with skipped := b } else e) := by
  refine Eq.trans (congrArg (tget · i) (List.map_congr_left (fun p _ => ?_))) (tget_map
    (fun i (e : Entry) => if ((ownedBy s.drw.image n).map ptIndex).contains i then { e with skipped := b } else e) _ i)
  dsimp only
  split <;> rfl

/-- The mark of a skipped writer changes nothing else of an entry. -/
theorem entryOf_setSkipped (n : Nat) (b : Bool) (s : State) (i : Nat) :
    ∃ m, entryOf (setSkipped n b s).dvt.image i = { entryOf s.dvt.image i with skipped := m } := by
  rw [entryOf, tget_setSkipped, entryOf]
  cases tget s.dvt.image i with
  | none => exact ⟨_, rfl⟩
  | some e =>
    rw [Option.map_some]
    split
    · exact ⟨b, rfl⟩
    · exact ⟨e.skipped, rfl⟩

/-- Every point that the slot owns carries its mark. -/
theorem setSkipped_owned {n : Nat} (b : Bool) {s : State} {r : Rec} (hr : r ∈ ownedBy s.drw.image n)
    (hsome : (tget s.dvt.image (ptIndex r)).isSome = true) : (entryOf (setSkipped n b s).dvt.image (ptIndex r)).skipped = b := by
  obtain ⟨e, he⟩ := Option.isSome_iff_exists.mp hsome
  rw [entryOf, tget_setSkipped, he, Option.map_some, if_pos (List.contains_iff_mem.mpr (List.mem_map_of_mem hr))]
  rfl

theorem openVersion_entry (i : Nat) (s : State) :
    entryOf (openVersion s).dvt.image i = { entryOf s.dvt.latest i with changed := false } := by
  have h : tget (openVersion s).dvt.image i = (tget s.dvt.latest i).map (fun e => { e with changed := false }) :=
    tget_map (fun _ (e : Entry) => ({ e with changed := false } : Entry)) s.dvt.latest i
  rw [entryOf, h, entryOf]
  cases tget s.dvt.latest i <;> rfl

/-! ### The commit order (R153) -/

theorem insertBy_perm {α : Type} (lt : α → α → Bool) (a : α) (l : List α) : (insertBy lt a l).Perm (a :: l) := by
  induction l with
  | nil => exact .refl _
  | cons b r ih =>
    rw [insertBy]
    split
    · exact .refl _
    · exact (ih.cons b).trans (.swap a b r)

theorem foldl_insertBy_perm {α : Type} (lt : α → α → Bool) (l acc : List α) :
    (l.foldl (fun acc a => insertBy lt a acc) acc).Perm (acc ++ l) := by
  induction l generalizing acc with
  | nil => rw [List.append_nil]; exact .refl _
  | cons a r ih =>
    exact ((ih _).trans ((insertBy_perm lt a acc).append_right r)).trans List.perm_middle.symm

theorem sortBy_perm {α : Type} (lt : α → α → Bool) (l : List α) : (sortBy lt l).Perm l := foldl_insertBy_perm lt l []

/-- A comes before b in the commit order: it has a higher priority, or the same and a lower number. -/
def Precedes (prio : Nat → Nat) (a b : Nat) : Prop := prio b < prio a ∨ (prio a = prio b ∧ a < b)

/-- A slot whose number is above those of an ordered list goes behind its equals. -/
theorem insertBy_precedes {prio : Nat → Nat} {a : Nat} {l : List Nat} (hl : l.Pairwise (Precedes prio)) (ha : ∀ b ∈ l, b < a) :
    (insertBy (fun a b => decide (prio a > prio b)) a l).Pairwise (Precedes prio) := by
  induction l with
  | nil => exact List.pairwise_singleton _ a
  | cons b r ih =>
    obtain ⟨hb, hr⟩ := List.pairwise_cons.mp hl
    rw [insertBy]
    split
    case isTrue hlt =>
      have hlt := of_decide_eq_true hlt
      refine List.pairwise_cons.mpr ⟨fun c hc => .inl ?_, hl⟩
      rcases List.mem_cons.mp hc with rfl | hc
      · exact hlt
      · have := hb c hc
        unfold Precedes at this
        omega
    case isFalse hlt =>
      have hlt : ¬ prio a > prio b := fun h => hlt (decide_eq_true h)
      have hba := ha b (List.mem_cons_self ..)
      refine List.pairwise_cons.mpr ⟨fun c hc => ?_, ih hr (fun c hc => ha c (List.mem_cons_of_mem _ hc))⟩
      rcases List.mem_cons.mp ((insertBy_perm _ a r).mem_iff.mp hc) with rfl | hc
      · unfold Precedes
        omega
      · exact hb c hc

theorem foldl_insertBy_precedes {prio : Nat → Nat} {l acc : List Nat} (hl : l.Pairwise (· < ·))
    (hacc : acc.Pairwise (Precedes prio)) (hlt : ∀ b ∈ acc, ∀ a ∈ l, b < a) :
    (l.foldl (fun acc a => insertBy (fun a b => decide (prio a > prio b)) a acc) acc).Pairwise (Precedes prio) := by
  induction l generalizing acc with
  | nil => exact hacc
  | cons a r ih =>
    obtain ⟨ha, hr⟩ := List.pairwise_cons.mp hl
    refine ih hr (insertBy_precedes hacc (fun b hb => hlt b hb a (List.mem_cons_self ..))) (fun b hb c hc => ?_)
    rcases List.mem_cons.mp ((insertBy_perm _ a acc).mem_iff.mp hb) with rfl | hb
    · exact ha c hc
    · exact hlt b hb c (List.mem_cons_of_mem _ hc)

/-- Slots in ascending order are put into commit order. -/
theorem commitOrder_sorted {s : State} (h : (declaredSlots s).Pairwise (· < ·)) :
    (commitOrder s).Perm (declaredSlots s) ∧ (commitOrder s).Pairwise (Precedes (taskPrio s)) :=
  ⟨sortBy_perm _ _, foldl_insertBy_precedes h .nil (fun _ hb => by cases hb)⟩

end Sys2Proof.Machine
end

section
/-! PROOFS. The end of a drive, and the dispatch of a core (R112, R122, R125, R137), for O10. -/
namespace Sys2Proof.Machine

/-! ### The end of a drive -/

theorem drivenBy_core_lt {s : State} {c n : Nat} {k : Stroke} {x : Copy} (h : drivenBy s c = some (n, k, x)) :
    c < s.cores.length := by
  obtain ⟨hdriving, -, -⟩ := drivenBy_some h
  by_contra hc
  rw [List.getD_eq_default _ _ (Nat.le_of_not_lt hc)] at hdriving
  cases hdriving

/-- A copy that was changed to done stays as it is while its core goes on to another stroke. `u` has the cores of the state
before, and in the slot the stroke with the changed copy. -/
theorem endDrive_keepsCopy {s u : State} {n c : Nat} {k : Stroke} {x : Copy} {f : Copy → Copy}
    (h : drivenBy s c = some (n, k, x)) (hcore : ∀ y, (f y).core = y.core) (hdone : (f x).phase = .done)
    (hcores : u.cores = s.cores) (hstroke : (task u n).stroke = (task (modCopy n c f s) n).stroke) :
    let t := endDrive c (releaseLocks n (some c) u)
    task t n = task u n ∧ ∃ k', (task t n).stroke = some k' ∧ copyOn k' c = some (f x) := by
  obtain ⟨-, hk, hx⟩ := drivenBy_some h
  rw [task_modCopy_same hk] at hstroke
  have hcopy := copyOn_map hcore hx
  have hlocks : task (releaseLocks n (some c) u) n = task u n := task_congr (by simp) n
  obtain ⟨htask, -⟩ := endDrive_done (s := releaseLocks n (some c) u) (n := n) (c := c)
    (by simpa [hcores] using drivenBy_core_lt h) (by rw [hlocks, hstroke]) hcopy hdone
  rw [hlocks] at htask
  exact ⟨htask, _, by rw [htask, hstroke], hcopy⟩

/-- The end of a drive leaves the commit unit but for the count of stored versions. -/
theorem endDrive_stored (c : Nat) (s : State) : (endDrive c s).dvt.stored = s.dvt.stored := by simp [endDrive]

/-- What the end of a drive leaves alone. -/
theorem endDrive_leaves {s u : State} (n c : Nat) (hdvt : u.dvt = s.dvt) (hdio : u.dio = s.dio) (hmem : u.mem = s.mem) :
    let t := endDrive c (releaseLocks n (some c) u)
    t.dvt = { s.dvt with vstore := t.dvt.vstore, vstorePeak := t.dvt.vstorePeak } ∧ t.dio = s.dio ∧ t.mem = s.mem :=
  ⟨eq_of_stored ((endDrive_stored ..).trans (by simp [hdvt])), by simp [hdio], by simp [hmem]⟩

/-- The copy of a stroke that returns with no group open (R112, R150). -/
def returnedCopy (us work n : Nat) (wrote : DriveWrites) (s : State) (x : Copy) : Copy := { x with
  phase := .done, driveUs := us, work := work,
  ws := { x.ws with retained := mergeRetained s n wrote.retained x.ws.retained, work := x.ws.work ++ wrote.state } }

/-- The measures of a drive in its task slot (R137). -/
def noteDrive (us work n : Nat) (s : State) (t : Task) : Task := { t with
  driveLast := us, driveMax := max t.driveMax us, workLast := if taskIsWork s n then work else t.workLast }

theorem exec_strokeReturn_closed {core : Fin 16} {us work n : Nat} {wrote : DriveWrites} {k : Stroke} {x : Copy} {s : State}
    (h : drivenBy s core.val = some (n, k, x)) (hshadow : x.shadow = false) (hgrp : x.ws.grp = .idle ∨ x.ws.grp = .committed) :
    exec (.strokeReturn core us work wrote) s = .next (endDrive core.val (releaseLocks n (some core.val)
      (modTask n (noteDrive us work n s) (modCopy n core.val (returnedCopy us work n wrote s) s)))) := by
  change execStrokeReturn core us work wrote s = _
  rw [execStrokeReturn, h]
  obtain hgrp | hgrp := hgrp <;> simp [hshadow, hgrp] <;> rfl

/-- A stroke returns with no group open (R112, R125, R137). -/
theorem strokeReturn_ends {core : Fin 16} {us work n : Nat} {wrote : DriveWrites} {k : Stroke} {x : Copy} {s : State}
    (h : drivenBy s core.val = some (n, k, x)) (hshadow : x.shadow = false) (hgrp : x.ws.grp = .idle ∨ x.ws.grp = .committed) :
    ∃ t, exec (.strokeReturn core us work wrote) s = .next t ∧ (task t n).driveLast = us ∧
      (∃ k' x', (task t n).stroke = some k' ∧ copyOn k' core.val = some x' ∧ x'.phase = .done ∧ x'.ws.points = x.ws.points ∧
        x'.ws.work = x.ws.work ++ wrote.state) ∧
      t.dvt = { s.dvt with vstore := t.dvt.vstore, vstorePeak := t.dvt.vstorePeak } ∧ t.dio = s.dio ∧ t.mem = s.mem := by
  have hlt : n < (modCopy n core.val (returnedCopy us work n wrote s) s).stk.tasks.length := by
    simpa [modCopy] using drivenBy_lt h
  have hnoted := task_modTask_same (noteDrive us work n s) hlt
  obtain ⟨htask, k', hk', hx'⟩ := endDrive_keepsCopy (f := returnedCopy us work n wrote s)
    (u := modTask n (noteDrive us work n s) (modCopy n core.val (returnedCopy us work n wrote s) s))
    h (fun _ => rfl) rfl rfl (by rw [hnoted]; rfl)
  refine ⟨_, exec_strokeReturn_closed h hshadow hgrp, by rw [htask, hnoted]; rfl, ⟨k', _, hk', hx', rfl, rfl, rfl⟩, ?_⟩
  exact endDrive_leaves n core.val rfl rfl rfl

/-- The copy of a stroke whose drive is stopped (R125, R127). -/
def stoppedCopy (k : SkipKind) (x : Copy) : Copy := { x with phase := .done, stop := some k, ws := discardWs x.ws 3 }

theorem stopDrive_eq {n c : Nat} (k : SkipKind) {s : State} (hshadow : isShadow s n c = false) :
    stopDrive n c k s = endDrive c (releaseLocks n (some c) (modCopy n c (stoppedCopy k) s)) :=
  if_neg (by rw [hshadow]; exact Bool.false_ne_true)

/-- A drive that runs out of its work budget is stopped (R125). -/
theorem budgetExhausted_stops {core : Fin 16} {n : Nat} {k : Stroke} {x : Copy} {s : State}
    (h : drivenBy s core.val = some (n, k, x)) (hwork : taskIsWork s n = true) (hshadow : isShadow s n core.val = false) :
    ∃ t, exec (.budgetExhausted core) s = .next t ∧
      (∃ k' x', (task t n).stroke = some k' ∧ copyOn k' core.val = some x' ∧ x'.phase = .done ∧ x'.stop = some .budget ∧
        x'.ws.points = [] ∧ x'.ws.msgs = []) ∧
      t.dvt = { s.dvt with vstore := t.dvt.vstore, vstorePeak := t.dvt.vstorePeak } ∧ t.dio = s.dio ∧ t.mem = s.mem := by
  have hexec : exec (.budgetExhausted core) s = .next (endDrive core.val (releaseLocks n (some core.val)
      (modCopy n core.val (stoppedCopy .budget) s))) := by
    change execBudgetExhausted core s = _
    rw [execBudgetExhausted, h, ← stopDrive_eq .budget hshadow]
    exact if_pos hwork
  obtain ⟨-, k', hk', hx'⟩ := endDrive_keepsCopy (f := stoppedCopy .budget) (u := modCopy n core.val (stoppedCopy .budget) s)
    h (fun _ => rfl) rfl rfl rfl
  exact ⟨_, hexec, ⟨k', _, hk', hx', rfl, rfl, rfl, rfl⟩, endDrive_leaves n core.val rfl rfl rfl⟩

theorem exec_coreWake_runs {core : Fin 16} {s : State} (hruns : coreRuns s core.val = true)
    (hseat : tget s.wke.seats core.val ≠ some .free) :
    exec (.coreWake core) s = .next (wakeCore core.val s) :=
  if_pos (by simp [hruns, hseat])

/-! ### Dispatch -/

/-- A core takes a ready stroke into drive. -/
theorem startDrive_core (n : Nat) {c : Nat} {s : State} (h : c < s.cores.length) :
    ((startDrive n c s).cores.getD c {}).driving = some n ∧ ((startDrive n c s).cores.getD c {}).powered = true := by
  rw [startDrive, modCore_cores, getD_lmod_same _ _ _ (by simpa using h)]
  exact ⟨rfl, rfl⟩

/-- A core that drives no stroke, or one of lower priority, takes its best ready one (R122). -/
theorem dispatchCore_takes {c n : Nat} {s : State} (hc : c < s.cores.length) (hruns : coreRuns s c = true)
    (hbest : bestReady s c = some n)
    (hlower : ((s.cores.getD c {}).driving.elim true (fun m => decide (taskPrio s m < taskPrio s n))) = true) :
    ((dispatchCore s c).cores.getD c {}).driving = some n ∧ ((dispatchCore s c).cores.getD c {}).powered = true := by
  rw [dispatchCore, if_pos hruns, hbest]
  cases hdriving : (s.cores.getD c {}).driving with
  | none => exact startDrive_core n hc
  | some m =>
    rw [hdriving] at hlower
    dsimp only
    rw [if_pos (of_decide_eq_true hlower)]
    exact startDrive_core n (by simpa using hc)

end Sys2Proof.Machine
end

section
/-! PROOFS. The release of a stroke at its edge: its write set committed, or its skip (R124 to R128, R147, R150, R153,
R171, R172, R183), for O10. -/
namespace Sys2Proof.Machine

/-! ### What the parts of a release leave of the version, the digest's stream and the slot -/

/-- The version in the making, and the stream of its digest. -/
def Dvt.version (d : Dvt) : Image × List Byte := (d.image, d.stream)

/-- A task slot apart from its messages, its group and the copy that waits for the checkpoint writer (R188). -/
def Task.drives (t : Task) : Task := { t with seqs := [], inbox := [], drops := 0, grpLast := 0, third := none }

/-- What `drives` reads of a slot. -/
theorem Task.reads_of_drives {t u : Task} (h : t.drives = u.drives) :
    t.st = u.st ∧ t.strokes = u.strokes ∧ t.digest = u.digest ∧ t.lastKind = u.lastKind := by
  have hst := congrArg Task.st h
  have hstrokes := congrArg Task.strokes h
  have hdigest := congrArg Task.digest h
  have hkind := congrArg Task.lastKind h
  exact ⟨hst, hstrokes, hdigest, hkind⟩

theorem dvtFault_version (k slot detail addr : Nat) (s : State) : (dvtFault k slot detail addr s).dvt.version = s.dvt.version := by
  simp only [dvtFault, (raise_frame ..)]
  split <;> rfl

theorem deliver_version (tn : Nat) (s : State) (m : Msg) : (deliver tn s m).dvt.version = s.dvt.version := by
  unfold deliver
  dsimp only
  split
  · rfl
  · rw [dvtFault_version]
    rfl

/-- A sender counts a message to a receiver (R160). -/
def countSend (dest seq : Nat) (t : Task) : Task := { t with seqs := tset t.seqs dest ((seq + 1) % 65536) }

theorem deliver_drives (tn : Nat) (s : State) (m : Msg) (n : Nat) : (task (deliver tn s m) n).drives = (task s n).drives := by
  have hsend := task_lmod_keep Task.drives (countSend m.dest (tnum (task s m.sender).seqs m.dest))
    (t := modTask m.sender _ s) rfl (fun _ => rfl) n
  rw [← hsend]
  unfold deliver
  dsimp only
  split
  · exact task_lmod_keep Task.drives (fun t => { t with inbox := t.inbox ++ [_] }) rfl (fun _ => rfl) n
  · rw [dvtFault_task]
    exact task_lmod_keep Task.drives (fun t => { t with drops := sat 16 t.drops 1 }) rfl (fun _ => rfl) n

/-- A delivery adds to the record of the edge. -/
theorem deliver_cur (tn : Nat) (s : State) (m : Msg) : s.wke.cur <+: (deliver tn s m).wke.cur := by
  unfold deliver
  dsimp only
  split
  · exact List.prefix_append ..
  · simp only [(dvtFault_frame ..)]
    exact List.prefix_append ..

theorem foldl_deliver_cur (tn : Nat) (l : List Msg) (s : State) : s.wke.cur <+: (l.foldl (deliver tn) s).wke.cur := by
  induction l generalizing s with
  | nil => exact List.prefix_rfl
  | cons m l ih => exact (deliver_cur tn s m).trans (ih _)

theorem applyGroup_version (slot : Nat) (w : WriteSet) (s : State) : (applyGroup slot w s).dvt.version = s.dvt.version := by
  have hraise (o : Occ) (u : State) : (raise o u).dvt = u.dvt := by simp
  unfold applyGroup
  split
  · split
    · rfl
    · dsimp only
      rw [modTask_dvt]
      exact foldl_keep (fun s => s.dvt.version) _ (fun u o => congrArg Dvt.version (hraise _ u)) _ s
  · rfl

theorem applyGroup_drives (slot : Nat) (w : WriteSet) (s : State) (n : Nat) :
    (task (applyGroup slot w s) n).drives = (task s n).drives := by
  have hraise (o : Occ) (u : State) : task (raise o u) n = task u n := task_congr (by simp) n
  unfold applyGroup
  split
  · split
    · exact task_lmod_keep Task.drives (fun t => { t with grpLast := 4 }) rfl (fun _ => rfl) n
    · refine Eq.trans (task_lmod_keep Task.drives (fun t => { t with grpLast := 1 }) (m := slot) (s := List.foldl _ s _) rfl
        (fun _ => rfl) n) ?_
      exact foldl_keep (fun s => (task s n).drives) _ (fun u o => congrArg Task.drives (hraise _ u)) _ s
  · rfl

/-! ### The stages of a commit (R150, R153) -/

/-- The points of a write set stand in the version, and the mark of a skip is gone. -/
def placePoints (slot catchTn : Nat) (w : WriteSet) (s : State) : State := commitPoints catchTn w.points (setSkipped slot false s)

/-- The working copy and the retained words of a write set stand in memory. -/
def placeState (slot : Nat) (w : WriteSet) (s : State) : State := w.retained.foldl (writeRetained slot) (commitState slot w.work s)

/-- The entries of a write set in the record of the edge. -/
def wsEntries (slot : Nat) (d : BitVec 64) (w : WriteSet) (s : State) : List JEntry :=
  [.wset slot d] ++ w.points.map (fun p => .point (p.2.2 &&& 0xFB).toNat p.1 (normalise (pointType s p.1) p.2.1))

/-- A committed stroke in its slot: the messages it took are gone, its digest and its count stand. -/
def countStroke (d : BitVec 64) (taken : Nat) (t : Task) : Task :=
  { takeMessages taken t with digest := d, strokes := sat 32 t.strokes 1, lastKind := 0 }

/-- A write set placed and counted, before its messages and its group. -/
def placeWs (slot catchTn : Nat) (w : WriteSet) (s : State) : State :=
  let t := placeState slot w (placePoints slot catchTn w s)
  modTask slot (countStroke (wsDigest s slot catchTn w) w.taken) (jAdd (wsEntries slot (wsDigest s slot catchTn w) w t) t)

theorem applyWs_eq (slot catchTn tn : Nat) (w : WriteSet) (s : State) : applyWs slot catchTn tn w s =
    addStream ([0x10] ++ leBytes 8 (wsDigest s slot catchTn w).toNat)
      (applyGroup slot w (w.msgs.foldl (deliver tn) (placeWs slot catchTn w s))) := rfl

theorem placePoints_frame (slot catchTn : Nat) (w : WriteSet) (s : State) : (placePoints slot catchTn w s).OnlyDvtDbg s := by
  simp [placePoints, (commitPoints_frame ..), State.OnlyDvtDbg]

theorem placeState_frame (slot : Nat) (w : WriteSet) (s : State) : (placeState slot w s).OnlyStkMem s := by
  unfold placeState
  have h := foldl_OnlyMem _ (fun s p => writeRetained_frame slot s p) w.retained (commitState slot w.work s)
  simp [State.OnlyStkMem, h]

theorem placeWs_dvt (slot catchTn : Nat) (w : WriteSet) (s : State) :
    (placeWs slot catchTn w s).dvt = (placePoints slot catchTn w s).dvt := by
  simp [placeWs, (placeState_frame ..)]

theorem placeWs_cur (slot catchTn : Nat) (w : WriteSet) (s : State) :
    (s.wke.cur ++ [.wset slot (wsDigest s slot catchTn w)]) <+: (placeWs slot catchTn w s).wke.cur := by
  have h : (placeState slot w (placePoints slot catchTn w s)).wke = s.wke := by simp [(placeState_frame ..), (placePoints_frame ..)]
  rw [placeWs, modTask_wke, jAdd, h]
  exact ⟨_, List.append_assoc ..⟩

theorem placePoints_stream (slot catchTn : Nat) (w : WriteSet) (s : State) :
    (placePoints slot catchTn w s).dvt.stream = s.dvt.stream := commitPoints_stream ..

theorem commitState_drives (n : Nat) (work : List (Nat × Byte)) (s : State) (m : Nat) :
    (task (commitState n work s) m).drives = (task s m).drives := by
  have hput (l : List (Nat × Byte)) (u : State) : task (putState n l u) m = task u m := rfl
  unfold commitState
  dsimp only
  rw [hput]
  split
  · exact task_lmod_keep Task.drives (fun t => { t with third := some (committedCopy s n) }) (t := modTask n _ s) rfl
      (fun _ => rfl) m
  · rfl

theorem placeState_drives (slot : Nat) (w : WriteSet) (s : State) (m : Nat) :
    (task (placeState slot w s) m).drives = (task s m).drives := by
  have hframe := foldl_OnlyMem _ (fun u p => writeRetained_frame slot u p) w.retained (commitState slot w.work s)
  have hstk : (placeState slot w s).stk = (commitState slot w.work s).stk := by simp only [placeState, hframe]
  rw [task_congr hstk, commitState_drives]

/-- The slot of a committed stroke: counted, with its digest (R140, R175). -/
theorem applyWs_task {slot : Nat} (catchTn tn : Nat) (w : WriteSet) {s : State} (h : (task s slot).st ≠ .off) :
    let t := task (applyWs slot catchTn tn w s) slot
    t.st = (task s slot).st ∧ t.strokes = sat 32 (task s slot).strokes 1 ∧ t.digest = wsDigest s slot catchTn w ∧ t.lastKind = 0 := by
  have hpoints : task (placePoints slot catchTn w s) slot = task s slot := task_congr (by simp only [(placePoints_frame ..)]) slot
  have hstate := placeState_drives slot w (placePoints slot catchTn w s) slot
  rw [hpoints] at hstate
  obtain ⟨hst, hstrokes, -, -⟩ := Task.reads_of_drives hstate
  have hplaced := task_modTask_same (s := placeState slot w (placePoints slot catchTn w s))
    (countStroke (wsDigest s slot catchTn w) w.taken) (lt_of_task_st (by rwa [hst]))
  have hlater : (task (applyWs slot catchTn tn w s) slot).drives = (task (placeWs slot catchTn w s) slot).drives :=
    (applyGroup_drives ..).trans (foldl_keep (fun s => (task s slot).drives) _ (fun u m => deliver_drives tn u m slot) w.msgs _)
  obtain ⟨hst', hstrokes', hdigest', hkind'⟩ := Task.reads_of_drives (hlater.trans (congrArg Task.drives hplaced))
  exact ⟨hst'.trans hst, hstrokes'.trans (congrArg (sat 32 · 1) hstrokes), hdigest', hkind'⟩

/-- The version after a commit, and the stream of its digest (R171, R172). -/
theorem applyWs_version (slot catchTn tn : Nat) (w : WriteSet) (s : State) :
    (applyWs slot catchTn tn w s).dvt.image = (placePoints slot catchTn w s).dvt.image ∧
    (applyWs slot catchTn tn w s).dvt.stream = s.dvt.stream ++ ([0x10] ++ leBytes 8 (wsDigest s slot catchTn w).toNat) := by
  have h : (applyGroup slot w (w.msgs.foldl (deliver tn) (placeWs slot catchTn w s))).dvt.version =
      (placePoints slot catchTn w s).dvt.version :=
    ((applyGroup_version ..).trans (foldl_keep (fun s => s.dvt.version) _ (deliver_version tn) w.msgs _)).trans
      (congrArg Dvt.version (placeWs_dvt ..))
  rw [applyWs_eq]
  exact ⟨congrArg Prod.fst h, congrArg (· ++ _) ((congrArg Prod.snd h).trans (placePoints_stream ..))⟩

theorem applyWs_cur (slot catchTn tn : Nat) (w : WriteSet) (s : State) :
    (s.wke.cur ++ [.wset slot (wsDigest s slot catchTn w)]) <+: (applyWs slot catchTn tn w s).wke.cur := by
  have h : (applyWs slot catchTn tn w s).wke = (w.msgs.foldl (deliver tn) (placeWs slot catchTn w s)).wke := by
    rw [applyWs_eq]
    simp
  rw [h]
  exact (placeWs_cur ..).trans (foldl_deliver_cur ..)

/-- Memory after a commit is what the stroke's working copy and retained words make of it. -/
theorem applyWs_mem (slot catchTn tn : Nat) (w : WriteSet) (s : State) :
    (applyWs slot catchTn tn w s).mem = (placeState slot w (placePoints slot catchTn w s)).mem := by
  have hmsgs : (w.msgs.foldl (deliver tn) (placeWs slot catchTn w s)).mem = (placeWs slot catchTn w s).mem :=
    foldl_mem _ (fun u m => (deliver_keeps tn u m).2.1) w.msgs _
  simp only [applyWs_eq, (addStream_keeps ..), (applyGroup_keeps ..), hmsgs]
  rfl

/-- A stroke with an empty working copy leaves the committed one (R180). -/
theorem commitState_nil_mem (n : Nat) (s : State) : (commitState n [] s).mem = s.mem := by
  unfold commitState
  dsimp only
  split <;> rfl

theorem placeState_mem_nil {slot : Nat} {w : WriteSet} (s : State) (hwork : w.work = []) (hret : w.retained = []) :
    (placeState slot w s).mem = s.mem := by
  rw [placeState, hret, hwork]
  exact commitState_nil_mem slot s

/-- One retained word goes to its place (R132). -/
theorem placeState_mem_word {slot o a : Nat} {v : BitVec 64} {w : WriteSet} {s : State} (hwork : w.work = [])
    (hret : w.retained = [(o, v)]) (haddr : retAddr (retWins s.drw.image slot) o = some a) :
    (placeState slot w s).mem = Memory.writeN s.mem a (leBytes 8 v.toNat) := by
  have hdrw : (commitState slot [] s).drw = s.drw := by simp
  rw [placeState, hret, hwork, List.foldl_cons, List.foldl_nil, writeRetained, hdrw, haddr, commitState_nil_mem]

/-! ### A skip (R124 to R128, R153) -/

/-- A skip counted in its slot (R140). -/
def countSkip (k : SkipKind) (t : Task) : Task := { t with
  skips := sat 32 t.skips 1, skipSeen := true, lastKind := lastKindCode k,
  lates := if k = .late then sat 32 t.lates 1 else t.lates, lateSeen := t.lateSeen || decide (k = .late) }

/-- A skip counted, journalled and marked, before its trigger and its event. -/
def noteSkip (slot : Nat) (k : SkipKind) (flags : Nat) (s : State) : State :=
  let t := modTask slot (countSkip k)
    (jAdd [.skip slot k flags 0] (addStream [0x11, b8 slot, b8 (skipCode k)] (setSkipped slot true s)))
  { t with stk := { t.stk with
    skipTotal := sat 32 t.stk.skipTotal 1, lateTotal := if k = .late then sat 32 t.stk.lateTotal 1 else t.stk.lateTotal } }

/-- The trigger and the event of a skip change no task, no point, no record and no byte. -/
theorem skipTask_noted (slot : Nat) (k : SkipKind) (flags catchTn : Nat) (s : State) :
    let t := skipTask slot k flags catchTn s
    t.stk = (noteSkip slot k flags s).stk ∧ t.dvt = (noteSkip slot k flags s).dvt ∧ t.wke = (noteSkip slot k flags s).wke := by
  have htrigger (c : Prop) [Decidable c] (u : State) :
      (if c then trigger 1 slot u else u).stk = u.stk ∧ (if c then trigger 1 slot u else u).dvt = u.dvt ∧
        (if c then trigger 1 slot u else u).wke = u.wke := by
    split <;> simp
  unfold skipTask
  dsimp only
  split
  · exact htrigger _ _
  · simp only [(raise_frame ..)]
    exact htrigger _ _

/-! ### The release -/

/-- A slot after its release is armed for this edge; a skipped stroke's observations are pending again (R128, R130). -/
theorem afterRelease_task {n : Nat} (e : Nat) (skipped : Bool) {s : State} (h : (task s n).st ≠ .off) :
    task (afterRelease n e skipped s) n = { (if skipped then loseStroke (task s n) else task s n) with
      st := .armed, stroke := none, due := e, relReg := s.stk.tn % 2 ^ 32 } := by
  have hfree : (freeCores n s).stk = s.stk := by simp
  rw [afterRelease, task_modTask_same _ (by rw [hfree]; exact lt_of_task_st h), task_congr hfree]

/-- A stroke of one copy reaches its release at this edge: its slot is live, takes part in no settlement, and its copy is no
shadow. -/
structure Releases (s : State) (n : Nat) (k : Stroke) (x : Copy) : Prop where
  live : (task s n).st = .live
  stroke : (task s n).stroke = some k
  now : k.relEdge = s.stk.edges
  copies : k.copies = [x]
  own : x.shadow = false
  paired : s.wke.alone.contains n = false
  settled : ∀ y ∈ s.wke.settles, y.slot ≠ n

section
variable {s : State} {n : Nat} {k : Stroke} {x : Copy} (h : Releases s n k x)
include h

theorem applySettled_of_releases : applySettled n s = s := by
  have hnone : s.wke.settles.filter (fun x => decide (x.slot = n)) = [] :=
    List.filter_eq_nil_iff.mpr (fun y hy => by simpa using h.settled y hy)
  rw [applySettled, hnone, List.foldl_nil]

theorem commitSlot_eq_releaseStroke : commitSlot s n = releaseStroke n k s := by
  rw [commitSlot, applySettled_of_releases h]
  simp only [h.live, h.stroke, h.now, if_true]

theorem shadowRelease_of_releases (o : Outcome) : shadowRelease n k o s = s := by simp [shadowRelease, h.copies, h.own]

theorem ownCopies_of_releases : k.copies.filter (fun x => !x.shadow) = [x] := by
  rw [h.copies]
  simp [h.own]

theorem commitSlot_of_commit {w : WriteSet} (hw : classify s n { k with copies := [x] } = .commit w) :
    commitSlot s n = afterRelease n s.stk.edges false (applyWs n k.catchTn s.stk.tn w s) := by
  rw [commitSlot_eq_releaseStroke h, releaseStroke]
  simp only [ownCopies_of_releases h, shadowRelease_of_releases h, h.paired, Bool.false_eq_true, if_false, hw]

theorem commitSlot_of_skip {kd : SkipKind} (hkd : classify s n { k with copies := [x] } = .skip kd) :
    commitSlot s n = afterRelease n s.stk.edges true (skipTask n kd (if kd = .late then 1 else 0) k.catchTn s) := by
  rw [commitSlot_eq_releaseStroke h, releaseStroke]
  simp only [ownCopies_of_releases h, shadowRelease_of_releases h, h.paired, Bool.false_eq_true, if_false, hkd]

end

/-- The kind of a skip: that of a drive stopped, else LATE or OVERRUN by the deadline mode (R124, R126, R546). -/
def missKind (s : State) (n : Nat) (x : Copy) : SkipKind :=
  x.stop.getD (if taskIsWork s n && s.sys.mode ≠ .debug then .late else .overrun)

theorem classify_returned (s : State) (n : Nat) (k : Stroke) {x : Copy} (hdone : x.phase = .done) (hstop : x.stop = none) :
    classify s n { k with copies := [x] } = .commit x.ws := by
  have hreturned : returned x = true := by simp [returned, hdone, hstop]
  rw [classify]
  exact if_pos hreturned

theorem classify_missed (s : State) (n : Nat) (k : Stroke) {x : Copy} (hmissed : x.phase ≠ .done ∨ x.stop ≠ none) :
    classify s n { k with copies := [x] } = .skip (missKind s n x) := by
  have hreturned : ¬ returned x = true := by
    rw [returned]
    obtain hphase | hstop := hmissed
    · simp [hphase]
    · simp [Option.isNone_iff_eq_none, hstop]
  rw [classify]
  exact if_neg hreturned

end Sys2Proof.Machine
end

section
/-! PROOFS. The life of a stroke at the edge: what its release, its catch and its observations leave, the commit and the seal
of a version (R112, R117, R128, R147, R148, R153, R154), and with them O10. -/
namespace Sys2Proof.Machine

/-! ### A returned stroke commits -/

section
variable {s : State} {n : Nat} {k : Stroke} {x : Copy} (h : Releases s n k x)
include h

theorem Releases.st_ne_off : (task s n).st ≠ .off := by rw [h.live]; exact TaskSt.noConfusion

theorem commitSlot_returned (hdone : x.phase = .done) (hstop : x.stop = none) :
    commitSlot s n = afterRelease n s.stk.edges false (applyWs n k.catchTn s.stk.tn x.ws s) :=
  commitSlot_of_commit h (classify_returned s n k hdone hstop)

/-- The slot of a committed stroke is armed and due, and has counted it. -/
theorem commitSlot_returned_task (hdone : x.phase = .done) (hstop : x.stop = none) :
    let t := task (commitSlot s n) n
    t.st = .armed ∧ t.stroke = none ∧ t.due = s.stk.edges ∧ t.lastKind = 0 ∧ t.strokes = sat 32 (task s n).strokes 1 ∧
      t.digest = wsDigest s n k.catchTn x.ws := by
  obtain ⟨hst, hstrokes, hdigest, hkind⟩ := applyWs_task k.catchTn s.stk.tn x.ws h.st_ne_off
  have hoff : (task (applyWs n k.catchTn s.stk.tn x.ws s) n).st ≠ .off := by rw [hst]; exact h.st_ne_off
  rw [commitSlot_returned h hdone hstop, afterRelease_task _ _ hoff]
  exact ⟨rfl, rfl, rfl, hkind, hstrokes, hdigest⟩

/-- The version, the record and memory after a committed stroke are what its write set makes of them. -/
theorem commitSlot_returned_leaves (hdone : x.phase = .done) (hstop : x.stop = none) :
    (commitSlot s n).dvt = (applyWs n k.catchTn s.stk.tn x.ws s).dvt ∧
    (commitSlot s n).wke = (applyWs n k.catchTn s.stk.tn x.ws s).wke ∧
    (commitSlot s n).mem = (placeState n x.ws (placePoints n k.catchTn x.ws s)).mem := by
  rw [commitSlot_returned h hdone hstop]
  exact ⟨by simp, by simp, by simp [applyWs_mem]⟩

end

/-- A point that a write set holds has the value and quality it was given. -/
theorem placePoints_written {n tick i : Nat} {w : WriteSet} {v : BitVec 64} {q : Byte} (s : State)
    (hnodup : (w.points.map (·.1)).Nodup) (h : tget w.points i = some (v, q)) :
    let e := entryOf (placePoints n tick w s).dvt.image i
    e.value = (forcedValue s i).getD (normalise (entryOf s.dvt.image i).typ v) ∧ e.quality = withForced s i q ∧
      e.tick = tick % 2 ^ 32 := by
  obtain ⟨m, hm⟩ := entryOf_setSkipped n false s i
  have hwritten := commitPoints_written (tick := tick) hnodup h (setSkipped n false s)
  rw [hm] at hwritten
  exact hwritten

/-- Every other point keeps its value and quality. -/
theorem placePoints_absent {n tick i : Nat} {w : WriteSet} (s : State) (h : tget w.points i = none) :
    (entryOf (placePoints n tick w s).dvt.image i).value = (entryOf s.dvt.image i).value ∧
      (entryOf (placePoints n tick w s).dvt.image i).quality = (entryOf s.dvt.image i).quality := by
  obtain ⟨m, hm⟩ := entryOf_setSkipped n false s i
  rw [placePoints, commitPoints_absent h, hm]
  exact ⟨rfl, rfl⟩

/-! ### Any other stroke is skipped -/

/-- A task that loses its stroke has its observations pending again (R128). -/
theorem loseStroke_pending {t : Task} {k : Stroke} (h : t.stroke = some k) :
    (loseStroke t).pend = min 65535 (t.pend + k.triggers) ∧ (loseStroke t).pendSrc = (t.pendSrc ||| k.sources) ∧
      (loseStroke t).pendRetry = (t.pendRetry || decide (0 < k.triggers)) ∧ (loseStroke t).skips = t.skips ∧
      (loseStroke t).lastKind = t.lastKind := by
  rw [loseStroke, loseStrokeAs, h]
  exact ⟨rfl, rfl, rfl, rfl, rfl⟩

section
variable {s : State} {n : Nat} {k : Stroke} {x : Copy} (h : Releases s n k x)
include h

theorem commitSlot_missed (hmissed : x.phase ≠ .done ∨ x.stop ≠ none) :
    commitSlot s n = afterRelease n s.stk.edges true
      (skipTask n (missKind s n x) (if missKind s n x = .late then 1 else 0) k.catchTn s) :=
  commitSlot_of_skip h (classify_missed s n k hmissed)

/-- The slot of a skipped stroke is armed and due, has counted the skip, and keeps the stroke's observations. -/
theorem commitSlot_missed_task (hmissed : x.phase ≠ .done ∨ x.stop ≠ none) :
    let t := task (commitSlot s n) n
    t.st = .armed ∧ t.stroke = none ∧ t.due = s.stk.edges ∧ t.lastKind = lastKindCode (missKind s n x) ∧
      t.skips = sat 32 (task s n).skips 1 ∧ t.pend = min 65535 ((task s n).pend + k.triggers) ∧
      t.pendSrc = ((task s n).pendSrc ||| k.sources) ∧
      t.pendRetry = ((task s n).pendRetry || decide (0 < k.triggers)) := by
  obtain ⟨hstk, -, -⟩ := skipTask_noted n (missKind s n x) (if missKind s n x = .late then 1 else 0) k.catchTn s
  have hcounted : task (skipTask n (missKind s n x) (if missKind s n x = .late then 1 else 0) k.catchTn s) n =
      countSkip (missKind s n x) (task s n) :=
    (task_congr hstk n).trans (getD_lmod_same _ _ _ (lt_of_task_st h.st_ne_off))
  obtain ⟨hpend, hsrc, hretry, hskips, hkind⟩ := loseStroke_pending (t := countSkip (missKind s n x) (task s n)) h.stroke
  rw [commitSlot_missed h hmissed, afterRelease_task _ _ (by rw [hcounted]; exact h.st_ne_off), hcounted]
  exact ⟨rfl, rfl, rfl, hkind, hskips, hpend, hsrc, hretry⟩

/-- The total, the version, the record and memory after a skip. -/
theorem commitSlot_missed_leaves (hmissed : x.phase ≠ .done ∨ x.stop ≠ none) :
    let kd := missKind s n x
    let t := commitSlot s n
    t.stk.skipTotal = sat 32 s.stk.skipTotal 1 ∧ t.dvt.image = (setSkipped n true s).dvt.image ∧
      t.dvt.stream = s.dvt.stream ++ [0x11, b8 n, b8 (skipCode kd)] ∧
      t.wke.cur = s.wke.cur ++ [.skip n kd (if kd = .late then 1 else 0) 0] ∧ t.mem = s.mem := by
  obtain ⟨hstk, hdvt, hwke⟩ := skipTask_noted n (missKind s n x) (if missKind s n x = .late then 1 else 0) k.catchTn s
  have htotal (e : Nat) (b : Bool) (u : State) : (afterRelease n e b u).stk.skipTotal = u.stk.skipTotal := by
    simp [afterRelease]
  dsimp only
  rw [commitSlot_missed h hmissed, htotal, hstk]
  simp only [(afterRelease_frame ..), (skipTask_frame ..), hdvt, hwke]
  exact ⟨rfl, rfl, rfl, rfl, trivial⟩

end

/-! ### Catches (R112, R119, R130) -/

/-- What a task catches: the sealed version, its inbox and what is pending. -/
theorem catchTask_task {n : Nat} {s : State} (h : (task s n).st ≠ .off) :
    ∃ k, (task (catchTask n s) n).stroke = some k ∧ (task (catchTask n s) n).st = .live ∧ k.catchTn = s.stk.tn ∧
      k.relEdge = s.stk.edges + taskPeriod s n ∧ k.snap = s.dvt.latest ∧ k.inboxSeen = (task s n).inbox.length ∧
      k.triggers = (task s n).pend ∧ k.sources = (task s n).pendSrc ∧ k.retry = (task s n).pendRetry ∧
      (∀ x ∈ k.copies, x.phase = .ready ∧ x.ws = {}) ∧ (task (catchTask n s) n).pend = 0 ∧
      (task (catchTask n s) n).pendRetry = false := by
  have hshadow (u : State) : task (shadowState n u) n = task u n := task_congr (by simp) n
  rw [catchTask, hshadow, task_modTask_same _ (lt_of_task_st h)]
  refine ⟨_, rfl, rfl, rfl, rfl, rfl, rfl, rfl, rfl, rfl, fun x hx => ?_, rfl, rfl⟩
  rcases List.mem_append.mp hx with hx | hx
  · obtain ⟨c, -, rfl⟩ := List.mem_map.mp hx
    exact ⟨rfl, rfl⟩
  · obtain ⟨c, -, rfl⟩ := List.mem_map.mp hx
    exact ⟨rfl, rfl⟩

/-- An armed task is due: observations are pending for an event task, its edge has come for a cyclic one (R113, R118). -/
theorem catchDue_of_due {n : Nat} {s : State} (harmed : (task s n).st = .armed)
    (hdue : if taskIsEvent s n then 0 < (task s n).pend else (task s n).due = s.stk.edges) : catchDue s n = catchTask n s := by
  rw [catchDue]
  rw [if_pos harmed]
  by_cases hevent : taskIsEvent s n = true
  · rw [if_pos hevent] at hdue ⊢
    exact if_pos hdue
  · rw [if_neg hevent] at hdue ⊢
    exact if_pos hdue

theorem catchDue_of_not_due {n : Nat} {s : State} (h : (task s n).st ≠ .armed ∨
    (if taskIsEvent s n then (task s n).pend = 0 else (task s n).due ≠ s.stk.edges)) : catchDue s n = s := by
  rw [catchDue]
  by_cases harmed : (task s n).st = .armed
  · have h := h.resolve_left (not_not_intro harmed)
    rw [if_pos harmed]
    by_cases hevent : taskIsEvent s n = true
    · rw [if_pos hevent] at h ⊢
      exact if_neg (by omega)
    · rw [if_neg hevent] at h ⊢
      exact if_neg h
  · exact if_neg harmed

/-! ### Observations (R117, R118) -/

/-- As many positions of a list pass a test as elements do. -/
theorem length_filter_enum {α : Type} (p : α → Bool) (l : List α) : ((enum l).filter (fun q => p q.2)).length = l.countP p := by
  have h : (enum l).map (·.2) = l := List.map_snd_zip (by simp)
  calc ((enum l).filter (fun q => p q.2)).length = (enum l).countP (p ∘ (·.2)) := List.countP_eq_length_filter.symm
    _ = l.countP p := by rw [← List.countP_map, h]

theorem observe_pend {n : Nat} (old : Image) {r : Rec} {s : State} (hrec : taskRec s.drw.image n = some r)
    (hevent : tkEvent r = true) (hoff : (task s n).st ≠ .off) (hstopped : (task s n).st ≠ .stopped)
    (hpend : (task s n).pend ≤ 65535) :
    (task (observe old s n) n).pend = min 65535 ((task s n).pend + (triggersOf s.drw.image r).countP
      (fires old s.dvt.image (jigFired s.jig) s.dvt.delivered n)) := by
  rw [observe, hrec]
  dsimp only
  rw [if_pos hevent, ← length_filter_enum]
  split
  case isTrue hempty =>
    rw [List.isEmpty_iff.mp hempty]
    exact (Nat.min_eq_right hpend).symm
  case isFalse =>
    rw [task_modTask_same _ (lt_of_task_st hoff), if_neg (by simp [hoff, hstopped])]

/-! ### The commit and the seal of a version (R153, R154) -/

theorem closeRecord_image (s : State) : (closeRecord s).dvt.image = s.dvt.image := by
  unfold closeRecord
  simp only [↓(ite_fields ..), ite_self]

/-- The commit of an edge writes what its slots commit, in their order. -/
theorem edgeCommit_version (x : EdgeIn) {p : EdgePlan} {s : State} (hcommits : p.commits = true) (hhold : p.hold = false)
    (hlpe : s.enabled.contains .lpe = false) :
    let o := openRecord (!tickLocked s) s
    let c := (commitOrder o).foldl commitSlot o
    (edgeCommit x p s).dvt.image = c.dvt.image ∧ (edgeCommit x p s).mem = c.mem := by
  have hopened : (openRecord (!tickLocked s) s).enabled = s.enabled := by simp
  have henabled (l : List Nat) (u : State) : (l.foldl commitSlot u).enabled = u.enabled :=
    foldl_keep (fun s => s.enabled) commitSlot (fun u n => by simp) l u
  have hdispatched (c : Prop) [Decidable c] (u : State) : (if c then dispatchAll u else u).dvt = u.dvt ∧
      (if c then dispatchAll u else u).mem = u.mem := by
    split <;> simp
  unfold edgeCommit
  simp only [hcommits, hhold, henabled, hopened, hlpe, Bool.false_eq_true, if_true, if_false, Bool.and_false, hdispatched]
  exact ⟨closeRecord_image _, by simp⟩

/-- The seal makes the version that was committed the latest one. -/
theorem edgeSeal_version {p : EdgePlan} {s : State} (hmode : s.sys.mode ≠ .debug) (hhold : p.hold = false)
    (hdebug : p.debug = false) :
    (edgeSeal p s).dvt.latest = s.dvt.image ∧ (edgeSeal p s).dvt.image = s.dvt.image ∧ (edgeSeal p s).mem = s.mem := by
  have hobserved := foldl_OnlyStk _ (fun u n => observe_frame s.dvt.latest u n) (declaredSlots (sealVersion s)) (sealVersion s)
  have heq : edgeSeal p s = (declaredSlots (sealVersion s)).foldl (observe s.dvt.latest) (sealVersion s) := by
    simp only [edgeSeal, if_neg hmode, hhold, hdebug, Bool.false_eq_true, if_false]
  simp only [heq, hobserved]
  exact ⟨rfl, rfl, rfl⟩

/-! ### The obligation -/

/-- Settles O10: the drive's end by the copy that it closes, the release by `classify`, which gives a stroke of one copy its
write set or its skip, and each other clause by the lemma about the one function it speaks of. -/
theorem driveEnds : Obligations.DriveEnds := by
  refine ⟨fun _ _ _ _ _ _ _ _ => strokeReturn_ends, fun _ _ _ _ _ => budgetExhausted_stops, fun _ _ => exec_coreWake_runs,
    fun _ => commitOrder_sorted, fun n k x s hlive hstroke hnow hcopies hown hpaired hsettled hdone hstop => ?_,
    fun n k x s hlive hstroke hnow hcopies hown hpaired hsettled hmissed => ?_, fun n s harmed hdue => ?_,
    fun _ _ => catchDue_of_not_due, fun n old r s hrec hevent _ => observe_pend old hrec hevent,
    fun c n s hc hruns hbest hlower => ?_, openVersion_entry, fun x _ _ => edgeCommit_version x, fun _ _ => edgeSeal_version⟩
  · have h : Releases s n k x := ⟨hlive, hstroke, hnow, hcopies, hown, hpaired, hsettled⟩
    obtain ⟨hst, hnone, hdue, hkind, hstrokes, hdigest⟩ := commitSlot_returned_task h hdone hstop
    obtain ⟨hdvt, hwke, hmem⟩ := commitSlot_returned_leaves h hdone hstop
    obtain ⟨himage, hstream⟩ := applyWs_version n k.catchTn s.stk.tn x.ws s
    have hpoints : (placePoints n k.catchTn x.ws s).mem = s.mem := by simp [(placePoints_frame ..)]
    have hdrw : (placePoints n k.catchTn x.ws s).drw = s.drw := by simp [(placePoints_frame ..)]
    refine ⟨hst, hnone, hdue, hkind, hstrokes, hdigest, by rw [hdvt, hstream], by rw [hwke]; exact applyWs_cur .., ?_, ?_, ?_, ?_⟩
    · intro i v q hnodup hi
      rw [hdvt, himage]
      exact placePoints_written s hnodup hi
    · intro i hi
      rw [hdvt, himage]
      exact placePoints_absent s hi
    · intro hwork hret
      rw [hmem, placeState_mem_nil _ hwork hret, hpoints]
    · intro o a v hwork hret haddr
      rw [hmem, placeState_mem_word hwork hret (by rw [hdrw]; exact haddr), hpoints]
  · have h : Releases s n k x := ⟨hlive, hstroke, hnow, hcopies, hown, hpaired, hsettled⟩
    obtain ⟨hst, hnone, hdue, hkind, hskips, hpend, hsrc, hretry⟩ := commitSlot_missed_task h hmissed
    obtain ⟨htotal, himage, hstream, hcur, hmem⟩ := commitSlot_missed_leaves h hmissed
    refine ⟨hst, hnone, hdue, hkind, hskips, htotal, hpend, hsrc, hretry, hstream, hcur, fun i => ?_, fun r hr hsome => ?_, hmem⟩
    · obtain ⟨m, hm⟩ := entryOf_setSkipped n true s i
      rw [himage, hm]
    · rw [himage]
      exact setSkipped_owned true hr hsome
  · rw [catchDue_of_due harmed hdue]
    exact catchTask_task (by rw [harmed]; exact TaskSt.noConfusion)
  · obtain ⟨hdriving, hpowered⟩ := dispatchCore_takes hc hruns hbest hlower
    exact ⟨hdriving, hpowered, by simp, by simp⟩

end Sys2Proof.Machine
end

section
/-! PROOFS. Messages: sent into the write set, delivered or dropped at the commit of their sender (R157, R159, R160, R161),
for O7. -/
namespace Sys2Proof.Machine

/-! ### SEND (R157, R159) -/

/-- A message as its sender's write set holds it, before its delivery numbers it. -/
def unnumbered (n dest : Nat) (l : List Byte) : Msg := { sender := n, dest := dest, seq := 0, tn := 0, payload := l }

/-- A message that is refused: counted in its slot, recorded as a fault, and answered with its code (R159). -/
def refuseSend (kind code n c detail : Nat) (s : State) : State :=
  { strokeFault kind n c detail 0 (modTask n (fun t => { t with sndRef := sat 16 t.sndRef 1 }) s) with answer := .value code }

/-- A refused message is one fault of the commit unit, and changes neither a point nor memory. -/
theorem refuseSend_leaves (kind code n c detail : Nat) (s : State) :
    let t := refuseSend kind code n c detail s
    t.answer = .value code ∧ t.dvt.fCount = sat 32 s.dvt.fCount 1 ∧ t.dvt.image = s.dvt.image ∧ t.mem = s.mem := by
  obtain ⟨hcount, himage⟩ :=
    strokeFault_counts kind n c detail 0 (modTask n (fun t => { t with sndRef := sat 16 t.sndRef 1 }) s)
  exact ⟨rfl, hcount, himage, by simp [refuseSend, strokeFault_frame]⟩

section
variable {core : Fin 16} {dest n : Nat} {k : Stroke} {x : Copy} {l : List Byte} {s : State}
  (h : drivenBy s core.val = some (n, k, x))
include h

theorem exec_send_beyond_limits (hlimit : 16 ≤ x.ws.msgs.length ∨ l.length = 0 ∨ 256 < l.length) :
    exec (.send core dest l) s = .next (refuseSend 5 1 n core.val (min l.length 0xFFFF) s) := by
  have hguard : (decide (x.ws.msgs.length ≥ 16) || decide (l.length < 1) || decide (l.length > 256)) = true := by
    simp only [Bool.or_eq_true, decide_eq_true_eq]
    omega
  change execSend core dest l s = _
  rw [execSend, h]
  exact if_pos hguard

section
variable (hmsgs : x.ws.msgs.length < 16) (hsome : 1 ≤ l.length) (hlen : l.length ≤ 256)
include hmsgs hsome hlen

/-- Within the limits the destination decides. -/
theorem exec_send_within_limits : exec (.send core dest l) s =
    if (taskRec s.drw.image dest).elim true (fun r => tkDrawer r ≠ taskDrawer s n) = true then
      .next (refuseSend 6 2 n core.val dest s)
    else .next { modWs n core.val (fun w => { w with msgs := w.msgs ++ [unnumbered n dest l] }) s with answer := .value 0 } := by
  have hguard : ¬ (decide (x.ws.msgs.length ≥ 16) || decide (l.length < 1) || decide (l.length > 256)) = true := by
    simp only [Bool.or_eq_true, decide_eq_true_eq]
    omega
  change execSend core dest l s = _
  rw [execSend, h]
  exact if_neg hguard

theorem exec_send_accepted (hdest : (taskRec s.drw.image dest).elim false (fun r => tkDrawer r = taskDrawer s n) = true) :
    exec (.send core dest l) s =
      .next { modWs n core.val (fun w => { w with msgs := w.msgs ++ [unnumbered n dest l] }) s with answer := .value 0 } := by
  rw [exec_send_within_limits h hmsgs hsome hlen, if_neg]
  cases hrec : taskRec s.drw.image dest with
  | none => simp [hrec] at hdest
  | some r => simpa [hrec] using hdest

theorem exec_send_unrouted (hdest : (taskRec s.drw.image dest).elim true (fun r => tkDrawer r ≠ taskDrawer s n) = true) :
    exec (.send core dest l) s = .next (refuseSend 6 2 n core.val dest s) := by
  rw [exec_send_within_limits h hmsgs hsome hlen, if_pos hdest]

end
end

/-! ### Delivery (R160, R161) -/

/-- A message with the number of its pair and the tick of its delivery. -/
def numbered (tn : Nat) (s : State) (m : Msg) : Msg := { m with seq := tnum (task s m.sender).seqs m.dest, tn := tn }

/-- The state in which the sender of a message has counted it for its pair. -/
def sendCounted (s : State) (m : Msg) : State := modTask m.sender (countSend m.dest (tnum (task s m.sender).seqs m.dest)) s

/-- A message into the inbox of its receiver. -/
def receiveMsg (m : Msg) (t : Task) : Task := { t with inbox := t.inbox ++ [m] }

/-- A message that its receiver has no place for. -/
def dropMsg (t : Task) : Task := { t with drops := sat 16 t.drops 1 }

/-- Counting for the pair changes nothing but the numbers of the sender. -/
theorem sendCounted_keep {β : Type} (g : Task → β) (hg : ∀ (dest seq : Nat) (t : Task), g (countSend dest seq t) = g t)
    (s : State) (m : Msg) (n : Nat) : g (task (sendCounted s m) n) = g (task s n) :=
  task_lmod_keep g (countSend m.dest (tnum (task s m.sender).seqs m.dest)) rfl (hg _ _) n

theorem sendCounted_inbox (s : State) (m : Msg) (n : Nat) : (task (sendCounted s m) n).inbox = (task s n).inbox :=
  sendCounted_keep Task.inbox (fun _ _ _ => rfl) s m n

theorem sendCounted_lt {n : Nat} {s : State} (m : Msg) (h : n < s.stk.tasks.length) :
    n < (sendCounted s m).stk.tasks.length := by
  simpa [sendCounted] using h

theorem deliver_of_room {tn : Nat} {s : State} {m : Msg} (hroom : (task s m.dest).inbox.length < 32) :
    deliver tn s m = jAdd [.message (numbered tn s m) false]
      { modTask m.dest (receiveMsg (numbered tn s m)) (sendCounted s m) with
        dvt := { s.dvt with delivered := s.dvt.delivered ++ [(m.dest, m.sender)] } } := by
  rw [← sendCounted_inbox s m m.dest] at hroom
  exact if_pos hroom

theorem deliver_of_full {tn : Nat} {s : State} {m : Msg} (hfull : 32 ≤ (task s m.dest).inbox.length) :
    deliver tn s m = dvtFault 7 m.sender (m.dest * 256 + m.sender) 0 (jAdd [.message (numbered tn s m) true]
      { modTask m.dest dropMsg (sendCounted s m) with dvt := { s.dvt with msgDrops := sat 32 s.dvt.msgDrops 1 } }) := by
  rw [← sendCounted_inbox s m m.dest] at hfull
  exact if_neg (Nat.not_lt.mpr hfull)

/-- A fault of the commit unit counts no message. -/
theorem dvtFault_messages (k slot detail addr : Nat) (s : State) :
    (dvtFault k slot detail addr s).dvt.msgDrops = s.dvt.msgDrops ∧
      (dvtFault k slot detail addr s).dvt.delivered = s.dvt.delivered := by
  simp only [dvtFault, (raise_frame ..)]
  split <;> exact ⟨rfl, rfl⟩

/-- Delivered or dropped, a message takes the next number of its pair (R160). -/
theorem deliver_seq (tn : Nat) {s : State} {m : Msg} (hsender : m.sender < s.stk.tasks.length) :
    tnum (task (deliver tn s m) m.sender).seqs m.dest = (tnum (task s m.sender).seqs m.dest + 1) % 65536 := by
  have hseqs : (task (deliver tn s m) m.sender).seqs = (task (sendCounted s m) m.sender).seqs := by
    rcases Nat.lt_or_ge (task s m.dest).inbox.length 32 with hroom | hfull
    · rw [deliver_of_room hroom]
      exact task_lmod_keep Task.seqs (receiveMsg (numbered tn s m)) rfl (fun _ => rfl) m.sender
    · rw [deliver_of_full hfull, dvtFault_task]
      exact task_lmod_keep Task.seqs dropMsg rfl (fun _ => rfl) m.sender
  rw [hseqs, sendCounted, task_modTask_same _ hsender, countSend, tnum, tget_tset_same, Option.getD_some]

/-- A message with a place in the inbox is appended there, and noted as delivered. -/
theorem deliver_received {tn : Nat} {s : State} {m : Msg} (hdest : m.dest < s.stk.tasks.length)
    (hroom : (task s m.dest).inbox.length < 32) :
    let t := deliver tn s m
    (task t m.dest).inbox = (task s m.dest).inbox ++ [numbered tn s m] ∧
      t.dvt.delivered = s.dvt.delivered ++ [(m.dest, m.sender)] ∧
      t.wke.cur = s.wke.cur ++ [.message (numbered tn s m) false] := by
  have hinbox : (task (modTask m.dest (receiveMsg (numbered tn s m)) (sendCounted s m)) m.dest).inbox =
      (task s m.dest).inbox ++ [numbered tn s m] := by
    rw [task_modTask_same _ (sendCounted_lt m hdest), receiveMsg, sendCounted_inbox]
  dsimp only
  rw [deliver_of_room hroom]
  exact ⟨hinbox, rfl, rfl⟩

/-- A message without a place is dropped, counted in the slot and in the total, and noted as dropped. -/
theorem deliver_dropped {tn : Nat} {s : State} {m : Msg} (hdest : m.dest < s.stk.tasks.length)
    (hfull : 32 ≤ (task s m.dest).inbox.length) :
    let t := deliver tn s m
    (task t m.dest).inbox = (task s m.dest).inbox ∧ (task t m.dest).drops = sat 16 (task s m.dest).drops 1 ∧
      t.dvt.msgDrops = sat 32 s.dvt.msgDrops 1 ∧ t.dvt.delivered = s.dvt.delivered ∧
      t.wke.cur = s.wke.cur ++ [.message (numbered tn s m) true] := by
  have hdrops := sendCounted_keep Task.drops (fun _ _ _ => rfl) s m m.dest
  have hdropped : task (modTask m.dest dropMsg (sendCounted s m)) m.dest = dropMsg (task (sendCounted s m) m.dest) :=
    task_modTask_same _ (sendCounted_lt m hdest)
  dsimp only
  rw [deliver_of_full hfull, dvtFault_task, (dvtFault_messages ..).1, (dvtFault_messages ..).2]
  refine ⟨(congrArg Task.inbox hdropped).trans (sendCounted_inbox s m m.dest), ?_, rfl, rfl, ?_⟩
  · rw [← hdrops]
    exact congrArg Task.drops hdropped
  · simp only [(dvtFault_frame ..)]
    rfl

/-- Settles O7: `SEND` by the order of its checks, a delivery by whether the inbox of its receiver has a place. -/
theorem sendCodes : Obligations.SendCodes := by
  refine ⟨fun core dest n k x l s h => ⟨exec_send_accepted h, fun hlimit => ?_, fun hmsgs hsome hlen hdest => ?_⟩,
    fun tn m s hdest hsender => ⟨deliver_seq tn hsender, congrArg Prod.fst (deliver_version tn s m), (deliver_keeps tn s m).2.1,
      deliver_received hdest, deliver_dropped hdest⟩⟩
  · exact ⟨_, exec_send_beyond_limits h hlimit, refuseSend_leaves ..⟩
  · exact ⟨_, exec_send_unrouted h hmsgs hsome hlen hdest, refuseSend_leaves ..⟩

end Sys2Proof.Machine
end

section
/-! PROOFS. Transaction groups (R163 to R166), for O9. -/
namespace Sys2Proof.Machine

/-- A caller register access by a stroke that holds a group slot has its effect. -/
theorem grpAccess_of_caller {s : State} {c n g : Nat} {x : Copy} (h : grpCaller s c = some (n, x, g)) (off : Nat)
    (f : Nat → Copy → Nat → State → State) : grpAccess c off f s = f n x g s := by
  rw [grpAccess, h]

section
variable {core : Fin 16} {n g : Nat} {x : Copy} {s : State} (h : grpCaller s core.val = some (n, x, g))
include h

theorem exec_groupOpen_first (hidle : x.ws.grp = .idle) (hunused : x.ws.grpUsed = false) :
    exec (.groupOpen core 1) s =
      .next (modWs n core.val (fun w => { w with grp := .opened, grpUsed := true, staged := [] }) s) := by
  change Host.Outcome.next (grpOpen core.val 1 s) = _
  rw [grpOpen, grpAccess_of_caller h, if_neg (by decide), if_pos (by simp [hidle, hunused])]

/-- A group that is not idle is not opened: its fault says so. -/
theorem exec_groupOpen_busy (hbusy : x.ws.grp ≠ .idle) :
    exec (.groupOpen core 1) s = .next (strokeFault 4 n core.val 0x0C 0x1002000C s) := by
  change Host.Outcome.next (grpOpen core.val 1 s) = _
  rw [grpOpen, grpAccess_of_caller h, if_neg (by decide), if_neg (by simp [hbusy])]

theorem exec_groupCommit_opened (hopened : x.ws.grp = .opened) :
    exec (.groupCommit core 1) s = .next (modWs n core.val (fun w => { w with grp := .committed }) s) := by
  change Host.Outcome.next (grpCommit core.val 1 s) = _
  rw [grpCommit, grpAccess_of_caller h, if_neg (by decide), if_pos hopened]

theorem exec_groupCommit_overflow (hover : x.ws.grp = .overflow) :
    exec (.groupCommit core 1) s = .next (modWs n core.val (fun w => { w with grp := .committed, grpOver := true }) s) := by
  change Host.Outcome.next (grpCommit core.val 1 s) = _
  rw [grpCommit, grpAccess_of_caller h, if_neg (by decide), if_neg (by simp [hover]), if_pos hover]

theorem exec_groupAbort_open (hopen : x.ws.grp = .opened ∨ x.ws.grp = .overflow) :
    exec (.groupAbort core 1) s = .next (modTask n (fun t => { t with grpLast := 2 })
      (modWs n core.val (fun w => { w with grp := .idle, grpLast := 2, staged := [] }) s)) := by
  change Host.Outcome.next (grpAbort core.val 1 s) = _
  rw [grpAbort, grpAccess_of_caller h, if_neg (by decide), if_pos (by simpa using hopen)]

end

/-- Settles O9: each write to a caller register by the state of the group, an `OPEN` out of sequence by its fault. -/
theorem transactionGroups : Obligations.TransactionGroups := by
  intro core n g x s h
  refine ⟨exec_groupOpen_first h, exec_groupCommit_opened h, exec_groupCommit_overflow h, exec_groupAbort_open h,
    fun hcommitted => ?_⟩
  have hbusy : x.ws.grp ≠ .idle := by simp [hcommitted]
  exact ⟨_, exec_groupOpen_busy h hbusy, (strokeFault_counts ..).1, (strokeFault_keeps ..).2.1⟩

end Sys2Proof.Machine
end

section
/-! PROOFS. The journal writer: the ring, its suspension, the close of a record, checkpoints (R172, R182 to R189), for O12. -/
namespace Sys2Proof.Machine

/-! ### The ring (R182, R185) -/

section
variable {r : JRecord} {b : List JRecord} {s : State} (hbuffer : s.wke.buffer = r :: b) (hruns : s.wke.suspended = false)
include hbuffer hruns

/-- The oldest record goes from the buffer to the ring, behind what the ring keeps. -/
theorem ringWrite_moves {l : List JRecord}
    (hroom : makeRoom (recBytes r).length (ckEdge (newestBank s.wke)) s.wke.ring = some l) :
    let t := ringWrite s
    t.wke.buffer = b ∧ t.wke.ring = l ++ [r] ∧ t.wke.suspended = false ∧ t = { s with wke := t.wke } := by
  unfold ringWrite
  simp only [hbuffer, hruns, hroom, Bool.false_eq_true, if_false, and_self]

/-- Without room the writer suspends, and keeps its records only for a checkpoint that is being written. -/
theorem ringWrite_suspends
    (hfull : makeRoom (recBytes r).length (ckEdge (newestBank s.wke)) s.wke.ring = none) :
    ringWrite s = raise { code := 0x4007, block := 0x04, detail := bit s.wke.newestB * 2 ^ 31 }
      { s with wke := { s.wke with suspended := true, buffer := if s.wke.writing.isSome then s.wke.buffer else [] } } := by
  unfold ringWrite
  simp only [hbuffer, hruns, hfull, Bool.false_eq_true, if_false]

end

/-! ### A checkpoint that reads back, and one that does not (R189) -/

/-- The writer's state with a checkpoint complete in its bank, the newest from now on. -/
def bankDone (duration : Nat) (b : Bank) (w : Wke) : Wke :=
  let v := if w.writingB then { w with bankB := { b with complete := true } } else { w with bankA := { b with complete := true } }
  { v with writing := none, newestB := v.writingB, seq := b.seq, duration := min duration 0xFFFF }

theorem bankDone_banks (duration : Nat) (b : Bank) (w : Wke) :
    let v := bankDone duration b w
    v.newestB = w.writingB ∧ newestBank v = { b with complete := true } ∧ olderBank v = bankOf w (!w.writingB) := by
  cases hw : w.writingB <;> simp [bankDone, newestBank, olderBank, bankOf, hw]

/-- A task that holds no copy for the checkpoint writer any more (R188). -/
def dropThird (t : Task) : Task := { t with third := none }

/-- The state with the writer's state after a complete checkpoint: the mark of its bank, and no third buffer in use. -/
def bankMarked (s : State) (w : Wke) : State :=
  jMark 5 (bit w.newestB) { s with stk := { s.stk with tasks := s.stk.tasks.map dropThird }, wke := w }

theorem ckptDone_running (duration : Nat) {b : Bank} {s : State} (hwriting : s.wke.writing = some b)
    (hruns : s.wke.suspended = false) :
    ckptDone duration s = bankMarked s (ringTrim (bankDone duration b s.wke)) := by
  have hsuspended : ¬ (bankDone duration b s.wke).suspended = true := by
    cases hb : s.wke.writingB <;> simp [bankDone, hb, hruns]
  rw [ckptDone, hwriting]
  exact (if_neg hsuspended).trans (congrArg (bankMarked s) (if_neg hsuspended))

theorem third_map_dropThird (l : List Task) (n : Nat) : ((l.map dropThird).getD n {}).third = none := by
  rw [List.getD_eq_getElem?_getD, List.getElem?_map]
  cases l[n]? <;> rfl

/-- A read-back that passes makes the bank the newest one, and frees every third buffer. -/
theorem exec_checkpointComplete_passed (duration : Nat) {b : Bank} {s : State} (hwriting : s.wke.writing = some b)
    (hruns : s.wke.suspended = false) :
    ∃ t, exec (.checkpointComplete duration none) s = .next t ∧ t.wke.writing = none ∧ t.wke.newestB = s.wke.writingB ∧
      newestBank t.wke = { b with complete := true } ∧ olderBank t.wke = bankOf s.wke (!s.wke.writingB) ∧
      t.wke.duration = min duration 0xFFFF ∧ (∀ n, (task t n).third = none) ∧ t = { s with wke := t.wke, stk := t.stk } := by
  obtain ⟨hnewest, hbank, holder⟩ := bankDone_banks duration b s.wke
  exact ⟨_, congrArg Host.Outcome.next (ckptDone_running duration hwriting hruns), rfl, hnewest, hbank, holder, rfl,
    third_map_dropThird s.stk.tasks, rfl⟩

theorem exec_checkpointComplete_failed (duration passed : Nat) {b : Bank} {s : State} (hwriting : s.wke.writing = some b) :
    exec (.checkpointComplete duration (some passed)) s = .next (raise
      { code := 0x4005, block := 0x04, detail := bit s.wke.writingB * 2 ^ 31 + min passed 0xFFFFFF }
      { s with wke := { s.wke with cReadback := sat 8 s.wke.cReadback 1 } }) := by
  change Host.Outcome.next (ckptFailed passed s) = _
  rw [ckptFailed, hwriting]

/-! ### The close of a record (R172, R182, R183) -/

/-- The digest of an edge: that of the edge before, TN and the stream of the edge. -/
def edgeDigest (s : State) : BitVec 64 := digest64 (leBytes 8 s.dvt.digest.toNat ++ leBytes 8 s.stk.tn ++ s.dvt.stream)

/-- The record of an edge, closed by its digest. -/
def edgeRecord (s : State) : JRecord :=
  { tn := s.stk.tn, edge := s.stk.edges, entries := closeEntries s.wke.cur (edgeDigest s) }

theorem closeRecord_digest (s : State) :
    let t := closeRecord s
    t.dvt.digest = edgeDigest s ∧ t.dvt.edgeTn = s.stk.tn % 2 ^ 32 ∧ t.dvt.stream = [] ∧ t.wke.cur = [] := by
  unfold closeRecord
  dsimp only
  split <;> exact ⟨rfl, rfl, rfl, rfl⟩

theorem closeRecord_appends {s : State} (hruns : s.wke.suspended = false) :
    (closeRecord s).wke.buffer = s.wke.buffer ++ [edgeRecord s] := by
  unfold closeRecord
  rw [if_pos (by simp [journals, hruns])]
  rfl

/-! ### The start of a checkpoint (R186, R187) -/

/-- The bank that a checkpoint of this edge fills holds the version of the edge, every task and every loop slot. -/
theorem ckptStart_bank (s : State) : ∃ b, (ckptStart s).wke.writing = some b ∧
    (ckptStart s).wke.writingB = !s.wke.newestB ∧ b.complete = false ∧ b.tn = s.stk.tn ∧ b.edge = s.stk.edges ∧
    b.image = s.dvt.latest ∧ b.digest = s.dvt.digest ∧ b.tasks = (declaredSlots s).map (taskCkpt s) ∧
    b.loops = s.lpe.slots.map (·.2) :=
  ⟨_, rfl, rfl, rfl, rfl, rfl, rfl, rfl, rfl, rfl⟩

/-- The bank that is newest stays as it is while the other one is filled. -/
theorem ckptStart_newestBank (s : State) : newestBank (ckptStart s).wke = newestBank s.wke := by
  cases hb : s.wke.newestB <;> simp [ckptStart, newestBank, hb]

section
variable {e : Nat} {s : State} (hmode : s.sys.mode ≠ .debug) (hstart : s.stk.start = some e)
  (hdue : (s.stk.edges - e) % (s.wke.interval * 4) = 0)
include hmode hstart hdue

/-- At its interval a checkpoint starts when the writer is free, and waits when it is not. -/
theorem edgeCheckpoint_of_due : edgeCheckpoint s =
    if s.wke.writing.isNone = true then ckptStart s else { s with wke := { s.wke with ckptDue := true } } := by
  have hinterval : s.stk.start.any (fun e => (s.stk.edges - e) % (s.wke.interval * 4) = 0) = true := by simp [hstart, hdue]
  unfold edgeCheckpoint
  simp only [if_neg hmode, hinterval, Bool.true_or, Bool.true_and, if_true]

theorem edgeCheckpoint_waits (hbusy : s.wke.writing.isSome = true) :
    edgeCheckpoint s = { s with wke := { s.wke with ckptDue := true } } := by
  rw [edgeCheckpoint_of_due hmode hstart hdue, if_neg (by simpa [Option.isSome_iff_ne_none] using hbusy)]

theorem edgeCheckpoint_starts (hfree : s.wke.writing = none) : edgeCheckpoint s = ckptStart s := by
  rw [edgeCheckpoint_of_due hmode hstart hdue, hfree]
  exact if_pos rfl

end

/-! ### The obligation -/

/-- Settles O12: the ring by whether room can be made, a checkpoint by its read-back and by whether the writer is free at
its interval, the record by its close. -/
theorem journalWriter : Obligations.JournalWriter := by
  refine ⟨fun _ _ _ _ hbuffer hruns hroom => ⟨_, rfl, ringWrite_moves hbuffer hruns hroom⟩,
    fun _ _ _ hbuffer hruns hfull => congrArg Host.Outcome.next (ringWrite_suspends hbuffer hruns hfull),
    fun d _ _ => exec_checkpointComplete_passed d, fun d n _ _ => exec_checkpointComplete_failed d n, fun s => ?_,
    fun e s hmode hstart hdue => ⟨edgeCheckpoint_waits hmode hstart hdue, fun hfree => ?_⟩⟩
  · obtain ⟨hdigest, htn, hstream, hcur⟩ := closeRecord_digest s
    exact ⟨hdigest, htn, hstream, hcur, closeRecord_image s, closeRecord_appends⟩
  · obtain ⟨b, hwriting, hbank, hcomplete, htn, hedge, himage, hdigest, htasks, hloops⟩ := ckptStart_bank s
    rw [edgeCheckpoint_starts hmode hstart hdue hfree]
    exact ⟨b, hwriting, hbank, hcomplete, htn, hedge, himage, hdigest, htasks, hloops, ckptStart_newestBank s,
      by simp, by simp⟩

end Sys2Proof.Machine
end

section
/-! PROOFS. Takeovers, errors in a checkpoint bank and settlements without a majority (R185, R192, R194, R195, R197), for
O14. -/
namespace Sys2Proof.Machine

/-! ### The copies of a takeover are loaded (R185, R194) -/

/-- A complete takeover is one no more. -/
theorem takeoverDone_takeovers (t : Takeover) (us : Nat) (s : State) : (takeoverDone t us s).wke.takeovers =
    s.wke.takeovers.filter (fun x => x.seat ≠ t.seat || x.slots ≠ t.slots) := by
  simp [takeoverDone, jMark]

/-- A takeover after a change of those of a seat and its slots is one of the others, or a changed one. -/
theorem mem_takeovers_modTakeover {seat : Nat} {slots : List Nat} {f : Takeover → Takeover} {s : State} {y : Takeover}
    (h : y ∈ (modTakeover seat slots f s).wke.takeovers) :
    (y ∈ s.wke.takeovers ∧ ¬(y.seat = seat ∧ y.slots = slots)) ∨ ∃ x, y = f x := by
  obtain ⟨x, hx, rfl⟩ := List.mem_map.mp h
  split
  next => exact .inr ⟨x, rfl⟩
  next hother => exact .inl ⟨hx, by simpa using hother⟩

/-- The strokes that a takeover has to replay from its copies on; none when it is direct. -/
def strokesToReplay (w : Wke) (t : Takeover) : Nat :=
  if t.direct then 0 else sumOf (t.slots.map (replayCount w (copiesOf w t.bankB) t.lastEdge))

/-- A takeover with the copies of `t` loaded. -/
def withCopies (w : Wke) (t x : Takeover) : Takeover :=
  { x with
    loaded := true, left := strokesToReplay w t,
    built := x.slots.map (fun k => (k, loadedCopy w (copiesOf w t.bankB) x.lastEdge k)) }

theorem copiesLoaded_eq (t : Takeover) (us : Nat) (s : State) :
    copiesLoaded t us s =
      let loaded := modTakeover t.seat t.slots (withCopies s.wke t) s
      if strokesToReplay s.wke t = 0 then takeoverDone (withCopies s.wke t t) us loaded else loaded := rfl

/-- Of the takeovers that are there once the copies of `t` are loaded, one that is not loaded is an earlier one of another
seat or of other slots. -/
theorem copiesLoaded_unloaded {t : Takeover} {us : Nat} {s : State} {y : Takeover}
    (h : y ∈ (copiesLoaded t us s).wke.takeovers) (hy : y.loaded = false) :
    y ∈ s.wke.takeovers ∧ ¬(y.seat = t.seat ∧ y.slots = t.slots) := by
  have hloaded : y ∈ (modTakeover t.seat t.slots (withCopies s.wke t) s).wke.takeovers := by
    rw [copiesLoaded_eq] at h
    split at h
    · rw [takeoverDone_takeovers] at h
      exact (List.mem_filter.mp h).1
    · exact h
  obtain hother | ⟨x, rfl⟩ := mem_takeovers_modTakeover hloaded
  · exact hother
  · cases hy

theorem foldl_copiesLoaded_unloaded {us : Nat} {l : List Takeover} {s : State} {y : Takeover}
    (h : y ∈ (l.foldl (fun s t => copiesLoaded t us s) s).wke.takeovers) (hy : y.loaded = false) :
    y ∈ s.wke.takeovers ∧ ∀ t ∈ l, ¬(y.seat = t.seat ∧ y.slots = t.slots) := by
  induction l generalizing s with
  | nil => exact ⟨h, by simp⟩
  | cons t l ih =>
    obtain ⟨hnow, hrest⟩ := ih h
    obtain ⟨hs, hne⟩ := copiesLoaded_unloaded hnow hy
    exact ⟨hs, List.forall_mem_cons.mpr ⟨hne, hrest⟩⟩

theorem exec_takeoverCopiesLoaded (seat : Fin 16) (us : Nat) (s : State) :
    ∃ t, exec (.takeoverCopiesLoaded seat us) s = .next t ∧
      (∀ x ∈ t.wke.takeovers, x.seat = seat.val → x.loaded = true) ∧ t.dvt = s.dvt ∧ t.dio = s.dio ∧
      t.pending = s.pending := by
  refine ⟨_, rfl, fun x hx hseat => ?_, foldl_keep (·.dvt) _ (by simp) _ _, foldl_keep (·.dio) _ (by simp) _ _,
    foldl_keep (·.pending) _ (by simp) _ _⟩
  by_contra hunloaded
  rw [Bool.not_eq_true] at hunloaded
  obtain ⟨hmem, hne⟩ := foldl_copiesLoaded_unloaded hx hunloaded
  exact hne x (List.mem_filter.mpr ⟨hmem, by simp [hseat, hunloaded]⟩) ⟨rfl, rfl⟩

/-! ### A replayed stroke that agrees with the journal (R194, R195) -/

/-- A function that changes the journal's state alone and raises nothing does the same within one cycle. -/
theorem sameCycle_of_quiet {f : State → State} {w : Wke} {s : State}
    (hf : ∀ e, f { s with evr := e } = { s with wke := w, evr := e }) :
    ∃ e, sameCycle f s = { s with wke := w, evr := e } := by
  unfold sameCycle
  split
  · exact ⟨s.evr, hf s.evr⟩
  · rw [hf]
    exact ⟨{ s.evr with cycle := none }, rfl⟩

/-- With the digest of the journal and strokes left after it, the replay goes on. -/
theorem replayDone_goesOn {t : Takeover} {slot tn us : Nat} {d : BitVec 64} {l : List (Nat × Byte)} {s : State}
    (hdigest : wsetAt s.wke slot tn = some d) (hleft : 1 < t.left) :
    replayDone t slot tn d us l s = modTakeover t.seat t.slots (replayed slot l) s := by
  unfold replayDone
  simp only [hdigest, if_true, if_neg (Nat.not_le.mpr hleft)]

theorem exec_replayStrokeDone_goesOn {seat : Fin 16} {slot : Fin 64} {tn : Nat} (us : Nat) {e : ReplayEnd} {x : Takeover}
    {s : State}
    (hfind : s.wke.takeovers.find? (fun t => t.seat = seat.val && t.loaded && t.slots.contains slot.val) = some x)
    (hdigest : wsetAt s.wke slot.val tn = some e.digest) (hleft : 1 < x.left) :
    ∃ t, exec (.replayStrokeDone seat slot tn e us) s = .next t ∧
      t.wke = (modTakeover x.seat x.slots (replayed slot.val e.state) s).wke ∧
      t = { s with wke := t.wke, evr := t.evr } := by
  have hquiet (r : Evr) : replayDone x slot.val tn e.digest us e.state { s with evr := r } =
      { s with wke := (modTakeover x.seat x.slots (replayed slot.val e.state) s).wke, evr := r } :=
    replayDone_goesOn hdigest hleft
  obtain ⟨r, hcycle⟩ := sameCycle_of_quiet hquiet
  refine ⟨{ s with wke := (modTakeover x.seat x.slots (replayed slot.val e.state) s).wke, evr := r }, ?_, rfl, rfl⟩
  change execReplayStrokeDone seat slot tn e us s = _
  rw [execReplayStrokeDone, hfind]
  exact congrArg Host.Outcome.next hcycle

/-! ### An error in a checkpoint bank (R189, R192) -/

theorem spoilBank_invalid (b : Bool) (w : Wke) : bankValid (bankOf (spoilBank b w) b) = false := by
  cases b <;> simp [spoilBank, bankOf, bankValid]

theorem spoilBank_other (b : Bool) (w : Wke) : bankOf (spoilBank b w) (!b) = bankOf w (!b) := by
  cases b <;> simp [spoilBank, bankOf]

/-- The other bank, when it is valid, takes the place of the damaged one as the newest. -/
theorem spoilBank_newestB {b : Bool} {w : Wke} (hvalid : bankValid (bankOf w (!b)) = true) (hnewest : w.newestB = b) :
    (spoilBank b w).newestB = !b := by
  cases b <;> simp_all [spoilBank, bankOf]

theorem exec_memoryUncorrectable_bank (b : Bool) (page : Nat) (s : State) :
    ∃ t, exec (.memoryUncorrectable (.bank b) page) s = .next t ∧ t.wke = spoilBank b s.wke ∧
      t = { s with wke := t.wke, evr := t.evr, hie := t.hie, fresh := t.fresh } :=
  ⟨_, rfl, by simp [hitEffect], State.eq_of_fields (by simp [State.OnlyFreshEvrHie, hitEffect]) rfl rfl rfl⟩

/-! ### A settlement without a majority (R197) -/

@[simp] theorem unsettle_cUnsettled (reason slot relEdge : Nat) (s : State) :
    (unsettle reason slot relEdge s).wke.cUnsettled = sat 8 s.wke.cUnsettled 1 := by
  simp [unsettle, patchJournal]

@[simp] theorem settleSeatFree_cUnsettled (x : Settle) (s : State) :
    (settleSeatFree x s).wke.cUnsettled = s.wke.cUnsettled := by
  unfold settleSeatFree
  split <;> simp [freeSeat]

/-- The end of a settlement that no returned copy matches is counted, in one cycle, and leaves commit unit and memory. -/
theorem sameCycle_settleEnds_none (x : Settle) (us : Nat) (s : State) :
    let t := sameCycle (settleEnds x none us) s
    t.wke.cUnsettled = sat 8 s.wke.cUnsettled 1 ∧ t.dvt = s.dvt ∧ t.mem = s.mem := by
  have hends (s : State) : settleEnds x none us s = settleSeatFree x (unsettle 1 x.slot x.relEdge s) := rfl
  obtain ⟨e, h⟩ := sameCycle_reads (fun s => (s.wke.cUnsettled, s.dvt, s.mem)) (by simp) (fun _ _ => rfl)
    (settleEnds x none us) s
  simpa [hends] using h

theorem exec_settlementDone_none {slot : Fin 64} (us : Nat) {x : Settle} {s : State}
    (hfind : s.wke.settles.find? (fun x => x.slot = slot.val && x.won.isNone) = some x) :
    ∃ t, exec (.settlementDone slot none us) s = .next t ∧ t.wke.cUnsettled = sat 8 s.wke.cUnsettled 1 ∧
      t.dvt = s.dvt ∧ t.mem = s.mem := by
  refine ⟨dispatchAll (unblock slot.val (sameCycle (settleEnds x none us) s)), ?_, ?_⟩
  · change execSettlementDone slot none us s = _
    rw [execSettlementDone, hfind]
    rfl
  · simpa using sameCycle_settleEnds_none x us s

/-! ### The obligation -/

/-- Settles O14: the loads by the takeovers that stay unloaded, the replay by the branch that goes on, the bank by its
error's mark, the settlement by the end that no copy matches. -/
theorem takeoversAndSettlements : Obligations.TakeoversAndSettlements := by
  refine ⟨exec_takeoverCopiesLoaded, fun _ _ _ us _ _ _ hfind hdigest hleft =>
    exec_replayStrokeDone_goesOn us hfind hdigest hleft, fun b page s => ?_,
    fun _ us _ _ hfind => exec_settlementDone_none us hfind⟩
  obtain ⟨t, hexec, hwke, hframe⟩ := exec_memoryUncorrectable_bank b page s
  refine ⟨t, hexec, ?_, ?_, ?_, hframe⟩ <;> rw [hwke]
  · exact spoilBank_invalid b s.wke
  · exact spoilBank_other b s.wke
  · exact spoilBank_newestB

end Sys2Proof.Machine
end

section
/-! PROOFS. Rules, their terms and latches, and the outputs that follow them (R211 to R218, R220, R222, R224), for O15. -/
namespace Sys2Proof.Machine

/-! ### Bits of masks -/

theorem testBit_bset (m i j : Nat) : (bset m i).testBit j = (m.testBit j || decide (i = j)) := by
  rw [bset, Nat.testBit_or, Nat.testBit_two_pow]

/-- The mask without bit `i`, which it has, keeps its other bits. -/
theorem testBit_sub_two_pow {m i j : Nat} (h : m.testBit i = true) (hj : j ≠ i) :
    (m - 2 ^ i).testBit j = m.testBit j := by
  have hle : 2 ^ i ≤ m := Nat.ge_two_pow_of_testBit h
  induction i generalizing m j with
  | zero =>
    obtain ⟨k, rfl⟩ := Nat.exists_eq_succ_of_ne_zero hj
    have hodd : m % 2 = 1 := by simpa [Nat.testBit_zero] using h
    rw [Nat.testBit_succ, Nat.testBit_succ, show (m - 2 ^ 0) / 2 = m / 2 by omega]
  | succ i ih =>
    rw [Nat.pow_succ] at hle ⊢
    cases j with
    | zero => rw [Nat.testBit_zero, Nat.testBit_zero, show (m - 2 ^ i * 2) % 2 = m % 2 by omega]
    | succ k =>
      rw [Nat.testBit_succ] at h
      rw [Nat.testBit_succ, Nat.testBit_succ, show (m - 2 ^ i * 2) / 2 = m / 2 - 2 ^ i by omega]
      exact ih h (by omega) (by omega)

theorem testBit_sub_two_pow_self {m i : Nat} (h : m.testBit i = true) : (m - 2 ^ i).testBit i = false := by
  have hsum := Nat.testBit_two_pow_add_eq (m - 2 ^ i) i
  rw [Nat.add_sub_cancel' (Nat.ge_two_pow_of_testBit h), h] at hsum
  simpa using hsum.symm

@[simp] theorem testBit_bput_self (m i : Nat) (b : Bool) : (bput m i b).testBit i = b := by
  cases b with
  | true => simp [bput, testBit_bset]
  | false =>
    by_cases h : m.testBit i = true
    · simp [bput, bclr, h, testBit_sub_two_pow_self]
    · simp [bput, bclr, h]

theorem testBit_bput_of_ne {m i j : Nat} (b : Bool) (hj : j ≠ i) : (bput m i b).testBit j = m.testBit j := by
  cases b with
  | true => simp [bput, testBit_bset, hj.symm]
  | false =>
    by_cases h : m.testBit i = true
    · simp [bput, bclr, h, testBit_sub_two_pow h hj]
    · simp [bput, bclr, h]

theorem testBit_maskOf (l : List Bool) (i : Nat) : (maskOf l).testBit i = l.getD i false := by
  induction l generalizing i with
  | nil => simp [maskOf]
  | cons b r ih =>
    cases i with
    | zero => cases b <;> simp [maskOf, bit, Nat.testBit_zero]
    | succ i =>
      have hhalf : maskOf (b :: r) / 2 = maskOf r := by cases b <;> simp only [maskOf, bit] <;> split <;> omega
      rw [Nat.testBit_succ, hhalf, ih, List.getD_cons_succ]

theorem testBit_maskOf_range {k n : Nat} (f : Nat → Bool) (h : n < k) :
    (maskOf ((List.range k).map f)).testBit n = f n := by
  simp [testBit_maskOf, h]

/-! ### The terms of one rule (R212, R213) -/

/-- A term that is not unused. -/
def termUsed (body : List Byte) (n m : Nat) : Prop := fld (jigTerm body n m) 30 2 ≠ 0

/-- The stored bit of term `m` of rule `n` after its evaluation, from the latches before it. -/
def termStored (body : List Byte) (di cond rules latch n m : Nat) : Bool :=
  let w := jigTerm body n m
  latchNext cond w (termRaw di cond rules w) (latch.testBit (8 * n + m))

/-- The value of a term as the evaluation takes it: raw or stored. -/
def termValue (body : List Byte) (di cond rules latch n m : Nat) : Bool :=
  termRaw di cond rules (jigTerm body n m) || termStored body di cond rules latch n m

section
variable {body : List Byte} {di cond rules n : Nat}

theorem evalTerms_succ_unused {k : Nat} (latch : Nat) (h : ¬termUsed body n k) :
    evalTerms body di cond rules n (List.range (k + 1)) latch = evalTerms body di cond rules n (List.range k) latch := by
  rw [evalTerms, List.range_succ, List.foldl_append]
  exact if_pos (not_not.mp h)

theorem evalTerms_succ_used {k : Nat} (latch : Nat) (h : termUsed body n k) :
    evalTerms body di cond rules n (List.range (k + 1)) latch =
      let r := evalTerms body di cond rules n (List.range k) latch
      (bput r.1 (8 * n + k) (termStored body di cond rules r.1 n k), true,
        r.2.2 && termValue body di cond rules r.1 n k) := by
  rw [evalTerms, List.range_succ, List.foldl_append]
  exact if_neg h

/-- The terms of rule `n` leave the latches of the rules before it. -/
theorem evalTerms_latch_lt {j : Nat} (k latch : Nat) (hj : j < 8 * n) :
    (evalTerms body di cond rules n (List.range k) latch).1.testBit j = latch.testBit j := by
  induction k with
  | zero => rfl
  | succ k ih =>
    by_cases h : termUsed body n k
    · rw [evalTerms_succ_used latch h, testBit_bput_of_ne _ (by omega), ih]
    · rw [evalTerms_succ_unused latch h, ih]

/-- Whether a term has the value 1 depends on its own latch alone. -/
theorem termIsOne_congr {latch latch' m : Nat} (h : latch.testBit (8 * n + m) = latch'.testBit (8 * n + m)) :
    TermIsOne body di cond rules latch n m ↔ TermIsOne body di cond rules latch' n m := by
  simp only [TermIsOne, h]

theorem termRaw_of_used {m : Nat} (h : termUsed body n m) :
    termRaw di cond rules (jigTerm body n m) =
      let w := jigTerm body n m
      let i := fld w 0 7
      ((if fld w 30 2 = 1 then di.testBit i else if fld w 30 2 = 2 then cond.testBit i else rules.testBit i) ^^
        w.testBit 29) := by
  have hsource : fld (jigTerm body n m) 30 2 < 4 := Nat.mod_lt _ (by decide)
  unfold termUsed at h
  simp only [termRaw]
  generalize fld (jigTerm body n m) 30 2 = source at *
  interval_cases source <;> cases (jigTerm body n m).testBit 29 <;> simp_all

/-- After the evaluation of a used term its value is the one of R212: a latched one is its stored bit, since a raw value
of 1 sets that; one that is not latched has no stored bit. -/
theorem termIsOne_bput_iff {m : Nat} (latch : Nat) (h : termUsed body n m) :
    TermIsOne body di cond rules (bput latch (8 * n + m) (termStored body di cond rules latch n m)) n m ↔
      termValue body di cond rules latch n m = true := by
  by_cases hlatched : (jigTerm body n m).testBit 28 = true
  · simp only [TermIsOne, termValue, termStored, latchNext, hlatched, if_true, testBit_bput_self]
    cases termRaw di cond rules (jigTerm body n m) <;> simp
  · simp [TermIsOne, termValue, termStored, latchNext, hlatched, termRaw_of_used h]

/-- What the first `k` terms of a rule give: whether one is used, and whether each used one has the value 1, as the
latches then stand. -/
theorem evalTerms_spec (k latch : Nat) :
    let r := evalTerms body di cond rules n (List.range k) latch
    (r.2.1 = true ↔ ∃ m < k, termUsed body n m) ∧
    (r.2.2 = true ↔ ∀ m < k, termUsed body n m → TermIsOne body di cond rules r.1 n m) := by
  induction k with
  | zero => simp [evalTerms]
  | succ k ih =>
    obtain ⟨hany, hall⟩ := ih
    by_cases h : termUsed body n k
    · rw [evalTerms_succ_used latch h]
      refine ⟨iff_of_true rfl ⟨k, k.lt_succ_self, h⟩, ?_⟩
      simp only [Bool.and_eq_true, hall, Nat.forall_lt_succ_right, h, true_imp_iff, termIsOne_bput_iff _ h]
      refine and_congr_left' (forall₂_congr fun m hm => imp_congr_right fun _ => ?_)
      exact termIsOne_congr (testBit_bput_of_ne _ (by omega)).symm
    · rw [evalTerms_succ_unused latch h]
      simp only [hany, hall, Nat.exists_lt_succ_right, Nat.forall_lt_succ_right, h, or_false, false_imp_iff, and_true,
        and_self]

end

/-! ### The rules in their order (R212, R214) -/

/-- One rule of an evaluation: its latches, and its state after those of lower number. -/
def ruleStep (body : List Byte) (di cond : Nat) (acc : Nat × Nat) (n : Nat) : Nat × Nat :=
  let r := evalTerms body di cond acc.2 n (List.range 8) acc.1
  (r.1, if r.2.1 && r.2.2 then bset acc.2 n else acc.2)

/-- Latches and rule states when the rules of number less than `k` are evaluated. -/
def rulesBefore (body : List Byte) (di cond latch k : Nat) : Nat × Nat :=
  (List.range k).foldl (ruleStep body di cond) (latch, 0)

theorem evalRules_eq_rulesBefore (body : List Byte) (di cond latch : Nat) :
    evalRules body di cond latch = rulesBefore body di cond latch 128 := rfl

section
variable {body : List Byte} {di cond latch : Nat}

theorem rulesBefore_succ (k : Nat) : rulesBefore body di cond latch (k + 1) =
    ruleStep body di cond (rulesBefore body di cond latch k) k := by
  rw [rulesBefore, List.range_succ, List.foldl_append]
  rfl

theorem testBit_ruleStep (acc : Nat × Nat) (n j : Nat) : (ruleStep body di cond acc n).2.testBit j =
    let r := evalTerms body di cond acc.2 n (List.range 8) acc.1
    (acc.2.testBit j || (r.2.1 && r.2.2 && decide (n = j))) := by
  simp only [ruleStep]
  split
  · next h => rw [testBit_bset, h, Bool.true_and]
  · next h => simp [h]

/-- A rule that is not evaluated yet is not true. -/
theorem testBit_rulesBefore_of_le {k j : Nat} (h : k ≤ j) : (rulesBefore body di cond latch k).2.testBit j = false := by
  induction k with
  | zero => simp [rulesBefore]
  | succ k ih => simp [rulesBefore_succ, testBit_ruleStep, ih (by omega), show k ≠ j by omega]

/-- The rules after the first `n` change neither their states nor their latches. -/
theorem rulesBefore_keeps {n k : Nat} (h : n ≤ k) :
    (rulesBefore body di cond latch k).2 % 2 ^ n = (rulesBefore body di cond latch n).2 ∧
    ∀ j < 8 * n, (rulesBefore body di cond latch k).1.testBit j = (rulesBefore body di cond latch n).1.testBit j := by
  induction k, h using Nat.le_induction with
  | base => exact ⟨Nat.mod_eq_of_lt (Nat.lt_pow_two_of_testBit _ fun j => testBit_rulesBefore_of_le), fun _ _ => rfl⟩
  | succ k hk ih =>
    obtain ⟨hstates, hlatches⟩ := ih
    rw [rulesBefore_succ, ← hstates]
    refine ⟨Nat.eq_of_testBit_eq fun j => ?_, fun j hj => (evalTerms_latch_lt 8 _ (by omega)).trans (hlatches j hj)⟩
    rw [Nat.testBit_mod_two_pow, Nat.testBit_mod_two_pow, testBit_ruleStep]
    by_cases hj : j < n
    · simp [show k ≠ j by omega]
    · simp [hj]

/-- When a rule is evaluated, it is true exactly if a term is used and each used one has the value 1. -/
theorem rulesBefore_succ_true_iff (n : Nat) :
    (rulesBefore body di cond latch (n + 1)).2.testBit n = true ↔ (∃ m < 8, termUsed body n m) ∧
      ∀ m < 8, termUsed body n m → TermIsOne body di cond (rulesBefore body di cond latch n).2
        (rulesBefore body di cond latch (n + 1)).1 n m := by
  obtain ⟨hany, hall⟩ := evalTerms_spec (body := body) (di := di) (cond := cond)
    (rules := (rulesBefore body di cond latch n).2) (n := n) 8 (rulesBefore body di cond latch n).1
  rw [rulesBefore_succ, testBit_ruleStep, testBit_rulesBefore_of_le le_rfl]
  simp only [Bool.false_or, decide_true, Bool.and_true, Bool.and_eq_true, hany, hall, ruleStep]

/-- A rule is true exactly while a term of it is used and each used one has the value 1 (R212). -/
theorem evalRules_true_iff {n : Nat} (hn : n < 128) :
    let e := evalRules body di cond latch
    e.2.testBit n = true ↔ (∃ m < 8, termUsed body n m) ∧
      ∀ m < 8, termUsed body n m → TermIsOne body di cond (e.2 % 2 ^ n) e.1 n m := by
  obtain ⟨hbelow, -⟩ := rulesBefore_keeps (body := body) (di := di) (cond := cond) (latch := latch) hn.le
  obtain ⟨hstate, hlatches⟩ := rulesBefore_keeps (body := body) (di := di) (cond := cond) (latch := latch)
    (show n + 1 ≤ 128 from hn)
  have hrule : (evalRules body di cond latch).2.testBit n = (rulesBefore body di cond latch (n + 1)).2.testBit n := by
    rw [evalRules_eq_rulesBefore, ← hstate, Nat.testBit_mod_two_pow, decide_eq_true n.lt_succ_self, Bool.true_and]
  dsimp only
  rw [hrule, rulesBefore_succ_true_iff, evalRules_eq_rulesBefore, hbelow]
  refine and_congr_right' (forall₂_congr fun m hm => imp_congr_right fun _ => ?_)
  exact termIsOne_congr (hlatches _ (by omega)).symm

end

/-! ### What settles (R215, R218, R220) -/

/-- The inputs that the matrix sees do not change as the outputs settle. -/
@[simp] theorem jigInputs_settleOutputs (s : State) : jigInputs (settleOutputs s) = jigInputs s := by
  have hdio : (settleOutputs s).dio.di = (evalMatrix s).dio.di := rfl
  simp [jigInputs, (settleOutputs_cycles_di s).2, hdio]

@[simp] theorem settleOutputs_stroke (s : State) : (settleOutputs s).dio.stroke = s.dio.stroke := by
  have h : (settleOutputs s).dio.stroke = (evalMatrix s).dio.stroke := rfl
  simp [h]

theorem settleOutputs_rules {s : State} (hactive : s.jig.active = true) (hmatrix : s.jig.matrix ≠ []) :
    (settleOutputs s).jig.rules = (evalRules s.jig.matrix (jigInputs s) s.jig.cond s.jig.latch).2 := by
  simp [settleOutputs, evalMatrix, hactive, hmatrix]

theorem diCouplerChange_rules (i : Fin 32) (b : Bool) {s : State} (hboot : s.sys.boot ≠ .off)
    (hactive : s.jig.active = true) (hmatrix : s.jig.matrix ≠ []) :
    ∃ t, exec (.diCouplerChange i b) s = .next t ∧ t.jig.matrix = s.jig.matrix ∧
      t.jig.rules = (evalRules s.jig.matrix (jigInputs t) s.jig.cond s.jig.latch).2 ∧ t.stk = s.stk := by
  refine ⟨_, if_neg hboot, ?_, ?_, ?_⟩
  · simp [settleOutputs_config]
  · rw [jigInputs_settleOutputs]
    exact settleOutputs_rules (by simpa using hactive) (by simpa using hmatrix)
  · simp

/-! ### The commands of the outputs (R96, R218, R222, R224) -/

/-- The commands of a settled state are those that its own rules, strokes and SCRUB_FAIL give. -/
theorem settleOutputs_cmd {n : Nat} (s : State) (hn : n < 32) :
    (settleOutputs s).dio.cmd.testBit n = driverCmd (settleOutputs s) n :=
  testBit_maskOf_range (driverCmd (evalMatrix s)) hn

theorem driverCmd_off {n : Nat} {s : State} (h : s.sys.boot = .off ∨ s.sys.boot = .held ∨ s.jig.active = false) :
    driverCmd s n = false := if_pos (by simpa [or_assoc] using h)

/-- The merge of an output in a module that runs with an active matrix. -/
theorem driverCmd_on {n : Nat} {s : State} (hn : n < 32) (hoff : s.sys.boot ≠ .off) (hheld : s.sys.boot ≠ .held)
    (hactive : s.jig.active = true) :
    driverCmd s n =
      if s.jig.scrubFail = true ∧ targetMode s n ≠ 0 ∧ targetHold s n = 0 then false
      else if s.jig.scrubFail = true ∧ targetMode s n ≠ 0 ∧ targetHold s n = 1 then true
      else if s.jig.scrubFail = true ∧ targetMode s n ≠ 0 then s.dio.stroke.testBit n
      else if targetAny s n = true ∧ targetMode s n = 1 then true
      else if targetAny s n = true ∧ targetMode s n = 2 then false else s.dio.stroke.testBit n := by
  by_cases hfail : s.jig.scrubFail = true ∧ targetMode s n ≠ 0
  · simp [driverCmd, strokeValue, hn, hoff, hheld, hactive, hfail]
  · have hmerge : ¬(s.jig.scrubFail && decide (targetMode s n ≠ 0)) = true := by simpa using hfail
    simp only [driverCmd, hmerge, ← and_assoc, hfail]
    simp [strokeValue, hn, hoff, hheld, hactive]

theorem takeStrokes_stroke {n : Nat} {r : Rec} {s : State} (hn : n < 32) (hbound : boundTo s.drw.image 2 n = some r)
    (hdio : s.enabled.contains .dio = true) :
    (takeStrokes s).dio.stroke.testBit n = true ↔ normalise 1 (drivenValue s r) ≠ 0 := by
  have hstroke : (takeStrokes s).dio.stroke = maskOf ((List.range 32).map (outBit s 2)) := if_pos hdio
  rw [hstroke, testBit_maskOf_range _ hn, outBit, hbound]
  exact decide_eq_true_iff

/-! ### The obligation -/

/-- Settles O15: the rules by `evalRules_true_iff`, a coupler change by the evaluation that settles the outputs, a command
by the merge of the settled state, a stroke value by the point bound to its output. Beyond R212, the clauses on the
outputs rest on R32, R96, R217, R218, R222, R224 and R240. -/
theorem ruleTruth : Obligations.RuleTruth := by
  unfold Obligations.RuleTruth
  refine ⟨fun body di cond latch n hn => evalRules_true_iff hn,
    fun i b s hboot hactive hmatrix => diCouplerChange_rules i b hboot hactive hmatrix,
    fun n s hn hoff hheld hactive => ?_, fun n s hn hoff => ?_,
    fun n r s hn hbound hdio => takeStrokes_stroke hn hbound hdio⟩
  · obtain ⟨hjig, -, -, hfail, -⟩ := settleOutputs_config s
    dsimp only
    rw [settleOutputs_cmd s hn, driverCmd_on hn (by simpa) (by simpa) (hjig.trans hactive), hfail, settleOutputs_stroke]
  · obtain ⟨hjig, -⟩ := settleOutputs_config s
    rw [settleOutputs_cmd s hn, driverCmd_off (by simpa [hjig] using hoff)]

end Sys2Proof.Machine
end

section
/-! PROOFS. Rules of the digital channels: a change at one place of a list, the record of an event, switches that close and
the pins that follow them (R243, R249, R251). -/
namespace Sys2Proof.Machine

/-! ### Places of a list -/

/-- Two changes at one place are one change. -/
theorem lmod_lmod {α : Type} (l : List α) (i : Nat) (f g : α → α) : lmod (lmod l i f) i g = lmod l i (fun a => g (f a)) := by
  refine List.ext_getElem? fun j => ?_
  by_cases hj : j = i
  · subst hj
    simp [Function.comp_def]
  · simp [getElem?_lmod_other _ _ hj]

/-- Two changes that agree on the element at a place change the list alike. -/
theorem lmod_congr {α : Type} {l : List α} {i : Nat} {f g : α → α} (h : ∀ a, l[i]? = some a → f a = g a) :
    lmod l i f = lmod l i g := by
  refine List.ext_getElem? fun j => ?_
  by_cases hj : j = i
  · subst hj
    cases hl : l[j]? with
    | none => simp [hl]
    | some a => simp [hl, h a hl]
  · rw [getElem?_lmod_other _ _ hj, getElem?_lmod_other _ _ hj]

theorem getElem?_map_enum {α β : Type} (l : List α) (f : Nat × α → β) (i : Nat) :
    ((enum l).map f)[i]? = l[i]?.map (fun a => f (i, a)) := by
  cases hl : l[i]? with
  | none => simp_all [enum]
  | some a =>
    obtain ⟨hi, rfl⟩ := List.getElem?_eq_some_iff.mp hl
    simp [enum, hi]

/-! ### Events of the digital channels (R249) -/

/-- A state that an event has brought from `u` is `u` but for the recorder, the link and the free values. -/
theorem State.eq_of_event {t u : State} (h : t.OnlyFreshEvrHie u) :
    t = { u with evr := t.evr, hie := t.hie, fresh := t.fresh } :=
  State.eq_of_fields h rfl rfl rfl

/-! ### Switches and pins (R243, R251) -/

theorem doCh_of_getElem? {s : State} {n : Nat} {c : DoCh} (h : s.dio.dout[n]? = some c) : doCh s n = c := by
  simp [doCh, h]

/-- As the pins follow the switches, nothing else changes. -/
theorem followPins_eq (f : State → State) (s : State) :
    followPins f s = { f s with dio := { (f s).dio with pins := (followPins f s).dio.pins } } := rfl

/-- A pin stands while its switch does, and else takes the switch's state (R251, log entries 2 and 10). -/
theorem followPins_pin {n : Nat} (f : State → State) (s : State) (hn : n < 32) :
    (followPins f s).dio.pins.testBit n =
      if conducts s n = conducts (f s) n then (f s).dio.pins.testBit n else conducts (f s) n :=
  testBit_maskOf_range _ hn

theorem closeOut_waiting {c : DoCh} (hthermal : c.thermal = true) (hcooled : c.cooled = true) (hlatched : c.latched = false) :
    closeOut c = { c with thermal := false, cooled := false, retries := min 8 (c.retries + 1) } :=
  if_pos (by simp [hthermal, hcooled, hlatched])

theorem closeOut_not_waiting {c : DoCh} (h : c.thermal = false ∨ c.cooled = false ∨ c.latched = true) : closeOut c = c :=
  if_neg (by rcases h with h | h | h <;> simp [h])

/-- The switches that their command and their group let close do so; every other channel stands (R243, R247, R248). -/
theorem closeCooled_dout (s : State) (m : Nat) :
    (closeCooled s).dio.dout[m]? = s.dio.dout[m]?.map (fun c =>
      if s.dio.cmd.testBit m && grpOn s (grpOf m) then closeOut c else c) :=
  getElem?_map_enum _ _ _

end Sys2Proof.Machine
end

section
/-! PROOFS. The filter of an input and its wire (R235 to R237), for O17. -/
namespace Sys2Proof.Machine

@[simp] theorem filterTake_filt (v : Bool) (c : DiCh) : (filterTake v c).filt = v := by
  unfold filterTake
  split
  · assumption
  · split <;> rfl

/-- An edge counts when the filter's state changes with the wire intact, in the direction that COUNT selects (R236). -/
theorem filterTake_edges (v : Bool) (c : DiCh) :
    (filterTake v c).edges =
      if c.filt = v || c.wireOpen || (diCount c = 0 && !v) || (diCount c = 1 && v) then c.edges
      else (c.edges + 1) % 2 ^ 32 := by
  unfold filterTake
  by_cases hfilt : c.filt = v
  · simp [hfilt]
  by_cases hopen : c.wireOpen = true
  · simp [hfilt, hopen]
  rcases hmode : diCount c with _ | _ | _
  · cases v <;> simp_all
  · cases v <;> simp_all
  · simp [hfilt, hopen]

theorem diOut_eq_true_iff (c : DiCh) : diOut c = true ↔ c.wireOpen = false ∧ c.filt = true := by
  simp [diOut]

@[simp] theorem settleOutputs_di (s : State) : (settleOutputs s).dio.di = s.dio.di := by
  have h : (settleOutputs s).dio.di = (evalMatrix s).dio.di := rfl
  simp [h]

/-- The outputs settle on a changed input channel, and the change is recorded: the other channels and the coupler outputs
stand. -/
theorem wireEvent_changes (code n detail : Nat) (f : DiCh → DiCh) (s : State) :
    let t := dioEvent code 1 n detail (settleOutputs (modDi n f s))
    t.dio.di = lmod s.dio.di n f ∧ t.jig.di = s.jig.di ∧
      t = { s with jig := t.jig, dio := t.dio, evr := t.evr, hie := t.hie, fresh := t.fresh } := by
  refine ⟨?_, ?_, State.eq_of_fields ?_ rfl rfl rfl⟩
  · simp
  · simp [(settleOutputs_cycles_di _).2]
  · simp [State.OnlyFreshEvrHie]

/-! ### The obligation -/

/-- Settles O17: the filter by `filterTake_edges`, the wire by the one change that `wireEvent_changes` describes. -/
theorem inputMonitors : Obligations.InputMonitors := by
  unfold Obligations.InputMonitors
  exact ⟨fun n s => rfl, fun v c => ⟨filterTake_filt v c, filterTake_edges v c⟩, diOut_eq_true_iff,
    fun n i s hwb hintact => ⟨_, if_pos (by simp [hwb, hintact]), wireEvent_changes ..⟩,
    fun n i s hopen => ⟨_, if_pos hopen, wireEvent_changes ..⟩⟩

end Sys2Proof.Machine
end

section
/-! PROOFS. Overload and thermal shutdown of an output (R239, R242, R243, R247, R248, R251, R258, R574), for O18. -/
namespace Sys2Proof.Machine

/-! ### Shutdowns -/

/-- An output channel as it shuts down (R243). -/
def thermalOff (c : DoCh) : DoCh :=
  { c with thermal := true, thermalSeen := true, shutdowns := sat 32 c.shutdowns 1, cooled := false, cleared := false }

/-- A shutdown of a channel that is not shut down, written out: with RETRIES at 8 it also latches (R243). -/
theorem exec_doThermalShutdown {n : Fin 32} {s : State} (hdetects : detects s n.val = true)
    (hthermal : (doCh s n.val).thermal = false) :
    let u := dioEvent 0x6004 2 n.val ((doCh s n.val).retries * 2 ^ 16) (followPins (modDo n.val thermalOff) s)
    exec (.doThermalShutdown n) s =
      if (doCh s n.val).retries ≥ 8 then .next (dioEvent 0x6005 2 n.val 0 (modDo n.val (fun c => { c with latched := true }) u))
      else .next u :=
  if_pos (by simp [hdetects, hthermal])

theorem doThermalShutdown_latches {n : Fin 32} {s : State} (hdetects : detects s n.val = true)
    (hthermal : (doCh s n.val).thermal = false) (hretries : 8 ≤ (doCh s n.val).retries) :
    ∃ t, exec (.doThermalShutdown n) s = .next t ∧
      t.dio.dout = lmod s.dio.dout n.val (fun c => { thermalOff c with latched := true }) ∧
      t = { s with
        dio := { s.dio with dout := t.dio.dout, pins := t.dio.pins }, evr := t.evr, hie := t.hie, fresh := t.fresh } := by
  have hexec := (exec_doThermalShutdown hdetects hthermal).trans (if_pos hretries)
  rw [State.eq_of_event (dioEvent_frame 0x6004 2 n.val _ _)] at hexec
  exact ⟨_, hexec.trans (congrArg Host.Outcome.next (State.eq_of_event (dioEvent_frame ..))), lmod_lmod .., rfl⟩

/-! ### Retries -/

theorem coolOut_cleared {c : DoCh} (hthermal : c.thermal = true) (hcleared : c.cleared = true) :
    coolOut c = { c with thermal := false, cleared := false } := by
  simp [coolOut, hthermal, hcleared]

theorem coolOut_not_cleared {c : DoCh} (hthermal : c.thermal = true) (hcleared : c.cleared = false) :
    coolOut c = { c with cooled := true } := by
  simp [coolOut, hthermal, hcleared]

/-- A retry cools its own channel, and then every switch that may close does. -/
theorem doThermalRetry_dout (n m : Nat) (s : State) :
    (closeCooled (modDo n coolOut s)).dio.dout[m]? = (lmod s.dio.dout n coolOut)[m]?.map (fun c =>
      if s.dio.cmd.testBit m && grpOn s (grpOf m) then closeOut c else c) :=
  closeCooled_dout _ _

section
variable {n : Nat} {c : DoCh} {s : State} (hc : s.dio.dout[n]? = some c)
include hc

theorem doThermalRetry_self :
    (closeCooled (modDo n coolOut s)).dio.dout[n]? =
      some (if s.dio.cmd.testBit n && grpOn s (grpOf n) then closeOut (coolOut c) else coolOut c) := by
  rw [doThermalRetry_dout, getElem?_lmod_same, hc, Option.map_some, Option.map_some]

variable (hthermal : c.thermal = true)
include hthermal

theorem doThermalRetry_cleared (hcleared : c.cleared = true) :
    (closeCooled (modDo n coolOut s)).dio.dout[n]? = some { c with thermal := false, cleared := false } := by
  rw [doThermalRetry_self hc, coolOut_cleared hthermal hcleared, closeOut_not_waiting (.inl rfl), ite_self]

theorem doThermalRetry_closes (hcleared : c.cleared = false)
    (hon : (s.dio.cmd.testBit n && grpOn s (grpOf n) && !c.latched) = true) :
    (closeCooled (modDo n coolOut s)).dio.dout[n]? =
      some { c with thermal := false, cooled := false, retries := min 8 (c.retries + 1) } := by
  obtain ⟨hlets, hlatched⟩ := Bool.and_eq_true_iff.mp hon
  rw [doThermalRetry_self hc, if_pos hlets, coolOut_not_cleared hthermal hcleared]
  exact congrArg some (closeOut_waiting hthermal rfl (by simpa using hlatched))

theorem doThermalRetry_waits (hcleared : c.cleared = false)
    (hoff : (s.dio.cmd.testBit n && grpOn s (grpOf n) && !c.latched) = false) :
    (closeCooled (modDo n coolOut s)).dio.dout[n]? = some { c with cooled := true } := by
  rw [doThermalRetry_self hc, coolOut_not_cleared hthermal hcleared]
  refine congrArg some (ite_eq_right_iff.mpr fun hlets => ?_)
  have hlatched : c.latched = true := by simpa [hlets] using hoff
  exact closeOut_not_waiting (.inr (.inr hlatched))

end

theorem doThermalRetry_other {n m : Nat} {x : DoCh} {s : State} (hm : m ≠ n) (hx : s.dio.dout[m]? = some x)
    (h : x.thermal = false ∨ x.cooled = false) : (closeCooled (modDo n coolOut s)).dio.dout[m]? = some x := by
  rw [doThermalRetry_dout, getElem?_lmod_other _ _ hm, hx, Option.map_some,
    closeOut_not_waiting (h.imp_right Or.inl), ite_self]

/-! ### The obligation -/

/-- Settles O18: a shutdown by `exec_doThermalShutdown`, a retry by what `coolOut` and `closeOut` make of its channel. That
a retry is kept as cooled, that one of a cleared channel does not count, and that pins follow their switches at once are the
model's choices on R243, R251 and R258 (log entries 2 and 10). -/
theorem outputProtection : Obligations.OutputProtection := by
  unfold Obligations.OutputProtection
  refine ⟨fun s => rfl, fun n i s hbelow => if_neg (by simp [hbelow]),
    fun n i s hdetects hnone hlimit => if_pos (by simp [hdetects, hnone, hlimit]), fun n s => rfl,
    fun n s hdetects hthermal hretries => (exec_doThermalShutdown hdetects hthermal).trans (if_neg (by omega)),
    fun n s => doThermalShutdown_latches, fun n c s hc hthermal => ?_, fun n s => rfl,
    fun n f s hn => ⟨followPins_pin f s hn, followPins_eq f s⟩⟩
  exact ⟨_, rfl, rfl, doThermalRetry_cleared hc hthermal, doThermalRetry_closes hc hthermal,
    doThermalRetry_waits hc hthermal, fun m x => doThermalRetry_other⟩

end Sys2Proof.Machine
end

section
/-! PROOFS. Open load, external drive and reverse block of an output (R242, R245, R251), for O19. -/
namespace Sys2Proof.Machine

/-- A diagnosis that clears where `pinFalls` holds, written out: the pin falls with it. -/
theorem clearDiagnosis_eq (pinFalls : Bool) (n : Nat) (f : DoCh → DoCh) (s : State) :
    (if pinFalls then setPin n false (modDo n f s) else modDo n f s) = { s with dio := { s.dio with
      dout := lmod s.dio.dout n f, pins := if pinFalls then bput s.dio.pins n false else s.dio.pins } } := by
  cases pinFalls <;> rfl

/-- The blanking and the flag of external drive do not see a switch that opens by reverse block. -/
theorem doCh_reverse (n : Nat) (s : State) :
    let c := doCh (setPin n true (followPins (modDo n (fun c => { c with reverse := true })) s)) n
    c.blank = (doCh s n).blank ∧ c.ext = (doCh s n).ext := by
  change ((lmod s.dio.dout n _).getD n {}).blank = _ ∧ ((lmod s.dio.dout n _).getD n {}).ext = _
  cases h : s.dio.dout[n]? <;> simp [doCh, List.getD, h]

/-- A pin above its supply, written out: the switch opens in any case, the flag comes while the diagnosis is not blanked
and it does not stand already (R242, R245). -/
theorem exec_doExtDriveReverse {n : Fin 32} {s : State} (hdetects : detects s n.val = true)
    (hcmd : s.dio.cmd.testBit n.val = true) :
    let u := setPin n.val true (followPins (modDo n.val (fun c => { c with reverse := true })) s)
    exec (.doExtDriveReverse n) s =
      if !(doCh s n.val).blank && !(doCh s n.val).ext then
        .next (dioEvent 0x6007 2 n.val 1 (modDo n.val (fun c => { c with ext := true, extSeen := true }) u))
      else .next u := by
  obtain ⟨hblank, hext⟩ := doCh_reverse n.val s
  dsimp only
  rw [← hblank, ← hext]
  exact if_pos (by simp [hdetects, hcmd])

theorem doExtDriveReverse_blocks {n : Fin 32} {s : State} (hdetects : detects s n.val = true)
    (hcmd : s.dio.cmd.testBit n.val = true) :
    ∃ t, exec (.doExtDriveReverse n) s = .next t ∧
      t.dio.dout = lmod s.dio.dout n.val (fun c => { c with
        reverse := true, ext := c.ext || !(doCh s n.val).blank, extSeen := c.extSeen || (!(doCh s n.val).blank && !(doCh s n.val).ext) }) ∧
      t = { s with dio := t.dio, evr := t.evr, hie := t.hie, fresh := t.fresh } := by
  have hexec := exec_doExtDriveReverse hdetects hcmd
  rw [followPins_eq] at hexec
  by_cases hflags : (!(doCh s n.val).blank && !(doCh s n.val).ext) = true
  · replace hexec := hexec.trans (if_pos hflags)
    refine ⟨_, hexec.trans (congrArg Host.Outcome.next (State.eq_of_event (dioEvent_frame ..))), ?_, rfl⟩
    obtain ⟨hblank, hext⟩ := Bool.and_eq_true_iff.mp hflags
    refine (lmod_lmod ..).trans (lmod_congr fun c _ => ?_)
    rw [hblank, hext, Bool.or_true, Bool.and_true, Bool.or_true]
  · -- blanked, or flagged already: the flag does not come
    refine ⟨_, hexec.trans (if_neg hflags), lmod_congr fun c hc => ?_, rfl⟩
    rw [doCh_of_getElem? hc] at hflags ⊢
    cases hblank : c.blank with
    | true => simp
    | false =>
      have hext : c.ext = true := by simpa [hblank] using hflags
      simp [hext]

/-! ### The obligation -/

/-- Settles O19: each diagnosis by its own change, the reverse block by `exec_doExtDriveReverse`. That the pin of a channel
that is off follows its diagnosis, and that of one leaving reverse block its switch, are the model's choices on R251 (log
entries 2 and 10). -/
theorem outputDiagnosis : Obligations.OutputDiagnosis := by
  unfold Obligations.OutputDiagnosis
  exact ⟨fun n s hdiagnoses hconducts hcfg hopen => if_pos (by simp [hdiagnoses, hconducts, hcfg, hopen]),
    fun n s hdiagnoses hcmd hcfg hopen => if_pos (by simp [hdiagnoses, hcmd, hcfg, hopen]),
    fun n s => ⟨_, congrArg Host.Outcome.next (clearDiagnosis_eq ..), rfl, rfl, rfl⟩,
    fun n s hdiagnoses hcmd hext => if_pos (by simp [hdiagnoses, hcmd, hext]),
    fun n s => doExtDriveReverse_blocks,
    fun n s => ⟨_, congrArg Host.Outcome.next (clearDiagnosis_eq ..), rfl, rfl, rfl⟩, fun n s => rfl, fun n s => rfl⟩

end Sys2Proof.Machine
end

section
/-! PROOFS. Field-supply groups and the clears of latched outputs (R244, R247, R248, R250, R258), for O20. -/
namespace Sys2Proof.Machine

/-! ### Trips and supply (R244, R247) -/

/-- A trip of a group that drives its outputs, written out: after the eighth retry it latches (R244). -/
theorem exec_groupTrip {g : Fin 4} {s : State} (i : Nat) (hboot : s.sys.boot ≠ .off) (hon : grpOn s g.val = true) :
    let u := grpEvent 0x6008 g.val ((grp s g.val).retries * 2 ^ 16 + min i 0xFFFF) s
    exec (.groupTrip g i) s =
      if (grp s g.val).retries ≥ 8 then
        .next (grpEvent 0x6009 g.val 0 (followPins (modGrp g.val (fun x => { x with tripLatched := true })) u))
      else .next (followPins (modGrp g.val (fun x => { x with tripped := true })) u) :=
  if_pos (by simp [hboot, hon])

theorem groupTrip_trips {g : Fin 4} {s : State} (i : Nat) (hboot : s.sys.boot ≠ .off) (hon : grpOn s g.val = true)
    (hretries : (grp s g.val).retries < 8) :
    ∃ t, exec (.groupTrip g i) s = .next t ∧ t.dio.groups = lmod s.dio.groups g.val (fun x => { x with tripped := true }) ∧
      t = { s with dio := t.dio, evr := t.evr, hie := t.hie, fresh := t.fresh } := by
  have hexec := (exec_groupTrip i hboot hon).trans (if_neg (by omega))
  rw [State.eq_of_event (grpEvent_frame 0x6008 g.val _ s), followPins_eq] at hexec
  exact ⟨_, hexec, rfl, rfl⟩

theorem groupTrip_latches {g : Fin 4} {s : State} (i : Nat) (hboot : s.sys.boot ≠ .off) (hon : grpOn s g.val = true)
    (hretries : 8 ≤ (grp s g.val).retries) :
    ∃ t, exec (.groupTrip g i) s = .next t ∧
      t.dio.groups = lmod s.dio.groups g.val (fun x => { x with tripLatched := true }) ∧
      t = { s with dio := t.dio, evr := t.evr, hie := t.hie, fresh := t.fresh } := by
  have hexec := (exec_groupTrip i hboot hon).trans (if_pos hretries)
  rw [State.eq_of_event (grpEvent_frame 0x6008 g.val _ s), followPins_eq] at hexec
  exact ⟨_, hexec.trans (congrArg Host.Outcome.next (State.eq_of_event (grpEvent_frame ..))), rfl, rfl⟩

/-- A group that `f` lets drive its outputs again: their diagnosis is blanked, the switches close, the pins follow (R244,
R245, R247, R248). -/
def groupBack (g : Nat) (f : Group → Group) (s : State) : State :=
  followPins (fun s => closeCooled (blankGroup g (modGrp g f s))) s

/-- A group that drives again changes itself, channels and pins. -/
theorem groupBack_eq (g : Nat) (f : Group → Group) (s : State) :
    groupBack g f s = { s with dio := { s.dio with
      groups := lmod s.dio.groups g f, dout := (groupBack g f s).dio.dout, pins := (groupBack g f s).dio.pins } } := by
  unfold groupBack
  rw [followPins_eq]
  rfl

theorem groupTripRetry_drives {g : Fin 4} {s : State} (h : (grp s g.val).tripped = true) :
    ∃ t, exec (.groupTripRetry g) s = .next t ∧ t.dio.groups = lmod s.dio.groups g.val (fun x => { x with
        tripped := false, retries := min 8 (x.retries + 1) }) ∧ t = { s with
        dio := { s.dio with groups := t.dio.groups, dout := t.dio.dout, pins := t.dio.pins } } := by
  have hexec : exec (.groupTripRetry g) s = .next (groupBack g.val (fun x => { x with
      tripped := false, retries := min 8 (x.retries + 1) }) s) := if_pos h
  rw [groupBack_eq] at hexec
  exact ⟨_, hexec, rfl, rfl⟩

theorem groupPoweredAgain_drives {g : Fin 4} {s : State} (v : Nat) (h : (grp s g.val).unpowered = true) :
    ∃ t, exec (.groupPoweredAgain g v) s = .next t ∧
      t.dio.groups = lmod s.dio.groups g.val (fun x => { x with unpowered := false }) ∧
      t = { s with dio := t.dio, evr := t.evr, hie := t.hie, fresh := t.fresh } := by
  have hexec : exec (.groupPoweredAgain g v) s = .next (grpEvent 0x600C g.val (v % 2 ^ 16)
      (groupBack g.val (fun x => { x with unpowered := false }) s)) := if_pos h
  rw [groupBack_eq] at hexec
  exact ⟨_, hexec.trans (congrArg Host.Outcome.next (State.eq_of_event (grpEvent_frame ..))), rfl, rfl⟩

/-! ### Clears (R250, R258) -/

theorem channelClr_key {v : Nat} (n : Nat) (cooled : Bool) (s : State) (hkey : fld v 16 16 = 0x4A44)
    (hclr : v.testBit 0 = true) : channelClr n v cooled s = clearChannel n cooled s :=
  (if_neg (not_not.mpr hkey)).trans (if_pos hclr)

theorem channelClr_otherKey {v : Nat} (n : Nat) (cooled : Bool) (s : State) (hkey : fld v 16 16 ≠ 0x4A44) :
    channelClr n v cooled s = raiseIgnored 0x06 (0x10050000 + 0x100 + (32 + n) * 0x10 + 0xC) s :=
  if_pos hkey

theorem doGroupClear_unlatches {v : Nat} {s : State} (hkey : fld v 16 16 = 0x4A44) :
    ∃ t, exec (.doGroupClear v) s = .next t ∧
      (∀ (g : Nat) (x : Group), s.dio.groups[g]? = some x → t.dio.groups[g]? = some
        (if v.testBit g then { x with tripLatched := false, retries := 0 } else x)) ∧
      t = { s with
        dio := { s.dio with groups := t.dio.groups, dout := t.dio.dout, pins := t.dio.pins }, evr := t.evr, hie := t.hie,
        fresh := t.fresh } := by
  refine ⟨_, congrArg Host.Outcome.next ((if_neg (not_not.mpr hkey)).trans (State.eq_of_event (raise_frame ..))),
    fun g x hx => ?_, rfl⟩
  exact (getElem?_map_enum ..).trans (by rw [hx, Option.map_some])

theorem doReset_unlatches {d n : Fin 32} {s : State} (c : Bool) (hgrant : grant s.drw.image d.val 4 ≠ 0)
    (howns : (boundTo s.drw.image 2 n.val).elim false (fun r => ptDrawer r = d.val) = true) :
    ∃ t, exec (.doReset d n c) s = .next t ∧ t.answer = .value 1 ∧ t.dio.dout = lmod s.dio.dout n.val (fun x =>
        let hot := x.thermal && !x.cooled && !c
        { x with latched := false, retries := 0, thermal := hot, cooled := false, cleared := hot }) ∧
      t = { s with answer := t.answer, dio := t.dio, evr := t.evr, hie := t.hie, fresh := t.fresh } := by
  have hexec : exec (.doReset d n c) s = .next { clearChannel n.val c s with answer := .value 1 } :=
    if_pos (by simp [hgrant, howns])
  rw [clearChannel, State.eq_of_event (dioEvent_frame 0x600D 2 n.val 0 _), followPins_eq] at hexec
  exact ⟨_, hexec, rfl, rfl, rfl⟩

/-! ### The obligation -/

/-- Settles O20: a trip by `exec_groupTrip`, the supply and the clears each by its own rule. That pins follow the switches
when a group loses its supply and when a channel is cleared is the model's choice on R251 (log entry 10). -/
theorem outputGroupsAndClears : Obligations.OutputGroupsAndClears := by
  unfold Obligations.OutputGroupsAndClears
  exact ⟨fun g i s => groupTrip_trips i, fun g i s => groupTrip_latches i,
    fun g s => groupTripRetry_drives, fun g s => rfl,
    fun g v s hboot hlow => if_pos (by simp [hboot, hlow]), fun g v s hlow => if_pos hlow,
    fun g v s hboot hpower => if_pos (by simp [hboot, hpower]), fun g v s => groupPoweredAgain_drives v,
    fun n v c s hkey hclr => congrArg Host.Outcome.next (channelClr_key n.val c s hkey hclr),
    fun n v c s hkey => congrArg Host.Outcome.next (channelClr_otherKey n.val c s hkey),
    fun v s => doGroupClear_unlatches, fun d n c s => doReset_unlatches c⟩

end Sys2Proof.Machine
end

section
/-! PROOFS. Analog channels: the check of a reference, the faults of an output, what a conversion stores, and the command of
an output (R261 to R269), for O21. -/
namespace Sys2Proof.Machine

/-! ### One channel -/

theorem aioCh_of_getElem? {s : State} {n : Nat} {c : AioCh} (h : s.aio.ch[n]? = some c) : aioCh s n = c := by
  simp [aioCh, h]

theorem modAio_modAio (n : Nat) (f g : AioCh → AioCh) (s : State) :
    modAio n g (modAio n f s) = modAio n (fun c => g (f c)) s := by
  simp only [modAio, lmod_lmod]

/-- A state that a change of the analog channels and its event have brought from `s` is `s` but for these. -/
theorem State.eq_of_aioChange {t s : State} (h : t.OnlyFreshAioEvrHie s) :
    t = { s with aio := t.aio, evr := t.evr, hie := t.hie, fresh := t.fresh } :=
  State.eq_of_fields (by simp [State.OnlyFreshEvrHie, h]) rfl rfl rfl

theorem aioEvent_modAio_ch (code n detail : Nat) (f : AioCh → AioCh) (s : State) :
    (aioEvent code n detail (modAio n f s)).aio.ch = lmod s.aio.ch n f := by
  simp

/-! ### The check of a reference, and the faults of an output (R265, R268) -/

theorem exec_referenceCheck_input {n : Fin 16} {s : State} (ok : Bool) (hmode : aioOut (aioCh s n.val).mode = false) :
    exec (.referenceCheck n ok) s = .next (modAio n.val (fun c => { c with refBad := !ok }) s) :=
  if_neg (by simp [hmode])

theorem referenceCheck_output {n : Fin 16} {s : State} (ok : Bool) (hmode : aioOut (aioCh s n.val).mode = true) :
    ∃ t, exec (.referenceCheck n ok) s = .next t ∧ t.aio.ch = lmod s.aio.ch n.val (fun c => { c with
        refBad := !ok, convFault := !ok, faultSeen := c.faultSeen || !ok }) ∧
      t = { s with aio := t.aio, evr := t.evr, hie := t.hie, fresh := t.fresh } := by
  cases ok with
  | true =>
    refine ⟨_, if_pos hmode, ?_, rfl⟩
    rw [modAio_modAio]
    simp
  | false =>
    refine ⟨_, (if_pos hmode).trans (if_neg Bool.false_ne_true), ?_, ?_⟩
    · rw [modAio_modAio, aioEvent_modAio_ch]
      simp
    · exact State.eq_of_aioChange (by simp [State.OnlyFreshAioEvrHie])

/-- While an output does not evaluate its faults, the four commands do nothing. -/
theorem exec_outputFaults_quiet {n : Fin 16} {s : State} (h : aioEvaluates s n.val = false) :
    exec (.aoOverload n) s = .next s ∧ exec (.aoOverloadClear n) s = .next s ∧
      exec (.aoOpenLoop n) s = .next s ∧ exec (.aoOpenLoopClear n) s = .next s :=
  ⟨if_neg (by simp [h]), if_neg (by simp [h]), if_neg (by simp [h]), if_neg (by simp [h])⟩

/-! ### What a conversion stores (R261 to R264) -/

/-- A channel that has taken the outcome of a conversion. -/
def aioTaken (v : Int) (q : Byte) (tick : Nat) (c : AioCh) : AioCh :=
  { c with
    value := v, quality := q, tick := tick, good := some (isGood q), lastGood := if isGood q then some v else c.lastGood }

theorem aioStore_ch (n : Nat) (v : Int) (q : Byte) (tick : Nat) (s : State) :
    (aioStore n v q tick s).aio.ch = lmod s.aio.ch n (aioTaken v q tick) := by
  simp only [aioStore]
  split
  · rfl
  · exact aioEvent_modAio_ch _ n _ (aioTaken v q tick) s

/-- The mark of a substituted value leaves GOOD as it is. -/
theorem isGood_or_substituted (q : Byte) : isGood (q ||| 0x08) = isGood q := by
  simp only [isGood, BitVec.testBit_toNat]
  simp

/-- The value and quality that a conversion gives a channel: the value with the quality of its band or, where that is not
good and FAIL asks for it, the last good value, marked as substituted (R263, R264). -/
def aioOutcome (c : AioCh) (v : Int) : Int × Byte :=
  let q := aioBand c.mode v
  if isGood q || !aioFail c then (v, q) else (c.lastGood.getD 0, q ||| 0x08)

theorem aioOutcome_own {c : AioCh} {v : Int} (h : isGood (aioBand c.mode v) = true ∨ aioFail c = false) :
    aioOutcome c v = (v, aioBand c.mode v) :=
  if_pos (by simpa using h)

theorem aioOutcome_substituted {c : AioCh} {v : Int} (hbad : isGood (aioBand c.mode v) = false)
    (hfail : aioFail c = true) : aioOutcome c v = (c.lastGood.getD 0, aioBand c.mode v ||| 0x08) :=
  if_neg (by simp [hbad, hfail])

theorem aioConvert_of_result {n : Nat} {c : AioCh} {s : State} (tn : Nat) (m : Int) (hc : s.aio.ch[n]? = some c)
    (href : c.refBad = false) :
    let o := aioOutcome c (clampInt (aioRange c.mode).1 (aioRange c.mode).2 m)
    aioConvert n tn (some m) s = aioStore n o.1 o.2 tn (modAio n (fun c => { c with convFault := false }) s) := by
  simp only [aioConvert, aioCh_of_getElem? hc, href, aioOutcome]
  split <;> rfl

theorem aioConvert_ch {n : Nat} {c : AioCh} {s : State} (tn : Nat) (m : Int) (hc : s.aio.ch[n]? = some c)
    (href : c.refBad = false) :
    let o := aioOutcome c (clampInt (aioRange c.mode).1 (aioRange c.mode).2 m)
    (aioConvert n tn (some m) s).aio.ch[n]? = some (aioTaken o.1 o.2 tn { c with convFault := false }) := by
  rw [aioConvert_of_result tn m hc href, aioStore_ch, getElem?_lmod_same, modAio_aio, getElem?_lmod_same, hc]
  rfl

theorem aioConvert_stores (n tn : Nat) (m : Int) (c : AioCh) (s : State) (hc : s.aio.ch[n]? = some c)
    (href : c.refBad = false) :
    let v := clampInt (aioRange c.mode).1 (aioRange c.mode).2 m
    let q := aioBand c.mode v
    let t := aioConvert n tn (some m) s
    (isGood q = true → t.aio.ch[n]? = some { c with
      convFault := false, value := v, quality := q, tick := tn, good := some true, lastGood := some v }) ∧
    (isGood q = false → aioFail c = false → t.aio.ch[n]? = some { c with
      convFault := false, value := v, quality := q, tick := tn, good := some false }) ∧
    (isGood q = false → aioFail c = true → t.aio.ch[n]? = some { c with
      convFault := false, value := c.lastGood.getD 0, quality := q ||| 0x08, tick := tn, good := some false }) ∧
    t = { s with aio := t.aio, evr := t.evr, hie := t.hie, fresh := t.fresh } := by
  have hch := aioConvert_ch tn m hc href
  refine ⟨fun hgood => hch.trans ?_, fun hbad hfail => hch.trans ?_, fun hbad hfail => hch.trans ?_,
    State.eq_of_aioChange (aioConvert_frame ..)⟩
  · rw [aioOutcome_own (.inl hgood), aioTaken, hgood]
    rfl
  · rw [aioOutcome_own (.inr hfail), aioTaken, hbad]
    rfl
  · rw [aioOutcome_substituted hbad hfail, aioTaken, (isGood_or_substituted _).trans hbad]
    rfl

/-- A conversion that gives no result, or whose reference is bad, keeps the value and its tick (R264, R265). -/
theorem aioConvert_faulty {n : Nat} {m : Option Int} {c : AioCh} {s : State} (tn : Nat) (hc : s.aio.ch[n]? = some c)
    (h : c.refBad = true ∨ m = none) :
    ∃ c', (aioConvert n tn m s).aio.ch[n]? = some c' ∧ c'.value = c.value ∧ c'.tick = c.tick ∧ c'.convFault = true ∧
      c'.faultSeen = true ∧ c'.quality = ((c.quality &&& 0x7F) ||| 0x40 ||| (if aioFail c then 0x08 else 0)) := by
  unfold aioConvert
  rw [aioCh_of_getElem? hc]
  dsimp only
  split
  · next href => simp [href] at h
  · rw [aioStore_ch]
    simp [hc, aioTaken]

/-! ### The command of an output (R266, R267, R269) -/

theorem clampInt_eq_max_min {lo hi : Int} (v : Int) (h : lo ≤ hi) : clampInt lo hi v = max lo (min v hi) := by
  unfold clampInt
  split
  · omega
  · split <;> omega

theorem clampInt_cmdRange (m : Nat) (v : Int) :
    clampInt (aioCmdRange m).1 (aioCmdRange m).2 v = max 0 (min v (if m = 5 then 10500000 else 22000000)) := by
  unfold aioCmdRange
  split <;> exact clampInt_eq_max_min v (by decide)

theorem aioApply_ch {n : Nat} {c : AioCh} {s : State} (v : Int) (hc : s.aio.ch[n]? = some c) :
    let w := clampInt (aioCmdRange c.mode).1 (aioCmdRange c.mode).2 v
    (aioApply n v s).aio.ch[n]? = some { c with
      value := w, clamped := decide (w ≠ v), drives := true
      quiet := if w = c.value && c.drives then c.quiet else s.stk.edges + 20 } := by
  simp [aioApply, hc]

theorem aioTerminal_eq_some {n : Nat} {c : AioCh} {s : State} (hc : s.aio.ch[n]? = some c) (hmode : aioOut c.mode = true)
    (hdrives : c.drives = true) (hconv : c.convFault = false) (hboot : s.sys.boot = .loaded)
    (hon : s.enabled.contains .aio = true) : aioTerminal s n = some c.value := by
  rw [aioTerminal, aioCh_of_getElem? hc]
  exact if_pos (by simp only [hmode, hdrives, hconv, hboot, hon]; decide)

theorem aioApply_drives {n : Nat} {c : AioCh} {s : State} (v : Int) (hc : s.aio.ch[n]? = some c)
    (hmode : aioOut c.mode = true) (hboot : s.sys.boot = .loaded) (hon : s.enabled.contains .aio = true)
    (hconv : c.convFault = false) :
    let w := max 0 (min v (if c.mode = 5 then 10500000 else 22000000))
    aioTerminal (aioApply n v s) n = some w ∧
      ∃ c', (aioApply n v s).aio.ch[n]? = some c' ∧ c'.clamped = decide (w ≠ v) := by
  intro w
  have hw : clampInt (aioCmdRange c.mode).1 (aioCmdRange c.mode).2 v = w := clampInt_cmdRange c.mode v
  have hch := aioApply_ch v hc
  rw [hw] at hch
  exact ⟨aioTerminal_eq_some hch hmode rfl hconv hboot hon, _, hch, rfl⟩

end Sys2Proof.Machine
end

section
/-! PROOFS. Loop slots: the numbers of an evaluation, its result and the commit of it, the banks; and with them O21 (R153,
R283, R285 to R287, R290, R291). -/
namespace Sys2Proof.Machine

/-! ### Numbers (R283, R285, R287) -/

theorem sat32_of_mem {v : Int} (hlo : -(2 ^ 31) ≤ v) (hhi : v ≤ 2 ^ 31 - 1) : sat32 v = v := by
  rw [sat32, clampInt, if_neg (by omega), if_neg (by omega)]

/-- A whole number of units passes the rounding. -/
theorem rnd_add_mul (p k : Int) : rnd (p + 2 ^ 28 * k) 28 = rnd p 28 + k := by
  simp only [rnd]
  omega

/-- One section computes its sum, rounded and saturated, and shifts its history. -/
theorem runSections_one (b0 b1 b2 a1 a2 v x x1 x2 y1 y2 : Int) (l : List Int) (i : Bool) :
    let y := sat32 (rnd (b0 * x + b1 * x1 + b2 * x2 - a1 * y1 - a2 * y2) 28)
    runSections (b0 :: b1 :: b2 :: a1 :: a2 :: l) i false v 1 0 x [(x1, x2, y1, y2)] = (y, [(x, x1, y, y1)]) := by
  have hsum : b0 * x + b1 * x1 + b2 * x2 - a1 * y1 - a2 * y2 = b0 * x + b1 * x1 + b2 * x2 - a2 * y2 - a1 * y1 := by omega
  intro y
  simp only [y, hsum]
  rfl

/-- A transfer sets the history of the integrating section such that its output is the value before. -/
theorem runSections_transfer (b0 b1 b2 v x x1 x2 y1 y2 : Int) (l : List Int) :
    let p := rnd (b0 * x + b1 * x1 + b2 * x2) 28
    (-(2 ^ 31) : Int) ≤ v → v ≤ 2 ^ 31 - 1 → -(2 ^ 31) ≤ v - p → v - p ≤ 2 ^ 31 - 1 →
    (runSections (b0 :: b1 :: b2 :: -(2 ^ 28) :: 0 :: l) true true v 1 0 x [(x1, x2, y1, y2)]).1 = v := by
  intro p hvlo hvhi hplo hphi
  have hrun : (runSections (b0 :: b1 :: b2 :: -(2 ^ 28) :: 0 :: l) true true v 1 0 x [(x1, x2, y1, y2)]).1 =
      let f := b0 * x + b1 * x1 + b2 * x2 - 0 * y2
      sat32 (rnd (f - -(2 ^ 28) * sat32 (v - rnd f 28)) 28) := rfl
  have hf : b0 * x + b1 * x1 + b2 * x2 - 0 * y2 = b0 * x + b1 * x1 + b2 * x2 := by omega
  have hpreset : sat32 (v - p) = v - p := sat32_of_mem hplo hphi
  simp only [hrun, hf, p] at hpreset ⊢
  rw [hpreset, neg_mul, sub_neg_eq_add, rnd_add_mul, add_sub_cancel]
  exact sat32_of_mem hvlo hvhi

/-! ### The limits of an evaluation (R286) -/

/-- The value before the limits of an evaluation in AUTO, held within the rate limit where there is one. -/
def rateHeld (rate prev t : Int) : Int := if 0 < rate then min (max t (prev - rate)) (prev + rate) else t

theorem rateHeld_mem {rate : Int} (prev t : Int) (h : 0 < rate) :
    prev - rate ≤ rateHeld rate prev t ∧ rateHeld rate prev t ≤ prev + rate := by
  rw [rateHeld, if_pos h]
  omega

/-- Without an inner slot, the value of an evaluation is one held between OUT_MIN and OUT_MAX; in AUTO that one is within the
rate limit. -/
theorem evalDyn_vPrev (img : List Section) (im : Image) (r : Rec) (bank : List Int) (sw fi : Bool) {k : LoopLinks}
    (d : LoopDyn) (hinner : k.inner = none) :
    let e := evalDyn img im r bank sw fi k d
    ∃ t, e.vPrev = min (max t (bank.getD 40 0)) (bank.getD 41 0) ∧
      (e.prevMode = .auto → ∃ y, t = rateHeld (bank.getD 42 0) d.vPrev y) := by
  intro e
  simp only [e, evalDyn, hinner, Option.elim_none, Bool.false_eq_true, if_false]
  refine ⟨_, rfl, fun hmode => ?_⟩
  simp only [hmode, decide_true, Bool.true_or, Bool.and_true, decide_eq_true_eq]
  exact ⟨_, rfl⟩

theorem evalDyn_limits (img : List Section) (im : Image) (r : Rec) (bank : List Int) (sw fi : Bool) (k : LoopLinks)
    (d : LoopDyn) (hinner : k.inner = none) (hrange : bank.getD 40 0 ≤ bank.getD 41 0) :
    let e := evalDyn img im r bank sw fi k d
    bank.getD 40 0 ≤ e.vPrev ∧ e.vPrev ≤ bank.getD 41 0 ∧
    (e.prevMode = .auto → 0 < bank.getD 42 0 → bank.getD 40 0 ≤ d.vPrev → d.vPrev ≤ bank.getD 41 0 →
      d.vPrev - bank.getD 42 0 ≤ e.vPrev ∧ e.vPrev ≤ d.vPrev + bank.getD 42 0) := by
  obtain ⟨t, hv, hauto⟩ := evalDyn_vPrev img im r bank sw fi d hinner
  dsimp only
  refine ⟨by omega, by omega, fun hmode hrate hlo hhi => ?_⟩
  obtain ⟨y, rfl⟩ := hauto hmode
  have hrated := rateHeld_mem d.vPrev y hrate
  omega

/-! ### The result of an evaluation (R279, R286) -/

/-- A state that a change of the loop slots and its event have brought from `s` is `s` but for these. -/
theorem State.eq_of_loopChange {t s : State} (h : t.OnlyFreshLpeEvrHie s) :
    t = { s with lpe := t.lpe, evr := t.evr, hie := t.hie, fresh := t.fresh } :=
  State.eq_of_fields (by simp [State.OnlyFreshEvrHie, h]) rfl rfl rfl

theorem tget_modLoop_same {n : Nat} {l : LoopSlot} {s : State} (f : LoopSlot → LoopSlot) (h : tget s.lpe.slots n = some l) :
    tget (modLoop n f s).lpe.slots n = some (f l) := by
  simp [modLoop, h]

theorem tget_modLoop_other {n m : Nat} (f : LoopSlot → LoopSlot) (s : State) (h : m ≠ n) :
    tget (modLoop n f s).lpe.slots m = tget s.lpe.slots m := by
  unfold modLoop
  split
  · exact tget_tset_other _ _ h
  · rfl

/-- A slot whose evaluation at tick `tn` and edge `e` gave `d`; its result waits in the type `t` of its output point. -/
def loopEvaluated (tn e t : Nat) (r : Rec) (d : LoopDyn) (l : LoopSlot) : LoopSlot :=
  { l with
    dyn := d, evald := true, swapped := false, first := false, bankSeen := l.activeB,
    lostSeen := l.lostSeen || d.lost, satSeen := l.satSeen || d.satHi || d.satLo,
    losses := if d.lost && !l.dyn.lost then sat 16 l.losses 1 else l.losses,
    catch_ := tn % 2 ^ 16, catchTn := tn % 2 ^ 32, result := some (scaleOut r t d.vPrev, loopQuality r d.prevMode),
    relEdge := e + lpPeriod r, due := e + lpPeriod r }

/-- An evaluation changes its slot; its events change no slot. -/
theorem evalSlot_lpe {im : Image} {tn e : Nat} {r : Rec} {l : LoopSlot} {s : State}
    (hl : tget s.lpe.slots (lpSlot r) = some l) :
    let d := evalDyn s.drw.image im r (activeBank l) l.swapped l.first (loopLinks s.drw.image s.lpe.slots r) l.dyn
    (evalSlot im tn e r s).lpe = (modLoop (lpSlot r)
      (loopEvaluated tn e ((pointRec s.drw.image (lpOut r)).elim 4 ptType) r d) s).lpe := by
  simp only [evalSlot, hl, (loopEvent_frame ..), ↓(ite_fields ..), ite_self]
  rfl

/-- A slot evaluated holds its result, and catches again after its period. -/
theorem evalSlot_holds (im : Image) (tn e : Nat) (r : Rec) (l : LoopSlot) (s : State)
    (hl : tget s.lpe.slots (lpSlot r) = some l) :
    let d := evalDyn s.drw.image im r (activeBank l) l.swapped l.first (loopLinks s.drw.image s.lpe.slots r) l.dyn
    let t := evalSlot im tn e r s
    ∃ l', tget t.lpe.slots (lpSlot r) = some l' ∧ l'.dyn = d ∧ l'.rel = l.rel ∧ l'.catchTn = tn % 2 ^ 32 ∧
      l'.result = some (scaleOut r ((pointRec s.drw.image (lpOut r)).elim 4 ptType) d.vPrev, loopQuality r d.prevMode) ∧
      l'.relEdge = e + lpPeriod r ∧ l'.due = e + lpPeriod r ∧ l'.swapped = false ∧ l'.first = false ∧
      t = { s with lpe := t.lpe, evr := t.evr, hie := t.hie, fresh := t.fresh } := by
  refine ⟨loopEvaluated tn e _ r _ l, ?_, rfl, rfl, rfl, rfl, rfl, rfl, rfl, rfl,
    State.eq_of_loopChange (evalSlot_frame ..)⟩
  rw [evalSlot_lpe hl]
  exact tget_modLoop_same _ hl

/-! ### The commit of a result (R153, R278) -/

/-- A slot whose result has been committed. -/
def loopReleased (l : LoopSlot) : LoopSlot := { l with rel := l.dyn, result := none }

/-- The result of a slot committed: the evaluation counts as released, and its point is written. -/
def releaseLoop (r : Rec) (o : Int) (q : Byte) (tick : Nat) (s : State) : State :=
  let s := modLoop (lpSlot r) loopReleased s
  if lpOut r = 0xFFFF then s
  else
    let v := BitVec.ofInt 64 o
    let s := commitPoint (lpOut r) v q tick s
    jAdd [.point (q &&& 0xFB).toNat (lpOut r) (normalise (pointType s (lpOut r)) v)]
      (addStream ([0x12] ++ leBytes 2 (lpSlot r) ++ leBytes 2 (lpOut r) ++
        leBytes 8 (normalise (pointType s (lpOut r)) v).toNat ++ [q &&& 0xFB]) s)

/-- The commit of one loop slot: its result, when this edge is its release. -/
def commitLoop (s : State) (r : Rec) : State :=
  match (tget s.lpe.slots (lpSlot r)).bind (fun l => l.result.map (fun x => (l, x))) with
  | some (l, o, q) => if l.relEdge = s.stk.edges then releaseLoop r o q l.catchTn s else s
  | none => s

theorem commitLoops_eq (s : State) : commitLoops s = (loopRecs s.drw.image).foldl commitLoop s := by
  refine congrArg (fun f => (loopRecs s.drw.image).foldl f s) (funext fun u => funext fun r => ?_)
  unfold commitLoop
  cases hl : tget u.lpe.slots (lpSlot r) with
  | none => rfl
  | some l =>
    cases hresult : l.result with
    | none => simp [hresult]
    | some x => simp only [hresult, Option.bind_some, Option.map_some]; rfl

/-- A record has no effect, or commits a result. -/
theorem commitLoop_cases (s : State) (r : Rec) :
    commitLoop s r = s ∨ ∃ o q tick, commitLoop s r = releaseLoop r o q tick s := by
  unfold commitLoop
  split
  · next l o q _ =>
    split
    · exact .inr ⟨o, q, l.catchTn, rfl⟩
    · exact .inl rfl
  · exact .inl rfl

theorem commitLoop_of_no_result {s : State} {r : Rec} {l : LoopSlot} (hl : tget s.lpe.slots (lpSlot r) = some l)
    (hresult : l.result = none) : commitLoop s r = s := by
  simp only [commitLoop, hl, Option.bind_some, hresult, Option.map_none]

theorem commitLoop_of_due {s : State} {r : Rec} {l : LoopSlot} {o : Int} {q : Byte}
    (hl : tget s.lpe.slots (lpSlot r) = some l) (hresult : l.result = some (o, q)) (hdue : l.relEdge = s.stk.edges) :
    commitLoop s r = releaseLoop r o q l.catchTn s := by
  simp only [commitLoop, hl, Option.bind_some, hresult, Option.map_some]
  exact if_pos hdue

theorem releaseLoop_lpe (r : Rec) (o : Int) (q : Byte) (tick : Nat) (s : State) :
    (releaseLoop r o q tick s).lpe = (modLoop (lpSlot r) loopReleased s).lpe := by
  unfold releaseLoop
  split <;> simp

theorem releaseLoop_stk (r : Rec) (o : Int) (q : Byte) (tick : Nat) (s : State) :
    (releaseLoop r o q tick s).stk = s.stk := by
  unfold releaseLoop
  split <;> simp

/-- The image and the forces after a result with an output point are those after the commit of the point. -/
theorem releaseLoop_image_dbg {r : Rec} (o : Int) (q : Byte) (tick : Nat) (s : State) (hout : lpOut r ≠ 0xFFFF) :
    let u := commitPoint (lpOut r) (BitVec.ofInt 64 o) q tick (modLoop (lpSlot r) loopReleased s)
    (releaseLoop r o q tick s).dvt.image = u.dvt.image ∧ (releaseLoop r o q tick s).dbg = u.dbg := by
  rw [releaseLoop, if_neg hout]
  exact ⟨rfl, rfl⟩

theorem forcedValue_congr {s t : State} (h : t.dbg = s.dbg) (i : Nat) : forcedValue t i = forcedValue s i := by
  rw [forcedValue, h, forcedValue]

theorem forcedValue_modLoop (n : Nat) (f : LoopSlot → LoopSlot) (s : State) (i : Nat) :
    forcedValue (modLoop n f s) i = forcedValue s i :=
  forcedValue_congr (modLoop_dbg ..) i

/-- The point of a result, written by its commit. -/
theorem releaseLoop_point {r : Rec} (o : Int) (q : Byte) (tick : Nat) (s : State) (hout : lpOut r ≠ 0xFFFF) :
    let e := entryOf (releaseLoop r o q tick s).dvt.image (lpOut r)
    e.value = (forcedValue s (lpOut r)).getD (normalise (entryOf s.dvt.image (lpOut r)).typ (BitVec.ofInt 64 o)) ∧
      e.quality = withForced s (lpOut r) q := by
  obtain ⟨himage, -⟩ := releaseLoop_image_dbg o q tick s hout
  obtain ⟨hvalue, hquality, -⟩ := commitPoint_same (lpOut r) (BitVec.ofInt 64 o) q tick (modLoop (lpSlot r) loopReleased s)
  rw [forcedValue_modLoop, modLoop_dvt] at hvalue
  rw [withForced_congr (forcedValue_modLoop ..)] at hquality
  rw [himage]
  exact ⟨hvalue, hquality⟩

/-- What `t` keeps of `s` for the commit of a slot: the slot, the entry and the force of its output point, the edge. -/
def LoopKept (r : Rec) (s t : State) : Prop :=
  tget t.lpe.slots (lpSlot r) = tget s.lpe.slots (lpSlot r) ∧
  entryOf t.dvt.image (lpOut r) = entryOf s.dvt.image (lpOut r) ∧
  forcedValue t (lpOut r) = forcedValue s (lpOut r) ∧ t.stk = s.stk

theorem LoopKept.refl (r : Rec) (s : State) : LoopKept r s s := ⟨rfl, rfl, rfl, rfl⟩

theorem LoopKept.trans {r : Rec} {s t u : State} (h : LoopKept r s t) (h' : LoopKept r t u) : LoopKept r s u := by
  obtain ⟨hslot, hentry, hforce, hstk⟩ := h
  obtain ⟨hslot', hentry', hforce', hstk'⟩ := h'
  exact ⟨hslot'.trans hslot, hentry'.trans hentry, hforce'.trans hforce, hstk'.trans hstk⟩

theorem releaseLoop_kept {r x : Rec} (o : Int) (q : Byte) (tick : Nat) (s : State) (hslot : lpSlot x ≠ lpSlot r)
    (hout : lpOut x ≠ lpOut r) : LoopKept r s (releaseLoop x o q tick s) := by
  refine ⟨by rw [releaseLoop_lpe, tget_modLoop_other _ _ hslot.symm], ?_, ?_, releaseLoop_stk ..⟩
  all_goals by_cases hnone : lpOut x = 0xFFFF
  · rw [releaseLoop, if_pos hnone, modLoop_dvt]
  · rw [(releaseLoop_image_dbg o q tick s hnone).1, commitPoint_other _ q tick _ hout.symm, modLoop_dvt]
  · rw [releaseLoop, if_pos hnone, forcedValue_modLoop]
  · rw [forcedValue_congr (releaseLoop_image_dbg o q tick s hnone).2, (commitPoint_keepsPoints _ _ q tick _).2.1,
      forcedValue_modLoop]

theorem commitLoop_kept {r x : Rec} (s : State) (hslot : lpSlot x ≠ lpSlot r) (hout : lpOut x ≠ lpOut r) :
    LoopKept r s (commitLoop s x) := by
  obtain h | ⟨o, q, tick, h⟩ := commitLoop_cases s x <;> rw [h]
  · exact .refl r s
  · exact releaseLoop_kept o q tick s hslot hout

/-- The records of other slots and points leave a slot and its point as they are, as does its own once no result waits. -/
theorem foldl_commitLoop_kept {r : Rec} {l : List Rec} {s : State}
    (h : ∀ x ∈ l, (lpSlot x ≠ lpSlot r ∧ lpOut x ≠ lpOut r) ∨
      (x = r ∧ ∃ y, tget s.lpe.slots (lpSlot r) = some y ∧ y.result = none)) :
    LoopKept r s (l.foldl commitLoop s) := by
  refine List.foldlRecOn (motive := LoopKept r s) l commitLoop (.refl r s) (fun u hu x hx => hu.trans ?_)
  obtain ⟨hslot, hout⟩ | ⟨rfl, y, hy, hresult⟩ := h x hx
  · exact commitLoop_kept u hslot hout
  · rw [commitLoop_of_no_result (hu.1.trans hy) hresult]
    exact .refl x u

theorem commitLoops_writes (r : Rec) (l : LoopSlot) (o : Int) (q : Byte) (s : State) (hr : r ∈ loopRecs s.drw.image)
    (honly : ∀ x ∈ loopRecs s.drw.image, lpSlot x = lpSlot r ∨ lpOut x = lpOut r → x = r)
    (hl : tget s.lpe.slots (lpSlot r) = some l) (hresult : l.result = some (o, q)) (hdue : l.relEdge = s.stk.edges)
    (hout : lpOut r ≠ 0xFFFF) :
    let t := commitLoops s
    tget t.lpe.slots (lpSlot r) = some { l with rel := l.dyn, result := none } ∧
    (entryOf t.dvt.image (lpOut r)).value =
      (forcedValue s (lpOut r)).getD (normalise (entryOf s.dvt.image (lpOut r)).typ (BitVec.ofInt 64 o)) ∧
    (entryOf t.dvt.image (lpOut r)).quality = withForced s (lpOut r) q := by
  obtain ⟨before, after, hrecs, hbefore⟩ := List.eq_append_cons_of_mem hr
  rw [commitLoops_eq, hrecs, List.foldl_append, List.foldl_cons]
  have hother : ∀ x ∈ loopRecs s.drw.image, x ≠ r → lpSlot x ≠ lpSlot r ∧ lpOut x ≠ lpOut r :=
    fun x hx hne => ⟨fun h => hne (honly x hx (.inl h)), fun h => hne (honly x hx (.inr h))⟩
  -- up to the record the result waits
  obtain ⟨hslot, hentry, hforce, hstk⟩ : LoopKept r s (before.foldl commitLoop s) :=
    foldl_commitLoop_kept fun x hx => .inl (hother x (by simp [hrecs, hx]) (fun he => hbefore (he ▸ hx)))
  generalize before.foldl commitLoop s = u at *
  have hcommit := commitLoop_of_due (hslot.trans hl) hresult (hdue.trans (by rw [hstk]))
  have hdone : tget (commitLoop u r).lpe.slots (lpSlot r) = some (loopReleased l) := by
    rw [hcommit, releaseLoop_lpe, tget_modLoop_same _ (hslot.trans hl)]
  -- after it nothing waits
  obtain ⟨hslot', hentry', -, -⟩ : LoopKept r (commitLoop u r) (after.foldl commitLoop (commitLoop u r)) :=
    foldl_commitLoop_kept fun x hx => by
      by_cases hx' : x = r
      · exact .inr ⟨hx', _, hdone, rfl⟩
      · exact .inl (hother x (by simp [hrecs, hx]) hx')
  obtain ⟨hvalue, hquality⟩ := releaseLoop_point o q l.catchTn u hout
  rw [hforce, hentry] at hvalue
  rw [withForced_congr hforce] at hquality
  rw [← hcommit] at hvalue hquality
  exact ⟨hslot'.trans hdone, (congrArg (·.value) hentry').trans hvalue, (congrArg (·.quality) hentry').trans hquality⟩

/-! ### Banks (R290, R291) -/

/-- The coefficients of the bank that is not in use. -/
def idleBank (l : LoopSlot) : List Int := if l.activeB then l.bankA else l.bankB

/-- CDATA takes effect: the coefficient at CIDX goes into the bank not in use, and CIDX moves on. -/
theorem applyLpe_cdata {n : Nat} {l : LoopSlot} {r : Rec} {s : State} (v a : Nat) (hl : tget s.lpe.slots n = some l)
    (hr : loopRec s.drw.image n = some r) (hidx : l.cidx < 43) :
    ∃ l', tget (applyLpe n 0x18 v a s).lpe.slots n = some l' ∧ l'.cidx = l.cidx + 1 ∧ activeBank l' = activeBank l ∧
      (if l.activeB then l'.bankA else l'.bankB) = lmod (idleBank l) l.cidx (fun _ => signed 32 v) := by
  have hnot : ¬ l.cidx ≥ 43 := by omega
  refine ⟨_, by simp only [applyLpe, hl, hr, hnot]; exact tget_modLoop_same _ hl, rfl, ?_⟩
  cases hact : l.activeB <;> simp [activeBank, idleBank, hact]

theorem applyLpe_swap_accepted {n : Nat} {l : LoopSlot} {r : Rec} {s : State} (a : Nat) (hl : tget s.lpe.slots n = some l)
    (hr : loopRec s.drw.image n = some r) (hpass : bankFails s.drw.image r (idleBank l) = 0) :
    tget (applyLpe n 0x1C 1 a s).lpe.slots n =
      some { l with activeB := !l.activeB, swapped := true, swaps := sat 16 l.swaps 1 } := by
  rw [idleBank] at hpass
  simp [applyLpe, hl, hr, hpass, tget_modLoop_same _ hl]

theorem applyLpe_swap_refused {n : Nat} {l : LoopSlot} {r : Rec} {s : State} (a : Nat) (hl : tget s.lpe.slots n = some l)
    (hr : loopRec s.drw.image n = some r) (hfail : bankFails s.drw.image r (idleBank l) ≠ 0) :
    tget (applyLpe n 0x1C 1 a s).lpe.slots n = some { l with swapRefused := true } := by
  rw [idleBank] at hfail
  simp [applyLpe, hl, hr, hfail, tget_modLoop_same _ hl]

/-! ### The obligation -/

/-- Settles O21: each command by its own rule; the commit by `commitLoops_writes`, as the records before and after that of a
slot leave its result and its point alone. -/
theorem analogMonitors : Obligations.AnalogMonitors := by
  unfold Obligations.AnalogMonitors
  exact ⟨fun n ok s => exec_referenceCheck_input ok, fun n ok s => referenceCheck_output ok,
    fun n s hmode hflag heval hdrives => if_pos (by simp [hmode, hflag, heval, hdrives]),
    fun n s heval => if_pos heval,
    fun n s hmode hflag hvalue heval hdrives => if_pos (by simp [hmode, hflag, hvalue, heval, hdrives]),
    fun n s heval => if_pos heval, fun n s => exec_outputFaults_quiet,
    aioConvert_stores, fun n tn m c s => aioConvert_faulty tn, fun n v c s => aioApply_drives v,
    evalDyn_limits, runSections_one, runSections_transfer, evalSlot_holds, commitLoops_writes,
    fun n v a l r s hl hr => ⟨applyLpe_cdata v a hl hr, applyLpe_swap_accepted a hl hr, applyLpe_swap_refused a hl hr⟩⟩

end Sys2Proof.Machine
end

section
/-! PROOFS. The PLCA cycles of a T1S segment (R312, R366, R367, R384), for O29. -/
namespace Sys2Proof.Machine

theorem macOf_of_getElem? {s : State} {m : Nat} {x : Mac} (h : s.mac[m]? = some x) : macOf s m = x := by
  simp [macOf, h]

/-- The MAC of a cycle that begins (R366, R367). -/
theorem cycleStart_mac {s : State} {m : Nat} {x : Mac} (ns : Nat) (h : s.mac[m]? = some x) :
    (cycleStart m ns s).mac[m]? = some { x with
      cycle := true, turn := (markerDue s m).isNone, marker := markerDue s m, leftNs := ns,
      cycleEdge := if (markerDue s m).isSome then some s.stk.edges else x.cycleEdge } := by
  simp [cycleStart, h]

/-- The first cycle after an output instant has the marker of that edge to carry (R312, R367). -/
theorem markerDue_release {s : State} {m : Nat} {z : Medium} (hz : tget s.rio.media m = some z)
    (hflight : z.flight = some s.stk.edges) (hfirst : (macOf s m).cycleEdge ≠ some s.stk.edges) :
    markerDue s m = some { src := .marker, frame := withFcs (z.frames.headD (0, [])).2 } := by
  simp [markerDue, hz, hflight, hfirst]

theorem exec_plcaCycleStart {m : Fin 10} {s : State} (ns : Nat) (hruns : macRuns s m.val = true) (hm : m.val < 8)
    (hplca : macPlca (macOf s m.val) = true) : exec (.plcaCycleStart m ns) s = .next (cycleStart m.val ns s) :=
  if_pos (by simp [hruns, hplca, isBackbone, hm])

/-- The MAC between the end of a cycle and the next beacon (R366). -/
def cycleOver (x : Mac) : Mac := { x with cycle := false, turn := false }

/-- A cycle that runs ends, and another begins at once where no station is carried or an empty one still fits (R366,
R367). -/
theorem exec_plcaCycleEnd {m : Fin 10} {s : State} (ns : Nat) (hruns : macRuns s m.val = true)
    (hcycle : (macOf s m.val).cycle = true) :
    exec (.plcaCycleEnd m ns) s =
      if !carries s m.val || 2000 + 3200 * macNodes (macOf s m.val) + 5000 ≤ ns then
        .next (cycleStart m.val ns (modMac m.val cycleOver s))
      else .next (modMac m.val cycleOver s) :=
  (if_neg (by simp [hcycle])).trans (if_neg (by simpa [macRuns] using hruns))

theorem plcaCycleStart_begins (m : Fin 10) (ns : Nat) (x : Mac) (s : State) (hruns : macRuns s m.val = true)
    (hm : m.val < 8) (hx : s.mac[m.val]? = some x) (hplca : macPlca x = true) :
    ∃ t y, exec (.plcaCycleStart m ns) s = .next t ∧ t.mac[m.val]? = some y ∧ y.cycle = true ∧ y.leftNs = ns ∧
      (∀ z, tget s.rio.media m.val = some z → z.flight = some s.stk.edges → x.cycleEdge ≠ some s.stk.edges →
        y.marker = some { src := .marker, frame := withFcs (z.frames.headD (0, [])).2 } ∧ y.turn = false ∧
        y.cycleEdge = some s.stk.edges) ∧
      t = { s with mac := t.mac } := by
  have hmac := macOf_of_getElem? hx
  refine ⟨_, _, exec_plcaCycleStart ns hruns hm (hmac ▸ hplca), cycleStart_mac ns hx, rfl, rfl,
    fun z hz hflight hfirst => ?_, rfl⟩
  have hdue := markerDue_release hz hflight (hmac ▸ hfirst)
  simp [hdue]

theorem plcaCycleEnd_again (m : Fin 10) (ns : Nat) (x : Mac) (s : State) (hruns : macRuns s m.val = true)
    (hx : s.mac[m.val]? = some x) (hcycle : x.cycle = true)
    (hnext : carries s m.val = false ∨ 2000 + 3200 * macNodes x + 5000 ≤ ns) :
    ∃ t y, exec (.plcaCycleEnd m ns) s = .next t ∧ t.mac[m.val]? = some y ∧ y.cycle = true ∧ y.leftNs = ns ∧
      t = { s with mac := t.mac } := by
  obtain rfl := macOf_of_getElem? hx
  have hover : (modMac m.val cycleOver s).mac[m.val]? = some (cycleOver (macOf s m.val)) := by simp [hx]
  exact ⟨_, _, (exec_plcaCycleEnd ns hruns hcycle).trans (if_pos (by simpa using hnext)), cycleStart_mac ns hover,
    rfl, rfl, rfl⟩

/-- Settles O29: the start of a cycle by `cycleStart_mac` and `markerDue_release`, its end by `exec_plcaCycleEnd`. -/
theorem segmentCycles : Obligations.SegmentCycles := by
  unfold Obligations.SegmentCycles
  exact ⟨plcaCycleStart_begins,
    fun m ns s hruns hcycle hcarries hns _ =>
      ⟨_, (exec_plcaCycleEnd ns hruns hcycle).trans (if_neg (by simp [hcarries, hns])), rfl⟩,
    plcaCycleEnd_again, fun m s => rfl⟩

end Sys2Proof.Machine
end

section
/-! PROOFS. Attempts of a CAN channel and its error states (R311, R329, R334, R341, R342, R344, R347, R351), for O24. -/
namespace Sys2Proof.Machine

/-! ### One channel -/

section
variable {n : Nat} {c : Can} {s : State} (hc : s.can[n]? = some c)
include hc

theorem canOf_of_getElem? : canOf s n = c := by
  simp [canOf, hc]

theorem getElem?_modCan (f : Can → Can) : (modCan n f s).can[n]? = some (f c) := by
  simp [hc]

end

theorem getElem?_canEvent {n : Nat} {c : Can} {s : State} (code m detail : Nat) (hc : s.can[n]? = some c) :
    (canEvent code m detail s).can[n]? = some c := by
  simpa only [(canEvent_frame ..)] using hc

theorem canEvent_rio (code n detail : Nat) (s : State) : (canEvent code n detail s).rio = s.rio := by
  simp only [(canEvent_frame ..)]

/-- A command on the channels is told by their changes, those of the remote I/O and the recorder's side. -/
theorem eq_of_can {t s : State} (h : t.OnlyFreshRioCanEvrHie s) :
    t = { s with can := t.can, rio := t.rio, evr := t.evr, hie := t.hie, fresh := t.fresh } :=
  State.eq_of_fields (by simp [State.OnlyFreshEvrHie, h]) rfl rfl rfl

theorem eq_of_can_of_rio {t s : State} (h : t.OnlyFreshRioCanEvrHie s) (hrio : t.rio = s.rio) :
    t = { s with can := t.can, evr := t.evr, hie := t.hie, fresh := t.fresh } :=
  State.eq_of_fields (by simp [State.OnlyFreshEvrHie, h, hrio]) rfl rfl rfl

/-! ### A frame starts (R329, R334, R347) -/

theorem canBegin_channel {n : Nat} {c : Can} {s : State} (b : Nat) (f : CanFrame) (hc : s.can[n]? = some c) :
    ∃ d, (canBegin n b f s).can[n]? = some { c with active := some b, onBus := some f, loopDelay := d } ∧
      (d = c.loopDelay ∨ (f.brs = true ∧ canTdc c = true)) := by
  have hbegun := getElem?_modCan hc (fun c => { c with active := some b, onBus := some f })
  unfold canBegin
  dsimp only
  rw [canOf_of_getElem? hbegun]
  split
  case isTrue hmeasure => exact ⟨_, getElem?_modCan hbegun _, .inr (Bool.and_eq_true_iff.mp hmeasure)⟩
  case isFalse => exact ⟨c.loopDelay, hbegun, .inl rfl⟩

theorem exec_canTxStart_buffer {n : Fin 4} {b : Nat} {s : State} (hruns : canRuns s n.val = true)
    (hoff : (canOf s n.val).busOff = false) (hint : (canOf s n.val).integrating = false)
    (hmon : canMonitor (canOf s n.val) = false) (hidle : (canOf s n.val).active = none)
    (hwaiting : (canOf s n.val).waiting = []) (hnext : nextBuf (canOf s n.val) = some b) :
    exec (.canTxStart n) s = .next (canBegin n.val b (bufFrame (canOf s n.val) ((canOf s n.val).bufs.getD b {}))
      (modBuf n.val b (fun x => { x with st := .active }) s)) := by
  change execCanTxStart n s = _
  simp [execCanTxStart, hruns, hoff, hint, hmon, hidle, hwaiting, hnext]

theorem canTxStart_starts (n : Fin 4) (b : Nat) (s : State) (hruns : canRuns s n.val = true)
    (hoff : (canOf s n.val).busOff = false) (hint : (canOf s n.val).integrating = false)
    (hmon : canMonitor (canOf s n.val) = false) (hidle : (canOf s n.val).active = none)
    (hwaiting : (canOf s n.val).waiting = []) (hnext : nextBuf (canOf s n.val) = some b) :
    ∃ t, exec (.canTxStart n) s = .next t ∧
      (∀ c, s.can[n.val]? = some c → ∃ c', t.can[n.val]? = some c' ∧ c'.active = some b ∧
        c'.bufs = lmod c.bufs b (fun x => { x with st := .active }) ∧ c'.tec = c.tec ∧ c'.rec_ = c.rec_ ∧
        ∃ f, c'.onBus = some f ∧ (f.esi = true ↔ f.fdf = true ∧ canPassive c = true) ∧
          (c'.loopDelay = c.loopDelay ∨ (f.brs = true ∧ canTdc c = true))) ∧
      t = { s with can := t.can, fresh := t.fresh } := by
  refine ⟨_, exec_canTxStart_buffer hruns hoff hint hmon hidle hwaiting hnext, fun c hc => ?_,
    State.eq_of_fields (by simp [State.OnlyFreshEvrHie, canBegin_frame]) rfl (by simp [canBegin_frame])
      (by simp [canBegin_frame])⟩
  obtain ⟨d, hchannel, hdelay⟩ := canBegin_channel b (bufFrame (canOf s n.val) ((canOf s n.val).bufs.getD b {}))
    (getElem?_modCan hc (fun c => { c with bufs := lmod c.bufs b (fun x => { x with st := .active }) }))
  refine ⟨_, hchannel, rfl, rfl, rfl, rfl, _, rfl, ?_, hdelay⟩
  simp [bufFrame, canOf_of_getElem? hc]

/-! ### An attempt that fails (R311, R334) -/

/-- A channel after its attempt with `b` on the bus failed: the buffer goes back or is final, a frame of SEQ3 of an edge
before is dropped. -/
def attemptFailed (b : Nat) (c : Can) : Can :=
  { c with
    active := none, onBus := none, old := false, dropped := false,
    waiting := if b = 3 && c.old then c.waiting.drop 1 else c.waiting,
    bufs := if b < 3 then lmod c.bufs b failBuf else c.bufs }

section
variable {n : Nat} {c : Can} {s : State} (hc : s.can[n]? = some c)
include hc

theorem failActive_of_idle (h : c.active = none) : failActive n s = s := by
  simp [failActive, canOf_of_getElem? hc, h]

theorem failActive_channel {b : Nat} (h : c.active = some b) : (failActive n s).can[n]? = some (attemptFailed b c) := by
  simp only [failActive, canOf_of_getElem? hc, h]
  by_cases hb : b < 3
  · simp [hb, hc, attemptFailed]
  · by_cases hold : (c.old && !c.dropped) = true <;> simp [hb, hold, hc, attemptFailed, abandonMarker_frame]

/-- A marker is abandoned with its last frame, once (R311). -/
theorem failActive_rio {b : Nat} (h : c.active = some b) :
    (failActive n s).rio = { s.rio with
      abandonTotal := if b < 3 || !c.old || c.dropped then s.rio.abandonTotal else sat 32 s.rio.abandonTotal 1 } := by
  simp only [failActive, canOf_of_getElem? hc, h]
  by_cases hb : b < 3
  · simp [hb]
  · cases hold : c.old <;> cases hdropped : c.dropped <;> simp [hb, abandonMarker_rio]

end

theorem canArbitrationLost_fails (n : Fin 4) (b : Nat) (c : Can) (s : State) (hc : s.can[n.val]? = some c)
    (hactive : c.active = some b) :
    ∃ t c', exec (.canArbitrationLost n) s = .next t ∧ t.can[n.val]? = some c' ∧ c'.active = none ∧ c'.ackRun = 0 ∧
      c'.onBus = none ∧
      c'.tec = c.tec ∧ c'.bufs = (if b < 3 then lmod c.bufs b failBuf else c.bufs) ∧
      t.rio = { s.rio with abandonTotal := if b < 3 || !c.old || c.dropped then s.rio.abandonTotal else sat 32 s.rio.abandonTotal 1 } ∧
      t = { s with can := t.can, rio := t.rio, evr := t.evr, hie := t.hie, fresh := t.fresh } :=
  ⟨_, _, if_neg (by simp [canOf_of_getElem? hc, hactive]), getElem?_modCan (failActive_channel hc hactive) _,
    rfl, rfl, rfl, rfl, rfl, failActive_rio hc hactive, eq_of_can (by simp [State.OnlyFreshRioCanEvrHie, failActive_frame])⟩

/-! ### A change of the error counts (R341) -/

/-- The first part of a change of the error counts: error passive is entered (R341). -/
def passiveEntered (n : Nat) (old : Can) (s : State) : State :=
  if canPassive (canOf s n) && !canPassive old then canEvent 0xA001 n (errDetail (canOf s n)) (canFlag n 4 s) else s

/-- The channel goes bus-off, its attempt ends (R341). -/
def busOffEntered (n lastErr : Nat) (s : State) : State :=
  canEvent 0xA003 n lastErr (canFlag n 5
    (modCan n (fun c => { c with busOff := true, recovering := canAuto c }) (failActive n s)))

theorem errorState_eq (n : Nat) (old : Can) (s : State) :
    errorState n old s =
      if (canOf s n).tec > 255 && !(canOf s n).busOff then busOffEntered n (canOf s n).lastErr (passiveEntered n old s)
      else if !canPassive (canOf s n) && canPassive old then canEvent 0xA002 n (errDetail (canOf s n)) (passiveEntered n old s)
      else passiveEntered n old s := rfl

section
variable {n : Nat} {c : Can} {s : State} (old : Can) (hc : s.can[n]? = some c)
include hc

theorem passiveEntered_channel :
    ∃ f, (passiveEntered n old s).can[n]? = some { c with flags := f } ∧ (passiveEntered n old s).rio = s.rio := by
  unfold passiveEntered
  split
  · exact ⟨_, getElem?_canEvent _ _ _ (getElem?_modCan hc _), canEvent_rio ..⟩
  · exact ⟨c.flags, hc, rfl⟩

/-- With no attempt on the bus, a change of the error counts sets flags and may take the channel off the bus. -/
theorem errorState_of_idle (hidle : c.active = none) :
    ∃ f off rec, (errorState n old s).can[n]? = some { c with flags := f, busOff := off, recovering := rec } ∧
      (errorState n old s).rio = s.rio := by
  obtain ⟨f, hchannel, hrio⟩ := passiveEntered_channel old hc
  rw [errorState_eq]
  split
  · rw [busOffEntered, failActive_of_idle hchannel hidle]
    exact ⟨bset f 5, true, canAuto c, getElem?_canEvent _ _ _ (getElem?_modCan (getElem?_modCan hchannel _) _),
      (canEvent_rio ..).trans hrio⟩
  · refine ⟨f, c.busOff, c.recovering, ?_⟩
    split
    · exact ⟨getElem?_canEvent _ _ _ hchannel, (canEvent_rio ..).trans hrio⟩
    · exact ⟨hchannel, hrio⟩

theorem failActive_counts :
    ∃ c', (failActive n s).can[n]? = some c' ∧ c'.tec = c.tec ∧ c'.rec_ = c.rec_ := by
  cases hactive : c.active with
  | none => exact ⟨c, by rw [failActive_of_idle hc hactive, hc], rfl, rfl⟩
  | some b => exact ⟨_, failActive_channel hc hactive, rfl, rfl⟩

/-- The events and flags of a change of the error counts, and bus-off, leave the counts as they are. -/
theorem errorState_counts :
    ∃ c', (errorState n old s).can[n]? = some c' ∧ c'.tec = c.tec ∧ c'.rec_ = c.rec_ := by
  obtain ⟨f, hchannel, -⟩ := passiveEntered_channel old hc
  rw [errorState_eq]
  split
  · obtain ⟨c', hfailed, htec, hrec⟩ := failActive_counts hchannel
    exact ⟨_, getElem?_canEvent _ _ _ (getElem?_modCan (getElem?_modCan hfailed _) _), htec, hrec⟩
  · refine ⟨{ c with flags := f }, ?_, rfl, rfl⟩
    split
    · exact getElem?_canEvent _ _ _ hchannel
    · exact hchannel

end

/-! ### A frame is sent (R333, R340, R341) -/

/-- A channel after the frame of buffer `b` was sent and acknowledged. -/
def frameSent (b ts : Nat) (c : Can) : Can :=
  { c with
    active := none, onBus := none, old := false, dropped := false, tec := c.tec - 1, alone := false, ackRun := 0, lec := 0,
    txCount := sat 32 c.txCount 1,
    bufs := lmod c.bufs b (fun x => { x with st := .sent, cancel := false, ts := ts % 2 ^ 64 }) }

theorem txDone_buffer {b : Nat} (n ts : Nat) (s : State) (hb : b < 3) :
    txDone n b ts s = errorState n (canOf s n) (modCan n (frameSent b ts) s) := by
  simp only [txDone, hb, if_true, modBuf, modCan, lmod_lmod]
  rfl

theorem canTxEnd_sent (n : Fin 4) (b ts : Nat) (c : Can) (s : State) (hc : s.can[n.val]? = some c)
    (hactive : c.active = some b) (hb : b < 3) :
    ∃ t c', exec (.canTxEnd n none ts) s = .next t ∧ t.can[n.val]? = some c' ∧ c'.active = none ∧ c'.tec = c.tec - 1 ∧
      c'.alone = false ∧ c'.lec = 0 ∧ c'.txCount = sat 32 c.txCount 1 ∧
      c'.bufs = lmod c.bufs b (fun x => { x with st := .sent, cancel := false, ts := ts % 2 ^ 64 }) ∧
      t = { s with can := t.can, evr := t.evr, hie := t.hie, fresh := t.fresh } := by
  have hexec : exec (.canTxEnd n none ts) s = .next (txDone n.val b ts s) := by
    change execCanTxEnd n none ts s = _
    simp only [execCanTxEnd, canOf_of_getElem? hc, hactive]
  rw [txDone_buffer n.val ts s hb] at hexec
  obtain ⟨f, off, rec, hchannel, hrio⟩ :=
    errorState_of_idle (canOf s n.val) (getElem?_modCan hc (frameSent b ts)) rfl
  exact ⟨_, _, hexec, hchannel, rfl, rfl, rfl, rfl, rfl, rfl,
    eq_of_can_of_rio (by simp [State.OnlyFreshRioCanEvrHie, errorState_frame]) hrio⟩

/-! ### A frame that ends in an error (R341, R342, R351) -/

/-- An error noted leaves the counts and the attempt alone. -/
theorem noteErr_keeps (e : CanError) (c : Can) :
    (noteErr e c).tec = c.tec ∧ (noteErr e c).rec_ = c.rec_ ∧ (noteErr e c).active = c.active ∧ (noteErr e c).bufs = c.bufs := by
  unfold noteErr
  split <;> simp

/-- The run of acknowledge errors and what it tells: ALONE and its flag (R342). -/
theorem ackError_channel {n : Nat} {c : Can} {s : State} (b : Nat) (hc : s.can[n]? = some c) :
    ∃ r a f, (ackError n b s).can[n]? = some { c with ackRun := r, alone := a, flags := f } ∧ (ackError n b s).rio = s.rio := by
  have hrun := getElem?_modCan hc (fun c => { c with ackRun := c.ackRun + 1 })
  unfold ackError
  dsimp only
  split
  · exact ⟨c.ackRun + 1, true, bset c.flags 6, getElem?_canEvent _ _ _ (getElem?_modCan (getElem?_modCan hrun _) _),
      canEvent_rio ..⟩
  · exact ⟨c.ackRun + 1, c.alone, c.flags, hrun, rfl⟩

/-- A channel whose own frame ended in an error, its attempt having failed: the error is noted and counted, and any but an
acknowledge error ends their run. -/
def frameErred (e : CanError) (c : Can) : Can := txErrCount e (noteErr e { c with ackRun := if e.code = 3 then c.ackRun else 0 })

/-- TEC after an error of an own frame, with the exceptions that ISO 11898-1 makes (R341). -/
theorem frameErred_keeps (e : CanError) (c : Can) :
    (frameErred e c).active = c.active ∧ (frameErred e c).bufs = c.bufs ∧
    (frameErred e c).tec =
      if e.exempt && ((e.code = 3 && canPassive c) || e.code = 1) then c.tec + 8 * e.more else c.tec + 8 + 8 * e.more := by
  refine ⟨by simp [frameErred, txErrCount, noteErr_keeps], by simp [frameErred, txErrCount, noteErr_keeps], ?_⟩
  have hpassive (r : Nat) : canPassive (noteErr e { c with ackRun := r }) = canPassive c := by
    simp only [canPassive, noteErr_keeps]
  simp only [frameErred, txErrCount, hpassive, noteErr_keeps]
  split <;> rfl

/-- The state of an own frame's error before the error states follow the counts. -/
def attemptErred (n b : Nat) (e : CanError) (s : State) : State :=
  if e.code = 3 then ackError n b (modCan n (frameErred e) (failActive n s)) else modCan n (frameErred e) (failActive n s)

theorem attemptErred_frame (n b : Nat) (e : CanError) (s : State) : (attemptErred n b e s).OnlyFreshRioCanEvrHie s := by
  unfold attemptErred
  split <;> simp [State.OnlyFreshRioCanEvrHie, ackError_frame, failActive_frame]

theorem attemptErred_channel {n b : Nat} {c : Can} {s : State} (e : CanError) (hc : s.can[n]? = some c)
    (hactive : c.active = some b) (hb : b < 3) :
    ∃ x, (attemptErred n b e s).can[n]? = some x ∧ x.active = none ∧ x.bufs = lmod c.bufs b failBuf ∧
      x.tec = (if e.exempt && ((e.code = 3 && canPassive c) || e.code = 1) then c.tec + 8 * e.more
        else c.tec + 8 + 8 * e.more) ∧
      (attemptErred n b e s).rio = s.rio := by
  obtain ⟨hnone, hbufs, htec⟩ := frameErred_keeps e (attemptFailed b c)
  replace hbufs := hbufs.trans (if_pos hb)
  have hrio : (failActive n s).rio = s.rio := by simp [failActive_rio hc hactive, hb]
  have hchannel := getElem?_modCan (failActive_channel hc hactive) (frameErred e)
  unfold attemptErred
  split
  · obtain ⟨r, a, f, hack, hkept⟩ := ackError_channel b hchannel
    exact ⟨_, hack, hnone, hbufs, htec, hkept.trans hrio⟩
  · exact ⟨_, hchannel, hnone, hbufs, htec, hrio⟩

theorem exec_canTxEnd_error {n : Fin 4} {b : Nat} {c : Can} {s : State} (ts : Nat) (e : CanError)
    (hc : s.can[n.val]? = some c) (hactive : c.active = some b) :
    exec (.canTxEnd n (some e) ts) s = .next (errorState n.val c (attemptErred n.val b e s)) := by
  change execCanTxEnd n (some e) ts s = _
  simp only [execCanTxEnd, canOf_of_getElem? hc, hactive]
  rfl

theorem canTxEnd_errs (n : Fin 4) (b ts : Nat) (e : CanError) (c : Can) (s : State) (hc : s.can[n.val]? = some c)
    (hactive : c.active = some b) (hb : b < 3) :
    ∃ t c', exec (.canTxEnd n (some e) ts) s = .next t ∧ t.can[n.val]? = some c' ∧ c'.active = none ∧
      c'.tec = (if e.exempt && ((e.code = 3 && canPassive c) || e.code = 1) then c.tec + 8 * e.more
        else c.tec + 8 + 8 * e.more) ∧
      c'.bufs = lmod c.bufs b failBuf ∧
      t = { s with can := t.can, evr := t.evr, hie := t.hie, fresh := t.fresh } := by
  obtain ⟨x, herred, hnone, hbufs, htec, hkept⟩ := attemptErred_channel e hc hactive hb
  obtain ⟨f, off, rec, hchannel, hrio⟩ := errorState_of_idle c herred hnone
  exact ⟨_, _, exec_canTxEnd_error ts e hc hactive, hchannel, hnone, htec, hbufs,
    eq_of_can_of_rio (by simp [State.OnlyFreshRioCanEvrHie, errorState_frame, attemptErred_frame]) (hrio.trans hkept)⟩

/-! ### An error outside an own frame (R341) -/

theorem rxErrCount_counts (e : CanError) (h : Bool) (c : Can) :
    (rxErrCount e h c).rec_ = (if e.own then c.rec_ else min 255 (c.rec_ + (if h then 8 else 1) + 8 * e.more)) ∧
    (rxErrCount e h c).tec = (if e.own then c.tec + 8 + 8 * e.more else c.tec) := by
  unfold rxErrCount
  split <;> exact ⟨rfl, rfl⟩

theorem canRxError_counts (n : Fin 4) (e : CanError) (h : Bool) (c : Can) (s : State) (hruns : canRuns s n.val = true)
    (hc : s.can[n.val]? = some c) (hoff : c.busOff = false) (hint : c.integrating = false) :
    ∃ t c', exec (.canRxError n e h) s = .next t ∧ t.can[n.val]? = some c' ∧
      c'.rec_ = (if e.own then c.rec_ else min 255 (c.rec_ + (if h then 8 else 1) + 8 * e.more)) ∧
      c'.tec = (if e.own then c.tec + 8 + 8 * e.more else c.tec) ∧
      t = { s with can := t.can, rio := t.rio, evr := t.evr, hie := t.hie, fresh := t.fresh } := by
  obtain ⟨hnotedTec, hnotedRec, -, -⟩ := noteErr_keeps e (rxErrCount e h c)
  obtain ⟨hrecCount, htecCount⟩ := rxErrCount_counts e h c
  obtain ⟨c', hchannel, htec, hrec⟩ :=
    errorState_counts (canOf s n.val) (getElem?_modCan hc (fun c => noteErr e (rxErrCount e h c)))
  exact ⟨_, c', if_neg (by simp [canOf_of_getElem? hc, hruns, hoff, hint]), hchannel,
    hrec.trans (hnotedRec.trans hrecCount), htec.trans (hnotedTec.trans htecCount),
    eq_of_can (by simp [State.OnlyFreshRioCanEvrHie, errorState_frame])⟩

/-! ### Recovery, protocol exceptions and the error read (R341, R344, R346, R347, R351) -/

theorem exec_canRecover_bad_key (n : Fin 4) {v : Nat} (s : State) (hkey : fld v 16 16 ≠ 0x4A42) :
    exec (.canRecover n v) s =
      .next (raise { code := 0x0004, block := 0x0A, detail := 0x10090000 + n.val * 0x1000 + 0x20 } s) :=
  congrArg Host.Outcome.next (if_pos hkey)

theorem exec_canRecover_recovers (n : Fin 4) {v : Nat} {s : State} (hkey : fld v 16 16 = 0x4A42) (hbit : v.testBit 0 = true)
    (hoff : (canOf s n.val).busOff = true) (hauto : canAuto (canOf s n.val) = false) :
    exec (.canRecover n v) s = .next (modCan n.val (fun c => { c with recovering := true }) s) :=
  congrArg Host.Outcome.next ((if_neg (not_not.mpr hkey)).trans (if_pos (by simp [hbit, hoff, hauto])))

theorem canBusOffLeft_clears (n : Fin 4) (s : State) (hoff : (canOf s n.val).busOff = true)
    (hrecovering : (canOf s n.val).recovering = true) :
    ∃ t, exec (.canBusOffLeft n) s = .next t ∧ t.can = lmod s.can n.val (fun c => { c with
        busOff := false, recovering := false, tec := 0, rec_ := 0, ackRun := 0 }) ∧
      t = { s with can := t.can, evr := t.evr, hie := t.hie, fresh := t.fresh } :=
  ⟨_, if_pos (by simp [hoff, hrecovering]), by simp only [(canEvent_frame ..), modCan_can],
    eq_of_can_of_rio (by simp [State.OnlyFreshRioCanEvrHie, canEvent_frame]) (canEvent_rio ..)⟩

theorem canProtocolException_integrates (n : Fin 4) (s : State) (hruns : canRuns s n.val = true)
    (hfd : canFd (canOf s n.val) = false) (hoff : (canOf s n.val).busOff = false)
    (hint : (canOf s n.val).integrating = false) :
    ∃ t, exec (.canProtocolException n) s = .next t ∧ t.can = lmod s.can n.val (fun c => { c with
        pxe := sat 32 c.pxe 1, integrating := true, flags := bset c.flags 0 }) ∧
      t = { s with can := t.can, evr := t.evr, hie := t.hie, fresh := t.fresh } :=
  ⟨_, if_neg (by simp [hruns, hfd, hoff, hint]), by simp only [(canEvent_frame ..), canFlag, modCan_can, lmod_lmod],
    eq_of_can_of_rio (by simp [State.OnlyFreshRioCanEvrHie, canEvent_frame, canFlag]) (canEvent_rio ..)⟩

/-- Settles O24: a start by `canBegin_channel`, the end of an attempt by `failActive_channel` and `errorState_of_idle`, an
error outside an own frame by `errorState_counts`. That LEC is 0 after a good frame is the model's choice (log entry 20,
PRESUMED). -/
theorem canAttemptsAndErrorStates : Obligations.CanAttemptsAndErrorStates := by
  unfold Obligations.CanAttemptsAndErrorStates
  exact ⟨canTxStart_starts, canArbitrationLost_fails, canTxEnd_sent, canTxEnd_errs, canRxError_counts,
    fun n v s => exec_canRecover_recovers n, fun n v s => exec_canRecover_bad_key n s, canBusOffLeft_clears,
    fun n s hruns => if_pos hruns, canProtocolException_integrates,
    fun n s hundeclared => if_pos (by simpa using hundeclared), fun n s hdeclared => if_neg (by simpa using hdeclared)⟩

end Sys2Proof.Machine
end

section
/-! PROOFS. Every command completes and leaves the commands that wait (O57), and a blown fuse stays blown (R475, O59). -/
namespace Sys2Proof.Machine

/-! ### The shared operations leave the queue where their handler does -/

theorem service_keepsQueue (c item target addr : Nat) {f : State → State} (s : State)
    (hf : ∀ s, (f s).pending = s.pending) : (service c item target addr f s).pending = s.pending := by
  unfold service
  (repeat' split) <;> simp [hf]

theorem receive_keepsQueue (h : MarzinHead) (session : Bool) (cls : Nat) {handle : State → Nat × State} (s : State)
    (hf : ∀ s, (handle s).2.pending = s.pending) : (receive h session cls handle s).pending = s.pending := by
  unfold receive
  dsimp only
  (repeat' split) <;> simp [hf]

theorem fromAbove_keepsQueue (m : Marzin) {own : State → State} (s : State) (hf : ∀ s, (own s).pending = s.pending) :
    (fromAbove m own s).pending = s.pending := by
  unfold fromAbove
  (repeat' split) <;> simp [hf, (foldl_pending ..)]

theorem bothWays_keepsQueue (h : MarzinHead) (body : MarzinBody) {own : State → State} (s : State)
    (hf : ∀ s, (own s).pending = s.pending) : (bothWays h body own s).pending = s.pending := by
  unfold bothWays
  split
  · simp
  · refine receive_keepsQueue _ _ _ _ (fun s => ?_)
    split
    · exact fromAbove_keepsQueue _ _ hf
    · simp

theorem sameCycle_keepsQueue {f : State → State} (s : State) (hf : ∀ s, (f s).pending = s.pending) :
    (sameCycle f s).pending = s.pending :=
  sameCycle_keep (fun s => s.pending) (fun o s => (raise_keeps o s).1) (fun _ _ => rfl) hf s

/-! ### A command completes and leaves the queue -/

/-- The command completes and leaves the commands that wait in `s`. -/
def Completes (s : State) : Host.Outcome State Fault Refusal → Prop
  | .next t => t.pending = s.pending
  | _ => False

@[simp] theorem completes_next {s t : State} : Completes s (.next t) ↔ t.pending = s.pending := Iff.rfl

theorem Completes.exists_next {s : State} {o : Host.Outcome State Fault Refusal} (h : Completes s o) :
    ∃ t, o = .next t ∧ t.pending = s.pending := by
  cases o with
  | next t => exact ⟨t, rfl, h⟩
  | fault | refused => exact h.elim

theorem Kept.completes {s : State} {o : Host.Outcome State Fault Refusal} (h : Kept s o) : Completes s o := by
  cases o with
  | next t => exact h.1
  | fault | refused => exact h

/-- A plain command by `exec_kept`; every other by the `_keeps` law of what it calls. -/
theorem exec_completes (c : Instr) (s : State) : Completes s (exec c s) := by
  by_cases hplain : plainCommand c = true
  · exact (exec_kept s hplain).completes
  cases c with
  | bootSelfTestDone =>
    simp only [exec, execBootSelfTestDone]
    (repeat' split) <;> simp
  | carcassLoadDone =>
    simp only [exec, execCarcassLoadDone]
    (repeat' split)
    · exact rfl
    · exact rfl
    · exact (sameCycle_keepsQueue _ (by simp)).trans (by simp)
    · simp
  | vsysResetThreshold | coxLockstepMismatch | coxWatchdogExpiry | pllLoss | serviceReset | fuseProgrammed =>
    simp only [exec, execVsysResetThreshold, execCoxLockstepMismatch, execCoxWatchdogExpiry, execPllLoss,
      execServiceReset, execFuseProgrammed]
    (repeat' split) <;> simp
  | tickEdge =>
    simp only [exec, execTickEdge]
    (repeat' split) <;> simp
  | takeoverCopiesLoaded => exact foldl_pending _ (by simp) _ _
  | replayStrokeDone =>
    simp only [exec, execReplayStrokeDone]
    split
    · exact sameCycle_keepsQueue _ (by simp)
    · exact rfl
  | memoryUncorrectable => simp [exec, execMemoryUncorrectable]
  | ethSend =>
    refine service_keepsQueue _ _ _ _ _ (fun s => ?_)
    split
    · exact rfl
    · dsimp only
      (repeat' split) <;> simp
  | ethReceive =>
    refine service_keepsQueue _ _ _ _ _ (fun s => ?_)
    dsimp only
    (repeat' split) <;> simp
  | macTailWrite | macTxStart | macTxComplete | macCollision | macLateCollision | macFrameReceive | macLinkDown =>
    simp only [exec, execMacTailWrite, execMacTxStart, execMacTxComplete, execMacCollision, execMacLateCollision,
      execMacFrameReceive, execMacLinkDown]
    (repeat' split) <;> simp
  | cvuJobDone => simp [exec, execCvuJobDone]
  | crcBlock =>
    refine service_keepsQueue _ _ _ _ _ (fun s => ?_)
    dsimp only
    (repeat' split) <;> simp
  | keyRequestDone => simp [exec, execKeyRequestDone]
  | stageOpen | xfer | verify | start | abandon | rollback | lock | watchComplete =>
    simp only [exec, execStageOpen, execXfer, execVerify, execStart, execAbandon, execRollback, execLock,
      execWatchComplete]
    (repeat' split) <;> simp
  | marzinUpdateOrch => exact bothWays_keepsQueue _ _ _ (by simp)
  | arbiterServe =>
    simp only [exec, execArbiterServe]
    (repeat' split) <;> simp [fromAbove_keepsQueue]
  | tagWrite =>
    refine service_keepsQueue _ _ _ _ _ (fun s => ?_)
    (repeat' split) <;> simp
  | presentToken | clearToken | enable | halt | tickStep | tickStepFrozen | release | probeIdleTimeout | trstNLow =>
    simp only [exec, execPresentToken, execClearToken, execEnable, execHalt, execTickStep, execTickStepFrozen,
      execRelease, execProbeIdleTimeout, execTrstNLow]
    (repeat' split) <;> simp
  | svcacc =>
    simp only [exec, execSvcacc]
    (repeat' split) <;> simp
  | stagedWrite | registerWrite =>
    simp only [exec, execStagedWrite, execRegisterWrite]
    (repeat' split) <;> simp
  | _ => exact absurd rfl hplain

/-- Settles O57, by `exec_completes`. -/
theorem queueUntouched : Obligations.QueueUntouched := by
  unfold Obligations.QueueUntouched
  exact fun c s => (exec_completes c s).exists_next

end Sys2Proof.Machine
end

section
/-! PROOFS. A fuse bit that is blown stays blown over every step (R475), for O59. -/
namespace Sys2Proof.Machine

variable {k : Nat}

/-! ### The shared operations keep a blown fuse where their handler does -/

theorem service_blown (c item target addr : Nat) {f : State → State} {s : State}
    (hf : ∀ s, Blown k s.key.fuses → Blown k (f s).key.fuses) (hs : Blown k s.key.fuses) :
    Blown k (service c item target addr f s).key.fuses := by
  unfold service
  (repeat' split) <;> simp [hs, hf s hs]

theorem receive_blown (h : MarzinHead) (session : Bool) (cls : Nat) {handle : State → Nat × State} {s : State}
    (hf : ∀ s, Blown k s.key.fuses → Blown k (handle s).2.key.fuses) (hs : Blown k s.key.fuses) :
    Blown k (receive h session cls handle s).key.fuses := by
  have hhandled : Blown k (handle (noteAccepted h s)).2.key.fuses := hf _ (by simpa using hs)
  unfold receive
  dsimp only
  (repeat' split) <;> simp [hs, hhandled]

theorem fromAbove_blown (m : Marzin) {own : State → State} {s : State}
    (hf : ∀ s, Blown k s.key.fuses → Blown k (own s).key.fuses) (hs : Blown k s.key.fuses) :
    Blown k (fromAbove m own s).key.fuses := by
  unfold fromAbove
  (repeat' split) <;> simp [hs, hf s hs, (foldl_fuses ..)]

theorem bothWays_blown (h : MarzinHead) (body : MarzinBody) {own : State → State} {s : State}
    (hf : ∀ s, Blown k s.key.fuses → Blown k (own s).key.fuses) (hs : Blown k s.key.fuses) :
    Blown k (bothWays h body own s).key.fuses := by
  unfold bothWays
  split
  · simpa using hs
  · refine receive_blown _ _ _ (fun s hs => ?_) hs
    split
    · exact fromAbove_blown _ hf hs
    · simpa using hs

/-! ### A command leaves a blown fuse blown -/

/-- The command leaves fuse bit `k` blown, where it answers a next state. -/
def LeavesBlown (k : Nat) : Host.Outcome State Fault Refusal → Prop
  | .next t => Blown k t.key.fuses
  | _ => True

@[simp] theorem leavesBlown_next {t : State} : LeavesBlown k (.next t) ↔ Blown k t.key.fuses := Iff.rfl

theorem Kept.leavesBlown {s : State} {o : Host.Outcome State Fault Refusal} (h : Kept s o) (hs : Blown k s.key.fuses) :
    LeavesBlown k o := by
  cases o with
  | next t => rw [leavesBlown_next, h.2.2.1]; exact hs
  | fault | refused => trivial

/-- Each command by the law of the reset or the write it may cause; one that causes none by its `_keeps` law. The command
that blows a fuse sets its bit and leaves the others. -/
theorem exec_leavesBlown (c : Instr) {s : State} (hs : Blown k s.key.fuses) : LeavesBlown k (exec c s) := by
  by_cases hplain : plainCommand c = true
  · exact (exec_kept s hplain).leavesBlown hs
  cases c with
  | bootSelfTestDone =>
    simp only [exec, execBootSelfTestDone]
    (repeat' split) <;> simp [hs]
  | carcassLoadDone =>
    simp only [exec, execCarcassLoadDone]
    (repeat' split)
    · exact hs
    · exact hs
    · exact sameCycle_blown (fun s hs => by simpa using hs) (by simpa using hs)
    · simpa using hs
  | vsysResetThreshold | coxLockstepMismatch | coxWatchdogExpiry | pllLoss | serviceReset =>
    simp only [exec, execVsysResetThreshold, execCoxLockstepMismatch, execCoxWatchdogExpiry, execPllLoss,
      execServiceReset]
    (repeat' split) <;> simp [hs, losePower_blown, assertReset_blown, resetRequest_blown]
  | fuseProgrammed =>
    simp only [exec, execFuseProgrammed]
    (repeat' split) <;> simp [hs, bset_blown]
  | tickEdge =>
    simp only [exec, execTickEdge]
    (repeat' split) <;> simp [hs, (edgeRun_blown ..), (edgeIdle_blown ..)]
  | takeoverCopiesLoaded =>
    exact (congrArg (Blown k) (foldl_fuses _ (by simp) _ _)).mpr hs
  | replayStrokeDone =>
    simp only [exec, execReplayStrokeDone]
    split
    · exact sameCycle_blown (fun s hs => by simpa using hs) hs
    · exact hs
  | memoryUncorrectable => exact hitEffect_blown _ _ (by simpa using hs)
  | ethSend =>
    refine service_blown _ _ _ _ (fun s hs => ?_) hs
    split
    · exact hs
    · dsimp only
      (repeat' split) <;> simp [hs]
  | ethReceive =>
    refine service_blown _ _ _ _ (fun s hs => ?_) hs
    dsimp only
    (repeat' split) <;> simp [hs]
  | macTailWrite | macTxStart | macTxComplete | macCollision | macLateCollision | macFrameReceive | macLinkDown =>
    simp only [exec, execMacTailWrite, execMacTxStart, execMacTxComplete, execMacCollision, execMacLateCollision,
      execMacFrameReceive, execMacLinkDown]
    (repeat' split) <;> simp [hs]
  | cvuJobDone => simp [exec, execCvuJobDone, hs]
  | crcBlock =>
    refine service_blown _ _ _ _ (fun s hs => ?_) hs
    dsimp only
    (repeat' split) <;> simp [hs]
  | keyRequestDone => simp [exec, execKeyRequestDone, hs]
  | stageOpen | xfer | verify | start | abandon | rollback | lock | watchComplete =>
    simp only [exec, execStageOpen, execXfer, execVerify, execStart, execAbandon, execRollback, execLock,
      execWatchComplete]
    (repeat' split) <;> simp [hs, updService_blown, updCommand_blown]
  | marzinUpdateOrch => exact bothWays_blown _ _ (fun s hs => orchestrate_blown _ s hs) hs
  | arbiterServe =>
    simp only [exec, execArbiterServe]
    (repeat' split) <;> simp [hs, fromAbove_blown _ (fun s hs => ownEffect_blown _ s hs)]
  | tagWrite =>
    refine service_blown _ _ _ _ (fun s hs => ?_) hs
    (repeat' split) <;> simp [hs]
  | presentToken | clearToken | enable | halt | tickStep | tickStepFrozen | release | probeIdleTimeout | trstNLow =>
    simp only [exec, execPresentToken, execClearToken, execEnable, execHalt, execTickStep, execTickStepFrozen,
      execRelease, execProbeIdleTimeout, execTrstNLow]
    (repeat' split) <;> simp [hs, dbgRequest_blown, releaseDebug_blown]
  | svcacc =>
    simp only [exec, execSvcacc]
    (repeat' split) <;> simp [hs, svcEnd, writeAt_blown, dbgRequest_blown]
  | stagedWrite | registerWrite =>
    simp only [exec, execStagedWrite, execRegisterWrite]
    (repeat' split) <;> simp [hs, registerWrite_blown]
  | _ => exact absurd rfl hplain

end Sys2Proof.Machine
end

section
/-! PROOFS. A step runs the command at the front (O55); a blown fuse stays blown over it (O59). -/
namespace Sys2Proof.Machine

/-- Settles O55: both clauses are the two cases of `step`. That a step with nothing waiting changes nothing is the model's
choice (log entry 4). -/
theorem stepRunsFront : Obligations.StepRunsFront := by
  unfold Obligations.StepRunsFront
  exact ⟨fun _ _ _ => rfl, fun _ => rfl⟩

/-- Settles O59: every command leaves a blown fuse blown, and a step is a command or none. -/
theorem fusesStayBlown : Obligations.FusesStayBlown := by
  unfold Obligations.FusesStayBlown
  intro s t k h hs
  unfold step at h
  split at h
  · cases h
    exact hs
  · next c r _ =>
    have hblown : LeavesBlown k (exec c { s with pending := r }) := exec_leavesBlown c hs
    rwa [h] at hblown

end Sys2Proof.Machine
end

section
/-! PROOFS. Transmit requests and cancels of a CAN channel (R333 to R335), for O23; its receive queues (R336 to R339, R344),
for O25. -/
namespace Sys2Proof.Machine

/-! ### A service that its task is granted -/

/-- The service of a driven stroke whose drawer is granted the item has its effect (R36). -/
theorem service_granted {c item j : Nat} {k : Stroke} {y : Copy} {s : State} (target addr : Nat) (f : State → State)
    (hdriven : drivenBy s c = some (j, k, y)) (hgrant : grant s.drw.image (taskDrawer s j) item ≠ 0) :
    service c item target addr f s = f s := by
  simp [service, hdriven, hgrant]

/-! ### Requests and cancels (R335) -/

theorem bitsOf_one (b : Fin 3) : bitsOf (2 ^ b.val) 3 = [b.val] := by
  revert b
  decide

theorem requestBuf_free {n b : Nat} {s : State} (hfree : txBusy ((canOf s n).bufs.getD b {}) = false)
    (htaken : txRefused (canOf s n) ((canOf s n).bufs.getD b {}) = false) :
    requestBuf n s b = modBuf n b (fun x => { x with st := .pending, cancel := false }) s := by
  simp only [requestBuf, hfree, htaken, Bool.false_eq_true, if_false]

theorem cancelBuf_eq (n b : Nat) (s : State) :
    cancelBuf n s b = modBuf n b (fun x =>
      if x.st = .pending then { x with st := .cancelled } else if x.st = .active then { x with cancel := true } else x) s := by
  unfold cancelBuf
  congr 1
  funext x
  cases x.st <;> rfl

theorem exec_canTxRequest_free (n : Fin 4) (b : Fin 3) (s : State) (hruns : canRuns s n.val = true)
    (hfree : txBusy ((canOf s n.val).bufs.getD b.val {}) = false)
    (htaken : txRefused (canOf s n.val) ((canOf s n.val).bufs.getD b.val {}) = false) :
    exec (.canTxRequest n (2 ^ b.val)) s =
      .next (modBuf n.val b.val (fun x => { x with st := .pending, cancel := false }) s) := by
  change Host.Outcome.next (requestBufs n.val (2 ^ b.val) s) = _
  rw [requestBufs, if_pos hruns, bitsOf_one, List.foldl_cons, List.foldl_nil, requestBuf_free hfree htaken]

theorem exec_canTxCancel_eq (n : Fin 4) (b : Fin 3) (s : State) (hruns : canRuns s n.val = true) :
    exec (.canTxCancel n (2 ^ b.val)) s = .next (modBuf n.val b.val (fun x =>
      if x.st = .pending then { x with st := .cancelled } else if x.st = .active then { x with cancel := true } else x) s) := by
  change Host.Outcome.next (cancelBufs n.val (2 ^ b.val) s) = _
  rw [cancelBufs, if_pos hruns, bitsOf_one, List.foldl_cons, List.foldl_nil, cancelBuf_eq]

/-- A buffer as CAN_SEND writes it (R333). -/
def sentBuf (id ctrl : Nat) (l : List Byte) (x : CanBuf) : CanBuf :=
  { x with id := id % 2 ^ 30, ctrl := ctrl % 2 ^ 32 &&& 0xF00F, data := padData l }

/-- CAN_SEND writes a free buffer and requests it (R333, R335). -/
theorem canSend_channel {n b : Nat} {c : Can} {x : CanBuf} {s : State} (id ctrl : Nat) (l : List Byte)
    (hc : s.can[n]? = some c) (hb : c.bufs[b]? = some x) (hfree : txBusy x = false)
    (htaken : txRefused c { x with ctrl := ctrl % 2 ^ 32 &&& 0xF00F } = false) :
    requestBuf n (writeBuf n b (sentBuf id ctrl l) s) b =
      modCan n (fun c => { c with
        bufs := lmod c.bufs b (fun x => { sentBuf id ctrl l x with st := .pending, cancel := false }) }) s := by
  have hwrite : writeBuf n b (sentBuf id ctrl l) s = modBuf n b (sentBuf id ctrl l) s :=
    if_neg (by simp [canOf_of_getElem? hc, hb, hfree])
  have hwritten := getElem?_modCan hc (fun c => { c with bufs := lmod c.bufs b (sentBuf id ctrl l) })
  have hbuf : (canOf (modBuf n b (sentBuf id ctrl l) s) n).bufs.getD b {} = sentBuf id ctrl l x := by
    simp [modBuf, canOf_of_getElem? hwritten, hb]
  rw [hwrite, requestBuf_free (by rw [hbuf]; exact hfree)
    (by rw [hbuf, modBuf, canOf_of_getElem? hwritten]; exact htaken)]
  simp only [modBuf, modCan, lmod_lmod]

theorem canSend_requests (core : Fin 16) (n : Fin 4) (b : Fin 3) (id ctrl j : Nat) (l : List Byte) (k : Stroke) (y : Copy)
    (c : Can) (x : CanBuf) (s : State) (hdriven : drivenBy s core.val = some (j, k, y))
    (hgrant : grant s.drw.image (taskDrawer s j) (8 + n.val) ≠ 0) (hruns : canRuns s n.val = true)
    (hc : s.can[n.val]? = some c) (hb : c.bufs[b.val]? = some x) (hfree : txBusy x = false)
    (htaken : txRefused c { x with ctrl := ctrl % 2 ^ 32 &&& 0xF00F } = false) :
    ∃ t c', exec (.canSend core n b id ctrl l) s = .next t ∧ t.can[n.val]? = some c' ∧
      c'.bufs[b.val]? = some { x with
        id := id % 2 ^ 30, ctrl := ctrl % 2 ^ 32 &&& 0xF00F, data := padData l, st := .pending, cancel := false } ∧
      t = { s with can := t.can } := by
  have hexec := service_granted (target := 0x0A) (addr := canAddr n.val + 0x200 + b.val * 0x80) (fun s =>
    if canRuns s n.val then requestBuf n.val (writeBuf n.val b.val (sentBuf id ctrl l) s) b.val else s) hdriven hgrant
  rw [if_pos hruns, canSend_channel id ctrl l hc hb hfree htaken] at hexec
  exact ⟨_, _, congrArg Host.Outcome.next hexec, getElem?_modCan hc _, by simp [hb, sentBuf], rfl⟩

/-- Settles O23: a request and a cancel act on the one buffer whose bit is set, `bitsOf_one`; CAN_SEND by
`canSend_channel`. -/
theorem canRequests : Obligations.CanRequests := by
  unfold Obligations.CanRequests
  exact ⟨exec_canTxRequest_free, exec_canTxCancel_eq, canSend_requests⟩

/-! ### A frame reaches its queue (R336, R339) -/

section
variable {n : Nat} {c : Can} {s : State} (hc : s.can[n]? = some c)
include hc

theorem failActive_queues :
    ∃ c', (failActive n s).can[n]? = some c' ∧ c'.queues = c.queues ∧ c'.rxCount = c.rxCount := by
  cases hactive : c.active with
  | none => exact ⟨c, by rw [failActive_of_idle hc hactive, hc], rfl, rfl⟩
  | some b => exact ⟨_, failActive_channel hc hactive, rfl, rfl⟩

/-- A change of the error counts leaves the queues. -/
theorem errorState_queues (old : Can) :
    ∃ c', (errorState n old s).can[n]? = some c' ∧ c'.queues = c.queues ∧ c'.rxCount = c.rxCount := by
  obtain ⟨f, hchannel, -⟩ := passiveEntered_channel old hc
  rw [errorState_eq]
  split
  · obtain ⟨c', hfailed, hqueues, hcount⟩ := failActive_queues hchannel
    exact ⟨_, getElem?_canEvent _ _ _ (getElem?_modCan (getElem?_modCan hfailed _) _), hqueues, hcount⟩
  · refine ⟨{ c with flags := f }, ?_, rfl, rfl⟩
    split
    · exact getElem?_canEvent _ _ _ hchannel
    · exact hchannel

/-- The record of a duplicate identifier leaves the queues (R343). -/
theorem duplicateId_queues (f : CanFrame) :
    ∃ c', (duplicateId n f s).can[n]? = some c' ∧ c'.queues = c.queues ∧ c'.rxCount = c.rxCount := by
  unfold duplicateId
  dsimp only
  split
  · have hflagged := getElem?_modCan (getElem?_modCan hc (fun c => { c with dupId := frameKey f }))
      (fun c => { c with flags := bset c.flags 7 })
    split
    · exact ⟨_, getElem?_canEvent _ _ _ (getElem?_modCan hflagged _), rfl, rfl⟩
    · exact ⟨_, hflagged, rfl, rfl⟩
  · exact ⟨c, hc, rfl, rfl⟩

theorem queueFrame_room {q : Nat} {x : CanQueue} (e : CanEntry) (hq : c.queues[q]? = some x) (hroom : x.entries.length < 32) :
    queueFrame n q e s = queueAppend n q e s := by
  refine if_pos ?_
  simpa [canOf_of_getElem? hc, hq] using hroom

end

theorem failActive_sta (n : Nat) (s : State) : (failActive n s).rio.sta = s.rio.sta := by
  unfold failActive
  dsimp only
  (repeat' split) <;> simp [modBuf, abandonMarker_rio]

theorem errorState_sta (n : Nat) (old : Can) (s : State) : (errorState n old s).rio.sta = s.rio.sta := by
  have hentered : (passiveEntered n old s).rio = s.rio := by
    unfold passiveEntered
    split
    · exact canEvent_rio ..
    · rfl
  rw [errorState_eq]
  (repeat' split) <;> simp only [busOffEntered, canEvent_rio, canFlag, modCan_rio, failActive_sta, hentered]

/-- The state in which a received frame is dispatched: the counts have followed it, and a duplicate is recorded (R341,
R343). -/
def frameCounted (n : Nat) (f : CanFrame) (s : State) : State :=
  duplicateId n f (errorState n (canOf s n)
    { modCan n (rxCountDown (Config.freeValue s.fresh)) s with fresh := s.fresh + 1 })

theorem frameCounted_frame (n : Nat) (f : CanFrame) (s : State) : (frameCounted n f s).OnlyFreshRioCanEvrHie s := by
  simp [State.OnlyFreshRioCanEvrHie, frameCounted, errorState_frame, duplicateId_frame]

theorem frameCounted_queues {n : Nat} {c : Can} {s : State} (f : CanFrame) (hc : s.can[n]? = some c) :
    ∃ c', (frameCounted n f s).can[n]? = some c' ∧ c'.queues = c.queues ∧ c'.rxCount = c.rxCount := by
  have hdown : ({ modCan n (rxCountDown (Config.freeValue s.fresh)) s with fresh := s.fresh + 1 } : State).can[n]? =
      some (rxCountDown (Config.freeValue s.fresh) c) := getElem?_modCan hc _
  obtain ⟨c1, hc1, hqueues1, hcount1⟩ := errorState_queues hdown (canOf s n)
  obtain ⟨c2, hc2, hqueues2, hcount2⟩ := duplicateId_queues hc1 f
  exact ⟨c2, hc2, hqueues2.trans hqueues1, hcount2.trans hcount1⟩

/-- Which frames the markers take, and the filter pairs, do not change as the frame is counted. -/
theorem seqTakes_frameCounted (n m id : Nat) (f : CanFrame) (s : State) :
    seqTakes (frameCounted n f s) m id = seqTakes s m id ∧ canPairs (frameCounted n f s) n = canPairs s n := by
  obtain ⟨-, -, -, hdrw, -⟩ := frameCounted_frame n f s
  have hsta : (frameCounted n f s).rio.sta = s.rio.sta := by
    simp only [frameCounted, (duplicateId_frame ..), errorState_sta, modCan_rio]
  simp only [seqTakes, carries, canPairs, hdrw, hsta, and_self]

theorem canFrameReceive_queues (n : Fin 4) (f : CanFrame) (ts : Nat) (r : Rec) (c : Can) (x : CanQueue) (s : State)
    (hruns : canRuns s n.val = true) (hc : s.can[n.val]? = some c) (hoff : c.busOff = false) (hint : c.integrating = false)
    (hfd : (f.fdf && !canFd c) = false) (hseq : seqTakes s (8 + n.val) (f.id / 2 ^ 18) = false ∨ f.ide = true)
    (hpair : (canPairs s n.val).find? (pairMatches f) = some r) (hq : f8 r 4 < 2) (hx : c.queues[f8 r 4]? = some x)
    (hroom : x.entries.length < 32) :
    ∃ t c', exec (.canFrameReceive n f ts) s = .next t ∧ t.can[n.val]? = some c' ∧
      c'.queues = lmod c.queues (f8 r 4) (fun x => { x with
        entries := x.entries ++ [{ frame := f, pair := f8 r 2, ts := ts % 2 ^ 64, afterLoss := x.loss }], loss := false }) ∧
      c'.rxCount = sat 32 c.rxCount 1 ∧
      t = { s with can := t.can, rio := t.rio, evr := t.evr, hie := t.hie, fresh := t.fresh } := by
  obtain ⟨c', hcounted, hqueues, hcount⟩ := frameCounted_queues f hc
  obtain ⟨htakes, hpairs⟩ := seqTakes_frameCounted n.val (8 + n.val) (f.id / 2 ^ 18) f s
  have hexec : exec (.canFrameReceive n f ts) s = .next (queueAppend n.val (f8 r 4)
      { frame := f, pair := f8 r 2, ts := ts % 2 ^ 64, afterLoss := false } (frameCounted n.val f s)) := by
    rw [← queueFrame_room hcounted _ (hqueues ▸ hx) hroom]
    change execCanFrameReceive n f ts s = _
    rw [execCanFrameReceive, if_neg (by simp [canOf_of_getElem? hc, hruns, hoff, hint, hfd])]
    refine (if_neg ?_).trans ?_
    · change ¬ (!f.ide && seqTakes (frameCounted n.val f s) (8 + n.val) (f.id / 2 ^ 18)) = true
      rw [htakes]
      rcases hseq with h | h <;> rw [h] <;> simp
    · change (match (canPairs (frameCounted n.val f s) n.val).find? (pairMatches f) with | some r => _ | none => _) = _
      rw [hpairs, hpair]
      exact if_pos hq
  refine ⟨_, _, hexec, getElem?_modCan hcounted _, by rw [hqueues], by rw [hcount], eq_of_can ?_⟩
  simp [State.OnlyFreshRioCanEvrHie, queueAppend, frameCounted_frame]

/-! ### Lock, pop, release, RECEIVE (R338, R339, R344) -/

theorem queuePop_locked {n q : Nat} {s : State} (hruns : canRuns s n = true)
    (hlocked : ((canOf s n).queues.getD q {}).locked = true) (hshadow : ((canOf s n).queues.getD q {}).shadow = none) :
    queuePop n q s = modQueue n q (fun x => { x with
      entries := x.entries.drop 1, locked := false, holder := none, shadow := none }) s := by
  simp only [queuePop, hruns, hlocked, hshadow, Bool.not_true, Bool.false_eq_true, if_false]

theorem exec_canRxqLock_runs (n : Fin 4) (q : Fin 2) (w : Option (Fin 16)) (s : State) (hruns : canRuns s n.val = true) :
    exec (.canRxqLock n q w) s = .next { modQueue n.val q.val (fun x => if x.entries.isEmpty || x.locked then x
        else { x with locked := true, holder := w.bind (fun c => (s.cores.getD c.val {}).driving.map (fun j => (j, c.val))) }) s with
      answer := .value ((queueHead ((canOf s n.val).queues.getD q.val {})).headD 0) } := by
  change execCanRxqLock n q w s = _
  simp only [execCanRxqLock, queueLock, hruns, Bool.not_true, Bool.false_eq_true, if_false]
  rfl

theorem exec_canRxq_held (n : Fin 4) (q : Fin 2) (s : State) (hheld : canRuns s n.val = false) :
    exec (.canRxqPop n q) s = .next s ∧ exec (.canRxqRelease n q) s = .next s :=
  ⟨congrArg Host.Outcome.next (if_pos (by simp [hheld])), congrArg Host.Outcome.next (if_pos (by simp [hheld]))⟩

theorem exec_canRxqRelease_locked (n : Fin 4) (q : Fin 2) (s : State) (hruns : canRuns s n.val = true)
    (hlocked : ((canOf s n.val).queues.getD q.val {}).locked = true) :
    exec (.canRxqRelease n q) s = .next (modQueue n.val q.val (fun x => { x with locked := false, holder := none }) s) :=
  congrArg Host.Outcome.next ((if_neg (by simp [hruns])).trans (if_neg (by rw [hlocked]; decide)))

/-- A queue as a read of its head leaves it (R338). -/
def lockQueue (holder : Option (Nat × Nat)) (x : CanQueue) : CanQueue :=
  if x.entries.isEmpty || x.locked then x else { x with locked := true, holder := holder }

/-- CAN_RECEIVE locks a queue's head and pops it: the queue loses its head alone. -/
theorem queuePop_queueLock {n q : Nat} {c : Can} {x : CanQueue} {s : State} (holder : Option (Nat × Nat))
    (hruns : canRuns s n = true) (hc : s.can[n]? = some c) (hx : c.queues[q]? = some x) (hentries : x.entries ≠ [])
    (hlocked : x.locked = false) (hshadow : x.shadow = none) :
    ∃ c', (queuePop n q (queueLock n q holder s)).can[n]? = some c' ∧
      c'.queues[q]? = some { x with entries := x.entries.drop 1, locked := false, holder := none, shadow := none } ∧
      queuePop n q (queueLock n q holder s) = { s with can := (queuePop n q (queueLock n q holder s)).can } := by
  have hlock : lockQueue holder x = { x with locked := true, holder := holder } := if_neg (by simp [hentries, hlocked])
  have heq : queueLock n q holder s = modQueue n q (lockQueue holder) s := if_neg (by simp [hruns])
  have hchannel := getElem?_modCan hc (fun c => { c with queues := lmod c.queues q (lockQueue holder) })
  have hqueue : (canOf (modQueue n q (lockQueue holder) s) n).queues.getD q {} =
      { x with locked := true, holder := holder } := by
    simp [modQueue, canOf_of_getElem? hchannel, hx, hlock]
  rw [heq, queuePop_locked (s := modQueue n q (lockQueue holder) s) hruns (by rw [hqueue]) (by rw [hqueue]; exact hshadow)]
  exact ⟨_, getElem?_modCan hchannel _, by simp [hx, hlock], rfl⟩

theorem canReceive_takesHead (core : Fin 16) (n : Fin 4) (q : Fin 2) (j : Nat) (k : Stroke) (y : Copy) (c : Can)
    (x : CanQueue) (s : State) (hdriven : drivenBy s core.val = some (j, k, y))
    (hgrant : grant s.drw.image (taskDrawer s j) (8 + n.val) ≠ 0) (hruns : canRuns s n.val = true)
    (hc : s.can[n.val]? = some c) (hx : c.queues[q.val]? = some x) (hentries : x.entries ≠ [])
    (hlocked : x.locked = false) (hshadow : x.shadow = none) :
    ∃ t c', exec (.canReceive core n q) s = .next t ∧ t.answer = .values (queueHead x) ∧ t.can[n.val]? = some c' ∧
      c'.queues[q.val]? = some { x with entries := x.entries.drop 1, locked := false, holder := none, shadow := none } ∧
      t = { s with answer := t.answer, can := t.can } := by
  have hqueue : (canOf s n.val).queues.getD q.val {} = x := by simp [canOf_of_getElem? hc, hx]
  obtain ⟨c', hchannel, hhead, hframe⟩ :=
    queuePop_queueLock (copyOf s core.val) hruns hc hx hentries hlocked hshadow
  have hexec : exec (.canReceive core n q) s =
      .next { queuePop n.val q.val (queueLock n.val q.val (copyOf s core.val) s) with answer := .values (queueHead x) } := by
    refine congrArg Host.Outcome.next ((service_granted _ _ _ hdriven hgrant).trans ?_)
    simp [hx, canOf_of_getElem? hc, hentries]
  exact ⟨_, c', hexec, rfl, hchannel, hhead, by rw [hframe]⟩

/-- Settles O25: a frame's reception by `frameCounted_queues` and `queueFrame_room`, lock, pop and release by their
equations, CAN_RECEIVE by `queuePop_queueLock`. -/
theorem canQueues : Obligations.CanQueues := by
  unfold Obligations.CanQueues
  exact ⟨canFrameReceive_queues, exec_canRxqLock_runs, exec_canRxq_held,
    fun _ _ _ hruns hlocked hshadow => congrArg Host.Outcome.next (queuePop_locked hruns hlocked hshadow),
    exec_canRxqRelease_locked, canReceive_takesHead⟩

end Sys2Proof.Machine
end

section
/-! PROOFS. Memory outside a run written, accesses that pass, and the rings of a MAC (R22, R25, R360, R361, R388), for
O26, O27 and O30. -/
namespace Sys2Proof.Machine

/-! ### Memory, in every form -/

/-- A byte elsewhere reads as before a write, whatever form the memory has. -/
theorem Memory.read_write_ne (m : Memory) {a k : Nat} (b : Byte) (h : k ≠ a) :
    Memory.read (Memory.write m a b) k = Memory.read m k := by
  induction m with
  | nil =>
    simp only [Memory.write]
    split <;> simp [Memory.read, h.symm]
  | cons q r ih =>
    obtain ⟨i, c⟩ := q
    simp only [Memory.write]
    (repeat' split) <;> simp only [Memory.read, ih] <;> grind

/-- A byte outside a run written reads as before, whatever form the memory has. -/
theorem Memory.read_writeN_outside (m : Memory) {a k : Nat} (l : List Byte) (h : k < a ∨ a + l.length ≤ k) :
    Memory.read (Memory.writeN m a l) k = Memory.read m k := by
  induction l generalizing m a with
  | nil => rfl
  | cons b r ih =>
    rw [List.length_cons] at h
    rw [Memory.writeN, ih _ (by omega), Memory.read_write_ne _ _ (by omega)]

/-- Part of a run apart from the records lies apart from them. -/
theorem plainBytes_within {a n b k : Nat} (h : plainBytes a n = true) (hb : a ≤ b) (hk : b + k ≤ a + n) :
    plainBytes b k = true := by
  simp only [plainBytes, Bool.or_eq_true, decide_eq_true_eq] at *
  omega

theorem putBytes_plain {a : Nat} {l : List Byte} (s : State) (h : plainBytes a l.length = true) :
    (putBytes a l s).mem = Memory.writeN s.mem a l ∧ (putBytes a l s).wke = s.wke := by
  have hover : overwrite a l s = s := if_pos h
  unfold putBytes
  rw [hover]
  dsimp only
  split <;> simp [noteTagWrite]

/-- A DMA access that passes changes nothing. -/
theorem dmaAccess_passed {owner : Option Nat} {write : Bool} {a len : Nat} {s : State}
    (h : (dmaAccess owner write a len s).1 = true) : (dmaAccess owner write a len s).2 = s := by
  unfold dmaAccess at *
  dsimp only at *
  split at h
  case isTrue hpass => rw [if_pos hpass]
  case isFalse => cases h

/-- Whether a DMA access passes depends on the image alone. -/
theorem dmaAccess_fst_congr (owner : Option Nat) (write : Bool) (a len : Nat) {s t : State} (h : t.drw = s.drw) :
    (dmaAccess owner write a len t).1 = (dmaAccess owner write a len s).1 := by
  unfold dmaAccess
  dsimp only
  rw [h]
  split <;> rfl

/-! ### Rings (R360, R388) -/

section
variable {m i : Nat} {q : Bool} {s : State}

/-- An owner byte is read from the image. -/
theorem ownerByte_congr {t : State} (h : t.drw = s.drw) : ownerByte t m q i = ownerByte s m q i := by
  simp only [ownerByte, queueOwnerByte, ringOwnerByte, h]

theorem ringOf_of_getElem? {x : Mac} {y : Ring} (hx : s.mac[m]? = some x)
    (hy : (if q then x.queues else x.rings)[i]? = some y) : ringOf s m q i = y := by
  cases q <;> simp_all [ringOf, macOf_of_getElem? hx]

theorem ringOf_modRing {x : Mac} {y : Ring} (f : Ring → Ring) (hx : s.mac[m]? = some x)
    (hy : (if q then x.queues else x.rings)[i]? = some y) : ringOf (modRing m q i f s) m q i = f y := by
  cases q <;> simp_all [ringOf, modRing, macOf]

theorem macOf_modRing_link (f : Ring → Ring) : (macOf (modRing m q i f s) m).link = (macOf s m).link := by
  cases hx : s.mac[m]? with
  | none => simp [macOf, modRing, hx]
  | some x => cases q <;> simp [macOf, modRing, hx]

/-- A TAIL within the size, where no link is missing, is written (R360, R368). -/
theorem ringTail_within {v : Nat} (howner : ownerByte s m q i ≠ 0xFE) (hruns : macRuns s m = true)
    (hv : v < 2 ^ (ringOf s m q i).log2) (hlink : m < 8 ∨ (macOf s m).link = true) :
    ringTail m q i v s = modRing m q i (fun x => { x with tail := v }) s := by
  have hcarried : (isBackbone m && !(macOf (modRing m q i (fun x => { x with tail := v }) s) m).link) = false := by
    rw [macOf_modRing_link]
    rcases hlink with h | h <;> simp [isBackbone, h]
  rw [ringTail, if_neg (by simp [howner, hruns]), if_neg (by omega), flushLink, hcarried, if_neg Bool.false_ne_true]

end

/-- A ring after a write of LOG2SIZE and RUN: RUN from 0 to 1 starts it empty (R360, R388). -/
def cfgRing (l : Nat) (run : Bool) (x : Ring) : Ring :=
  let x := if x.run then x else { x with log2 := l }
  if run && !x.run then { x with run := true, stopped := false, head := 0, tail := 0, segs := 0, seen := 0 }
  else { x with run := run }

/-- The configuration of a declared ring, its size not changed while it runs (R360): the ring alone, and the mark of a frame
of it still on the line (R379). -/
theorem ringCfg_writes {m i v : Nat} {q : Bool} {x : Mac} {y : Ring} {s : State} (howner : ownerByte s m q i ≠ 0xFE)
    (hruns : macRuns s m = true) (hx : s.mac[m]? = some x) (hy : (if q then x.queues else x.rings)[i]? = some y)
    (hsize : y.run = false ∨ v % 16 = y.log2) :
    ringOf (ringCfg m q i v s) m q i =
        cfgRing (if 2 ≤ v % 16 && v % 16 ≤ 12 then v % 16 else 2) (v.testBit 31) y ∧
      ringCfg m q i v s = { s with mac := (ringCfg m q i v s).mac } := by
  have hflag : (y.run && decide (v % 16 ≠ y.log2)) = false := by rcases hsize with h | h <;> simp [h]
  rw [ringCfg, if_neg (by simp [howner, hruns]), ringOf_of_getElem? hx hy]
  dsimp only
  rw [hflag, if_neg Bool.false_ne_true]
  obtain ⟨u, z, hu, hz, hrings, hframe⟩ : ∃ (u : State) (z : Mac), (if (v.testBit 31 && !y.run && !q) = true then
        modMac m (fun z => { z with tx := z.tx.map (restartOf i) }) s else s) = u ∧ u.mac[m]? = some z ∧
      (if q then z.queues else z.rings)[i]? = some y ∧ u = { s with mac := u.mac } := by
    split
    · exact ⟨_, { x with tx := x.tx.map (restartOf i) }, rfl, by simp [hx], hy, rfl⟩
    · exact ⟨s, x, rfl, hx, hy, rfl⟩
  rw [hu]
  exact ⟨ringOf_modRing _ hz hrings, congrArg (modRing m q i _) hframe⟩

theorem macRingRun_starts (m : Fin 10) (q : Bool) (i l : Nat) (x : Mac) (y : Ring) (s : State)
    (howner : ownerByte s m.val q i ≠ 0xFE) (hruns : macRuns s m.val = true) (hx : s.mac[m.val]? = some x)
    (hy : (if q then x.queues else x.rings)[i]? = some y) (hstopped : y.run = false) (hl : 2 ≤ l) (hu : l ≤ 12) :
    ∃ t, exec (.macRingRun m q i l) s = .next t ∧ ringOf t m.val q i = { y with
        run := true, stopped := false, log2 := l, head := 0, tail := 0, segs := 0, seen := 0 } ∧
      t = { s with mac := t.mac } := by
  have hsize : (2 ^ 31 + l % 16) % 16 = l := by omega
  have hbit : (2 ^ 31 + l % 16).testBit 31 = true := by
    rw [Nat.testBit_two_pow_add_eq, Nat.testBit_lt_two_pow (by omega), Bool.not_false]
  obtain ⟨hring, hframe⟩ := ringCfg_writes (v := 2 ^ 31 + l % 16) howner hruns hx hy (.inl hstopped)
  refine ⟨_, rfl, hring.trans ?_, hframe⟩
  rw [hsize, hbit]
  simp [cfgRing, hstopped, hl, hu]

theorem macRingStop_stops (m : Fin 10) (q : Bool) (i : Nat) (x : Mac) (y : Ring) (s : State)
    (howner : ownerByte s m.val q i ≠ 0xFE) (hruns : macRuns s m.val = true) (hx : s.mac[m.val]? = some x)
    (hy : (if q then x.queues else x.rings)[i]? = some y) (hrun : y.run = true) (_hl : 2 ≤ y.log2) (hu : y.log2 ≤ 12) :
    ∃ t, exec (.macRingStop m q i) s = .next t ∧ ringOf t m.val q i = { y with run := false } ∧ t = { s with mac := t.mac } := by
  have hbit : y.log2.testBit 31 = false := Nat.testBit_lt_two_pow (by omega)
  obtain ⟨hring, hframe⟩ := ringCfg_writes (v := y.log2) howner hruns hx hy (.inr (by omega))
  have hexec : exec (.macRingStop m q i) s = .next (ringCfg m.val q i y.log2 s) := by
    rw [← ringOf_of_getElem? hx hy]
    rfl
  refine ⟨_, hexec, hring.trans ?_, hframe⟩
  simp [cfgRing, hbit, hrun]

/-- Settles O26: RUN and stop by `ringCfg_writes`, TAIL by `ringTail_within`. -/
theorem ringRegisters : Obligations.RingRegisters := by
  unfold Obligations.RingRegisters
  exact ⟨macRingRun_starts, macRingStop_stops,
    fun _ _ _ _ _ howner hruns hv hlink => congrArg Host.Outcome.next (ringTail_within howner hruns hv hlink)⟩

end Sys2Proof.Machine
end

section
/-! PROOFS. The services of a drawer on its ring and its queue (R361, R362), for O27. -/
namespace Sys2Proof.Machine

theorem ringOfDrawer_lt {s : State} {m d r : Nat} (h : ringOfDrawer s m d = some r) : r < 4 :=
  List.mem_range.mp (List.mem_of_find?_eq_some h)

/-- The descriptor that ETH_SEND stores (R361). -/
def sendDescriptor (buf len : Nat) : List Byte := leBytes 4 buf ++ leBytes 4 (len % 2 ^ 17) ++ List.replicate 24 0

theorem length_leBytes (k n : Nat) : (leBytes k n).length = k := by
  induction k generalizing n with
  | zero => rfl
  | succ k ih => simp [leBytes, ih]

theorem length_sendDescriptor (buf len : Nat) : (sendDescriptor buf len).length = 32 := by
  simp [sendDescriptor, length_leBytes]

/-- Bytes stored apart from the records and a ring advanced, as a service leaves them. -/
theorem stored_frame {a m i : Nat} {q : Bool} {l : List Byte} (s : State) (f : Ring → Ring) (x : Answer)
    (h : plainBytes a l.length = true) :
    let t : State := { modRing m q i f (putBytes a l s) with answer := x }
    t.mem = Memory.writeN s.mem a l ∧ (∀ b, b < a ∨ a + l.length ≤ b → Memory.read t.mem b = Memory.read s.mem b) ∧
      t = { s with answer := t.answer, mac := t.mac, mem := t.mem, evr := t.evr, hie := t.hie, fresh := t.fresh } := by
  obtain ⟨hbytes, hwke⟩ := putBytes_plain s h
  exact ⟨hbytes, fun b hb => (congrArg (Memory.read · b) hbytes).trans (Memory.read_writeN_outside _ _ hb),
    State.eq_of_fields (by simp [State.OnlyFreshEvrHie, hwke]) rfl rfl rfl⟩

theorem ethSend_stores (core : Fin 16) (m : Fin 10) (buf len j r : Nat) (k : Stroke) (y : Copy) (s : State)
    (hdriven : drivenBy s core.val = some (j, k, y)) (hgrant : grant s.drw.image (taskDrawer s j) (12 + m.val) ≠ 0)
    (hr : ringOfDrawer s m.val (coreTag s core.val) = some r) :
    let x := ringOf s m.val false r
    let a := x.base + 32 * x.tail
    x.run = true → (x.tail + 1) % 2 ^ x.log2 ≠ x.head → coreMem s core.val true a 32 = true → plainBytes a 32 = true →
    macRuns s m.val = true → ringOwnerByte s m.val r ≠ 0xFE → m.val < 8 ∨ (macOf s m.val).link = true →
    ∃ t, exec (.ethSend core m buf len) s = .next t ∧ t.answer = .value 0 ∧
      (r < 4 → r < (macOf s m.val).rings.length → m.val < s.mac.length →
        (ringOf t m.val false r).tail = (x.tail + 1) % 2 ^ x.log2) ∧
      t.mem = Memory.writeN s.mem a (leBytes 4 buf ++ leBytes 4 (len % 2 ^ 17) ++ List.replicate 24 0) ∧
      (∀ b, b < a ∨ a + 32 ≤ b → Memory.read t.mem b = Memory.read s.mem b) ∧
      t = { s with answer := t.answer, mac := t.mac, mem := t.mem, evr := t.evr, hie := t.hie, fresh := t.fresh } := by
  intro x a hrun hroom hmem hplain hruns howner hlink
  have hopen : (!x.run || decide ((x.tail + 1) % 2 ^ x.log2 = x.head)) = false := by simp [hrun, hroom]
  have hpass : (!coreMem s core.val true a 32) = false := by simp [hmem]
  have hstored : ringOf (putBytes a (sendDescriptor buf len) s) m.val false r = x := by simp [ringOf, macOf, x]
  have htail : ringTail m.val false r ((x.tail + 1) % 2 ^ x.log2) (putBytes a (sendDescriptor buf len) s) =
      modRing m.val false r (fun y => { y with tail := (x.tail + 1) % 2 ^ x.log2 }) (putBytes a (sendDescriptor buf len) s) :=
    ringTail_within (by simpa [ownerByte, ringOfDrawer_lt hr, ringOwnerByte] using howner) (by simpa [macRuns] using hruns)
      (by rw [hstored]; exact Nat.mod_lt _ (Nat.two_pow_pos _)) (by simpa [macOf] using hlink)
  have hexec : exec (.ethSend core m buf len) s =
      .next { ringTail m.val false r ((x.tail + 1) % 2 ^ x.log2) (putBytes a (sendDescriptor buf len) s) with
        answer := .value 0 } := by
    refine congrArg Host.Outcome.next ((service_granted _ _ _ hdriven hgrant).trans ?_)
    dsimp only
    rw [hr]
    exact (if_neg (Bool.eq_false_iff.mp hopen)).trans (if_neg (Bool.eq_false_iff.mp hpass))
  rw [htail] at hexec
  have hlen := length_sendDescriptor buf len
  obtain ⟨hbytes, hother, hframe⟩ := stored_frame (m := m.val) (i := r) (q := false) s
    (fun y => { y with tail := (x.tail + 1) % 2 ^ x.log2 }) (.value 0) (by rw [hlen]; exact hplain)
  refine ⟨_, hexec, rfl, fun _ hr4 hm => ?_, hbytes, by rwa [hlen] at hother, hframe⟩
  have hz := List.getElem?_eq_getElem hm
  rw [macOf_of_getElem? hz] at hr4
  exact congrArg Ring.tail (ringOf_modRing (q := false) _ (by simp) (List.getElem?_eq_getElem hr4))

theorem ethReceive_takes (core : Fin 16) (m : Fin 10) (q j : Nat) (k : Stroke) (y : Copy) (s : State)
    (hdriven : drivenBy s core.val = some (j, k, y)) (hgrant : grant s.drw.image (taskDrawer s j) (12 + m.val) ≠ 0)
    (hq : q < 8) (howner : queueOwnerByte s m.val q = coreTag s core.val) :
    let x := ringOf s m.val true q
    let a := x.base + 32 * x.seen
    x.seen ≠ x.head → coreMem s core.val true a 32 = true → plainBytes a 32 = true →
    ∃ t, exec (.ethReceive core m q) s = .next t ∧
      t.answer = .bytes (memBytes s (f32 (memBytes s a 8) 0) (fld (f32 (memBytes s a 8) 4) 0 11)) ∧
      t.mem = Memory.writeN s.mem (a + 4) (List.replicate 20 0) ∧
      (∀ b, b < a + 4 ∨ a + 24 ≤ b → Memory.read t.mem b = Memory.read s.mem b) ∧
      t = { s with answer := t.answer, mac := t.mac, mem := t.mem, evr := t.evr, hie := t.hie, fresh := t.fresh } := by
  intro x a hnew hmem hplain
  have hlen : (List.replicate 20 (0 : Byte)).length = 20 := List.length_replicate
  obtain ⟨hbytes, hother, hframe⟩ := stored_frame (m := m.val) (i := q) (q := true) (a := a + 4)
    (l := List.replicate 20 0) s (fun x => { x with seen := (x.seen + 1) % 2 ^ x.log2, tail := (x.tail + 1) % 2 ^ x.log2 })
    (.bytes (memBytes s (f32 (memBytes s a 8) 0) (fld (f32 (memBytes s a 8) 4) 0 11)))
    (by rw [hlen]; exact plainBytes_within hplain (by omega) (by omega))
  have hown : (decide (8 ≤ q) || decide (queueOwnerByte s m.val q ≠ coreTag s core.val)) = false := by simp [howner, hq]
  have hpass : (!coreMem s core.val true a 32) = false := by simp [hmem]
  refine ⟨_, congrArg Host.Outcome.next ((service_granted _ _ _ hdriven hgrant).trans ?_), rfl, hbytes,
    by rwa [hlen] at hother, hframe⟩
  exact (if_neg (Bool.eq_false_iff.mp hown)).trans ((if_neg hnew).trans (if_neg (Bool.eq_false_iff.mp hpass)))

/-- Settles O27: the descriptor is stored by `putBytes_plain`, TAIL advances by `ringTail_within`. -/
theorem ethernetServices : Obligations.EthernetServices := by
  unfold Obligations.EthernetServices
  exact ⟨ethSend_stores, ethReceive_takes⟩

end Sys2Proof.Machine
end

section
/-! PROOFS. The reception of a frame (R356, R362, R366, R370, R371, R450), for O30. -/
namespace Sys2Proof.Machine

/-! ### What a frame meets before its address (R356, R371, R450) -/

section
variable {m : Nat} {s : State} {x : Mac} (hx : s.mac[m]? = some x)
include hx

theorem getElem?_macCount (c n : Nat) : (macCount m c n s).mac[m]? = some { x with cnt := lmod x.cnt c (fun v => sat 32 v n) } := by
  simp [macCount, hx]

theorem getElem?_macFlag (i : Nat) : (macFlag m i s).mac[m]? = some { x with flags := bset x.flags i } := by
  simp [macFlag, hx]

/-- The fill of the FIFO is noted within its size. -/
theorem getElem?_noteFill (fill : Nat) : (noteFill m fill s).mac[m]? = some { x with
    fill := min fill (fifoSize m), fillMax := max x.fillMax (min (min fill (fifoSize m) / 16) 0xFFFF) } := by
  simp [noteFill, hx]

end

/-- A MAC that runs, on the backbone with a link, takes a frame that its FIFO holds (R356, R371). -/
theorem exec_macFrameReceive_fits {m : Fin 10} {s : State} (f : List Byte) {len fcs ts fill : Nat} (w : Bool)
    (hruns : macRuns s m.val = true) (hlink : 8 ≤ m.val → (macOf s m.val).link = true) (hfill : fill ≤ fifoSize m.val) :
    exec (.macFrameReceive m (.frame f len fcs w false ts fill)) s = .next (noteFill m.val fill
      (receiveFrame m.val f len (decide (fcs = ethFcs f)) w false (ts % 2 ^ 64) s)) := by
  have hopen : (!macRuns s m.val || (isBackbone m.val && !(macOf s m.val).link)) = false := by
    rcases Nat.lt_or_ge m.val 8 with h | h
    · simp [hruns, isBackbone, h]
    · simp [hruns, hlink h]
  have hover : (false || decide (fill > fifoSize m.val)) = false := by simp [hfill]
  exact (if_neg (Bool.eq_false_iff.mp hopen)).trans (by rw [hover])

/-- A frame of a legal length, tagged or not (R356). -/
theorem receiveFrame_legal {m len : Nat} (f : List Byte) (ok w : Bool) (ts : Nat) (s : State) (hmin : 64 ≤ len) (hmax : len ≤ 1518) :
    receiveFrame m f len ok w false ts s = if !ok || !w then macCount m 7 1 s else classifyFrame m f ts s := by
  have hlong : ¬ len > (if isTagged f then 1522 else 1518) := by split <;> omega
  rw [receiveFrame, if_neg Bool.false_ne_true, if_neg (by omega), if_neg hlong]

/-- A plain frame is classified (R370). -/
theorem exec_macFrameReceive_plain {m : Fin 10} {f : List Byte} {len fill : Nat} {s : State} (ts : Nat)
    (h : PlainFrame s m.val len fill f) : exec (.macFrameReceive m (.frame f len (ethFcs f) true false ts fill)) s =
      .next (noteFill m.val fill (classifyFrame m.val f (ts % 2 ^ 64) s)) := by
  obtain ⟨hruns, hlink, hmin, hmax, hfill, -⟩ := h
  rw [exec_macFrameReceive_fits f true hruns hlink hfill, receiveFrame_legal _ _ _ _ _ hmin hmax, if_neg (by simp)]

section
variable {s : State} {m len fill : Nat} {f : List Byte} (hplain : PlainFrame s m len fill f)
include hplain

theorem plainFrame_unicast : f.take 6 ≠ List.replicate 6 0xFF := by
  obtain ⟨-, -, -, -, -, -, -, -, hbroadcast⟩ := hplain
  exact hbroadcast

/-- A plain frame that matches no address entry is counted. -/
theorem classifyFrame_unmatched (ts : Nat)
    (hnone : (List.range 8).find? (fun e => addrEntry s.drw.image m e = some (f.take 6)) = none) :
    classifyFrame m f ts s = macCount m 11 1 s := by
  obtain ⟨-, -, -, -, -, hreply, hptp, hcontrol, hbroadcast⟩ := hplain
  rw [classifyFrame, hreply, hptp, if_neg Bool.false_ne_true, if_neg Bool.false_ne_true, if_neg hcontrol, if_neg hbroadcast, hnone]

/-- A plain frame that matches an address entry goes to the queue of its filter. -/
theorem classifyFrame_matched (ts : Nat) {e : Nat}
    (he : (List.range 8).find? (fun e => addrEntry s.drw.image m e = some (f.take 6)) = some e) :
    classifyFrame m f ts s = dispatchFrame m
      (((filters s.drw.image 2).find? (fun r => f8 r 1 = m && f8 r 2 = e)).elim 0 (fun r => f8 r 4)) e f ts s := by
  obtain ⟨-, -, -, -, -, hreply, hptp, hcontrol, hbroadcast⟩ := hplain
  rw [classifyFrame, hreply, hptp, if_neg Bool.false_ne_true, if_neg Bool.false_ne_true, if_neg hcontrol, if_neg hbroadcast, he]

end

theorem macFrameReceive_uncounted (m : Fin 10) (f : List Byte) (len ts fill : Nat) (x : Mac) (s : State)
    (hplain : PlainFrame s m.val len fill f) (hx : s.mac[m.val]? = some x)
    (hnone : (List.range 8).find? (fun e => addrEntry s.drw.image m.val e = some (f.take 6)) = none) :
    ∃ t y, exec (.macFrameReceive m (.frame f len (ethFcs f) true false ts fill)) s = .next t ∧ t.mac[m.val]? = some y ∧
      y.cnt = lmod x.cnt 11 (fun v => sat 32 v 1) ∧ y.queues = x.queues ∧ t = { s with mac := t.mac } := by
  have hexec := exec_macFrameReceive_plain ts hplain
  rw [classifyFrame_unmatched hplain _ hnone] at hexec
  exact ⟨_, _, hexec, getElem?_noteFill (getElem?_macCount hx 11 1) fill, rfl, rfl, rfl⟩

theorem macFrameReceive_wrongFcs (m : Fin 10) (f : List Byte) (len fcs ts fill : Nat) (w : Bool) (x : Mac) (s : State)
    (hruns : macRuns s m.val = true) (hlink : 8 ≤ m.val → (macOf s m.val).link = true) (hx : s.mac[m.val]? = some x)
    (hmin : 64 ≤ len) (hmax : len ≤ 1518) (hfill : fill ≤ fifoSize m.val) (hfcs : fcs ≠ ethFcs f) :
    ∃ t y, exec (.macFrameReceive m (.frame f len fcs w false ts fill)) s = .next t ∧ t.mac[m.val]? = some y ∧
      y.cnt = lmod x.cnt 7 (fun v => sat 32 v 1) ∧ y.queues = x.queues ∧ t = { s with mac := t.mac } := by
  have hexec := exec_macFrameReceive_fits (fcs := fcs) (ts := ts) (len := len) f w hruns hlink hfill
  rw [receiveFrame_legal _ _ _ _ _ hmin hmax, if_pos (by simp [hfcs])] at hexec
  exact ⟨_, _, hexec, getElem?_noteFill (getElem?_macCount hx 7 1) fill, rfl, rfl, rfl⟩

/-! ### The beacon of another node (R366) -/

theorem macFrameReceive_beacon (m : Fin 10) (x : Mac) (s : State) (hruns : macRuns s m.val = true) (hm : m.val < 8)
    (hx : s.mac[m.val]? = some x) (hplca : macPlca x = true) :
    ∃ t y, exec (.macFrameReceive m .beacon) s = .next t ∧ t.mac[m.val]? = some y ∧ y.conflict = true ∧
      y.flags = bset x.flags 5 ∧ y.queues = x.queues ∧
      t = { s with mac := t.mac, evr := t.evr, hie := t.hie, fresh := t.fresh } := by
  have hbackbone : isBackbone m.val = false := by simp [isBackbone, hm]
  have hexec : exec (.macFrameReceive m .beacon) s = .next (beaconConflict m.val s) :=
    if_neg (by simp [hruns, hbackbone])
  have hmarked : (macFlag m.val 5 (modMac m.val (fun x => { x with conflict := true }) s)).mac[m.val]? =
      some { x with conflict := true, flags := bset x.flags 5 } := getElem?_macFlag (x := { x with conflict := true }) (by simp [hx]) 5
  rw [beaconConflict, if_neg (by simp [macOf_of_getElem? hx, hplca, hbackbone])] at hexec
  dsimp only at hexec
  split at hexec
  · exact ⟨_, { x with conflict := true, flags := bset x.flags 5, conflictAt := some s.evr.opTime }, hexec,
      by simp [hmarked, macEvent_frame], rfl, rfl, rfl,
      State.eq_of_fields (by simp [State.OnlyFreshEvrHie, macEvent_frame, macFlag]) rfl rfl rfl⟩
  · exact ⟨_, _, hexec, hmarked, rfl, rfl, rfl, rfl⟩

/-! ### A frame that its queue stores (R362) -/

/-- The words 1 to 5 of a receive descriptor (R362, R389). -/
def receiveWords (hit st drops ts : Nat) (f : List Byte) : List Byte :=
  leBytes 4 (2 ^ 31 + bit (isTagged f) * 2 ^ 30 + bit (fb f 0 % 2 = 1) * 2 ^ 28 + hit * 2 ^ 24 + st * 2 ^ 20 + f.length) ++
    leBytes 4 (etherType f * 2 ^ 16 + (if isTagged f then be16 f 14 else 0)) ++ leBytes 4 drops ++ leBytes 8 ts

theorem length_receiveWords (hit st drops ts : Nat) (f : List Byte) : (receiveWords hit st drops ts f).length = 20 := by
  simp [receiveWords, length_leBytes]

/-- A frame that is no broadcast is stored at BUF, its descriptor written and HEAD advanced, where the owner of the queue may
write (R362, R371). -/
theorem deliverFrame_stores {m q hit st ts : Nat} {f : List Byte} {z : Ring} {s : State} (hz : ringOf s m true q = z)
    (hrun : z.run = true) (hfree : z.head ≠ z.tail) (hbroadcast : f.take 6 ≠ List.replicate 6 0xFF)
    (hfetch : (dmaAccess (ownerTag (queueOwnerByte s m q)) false (headAddr z) 32 s).1 = true)
    (hstore : (dmaAccess (ownerTag (queueOwnerByte s m q)) true (f32 (memBytes s (headAddr z) 4) 0) f.length s).1 = true)
    (hwrite : (dmaAccess (ownerTag (queueOwnerByte s m q)) true (headAddr z + 4) 20 s).1 = true) :
    deliverFrame m q hit st f ts s = macCount m 6 1
      (modRing m true q (fun x => { x with head := (x.head + 1) % 2 ^ x.log2, drops := 0 })
        (putBytes (headAddr z + 4) (receiveWords hit st z.drops ts f)
          (putBytes (f32 (memBytes s (headAddr z) 4) 0) f s))) := by
  have hopen : (!z.run || decide (z.head = z.tail)) = false := by simp [hrun, hfree]
  unfold deliverFrame
  dsimp only
  rw [hz, if_neg (Bool.eq_false_iff.mp hopen), dmaAccess_passed hfetch, if_neg (by simp [hfetch]),
    dmaAccess_passed hstore, if_neg (by simp [hstore]), dmaAccess_passed hwrite, if_neg (by simp [hwrite])]
  have hbit : bit false = 0 := rfl
  simp only [decide_eq_false hbroadcast, Bool.not_false, Bool.and_true, receiveWords]
  rw [hbit, Nat.zero_mul, Nat.add_zero (2 ^ 31 + bit (isTagged f) * 2 ^ 30)]

/-- What a stored frame leaves: its bytes at `buf`, those of its descriptor at `a`, and HEAD advanced. -/
theorem storedFrame_leaves {m q buf a : Nat} {f l : List Byte} {x : Mac} {z : Ring} {s : State} (fill : Nat)
    (hx : s.mac[m]? = some x) (hz : x.queues[q]? = some z) (hbuf : plainBytes buf f.length = true)
    (hdesc : plainBytes a l.length = true) :
    let t := noteFill m fill (macCount m 6 1 (modRing m true q
      (fun x => { x with head := (x.head + 1) % 2 ^ x.log2, drops := 0 }) (putBytes a l (putBytes buf f s))))
    ∃ y, t.mac[m]? = some y ∧ y.queues[q]? = some { z with head := (z.head + 1) % 2 ^ z.log2, drops := 0 } ∧
      y.cnt = lmod x.cnt 6 (fun v => sat 32 v 1) ∧ t.mem = Memory.writeN (Memory.writeN s.mem buf f) a l ∧
      (∀ b, (b < buf ∨ buf + f.length ≤ b) → (b < a ∨ a + l.length ≤ b) → Memory.read t.mem b = Memory.read s.mem b) ∧
      t = { s with mac := t.mac, mem := t.mem, evr := t.evr, hie := t.hie, fresh := t.fresh } := by
  obtain ⟨hmem1, hwke1⟩ := putBytes_plain s hbuf
  obtain ⟨hmem2, hwke2⟩ := putBytes_plain (putBytes buf f s) hdesc
  rw [hmem1] at hmem2
  intro t
  have hadvanced : (modRing m true q (fun x => { x with head := (x.head + 1) % 2 ^ x.log2, drops := 0 })
      (putBytes a l (putBytes buf f s))).mac[m]? = some { x with
        queues := lmod x.queues q (fun x => { x with head := (x.head + 1) % 2 ^ x.log2, drops := 0 }) } := by
    simp [modRing, hx]
  refine ⟨_, getElem?_noteFill (getElem?_macCount hadvanced 6 1) fill, by simp [hz], rfl, hmem2, fun b hb ha => ?_,
    State.eq_of_fields ?_ rfl rfl rfl⟩
  · refine (congrArg (Memory.read · b) hmem2).trans ?_
    rw [Memory.read_writeN_outside _ _ ha, Memory.read_writeN_outside _ _ hb]
  · simp [t, State.OnlyFreshEvrHie, noteFill, macCount, hwke1, hwke2]

theorem macFrameReceive_stores (m : Fin 10) (f : List Byte) (len ts fill e : Nat) (r : Rec) (x : Mac) (z : Ring) (s : State)
    (hplain : PlainFrame s m.val len fill f) (hx : s.mac[m.val]? = some x)
    (he : (List.range 8).find? (fun e => addrEntry s.drw.image m.val e = some (f.take 6)) = some e)
    (hr : (filters s.drw.image 2).find? (fun r => f8 r 1 = m.val && f8 r 2 = e) = some r)
    (hz : x.queues[(steer s m.val (f8 r 4) f).1]? = some z) (hrun : z.run = true) (hfree : z.head ≠ z.tail) :
    let q := (steer s m.val (f8 r 4) f).1
    let o := ownerTag (queueOwnerByte s m.val q)
    let a := headAddr z
    let buf := f32 (memBytes s a 4) 0
    let w1 := 2 ^ 31 + bit (isTagged f) * 2 ^ 30 + bit (fb f 0 % 2 = 1) * 2 ^ 28 + e * 2 ^ 24 + (steer s m.val (f8 r 4) f).2 * 2 ^ 20 + f.length
    let w2 := etherType f * 2 ^ 16 + (if isTagged f then be16 f 14 else 0)
    (dmaAccess o false a 32 s).1 = true → (dmaAccess o true buf f.length s).1 = true →
    (dmaAccess o true (a + 4) 20 s).1 = true → plainBytes a 32 = true → plainBytes buf f.length = true →
    ∃ t y, exec (.macFrameReceive m (.frame f len (ethFcs f) true false ts fill)) s = .next t ∧ t.mac[m.val]? = some y ∧
      y.queues[q]? = some { z with head := (z.head + 1) % 2 ^ z.log2, drops := 0 } ∧
      y.cnt = lmod x.cnt 6 (fun v => sat 32 v 1) ∧
      t.mem = Memory.writeN (Memory.writeN s.mem buf f) (a + 4)
        (leBytes 4 w1 ++ leBytes 4 w2 ++ leBytes 4 z.drops ++ leBytes 8 (ts % 2 ^ 64)) ∧
      (∀ b, (b < buf ∨ buf + f.length ≤ b) → (b < a + 4 ∨ a + 24 ≤ b) → Memory.read t.mem b = Memory.read s.mem b) ∧
      t = { s with mac := t.mac, mem := t.mem, evr := t.evr, hie := t.hie, fresh := t.fresh } := by
  intro q o a buf w1 w2 hfetch hstore hwrite hdesc hbuf
  have hring : ringOf s m.val true q = z := ringOf_of_getElem? (q := true) hx hz
  have hbroadcast := plainFrame_unicast hplain
  have hexec := exec_macFrameReceive_plain ts hplain
  rw [classifyFrame_matched hplain _ he] at hexec
  rw [hr] at hexec
  change _ = Host.Outcome.next (noteFill m.val fill (deliverFrame m.val q e (steer s m.val (f8 r 4) f).2 f (ts % 2 ^ 64) s)) at hexec
  rw [deliverFrame_stores hring hrun hfree hbroadcast hfetch hstore hwrite] at hexec
  have hlen := length_receiveWords e (steer s m.val (f8 r 4) f).2 z.drops (ts % 2 ^ 64) f
  obtain ⟨y, hy, hhead, hcnt, hmem, hother, hframe⟩ := storedFrame_leaves (a := a + 4) fill hx hz hbuf
    (by rw [hlen]; exact plainBytes_within hdesc (by omega) (by omega))
  rw [hlen] at hother
  exact ⟨_, y, hexec, hy, hhead, hcnt, hmem, hother, hframe⟩

/-- Settles O30: a plain frame by `exec_macFrameReceive_plain`, its storing by `deliverFrame_stores`. -/
theorem frameReception : Obligations.FrameReception := by
  unfold Obligations.FrameReception
  exact ⟨macFrameReceive_uncounted, macFrameReceive_stores, macFrameReceive_wrongFcs, macFrameReceive_beacon⟩

end Sys2Proof.Machine
end

section
/-! PROOFS. PAUSE and link of a backbone MAC (R368, R372, R373, R379), for O31. -/
namespace Sys2Proof.Machine

/-! ### PAUSE frames (R372) -/

theorem pauses_iff {s : State} {m : Nat} : pauses s m = true ↔
    isBackbone m = true ∧ macRuns s m = true ∧ macPauseSend (macOf s m) = true ∧ (macOf s m).link = true := by
  simp [pauses, and_assoc]

/-- The fill noted leaves what the watermarks and the link are read from. -/
theorem pauses_noteFill {s : State} {m : Nat} {x : Mac} (fill : Nat) (hx : s.mac[m]? = some x) (h : pauses s m = true) :
    pauses (noteFill m fill s) m = true ∧ (macOf (noteFill m fill s) m).xoff = x.xoff ∧
      (macOf (noteFill m fill s) m).pauseCfg = x.pauseCfg := by
  obtain ⟨hbackbone, hruns, hsend, hlink⟩ := pauses_iff.mp h
  rw [macOf_of_getElem? hx] at hsend hlink
  have hmac := macOf_of_getElem? (getElem?_noteFill hx fill)
  refine ⟨pauses_iff.mpr ⟨hbackbone, hruns, ?_, ?_⟩, ?_, ?_⟩ <;> rw [hmac]
  · exact hsend
  · exact hlink

/-- A PAUSE frame is queued; XOFF reads 1 until the XON. -/
theorem getElem?_sendPause {s : State} {m : Nat} {x : Mac} (quanta : Nat) (hx : s.mac[m]? = some x) :
    ∃ f, (sendPause m quanta s).mac[m]? = some { x with
      pauseOut := x.pauseOut ++ [quanta], xoff := decide (quanta > 0), cnt := lmod x.cnt 15 (fun v => sat 32 v 1), flags := f } := by
  unfold sendPause
  dsimp only
  split
  · exact ⟨bset x.flags 2, by simp [macCount, macFlag, hx]⟩
  · exact ⟨x.flags, by simp [macCount, hx]⟩

theorem sendPause_mac_only (m quanta : Nat) (s : State) : sendPause m quanta s = { s with mac := (sendPause m quanta s).mac } := by
  unfold sendPause
  dsimp only
  split <;> rfl

/-- A watermark is passed: the fill is noted and a PAUSE frame queued. -/
theorem noteFill_sendPause {s : State} {m : Nat} {x : Mac} (fill quanta : Nat) (hx : s.mac[m]? = some x) :
    ∃ y, (sendPause m quanta (noteFill m fill s)).mac[m]? = some y ∧ y.pauseOut = x.pauseOut ++ [quanta] ∧
      y.xoff = decide (quanta > 0) ∧ y.fill = min fill (fifoSize m) ∧
      sendPause m quanta (noteFill m fill s) = { s with mac := (sendPause m quanta (noteFill m fill s)).mac } := by
  obtain ⟨f, hsent⟩ := getElem?_sendPause quanta (getElem?_noteFill hx fill)
  exact ⟨_, hsent, rfl, rfl, rfl, sendPause_mac_only m quanta (noteFill m fill s)⟩

section
variable (m : Fin 10) (fill : Nat) (x : Mac) (s : State) (hx : s.mac[m.val]? = some x) (hpauses : pauses s m.val = true)
include hx hpauses

theorem exec_xoffSend_above (hwm : highWm x * 65536 < fill * 100) :
    exec (.xoffSend m fill) s = .next (sendPause m.val (x.pauseCfg / 65536) (noteFill m.val fill s)) := by
  obtain ⟨hstill, -, hcfg⟩ := pauses_noteFill fill hx hpauses
  obtain ⟨-, hruns, -⟩ := pauses_iff.mp hpauses
  rw [← hcfg]
  refine (if_neg (by simp [hruns])).trans (if_pos ?_)
  simpa [hstill, highWm, hcfg] using hwm

theorem exec_xoffRepeat_above (hxoff : x.xoff = true) (hwm : lowWm x * 65536 ≤ fill * 100) :
    exec (.xoffRepeat m fill) s = .next (sendPause m.val (x.pauseCfg / 65536) (noteFill m.val fill s)) := by
  obtain ⟨hstill, hon, hcfg⟩ := pauses_noteFill fill hx hpauses
  obtain ⟨-, hruns, -⟩ := pauses_iff.mp hpauses
  rw [← hcfg]
  refine (if_neg (by simp [hruns])).trans (if_pos ?_)
  simpa [hstill, lowWm, hcfg, hon, hxoff] using hwm

theorem exec_xonSend_below (hxoff : x.xoff = true) (hwm : fill * 100 < lowWm x * 65536) :
    exec (.xonSend m fill) s = .next (sendPause m.val 0 (noteFill m.val fill s)) := by
  obtain ⟨hstill, hon, hcfg⟩ := pauses_noteFill fill hx hpauses
  obtain ⟨-, hruns, -⟩ := pauses_iff.mp hpauses
  refine (if_neg (by simp [hruns])).trans (if_pos ?_)
  simpa [hstill, lowWm, hcfg, hon, hxoff] using hwm

theorem xoffSend_queues (hwm : highWm x * 65536 < fill * 100) (htime : x.pauseCfg / 65536 ≠ 0) :
    ∃ t y, exec (.xoffSend m fill) s = .next t ∧ t.mac[m.val]? = some y ∧ y.pauseOut = x.pauseOut ++ [x.pauseCfg / 65536] ∧
      y.xoff = true ∧ y.fill = min fill (fifoSize m.val) ∧ t = { s with mac := t.mac } := by
  obtain ⟨y, hy, hqueue, hxoff, hfill, hframe⟩ := noteFill_sendPause fill (x.pauseCfg / 65536) hx
  exact ⟨_, y, exec_xoffSend_above m fill x s hx hpauses hwm, hy, hqueue,
    hxoff.trans (decide_eq_true (Nat.pos_of_ne_zero htime)), hfill, hframe⟩

theorem xoffRepeat_queues (hon : x.xoff = true) (hwm : lowWm x * 65536 ≤ fill * 100) (htime : x.pauseCfg / 65536 ≠ 0) :
    ∃ t y, exec (.xoffRepeat m fill) s = .next t ∧ t.mac[m.val]? = some y ∧ y.pauseOut = x.pauseOut ++ [x.pauseCfg / 65536] ∧
      y.xoff = true ∧ y.fill = min fill (fifoSize m.val) ∧ t = { s with mac := t.mac } := by
  obtain ⟨y, hy, hqueue, hxoff, hfill, hframe⟩ := noteFill_sendPause fill (x.pauseCfg / 65536) hx
  exact ⟨_, y, exec_xoffRepeat_above m fill x s hx hpauses hon hwm, hy, hqueue,
    hxoff.trans (decide_eq_true (Nat.pos_of_ne_zero htime)), hfill, hframe⟩

theorem xonSend_queues (hon : x.xoff = true) (hwm : fill * 100 < lowWm x * 65536) :
    ∃ t y, exec (.xonSend m fill) s = .next t ∧ t.mac[m.val]? = some y ∧ y.pauseOut = x.pauseOut ++ [0] ∧
      y.xoff = false ∧ y.fill = min fill (fifoSize m.val) ∧ t = { s with mac := t.mac } := by
  obtain ⟨y, hy, hqueue, hxoff, hfill, hframe⟩ := noteFill_sendPause fill 0 hx
  exact ⟨_, y, exec_xonSend_below m fill x s hx hpauses hon hwm, hy, hqueue, hxoff, hfill, hframe⟩

end

/-! ### The link comes up (R368, R379) -/

theorem macLinkUp_links (m : Fin 10) (g : Bool) (x : Mac) (s : State) (hbackbone : 8 ≤ m.val) (hruns : macRuns s m.val = true)
    (hx : s.mac[m.val]? = some x) (hlink : x.link = false) :
    ∃ t y, exec (.macLinkUp m g) s = .next t ∧ t.mac[m.val]? = some y ∧ y.link = true ∧
      y.speed = (if g && !x.opts.testBit 2 then 3 else 2) ∧ y.refused = false ∧
      t = { s with mac := t.mac, evr := t.evr, hie := t.hie, fresh := t.fresh } := by
  let speed := if g && !x.opts.testBit 2 then 3 else 2
  let up : State := macEvent 0xB001 m.val 0 speed
    (modMac m.val (fun x => { x with link := true, speed := speed, refused := false, negotiating := false }) s)
  have hup : up.mac[m.val]? = some { x with link := true, speed := speed, refused := false, negotiating := false } := by
    simp [up, macEvent_frame, hx]
  have hframe : up.OnlyFreshMacEvrHie s := by simp [up, State.OnlyFreshMacEvrHie, macEvent_frame]
  have hexec : exec (.macLinkUp m g) s =
      if pauses up m.val && (macOf up m.val).fill * 100 > highWm (macOf up m.val) * 65536 then
        .next (sendPause m.val ((macOf up m.val).pauseCfg / 65536) up) else .next up := by
    refine (if_neg (by simp [isBackbone, hbackbone, hruns, macOf_of_getElem? hx, hlink])).trans ?_
    simp only [up, speed, macOf_of_getElem? hx]
  rw [hexec]
  split
  · obtain ⟨f, hsent⟩ := getElem?_sendPause ((macOf up m.val).pauseCfg / 65536) hup
    refine ⟨_, _, rfl, hsent, rfl, rfl, rfl, ?_⟩
    rw [sendPause_mac_only]
    exact State.eq_of_fields (by simp [State.OnlyFreshEvrHie, hframe]) rfl rfl rfl
  · exact ⟨up, _, rfl, hup, rfl, rfl, rfl, State.eq_of_fields (by simp [State.OnlyFreshEvrHie, hframe]) rfl rfl rfl⟩

/-! ### The link goes down (R368, R379) -/

/-- MAC `m` of `t` has the link, the frame on the line and the pause of that of `s`. -/
def SameLine (m : Nat) (s t : State) : Prop :=
  (macOf t m).link = (macOf s m).link ∧ (macOf t m).tx = (macOf s m).tx ∧ (macOf t m).paused = (macOf s m).paused ∧
    (macOf t m).pauseOut = (macOf s m).pauseOut

theorem SameLine.trans {m : Nat} {s t u : State} (h : SameLine m s t) (h' : SameLine m t u) : SameLine m s u := by
  obtain ⟨hlink, htx, hpaused, hout⟩ := h
  obtain ⟨hlink', htx', hpaused', hout'⟩ := h'
  exact ⟨hlink'.trans hlink, htx'.trans htx, hpaused'.trans hpaused, hout'.trans hout⟩

theorem sameLine_of_mac {m : Nat} {s t : State} (h : t.mac = s.mac) : SameLine m s t := by
  simp [SameLine, macOf, h]

theorem sameLine_modMac {m : Nat} (f : Mac → Mac) (s : State)
    (h : ∀ x, (f x).link = x.link ∧ (f x).tx = x.tx ∧ (f x).paused = x.paused ∧ (f x).pauseOut = x.pauseOut) :
    SameLine m s (modMac m f s) := by
  cases hx : s.mac[m]? with
  | none => simp [SameLine, macOf, hx]
  | some x => simp [SameLine, macOf, hx, h x]

theorem sameLine_modRing {m : Nat} (q : Bool) (i : Nat) (f : Ring → Ring) (s : State) : SameLine m s (modRing m q i f s) :=
  sameLine_modMac _ s fun x => by cases q <;> simp

theorem sameLine_macCount {m : Nat} (c n : Nat) (s : State) : SameLine m s (macCount m c n s) :=
  sameLine_modMac _ s fun _ => ⟨rfl, rfl, rfl, rfl⟩

theorem sameLine_macEvent {m : Nat} (code n drawer detail : Nat) (s : State) :
    SameLine m s (macEvent code n drawer detail s) :=
  sameLine_of_mac (by simp only [(macEvent_frame ..)])

theorem sameLine_txWriteBack (m r desc : Nat) (old : Bool) (status segs attempts : Nat) (noTs : Bool) (stamp : Option Nat)
    (s : State) : SameLine m s (txWriteBack m r desc old status segs attempts noTs stamp s) := by
  have haccess : SameLine m s (dmaAccess (ownerTag (ringOwnerByte s m r)) true (desc + 12) 12 s).2 :=
    sameLine_of_mac (by simp only [(dmaAccess_frame ..)])
  unfold txWriteBack
  dsimp only
  split
  · exact haccess.trans ((sameLine_modRing _ _ _ _).trans (sameLine_macEvent ..))
  · refine haccess.trans (SameLine.trans (sameLine_of_mac ?_) (sameLine_modRing _ _ _ _))
    simp only [(putBytes_frame ..)]

theorem sameLine_txRefuseAt (m r desc : Nat) (old : Bool) (status segs : Nat) (s : State) :
    SameLine m s (txRefuseAt m r desc old status segs s) := by
  have hwritten := (sameLine_macCount (m := m) (if status = 8 then 5 else 4) 1 s).trans
    (sameLine_txWriteBack m r desc old status segs 0 false none _)
  unfold txRefuseAt
  dsimp only
  split
  · exact hwritten
  · exact hwritten.trans (sameLine_macEvent ..)

theorem sameLine_flushRing (fuel m r : Nat) (s : State) : SameLine m s (flushRing fuel m r s) := by
  induction fuel generalizing s with
  | zero => exact sameLine_of_mac rfl
  | succ fuel ih =>
    unfold flushRing
    split
    · exact (sameLine_txRefuseAt ..).trans (ih _)
    · exact sameLine_of_mac rfl

theorem sameLine_flushLink (m : Nat) (s : State) : SameLine m s (flushLink m s) := by
  have hrings (l : List Nat) (s : State) : SameLine m s (l.foldl (fun s r => flushRing 4096 m r s) s) := by
    induction l generalizing s with
    | nil => exact sameLine_of_mac rfl
    | cons r l ih => exact (sameLine_flushRing ..).trans (ih _)
  unfold flushLink
  split
  · exact hrings _ _
  · exact sameLine_of_mac rfl

theorem sameLine_dropLine (m : Nat) (t : Option MacTx) (s : State) : SameLine m s (dropLine m t s) := by
  unfold dropLine
  (repeat' split)
  · exact sameLine_of_mac rfl
  · exact sameLine_txRefuseAt ..
  · exact sameLine_of_mac rfl
  · exact sameLine_of_mac rfl

/-- A MAC whose link has gone down (R379). -/
def unlinked (x : Mac) : Mac :=
  { x with link := false, speed := 0, paused := 0, xoff := false, pauseOut := [], ptpOut := [], negotiating := true, tx := none }

theorem macLinkDown_ends (m : Fin 10) (s : State) (hbackbone : 8 ≤ m.val) (hlink : (macOf s m.val).link = true) :
    ∃ t, exec (.macLinkDown m) s = .next t ∧ (macOf t m.val).link = false ∧ (macOf t m.val).tx = none ∧
      (macOf t m.val).paused = 0 ∧ (macOf t m.val).pauseOut = [] ∧ t.dio = s.dio ∧ t.stk = s.stk ∧ t.can = s.can := by
  obtain ⟨x, hx⟩ : ∃ x, s.mac[m.val]? = some x := by
    cases h : s.mac[m.val]? with
    | none => simp [macOf, h] at hlink
    | some x => exact ⟨x, rfl⟩
  have hexec : exec (.macLinkDown m) s = .next (flushLink m.val (dropLine m.val (macOf s m.val).tx
      (macEvent 0xB002 m.val 0 0 (macFlag m.val 4 (modMac m.val unlinked s))))) :=
    if_neg (by simp [isBackbone, hbackbone, hlink])
  have hdown : macOf (macEvent 0xB002 m.val 0 0 (macFlag m.val 4 (modMac m.val unlinked s))) m.val =
      { unlinked x with flags := bset x.flags 4 } :=
    macOf_of_getElem? (by simp [macEvent_frame, macFlag, hx]; rfl)
  obtain ⟨hl, ht, hp, ho⟩ := (sameLine_dropLine m.val (macOf s m.val).tx
    (macEvent 0xB002 m.val 0 0 (macFlag m.val 4 (modMac m.val unlinked s)))).trans (sameLine_flushLink m.val _)
  rw [hdown] at hl ht hp ho
  exact ⟨_, hexec, hl, ht, hp, ho, by simp [macFlag], by simp [macFlag], by simp [macFlag]⟩

/-- Settles O31: the PAUSE frames by `noteFill_sendPause`, the link by `macLinkUp_links` and `macLinkDown_ends`. -/
theorem flowAndLinks : Obligations.FlowAndLinks := by
  unfold Obligations.FlowAndLinks
  exact ⟨fun _ _ => rfl, xoffSend_queues, xoffRepeat_queues, xonSend_queues, macLinkUp_links, macLinkDown_ends,
    fun m s hbackbone hruns hlink => if_neg (by simp [isBackbone, hbackbone, hruns, hlink]),
    fun m s hrefused hlink => if_pos (by simp [hrefused, hlink])⟩

end Sys2Proof.Machine
end

section
/-! PROOFS. A frame's descriptor written back over the MRAM that holds a checkpoint bank (R22, R189, R361), for O28. -/
namespace Sys2Proof.Machine

/-- A frame of ring 0 on the line, its descriptor in MRAM where checkpoint bank A begins. -/
def txInBank : MacTx := { src := .ring 0, desc := 0x44000000 }

/-- MAC 8 sends it; ring 0 of a backbone MAC is the service initiator's, which may write there. -/
def sendingFromBank : State := {
  drw := { image := [{ type := 0x0A, flags := 0, count := 1, recSize := 32, body := [3, 8] ++ List.replicate 30 0 }] }
  mac := List.replicate 10 { tx := some txInBank } }

/-- The bank is intact before the frame ends, and not after. -/
theorem exec_macTxComplete_sendingFromBank :
    ∃ t, exec (.macTxComplete 8 0) sendingFromBank = .next t ∧ t.wke.bankA.intact = false := by
  exact ⟨_, rfl, by decide⟩

/-- Refutes O28: its clause on a sent frame says that the MACs, memory, the recorder, the link, the drawer table and the free
values alone change, wherever the descriptor lies. In `sendingFromBank` it lies in the MRAM of checkpoint bank A, which its
owner may write: the write-back spoils the bank, and the wake journal changes (R189, log entry 3). -/
theorem not_lineEvents : ¬ Obligations.LineEvents := by
  unfold Obligations.LineEvents
  intro h
  obtain ⟨-, -, -, hcomplete, -⟩ := h
  obtain ⟨t, hexec, -, -, hring, -⟩ := hcomplete 8 0 txInBank sendingFromBank (by decide)
  obtain ⟨-, hframe⟩ := hring 0 rfl rfl rfl
  obtain ⟨u, hexec', hspoilt⟩ := exec_macTxComplete_sendingFromBank
  obtain rfl : t = u := Host.Outcome.next.inj (hexec.symm.trans hexec')
  have hkept : t.wke = sendingFromBank.wke := by rw [hframe]
  rw [hkept] at hspoilt
  exact absurd hspoilt (by decide)

end Sys2Proof.Machine
end

section
/-! PROOFS. The calendar: its seconds, its sets, its reads (R404 to R408, R420, R422, R423), for O33. -/
namespace Sys2Proof.Machine

/-- A change of the calendar alone, and the record of an event. -/
theorem eq_of_rtc {t s : State} (h : t.OnlyFreshRtcEvrHie s) :
    t = { s with rtc := t.rtc, evr := t.evr, hie := t.hie, fresh := t.fresh } :=
  State.eq_of_fields (by simp [State.OnlyFreshEvrHie, h]) rfl rfl rfl

/-! ### A set takes effect (R406, R407) -/

theorem applySet_rtc (source new sub was : Nat) (s : State) :
    (applySet source new sub was s).rtc = { s.rtc with
      seconds := new, subsec := sub, epoch := if s.rtc.epoch = 255 then 1 else s.rtc.epoch + 1, osf := false,
      pendingSet := none, trim := 0 } := by
  simp only [applySet, (raise_frame ..), modRtc_rtc]

/-- A second of a valid domain: VBAK is taken while the module has its supply, and a pending set or the count follows. -/
theorem exec_rtcSecond_valid (v : Nat) {s : State} (hvalid : s.rtc.valid = true) :
    ∃ x, exec (.rtcSecond v) s = .next (s.rtc.pendingSet.elim
      (if s.rtc.seconds = lastSecond then
        raise { code := 0xC009, block := 0x0D } { s with rtc := { s.rtc with seconds := 0, subsec := 0, vbak := x } }
      else { s with rtc := { s.rtc with seconds := s.rtc.seconds + 1, subsec := 0, vbak := x } })
      (fun n => applySet 1 n 0 (if s.rtc.seconds = lastSecond then 0 else s.rtc.seconds + 1)
        { s with rtc := { s.rtc with vbak := x } })) := by
  obtain ⟨x, hx⟩ : ∃ x, (if s.sys.boot = .off then s else modRtc (fun r => { r with vbak := v % 2 ^ 16 }) s) =
      { s with rtc := { s.rtc with vbak := x } } := by
    split
    · exact ⟨s.rtc.vbak, rfl⟩
    · exact ⟨v % 2 ^ 16, rfl⟩
  refine ⟨x, (if_neg (by simp [hvalid])).trans ?_⟩
  dsimp only
  rw [hx]
  cases h : s.rtc.pendingSet with
  | some n => simp only [Option.elim_some, h]
  | none =>
    dsimp only [Option.elim]
    split <;> simp only [modRtc, h]

theorem rtcSecond_counts (v : Nat) (s : State) (hvalid : s.rtc.valid = true) (hnone : s.rtc.pendingSet = none) :
    ∃ t, exec (.rtcSecond v) s = .next t ∧
      t.rtc.seconds = (if s.rtc.seconds = 4291747199 then 0 else s.rtc.seconds + 1) ∧ t.rtc.subsec = 0 ∧
      t.rtc.epoch = s.rtc.epoch ∧
      t = { s with rtc := t.rtc, evr := t.evr, hie := t.hie, fresh := t.fresh } := by
  obtain ⟨x, hexec⟩ := exec_rtcSecond_valid v hvalid
  rw [hnone, Option.elim_none] at hexec
  refine ⟨_, hexec, ?_⟩
  split
  case isTrue hlast =>
    exact ⟨by simp [show s.rtc.seconds = 4291747199 from hlast], by simp, by simp,
      eq_of_rtc (by simp [State.OnlyFreshRtcEvrHie])⟩
  case isFalse hlast => exact ⟨(if_neg hlast).symm, rfl, rfl, rfl⟩

theorem rtcSecond_sets (v n : Nat) (s : State) (hvalid : s.rtc.valid = true) (hset : s.rtc.pendingSet = some n) :
    ∃ t, exec (.rtcSecond v) s = .next t ∧ t.rtc.seconds = n ∧ t.rtc.subsec = 0 ∧ t.rtc.pendingSet = none ∧
      t.rtc.osf = false ∧
      t = { s with rtc := t.rtc, evr := t.evr, hie := t.hie, fresh := t.fresh } := by
  obtain ⟨x, hexec⟩ := exec_rtcSecond_valid v hvalid
  rw [hset, Option.elim_some] at hexec
  refine ⟨_, hexec, ?_, ?_, ?_, ?_, eq_of_rtc (by simp [State.OnlyFreshRtcEvrHie, applySet_frame])⟩ <;>
    simp [applySet_rtc]

/-! ### The set commands (R406, R420, R423) -/

section
variable {s : State}

/-- The right key runs a command of an open interface. -/
theorem rtcKey_runs (f : State → State) (hopen : s.enabled.contains .rtc = true) : rtcKey 0x4A54 f s = f s :=
  (if_neg (by rw [rtcOpen, hopen]; decide)).trans (if_pos rfl)

theorem rtcKey_wrong {k : Nat} (f : State → State) (hopen : s.enabled.contains .rtc = true) (hk : k ≠ 0x4A54) :
    rtcKey k f s = raise { code := 0x0004, block := 0x0D, detail := 0x100C0024 } s :=
  (if_neg (by rw [rtcOpen, hopen]; decide)).trans (if_neg hk)

/-- A closed interface takes no command (log entry 22). -/
theorem rtcKey_closed (k : Nat) (f : State → State) (hclosed : s.enabled.contains .rtc = false) : rtcKey k f s = s :=
  if_pos (by rw [rtcOpen, hclosed]; rfl)

theorem rtcSet_valid {n : Nat} (cmd : Nat) (f : Nat → State → State) (hset : setSeconds s.rtc.set0 s.rtc.set1 = some n) :
    rtcSet cmd f s = f n (modRtc (fun r => { r with refused := false }) s) := by
  rw [rtcSet, hset]

end

theorem exec_rtcSetNextEdge_valid (n : Nat) (s : State) (hopen : s.enabled.contains .rtc = true)
    (hset : setSeconds s.rtc.set0 s.rtc.set1 = some n) :
    exec (.rtcSetNextEdge 0x4A54) s = .next { s with rtc := { s.rtc with refused := false, pendingSet := some n } } :=
  congrArg Host.Outcome.next ((rtcKey_runs _ hopen).trans (rtcSet_valid 1 _ hset))

theorem rtcSetImmediate_sets (n : Nat) (s : State) (hopen : s.enabled.contains .rtc = true)
    (hset : setSeconds s.rtc.set0 s.rtc.set1 = some n) :
    ∃ t, exec (.rtcSetImmediate 0x4A54 none) s = .next t ∧ t.rtc.seconds = n ∧ t.rtc.subsec = 0 ∧ t.rtc.osf = false ∧
      t.rtc.pendingSet = none ∧ t.rtc.epoch = (if s.rtc.epoch = 255 then 1 else s.rtc.epoch + 1) ∧
      t = { s with rtc := t.rtc, evr := t.evr, hie := t.hie, fresh := t.fresh } := by
  have hrtc := applySet_rtc 2 n 0 s.rtc.seconds (modRtc (fun r => { r with refused := false }) s)
  exact ⟨_, congrArg Host.Outcome.next ((rtcKey_runs _ hopen).trans (rtcSet_valid 2 _ hset)),
    congrArg Rtc.seconds hrtc, congrArg Rtc.subsec hrtc, congrArg Rtc.osf hrtc, congrArg Rtc.pendingSet hrtc,
    congrArg Rtc.epoch hrtc, eq_of_rtc (by simp [State.OnlyFreshRtcEvrHie, applySet_frame])⟩

theorem exec_rtcSet_valid (core : Fin 16) (s0 s1 n j : Nat) (k : Stroke) (y : Copy) (s : State)
    (hdriven : drivenBy s core.val = some (j, k, y)) (hgrant : grant s.drw.image (taskDrawer s j) 23 ≠ 0)
    (hset : setSeconds (s0 % 2 ^ 17) (s1 &&& 0xFFFF0F1F) = some n) :
    exec (.rtcSet core s0 s1) s = .next { s with rtc := { s.rtc with
      set0 := s0 % 2 ^ 17, set1 := s1 &&& 0xFFFF0F1F, refused := false, pendingSet := some n } } :=
  congrArg Host.Outcome.next ((service_granted _ _ _ hdriven hgrant).trans
    (rtcSet_valid (s := modRtc (fun r => { r with set0 := s0 % 2 ^ 17, set1 := s1 &&& 0xFFFF0F1F }) s) 1 _ hset))

theorem exec_rtcNow_driven (core : Fin 16) (j : Nat) (k : Stroke) (y : Copy) (s : State)
    (hdriven : drivenBy s core.val = some (j, k, y)) :
    exec (.rtcNow core) s = .next { s with answer := .values [time0 s.rtc.seconds, time1 s.rtc.seconds, s.rtc.seconds] } := by
  change execRtcNow core s = _
  rw [execRtcNow, hdriven]

theorem exec_rtcTimeLatch_open (u : Fin 32768) (s : State) (hopen : s.enabled.contains .rtc = true) :
    exec (.rtcTimeLatch u) s = .next { s with
      rtc := { s.rtc with
        latch1 := time1 s.rtc.seconds, latchSub := max u.val s.rtc.subsec, latchSec := s.rtc.seconds,
        subsec := max u.val s.rtc.subsec },
      answer := .value (time0 s.rtc.seconds) } := by
  change execRtcTimeLatch u s = _
  rw [execRtcTimeLatch, rtcOpen, if_pos hopen]
  rfl

theorem exec_rtcTimeLatch_closed (u : Fin 32768) (s : State) (hclosed : s.enabled.contains .rtc = false) :
    ∃ t, exec (.rtcTimeLatch u) s = .next t ∧ t = { s with answer := t.answer, fresh := t.fresh } := by
  refine ⟨_, rfl, ?_⟩
  rw [rtcOpen, hclosed]
  rfl

/-- Settles O33: a second by `rtcSecond_counts` and `rtcSecond_sets`, the commands by `rtcKey_runs` and `rtcSet_valid`. That a
closed interface takes no set and latches nothing is the model's choice (log entry 22). -/
theorem calendarCommands : Obligations.CalendarCommands := by
  unfold Obligations.CalendarCommands
  exact ⟨rtcSecond_counts, rtcSecond_sets, exec_rtcSetNextEdge_valid, rtcSetImmediate_sets,
    fun s hopen => congrArg Host.Outcome.next (rtcKey_runs _ hopen),
    fun k s hopen hk => ⟨congrArg Host.Outcome.next (rtcKey_wrong _ hopen hk), congrArg Host.Outcome.next (rtcKey_wrong _ hopen hk)⟩,
    exec_rtcSet_valid, exec_rtcNow_driven, exec_rtcTimeLatch_open,
    fun k u s hclosed => ⟨congrArg Host.Outcome.next (rtcKey_closed _ _ hclosed),
      congrArg Host.Outcome.next (rtcKey_closed _ _ hclosed), congrArg Host.Outcome.next (rtcKey_closed _ _ hclosed),
      exec_rtcTimeLatch_closed u s hclosed⟩⟩

end Sys2Proof.Machine
end

section
/-! PROOFS. Trimming from PTP, and the backup domain (R402, R408, R409, R411 to R413, R415), for O34. -/
namespace Sys2Proof.Machine

/-! ### Trimming (R402, R408) -/

theorem rtcTrimCheck_trims (ns o : Nat) (c : Fin 32768) (s : State) (ho : announcedOffset s = some o) (htrim : rtcTrim s = true)
    (hopen : s.enabled.contains .rtc = true) (hlocked : s.ptp.st = .locked) :
    let utc := utcCycles o ns s
    let sub := max c.val s.rtc.subsec
    let d := ((utc : Int) - (s.rtc.seconds * 32768 + sub : Nat)).natAbs
    (d * 10 ≤ 32768 → exec (.rtcTrimCheck ns c) s = .next { s with rtc := { s.rtc with
      trim := d, trimUp := decide (s.rtc.seconds * 32768 + sub < utc), subsec := sub } }) ∧
    (32768 < d * 10 → ∃ t, exec (.rtcTrimCheck ns c) s = .next t ∧ t.rtc.seconds = utc / 32768 % 4291747200 ∧
      t.rtc.subsec = utc % 32768 ∧ t.rtc.osf = false ∧ t.rtc.pendingSet = none ∧
      t = { s with rtc := t.rtc, evr := t.evr, hie := t.hie, fresh := t.fresh }) := by
  intro utc sub d
  have hexec : exec (.rtcTrimCheck ns c) s = if d * 10 ≤ 32768 then
        .next { s with rtc := { s.rtc with trim := d, trimUp := decide (s.rtc.seconds * 32768 + sub < utc), subsec := sub } }
      else .next (applySet 3 (utc / 32768 % (lastSecond + 1)) (utc % 32768) s.rtc.seconds s) := by
    change execRtcTrimCheck ns c s = _
    rw [execRtcTrimCheck, ho]
    exact if_pos (by rw [htrim, rtcOpen, hopen, hlocked]; rfl)
  refine ⟨fun hsmall => hexec.trans (if_pos hsmall), fun hgreat => ?_⟩
  have hrtc := applySet_rtc 3 (utc / 32768 % (lastSecond + 1)) (utc % 32768) s.rtc.seconds s
  exact ⟨_, hexec.trans (if_neg (by omega)), congrArg Rtc.seconds hrtc, congrArg Rtc.subsec hrtc, congrArg Rtc.osf hrtc,
    congrArg Rtc.pendingSet hrtc, eq_of_rtc (by simp only [State.OnlyFreshRtcEvrHie, (applySet_frame ..), and_self])⟩

theorem exec_rtcTrimCheck_none (ns : Nat) (c : Fin 32768) (s : State) (h : announcedOffset s = none ∨ s.ptp.st ≠ .locked) :
    exec (.rtcTrimCheck ns c) s = .next s := by
  change execRtcTrimCheck ns c s = _
  unfold execRtcTrimCheck
  split
  · rfl
  · next o ho =>
    have hunlocked : s.ptp.st ≠ .locked := h.resolve_left (by simp [ho])
    exact if_neg (by simp [hunlocked])

/-! ### The backup domain (R409, R411 to R413, R415) -/

theorem backupDomainReset_clears (s : State) :
    ∃ t, exec .backupDomainReset s = .next t ∧ t.rtc.valid = false ∧ t.rtc.seconds = 0 ∧ t.rtc.epoch = 0 ∧
      t.rtc.subsec = 0 ∧ t.rtc.canary = false ∧ t.rtc.general = List.replicate 32 0 ∧ t.rtc.captured = false ∧
      t.rtc.osf = s.rtc.osf ∧
      t = { s with rtc := t.rtc, key := { s.key with tamper := t.key.tamper } } :=
  ⟨_, rfl, rfl, rfl, rfl, rfl, rfl, rfl, rfl, rfl, rfl⟩

theorem canaryTry_idle {s : State} (h : s.rtc.checkDue = false ∨ s.rtc.valid = false ∨ s.rtc.feedVbak = true) :
    canaryTry s = s :=
  if_neg (by rcases h with h | h | h <;> simp [h])

theorem canaryTry_due {s : State} (hdue : s.rtc.checkDue = true) (hvalid : s.rtc.valid = true)
    (hmain : s.rtc.feedVbak = false) : canaryTry s = canaryCheck s :=
  if_pos (by simp [hdue, hvalid, hmain])

theorem exec_backupDomainValid_eq {s : State} (h : s.rtc.valid = false) :
    exec .backupDomainValid s =
      .next (canaryTry { s with rtc := { s.rtc with valid := true, seconds := 0, subsec := 0, epoch := 0 } }) :=
  if_neg (by simp [h])

/-- A lost canary clears the domain and makes the start-up one after POR (R412, R415). -/
theorem canaryCheck_lost {s : State} (h : s.rtc.canary = false) :
    ∃ e, canaryCheck s = raise e { s with
      rtc := { clearBackup s.rtc with canary := true, checkDue := false, osf := true, domainLost := true }
      key := { s.key with tamper := { loopBad := s.key.tamper.loopBad } }
      sys := { s.sys with cause := bset (bclr s.sys.cause 1) 0, primary := 1, outage := 0xFFFFFFFF } } :=
  ⟨_, if_neg (by simp [h])⟩

theorem backupDomainValid_lost (s : State) (hvalid : s.rtc.valid = false) (hdue : s.rtc.checkDue = true)
    (hmain : s.rtc.feedVbak = false) (hlost : s.rtc.canary = false) :
    ∃ t, exec .backupDomainValid s = .next t ∧ t.rtc.valid = true ∧ t.rtc.seconds = 0 ∧ t.rtc.canary = true ∧
      t.rtc.checkDue = false ∧ t.rtc.osf = true ∧ t.rtc.domainLost = true ∧ t.rtc.general = List.replicate 32 0 ∧
      t.sys.cause.testBit 0 = true ∧ t.sys.primary = 1 ∧ t.sys.outage = 0xFFFFFFFF ∧
      t = { s with sys := t.sys, rtc := t.rtc, key := { s.key with tamper := t.key.tamper }, evr := t.evr, hie := t.hie,
                   fresh := t.fresh } := by
  have hexec := exec_backupDomainValid_eq hvalid
  rw [canaryTry_due (by exact hdue) rfl (by exact hmain)] at hexec
  obtain ⟨e, he⟩ := canaryCheck_lost
    (s := { s with rtc := { s.rtc with valid := true, seconds := 0, subsec := 0, epoch := 0 } }) hlost
  rw [he] at hexec
  refine ⟨_, hexec, ?_⟩
  refine ⟨?_, ?_, ?_, ?_, ?_, ?_, ?_, ?_, ?_, ?_, State.eq_of_fields (by simp [State.OnlyFreshEvrHie]) rfl rfl rfl⟩ <;>
    simp [clearBackup, bset]

theorem exec_backupFeedSwitch_whole (s : State) (hdue : s.rtc.checkDue = true) (hvalid : s.rtc.valid = true)
    (hwhole : s.rtc.canary = true) :
    exec (.backupFeedSwitch false) s = .next { s with rtc := { s.rtc with feedVbak := false, checkDue := false } } :=
  congrArg Host.Outcome.next ((canaryTry_due (s := modRtc (fun r => { r with feedVbak := false }) s) hdue hvalid rfl).trans
    (if_pos hwhole))

/-- Settles O34: a trim by `rtcTrimCheck_trims`, the check of the canary by `canaryTry_due` and `canaryCheck_lost`. That POR
stands in place of VSYS_LOW and the instant of the check are the model's choices (log entry 22). -/
theorem backupDomain : Obligations.BackupDomain := by
  unfold Obligations.BackupDomain
  exact ⟨rtcTrimCheck_trims, exec_rtcTrimCheck_none, fun s htrim => if_neg htrim, fun s hvalid => if_pos hvalid,
    backupDomainReset_clears,
    fun s hvalid hdue => (exec_backupDomainValid_eq hvalid).trans (congrArg Host.Outcome.next (canaryTry_idle (.inl hdue))),
    backupDomainValid_lost,
    fun b s h => congrArg Host.Outcome.next (canaryTry_idle (s := modRtc (fun r => { r with feedVbak := b }) s) h),
    exec_backupFeedSwitch_whole⟩

end Sys2Proof.Machine
end

section
/-! PROOFS. What an occurrence does to the event store (R425, R427, R430 to R433, R581), for O35 and O36. -/
namespace Sys2Proof.Machine

/-! ### The new records of an occurrence, and their forwarding (R524, R531) -/

/-- Between two counts of RECNO that follow each other lies one record at most, and none between equal ones. -/
theorem length_newRecords_le (n : Nat) {e : Evr} (h : e.next = (n + 1) % 2 ^ 32) : (newRecords n e).length ≤ 1 := by
  rw [newRecords, List.length_drop, h]
  omega

theorem newRecords_self (e : Evr) : newRecords e.next e = [] := by
  simp [newRecords]

/-- With room in its table the egress arbiter takes a message without an event (R531). -/
theorem sendUpBy_room (note : Occ → State → State) (m : Marzin) {s : State} (h : tracked s.hie.egress < 4096) :
    (sendUpBy note m s).evr = s.evr := by
  have hroom : (arbPush s.hie.egress m).2.2 = false := by
    unfold arbPush
    (repeat' split) <;> rfl
  unfold sendUpBy noteArbBy
  dsimp only
  rw [hroom, if_neg Bool.false_ne_true]
  split <;> rfl

theorem ownUpBy_room (note : Occ → State → State) (drawer : Nat) (ackReq : Bool) (body : MarzinBody) {s : State}
    (h : tracked s.hie.egress < 4096) : (ownUpBy note drawer ackReq body s).evr = s.evr := by
  unfold ownUpBy
  split
  · exact sendUpBy_room note _ h
  · rfl

theorem forwardBy_none (note : Occ → State → State) {n : Nat} {s : State} (h : newRecords n s.evr = []) :
    forwardBy note n s = s := by
  simp [forwardBy, h]

/-- One record is forwarded without an event where the egress arbiter has room. -/
theorem forwardBy_room (note : Occ → State → State) {n : Nat} {s : State} (hnew : (newRecords n s.evr).length ≤ 1)
    (hroom : tracked s.hie.egress < 4096) : (forwardBy note n s).evr = s.evr := by
  unfold forwardBy
  split
  · cases hl : newRecords n s.evr with
    | nil => rfl
    | cons r l =>
      obtain rfl : l = [] := by simpa [hl] using hnew
      simp only [List.foldl_cons, List.foldl_nil]
      split
      · exact ownUpBy_room note _ _ _ hroom
      · rfl
  · rfl

/-! ### One occurrence (R430 to R433) -/

/-- The recorder after an occurrence that it takes. -/
def enteredEvr (o : Occ) (s : State) : Evr := enterOcc s.sys.brace (trustByte s) (calNow s) o s.evr

section
variable {o : Occ} {s : State} (hcycle : s.evr.cycle = none)
include hcycle

theorem raise_eq : raise o s = forwardBy (raiseBy 65) s.evr.next (record_ o s) := by
  rw [raise, raiseBy, hcycle]

theorem raise_held (hruns : s.evr.running = false) : raise o s = { s with evr := { s.evr with held := holdOcc o s.evr.held } } := by
  have hrecord : record_ o s = { s with evr := { s.evr with held := holdOcc o s.evr.held } } := by
    simp [record_, hruns]
  rw [raise_eq hcycle, hrecord]
  exact forwardBy_none _ (newRecords_self { s.evr with held := holdOcc o s.evr.held })

variable (hruns : s.evr.running = true)
include hruns

/-- An occurrence without a record of its own changes the recorder alone. -/
theorem raise_evr_of_next (hnext : (enteredEvr o s).next = s.evr.next) : (raise o s).evr = enteredEvr o s := by
  have hrecord : record_ o s = { s with evr := enteredEvr o s } := by simp [record_, hruns, enteredEvr]
  rw [raise_eq hcycle, hrecord, forwardBy_none]
  rw [← hnext]
  exact newRecords_self _

/-- An occurrence that is one record enters the recorder as it is, where the egress arbiter has room. -/
theorem raise_evr_of_room (hnext : (enteredEvr o s).next = (s.evr.next + 1) % 2 ^ 32)
    (hroom : tracked s.hie.egress < 4096) : (raise o s).evr = enteredEvr o s := by
  have hrecord : record_ o s = { s with evr := enteredEvr o s } := by simp [record_, hruns, enteredEvr]
  rw [raise_eq hcycle, hrecord]
  exact forwardBy_room _ (length_newRecords_le _ hnext) hroom

end

/-- The record of an occurrence (R425, R426). -/
def occRecord (trust cal : Nat) (o : Occ) (e : Evr) : EvRecord := {
  recno := e.next, code := o.code, drawer := o.drawer, severity := severity o.code, trust := trust, block := o.block,
  unit := o.unit, folded := false, repeats := 1, opTime := e.opTime % 2 ^ 48, cycles := e.cycles, cal := cal,
  detail := w32 o.detail }

/-- A store with room takes a record at its head (R427, R429, R434). -/
theorem writeRecord_room (brace : Bool) (trust cal : Nat) (o : Occ) {e : Evr} (h : e.records.length < storeCap) :
    let t := writeRecord brace trust cal o 1 false e
    t.records = e.records ++ [occRecord trust cal o e] ∧ t.next = (e.next + 1) % 2 ^ 32 ∧ t.drops = e.drops ∧
      t.spent = e.spent ∧ t.folds = e.folds ∧ t.archive = e.archive ∧ t.floor = e.floor := by
  have hkept : ¬ e.records.length ≥ storeCap := by omega
  have hfull : (newRecord brace trust cal o 1 false e).full = e.full := by
    simp only [newRecord, moveStart, if_neg hkept]
    (repeat' split) <;> simp [hkept]
  have hwrite : writeRecord brace trust cal o 1 false e = newRecord brace trust cal o 1 false e := by
    simp [writeRecord, hfull]
  rw [hwrite]
  simp only [newRecord, moveStart, if_neg hkept]
  (repeat' split) <;> exact ⟨rfl, rfl, rfl, rfl, rfl, rfl, rfl⟩

section
variable {brace : Bool} {trust cal : Nat} {o : Occ} {e : Evr}

theorem enterOcc_dropped (hfull : 256 ≤ e.buffer) (hcode : o.code ≠ 0x0021) :
    enterOcc brace trust cal o e = { e with drops := sat 32 e.drops 1, dropped := e.dropped + 1 } :=
  if_pos (by simp [hfull, hcode])

/-- The recorder's buffer takes an occurrence that finds room, and always that of a clear (R430, R439, log entry 5). -/
theorem enterOcc_taken (h : e.buffer < 256 ∨ o.code = 0x0021) : enterOcc brace trust cal o e =
    if mergesHead o e then mergeHead { e with buffer := e.buffer + 1 }
    else if rateLimited o.code then
      if tnum e.spent o.code < e.burst then
        writeRecord brace trust cal o 1 false { e with buffer := e.buffer + 1, spent := tset e.spent o.code (tnum e.spent o.code + 1) }
      else
        match foldTarget o e with
        | some i => foldInto i { e with buffer := e.buffer + 1 }
        | none => writeRecord brace trust cal o 1 false { e with buffer := e.buffer + 1 }
    else writeRecord brace trust cal o 1 false { e with buffer := e.buffer + 1 } := by
  have htaken : (decide (e.buffer ≥ 256) && decide (o.code ≠ 0x0021)) = false := by
    rcases h with h | h
    · simp [h]
    · simp [h]
  exact (if_neg (Bool.eq_false_iff.mp htaken))

theorem enterOcc_merges (h : e.buffer < 256) (hmerges : mergesHead o e = true) :
    enterOcc brace trust cal o e = mergeHead { e with buffer := e.buffer + 1 } := by
  rw [enterOcc_taken (.inl h), if_pos hmerges]

/-- A new record: of a code without limit, or with a token of its bucket (R432). -/
theorem enterOcc_writes (h : e.buffer < 256 ∨ o.code = 0x0021) (hmerges : mergesHead o e = false)
    (htoken : rateLimited o.code = false ∨ tnum e.spent o.code < e.burst) :
    ∃ spent, enterOcc brace trust cal o e = writeRecord brace trust cal o 1 false { e with buffer := e.buffer + 1, spent := spent } ∧
      (rateLimited o.code = false → spent = e.spent) := by
  rw [enterOcc_taken h, hmerges, if_neg Bool.false_ne_true]
  cases hlimited : rateLimited o.code with
  | false => exact ⟨e.spent, rfl, fun _ => rfl⟩
  | true =>
    rw [if_pos rfl, if_pos (htoken.resolve_left (by simp [hlimited]))]
    exact ⟨_, rfl, nofun⟩

theorem enterOcc_folds {i : Nat} {r : EvRecord} (h : e.buffer < 256) (hmerges : mergesHead o e = false)
    (hlimited : rateLimited o.code = true) (htoken : e.burst ≤ tnum e.spent o.code) (hi : foldTarget o e = some i)
    (hr : e.records[i]? = some r) (hroom : r.repeats < 32767) :
    let t := enterOcc brace trust cal o e
    t.next = e.next ∧ t.folds = sat 32 e.folds 1 ∧
      t.records = lmod e.records i (fun x => { x with repeats := x.repeats + 1, folded := true }) := by
  have hfold : enterOcc brace trust cal o e = foldInto i { e with buffer := e.buffer + 1 } := by
    rw [enterOcc_taken (.inl h), hmerges, if_neg Bool.false_ne_true, if_pos hlimited, if_neg (by omega), hi]
  have hopen : ¬ (e.records[i]?).elim 0 (·.repeats) ≥ 32767 := by
    rw [hr]
    exact Nat.not_le.mpr hroom
  rw [hfold, foldInto, if_neg hopen]
  exact ⟨rfl, rfl, rfl⟩

/-- The record that an occurrence folds into is of its code and drawer (R433). -/
theorem foldTarget_same {i : Nat} {r : EvRecord} (hi : foldTarget o e = some i) (hr : e.records[i]? = some r) :
    r.code = o.code ∧ r.drawer = o.drawer := by
  unfold foldTarget at hi
  obtain ⟨p, hp, rfl⟩ := Option.map_eq_some_iff.mp hi
  obtain ⟨hmem, hsame⟩ := List.mem_filter.mp (List.mem_of_getLast? hp)
  have hat : e.records[p.1]? = some p.2 := by
    obtain ⟨k, hk, rfl⟩ := List.mem_iff_getElem.mp hmem
    simp [enum]
  obtain rfl : p.2 = r := Option.some.inj (hat.symm.trans hr)
  simp only [Bool.and_eq_true, decide_eq_true_eq] at hsame
  exact ⟨hsame.1.1, hsame.1.2⟩

end

/-! ### The store after an occurrence -/

section
variable {o : Occ} {s : State} (hcycle : s.evr.cycle = none) (hruns : s.evr.running = true)
include hcycle hruns

theorem raise_dropped (hfull : 256 ≤ s.evr.buffer) (hcode : o.code ≠ 0x0021) :
    (raise o s).evr = { s.evr with drops := sat 32 s.evr.drops 1, dropped := s.evr.dropped + 1 } := by
  have hentered : enteredEvr o s = _ := enterOcc_dropped hfull hcode
  rw [← hentered]
  exact raise_evr_of_next hcycle hruns (by rw [hentered])

theorem raise_merged (hroom : s.evr.buffer < 256) (hmerges : mergesHead o s.evr = true) :
    (raise o s).evr = mergeHead { s.evr with buffer := s.evr.buffer + 1 } := by
  have hentered : enteredEvr o s = _ := enterOcc_merges hroom hmerges
  rw [← hentered]
  exact raise_evr_of_next hcycle hruns (by rw [hentered]; rfl)

/-- An occurrence becomes one record, where store and egress table have room. -/
theorem raise_written (hroom : s.evr.buffer < 256 ∨ o.code = 0x0021) (hmerges : mergesHead o s.evr = false)
    (hstore : s.evr.records.length < storeCap) (hegress : tracked s.hie.egress < 4096)
    (htoken : rateLimited o.code = false ∨ tnum s.evr.spent o.code < s.evr.burst) :
    (raise o s).evr.records = s.evr.records ++ [occRecord (trustByte s) (calNow s) o s.evr] ∧
      (raise o s).evr.next = (s.evr.next + 1) % 2 ^ 32 ∧ (raise o s).evr.drops = s.evr.drops ∧
      (rateLimited o.code = false → (raise o s).evr.spent = s.evr.spent) ∧ (raise o s).evr.folds = s.evr.folds ∧
      (raise o s).evr.archive = s.evr.archive := by
  obtain ⟨spent, hentered, hspent⟩ :=
    enterOcc_writes (brace := s.sys.brace) (trust := trustByte s) (cal := calNow s) hroom hmerges htoken
  obtain ⟨hrecords, hnext, hdrops, hbuckets, hfolds, harchive, -⟩ := writeRecord_room s.sys.brace (trustByte s) (calNow s) o
    (e := { s.evr with buffer := s.evr.buffer + 1, spent := spent }) hstore
  rw [← hentered] at hrecords hnext hdrops hbuckets hfolds harchive
  rw [raise_evr_of_room hcycle hruns hnext hegress]
  exact ⟨hrecords, hnext, hdrops, fun hfree => hbuckets.trans (hspent hfree), hfolds, harchive⟩

end

/-- Settles O36: every case of an occurrence by the case of `enterOcc` it is; what it forwards raises nothing where the
egress arbiter has room, `forwardBy_room`. That 0x0021 is no drop is the model's choice (log entry 5). -/
theorem occurrenceEntry : Obligations.OccurrenceEntry := by
  unfold Obligations.OccurrenceEntry
  refine ⟨fun o s => State.eq_of_event (raise_frame o s), fun o s hcycle => ⟨fun hruns => ?_, fun hruns => raise_dropped hcycle hruns,
    fun hruns hroom hmerges => ?_, fun hruns hroom hmerges hstore hegress htoken => ?_,
    fun i r hruns hroom hmerges hlimited htoken hi hr hrepeats => ?_⟩⟩
  case refine_1 => rw [raise_held hcycle hruns]
  case refine_2 =>
    rw [raise_merged hcycle hruns hroom hmerges]
    exact ⟨rfl, rfl⟩
  case refine_3 =>
    obtain ⟨hrecords, hnext, hdrops, -⟩ := raise_written hcycle hruns (.inl hroom) hmerges hstore hegress htoken
    exact ⟨hnext, hdrops, _, hrecords, rfl, rfl, rfl, rfl, rfl, rfl, rfl, rfl, rfl, rfl, rfl, rfl⟩
  case refine_4 =>
    obtain ⟨hnext, hfolds, hrecords⟩ := enterOcc_folds (brace := s.sys.brace) (trust := trustByte s) (cal := calNow s)
      hroom hmerges hlimited htoken hi hr hrepeats
    obtain ⟨hcode, hdrawer⟩ := foldTarget_same hi hr
    rw [raise_evr_of_next hcycle hruns hnext]
    exact ⟨hnext, hfolds, hcode, hdrawer, hrecords⟩

/-- The list of R581, as ranges. -/
theorem rateLimited_iff (code : Nat) : rateLimited code = true ↔
    code = 0x4004 ∨ code = 0x5004 ∨ (0x8001 ≤ code ∧ code ≤ 0x8005) ∨ code = 0x9005 ∨ code = 0xA006 ∨ code = 0xA007 ∨
      code = 0xA009 ∨ (0xB004 ≤ code ∧ code ≤ 0xB007) ∨ code = 0xB00B ∨ code = 0xB00C ∨ code = 0xF009 ∨ code = 0xF012 := by
  simp only [rateLimited, limitedCodes, List.mem_cons, List.not_mem_nil, or_false, decide_eq_true_eq]
  omega

/-- Settles O35: the codes by `rateLimited_iff`; an occurrence of another code merges, `raise_merged`, or is one record,
`raise_written`. -/
theorem rateLimitedCodes : Obligations.RateLimitedCodes := by
  unfold Obligations.RateLimitedCodes
  refine ⟨rateLimited_iff, fun o s hfree hruns hcycle hroom hstore hegress => ?_⟩
  cases hmerges : mergesHead o s.evr with
  | true =>
    rw [raise_merged hcycle hruns hroom hmerges]
    exact ⟨rfl, rfl, fun _ => rfl, nofun⟩
  | false =>
    obtain ⟨hrecords, -, -, hspent, hfolds, -⟩ :=
      raise_written hcycle hruns (.inl hroom) hmerges hstore hegress (.inl hfree)
    exact ⟨hspent hfree, hfolds, nofun, fun _ => ⟨_, hrecords, rfl, rfl, rfl⟩⟩

end Sys2Proof.Machine
end

section
/-! PROOFS. Reading and clearing events, and the recorder's own commands (R428, R434 to R446), for O37 and O38. -/
namespace Sys2Proof.Machine

/-! ### The floor of the cursors (R438, R439) -/

theorem newRecord_floor (brace : Bool) (trust cal : Nat) (o : Occ) (repeats : Nat) (folded : Bool) (e : Evr) :
    (newRecord brace trust cal o repeats folded e).floor = e.floor := by
  unfold newRecord moveStart
  dsimp only
  (repeat' split) <;> rfl

theorem writeRecord_floor (brace : Bool) (trust cal : Nat) (o : Occ) (repeats : Nat) (folded : Bool) (e : Evr) :
    (writeRecord brace trust cal o repeats folded e).floor = e.floor := by
  unfold writeRecord
  dsimp only
  split <;> simp only [newRecord_floor]

theorem enterOcc_floor (brace : Bool) (trust cal : Nat) (o : Occ) (e : Evr) :
    (enterOcc brace trust cal o e).floor = e.floor := by
  unfold enterOcc foldInto mergeHead
  dsimp only
  (repeat' split) <;> simp only [writeRecord_floor]

theorem record_floor (o : Occ) (s : State) : (record_ o s).evr.floor = s.evr.floor := by
  unfold record_
  split <;> simp only [enterOcc_floor]

theorem noteArbBy_floor {note : Occ → State → State} (hnote : ∀ o s, (note o s).evr.floor = s.evr.floor) (m : Marzin)
    (dropped full : Bool) (s : State) : (noteArbBy note m dropped full s).evr.floor = s.evr.floor := by
  unfold noteArbBy
  dsimp only
  (repeat' split) <;> simp [hnote]

theorem ownUpBy_floor {note : Occ → State → State} (hnote : ∀ o s, (note o s).evr.floor = s.evr.floor) (drawer : Nat)
    (ackReq : Bool) (body : MarzinBody) (s : State) : (ownUpBy note drawer ackReq body s).evr.floor = s.evr.floor := by
  unfold ownUpBy sendUpBy
  split
  · exact noteArbBy_floor hnote ..
  · rfl

theorem forwardBy_floor {note : Occ → State → State} (hnote : ∀ o s, (note o s).evr.floor = s.evr.floor) (before : Nat)
    (s : State) : (forwardBy note before s).evr.floor = s.evr.floor := by
  unfold forwardBy
  split
  · refine List.foldlRecOn (motive := fun (t : State) => t.evr.floor = s.evr.floor) _ _ rfl (fun t ht r _ => ?_)
    split
    · rw [ownUpBy_floor hnote, ht]
    · exact ht
  · rfl

/-- An occurrence leaves the floor of the cursors, whatever it forwards. -/
theorem raise_floor (o : Occ) (s : State) : (raise o s).evr.floor = s.evr.floor := by
  have hraise (fuel : Nat) : ∀ (o : Occ) (s : State), (raiseBy fuel o s).evr.floor = s.evr.floor := by
    induction fuel with
    | zero => exact record_floor
    | succ n ih =>
      intro o s
      unfold raiseBy
      split
      · rfl
      · rw [forwardBy_floor ih, record_floor]
  exact hraise 66 o s

/-! ### Clearing (R439, R446) -/

/-- The occurrence of a clear. -/
def clearOcc (s : State) : Occ := { code := 0x0021, block := 0x0E, detail := s.evr.floor }

theorem clearRecords_floor (s : State) :
    (clearRecords s).evr.floor = s.evr.floor ∨ (clearRecords s).evr.floor = s.evr.next := by
  unfold clearRecords
  dsimp only
  split
  · exact .inl (raise_floor ..)
  · exact .inr rfl

/-- A clear writes its record 0x0021, in a full buffer too (log entry 5), and raises the floor to it. -/
theorem clearRecords_written {s : State} (hruns : s.evr.running = true) (hcycle : s.evr.cycle = none)
    (hstore : s.evr.records.length < storeCap) (hegress : tracked s.hie.egress < 4096) :
    (clearRecords s).evr.floor = s.evr.next ∧ (clearRecords s).evr.archive = s.evr.archive ∧
      (clearRecords s).evr.records = s.evr.records ++ [occRecord (trustByte s) (calNow s) (clearOcc s) s.evr] := by
  obtain ⟨hrecords, hnext, -, -, -, harchive⟩ := raise_written (o := clearOcc s) hcycle hruns (.inr rfl)
    (by simp [mergesHead, clearOcc]) hstore hegress (.inl (by simp [clearOcc, rateLimited, limitedCodes]))
  have hmoved : (raise (clearOcc s) s).evr.next ≠ s.evr.next := by
    rw [hnext]
    omega
  have hclear : clearRecords s = modEvr (fun e => { e with floor := s.evr.next }) (raise (clearOcc s) s) := if_neg hmoved
  rw [hclear]
  exact ⟨rfl, harchive, hrecords⟩

theorem exec_evrClear {v : Nat} (hkey : fld v 16 16 = 0x4A45) (hclear : v.testBit 0 = true) (s : State) :
    exec (.evrClear v) s = .next (clearRecords s) := by
  change Host.Outcome.next (clearWrite v s) = _
  rw [clearWrite, if_neg (not_not_intro hkey), if_pos hclear]

theorem exec_eventClear {core : Fin 16} {s : State} (hcaller : callerDrawer s core.val = some 0) :
    exec (.eventClear core) s = .next { clearRecords s with answer := .value 0 } := if_pos hcaller

theorem clearRecords_answered (a : Answer) (s : State) : { clearRecords s with answer := a } =
    { s with answer := a, evr := (clearRecords s).evr, hie := (clearRecords s).hie, fresh := (clearRecords s).fresh } :=
  congrArg (fun t : State => { t with answer := a }) (State.eq_of_event (clearRecords_frame s))

/-! ### The window (R437, R445) -/

/-- The window after the record `r`, archived or not, has entered it through the cursor `c`. -/
def windowOf (c : Nat) (r : EvRecord) (archived : Bool) (e : Evr) : Evr :=
  let v := settleCursor e (e.cursors.getD c 1)
  { e with
    cursors := lmod e.cursors c (fun _ => (r.recno + 1) % 2 ^ 32), skips := lmod e.skips c (fun _ => false)
    window := (List.range 8).map (fun i => w32 (f32 (recordBytes r) (4 * i))), wrecno := r.recno
    wstat := w32 (2 ^ 31 + bit (v.2 || e.skips.getD c false) * 2 ^ 30 +
      bit (e.headOpen && e.records.getLast?.elim false (fun h => h.recno = r.recno)) * 2 ^ 29 + bit archived * 2 ^ 28 + c) }

theorem latchWindow_found {c : Nat} {e : Evr} {r : EvRecord} {a : Bool}
    (h : findRecord e c (settleCursor e (e.cursors.getD c 1)).1 = some (r, a)) : latchWindow c e = windowOf c r a e := by
  have hfind (u : List Nat) (w : List Bool) (v : Nat) : findRecord { e with cursors := u, skips := w } c v = findRecord e c v := rfl
  unfold latchWindow windowOf
  dsimp only
  rw [hfind, h]
  dsimp only
  rw [lmod_lmod]

/-- A read of the window leaves the store, the archive and the floor. -/
theorem latchWindow_store (c : Nat) (e : Evr) :
    (latchWindow c e).records = e.records ∧ (latchWindow c e).archive = e.archive ∧ (latchWindow c e).next = e.next ∧
      (latchWindow c e).floor = e.floor := by
  unfold latchWindow
  dsimp only
  split <;> exact ⟨rfl, rfl, rfl, rfl⟩

theorem windowOf_valid {c : Nat} (hc : c < 32) (r : EvRecord) (a : Bool) (e : Evr) :
    (windowOf c r a e).wstat.toNat.testBit 31 = true := by
  have hbit (b : Bool) : bit b ≤ 1 := by cases b <;> decide
  have hvalid (p q t : Bool) : (w32 (2 ^ 31 + bit p * 2 ^ 30 + bit q * 2 ^ 29 + bit t * 2 ^ 28 + c)).toNat.testBit 31 = true := by
    have hp := hbit p
    have hq := hbit q
    have ht := hbit t
    simp only [w32, BitVec.toNat_ofNat, Nat.testBit_eq_decide_div_mod_eq, decide_eq_true_eq]
    omega
  exact hvalid _ _ _

/-- The recorder after a read of a drawer: its cursor is selected, and the next record of it is in the window. -/
theorem exec_eventRead_found {core : Fin 16} {d : Nat} {r : EvRecord} {a : Bool} {s : State}
    (hcaller : callerDrawer s core.val = some d) (hd : d < 32)
    (h : findRecord s.evr d (settleCursor s.evr (s.evr.cursors.getD d 1)).1 = some (r, a)) :
    exec (.eventRead core) s = .next { s with
      evr := windowOf d r a { s.evr with select := d }
      answer := .bytes (((List.range 8).map (fun i => w32 (f32 (recordBytes r) (4 * i)))).flatMap
        (fun w => leBytes 4 w.toNat)) } := by
  have hlatch : latchWindow d { s.evr with select := d } = windowOf d r a { s.evr with select := d } := latchWindow_found h
  change execEventRead core s = _
  unfold execEventRead
  rw [hcaller]
  dsimp only [modEvr]
  rw [hlatch, if_pos (windowOf_valid hd ..)]
  rfl

/-- A read of a drawer answers, and changes its window, its cursor and the answer alone. -/
theorem exec_eventRead {core : Fin 16} {d : Nat} {s : State} (hcaller : callerDrawer s core.val = some d) :
    ∃ a, exec (.eventRead core) s = .next { s with evr := latchWindow d { s.evr with select := d }, answer := a } ∧
      a ≠ .refused := by
  suffices ∃ a, execEventRead core s = .next { s with evr := latchWindow d { s.evr with select := d }, answer := a } ∧
      a ≠ .refused from this
  unfold execEventRead
  rw [hcaller]
  dsimp only [modEvr]
  split
  · exact ⟨_, rfl, nofun⟩
  · exact ⟨_, rfl, nofun⟩

theorem exec_eventSeek {core : Fin 16} {d v : Nat} {s : State} (hcaller : callerDrawer s core.val = some d) :
    exec (.eventSeek core v) s = .next { s with evr := writeCursor d v s.evr } := by
  change execEventSeek core v s = _
  rw [execEventSeek, hcaller]
  rfl

theorem exec_eventNext {core : Fin 16} {d : Nat} {s : State} (hcaller : callerDrawer s core.val = some d) :
    exec (.eventNext core) s = .next { s with answer := .value (settleCursor s.evr (s.evr.cursors.getD d 1)).1 } := by
  change execEventNext core s = _
  rw [execEventNext, hcaller]

/-- Settles O38: the window by `latchWindow_found`, a clear by `clearRecords_written`. -/
theorem eventReadingAndClearing : Obligations.EventReadingAndClearing := by
  unfold Obligations.EventReadingAndClearing
  refine ⟨fun r a s hfind => ?_, fun core d r a s hcaller hd hfind => ?_, fun c v s => ⟨_, rfl, rfl, rfl, rfl⟩,
    fun core d v s hcaller => ⟨⟨_, exec_eventSeek hcaller, rfl, rfl, rfl⟩, exec_eventNext hcaller⟩,
    fun v s hkey hclear hruns hcycle hstore hegress => ?_, fun core s hcaller hruns hcycle hstore hegress => ?_,
    fun core d s hcaller hd => if_neg ?_, fun v s hkey => congrArg Host.Outcome.next (if_pos hkey)⟩
  case refine_1 =>
    have hlatch : exec .eventWindowLatch s = .next { s with
        evr := latchWindow s.evr.select s.evr, answer := .value ((latchWindow s.evr.select s.evr).window.headD 0).toNat } := rfl
    rw [latchWindow_found hfind] at hlatch
    exact ⟨_, hlatch, rfl, rfl, rfl, rfl, fun k hk => getElem?_lmod_other _ _ hk, rfl, rfl, rfl⟩
  case refine_2 =>
    exact ⟨_, exec_eventRead_found hcaller hd hfind, rfl, rfl, rfl, rfl, fun k hk => getElem?_lmod_other _ _ hk, rfl, rfl, rfl⟩
  case refine_3 =>
    obtain ⟨hfloor, harchive, hrecords⟩ := clearRecords_written hruns hcycle hstore hegress
    exact ⟨_, _, exec_evrClear hkey hclear s, hfloor, hrecords, rfl, rfl, harchive, State.eq_of_event (clearRecords_frame s)⟩
  case refine_4 =>
    obtain ⟨hfloor, -, hrecords⟩ := clearRecords_written hruns hcycle hstore hegress
    exact ⟨_, _, exec_eventClear hcaller, rfl, hfloor, hrecords, rfl, clearRecords_answered _ s⟩
  case refine_5 => simpa [hcaller] using hd

/-! ### The recorder's own commands (R428, R430 to R434) -/

theorem drainBuffer_bufferNew (s : State) : (drainBuffer s).evr.bufferNew = 0 := by
  unfold drainBuffer
  dsimp only
  split <;> rfl

/-- With no drop due the buffer empties without a record. -/
theorem drainBuffer_records {s : State} (h : s.evr.dropped = 0) : (drainBuffer s).evr.records = s.evr.records := by
  simp [drainBuffer, h]

theorem moveStart_store (brace : Bool) (e : Evr) : (moveStart brace e).records = e.records ∧
    (moveStart brace e).archive = e.archive ∧ (moveStart brace e).next = e.next := by
  unfold moveStart
  (repeat' split) <;> exact ⟨rfl, rfl, rfl⟩

theorem exec_batchMoveDone_idle {s : State} (h : s.evr.moving = false ∨ s.sys.nandPaused = true) :
    exec .batchMoveDone s = .next s := by
  refine if_neg ?_
  rcases h with h | h
  · simp [h]
  · simp [h]

/-- The recorder once a batch has moved, before the next may start. -/
def batchMoved (e : Evr) : Evr :=
  let batch := e.records.take 4096
  let arch := if e.archive.length + batch.length > archiveCap then e.archive.drop 4096 else e.archive
  { e with records := e.records.drop 4096, archive := arch ++ batch, moving := false, full := false }

theorem batchMoved_archive {e : Evr} (h : e.archive.length ≤ archiveCap - 4096) :
    (batchMoved e).archive = e.archive ++ e.records.take 4096 := by
  have hfits : ¬ e.archive.length + (e.records.take 4096).length > archiveCap := by
    have hbatch := List.length_take_le 4096 e.records
    unfold archiveCap at *
    omega
  rw [batchMoved]
  dsimp only
  rw [if_neg hfits]

theorem exec_batchMoveDone {s : State} (hmoving : s.evr.moving = true) (hwriting : s.sys.nandPaused = false) :
    exec .batchMoveDone s = .next { s with evr := moveStart s.sys.brace (batchMoved s.evr) } :=
  if_pos (by simp [hmoving, hwriting])

theorem writeCursor_other {c k : Nat} (v : Nat) (e : Evr) (h : k ≠ c) : (writeCursor c v e).cursors[k]? = e.cursors[k]? :=
  getElem?_lmod_other _ _ h

/-- Settles O37: a read keeps the store by `latchWindow_store`, a clear the floor or moves it by `clearRecords_floor`. -/
theorem recorderUpkeep : Obligations.RecorderUpkeep := by
  unfold Obligations.RecorderUpkeep
  refine ⟨fun code b u d x s h => if_pos h, fun code b u d x s h => if_neg (by simp [h]), fun s => ?_, fun _ => rfl, fun _ _ => rfl,
    fun _ => rfl, fun s => exec_batchMoveDone_idle, fun s hmoving hwriting => ?_, fun s => ?_, fun c v s => ?_,
    fun core d v s hcaller => ⟨?_, ?_, ?_⟩, fun s => ?_, fun core s hcaller => ?_⟩
  case refine_1 =>
    exact ⟨_, rfl, drainBuffer_buffer s, drainBuffer_bufferNew s, drainBuffer_records, State.eq_of_event (drainBuffer_frame s)⟩
  case refine_2 =>
    obtain ⟨hrecords, harchive, hnext⟩ := moveStart_store s.sys.brace (batchMoved s.evr)
    exact ⟨_, exec_batchMoveDone hmoving hwriting, hrecords, fun hfits => harchive.trans (batchMoved_archive hfits), hnext, rfl⟩
  case refine_3 =>
    obtain ⟨hrecords, harchive, hnext, hfloor⟩ := latchWindow_store s.evr.select s.evr
    exact ⟨_, rfl, hrecords, harchive, hnext, hfloor, rfl⟩
  case refine_4 => exact ⟨_, rfl, fun k hk => writeCursor_other v s.evr hk, rfl⟩
  case refine_5 =>
    obtain ⟨a, hexec, ha⟩ := exec_eventRead hcaller
    obtain ⟨hrecords, harchive, hnext, hfloor⟩ := latchWindow_store d { s.evr with select := d }
    exact ⟨_, hexec, ha, hrecords, harchive, hnext, hfloor, rfl⟩
  case refine_6 => exact ⟨_, exec_eventSeek hcaller, fun k hk => writeCursor_other v s.evr hk, rfl⟩
  case refine_7 => exact ⟨_, exec_eventNext hcaller, nofun, rfl⟩
  case refine_8 =>
    exact ⟨_, exec_evrClear (by decide) (by decide) s, clearRecords_floor s, State.eq_of_event (clearRecords_frame s)⟩
  case refine_9 =>
    exact ⟨_, exec_eventClear hcaller, rfl, clearRecords_floor s, clearRecords_answered _ s⟩

end Sys2Proof.Machine
end

section
/-! PROOFS. The key core: requests start and end, masking, the random source, the tamper loop (R464 to R491), for O40 to O43. -/
namespace Sys2Proof.Machine

/-! ### A request starts (R466, R484) -/

/-- A cell derived again changes the cells and takes free values. -/
theorem refreshCell_eq (i : Nat) (s : State) : refreshCell i s =
    { s with fresh := (refreshCell i s).fresh, key := { s.key with cells := (refreshCell i s).key.cells } } := by
  unfold refreshCell deriveCell
  dsimp only
  (repeat' split) <;> rfl

/-- The key core takes the front request: it captures what the request uses, and no more of the block changes. -/
theorem startNext_front {s : State} {r : KeyReq} {rest : List KeyReq} (hidle : s.key.running = none)
    (hqueue : s.key.queue = r :: rest) : ∃ (n : Nat) (cells : List Cell) (q : KeyReq), startNext s = { s with
      fresh := n, key := { s.key with cells := cells, queue := rest, running := some q } } ∧
      q = { r with reason := q.reason, cell := q.cell, key := q.key, gen := q.gen } := by
  have htakes (t : State) (ht : t = { s with fresh := t.fresh, key := { s.key with cells := t.key.cells } }) (q : KeyReq) :
      modKey (fun k => { k with queue := rest, running := some q }) t =
        { s with fresh := t.fresh, key := { s.key with cells := t.key.cells, queue := rest, running := some q } } := by
    conv_lhs => rw [ht]
    rfl
  have hcells : ∀ i : Option Nat, i.elim s (fun i => refreshCell i s) = { s with
      fresh := (i.elim s (fun i => refreshCell i s)).fresh
      key := { s.key with cells := (i.elim s (fun i => refreshCell i s)).key.cells } }
    | none => rfl
    | some i => refreshCell_eq i s
  unfold startNext
  rw [hidle, hqueue]
  exact ⟨_, _, _, htakes _ (hcells _) _, rfl⟩

theorem startNext_empty {s : State} (hqueue : s.key.queue = []) : startNext s = s := by
  unfold startNext
  rw [hqueue]
  split <;> rfl

/-- A request that finds the key core idle runs. -/
theorem enqueue_idle {s : State} (r : KeyReq) (hidle : s.key.running = none) (hqueue : s.key.queue = []) :
    ∃ (n : Nat) (cells : List Cell) (q : KeyReq), enqueue r s = (true, { s with
      fresh := n, key := { s.key with cells := cells, queue := [], running := some q } }) ∧
      q = { r with reason := q.reason, cell := q.cell, key := q.key, gen := q.gen } := by
  have hjoins : enqueue r s = (true, startNext { s with key := { s.key with queue := [r] } }) := by
    simp [enqueue, hqueue, modKey]
  obtain ⟨n, cells, q, hstart, hq⟩ := startNext_front (s := { s with key := { s.key with queue := [r] } }) hidle rfl
  exact ⟨n, cells, q, hjoins.trans (congrArg (Prod.mk true) hstart), hq⟩

/-- With 16 requests waiting none joins. -/
theorem enqueue_full {s : State} (r : KeyReq) (h : 16 ≤ s.key.queue.length) : enqueue r s = (false, s) := if_pos h

/-! ### The mailbox (R472, R477) -/

/-- The request of a command of the mailbox. -/
def commandReq (op rsp : Nat) (payload sig : List Byte) (s : State) : KeyReq :=
  { op := .command op rsp payload sig, stmt := if op = 1 then statementOf payload s else [] }

/-- A command that finds mailbox and key core idle runs as the request of the key core. -/
theorem keyCommand_taken {op rsp : Nat} {payload sig : List Byte} {s : State} (hfree : s.key.cmdState ≠ 1)
    (hidle : s.key.running = none) (hqueue : s.key.queue = []) :
    ∃ (n : Nat) (cells : List Cell) (q : KeyReq), keyCommand op rsp payload sig s = { s with
      fresh := n
      key := { s.key with
        cmdState := 1, cmdReason := 0, cmdOp := op % 256, rspLen := 0, cells := cells, queue := [], running := some q } } ∧
      q = { commandReq op rsp payload sig s with reason := q.reason, cell := q.cell, key := q.key, gen := q.gen } := by
  obtain ⟨n, cells, q, hstart, hq⟩ := enqueue_idle
    (s := { s with key := { s.key with cmdState := 1, cmdReason := 0, cmdOp := op % 256, rspLen := 0 } })
    (commandReq op rsp payload sig s) hidle hqueue
  refine ⟨n, cells, q, ?_, hq⟩
  have htaken : keyCommand op rsp payload sig s =
      (fun p : Bool × State => if p.1 then p.2 else commandRefused op 8 s) (enqueue (commandReq op rsp payload sig s)
        { s with key := { s.key with cmdState := 1, cmdReason := 0, cmdOp := op % 256, rspLen := 0 } }) := if_neg hfree
  rw [htaken, hstart]
  exact if_pos rfl

theorem mailboxTakes_of_keyCommand {c : Instr} {op code rsp : Nat} {payload sig : List Byte} (hcode : op % 256 = code)
    (hexec : ∀ s, exec c s = .next (keyCommand op rsp payload sig s)) : MailboxTakes c op code rsp payload sig := by
  intro s hfree hidle hqueue
  obtain ⟨n, cells, q, htaken, hq⟩ := keyCommand_taken (op := op) (rsp := rsp) (payload := payload) (sig := sig) hfree hidle hqueue
  refine ⟨_, q, (hexec s).trans (congrArg Host.Outcome.next htaken), rfl, hcode, rfl, ?_, ?_, rfl, rfl, rfl⟩
  · rw [hq]
    rfl
  · rw [hq]
    rfl

/-- Settles O40: each command is `keyCommand` with its operands, and `keyCommand_taken`. -/
theorem mailboxCommands : Obligations.MailboxCommands := by
  unfold Obligations.MailboxCommands
  exact ⟨fun _ _ => mailboxTakes_of_keyCommand rfl fun _ => rfl, fun _ _ _ => mailboxTakes_of_keyCommand rfl fun _ => rfl,
    fun _ _ _ => mailboxTakes_of_keyCommand rfl fun _ => rfl, fun _ => mailboxTakes_of_keyCommand rfl fun _ => rfl,
    fun _ => mailboxTakes_of_keyCommand rfl fun _ => rfl, fun _ => mailboxTakes_of_keyCommand rfl fun _ => rfl⟩

/-! ### The key services (R464 to R467, R471) -/

/-- The request of a task. -/
def taskReq (c : Nat) (op : KeyOp) (n : Nat) (s : State) : KeyReq :=
  { op := op, asker := some (c, n), drawer := taskDrawer s n
    stmt := match op with | .statement x => statementOf x s | _ => [] }

section
variable {c n : Nat} {k : Stroke} {y : Copy} {s : State} (hdriven : drivenBy s c = some (n, k, y))
include hdriven

theorem askKey_driven (op : KeyOp) : askKey c op s =
    { (enqueue (taskReq c op n s) s).2 with answer := if (enqueue (taskReq c op n s) s).1 then .none else .reason 8 } := by
  unfold askKey
  rw [hdriven]
  cases op <;> rfl

/-- A task's request that finds the key core idle runs. -/
theorem askKey_idle (op : KeyOp) (hidle : s.key.running = none) (hqueue : s.key.queue = []) :
    ∃ (m : Nat) (cells : List Cell) (q : KeyReq), askKey c op s = { s with
      answer := .none, fresh := m, key := { s.key with cells := cells, queue := [], running := some q } } ∧
      q = { taskReq c op n s with reason := q.reason, cell := q.cell, key := q.key, gen := q.gen } := by
  obtain ⟨m, cells, q, hstart, hq⟩ := enqueue_idle (taskReq c op n s) hidle hqueue
  refine ⟨m, cells, q, ?_, hq⟩
  rw [askKey_driven hdriven, hstart]
  rfl

theorem askKey_full (op : KeyOp) (h : 16 ≤ s.key.queue.length) : askKey c op s = { s with answer := .reason 8 } := by
  rw [askKey_driven hdriven, enqueue_full _ h]
  rfl

end

theorem serviceTakes_of_askKey {c : Fin 16 → Instr} {op : KeyOp}
    (hexec : ∀ core s, exec (c core) s = .next (askKey core.val op s)) : ServiceTakes c op := by
  intro core n k y s hdriven hidle hqueue
  obtain ⟨m, cells, q, hasks, hq⟩ := askKey_idle hdriven op hidle hqueue
  refine ⟨_, q, (hexec core s).trans (congrArg Host.Outcome.next hasks), rfl, rfl, ?_, ?_, ?_, rfl, rfl⟩
  · rw [hq]
    rfl
  · rw [hq]
    rfl
  · rw [hq]
    rfl

/-- Settles O41: each service is `askKey` with its operands, `askKey_idle` and `askKey_full`. That KEY_BRANCH answers without
the queue is the model's choice (log entry 14). -/
theorem keyServices : Obligations.KeyServices := by
  unfold Obligations.KeyServices
  refine ⟨fun _ _ => serviceTakes_of_askKey fun _ _ => rfl, fun _ _ => serviceTakes_of_askKey fun _ _ => rfl,
    fun _ _ => serviceTakes_of_askKey fun _ _ => rfl, fun _ => serviceTakes_of_askKey fun _ _ => rfl,
    fun _ => serviceTakes_of_askKey fun _ _ => rfl, fun _ _ => serviceTakes_of_askKey fun _ _ => rfl,
    fun core nonce n k y s hdriven hdrawer hidle hqueue => ?_, fun core n k y s hdriven => ?_,
    fun core h n k y s hdriven hfull => congrArg Host.Outcome.next (askKey_full hdriven _ hfull)⟩
  · obtain ⟨m, cells, q, hasks, hq⟩ := askKey_idle hdriven (.statement nonce) hidle hqueue
    have hexec : exec (.attest core nonce) s = .next (askKey core.val (.statement nonce) s) := by
      change execAttest core nonce s = _
      rw [execAttest, hdriven]
      exact if_pos hdrawer
    refine ⟨_, q, hexec.trans (congrArg Host.Outcome.next hasks), rfl, rfl, ?_, ?_, rfl⟩
    · rw [hq]
      rfl
    · rw [hq]
      rfl
  · change execKeyBranch core s = _
    rw [execKeyBranch, hdriven]

/-! ### A request ends (R466, R470) -/

/-- The end of a request re-masks cells and lets the next request start; no more of the block changes. -/
theorem endRequest_eq (s : State) : ∃ (n : Nat) (cells : List Cell) (queue : List KeyReq) (running : Option KeyReq),
    endRequest s = { s with
      fresh := n, key := { s.key with cells := cells, queue := queue, running := running, lateMask := [] } } ∧
      (s.key.queue = [] → running = none) := by
  unfold endRequest
  extract_lets t
  have ht : t = { s with fresh := t.fresh, key := { s.key with cells := t.key.cells } } :=
    List.foldlRecOn (motive := fun t : State => t = { s with fresh := t.fresh, key := { s.key with cells := t.key.cells } })
      s.key.lateMask _ rfl (fun t ht i _ => by conv_lhs => { rw [ht] }; rfl)
  have hends : modKey (fun k => { k with running := none, lateMask := [] }) t =
      { s with fresh := t.fresh, key := { s.key with cells := t.key.cells, running := none, lateMask := [] } } := by
    conv_lhs => rw [ht]
    rfl
  rw [hends]
  cases hqueue : s.key.queue with
  | nil =>
    refine ⟨t.fresh, t.key.cells, [], none, (startNext_empty ?_).trans ?_, fun _ => rfl⟩
    · exact hqueue
    · rw [← hqueue]
  | cons r rest =>
    obtain ⟨n, cells, q, hstart, -⟩ := startNext_front (r := r) (rest := rest)
      (s := { s with fresh := t.fresh, key := { s.key with cells := t.key.cells, running := none, lateMask := [] } }) rfl hqueue
    exact ⟨n, cells, rest, some q, hstart, nofun⟩

/-- What the end of a request leaves of a KEY block: its fuses and slots, the life cycle, and the mailbox. -/
abbrev Key.KeepsCommand (t k : Key) : Prop :=
  t.fuses = k.fuses ∧ t.slots = k.slots ∧ t.lc = k.lc ∧ t.pending = k.pending ∧ t.target = k.target ∧ t.fusing = k.fusing ∧
    t.cmdState = k.cmdState ∧ t.cmdReason = k.cmdReason

@[simp] theorem endRequest_keepsCommand (s : State) : (endRequest s).key.KeepsCommand s.key := by
  obtain ⟨n, cells, queue, running, hend, -⟩ := endRequest_eq s
  rw [hend]
  exact ⟨rfl, rfl, rfl, rfl, rfl, rfl, rfl, rfl⟩

section
variable {r : KeyReq} {s : State} (hrun : s.key.running = some r) (hfuse : s.key.fusing = none) (hasked : r.withdrawn = false)
include hrun hfuse hasked

/-- A request that was accepted ends with its result. -/
theorem finishRequest_accepted (haccepted : r.reason = 0) (hburns : (requestResult r s).key.fusing = none) :
    exec .keyRequestDone s = .next (endRequest (requestResult r s)) := by
  change Host.Outcome.next (finishRequest s) = _
  unfold finishRequest
  rw [hrun]
  simp [hfuse, hasked, haccepted, hburns]

/-- A command that was refused ends with its reason. -/
theorem finishRequest_refused {op rsp : Nat} {p sig : List Byte} (hrefused : r.reason ≠ 0) (hop : r.op = .command op rsp p sig) :
    exec .keyRequestDone s = .next (endRequest (commandRefused op r.reason s)) := by
  change Host.Outcome.next (finishRequest s) = _
  unfold finishRequest
  rw [hrun]
  simp [hfuse, hasked, hrefused, hop]

end

/-- An enrolment writes its slot, and its command is done. -/
theorem requestResult_enrol {r : KeyReq} {rsp : Nat} {p sig : List Byte} (hop : r.op = .command 3 rsp p sig) (s : State) :
    requestResult r s = commandDone 0 (setSlot (f8 p 0) (p.drop 4) true s) := by
  rw [requestResult, hop]
  rfl

/-- The KEY block once an enrolment is done (R472). -/
theorem enrolled_key (n : Nat) (key : List Byte) (s : State) : (commandDone 0 (setSlot n key true s)).key =
    { s.key with
      cmdState := 2, cmdReason := 0, rspLen := 0
      slots := lmod s.key.slots n (fun x => { key := key, changes := sat 8 x.changes 1 }) } := by
  unfold commandDone setSlot modKey
  dsimp only
  rw [keyEvent_key]
  rfl

theorem commandRefused_key (op reason : Nat) (s : State) : (commandRefused op reason s).key =
    { s.key with cmdState := 3, cmdReason := reason, cmdOp := op % 256, rspLen := 0 } := keyEvent_key ..

/-- The state in which the programming of fuse bit `n - 1` is done (R475). -/
def fuseDone (n : Nat) (s : State) : State :=
  commandDone 0 (keyEvent 0xD005 (s.key.lc * 2 ^ 8 + n)
    (modKey (fun k => { k with fuses := bset k.fuses (n - 1), pending := true, target := n, fusing := none }) s))

theorem fuseDone_key (n : Nat) (s : State) : (fuseDone n s).key = { s.key with
    fuses := bset s.key.fuses (n - 1), pending := true, target := n, fusing := none
    cmdState := 2, cmdReason := 0, rspLen := 0 } := by
  unfold fuseDone commandDone modKey
  dsimp only
  rw [keyEvent_key]

theorem exec_fuseProgrammed {n : Nat} {s : State} (hfuse : s.key.fusing = some n) :
    exec .fuseProgrammed s = .next (endRequest (fuseDone n s)) := by
  change execFuseProgrammed s = _
  rw [execFuseProgrammed, hfuse]
  rfl

/-- Settles O42: what a request leaves is its own result, for the end of a request changes cells and queue only
(`endRequest_eq`). -/
theorem keyResults : Obligations.KeyResults := by
  unfold Obligations.KeyResults
  refine ⟨fun r h l s hrun hfuse hasked haccepted hop => ?_, fun r p sig s hrun hfuse hasked haccepted hop => ?_,
    fun r op rsp p sig s hrun hfuse hasked hrefused hop => ?_, fun n s hfuse => ?_⟩
  case refine_1 =>
    have hresult : requestResult r s = { s with answer := .bytes (Config.shake256 (keyBytes r.key ++ l) 32) } := by
      rw [requestResult, hop]
    have hexec := finishRequest_accepted hrun hfuse hasked haccepted (by rw [hresult]; exact hfuse)
    rw [hresult] at hexec
    obtain ⟨n, cells, queue, running, hend, hlast⟩ :=
      endRequest_eq { s with answer := .bytes (Config.shake256 (keyBytes r.key ++ l) 32) }
    exact ⟨_, hexec.trans (congrArg Host.Outcome.next hend), rfl, hlast, rfl, rfl⟩
  case refine_2 =>
    have hkey := enrolled_key (f8 p 0) (p.drop 4) s
    have hexec := finishRequest_accepted hrun hfuse hasked haccepted (by rw [requestResult_enrol hop, hkey]; exact hfuse)
    rw [requestResult_enrol hop] at hexec
    exact ⟨_, hexec, by simp [hkey], by simp [hkey], by simp [hkey], by simp [hkey],
      State.eq_of_fields (by simp [State.OnlyFreshEvrHie]) rfl rfl rfl⟩
  case refine_3 =>
    have hkey := commandRefused_key op r.reason s
    exact ⟨_, finishRequest_refused hrun hfuse hasked hrefused hop, by simp [hkey], by simp [hkey], by simp [hkey],
      by simp [hkey], State.eq_of_fields (by simp [State.OnlyFreshEvrHie]) rfl rfl rfl⟩
  case refine_4 =>
    exact ⟨_, exec_fuseProgrammed hfuse, by simp [fuseDone_key], by simp [fuseDone_key], by simp [fuseDone_key],
      by simp [fuseDone_key], by simp [fuseDone_key], by simp [fuseDone_key],
      State.eq_of_fields (by simp [State.OnlyFreshEvrHie, fuseDone]) rfl rfl rfl⟩

/-! ### Masking (R470) -/

/-- The shares of a cell under one more mask. -/
def maskCell (m : BitVec 512) (c : Cell) : Cell := { c with shareA := c.shareA ^^^ m, shareB := c.shareB ^^^ m }

/-- A round that masks some of the cells in use leaves every key. -/
theorem cellKey_masked (f : Nat → Cell → Bool) (mask : Nat → BitVec 512) (k : Key) (i : Nat) :
    cellKey { k with cells := (enum k.cells).map (fun p => if f p.1 p.2 then maskCell (mask p.1) p.2 else p.2) } i = cellKey k i := by
  have hmask (c : Cell) (m : BitVec 512) : (c.shareA ^^^ m) ^^^ (c.shareB ^^^ m) = c.shareA ^^^ c.shareB := by
    rw [BitVec.xor_comm c.shareB m, BitVec.xor_assoc, ← BitVec.xor_assoc m m, BitVec.xor_self, BitVec.zero_xor]
  simp only [cellKey, cell, List.getD_eq_getElem?_getD, getElem?_map_enum]
  cases k.cells[i]? with
  | none => rfl
  | some c =>
    cases hf : f i c with
    | false => simp [hf]
    | true => simp [hf, maskCell, hmask]

/-! ### The tamper loop (R481, R482) -/

theorem abortKey_tamper (report : Bool) (s : State) : (abortKey report s).key.tamper = s.key.tamper := by
  have hwipes (l : List Nat) (k : Key) : (l.foldl (fun k i => wipeCell i k) k).tamper = k.tamper :=
    List.foldlRecOn (motive := fun t : Key => t.tamper = k.tamper) l _ rfl (fun _ ht _ _ => ht)
  unfold abortKey
  dsimp only
  (repeat' split) <;> simp only [modKey, hwipes, draw, keyEvent_key]

/-- What a detection leaves in the tamper record, at whatever moment it falls. -/
theorem detect_tamper (cause : Nat) (s : State) : ∃ startUp dormant mode,
    (detect cause s).key.tamper = noteTamper cause s.key.tamper startUp dormant mode s.rtc.seconds := by
  have hwipes (l : List Nat) (k : Key) :
      (l.foldl (fun k i => if (cell k i).used then wipeCell i k else k) k).tamper = k.tamper :=
    List.foldlRecOn (motive := fun t : Key => t.tamper = k.tamper) l _ rfl (fun t ht i _ => by split <;> exact ht)
  unfold detect
  extract_lets dormant startUp mode marked reported aborted wiped sys held
  refine ⟨startUp, dormant, mode, ?_⟩
  change _ = marked.key.tamper
  have hreported : reported.key.tamper = marked.key.tamper := congrArg Key.tamper (keyEvent_key ..)
  have hheld : held.key.tamper = marked.key.tamper := (hwipes ..).trans ((abortKey_tamper ..).trans hreported)
  have henters : (enterMode .hold held).key = held.key := by simp
  (repeat' split)
  · rfl
  · rw [henters, hheld]
  · exact hheld
  · rw [abortKey_tamper, hreported]

/-- A detection is counted, and it is latched or due. -/
theorem noteTamper_counts (cause : Nat) (t : Tamper) (startUp dormant : Bool) (mode time : Nat) :
    let u := noteTamper cause t startUp dormant mode time
    u.loopBad = t.loopBad ∧ u.count = sat 16 t.count 1 ∧ (u.latched = true ∨ u.due = true) := by
  unfold noteTamper
  dsimp only
  split
  next h => exact ⟨rfl, rfl, by simpa using h⟩
  next => cases dormant <;> simp

/-- The sample's reading of the loop (R481). -/
theorem loopBad_iff (x : Nat) :
    decide ((if x > 20000 then 1 else if x < 5000 then 2 else 0) ≠ 0) = decide (x < 5000 ∨ 20000 < x) := by
  refine decide_eq_decide.mpr ?_
  split
  · omega
  · split <;> omega

theorem exec_tamperSample {s : State} (hvalid : s.rtc.valid = true) (x : Nat) :
    let cause := if x > 20000 then 1 else if x < 5000 then 2 else 0
    let t : State := { s with key := { s.key with tamper := { s.key.tamper with loopBad := decide (x < 5000 ∨ 20000 < x) } } }
    exec (.tamperSample x) s = if cause = 0 || !s.rtc.tamperEn then .next t else .next (detect cause t) := by
  intro cause t
  change execTamperSample x s = _
  unfold execTamperSample
  rw [if_neg (by simp [hvalid])]
  dsimp only
  rw [loopBad_iff]
  rfl

/-- Settles O43: masking by `cellKey_masked`, a tamper by `detect_tamper`. -/
theorem keyMaskingAndTamper : Obligations.KeyMaskingAndTamper := by
  unfold Obligations.KeyMaskingAndTamper
  refine ⟨fun s hready hsource => ?_, fun _ _ => rfl, fun _ => ⟨rfl, rfl⟩, fun s => ?_, fun x s hvalid hquiet => ?_,
    fun x s hvalid => if_pos (by simp [hvalid]), fun x s hvalid hon hbad => ?_⟩
  case refine_1 =>
    have hexec : exec .keyRemask s = _ := if_neg (by simp [hready, hsource])
    exact ⟨_, hexec, fun i => cellKey_masked
      (fun i c => c.used && !c.wiped && !(s.key.running.elim [] (fun r => requestCells r.op)).contains i)
      (fun i => BitVec.ofNat 512 (Config.freeValue (s.fresh + i))) s.key i, rfl, rfl⟩
  case refine_2 => exact ⟨_, _, rfl, Nat.mod_lt _ (by decide), rfl⟩
  case refine_3 =>
    rw [exec_tamperSample hvalid]
    refine if_pos ?_
    rcases hquiet with hoff | ⟨hlow, hhigh⟩
    · simp [hoff]
    · simp [Nat.not_lt.mpr hlow, Nat.not_lt.mpr hhigh]
  case refine_4 =>
    have hcause : (if x > 20000 then 1 else if x < 5000 then 2 else 0) ≠ 0 :=
      of_decide_eq_true ((loopBad_iff x).trans (decide_eq_true hbad))
    refine ⟨_, (exec_tamperSample hvalid x).trans (if_neg (by simpa [hon] using hcause)), ?_⟩
    obtain ⟨startUp, dormant, mode, htamper⟩ := detect_tamper (if x > 20000 then 1 else if x < 5000 then 2 else 0)
      { s with key := { s.key with tamper := { s.key.tamper with loopBad := decide (x < 5000 ∨ 20000 < x) } } }
    obtain ⟨hloop, hcount, hheld⟩ := noteTamper_counts (if x > 20000 then 1 else if x < 5000 then 2 else 0)
      { s.key.tamper with loopBad := decide (x < 5000 ∨ 20000 < x) } startUp dormant mode s.rtc.seconds
    rw [htamper]
    exact ⟨hloop.trans (decide_eq_true hbad), hcount, hheld, by simp, by simp, by simp⟩

end Sys2Proof.Machine
end

section
/-! PROOFS. The tree of modules, sessions and causes (R522 to R533), for O48. -/
namespace Sys2Proof.Machine

/-! ### What an occurrence leaves of the link -/

/-- What the forwarding of a record leaves of the HIE block (R524, R531): everything but the egress arbiter and its drops, as
far as the tree and the causes are concerned. -/
abbrev Hie.KeepsTree (t h : Hie) : Prop :=
  t.role = h.role ∧ t.node = h.node ∧ t.parent = h.parent ∧ t.children = h.children ∧ t.peers = h.peers ∧
    t.causes = h.causes ∧ t.ignored = h.ignored ∧ t.sent = h.sent

theorem noteArbBy_keepsTree {note : Occ → State → State} (hnote : ∀ o s, (note o s).hie.KeepsTree s.hie) (m : Marzin)
    (dropped full : Bool) (s : State) : (noteArbBy note m dropped full s).hie.KeepsTree s.hie := by
  unfold noteArbBy
  dsimp only
  (repeat' split) <;> simp [Hie.KeepsTree, hnote, modHie]

theorem sendUpBy_keepsTree {note : Occ → State → State} (hnote : ∀ o s, (note o s).hie.KeepsTree s.hie) (m : Marzin)
    (s : State) : (sendUpBy note m s).hie.KeepsTree s.hie := by
  unfold sendUpBy
  exact noteArbBy_keepsTree hnote ..

theorem forwardBy_keepsTree {note : Occ → State → State} (hnote : ∀ o s, (note o s).hie.KeepsTree s.hie) (before : Nat)
    (s : State) : (forwardBy note before s).hie.KeepsTree s.hie := by
  have hown (d : Nat) (b : Bool) (x : MarzinBody) (s : State) : (ownUpBy note d b x s).hie.KeepsTree s.hie := by
    unfold ownUpBy
    split
    · exact sendUpBy_keepsTree hnote ..
    · simp [Hie.KeepsTree]
  unfold forwardBy
  split
  · refine List.foldlRecOn (motive := fun (t : State) => t.hie.KeepsTree s.hie) _ _ (by simp [Hie.KeepsTree]) (fun t ht r _ => ?_)
    split
    · simpa [Hie.KeepsTree, hown] using ht
    · exact ht
  · simp [Hie.KeepsTree]

@[simp] theorem raise_keepsTree (o : Occ) (s : State) : (raise o s).hie.KeepsTree s.hie := by
  have hraise (fuel : Nat) : ∀ (o : Occ) (s : State), (raiseBy fuel o s).hie.KeepsTree s.hie := by
    induction fuel with
    | zero => simp [Hie.KeepsTree, raiseBy]
    | succ n ih =>
      intro o s
      unfold raiseBy
      split
      · simp [Hie.KeepsTree]
      · simp [Hie.KeepsTree, forwardBy_keepsTree ih]
  exact hraise 66 o s

@[simp] theorem hieEvent_keepsTree (code detail : Nat) (s : State) : (hieEvent code detail s).hie.KeepsTree s.hie :=
  raise_keepsTree ..

@[simp] theorem toParent_keepsTree (ackReq : Bool) (body : MarzinBody) (s : State) :
    (toParent ackReq body s).hie.KeepsTree s.hie := by
  unfold toParent sendUp
  exact sendUpBy_keepsTree raise_keepsTree ..

/-! ### Sending and receiving (R523, R525) -/

@[simp] theorem hieSend_children (peer : Nat) (m : Marzin) (s : State) : (hieSend peer m s).hie.children = s.hie.children := rfl

@[simp] theorem ownDown_children (child : Nat) (ackReq : Bool) (body : MarzinBody) (s : State) :
    (ownDown child ackReq body s).hie.children = s.hie.children := rfl

@[simp] theorem sendAck_children (peer cls seq status : Nat) (s : State) :
    (sendAck peer cls seq status s).hie.children = s.hie.children := by
  unfold sendAck
  dsimp only
  split <;> simp [modHie]

/-- What a module leaves that has handled the first copy of a message: its ACK has been sent where one was asked for. -/
def answered (h : MarzinHead) (cls : Nat) (r : Nat × State) : State :=
  if h.ackReq then sendAck h.sender cls h.seq r.1 r.2 else r.2

@[simp] theorem answered_children (h : MarzinHead) (cls : Nat) (r : Nat × State) :
    (answered h cls r).hie.children = r.2.hie.children := by
  unfold answered
  split <;> simp

@[simp] theorem answered_frame (h : MarzinHead) (cls : Nat) (r : Nat × State) : (answered h cls r).OnlyFreshEvrHie r.2 := by
  unfold answered
  split <;> simp [State.OnlyFreshEvrHie]

/-- The first copy of a message of a session is handled (R525). -/
theorem receive_first {h : MarzinHead} {session : Bool} {s : State} (cls : Nat) (handle : State → Nat × State)
    (hrole : s.hie.role ≠ 0) (henabled : s.enabled.contains .hie = true) (hvalid : h.valid = true)
    (hsession : (session || isParent s h.sender || isChild s h.sender) = true)
    (hahead : seqAhead ((tget s.hie.peers h.sender).getD {}).rx h.seq = true) :
    receive h session cls handle s = answered h cls (handle (noteAccepted h s)) := by
  have hon : (s.hie.role = 0 || !s.enabled.contains .hie) = false := by
    rw [henabled]
    simp [hrole]
  have hgood : (!h.valid || !(session || isParent s h.sender || isChild s h.sender)) = false := by simp [hvalid, hsession]
  unfold receive
  rw [hon, if_neg Bool.false_ne_true, hgood, if_neg Bool.false_ne_true, if_pos hahead]
  rfl

theorem onlyLink_of_frame {t s : State} (h : t.OnlyFreshEvrHie s) : OnlyLink s t := State.eq_of_event h

/-! ### Joining (R522, R533) -/

/-- The children once a module has been admitted. -/
def admitted (c : Child) (l : List Child) : List Child :=
  if l.any (·.node = c.node) then l.map (fun x => if x.node = c.node then c else x) else l ++ [c]

theorem mem_admitted_self (c : Child) (l : List Child) : c ∈ admitted c l := by
  unfold admitted
  split
  next h =>
    obtain ⟨x, hx, hnode⟩ := List.any_eq_true.mp h
    exact List.mem_map.mpr ⟨x, hx, if_pos (of_decide_eq_true hnode)⟩
  next => simp

theorem mem_admitted_other {c x : Child} {l : List Child} (hx : x ∈ l) (hnode : x.node ≠ c.node) : x ∈ admitted c l := by
  unfold admitted
  split
  · exact List.mem_map.mpr ⟨x, hx, if_neg hnode⟩
  · exact List.mem_append_left _ hx

theorem admitChild_children (node role : Nat) (ident : List Byte) (s : State) : (admitChild node role ident s).hie.children =
    admitted { node := node, role := role, identity := ident } s.hie.children := by
  unfold admitChild admitted
  simp [agreeKey, modHie]

/-- A join that is received reaches the tree. -/
theorem exec_join {h : MarzinHead} {a : AlignMsg} {s : State} (hrole : s.hie.role ≠ 0) (henabled : s.enabled.contains .hie = true)
    (hvalid : h.valid = true) (hjoin : a.kind = .join true) (hparent : isParent s h.sender = false)
    (hahead : seqAhead ((tget s.hie.peers h.sender).getD {}).rx h.seq = true) :
    exec (.marzinAlign h a) s = .next (answered h 1 (0, joinChild h.sender a true (noteAccepted h s))) := by
  have hstarts : startsSession s h a.kind = true := by simp [startsSession, hjoin, hparent]
  have hhandle : handleAlign h a (noteAccepted h s) = joinChild h.sender a true (noteAccepted h s) := by
    rw [handleAlign, hjoin]
  rw [← hhandle]
  exact congrArg Host.Outcome.next (receive_first 1 _ hrole henabled hvalid (by simp [hstarts]) hahead)

/-- Of a refused join the children know nothing. -/
theorem joinChild_refused {node : Nat} {a : AlignMsg} {s : State} (h : joinReason s node a.role a.identity true ≠ 0) :
    (joinChild node a true s).hie.children = s.hie.children ∧ (joinChild node a true s).OnlyFreshEvrHie s := by
  rw [joinChild, if_neg h]
  simp [State.OnlyFreshEvrHie]

/-! ### Beats and sessions (R525, R526) -/

/-- A fold of sendings down sends one message for each element. -/
theorem foldl_ownDown_sent (f : Child → State → State) (hf : ∀ c s, (f c s).hie.sent.length = s.hie.sent.length + 1 ∧
    (f c s).hie.children = s.hie.children) (l : List Child) (s : State) :
    (l.foldl (fun s c => f c s) s).hie.sent.length = s.hie.sent.length + l.length ∧
      (l.foldl (fun s c => f c s) s).hie.children = s.hie.children := by
  induction l generalizing s with
  | nil => simp
  | cons c l ih =>
    obtain ⟨hlen, hchildren⟩ := ih (f c s)
    simp only [List.foldl_cons, hlen, hchildren, hf, List.length_cons, and_true]
    omega

theorem endSession_rx (n : Nat) (s : State) : ((tget (endSession n s).hie.peers n).getD {}).rx = none := by
  simp [endSession, modHie]

theorem endSession_other {n k : Nat} (s : State) (h : k ≠ n) : tget (endSession n s).hie.peers k = tget s.hie.peers k :=
  tget_tset_other _ _ h

/-- The children once one is lost. -/
def markLost (n : Nat) (l : List Child) : List Child := l.map (fun c => if c.node = n then { c with lost := true } else c)

theorem lost_of_mem_markLost {n : Nat} {c : Child} {l : List Child} (hc : c ∈ markLost n l) (hnode : c.node = n) :
    c.lost = true := by
  obtain ⟨x, -, rfl⟩ := List.mem_map.mp hc
  split at hnode
  next h => rw [if_pos h]
  next h => exact absurd hnode h

theorem mem_markLost_other {n : Nat} {c : Child} {l : List Child} (hc : c ∈ l) (hnode : c.node ≠ n) : c ∈ markLost n l :=
  List.mem_map.mpr ⟨c, hc, if_neg hnode⟩

theorem exec_childLost {n : Nat} {s : State} (h : s.hie.children.any (fun c => c.node = n && !c.lost) = true) :
    exec (.childLost n) s = .next (endSession n (hieEvent 0xF005 n
      (modHie (fun h => { h with children := markLost n h.children }) s))) := if_pos h

/-- A message that goes first enters the egress arbiter without an event (R531). -/
theorem sendUp_first {m : Marzin} (h : goesFirst m = true) (s : State) :
    (sendUp m s).hie.egress = (arbPush s.hie.egress m).1 := by
  have hpush : arbPush s.hie.egress m = ({ s.hie.egress with first := s.hie.egress.first ++ [m] }, false, false) := if_pos h
  unfold sendUp sendUpBy
  dsimp only
  rw [hpush]
  rfl

/-! ### Causes (R529, R530) -/

theorem foldl_hieSend_hie (m : Marzin) (l : List Child) (s : State) :
    let t := l.foldl (fun (s : State) c => hieSend c.node m s) s
    t.hie.causes = s.hie.causes ∧ t.hie.ignored = s.hie.ignored ∧ t = { s with hie := t.hie } ∧
      t.hie.sent.map (fun x => (x.peer, x.msg.body)) =
        s.hie.sent.map (fun x => (x.peer, x.msg.body)) ++ l.map (fun c => (c.node, m.body)) := by
  induction l generalizing s with
  | nil => exact ⟨rfl, rfl, rfl, (List.append_nil _).symm⟩
  | cons c l ih =>
    obtain ⟨hcauses, hignored, hframe, hsent⟩ := ih (hieSend c.node m s)
    refine ⟨hcauses, hignored, hframe, hsent.trans ?_⟩
    simp [hieSend, modHie]

/-- A CAUSE of the parent is taken, and goes on to every child. -/
theorem exec_marzinCause {h : MarzinHead} {tn : Nat} {l : List (Nat × BitVec 64)} {s : State}
    (henabled : s.enabled.contains .hie = true) (hvalid : h.valid = true) (hquiet : h.ackReq = false)
    (hparent : isParent s h.sender = true) (hahead : seqAhead ((tget s.hie.peers h.sender).getD {}).rx h.seq = true) :
    let t := (acceptCause tn h.stamp l (noteAccepted h s)).2
    exec (.marzinCause h tn l) s =
      .next (t.hie.children.foldl (fun (s : State) c => hieSend c.node (asMarzin h (.cause tn l)) s) t) := by
  have hrole : s.hie.role = 1 ∨ s.hie.role = 3 := by
    simp only [isParent, Bool.and_eq_true, Bool.or_eq_true, decide_eq_true_eq] at hparent
    exact hparent.1
  have hself : ¬ (s.hie.role = 2 && fromSelf s h) = true := by
    rcases hrole with hrole | hrole
    · simp [hrole]
    · simp [hrole]
  have hhandle : isParent (noteAccepted h s) h.sender = true := hparent
  have hreceives := receive_first (session := false) 6 (fun s =>
      if isParent s h.sender then
        ((acceptCause tn h.stamp l s).1, (acceptCause tn h.stamp l s).2.hie.children.foldl
          (fun (s : State) c => hieSend c.node (asMarzin h (.cause tn l)) s) (acceptCause tn h.stamp l s).2)
      else (0, s)) (by omega) henabled hvalid (by simp [hparent]) hahead
  rw [if_pos hhandle, answered, if_neg (by simp [hquiet])] at hreceives
  intro t
  have hexec : exec (.marzinCause h tn l) s = .next _ := if_neg hself
  exact hexec.trans (congrArg Host.Outcome.next hreceives)

/-- An accepted CAUSE: its known entries wait, in order. -/
theorem acceptCause_accepted {tn stamp : Nat} {l : List (Nat × BitVec 64)} {s : State}
    (h : causeReason s tn (l.filter (fun e => (causePoint s.drw.image e.1).isSome)).length = 0) :
    let known := l.filter (fun e => (causePoint s.drw.image e.1).isSome)
    let t := (acceptCause tn stamp l s).2
    t.hie.causes.map (fun p => (p.cause, p.value, p.applyTn)) =
        s.hie.causes.map (fun p => (p.cause, p.value, p.applyTn)) ++ known.map (fun e => (e.1, e.2, tn)) ∧
      t.hie.ignored = sat 8 s.hie.ignored (l.length - known.length) ∧ t = { s with hie := t.hie } := by
  unfold acceptCause
  dsimp only
  rw [if_neg (not_not_intro h)]
  refine ⟨?_, rfl, rfl⟩
  simp [modHie, Function.comp_def]

theorem acceptCause_refused {tn stamp : Nat} {l : List (Nat × BitVec 64)} {s : State}
    (h : causeReason s tn (l.filter (fun e => (causePoint s.drw.image e.1).isSome)).length ≠ 0) :
    (acceptCause tn stamp l s).2.hie.causes = s.hie.causes := by
  unfold acceptCause
  dsimp only
  rw [if_pos h]
  simp

/-- Settles O48: a join by `admitChild_children`, losses by `markLost` and `endSession_rx`, causes by `acceptCause_accepted` and
what a fold of sendings keeps. The ends of sessions, PARENT_LOST clearing ADMITTED and LEVEL, CAUSE from the parent only and the
manager's own form are the model's choices (log entry 18). -/
theorem treeAndCauses : Obligations.TreeAndCauses := by
  unfold Obligations.TreeAndCauses
  refine ⟨fun h a s hrole henabled hvalid hjoin hparent hahead => ⟨fun hadmits => ?_, fun hrefuses => ?_⟩, fun s henabled => ?_,
    fun s hrole hadmitted hheard => if_pos ?_, fun n s => ⟨endSession_rx n s, fun q => ?_, fun k hk => endSession_other s hk, rfl⟩,
    fun n s hlost => ?_, fun n s hquiet => if_neg (by simp [hquiet]), fun s hrole hadmitted henabled => ?_,
    fun s hadmitted => if_neg (by simp [hadmitted]),
    fun h tn l s hrole henabled hvalid hquiet hparent hahead => ⟨fun haccepts => ?_, fun hrefuses => ?_⟩,
    fun h tn l s hrole hself => ?_⟩
  case refine_1 =>
    have hchildren : (joinChild h.sender a true (noteAccepted h s)).hie.children =
        admitted { node := h.sender, role := a.role, identity := a.identity } s.hie.children := by
      rw [joinChild, if_pos (show joinReason (noteAccepted h s) h.sender a.role a.identity true = 0 from hadmits), admitChild_children]
      rfl
    refine ⟨_, exec_join hrole henabled hvalid hjoin hparent hahead, ?_, fun c hc hnode => ?_, ?_⟩
    · rw [answered_children, hchildren]
      exact ⟨_, mem_admitted_self _ _, rfl, rfl, rfl, rfl⟩
    · rw [answered_children, hchildren]
      exact mem_admitted_other hc hnode
    · exact State.eq_of_fields (by simp [State.OnlyFreshEvrHie]) rfl rfl rfl
  case refine_2 =>
    obtain ⟨hchildren, hframe⟩ := joinChild_refused (s := noteAccepted h s) hrefuses
    refine ⟨_, exec_join hrole henabled hvalid hjoin hparent hahead, (answered_children ..).trans hchildren, ?_⟩
    exact State.eq_of_fields (by simp [State.OnlyFreshEvrHie, hframe]) rfl rfl rfl
  case refine_3 =>
    have hexec : exec .alignHeartbeat s = .next _ := if_pos henabled
    obtain ⟨hsent, hchildren⟩ := foldl_ownDown_sent (fun c s => ownDown c.node false (ownAlign .beat s) s)
      (fun c s => ⟨by simp [ownDown, hieSend, modHie], rfl⟩) s.hie.children s
    have hframe := foldl_OnlyFreshHie _ (fun s (c : Child) => ownDown_frame c.node false (ownAlign .beat s) s) s.hie.children s
    exact ⟨_, hexec, hsent, hchildren, State.eq_of_fields (by simp [State.OnlyFreshEvrHie, hframe]) rfl (by simp [hframe]) rfl⟩
  case refine_4 => simp [hrole, hadmitted, hheard]
  case refine_5 =>
    rw [endSession_rx]
    rfl
  case refine_6 =>
    have hchildren : (hieEvent 0xF005 n (modHie (fun h => { h with children := markLost n h.children }) s)).hie.children =
        markLost n s.hie.children := by simp [modHie]
    refine ⟨_, exec_childLost hlost, fun c hc hnode => ?_, fun c hc hnode => ?_, endSession_rx n _, ?_⟩
    · exact lost_of_mem_markLost (hchildren ▸ hc) hnode
    · exact hchildren ▸ mem_markLost_other hc hnode
    · exact onlyLink_of_frame (by simp [State.OnlyFreshEvrHie])
  case refine_7 =>
    have hexec : exec .rejoin s = .next _ := if_pos (by simpa [hrole, hadmitted] using henabled)
    exact ⟨_, _, hexec, sendUp_first rfl _, rfl, rfl, rfl, onlyLink_of_frame (by simp [State.OnlyFreshEvrHie])⟩
  case refine_8 =>
    obtain ⟨hcauses, hignored, hframe⟩ := acceptCause_accepted (stamp := h.stamp) (s := noteAccepted h s) haccepts
    obtain ⟨hkept, hcounts, hsends, -⟩ := foldl_hieSend_hie (asMarzin h (.cause tn l))
      (acceptCause tn h.stamp l (noteAccepted h s)).2.hie.children (acceptCause tn h.stamp l (noteAccepted h s)).2
    refine ⟨_, exec_marzinCause henabled hvalid hquiet hparent hahead, ?_, hcounts.trans hignored, ?_⟩
    · rw [hkept]
      exact hcauses
    · rw [hsends, hframe]
      rfl
  case refine_9 =>
    obtain ⟨hkept, -, hsends, -⟩ := foldl_hieSend_hie (asMarzin h (.cause tn l))
      (acceptCause tn h.stamp l (noteAccepted h s)).2.hie.children (acceptCause tn h.stamp l (noteAccepted h s)).2
    refine ⟨_, exec_marzinCause henabled hvalid hquiet hparent hahead,
      hkept.trans (acceptCause_refused (s := noteAccepted h s) hrefuses), ?_⟩
    exact onlyLink_of_frame (by rw [hsends]; simp [State.OnlyFreshEvrHie])
  case refine_10 =>
    have hexec : exec (.marzinCause h tn l) s = .next (originateCause l s) := if_pos (by simp [hrole, hself])
    obtain ⟨hcauses, -, hframe, hsent⟩ := foldl_hieSend_hie
      (ownMsg 0xFF true 0xFFFF (.cause (s.stk.tn + f16 (hieRec s.drw.image) 44) l) s) s.hie.children { s with fresh := s.fresh + 2 }
    have horiginates : originateCause l s = s.hie.children.foldl (fun (t : State) c => hieSend c.node
        (ownMsg 0xFF true 0xFFFF (.cause (s.stk.tn + f16 (hieRec s.drw.image) 44) l) s) t) { s with fresh := s.fresh + 2 } := by
      unfold originateCause originate
      exact if_pos rfl
    rw [← horiginates] at hcauses hframe hsent
    refine ⟨_, hexec, hsent, hcauses, ?_⟩
    rw [hframe]

end Sys2Proof.Machine
end

section
/-! PROOFS. An egress arbiter whose table is full: the event of it is itself forwarded, so that the arbiter holds a message more
than the one that entered it (R524, R531); for O47 and O49. -/
namespace Sys2Proof.Machine

/-! ### A full table -/

/-- An arbiter that tracks drawer 0 of the first `n` nodes, without messages. -/
def tableOf (n : Nat) : Arbiter := { sources := (List.range n).map (fun i => { origin := i, drawer := 0, weight := 1 }) }

/-- The catch-all source with one message. -/
def restWith (m : Marzin) : Source := { origin := catchAll, drawer := 0, weight := 1, queue := [m] }

theorem mem_tableOf {n : Nat} {x : Source} (h : x ∈ (tableOf n).sources) : x.origin < n ∧ x.drawer = 0 ∧ x.queue = [] := by
  obtain ⟨i, hi, rfl⟩ := List.mem_map.mp h
  exact ⟨List.mem_range.mp hi, rfl, rfl⟩

theorem length_tableOf (n : Nat) : (tableOf n).sources.length = n := by simp [tableOf]

/-- The first source of a table is drawer 0 of node 0. -/
theorem tableOf_cons {n : Nat} (h : 0 < n) :
    ∃ rest, (tableOf n).sources = { origin := 0, drawer := 0, weight := 1 } :: rest ∧ rest.length + 1 = n := by
  obtain ⟨k, rfl⟩ := Nat.exists_eq_succ_of_ne_zero h.ne'
  exact ⟨_, congrArg (List.map _) List.range_succ_eq_map, by simp⟩

theorem tracks_tableOf_of_ne {n o d : Nat} (h : n ≤ o ∨ d ≠ 0) : tracks (tableOf n) o d = false := by
  refine List.any_eq_false.mpr fun x hx => ?_
  obtain ⟨horigin, hdrawer, -⟩ := mem_tableOf hx
  simp only [Bool.and_eq_true, decide_eq_true_eq]
  omega

theorem tracked_tableOf {n : Nat} (h : n ≤ catchAll) : tracked (tableOf n) = n := by
  have hall : (tableOf n).sources.filter (fun x => x.origin ≠ catchAll) = (tableOf n).sources := by
    refine List.filter_eq_self.mpr fun x hx => decide_eq_true ?_
    have horigin := (mem_tableOf hx).1
    omega
  rw [tracked, hall, length_tableOf]

/-- A message enters every source of its origin and drawer, whose queues have room. -/
theorem pushSource_room {a : Arbiter} (o d : Nat) (m : Marzin) (h : ∀ x ∈ a.sources, x.queue.length < 64) :
    (pushSource a o d m).1.sources = a.sources.map (fun x =>
      if x.origin = o && x.drawer = d then { x with weight := if o = catchAll then 1 else m.weight, queue := x.queue ++ [m] } else x) ∧
      (pushSource a o d m).2 = true := by
  have hroom : a.sources.any (fun x => x.origin = o && x.drawer = d && x.queue.length ≥ 64) = false := by
    refine List.any_eq_false.mpr fun x hx => ?_
    have hlen := h x hx
    simp only [Bool.and_eq_true, decide_eq_true_eq]
    omega
  unfold pushSource
  dsimp only
  rw [hroom, if_neg Bool.false_ne_true]
  exact ⟨rfl, rfl⟩

section
variable {n : Nat} (hfull : 4096 ≤ n) (hcap : n ≤ catchAll)
include hfull hcap

/-- A message of a source that is not tracked goes to the catch-all of a full table. -/
theorem arbPush_full {m : Marzin} (hlast : goesFirst m = false) (hnew : tracks (tableOf n) m.origin m.drawer = false) :
    (arbPush (tableOf n) m).1.sources = (tableOf n).sources ++ [restWith m] ∧ (arbPush (tableOf n) m).2 = (false, true) := by
  have hrest : withRest (tableOf n) =
      { tableOf n with sources := (tableOf n).sources ++ [{ origin := catchAll, drawer := 0, weight := 1 }] } :=
    if_neg (by simp [tracks_tableOf_of_ne (d := 0) (.inl hcap)])
  obtain ⟨hsources, hroom⟩ := pushSource_room (a := withRest (tableOf n)) catchAll 0 m (by
    rw [hrest]
    intro x hx
    rcases List.mem_append.mp hx with hx | hx
    · simp [(mem_tableOf hx).2.2]
    · simp [List.mem_singleton.mp hx])
  have hpush : arbPush (tableOf n) m = ((pushSource (withRest (tableOf n)) catchAll 0 m).1,
      !(pushSource (withRest (tableOf n)) catchAll 0 m).2, true) := by
    rw [arbPush, hlast, if_neg Bool.false_ne_true, hnew, if_neg Bool.false_ne_true, if_neg (by rw [tracked_tableOf hcap]; omega)]
  have hothers : (tableOf n).sources.map (fun x => if x.origin = catchAll && x.drawer = 0 then
      { x with weight := if catchAll = catchAll then 1 else m.weight, queue := x.queue ++ [m] } else x) = (tableOf n).sources := by
    refine (List.map_congr_left fun x hx => if_neg ?_).trans (List.map_id' _)
    have horigin := (mem_tableOf hx).1
    simp only [Bool.and_eq_true, decide_eq_true_eq]
    omega
  rw [hpush]
  refine ⟨?_, by rw [hroom]; rfl⟩
  rw [hsources, hrest, List.map_append, hothers]
  rfl

/-- What one message does to the full table: it grows by the catch-all only when no tracked source has received it. -/
theorem arbPush_full_head {m : Marzin} {x : Source} {rest : List Source} (h : (arbPush (tableOf n) m).1.sources = x :: rest)
    (hlen : rest.length = n) : x.queue = [] := by
  have hgrown : (arbPush (tableOf n) m).1.sources.length = n + 1 := by rw [h, List.length_cons, hlen]
  cases hlast : goesFirst m with
  | true => simp [arbPush, hlast, length_tableOf] at hgrown
  | false =>
    cases htracked : tracks (tableOf n) m.origin m.drawer with
    | true =>
      obtain ⟨hsources, -⟩ := pushSource_room (a := tableOf n) m.origin m.drawer m (fun x hx => by simp [(mem_tableOf hx).2.2])
      simp [arbPush, hlast, htracked, hsources, length_tableOf] at hgrown
    | false =>
      obtain ⟨hsources, -⟩ := arbPush_full hfull hcap hlast htracked
      obtain ⟨tail, hcons, -⟩ := tableOf_cons (n := n) (by omega)
      rw [hsources, hcons, List.cons_append, List.cons.injEq] at h
      rw [← h.1]

end

/-! ### The event of a full table is forwarded -/

/-- An occurrence that is one record, which is forwarded (R524). -/
theorem raise_forwarded {o : Occ} {s : State} {r : EvRecord} (hcycle : s.evr.cycle = none) (hruns : s.evr.running = true)
    (hforwards : (f8 (hieRec s.drw.image) 42).testBit 0 = true) (hnew : newRecords s.evr.next (enteredEvr o s) = [r])
    (hsevere : f8 (hieRec s.drw.image) 43 ≤ r.severity) : raise o s =
      ownUpBy (raiseBy 65) r.drawer false (.event (recordBytes r) r.recno) { s with evr := enteredEvr o s } := by
  have hrecord : record_ o s = { s with evr := enteredEvr o s } := by simp [record_, hruns, enteredEvr]
  rw [raise_eq hcycle, hrecord, forwardBy, if_pos hforwards, hnew, List.foldl_cons, List.foldl_nil, if_pos hsevere]

/-- A record of this module enters the egress source of its drawer, where that is tracked. -/
theorem ownUpBy_tracked (note : Occ → State → State) {drawer : Nat} (rec_ : List Byte) (n : Nat) {s : State}
    (hup : hasParent s = true) (htracked : tracks s.hie.egress s.hie.node drawer = true) :
    ∃ m, (ownUpBy note drawer false (.event rec_ n) s).hie.egress = (pushSource s.hie.egress s.hie.node drawer m).1 := by
  refine ⟨ownMsg drawer false s.hie.parent (.event rec_ n) s, ?_⟩
  have hpush : arbPush s.hie.egress (ownMsg drawer false s.hie.parent (.event rec_ n) s) =
      ((pushSource s.hie.egress s.hie.node drawer (ownMsg drawer false s.hie.parent (.event rec_ n) s)).1,
        !(pushSource s.hie.egress s.hie.node drawer (ownMsg drawer false s.hie.parent (.event rec_ n) s)).2, false) :=
    (if_neg Bool.false_ne_true).trans (if_pos htracked)
  rw [ownUpBy, if_pos hup]
  unfold sendUpBy noteArbBy
  dsimp only
  rw [hpush, if_neg Bool.false_ne_true]
  split <;> rfl

/-- A record of drawer 0 of node 0 enters the first source of a table, which is its own. -/
theorem ownUpBy_head (note : Occ → State → State) {drawer : Nat} (rec_ : List Byte) (n : Nat) {s : State} {rest : List Source}
    (hup : hasParent s = true) (hnode : s.hie.node = 0) (hdrawer : drawer = 0)
    (hcons : s.hie.egress.sources = { origin := 0, drawer := 0, weight := 1 } :: rest) (hroom : ∀ x ∈ rest, x.queue.length < 64) :
    ∃ x tail, (ownUpBy note drawer false (.event rec_ n) s).hie.egress.sources = x :: tail ∧ tail.length = rest.length ∧
      x.queue ≠ [] := by
  subst hdrawer
  obtain ⟨m, hegress⟩ := ownUpBy_tracked note (drawer := 0) rec_ n hup (by simp [tracks, hcons, hnode])
  obtain ⟨hsources, -⟩ := pushSource_room s.hie.node 0 m (a := s.hie.egress) (by
    rw [hcons]
    intro x hx
    rcases List.mem_cons.mp hx with rfl | hx
    · simp
    · exact hroom x hx)
  rw [hegress, hsources, hcons, hnode, List.map_cons]
  exact ⟨_, _, rfl, List.length_map _, by simp⟩

/-- An image whose link forwards every record (R520); drawer 3, which has every grant, owns task 0. -/
def forwardingImage : List Section := [
  { type := 0x02, flags := 0, count := 1, recSize := 32, body := 3 :: List.replicate 31 0xAA },
  { type := 0x06, flags := 0, count := 1, recSize := 32, body := [0, 3] ++ List.replicate 30 0 },
  { type := 0x0F, flags := 0, count := 1, recSize := 64, body := List.replicate 42 0 ++ [1] ++ List.replicate 21 0 }]

/-- A module of node 0 with a parent, whose egress table is full and whose recorder has just started. -/
structure Crowded (s : State) : Prop where
  egress : s.hie.egress = tableOf 4096
  node : s.hie.node = 0
  up : hasParent s = true
  evr : s.evr = { running := true }
  image : s.drw.image = forwardingImage

/-- The one new record of an occurrence that is written. -/
theorem newRecords_entered {o : Occ} {s : State} (hroom : s.evr.buffer < 256) (hmerges : mergesHead o s.evr = false)
    (hstore : s.evr.records.length < storeCap) (htoken : tnum s.evr.spent o.code < s.evr.burst) (hnext : s.evr.next < 2 ^ 32) :
    newRecords s.evr.next (enteredEvr o s) = [occRecord (trustByte s) (calNow s) o s.evr] := by
  obtain ⟨spent, hentered, -⟩ := enterOcc_writes (brace := s.sys.brace) (trust := trustByte s) (cal := calNow s) (o := o)
    (.inl hroom) hmerges (.inr htoken)
  obtain ⟨hrecords, hcount, -⟩ := writeRecord_room s.sys.brace (trustByte s) (calNow s) o
    (e := { s.evr with buffer := s.evr.buffer + 1, spent := spent }) hstore
  have hone : ((s.evr.next + 1) % 2 ^ 32 + 2 ^ 32 - s.evr.next) % 2 ^ 32 = 1 := by omega
  rw [← hentered] at hrecords hcount
  rw [newRecords, enteredEvr, hrecords, hcount]
  dsimp only
  rw [hone]
  simp [occRecord]

/-- A message that finds the table full: beside it the arbiter holds the forwarded event, in the source of its drawer. -/
theorem sendUp_crowded {m : Marzin} {s : State} (h : Crowded s) (hlast : goesFirst m = false) (hdrawer : m.drawer ≠ 0) :
    ∃ x rest, (sendUp m s).hie.egress.sources = x :: rest ∧ rest.length = 4096 ∧ x.queue ≠ [] := by
  obtain ⟨hsources, hfull⟩ := arbPush_full (n := 4096) (Nat.le_refl _) (by decide) hlast (tracks_tableOf_of_ne (.inr hdrawer))
  have hsend : sendUp m s = raise { code := 0xF009, block := 0x12, detail := m.origin }
      { s with hie := { s.hie with egress := (arbPush (tableOf 4096) m).1 } } := by
    unfold sendUp sendUpBy noteArbBy
    dsimp only
    rw [h.egress, hfull, if_neg Bool.false_ne_true, if_pos rfl]
    rfl
  have hforwarded := raise_forwarded (o := { code := 0xF009, block := 0x12, detail := m.origin })
    (s := { s with hie := { s.hie with egress := (arbPush (tableOf 4096) m).1 } })
    (by rw [h.evr]) (by rw [h.evr]) (by rw [h.image]; decide) (newRecords_entered (by rw [h.evr]; decide) (by rw [h.evr]; rfl) (by rw [h.evr]; decide)
      (by rw [h.evr]; exact (by decide : 0 < 0x40))
      (by rw [h.evr]; decide))
    (by rw [h.image]; exact Nat.zero_le _)
  obtain ⟨tail, hcons, htail⟩ := tableOf_cons (n := 4096) (by decide)
  have hheld : (arbPush (tableOf 4096) m).1.sources = { origin := 0, drawer := 0, weight := 1 } :: (tail ++ [restWith m]) := by
    rw [hsources, hcons, List.cons_append]
  have hroom : ∀ x ∈ tail ++ [restWith m], x.queue.length < 64 := by
    intro x hx
    rcases List.mem_append.mp hx with hx | hx
    · simp [(mem_tableOf (n := 4096) (hcons ▸ List.mem_cons_of_mem _ hx)).2.2]
    · simp [List.mem_singleton.mp hx, restWith]
  rw [hsend, hforwarded]
  obtain ⟨x, rest, hhead, hlen, hqueue⟩ := ownUpBy_head (raiseBy 65) _ _ (s := { s with
    hie := { s.hie with egress := (arbPush (tableOf 4096) m).1 }, evr := enteredEvr _ _ }) h.up h.node rfl hheld hroom
  refine ⟨x, rest, hhead, ?_, hqueue⟩
  rw [hlen, List.length_append, List.length_singleton, htail]

/-! ### The refutations -/

/-- What such a message leaves is what no one message leaves that enters the full table. -/
theorem not_arbPush_of_crowded {m : Marzin} {s : State} (h : Crowded s) (hlast : goesFirst m = false) (hdrawer : m.drawer ≠ 0)
    (m' : Marzin) : (sendUp m s).hie.egress ≠ (arbPush (tableOf 4096) m').1 := by
  intro hone
  obtain ⟨x, rest, hsources, hlen, hqueue⟩ := sendUp_crowded h hlast hdrawer
  rw [hone] at hsources
  exact hqueue (arbPush_full_head (n := 4096) (Nat.le_refl _) (by decide) hsources hlen)

/-- A publication of node 0 to its parent, node 1. -/
def publication : Marzin :=
  { ackReq := true, weight := 1, origin := 0, drawer := 0xFF, dest := 1, via := 0, len := 0, body := .directory (.publish []) }

/-- A worker below node 1: `publication` waits for its ACK, and core 0 drives task 0, of drawer 3. -/
def workerWith (egress : Arbiter) : State := {
  drw := { image := forwardingImage }
  cores := [{ driving := some 0 }]
  stk := { tasks := [{ stroke := some { catchTn := 0, catchEdge := 0, relEdge := 0, snap := [], copies := [{ core := 0 }] } }] }
  evr := { running := true }
  hie := {
    role := 1, parent := 1, admitted := true, egress := egress
    unacked := [{ peer := 1, seq := 0, msg := publication }] } }

/-- The worker with the resend of `publication` counted. -/
def resending (egress : Arbiter) : State := { workerWith egress with hie := { (workerWith egress).hie with
  retries := 1, unacked := [{ peer := 1, seq := 0, msg := publication, tries := 1 }] } }

theorem exec_resend (egress : Arbiter) : exec (.marzinResend 1 0) (workerWith egress) =
    .next (sendUp { publication with again := some 0 } (resending egress)) := rfl

/-- The request of drawer 3 for point 0 of node 9. -/
def readRequest (egress : Arbiter) : Marzin :=
  { ownMsg 3 true 9 (.directory (.request 0 (tenantOf forwardingImage 3) false 9 0)) (workerWith egress) with dest := 1 }

/-- The worker with that read waiting. -/
def reading (egress : Arbiter) : State := { workerWith egress with
  fresh := 2, hie := { (workerWith egress).hie with waits := [{ core := 0, slot := 0, node := 9, point := 0 }] } }

theorem exec_read (egress : Arbiter) :
    exec (.dirRead 0 9 0) (workerWith egress) = .next (sendUp (readRequest egress) (reading egress)) := rfl

/-- Refutes O47: a resend toward the parent that finds the egress table full raises 0xF009, and EVENT_FWD forwards that event
through the same arbiter, which then holds more than the one message of the resend. -/
theorem not_marzinReceipt : ¬ Obligations.MarzinReceipt := by
  unfold Obligations.MarzinReceipt
  rintro ⟨-, -, -, -, -, -, -, -, -, -, hresend, -⟩
  obtain ⟨t, hexec, -, hegress, -⟩ := hresend 1 0 _ (workerWith (tableOf 4096)) rfl rfl (by decide)
  obtain rfl := Host.Outcome.next.inj ((exec_resend _).symm.trans hexec)
  exact not_arbPush_of_crowded ⟨rfl, rfl, rfl, rfl, rfl⟩ rfl (by decide) _ hegress

/-- Refutes O49: a read of another module's point that finds the egress table full raises 0xF009, and EVENT_FWD forwards that
event through the same arbiter, which then holds more than any one message leaves there. -/
theorem not_directoryAndOrders : ¬ Obligations.DirectoryAndOrders := by
  unfold Obligations.DirectoryAndOrders
  rintro ⟨-, -, -, hread, -⟩
  obtain ⟨t, m, hexec, -, -, hegress, -⟩ := (hread 0 9 0 0 _ _ (workerWith (tableOf 4096)) rfl (by decide) (.inl rfl) (by decide)).1 rfl
  obtain rfl := Host.Outcome.next.inj ((exec_read _).symm.trans hexec)
  exact not_arbPush_of_crowded ⟨rfl, rfl, rfl, rfl, rfl⟩ rfl (by decide) _ hegress

end Sys2Proof.Machine
end
